-- ==== Sys2Proof/Word.lean ====
section
/-!
DEFINITION. Sys2Proof/Word.lean: the words the module's software sees, the identifiers of R15, R19 and R20, and the
sorted table that holds sparse data (registers, per-core records, memory bytes).
-/
namespace Sys2Proof

/-- A 64-bit register, scalar register or field of a packet (R9: little-endian in memory). -/
abbrev Word := BitVec 64
/-- One byte of memory. -/
abbrev Byte := BitVec 8
/-- A core ID: die, region, cluster and core fields of R15. -/
abbrev CoreId := BitVec 10
/-- A die number (R13). -/
abbrev DieId := BitVec 2
/-- A region number RG0 to RG15, die × 4 + region (R15). -/
abbrev RegionId := BitVec 4
/-- A cluster number within the module, bits 9:4 of its cores' IDs (R15). -/
abbrev ClusterId := BitVec 6
/-- A sync object ID (R19). -/
abbrev ObjId := BitVec 18
/-- A submission and completion ring number. -/
abbrev RingId := BitVec 6
/-- A 512-bit command packet: 64 bytes, byte 0 in bits 7:0 (R9). -/
abbrev Packet := BitVec 512
/-- Sparse data by key, in rising order of the key. -/
abbrev Tab (α : Type) := List (Nat × α)

end Sys2Proof
end

