-- ==== Sys2Proof/Syntax.lean ====
section
/-!
DEFINITION. Sys2Proof/Syntax.lean: the commands of the module, one constructor per row of the table of operations. A
core instruction carries the core that issues it and its whole 64-bit word (R162); a host command carries the submission ring it
is consumed from, in which its packet lies (R433, R437); an event carries what the hardware or a sender of it decides.
-/
namespace Sys2Proof

/-- A lottery draw (R257): the die, the instance numbered as for ARB_SEED_i (R260), and the slots that ask with the class
each request carries. -/
structure Draw where
  d : DieId
  inst : BitVec 9
  asking : List (BitVec 9 × BitVec 2)
  deriving DecidableEq, Repr

/-- A block of a stream ring that goes on (R217): its place among those in flight, and the draws of the clocks before it. -/
structure BlockStep where
  i : BitVec 12
  draws : List Draw
  deriving DecidableEq, Repr

/-- A received Dziari or twin frame (R349, R377): the fields of its header but the type, which its row gives, the source MAC
address, and its payload. -/
structure Frame where
  flags : BitVec 8
  chan : BitVec 6
  group : BitVec 4
  psn : BitVec 32
  apsn : BitVec 32
  srank : BitVec 16
  tag : BitVec 16
  rsn : BitVec 32
  seg : BitVec 32
  cgrant : BitVec 16
  attempt : BitVec 3
  epoch : BitVec 32
  src : BitVec 48
  data : List Byte
  deriving DecidableEq, Repr


/-- What firmware reads at a tick (R398, R401, R402, R408), averaged or summed over the last tick: input voltage in mV, current in
10 mA, input and output power in W, power of the loads that are not regions in W, input energy in mJ, each region's energy in
tokens, the latest readings of the sensors in 1/16 °C, die × 64 + sensor, and the cores whose engines have reported HW_ERROR since the
last tick (R284). -/
structure Telemetry where
  volts : BitVec 16
  amps : BitVec 16
  watts : BitVec 16
  out : BitVec 16
  other : BitVec 16
  energy : BitVec 32
  regions : List (BitVec 16)
  temps : List (BitVec 16)
  hwErr : List (BitVec 10) := []
  deriving DecidableEq, Repr

/-- Who writes a register (R10, R423, R525): the host through BAR0, firmware, or a board controller over the SMBus, whose packet
error code is right or not. -/
inductive Writer
  | host | firmware | smbus (pec : Bool)
  deriving DecidableEq, Repr

/-- The commands, in the table's order. -/
inductive Instr
  /-- R165: Scalar ALU opcode 0x00 writes a + b to g[RD]. -/
  | add (c : CoreId) (w : Word)
  /-- R165: Scalar ALU opcode 0x01 writes a − b to g[RD]. -/
  | sub (c : CoreId) (w : Word)
  /-- R165: Scalar ALU opcode 0x02 writes the bitwise AND to g[RD]. -/
  | and (c : CoreId) (w : Word)
  /-- R165: Scalar ALU opcode 0x03 writes the bitwise OR to g[RD]. -/
  | or (c : CoreId) (w : Word)
  /-- R165: Scalar ALU opcode 0x04 writes the bitwise XOR to g[RD]. -/
  | xor (c : CoreId) (w : Word)
  /-- R165: Scalar ALU opcode 0x05 shifts left by bits 5:0 of the second source. -/
  | sll (c : CoreId) (w : Word)
  /-- R165: Scalar ALU opcode 0x06 shifts right with zero fill. -/
  | srl (c : CoreId) (w : Word)
  /-- R165: Scalar ALU opcode 0x07 shifts right with sign fill. -/
  | sra (c : CoreId) (w : Word)
  /-- R165: Scalar ALU opcode 0x08 writes 1 when a < b signed, else 0. -/
  | slt (c : CoreId) (w : Word)
  /-- R165: Scalar ALU opcode 0x09 writes 1 when a < b unsigned, else 0. -/
  | sltu (c : CoreId) (w : Word)
  /-- R165: Scalar ALU opcode 0x0A writes the signed minimum. -/
  | min (c : CoreId) (w : Word)
  /-- R165: Scalar ALU opcode 0x0B writes the signed maximum. -/
  | max (c : CoreId) (w : Word)
  /-- R165: Scalar ALU opcode 0x0C writes the unsigned minimum. -/
  | minu (c : CoreId) (w : Word)
  /-- R165: Scalar ALU opcode 0x0D writes the unsigned maximum. -/
  | maxu (c : CoreId) (w : Word)
  /-- R165: Scalar ALU opcode 0x10 writes the low 64 bits of a × b after 3 clocks. -/
  | mul (c : CoreId) (w : Word)
  /-- R165: Scalar ALU opcode 0x11 writes the high 64 bits of the unsigned product. -/
  | mulhu (c : CoreId) (w : Word)
  /-- R165: Scalar ALU opcode 0x12 divides unsigned, giving all ones when b = 0. -/
  | divu (c : CoreId) (w : Word)
  /-- R165: Scalar ALU opcode 0x13 gives the unsigned remainder, or a when b = 0. -/
  | remu (c : CoreId) (w : Word)
  /-- R165: Scalar ALU opcode 0x18 places IMM in the upper 32 bits over the low half of a. -/
  | movhi (c : CoreId) (w : Word)
  /-- R166: Branches by OFF × 8 when g[RA] equals g[RB]. -/
  | beq (c : CoreId) (w : Word)
  /-- R166: Branches when g[RA] differs from g[RB]. -/
  | bne (c : CoreId) (w : Word)
  /-- R166: Branches when g[RA] < g[RB] signed. -/
  | blt (c : CoreId) (w : Word)
  /-- R166: Branches when g[RA] ≥ g[RB] signed. -/
  | bge (c : CoreId) (w : Word)
  /-- R166: Branches when g[RA] < g[RB] unsigned. -/
  | bltu (c : CoreId) (w : Word)
  /-- R166: Branches when g[RA] ≥ g[RB] unsigned. -/
  | bgeu (c : CoreId) (w : Word)
  /-- R166: Links PC + 8 into g[RD] and jumps PC-relative. -/
  | jal (c : CoreId) (w : Word)
  /-- R166: Links PC + 8 and jumps to g[RA] + OFF × 8 with bits 2:0 cleared. -/
  | jalr (c : CoreId) (w : Word)
  /-- R167: Loads a zero-extended byte into g[RD]. -/
  | ld8u (c : CoreId) (w : Word)
  /-- R167: Loads a zero-extended halfword into g[RD]. -/
  | ld16u (c : CoreId) (w : Word)
  /-- R167: Loads a zero-extended word into g[RD]. -/
  | ld32u (c : CoreId) (w : Word)
  /-- R167: Loads a doubleword into g[RD]. -/
  | ld64 (c : CoreId) (w : Word)
  /-- R167: Loads a sign-extended byte into g[RD]. -/
  | ld8s (c : CoreId) (w : Word)
  /-- R167: Loads a sign-extended halfword into g[RD]. -/
  | ld16s (c : CoreId) (w : Word)
  /-- R167: Loads a sign-extended word into g[RD]. -/
  | ld32s (c : CoreId) (w : Word)
  /-- R168: Stores a byte to the core's own scratch, faulting PERMISSION elsewhere. -/
  | st8 (c : CoreId) (w : Word)
  /-- R168: Stores a halfword to the core's own scratch. -/
  | st16 (c : CoreId) (w : Word)
  /-- R168: Stores a word to the core's own scratch. -/
  | st32 (c : CoreId) (w : Word)
  /-- R168: Stores a doubleword to the core's own scratch. -/
  | st64 (c : CoreId) (w : Word)
  /-- R120: Plain tile load of the effective shape from base + r × stride into tile T. -/
  | tld (c : CoreId) (w : Word)
  /-- R82: Transposing tile load writing tile[r][c] = source[c][r]. -/
  | tldt (c : CoreId) (w : Word)
  /-- R122: Tile store of T to the core's own scratch in ascending row order. -/
  | tst (c : CoreId) (w : Word)
  /-- R170: Matrix operation TD ← TA × active set in overwrite mode on the named array. -/
  | mmul (c : CoreId) (w : Word)
  /-- R170: Matrix operation TD ← TD + TA × active set in accumulate mode, with forwarding on one array. -/
  | mmac (c : CoreId) (w : Word)
  /-- R56: Shadow load of a stationary tile with format and scale bytes into the array's shadow set. -/
  | sload (c : CoreId) (w : Word)
  /-- R57: Leapfrog swap flipping the set-select tag for rows entering afterwards. -/
  | swap (c : CoreId) (w : Word)
  /-- R66: Form switch of one array between normal and tadpole form, invalidating both sets. -/
  | form (c : CoreId) (w : Word)
  /-- R42: A matrix operation converts its accumulators and writes its destination tile, completing it. -/
  | mtxWritePhase (c : CoreId) (a : BitVec 2)
  /-- R56: A shadow load writes its last cell row and the shadow set becomes valid. -/
  | shadowLoadDone (c : CoreId) (a : BitVec 2)
  /-- R59: A stalled swap takes effect the clock after its shadow load finishes. -/
  | swapTakesEffect (c : CoreId) (a : BitVec 2)
  /-- R66: A form switch completes after 64 clocks and the array's form changes. -/
  | formSwitchDone (c : CoreId) (a : BitVec 2)
  /-- R124: A tile load's destination becomes VALID after its last row is written. -/
  | tileLoadComplete (c : CoreId) (t : BitVec 5)
  /-- R124: A tile store completes when its last row is written to scratch. -/
  | tileStoreComplete (c : CoreId) (t : BitVec 5)
  /-- R144: Vector elementwise a + b. -/
  | vecAdd (c : CoreId) (w : Word)
  /-- R144: Vector elementwise a − b. -/
  | vecSub (c : CoreId) (w : Word)
  /-- R144: Vector elementwise a × b. -/
  | vecMul (c : CoreId) (w : Word)
  /-- R144: Vector fused a × b + c with one rounding. -/
  | fma (c : CoreId) (w : Word)
  /-- R144: Vector fused a × b − c. -/
  | fms (c : CoreId) (w : Word)
  /-- R144: Vector fused −(a × b) + c. -/
  | fnma (c : CoreId) (w : Word)
  /-- R146: Vector elementwise minimum under MMNUM. -/
  | vecMin (c : CoreId) (w : Word)
  /-- R146: Vector elementwise maximum under MMNUM. -/
  | vecMax (c : CoreId) (w : Word)
  /-- R152: Vector compare writing a mask register under the selected predicate. -/
  | cmp (c : CoreId) (w : Word)
  /-- R174: Vector select of b or c by the selector mask. -/
  | sel (c : CoreId) (w : Word)
  /-- R144: UNARY function 0: copy or convert a. -/
  | mov (c : CoreId) (w : Word)
  /-- R144: UNARY function 1: absolute value. -/
  | abs (c : CoreId) (w : Word)
  /-- R144: UNARY function 2: negation. -/
  | neg (c : CoreId) (w : Word)
  /-- R145: TRN function 0: reciprocal. -/
  | rcp (c : CoreId) (w : Word)
  /-- R145: TRN function 1: reciprocal square root. -/
  | rsq (c : CoreId) (w : Word)
  /-- R145: TRN function 2: correctly rounded square root. -/
  | sqrt (c : CoreId) (w : Word)
  /-- R145: TRN function 3: 2^a. -/
  | exp2 (c : CoreId) (w : Word)
  /-- R145: TRN function 4: log2 a. -/
  | log2 (c : CoreId) (w : Word)
  /-- R148: Reduces each row across its columns into a rows × 1 tile by the fixed tree. -/
  | redr (c : CoreId) (w : Word)
  /-- R148: Reduces each column down its rows into a 1 × cols tile. -/
  | redc (c : CoreId) (w : Word)
  /-- R148: Reduces every element into a scalar register. -/
  | reda (c : CoreId) (w : Word)
  /-- R153: Mask AND of ma and mb. -/
  | mand (c : CoreId) (w : Word)
  /-- R153: Mask OR. -/
  | mor (c : CoreId) (w : Word)
  /-- R153: Mask XOR. -/
  | mxor (c : CoreId) (w : Word)
  /-- R153: Mask ma AND NOT mb. -/
  | mandn (c : CoreId) (w : Word)
  /-- R153: Mask NOT. -/
  | mnot (c : CoreId) (w : Word)
  /-- R153: Sets mask bits 0 to n − 1, clamping n to 0–4,096. -/
  | mset (c : CoreId) (w : Word)
  /-- R153: Writes the population count of a mask to a g register. -/
  | mpop (c : CoreId) (w : Word)
  /-- R153: Writes the lowest set mask index, or 4,096. -/
  | mfirst (c : CoreId) (w : Word)
  /-- R176: Converts a tile to SHAPE.FMT with optional uniform scale and rounding mode. -/
  | cvt (c : CoreId) (w : Word)
  /-- R176: Quantises per 32-element block writing E8M0 scales to a scale register. -/
  | cvtmx (c : CoreId) (w : Word)
  /-- R176: Loads a scale register from one 128-byte tile row. -/
  | scld (c : CoreId) (w : Word)
  /-- R176: Stores a scale register into one 128-byte tile row. -/
  | scst (c : CoreId) (w : Word)
  /-- R176: Sets every byte of a scale register to g[RS][7:0]. -/
  | scset (c : CoreId) (w : Word)
  /-- R157: A vector, cross-lane, mask or conversion instruction ends its write phase, gathering flags and samples. -/
  | vecInsnComplete (c : CoreId)
  /-- R226: Reads a 64-byte descriptor and starts a DMA, returning its tag. -/
  | dmaq (c : CoreId) (w : Word)
  /-- R229: Returns the status of a DMA tag. -/
  | dmast (c : CoreId) (w : Word)
  /-- R296: Advances a sync object after earlier stores complete, holding the sync queue until applied. -/
  | sadv (c : CoreId) (w : Word)
  /-- R179: Reads a sync object's value into g[RD]. -/
  | sread (c : CoreId) (w : Word)
  /-- R300: Registers a watch in a slot, cancelling any earlier watch there. -/
  | swatch (c : CoreId) (w : Word)
  /-- R179: Cancels the watches in SMASK and clears their fired bits. -/
  | scancel (c : CoreId) (w : Word)
  /-- R179: Waits until a watch in SMASK has fired, optionally parked in the newt state. -/
  | swait (c : CoreId) (w : Word)
  /-- R179: Reads the 16 fired bits without waiting. -/
  | sfired (c : CoreId) (w : Word)
  /-- R305: Latches an arrival on a barrier line and, unless NOWAIT, waits for completion. -/
  | barr (c : CoreId) (w : Word)
  /-- R179: Reports whether the core's latest arrival on a line has completed. -/
  | bpoll (c : CoreId) (w : Word)
  /-- R181: Reads a COR_ register into g[RD]. -/
  | csrr (c : CoreId) (w : Word)
  /-- R181: Writes a COR_ register from g[RA] with its access types. -/
  | csrw (c : CoreId) (w : Word)
  /-- R188: Reissues abandoned instructions, clears INHANDLER and resumes at COR_EPC. -/
  | eret (c : CoreId) (w : Word)
  /-- R185: Stops issue of the program. -/
  | halt (c : CoreId) (w : Word)
  /-- R181: Issue waits until every earlier instruction of the core has completed. -/
  | fence (c : CoreId) (w : Word)
  /-- R185: After HALT every earlier instruction has completed and the core reports completion. -/
  | programHalted (c : CoreId)
  /-- R184: An instruction fetch returns, or stops the program, or holds issue on a not-present fault. -/
  | fetchResponse (c : CoreId)
  /-- R186: A pending enabled interrupt is accepted, abandoning work and entering the handler. -/
  | interruptAccept (c : CoreId)
  /-- R128: COR_TFAULT_CMD.RESUME restarts the parked instruction of a fault slot from row 0. -/
  | tfaultResume (c : CoreId) (slot : BitVec 2)
  /-- R130: COR_TFAULT_CMD.ABORT stops the program for a parked fault. -/
  | tfaultAbort (c : CoreId) (slot : BitVec 2)
  /-- R184: COR_EXC.RESUME resumes a held not-present fetch. -/
  | excResume (c : CoreId)
  /-- R130: COR_EXC.ABORT stops a held fetch. -/
  | excAbort (c : CoreId)
  /-- R186: A write of 1 to COR_IRAISE.FW sets the firmware interrupt pending. -/
  | fwIrqRaise (c : CoreId)
  /-- R55: A write of COR_MTX_SEED waits until the array is idle and sets its LFSR. -/
  | mtxSeedWrite (c : CoreId) (a : BitVec 2) (v : BitVec 32)
  /-- R177: A write of COR_CVT_SEED waits for earlier conversions and sets the conversion LFSR. -/
  | cvtSeedWrite (c : CoreId) (v : BitVec 32)
  /-- R78: COR_MTX_CTL.CNT_CLR clears the matrix counters. -/
  | corMtxCntClr (c : CoreId)
  /-- R75: COR_MTX_CTL.PRED_FLUSH sets every predictor counter to 0. -/
  | predFlush (c : CoreId)
  /-- R135: COR_TILE_CTL.CNT_CLR clears the tile counters. -/
  | corTileCntClr (c : CoreId)
  /-- R160: COR_VEC_CTL.CNT_CLR clears the vector counters. -/
  | corVecCntClr (c : CoreId)
  /-- R156: A scalar access to COR_VFLAGS waits for earlier vector instructions, then reads or clears. -/
  | vflagsAccess (c : CoreId) (w : Word)
  /-- R196: COR_MEM_CTL.INV invalidates the core cache over 64 clocks. -/
  | corMemInv (c : CoreId)
  /-- R196: COR_MEM_CTL.CNT_CLR clears the cache counters. -/
  | corMemCntClr (c : CoreId)
  /-- R93: A write of COR_HST_TAG folds the live counters into the previous tag's record. -/
  | hstTagWrite (c : CoreId) (tag : BitVec 16)
  /-- R93: COR_HST_CTL.FLUSH folds the live counters into the current tag's record. -/
  | hstFlush (c : CoreId)
  /-- R93: The bonded-SRAM bank accepts a fold, releasing any stalled fold request. -/
  | hstFoldAccepted (c : CoreId)
  /-- R246: A line request enters the cluster sorter, merging or parking as its quota allows. -/
  | lineRequest (c : CoreId) (draws : List Draw)
  /-- R248: A request waiting AGE_MAX MCLK in a sorter queue is sent next. -/
  | sorterAgeExpire (k : ClusterId) (line : BitVec 52)
  /-- R241: A line's data or poison arrives, freeing its miss register and sending an oldest parked request. -/
  | lineResponse (k : ClusterId) (line : BitVec 52) (draws : List Draw)
  /-- R260: CLU_SORT_CTL.CNT_CLR clears the sorter counters. -/
  | cluSortCntClr (k : ClusterId)
  /-- R260: MEM_DMA_CTL.CNT_CLR clears MEM_TAG_WAIT and MEM_CHQ_HELD. -/
  | memDmaCntClr (d : DieId)
  /-- R260: ARB_CTL.CNT_CLR clears ARB_STARVE_CNT. -/
  | arbCntClr (d : DieId)
  /-- R258: A ticket or class write applies at the next draw of every instance using the table. -/
  | arbTicketWrite (d : DieId) (t : BitVec 3) (slot : BitVec 9) (v : Word)
  /-- R258: A seed write sets an arbiter instance's LFSR, storing 1 for 0. -/
  | arbSeedWrite (d : DieId) (i : BitVec 9) (v : BitVec 32)
  /-- R250: A waiting DMAQ takes a free tag as its handle and begins. -/
  | dmaAccept (d : DieId) (tag : BitVec 13)
  /-- R228: A DMA block of at most 4 KiB completes and frees its tag. -/
  | dmaBlockDone (d : DieId) (tag : BitVec 13) (i : BitVec 8) (draws : List Draw)
  /-- R227: A DMA's writes are visible to all agents; its object is advanced or its error reported. -/
  | dmaComplete (d : DieId) (tag : BitVec 13)
  /-- R237: Firmware services a NOT_PRESENT fault, mapping on demand or aborting. -/
  | faultReportService (d : DieId)
  /-- R230: The patrol scrubber visits a codeword, correcting and writing back or poisoning. -/
  | patrolScrub (a : BitVec 52) (found : BitVec 2) (sym : BitVec 6)
  /-- R213: A write of MEM_STEP sets OPEN and EPOCH; clearing OPEN applies held region-table writes. -/
  | memStepWrite (d : DieId) (v : Word)
  /-- R213: A write of MEM_RGN_BASE or LIMIT applies at once, or is held while OPEN is 1. -/
  | rgnEntryWrite (d : DieId) (n : BitVec 6) (limit : Bool) (v : Word)
  /-- R221: A controller stop or bank port receives a write, applying it and sending late-write notices into STREAM-RO during a step. -/
  | writePacket (a : BitVec 52) (data : List Byte) (who : BitVec 32)
  /-- R222: A stream engine receives a late-write notice and discards or defers its read of the block. -/
  | lateNoticeReceive (n : BitVec 16)
  /-- R217: STM_RING_CTL.EN written 1 samples P and Rl and starts filling entries. -/
  | ringEnable (d : DieId) (n : BitVec 3)
  /-- R220: STM_RING_CTL.EN written 0 stops the ring after the block in progress. -/
  | ringDisable (d : DieId) (n : BitVec 3)
  /-- R217: A stream block is written; after an entry's last block P advances. -/
  | streamBlockWritten (d : DieId) (n : BitVec 3) (b : BlockStep)
  /-- R428: A page response from the host retries the access or gives PRI_FAIL. -/
  | priResponse (d : DieId) (va : BitVec 48) (code : BitVec 2)
  /-- R429: An ATS Invalidate Request completes after translations drop and users finish. -/
  | atsInvalidate (va : BitVec 48) (len : BitVec 48)
  /-- R276: A router combines, buffers or forwards an arriving reduction packet. -/
  | reductionPacketArrive (n : BitVec 16)
  /-- R276: A combining entry is released after HOLD MCLK without addition. -/
  | combineHoldExpire (r : CoreId) (n : BitVec 6)
  /-- R277: The endpoint adds a reduction packet to its line and completes the round at LINES × EXPECT. -/
  | reductionEndpointWrite (n : BitVec 16)
  /-- R278: A round-done notice reaches a DMA engine, completing DMAs that wrote the range. -/
  | roundDoneNotice (n : BitVec 16)
  /-- R283: A target window port writes a multicast line and sends an acknowledgement. -/
  | multicastDeliver (n : BitVec 16) (c : CoreId) (held : BitVec 16)
  /-- R283: Delivery acknowledgements arrive at the source, completing the DMA when all are counted. -/
  | multicastAck (n : BitVec 16)
  /-- R271: A token bucket gains RATE tokens every 256 MCLK up to BURST. -/
  | pacerRefill (d : DieId) (p : BitVec 10)
  /-- R284: NOC_RT_CTL.FENCE written 1 runs the hardware fencing steps. -/
  | fenceWrite (c : CoreId) (v : Word)
  /-- R286: NOC_RT_CTL.FENCE written 0 releases the fence without self-test. -/
  | fenceReleaseWrite (c : CoreId)
  /-- R286: An unfence self-test ends; the core gets its generation and is released, or stays fenced. -/
  | selfTestDone (c : CoreId) (ok : Bool)
  /-- R288: A packet ejecting toward a parked core ungates it before delivery. -/
  | newtUngate (c : CoreId)
  /-- R290: A reduction-table entry write; V = 0 with an incomplete round discards the counter. -/
  | redEntryWrite (d : DieId) (n : BitVec 6) (cfg : Bool) (v : Word)
  /-- R290: NOC_CTL.CNT_CLR clears the die's mesh counters. -/
  | nocCntClr (d : DieId)
  /-- R298: A slice receives an advance, applying or holding it and evaluating watches. -/
  | syncAdvance (n : BitVec 16)
  /-- R296: The slice's applied-or-held answer reaches the source, completing an SADV. -/
  | advanceAck (n : BitVec 16)
  /-- R300: A slice evaluates a watch registration, firing it or queueing it. -/
  | watchRegistration (n : BitVec 16)
  /-- R302: A fire message sets the slot's fired bit when its generation matches. -/
  | watchFire (n : BitVec 16)
  /-- R299: A source resends an advance or registration 256 MCLK after a RETRY answer. -/
  | retryResend (n : BitVec 16)
  /-- R295: A write of SYN_VAL sets the object value and re-evaluates watches and holds. -/
  | synValWrite (o : ObjId) (v : Word)
  /-- R294: A write of SYN_ADV advances the object by AMOUNT. -/
  | synAdvWrite (o : ObjId) (v : Word)
  /-- R297: A write of SYN_ATTR sets producer attributes or is refused for a foreign partner. -/
  | synAttrWrite (o : ObjId) (v : Word)
  /-- R315: SYN_CTL.CNT_CLR clears the slice counters. -/
  | synCntClr (k : ClusterId)
  /-- R309: A participant mask write applies to the current episode, possibly completing it. -/
  | barMaskWrite (d : DieId) (n : BitVec 6) (w : BitVec 2) (v : Word)
  /-- R310: A write of SYN_BAR_CFG sets scope and group, ignoring groups 16–254. -/
  | synBarCfgWrite (d : DieId) (n : BitVec 6) (v : Word)
  /-- R305: The wired AND settles and completion is latched in every router of the line. -/
  | barrierLineComplete (d : DieId) (n : BitVec 6)
  /-- R308: A line waiting longer than LATE_THR is marked late and interrupts. -/
  | barrierLate (d : DieId) (n : BitVec 6)
  /-- R312: A region waiting for LEND_THR sets LENDABLE. -/
  | lendableSet (r : RegionId)
  /-- R320: Opens the next epoch, invalidating caches and sampling GOBJ bases. -/
  | stepOpen (r : RingId)
  /-- R321: Clears OPEN, enters UPDATE and computes the learning rate. -/
  | stepClose (r : RingId)
  /-- R327: Installs an update plan or refuses it with UNSUPPORTED. -/
  | planInstall (r : RingId)
  /-- R341: Installs a learning-rate schedule block. -/
  | schedSet (r : RingId)
  /-- R449: Returns UPD_EPOCH, UPD_COMMITTED and UPD_PHASE. -/
  | stepStatus (r : RingId)
  /-- R330: An engine begins Pass A of a layer when GOBJ reaches base + GSTEP. -/
  | passAStart (r : RegionId)
  /-- R330: An engine finishes Pass A of a layer with its SUMSQ and NONFIN. -/
  | passADone (r : RegionId)
  /-- R331: With all Pass A done in UPDATE, firmware sends the module sum on NCHAN. -/
  | normContribute
  /-- R332: An engine finishes Pass B of a layer, writing copies and state, starting its gather or mirror. -/
  | passBLayerDone (r : RegionId)
  /-- R343: A rule-0 launch completes, ending the layer or setting RULE0. -/
  | rule0LaunchDone (r : RegionId)
  /-- R321: All conditions met, UPD_COMMITTED becomes e and the step boundary occurs. -/
  | stepCommit
  /-- R344: UPD_CTL.CNT_CLR clears the engine counters. -/
  | updCntClr (r : RegionId)
  /-- R363: A reduce-scatter segment frame is accepted and summed toward the root. -/
  | rs (port : BitVec 5) (f : Frame)
  /-- R365: An all-gather segment frame is written to the copy area and forwarded. -/
  | ag (port : BitVec 5) (f : Frame)
  /-- R366: A partial norm sum arrives from a child. -/
  | normUp (port : BitVec 5) (f : Frame)
  /-- R366: The total S arrives, fixing clip and starting Pass B or abandoning. -/
  | normDown (port : BitVec 5) (f : Frame)
  /-- R351: A cumulative acknowledgement frame advances the path's window. -/
  | ack (port : BitVec 5) (f : Frame)
  /-- R352: A NAK makes the sender resend go-back-N from the named PSN. -/
  | nak (port : BitVec 5) (f : Frame)
  /-- R355: A CREDIT frame updates the cumulative grant for a channel. -/
  | credit (port : BitVec 5) (f : Frame)
  /-- R367: A system barrier arrival frame is counted for its episode. -/
  | barrier (port : BitVec 5) (f : Frame)
  /-- R370: An ABORT frame abandons the step attempt of EPOCH and ATTEMPT. -/
  | abort (port : BitVec 5) (f : Frame)
  /-- R351: A PROBE opens a path direction or tests a down path and is acknowledged. -/
  | probe (port : BitVec 5) (f : Frame)
  /-- R347: A received priority flow control frame pauses the port's PCP when PFC is enabled. -/
  | pfcFrame (port : BitVec 5) (pcp : BitVec 3) (pause : Bool)
  /-- R351: An acknowledgement is sent 2 µs after unacknowledged frames were accepted. -/
  | ackTimer (port : BitVec 5) (mac : BitVec 48)
  /-- R352: No acknowledgement for RTO resends from the oldest unacknowledged frame. -/
  | rtoExpire (port : BitVec 5) (mac : BitVec 48)
  /-- R353: Every 1 ms a PROBE is sent on each down path. -/
  | probeTimer (port : BitVec 5) (mac : BitVec 48)
  /-- R362: A reduce-scatter begins sending once its contribution and children are ready. -/
  | rsSendStart (c : BitVec 6)
  /-- R369: At the soft deadline missing segments are taken from a stored backup. -/
  | dlSoftExpire (c : BitVec 6)
  /-- R369: At the hard deadline the reduction fails with TIMEOUT. -/
  | dlHardExpire (c : BitVec 6)
  /-- R348: A fabric or twin port finishes training, coming UP or being skipped. -/
  | portTrained (port : BitVec 5) (ok : Bool)
  /-- R372: Configures and trains fabric ports. -/
  | fabPortSet (r : RingId)
  /-- R372: Returns the planes UP and skipped. -/
  | fabPortStatus (r : RingId)
  /-- R356: Configures a fabric group from its member table. -/
  | groupSet (r : RingId)
  /-- R358: Binds a reduction channel to a group with its stores and planes. -/
  | chanSet (r : RingId)
  /-- R360: Installs the shard table. -/
  | shardSet (r : RingId)
  /-- R372: Sets a group's soft and hard deadlines from the next STEP_OPEN. -/
  | deadlineSet (r : RingId)
  /-- R372: Removes a group and unbinds its channels. -/
  | groupClear (r : RingId)
  /-- R374: FAB_CTL.CNT_CLR clears every fabric counter. -/
  | fabCntClr
  /-- R387: A twin HELLO with a nonce starts the bond exchange. -/
  | hello (port : BitVec 5) (f : Frame) (mirdig : BitVec 256)
  /-- R389: A BOND frame with chain and bond record is verified and judged. -/
  | bond (port : BitVec 5) (f : Frame) (rtt : BitVec 32)
  /-- R387: A partner's bond decision arrives; agreement bonds, disagreement ends with DISAGREE. -/
  | decision (port : BitVec 5) (f : Frame)
  /-- R384: A mirror segment is written to the free slot; completion sends MACK. -/
  | mirror (port : BitVec 5) (f : Frame) (off : BitVec 48)
  /-- R380: The partner acknowledges the mirror of an epoch, letting the commit proceed. -/
  | mack (port : BitVec 5) (f : Frame)
  /-- R384: A skipped-step notice relabels the complete slot and is acknowledged. -/
  | mskip (port : BitVec 5) (f : Frame)
  /-- R378: A twin heartbeat frame is accepted. -/
  | heartbeat (port : BitVec 5) (f : Frame)
  /-- R392: A partner's UNBOND is acknowledged, draining first in a step. -/
  | unbond (port : BitVec 5) (f : Frame)
  /-- R392: The partner acknowledges an unbond and the module enters SOLO. -/
  | unbondAck (port : BitVec 5) (f : Frame)
  /-- R378: Every 100 µs each live twin port sends a heartbeat. -/
  | heartbeatTimer (port : BitVec 5)
  /-- R393: No frame for LOSS_TO makes the module SOLO and UNMIRRORED with a TWIN_LOST event. -/
  | partnerLoss
  /-- R389: No partner HELLO within the timeout refuses the bond with TIMEOUT. -/
  | bondTimeout
  /-- R387: Starts a twin bond in the requested mode. -/
  | twnBond (r : RingId) (mirdig : BitVec 256)
  /-- R392: Starts a planned unbond, draining during a step. -/
  | twnUnbond (r : RingId)
  /-- R383: Sets the mirror area. -/
  | twnMirrorSet (r : RingId)
  /-- R394: Returns twin status, partner serial and slot epochs. -/
  | twnStatus (r : RingId)
  /-- R394: Stores the bond settings in SPI NOR for start-up step 12. -/
  | twnStore (r : RingId)
  /-- R395: TWN_CTL.CNT_CLR clears every twin counter. -/
  | twnCntClr
  /-- R409: The 100 µs tick runs recalls, refill, thermal adjustment, starts, point choice and lending. -/
  | firmwareTick (t : Telemetry)
  /-- R401: A 1 µs input sample updates the excursion counter and may engage or release the fast limiter. -/
  | inputSample (volts : BitVec 16) (amps : BitVec 16) (board : BitVec 32)
  /-- R403: A sensor at LIMIT relocks its region to 0.40 GHz in hardware. -/
  | thermalTrip (d : DieId) (i : BitVec 6) (v : BitVec 16)
  /-- R405: A region PLL finishes relocking and ACLK restarts. -/
  | pllRelockDone (r : RegionId)
  /-- R405: A region rail reaches its new voltage. -/
  | railSlewDone (r : RegionId)
  /-- R416: An enable or shut-down finishes, releasing the next queued command. -/
  | funcTransitionDone (f : BitVec 6) (ok : Bool)
  /-- R417: Sets the sustained power cap. -/
  | powerCapSet (r : RingId)
  /-- R417: Returns power and budget figures. -/
  | powerStatus (r : RingId)
  /-- R417: Limits the highest point of selected regions. -/
  | pointLimit (r : RingId)
  /-- R415: Enables a region rail, fabric plane or twin port. -/
  | funcEnable (r : RingId)
  /-- R415: Shuts down a function, or BUSY for a region in use. -/
  | funcDisable (r : RingId)
  /-- R417: Parks idle selected cores in the newt state. -/
  | park (r : RingId)
  /-- R417: Ungates parked idle selected cores. -/
  | wake (r : RingId)
  /-- R417: Sets THROT, GUARD, RESERVE, LEND_FREQ and the control-latency target. -/
  | powerSettings (r : RingId)
  /-- R417: Clears one or all power profiles. -/
  | profileClear (r : RingId)
  /-- R418: PWR_CTL.CNT_CLR clears every power counter. -/
  | pwrCntClr
  /-- R419: The host link trains, negotiating mode, rate and width. -/
  | linkTrain (mode : BitVec 2) (rate : BitVec 2) (width : BitVec 4)
  /-- R472: PERST# after step 13 resets the link and acts as a function level reset. -/
  | perstAssert
  /-- R472: PERST# deasserts, letting step 10 begin once step 9 has passed. -/
  | perstDeassert
  /-- R431: An FLR stops launches, discards packets and replies, disables rings and resets mailboxes. -/
  | functionLevelReset
  /-- R472: A configuration request before step 13 gets Configuration Request Retry Status. -/
  | configRequest (kind : BitVec 4) (v : Word)
  /-- R425: A host CXL.mem read reaches LPDDR5X, flipping a device-bias page. -/
  | hostMemRead (a : BitVec 52) (found : BitVec 2) (sym : BitVec 6)
  /-- R425: A host CXL.mem write reaches LPDDR5X under the read-only rule. -/
  | hostMemWrite (a : BitVec 52) (data : List Byte)
  /-- R424: A host snoop is answered RspIHitI. -/
  | h2dSnoop (a : BitVec 52)
  /-- R432: Ring EN written 1 sets head and tail to 0. -/
  | cmdRingEnable (cq : Bool) (r : RingId) (v : Word)
  /-- R433: The host writes a submission ring's TAIL, making packets available. -/
  | sqTailWrite (r : RingId) (v : Word)
  /-- R435: The host frees completion entries, releasing held replies. -/
  | cqHeadWrite (r : RingId) (v : Word)
  /-- R436: COAL_US after the first unsignalled reply the ring's MSI-X vector is raised. -/
  | coalTimer (r : RingId)
  /-- R423: A write of CMD_WIN0 or CMD_WIN1 moves a BAR0 window, clamped to the register space. -/
  | windowBaseWrite (w1 : Bool) (v : Word)
  /-- R456: CMD_CTL.CNT_CLR clears clamp counters and MOD_BIASFLIP. -/
  | cmdCntClr
  /-- R440: A forerunner packet is executed as its version-2 equivalent. -/
  | v1Packet (r : RingId)
  /-- R445: A packet with an unassigned opcode completes UNSUPPORTED. -/
  | unassignedOpcode (r : RingId)
  /-- R446: Does nothing and completes OK. -/
  | nop (r : RingId)
  /-- R446: Writes the 512-byte identity block. -/
  | identify (r : RingId)
  /-- R446: Writes 1,024 core records. -/
  | enumerate (r : RingId)
  /-- R446: Returns committed epoch, phase, twin state and fenced cores. -/
  | health (r : RingId)
  /-- R446: Returns the value of a device physical register. -/
  | regRead (r : RingId)
  /-- R446: Writes a device physical register. -/
  | regWrite (r : RingId)
  /-- R447: Runs a COPY on the selected die's DMA engines. -/
  | copy (r : RingId)
  /-- R447: Runs a FILL on the selected die's DMA engines. -/
  | fill (r : RingId)
  /-- R447: Maps a range or registers it for mapping on demand. -/
  | map (r : RingId)
  /-- R238: Removes mappings in a range after all translations drop. -/
  | unmap (r : RingId)
  /-- R211: Writes a region-table entry at once or DEFERRED to step close. -/
  | mark (r : RingId)
  /-- R447: Sets the area from which page tables are allocated. -/
  | ptPool (r : RingId)
  /-- R274: Writes a reduction-table entry on all dies. -/
  | redSet (r : RingId)
  /-- R280: Writes a multicast-table entry on all dies. -/
  | mcgSet (r : RingId)
  /-- R426: Sets host or device bias on a range. -/
  | bias (r : RingId)
  /-- R448: Places a work-group in the ready queue. -/
  | launch (r : RingId)
  /-- R448: Every core of a launch has halted, stopped or been fenced; the final reply is posted. -/
  | launchComplete (n : BitVec 16)
  /-- R448: Stops a launch, which completes ABORTED. -/
  | stop (r : RingId)
  /-- R448: Returns the state of a launch. -/
  | launchStatus (r : RingId)
  /-- R448: Sets COR_IRAISE.FW on selected running cores. -/
  | raise (r : RingId)
  /-- R450: Advances a sync object. -/
  | syncAdv (r : RingId)
  /-- R450: Returns a sync object's value. -/
  | syncRead (r : RingId)
  /-- R450: Sets a sync object's value. -/
  | syncSet (r : RingId)
  /-- R450: Sets a sync object's attribute word. -/
  | syncAttr (r : RingId)
  /-- R450: Registers a control-complex watch, completing when it fires. -/
  | syncWait (r : RingId)
  /-- R450: A SYNC_WAIT's TIMEOUT passes, cancelling the watch. -/
  | syncWaitTimeout (d : DieId) (slot : BitVec 6)
  /-- R450: Sets a barrier line's scope, group and control-complex participation. -/
  | barCfg (r : RingId)
  /-- R450: Control complexes arrive on a line, completing when it completes. -/
  | barArrive (r : RingId)
  /-- R452: Stages a configuration generation. -/
  | configStage (r : RingId)
  /-- R454: Waits for the commit point of a generation. -/
  | configCommit (r : RingId)
  /-- R452: Returns staged, committed and per-region generations. -/
  | configStatus (r : RingId)
  /-- R453: Writes an immediate setting's registers. -/
  | setImmediate (r : RingId)
  /-- R451: Fence command 0x60 fences selected cores. -/
  | fenceCmd (r : RingId)
  /-- R286: Starts the self-test of a fenced core. -/
  | unfence (r : RingId)
  /-- R451: Returns the fence maps of all dies. -/
  | fenceStatus (r : RingId)
  /-- R482: Writes and verifies firmware in the unused slot. -/
  | fwStage (r : RingId)
  /-- R483: Makes the staged slot the next start's slot, optionally trial or restarting. -/
  | fwActivate (r : RingId)
  /-- R482: Returns security status, versions and key revocation. -/
  | fwStatus (r : RingId)
  /-- R483: Restarts the module, deferred until IDLE. -/
  | fwRestart (r : RingId)
  /-- R484: Raises SVN_MIN to the running image's SVN. -/
  | svnCommit (r : RingId)
  /-- R489: Writes the valid journal entries. -/
  | jnlRead (r : RingId)
  /-- R489: Writes the valid state-block copy. -/
  | jnlState (r : RingId)
  /-- R489: Resets a journal policy from the next start. -/
  | jnlResetPolicy (r : RingId)
  /-- R501: Arms recording from the next STEP_OPEN. -/
  | rplRecordStart (r : RingId)
  /-- R507: Ends recording at the step boundary. -/
  | rplRecordStop (r : RingId)
  /-- R507: Returns replay status, pointer and divergences. -/
  | rplStatus (r : RingId)
  /-- R504: Starts a replay from a log. -/
  | rplReplayStart (r : RingId)
  /-- R507: Stops a replay at the next step boundary. -/
  | rplReplayStop (r : RingId)
  /-- R507: Writes a NOTE record. -/
  | rplMark (r : RingId)
  /-- R487: SPDM request answered with version 1.2. -/
  | getVersion
  /-- R487: SPDM request answered with the capabilities. -/
  | getCapabilities (flags : BitVec 32)
  /-- R487: SPDM algorithm negotiation. -/
  | negotiateAlgorithms (sign : Bool) (hash : Bool) (kex : Bool) (aead : Bool)
  /-- R487: SPDM certificate digest request. -/
  | getDigests
  /-- R487: SPDM request for the slot-0 chain. -/
  | getCertificate (slot : BitVec 8) (off : BitVec 16) (len : BitVec 16)
  /-- R487: SPDM challenge signed with the identity key. -/
  | challenge (slot : BitVec 8) (nonce : BitVec 256)
  /-- R488: SPDM measurement request, Busy before step 13. -/
  | getMeasurements (op : BitVec 8) (sign : Bool) (nonce : BitVec 256)
  /-- R487: SPDM session key exchange. -/
  | keyExchange (slot : BitVec 8) (key : BitVec 512)
  /-- R487: SPDM session finish. -/
  | finish (id : BitVec 32) (ok : Bool)
  /-- R487: SPDM session heartbeat. -/
  | spdmHeartbeat (id : BitVec 32)
  /-- R487: SPDM session key update. -/
  | keyUpdate (id : BitVec 32)
  /-- R487: SPDM session end. -/
  | endSession (id : BitVec 32)
  /-- R427: DOE discovery request on either instance. -/
  | doeDiscovery (inst : Bool) (index : BitVec 8)
  /-- R427: CXL table access request returning CDAT structures. -/
  | cdatRead (entry : BitVec 16)
  /-- R463: A write into mailbox data, accepted or rejected whole. -/
  | mbxDataWrite (host : Bool) (off : BitVec 13) (data : List Byte)
  /-- R460: The host sends a host-to-firmware mailbox, ringing a firmware doorbell. -/
  | mbxH2fSend (host : Bool) (n : BitVec 4) (v : Word)
  /-- R460: Firmware sends a firmware-to-host mailbox, ringing a host doorbell. -/
  | mbxF2hSend (host : Bool) (n : BitVec 4) (v : Word)
  /-- R461: Firmware releases host-to-firmware mailboxes, optionally ringing the host. -/
  | mbxH2fRelease (host : Bool) (v : Word)
  /-- R461: The host releases firmware-to-host mailboxes, optionally ringing firmware. -/
  | mbxF2hRelease (host : Bool) (v : Word)
  /-- R466: MBX_CTL.FW_READY ends the firmware reset of the mailboxes. -/
  | fwReady (host : Bool)
  /-- R467: MBX_CTL.CNT_CLR clears the mailbox counters. -/
  | mbxCntClr (host : Bool)
  /-- R465: Firmware sets host doorbells, signalling vector 64 when unmasked. -/
  | mbxHostDbSet (host : Bool) (v : Word)
  /-- R465: The host sets firmware doorbells, signalling the MBX interrupt when unmasked. -/
  | mbxFwDbSet (host : Bool) (v : Word)
  /-- R465: A doorbell mask write; unmasking a pending bit signals the receiver. -/
  | dbMaskWrite (host : Bool) (fw : Bool) (v : Word)
  /-- R515: The input rising through 38.5 V starts power-up and a module reset. -/
  | vinRise
  /-- R516: The input falling through 37.0 V removes the die rails in reverse order. -/
  | vinFall
  /-- R517: MOD_RST# low for 10 µs causes a module reset. -/
  | modRstAssert
  /-- R514: Input above 100 A for 1 ms removes the die rails and latches OCP. -/
  | overcurrent
  /-- R514: Input above 62.0 V removes the die rails and latches OVP. -/
  | overvoltage
  /-- R513: A hardware comparator threshold removes the die rails and enters the shut-down state. -/
  | overtempShutdown (cause : BitVec 2)
  /-- R513: 10 s after a thermal shut-down a waiting reset proceeds. -/
  | shutdownHoldExpire
  /-- R469: A start-up step passes and the next step begins. -/
  | startupStepPass (twin : Bool) (mirdig : BitVec 256)
  /-- R477: A start-up try fails, writing FAIL and applying the step's policy when tries run out. -/
  | startupTryFail (obj : BitVec 16) (detail : BitVec 16) (mirdig : BitVec 256)
  /-- R477: 100 ms after a failed rail try, step 1 is tried again. -/
  | step1RetryTimer
  /-- R477: After step 10 fails, the host link retrains every 1 s. -/
  | linkRetrainTimer
  /-- R497: A die-to-die flit fails its CRC and is resent, retraining the link after 256 in 1 ms. -/
  | d2dFlitCrcFail (d : DieId) (vert : Bool)
  /-- R497: A die-to-die retraining ends; failure raises D2D_FAIL and the FATAL handling. -/
  | d2dRetrainDone (d : DieId) (vert : Bool) (ok : Bool)
  /-- R493: The host frees log records by writing MOD_LOG_HEAD. -/
  | modLogHeadWrite (v : Word)
  /-- R500: A write of MOD_LOG_BASE resets HEAD and TAIL; EN flushes held records. -/
  | modLogBaseWrite (v : Word)
  /-- R500: MOD_ERR_CTL.CNT_CLR clears the error counters. -/
  | modErrCntClr
  /-- R517: MOD_SB_CTL.RESET_REQ causes a module reset. -/
  | resetReq (v : BitVec 32)
  /-- R479: MOD_SB_CTL.JNL_CLEAR clears FAILSTARTS and BAD, then resets the module. -/
  | jnlClear (v : BitVec 32)
  /-- R525: A read of MOD_SB_FLASH_DATA returns SPI NOR bytes and advances FLASH_ADDR. -/
  | sbFlashDataRead
  /-- R524: The module answers the SMBus Alert Response Address with its address. -/
  | alertResponse (pins : BitVec 2)
  /-- R526: TRST#, five TMS-high clocks or die rail-up reset the TAP to IDCODE. -/
  | tapReset
  /-- R527: TAP instruction driving pins from the boundary register while SCAN_HELD. -/
  | extest (d : DieId) (cells : BitVec 116) (pins : BitVec 116)
  /-- R527: TAP instruction sampling or preloading the boundary register. -/
  | samplePreload (d : DieId) (cells : BitVec 116) (pins : BitVec 116)
  /-- R528: TAP instruction selecting the 32-bit IDCODE. -/
  | idcode (d : DieId)
  /-- R528: TAP instruction selecting the 32-bit USERCODE. -/
  | usercode (d : DieId)
  /-- R527: TAP instruction placing outputs high-impedance while SCAN_HELD. -/
  | highz (d : DieId)
  /-- R527: TAP instruction holding outputs from the boundary register while SCAN_HELD. -/
  | clamp (d : DieId)
  /-- R527: IEEE 1149.6 pulse test instruction while SCAN_HELD. -/
  | extestPulse (d : DieId) (cells : BitVec 116) (pins : BitVec 116)
  /-- R527: IEEE 1149.6 train test instruction while SCAN_HELD. -/
  | extestTrain (d : DieId) (cells : BitVec 116) (pins : BitVec 116)
  /-- R527: TAP instruction selecting the 1-bit bypass. -/
  | bypass (d : DieId) (code : BitVec 8)
  /-- R527: Update-DR of CCDBG starts a control-complex register or memory access. -/
  | ccdbg (d : DieId) (w : Bool) (a : BitVec 52) (v : Word)
  /-- R10: A write to a register without a row of its own, under its access types. -/
  | registerWrite (a : BitVec 54) (v : Word) (who : Writer)
  /-- R515: MOD_RST# rising lets step 6 of power-up, start-up step 1, begin. -/
  | modRstDeassert
  /-- R466: The end of a function level reset clears HOST_RESET and lets mailbox writes toward the host be accepted again. -/
  | flrDone
  /-- R236: The host's answer to an ATS translation request arrives, letting the access proceed or leading to a page request. -/
  | atsTranslationCompletion (d : DieId) (va : BitVec 48) (host : BitVec 52) (perm : BitVec 3)
  /-- R350: A frame of reserved type, wrong version, unknown MAC or other EtherType is discarded and counted in FAB_FOREIGN or TWN_FOREIGN. -/
  | foreignFrame (port : BitVec 5)
  /-- R351: A frame failing its FCS or FEC is discarded and counted in FAB_FCSERR_p. -/
  | badFcsFrame (port : BitVec 5)
  /-- R498: A CXL flit or LCRC error on the host link is replayed, counted in MOD_LINK_RETRY and may cross the RAS threshold. -/
  | linkRetry (crc : Bool) (retry : Bool)
  /-- R348: A trained fabric or twin port loses its link, so LINK leaves UP and its plane stops being live. -/
  | linkDown (port : BitVec 5)
  /-- R514: The input falling through 61.0 V ends the overvoltage condition so a module reset can restore the rails. -/
  | overvoltageRelease
  /-- R483: Writing and verifying the staged slot ends, setting STAGED or failing, and FW_STAGE gets its final reply. -/
  | fwStageDone (readErr : Bool)
  deriving DecidableEq, Repr

end Sys2Proof
end

