-- ==== Sys2Proof/Decode.lean ====
section
/-!
DEFINITION. Sys2Proof/Decode.lean: the module decodes no word of the table of operations, whose rows carry no bits; commands reach
it as terms (the log entry on the event model says so).
-/
namespace Sys2Proof

/-- The command a word of the table spells: no row of the table gives bits, so no word spells one. -/
def decodeTableWord (_nbits _w : Nat) : Option Instr := none

end Sys2Proof
end

