-- ==== Sys2Proof/Machine/Sm3.lean ====
section
/-!
DEFINITION. Sys2Proof/Machine/Sm3.lean: the SM3 hash (R487, R501, R503), as its standard defines it (PRESUMED, in the log).
-/
namespace Sys2Proof

/-- A left rotation of a 32-bit word. -/
def rotl (x : BitVec 32) (n : Nat) : BitVec 32 := (x <<< (n % 32)) ||| (x >>> ((32 - n % 32) % 32))

/-- The permutation P0 of SM3. -/
def sm3P0 (x : BitVec 32) : BitVec 32 := x ^^^ rotl x 9 ^^^ rotl x 17

/-- The permutation P1 of SM3. -/
def sm3P1 (x : BitVec 32) : BitVec 32 := x ^^^ rotl x 15 ^^^ rotl x 23

/-- A big-endian 32-bit word from bytes. -/
def be32 (bs : List Byte) : BitVec 32 := BitVec.ofNat 32 (bs.foldl (fun a b => a * 256 + b.toNat) 0)

/-- The message padded: a 1 bit, zeros, and the length in bits as 8 big-endian bytes, to a multiple of 64 bytes. -/
def sm3Pad (bs : List Byte) : List Byte :=
  let n := bs.length
  let z := (119 - n % 64) % 64
  bs ++ [0x80] ++ List.replicate z 0 ++ ((List.range 8).map fun i => BitVec.ofNat 8 (8 * n / 256 ^ (7 - i)))

/-- The 68 expanded words of a block. -/
def sm3Expand (blk : List Byte) : List (BitVec 32) :=
  let w := (List.range 16).map fun i => be32 ((blk.drop (4 * i)).take 4)
  (List.range 52).foldl (fun w i =>
    let j := i + 16
    let g (k : Nat) := w.getD (j - k) 0
    w ++ [sm3P1 (g 16 ^^^ g 9 ^^^ rotl (g 3) 15) ^^^ rotl (g 13) 7 ^^^ g 6]) w

/-- The compression of one block into the eight chaining words. -/
def sm3Block (v : List (BitVec 32)) (blk : List Byte) : List (BitVec 32) :=
  let w := sm3Expand blk
  let r := (List.range 64).foldl (fun r j =>
    match r with
    | [a, b, c, d, e, f, g, h] =>
      let t : BitVec 32 := if j < 16 then 0x79CC4519 else 0x7A879D8A
      let ss1 := rotl (rotl a 12 + e + rotl t j) 7
      let ss2 := ss1 ^^^ rotl a 12
      let ff := if j < 16 then a ^^^ b ^^^ c else (a &&& b) ||| (a &&& c) ||| (b &&& c)
      let gg := if j < 16 then e ^^^ f ^^^ g else (e &&& f) ||| (~~~e &&& g)
      let tt1 := ff + d + ss2 + (w.getD j 0 ^^^ w.getD (j + 4) 0)
      let tt2 := gg + h + ss1 + w.getD j 0
      [tt1, a, rotl b 9, c, sm3P0 tt2, e, rotl f 19, g]
    | r => r) v
  (v.zip r).map fun (x, y) => x ^^^ y

/-- The 32 bytes of the SM3 digest of a message. -/
def sm3 (bs : List Byte) : List Byte :=
  let p := sm3Pad bs
  let v := (List.range (p.length / 64)).foldl (fun v i => sm3Block v ((p.drop (64 * i)).take 64))
    [0x7380166F, 0x4914B2B9, 0x172442D7, 0xDA8A0600, 0xA96F30BC, 0x163138AA, 0xE38DEE4D, 0xB0FB0E4E]
  v.flatMap fun x => (List.range 4).map fun i => x.extractLsb' (24 - 8 * i) 8

end Sys2Proof
end

