-- ==== Sys2Proof/Config.lean ====
section
/-!
DEFINITION. Sys2Proof/Config.lean: the values the spec leaves open, as constants with no body. Nothing in Lean can
evaluate one, so a statement proved about the model holds whatever value the part has. Each is named in a log entry.
-/
namespace Sys2Proof

/-- A fresh free value: applied to the counter `State.free`, which the step advances each time it takes one. -/
opaque Config.free : Nat → Nat
/-- Which FP32 value within one unit in the last place RCP, RSQ, EXP2 and LOG2 give (R145): function, then input. -/
opaque Config.trnPick : Nat → Nat → Nat
/-- emax of a CVTMX destination that R176 gives none (FP32, BF16, FP16, INT32), by its width. -/
opaque Config.mxEmax : Nat → Int
/-- Which NaN encoding of FP8 E5M2 and which NaN sign of FP8 a NaN converts to (R52 names no code). -/
opaque Config.f8Nan : Nat → Nat
/-- The way the pseudo-LRU replacement of a core cache picks (R196): set index and a fresh number. -/
opaque Config.victim : Nat → Nat → Nat
/-- The router, within its region, at which the update engine of a region reaches the mesh (R30): the spec places it nowhere. -/
opaque Config.updRouter : Nat → Nat
/-- A digital signature of the security core (R486, R487): key number and the digest signed. -/
opaque Config.sign : Nat → Nat → Nat
/-- Whether a signature over a digest verifies under a public key (R481, R486). -/
opaque Config.verify : Nat → Nat → Nat → Bool
/-- Contents the maker puts into the part and the spec does not give: identity text, boot code, default images. -/
opaque Config.maker : Nat → Nat
/-- The 4-byte outcome of a DECISION frame (R377), by what was decided. -/
opaque Config.outcome : Nat → Nat
/-- The predicted tokens of a region at the lend point (R412): its W0, the point whose voltage it keeps, LEND_FREQ. -/
opaque Config.lendTokens : Nat → Nat → Nat → Nat

end Sys2Proof
end

