-- ==== Sys2Proof/Machine/Float.lean ====
section
/-!
DEFINITION. Sys2Proof/Machine/Float.lean: the element formats of R46 and R109 and the arithmetic on them. A finite value
is exact: a sign, a magnitude and a power of two. Every operation computes the exact result and narrows it once.
-/
namespace Sys2Proof

/-- The element formats of R109, in the order of their codes 0x0 to 0xA. -/
inductive Fmt
  | fp32 | bf16 | fp16 | e4m3 | e5m2 | e3m2 | e2m3 | e2m1 | int8 | int4 | int32
  deriving DecidableEq, Repr

/-- The format a code names; codes 0xB to 0xF are reserved (R110). -/
def Fmt.ofCode (c : BitVec 4) : Option Fmt :=
  [Fmt.fp32, .bf16, .fp16, .e4m3, .e5m2, .e3m2, .e2m3, .e2m1, .int8, .int4, .int32][c.toNat]?

/-- Storage size of an element in bits; an FP6 element occupies a byte (R109). -/
def Fmt.bits : Fmt → Nat
  | .fp32 | .int32 => 32
  | .bf16 | .fp16 => 16
  | .e4m3 | .e5m2 | .e3m2 | .e2m3 | .int8 => 8
  | .e2m1 | .int4 => 4

/-- FP4 and INT4, two elements to a byte (R111). -/
def Fmt.isNibble (f : Fmt) : Bool := f.bits == 4

/-- The integer formats. -/
def Fmt.isInt : Fmt → Bool
  | .int8 | .int4 | .int32 => true
  | _ => false

/-- FP8 E4M3 and FP8 E5M2. -/
def Fmt.isF8 : Fmt → Bool
  | .e4m3 | .e5m2 => true
  | _ => false

/-- BF16 and FP16. -/
def Fmt.isHalf : Fmt → Bool
  | .bf16 | .fp16 => true
  | _ => false

/-- FP6 E3M2 and FP6 E2M3. -/
def Fmt.isFp6 : Fmt → Bool
  | .e3m2 | .e2m3 => true
  | _ => false

/-- Bytes of a row of `n` elements. -/
def Fmt.rowBytes (f : Fmt) (n : Nat) : Nat := n * f.bits / 8

/-- Layout of a float format: exponent and stored significand bits, the largest finite code, the codes of infinity and
NaN where the format has them (R46: IEEE 754 and OCP MX v1.0). -/
structure FLay where
  eb : Nat
  mb : Nat
  maxCode : Nat
  infCode : Option Nat
  nanCode : Option Nat
  deriving DecidableEq, Repr

/-- The exponent bias. -/
def FLay.bias (l : FLay) : Nat := 2 ^ (l.eb - 1) - 1
/-- The exponent of the smallest normal value. -/
def FLay.emin (l : FLay) : Int := 1 - (l.bias : Int)
/-- The exponent of one unit of the smallest subnormal. -/
def FLay.qmin (l : FLay) : Int := l.emin - (l.mb : Int)

/-- The layout of a float format. The NaN code of FP8 E5M2 is left free (`Config.f8Nan`). -/
def Fmt.lay : Fmt → FLay
  | .bf16 => ⟨8, 7, 0x7F7F, some 0x7F80, some 0x7FC0⟩
  | .fp16 => ⟨5, 10, 0x7BFF, some 0x7C00, some 0x7E00⟩
  | .e4m3 => ⟨4, 3, 0x7E, none, some 0x7F⟩
  | .e5m2 => ⟨5, 2, 0x7B, some 0x7C, some (0x7D + Config.f8Nan 0 % 3)⟩
  | .e3m2 => ⟨3, 2, 0x1F, none, none⟩
  | .e2m3 => ⟨2, 3, 0x1F, none, none⟩
  | .e2m1 => ⟨2, 1, 0x7, none, none⟩
  | _ => ⟨8, 23, 0x7F7FFFFF, some 0x7F800000, some 0x7FC00000⟩

/-- An exact value: a NaN (signalling or quiet), a signed infinity, or ± m × 2^e. -/
inductive XR
  | nan (sig : Bool)
  | inf (neg : Bool)
  | num (neg : Bool) (m : Nat) (e : Int)
  deriving DecidableEq, Repr

/-- Plus zero. -/
def XR.zero : XR := .num false 0 0

/-- The exact value of an integer. -/
def XR.ofInt (i : Int) : XR := .num (decide (i < 0)) i.natAbs 0

/-- Number of bits of `n`. -/
def bitLen (n : Nat) : Nat := if n = 0 then 0 else n.log2 + 1

/-- The two's-complement value of the low `w` bits of `n`. -/
def sint (w n : Nat) : Int :=
  let x := n % 2 ^ w
  if x < 2 ^ (w - 1) then x else (x : Int) - 2 ^ w

/-- The low `w` bits of an integer in two's complement. -/
def unint (w : Nat) (i : Int) : Nat := (i % 2 ^ w).toNat

/-- The value of a code of a float format (R46, R48). Bits above the format are ignored, bits 7:6 of an FP6 byte among
them (R109). -/
def FLay.decode (l : FLay) (quiet : Bool) (code : Nat) : XR :=
  let c := code % 2 ^ (l.eb + l.mb + 1)
  let neg := c / 2 ^ (l.eb + l.mb) == 1
  let mag := c % 2 ^ (l.eb + l.mb)
  let E := mag / 2 ^ l.mb
  let f := mag % 2 ^ l.mb
  if mag > l.maxCode then
    if l.infCode = some mag then .inf neg
    else .nan (!quiet && decide (f < 2 ^ (l.mb - 1)))
  else if E = 0 then .num neg f l.qmin
  else .num neg (f + 2 ^ l.mb) (l.qmin + (E : Int) - 1)

/-- The value of an element of any format; every 8-bit NaN is quiet (R145). -/
def Fmt.value (f : Fmt) (code : Nat) : XR :=
  match f with
  | .int8 => XR.ofInt (sint 8 code)
  | .int4 => XR.ofInt (sint 4 code)
  | .int32 => XR.ofInt (sint 32 code)
  | f => f.lay.decode f.isF8 code

/-- The integer an element of an integer format holds. -/
def Fmt.intValue (f : Fmt) (code : Nat) : Int := sint f.bits code

/-- How a conversion rounds: to nearest even, or stochastically with the 16 random bits drawn (R53). -/
inductive Rnd
  | near
  | stoch (r : Nat)
  deriving DecidableEq, Repr

/-- Whether a discarded part `frac` of `d` bits rounds the kept part `q` away from zero. -/
def roundsUp (md : Rnd) (q frac d : Nat) : Bool :=
  match md with
  | .near => decide (2 ^ d < 2 * frac) || (decide (2 * frac = 2 ^ d) && decide (q % 2 = 1))
  | .stoch r =>
    let f := if 16 ≤ d then frac / 2 ^ (d - 16) else frac * 2 ^ (16 - d)
    decide (65536 ≤ f + r)

/-- `m × 2^e` cut to the multiple `q × 2^l` of `2^l`: the rounded `q` and whether anything was discarded. -/
def roundAt (md : Rnd) (m : Nat) (e l : Int) : Nat × Bool :=
  if l ≤ e then (m * 2 ^ (e - l).toNat, false)
  else
    let d := (l - e).toNat
    let q := m / 2 ^ d
    let frac := m % 2 ^ d
    (if roundsUp md q frac d then q + 1 else q, decide (frac ≠ 0))

/-- A magnitude narrowed to a layout: the magnitude code as if the format went on above its largest value, whether the
result is inexact, and whether it is tiny after rounding (R145). -/
structure Narrowed where
  code : Nat
  inexact : Bool
  tiny : Bool
  deriving DecidableEq, Repr

/-- `m × 2^e` rounded to a layout. -/
def FLay.narrow (l : FLay) (md : Rnd) (m : Nat) (e : Int) : Narrowed :=
  if m = 0 then ⟨0, false, false⟩
  else
    let top := e + (bitLen m : Int) - 1
    let lsb := max (top - (l.mb : Int)) l.qmin
    let (q, ix) := roundAt md m e lsb
    let E := (lsb - l.qmin).toNat
    -- a normal q has its leading bit at mb, which the exponent field counts
    let code := if q < 2 ^ l.mb then q else q + E * 2 ^ l.mb
    let (q', _) := roundAt md m e (top - (l.mb : Int))
    let tiny := decide (top < l.emin) && !(decide (top + 1 = l.emin) && decide (q' = 2 ^ (l.mb + 1)))
    ⟨code, ix, tiny⟩

/-- The sign bit of a layout set on a magnitude code. -/
def FLay.signed (l : FLay) (neg : Bool) (mag : Nat) : Nat :=
  if neg then mag + 2 ^ (l.eb + l.mb) else mag

/-- The exception bits of R155, in the order of COR_VFLAGS: NV 0, DZ 1, OF 2, UF 3, NX 4. -/
abbrev VFlags := BitVec 5
/-- Invalid. -/
def VFlags.nv : VFlags := 1
/-- Divide by zero. -/
def VFlags.dz : VFlags := 2
/-- Overflow or integer saturation. -/
def VFlags.of : VFlags := 4
/-- Underflow. -/
def VFlags.uf : VFlags := 8
/-- Inexact. -/
def VFlags.nx : VFlags := 16
/-- A flag when a condition holds. -/
def VFlags.when (b : Bool) (f : VFlags) : VFlags := if b then f else 0

/-- A vector-engine result narrowed to FP32, BF16 or FP16 (R145): IEEE overflow to infinity, canonical quiet NaN. -/
def Fmt.ieee (f : Fmt) (x : XR) : Nat × VFlags :=
  let l := f.lay
  match x with
  | .nan sig => (l.nanCode.getD 0, .when sig .nv)
  | .inf neg => (l.signed neg (l.infCode.getD l.maxCode), 0)
  | .num neg m e =>
    let n := l.narrow .near m e
    if l.maxCode < n.code then (l.signed neg (l.infCode.getD l.maxCode), .of ||| .nx)
    else (l.signed neg n.code, .when n.inexact .nx ||| .when (n.tiny && n.inexact) .uf)

/-- An exact value rounded to nearest even into an integer and saturated to `w` bits: value, saturated, inexact, NaN. -/
def XR.toIntSat (w : Nat) (x : XR) : Int × Bool × Bool × Bool :=
  let lo : Int := -(2 ^ (w - 1)); let hi : Int := 2 ^ (w - 1) - 1
  match x with
  | .nan _ => (0, false, false, true)
  | .inf neg => (if neg then lo else hi, true, false, false)
  | .num neg m e =>
    let (q, ix) := roundAt .near m e 0
    let v : Int := if neg then -(q : Int) else q
    if v < lo then (lo, true, ix, false) else if hi < v then (hi, true, ix, false) else (v, false, ix, false)

/-- An integer saturated to 32 bits, and whether it was. -/
def sat32 (i : Int) : Int × Bool :=
  if i < -(2 ^ 31) then (-(2 ^ 31), true) else if 2 ^ 31 - 1 < i then (2 ^ 31 - 1, true) else (i, false)

/-- The sign of an exact zero sum under round to nearest even: minus only when both addends are minus zero. -/
def XR.add (x y : XR) : XR :=
  match x, y with
  | .nan a, .nan b => .nan (a || b)
  | .nan a, _ => .nan a
  | _, .nan b => .nan b
  | .inf a, .inf b => if a = b then .inf a else .nan true
  | .inf a, _ => .inf a
  | _, .inf b => .inf b
  | .num a m e, .num b n f =>
    let g := min e f
    let x : Int := (m : Int) * 2 ^ (e - g).toNat
    let y : Int := (n : Int) * 2 ^ (f - g).toNat
    let s := (if a then -x else x) + (if b then -y else y)
    if s = 0 then .num (decide (m = 0) && decide (n = 0) && a && b) 0 0
    else .num (decide (s < 0)) s.natAbs g

/-- The negated value; a NaN stays as it is. -/
def XR.neg : XR → XR
  | .nan s => .nan s
  | .inf n => .inf (!n)
  | .num n m e => .num (!n) m e

/-- The exact product; infinity times zero is an invalid operation, marked as a signalling NaN. -/
def XR.mul (x y : XR) : XR :=
  match x, y with
  | .nan a, .nan b => .nan (a || b)
  | .nan a, _ => .nan a
  | _, .nan b => .nan b
  | .inf a, .inf b => .inf (a != b)
  | .inf a, .num b n _ => if n = 0 then .nan true else .inf (a != b)
  | .num a m _, .inf b => if m = 0 then .nan true else .inf (a != b)
  | .num a m e, .num b n f => .num (a != b) (m * n) (e + f)

/-- The value times 2^k. -/
def XR.scale (x : XR) (k : Int) : XR :=
  match x with
  | .num n m e => .num n m (e + k)
  | x => x

/-- The magnitude. -/
def XR.abs : XR → XR
  | .nan s => .nan s
  | .inf _ => .inf false
  | .num _ m e => .num false m e

/-- Whether the value is zero. -/
def XR.isZero : XR → Bool
  | .num _ m _ => m == 0
  | _ => false
/-- Whether the value is a NaN. -/
def XR.isNan : XR → Bool
  | .nan _ => true
  | _ => false
/-- Whether the value is a signalling NaN. -/
def XR.isSig : XR → Bool
  | .nan s => s
  | _ => false

/-- The order of two numbers, none when either is a NaN; −0 equals +0. -/
def XR.cmp (x y : XR) : Option Ordering :=
  let key (n : Bool) (m : Nat) (k : Nat) : Int := if n then -((m * 2 ^ k : Nat) : Int) else ((m * 2 ^ k : Nat) : Int)
  match x, y with
  | .nan _, _ => none
  | _, .nan _ => none
  | .inf a, .inf b => some (compare (if a then (0 : Nat) else 1) (if b then 0 else 1))
  | .inf a, _ => some (if a then .lt else .gt)
  | _, .inf b => some (if b then .gt else .lt)
  | .num a m e, .num b n f =>
    let g := min e f
    some (compare (key a m (e - g).toNat) (key b n (f - g).toNat))

/-- The sign of a number or infinity. -/
def XR.sign : XR → Bool
  | .nan _ => false
  | .inf n => n
  | .num n _ _ => n

/-- FP32 addition of codes, one rounding to nearest even: the arithmetic of an array column (R40). -/
def f32Round (x : XR) : Nat := (Fmt.fp32.ieee x).1
/-- FP32 addition of codes. -/
def f32Add (a b : Nat) : Nat := f32Round ((Fmt.fp32.value a).add (Fmt.fp32.value b))

/-- Integer square root by bits, from bit `k` down: the largest `r` with `r² ≤ n`. -/
def isqrtBits (n : Nat) : Nat → Nat → Nat
  | 0, r => r
  | k + 1, r =>
    let t := r + 2 ^ k
    isqrtBits n k (if t * t ≤ n then t else r)

/-- The integer square root. -/
def isqrt (n : Nat) : Nat := isqrtBits n (bitLen n / 2 + 1) 0

/-- A quotient with 80 significant bits and a sticky last bit, so that one later rounding is exact. -/
def stickyDiv (a b : Nat) : Nat × Int :=
  let k := 80 + bitLen b
  let q := a * 2 ^ k / b
  (2 * q + (if a * 2 ^ k % b = 0 then 0 else 1), -(k : Int) - 1)

/-- The square root of `m × 2^e`, with a sticky last bit. -/
def stickySqrt (m : Nat) (e : Int) : Nat × Int :=
  let (m, e) := if e % 2 = 0 then (m, e) else (2 * m, e - 1)
  let n := m * 2 ^ 160
  let r := isqrt n
  (2 * r + (if r * r = n then 0 else 1), e / 2 - 80 - 1)

/-- The constant 2^(2^-i) as a fixed-point number with 160 fraction bits. -/
def rootTwo : Nat → Nat
  | 0 => 2 * 2 ^ 160
  | i + 1 => isqrt (rootTwo i * 2 ^ 160)

/-- 2^f for the fraction `f / 2^120`, with 160 fraction bits, from bit `k - 1` of `f` down; `c` is 2^(2^-(121-k)). -/
def exp2Frac (f : Nat) : Nat → Nat → Nat → Nat
  | 0, _, acc => acc
  | k + 1, c, acc =>
    exp2Frac f k (isqrt (c * 2 ^ 160)) (if f / 2 ^ k % 2 = 1 then acc * c / 2 ^ 160 else acc)

/-- 2^x to more bits than any destination and input of the vector engine can tell apart, with a sticky last bit when
`x` is no integer. -/
def stickyExp2 (neg : Bool) (m : Nat) (e : Int) : Nat × Int :=
  -- x as a fixed-point number with 120 fraction bits, rounded down
  let up := m * 2 ^ (e + 120).toNat / 2 ^ (-(e + 120)).toNat
  let exact := decide (m * 2 ^ (e + 120).toNat % 2 ^ (-(e + 120)).toNat = 0)
  let fx : Int := if neg then -(up : Int) - (if exact then 0 else 1) else up
  let i := fx / 2 ^ 120
  let f := (fx % 2 ^ 120).toNat
  if f = 0 && exact then (1, i)
  else (2 * exp2Frac f 120 (isqrt (2 * 2 ^ 320)) (2 ^ 160) + 1, i - 161)

/-- The fraction bits of log₂ of `y / 2^160`, 1 ≤ y / 2^160 < 2, by repeated squaring. -/
def log2Frac : Nat → Nat → Nat → Nat
  | 0, _, acc => acc
  | k + 1, y, acc =>
    let y2 := y * y / 2 ^ 160
    if 2 * 2 ^ 160 ≤ y2 then log2Frac k (y2 / 2) (2 * acc + 1) else log2Frac k y2 (2 * acc)

/-- log₂ of `m × 2^e`, with a sticky last bit when `m` is no power of two. -/
def stickyLog2 (m : Nat) (e : Int) : Bool × Nat × Int :=
  let b := m.log2
  let i : Int := e + b
  if m = 2 ^ b then (decide (i < 0), i.natAbs, 0)
  else
    let f := log2Frac 120 (m * 2 ^ 160 / 2 ^ b) 0
    let v : Int := (2 * (i * 2 ^ 120 + f) + 1)
    (decide (v < 0), v.natAbs, -121)

/-- FP32 codes of one unit in the last place below and above the magnitude `m × 2^e`, and the pick among them (R145:
within one unit in the last place, the same for one input everywhere; the value picked is free). -/
def ulpPick (fn input : Nat) (m : Nat) (e : Int) : Nat :=
  let l := Fmt.fp32.lay
  let lsb := max (e + (bitLen m : Int) - 1 - (l.mb : Int)) l.qmin
  let E := (lsb - l.qmin).toNat
  let (q, ix) := if lsb ≤ e then (m * 2 ^ (e - lsb).toNat, false)
    else (m / 2 ^ (lsb - e).toNat, decide (m % 2 ^ (lsb - e).toNat ≠ 0))
  let lo := if q < 2 ^ l.mb then q else q + E * 2 ^ l.mb
  let pick := Config.trnPick fn input
  if ix then lo + pick % 2 else if lo = 0 then pick % 2 else lo - 1 + pick % 3

/-- A conversion of class 0xA or of an array's write phase: the code written and what R52 and R176 report of it. -/
structure CvtOut where
  code : Nat
  flags : VFlags
  ovf : Bool
  f8sat : Bool
  isat : Bool
  nan : Bool
  deriving DecidableEq, Repr

/-- An exact value converted to any format of R109 under R52, R53 and R176. -/
def Fmt.convert (f : Fmt) (md : Rnd) (x : XR) : CvtOut :=
  if f.isInt then
    let (v, s, ix, n) := XR.toIntSat f.bits x
    ⟨unint f.bits v, .when (s || n) .nv ||| .when (ix && !s) .nx, false, false, s, n⟩
  else
    let l := f.lay
    match x with
    | .nan sig =>
      match l.nanCode with
      | some c =>
        let neg := f.isF8 && decide (Config.f8Nan 1 % 2 = 1)
        ⟨l.signed neg c, .when sig .nv, false, false, false, true⟩
      | none => ⟨0, .nv, false, false, false, true⟩
    | .inf neg =>
      match l.infCode with
      | some c => ⟨l.signed neg c, 0, false, false, false, false⟩
      | none => ⟨l.signed neg l.maxCode, .of, false, f.isF8, false, false⟩
    | .num neg m e =>
      let n := l.narrow md m e
      if n.code ≤ l.maxCode then
        ⟨l.signed neg n.code, .when n.inexact .nx ||| .when (n.tiny && n.inexact) .uf, false, false, false, false⟩
      else if f.isHalf || f = .fp32 then
        -- stochastic rounding keeps the largest finite value below 2^(emax + 1) (R52)
        let big := decide (l.emin + 2 ^ l.eb - 2 ≤ e + (bitLen m : Int) - 1)
        let mag := match md with
          | .near => l.infCode.getD l.maxCode
          | .stoch _ => if big then l.infCode.getD l.maxCode else l.maxCode
        ⟨l.signed neg mag, .of ||| .nx, f.isHalf, false, false, false⟩
      else ⟨l.signed neg l.maxCode, .of ||| .nx, false, f.isF8, false, false⟩

/-- One clock of the stochastic-rounding LFSR of R53. -/
def lfsrNext (s : BitVec 32) : BitVec 32 :=
  if s &&& 1 = 1 then (s >>> 1) ^^^ 0x80200003 else s >>> 1

/-- The 16 random bits of a draw. -/
def lfsrRnd (s : BitVec 32) : Nat := (lfsrNext s).toNat % 65536

/-- The LFSR after `n` draws. -/
def lfsrAdvance : Nat → BitVec 32 → BitVec 32
  | 0, s => s
  | n + 1, s => lfsrAdvance n (lfsrNext s)

/-- A seed as stored: 0 would lock the LFSR and stores 1 (R55, R177, R258). -/
def seedStore (v : BitVec 32) : BitVec 32 := if v = 0 then 1 else v

end Sys2Proof
end

