-- ==== Sys2Proof/Machine/MatrixMath.lean ====
section
/-!
DEFINITION. Sys2Proof/Machine/MatrixMath.lean: the arithmetic of one matrix operation (R37 to R54): operand classes, the
fixed order of summation, block scales, and the conversion of accumulators.
-/
namespace Sys2Proof.Machine

/-- Operand class of a format by its width (R37). -/
def clsBits : Fmt → Nat
  | .e2m1 | .int4 => 4
  | .bf16 | .fp16 => 16
  | .fp32 | .int32 => 32
  | _ => 8

/-- Class of an operation on formats `a` and `b`, and whether both are integers (R47). -/
def opClass (a b : Fmt) : Nat × Bool :=
  if a.isInt = b.isInt then (max (clsBits a) (clsBits b), a.isInt)
  else
    let f := if a.isInt then b else a
    (if clsBits f = 32 then 32 else 16, false)

/-- The packing factor p of a class (R37). -/
def packOf (cls : Nat) : Nat := if cls = 4 then 4 else if cls = 8 then 2 else 1
/-- The stationary tile K × N of a class and form (R37, R64). -/
def statShape (cls : Nat) (tad : Bool) : Nat × Nat := if tad then (8 * packOf cls, 128) else (32 * packOf cls, 32)
/-- The most streaming rows of a form (R39, R64). -/
def mLimit (tad : Bool) : Nat := if tad then 8 else 32

/-- Flags an operation reports to COR_MTX_STATUS, as bits 5:0: ISAT, F8SAT, OVF, NAN, MXNAN, EMPTY. -/
abbrev MFlags := BitVec 6
/-- EMPTY. -/
def MFlags.empty : MFlags := 1
/-- MXNAN. -/
def MFlags.mxnan : MFlags := 2
/-- NAN. -/
def MFlags.nan : MFlags := 4
/-- OVF. -/
def MFlags.ovf : MFlags := 8
/-- F8SAT. -/
def MFlags.f8sat : MFlags := 16
/-- ISAT. -/
def MFlags.isat : MFlags := 32
/-- A flag when a condition holds. -/
def MFlags.when (b : Bool) (f : MFlags) : MFlags := if b then f else 0

/-- A list cut into parts of `n`, the last one filled with `z`. -/
def chunksOf {α : Type} (n : Nat) (z : α) (l : List α) : List (List α) :=
  (List.range ((l.length + n - 1) / n)).map fun i =>
    let p := (l.drop (i * n)).take n
    p ++ List.replicate (n - p.length) z

/-- The p products of a cell summed exactly and rounded once to FP32 (R40). -/
def cellSum (ps : List XR) : Nat :=
  match ps with
  | [] => 0
  | p :: ps => f32Round (ps.foldl XR.add p)

/-- The integer of a product of integers. -/
def xrInt : XR → Int
  | .num n m _ => if n then -(m : Int) else m
  | _ => 0

/-- INT32 addition that saturates on its own (R48): the sum and whether it saturated. -/
def addSat (a b : Int) : Int × Bool := sat32 (a + b)

/-- A running sum of cell contributions in cell-row order. -/
def runSum (cells : List Nat) : Nat :=
  match cells with
  | [] => 0
  | c :: cs => cs.foldl f32Add c

/-- A running integer sum, each addition saturating on its own. -/
def runSumInt (cells : List Int) : Int × Bool :=
  cells.foldl (fun (a, f) c => let (v, g) := addSat a c; (v, f || g)) (0, false)

/-- The value of a product of scales 2^(sa − 127) × 2^(sb − 127) applied to an FP32 block sum (R50). -/
def scaleBlock (sum : Nat) (sa sb : Nat) : Nat :=
  f32Round (((Fmt.fp32.value sum)).scale ((sa : Int) + sb - 254))

/-- One column sum: products along K in order, padded to the class's depth (R40, R50). `sc b` gives the two scale bytes of
block b when either operand names a scale register. -/
def colSum (p K : Nat) (int : Bool) (prods : List XR) (sc : Option (Nat → Nat × Nat)) : Nat × MFlags :=
  -- cell rows past the used depth all contribute plus zero, and one of them stands for all
  let used := prods ++ (if prods.length < K then List.replicate (min p (K - prods.length)) XR.zero else [])
  let cells := chunksOf p XR.zero used
  match sc with
  | none =>
    if int then
      let (v, f) := runSumInt (cells.map fun c => (c.map xrInt).sum)
      (unint 32 v, .when f .isat)
    else (runSum (cells.map cellSum), 0)
  | some sc =>
    -- a block past the used depth has no scale byte and adds nothing
    let blocks := chunksOf (32 / p) [] (chunksOf p XR.zero prods)
    (blocks.zip (List.range blocks.length)).foldl (fun (acc, fl) (cs, b) =>
      let sum := (cs.filter (· != [])).foldl (fun a c => f32Add a (cellSum c)) 0
      let (sa, sb) := sc b
      if sa = 0xFF ∨ sb = 0xFF then (f32Add acc 0x7FC00000, fl ||| .mxnan)
      else (f32Add acc (scaleBlock sum sa sb), fl)) (0, 0)

/-- Byte `i` of a scale register. A byte index past the register's 128 reads 0, a scale of 2^−127 (DESIGN CHOICE: R49's layout gives
such an index to a streaming tile of more blocks than the register holds, and says no value). -/
def scaleByte (s : BitVec 1024) (i : Nat) : Nat := s.toNat / 2 ^ (8 * i) % 256

/-- What a matrix operation works on: element codes of the streaming rows, the stationary elements k × n by a lookup, their
formats, scale registers, depth used, columns. -/
structure MtxIn where
  a : List (List Nat)
  af : Fmt
  b : Nat → Nat → Nat
  bf : Fmt
  sa : Option (BitVec 1024)
  sb : Option (BitVec 1024)
  kk : Nat
  K : Nat
  N : Nat
  aBlocks : Nat
  bBlocks : Nat

/-- Whether the operation accumulates in INT32 (R47, R50); INT4 ignores a scale register (R49). -/
def MtxIn.scaled (x : MtxIn) : Bool := (x.sa.isSome && x.af != .int4) || (x.sb.isSome && x.bf != .int4)
/-- Whether the operation accumulates in INT32. -/
def MtxIn.int (x : MtxIn) : Bool := (opClass x.af x.bf).2 && !x.scaled

/-- The column sums of one streaming row. -/
def MtxIn.row (x : MtxIn) (r : Nat) (codes : List Nat) : List Nat × MFlags :=
  let p := packOf (opClass x.af x.bf).1
  let av := (codes.take x.kk).map x.af.value
  (List.range x.N).foldl (fun (out, fl) n =>
    let prods := (av.zip (List.range x.kk)).map fun (v, k) => v.mul (x.bf.value (x.b k n))
    let sc : Option (Nat → Nat × Nat) := if x.scaled then some (fun b =>
      (match x.sa with | some s => if x.af = .int4 then 127 else scaleByte s (r * x.aBlocks + b) | none => 127,
       match x.sb with | some s => if x.bf = .int4 then 127 else scaleByte s (n * x.bBlocks + b) | none => 127)) else none
    let (v, f) := colSum p x.K x.int prods sc
    (out ++ [v], fl ||| f)) ([], 0)

/-- The initial accumulator of an element of the destination in accumulate mode (R41). A float operation rounds an INT32 element to
nearest even where FP32 does not hold it exactly (DESIGN CHOICE: R41 says it widens each element exactly, which it cannot there). -/
def accInit (int : Bool) (df : Fmt) (code : Nat) : Nat × MFlags :=
  if int then
    if df.isInt then (code, 0)
    else
      let (v, s, _, n) := XR.toIntSat 32 (df.value code)
      (unint 32 v, .when s .isat ||| .when n .nan)
  else (f32Round (df.value code), 0)

/-- The column sum added to its accumulator entry (R40). -/
def accAdd (int : Bool) (init sum : Nat) : Nat × MFlags :=
  if int then
    let (v, f) := addSat (sint 32 init) (sint 32 sum)
    (unint 32 v, .when f .isat)
  else (f32Add init sum, 0)

/-- Destinations that draw from the LFSR (R54). -/
def drawsFor (df : Fmt) : Bool := df.isHalf || df.isF8

/-- An accumulator converted to the destination format, the LFSR after it (R52 to R54, R171). -/
def accOut (int : Bool) (df : Fmt) (stoch : Bool) (s : BitVec 32) (acc : Nat) : Nat × MFlags × BitVec 32 :=
  let draw := drawsFor df
  let s' := if draw then lfsrNext s else s
  let md := if draw && stoch then Rnd.stoch (lfsrRnd s) else .near
  if int && df.isInt then (acc, 0, s')
  else
    let x := if int then XR.ofInt (sint 32 acc) else Fmt.fp32.value acc
    let o := df.convert md x
    (o.code, .when o.ovf .ovf ||| .when o.f8sat .f8sat ||| .when o.isat .isat ||| .when o.nan .nan, s')

end Sys2Proof.Machine
end

