-- ==== Sys2Proof/Machine/Tab.lean ====
section
/-!
DEFINITION. Sys2Proof/Machine/Tab.lean: sparse tables in one canonical form (keys strictly rising, no entry equal to
what an unlisted key reads as). `d` gives what an unlisted key reads as.
-/
namespace Sys2Proof

/-- What key `k` holds: its entry, or the default. -/
def Tab.get {α : Type} (d : Nat → α) : Tab α → Nat → α
  | [], k => d k
  | (j, v) :: t, k => if j = k then v else Tab.get d t k

/-- The entries below `k`. -/
def Tab.below {α : Type} (t : Tab α) (k : Nat) : Tab α := t.filter fun e => decide (e.1 < k)

/-- The entries at `k` and above. -/
def Tab.above {α : Type} (t : Tab α) (k : Nat) : Tab α := t.filter fun e => decide (k ≤ e.1)

/-- The entry that key `k` needs to hold `v`: none when that is the default. -/
def Tab.cell {α : Type} [DecidableEq α] (d : Nat → α) (k : Nat) (v : α) : Tab α :=
  if v = d k then [] else [(k, v)]

/-- The table with key `k` holding `v`. -/
def Tab.set {α : Type} [DecidableEq α] (d : Nat → α) (t : Tab α) (k : Nat) (v : α) : Tab α :=
  t.below k ++ Tab.cell d k v ++ t.above (k + 1)

/-- The cells of consecutive keys from `k` on. -/
def Tab.cells {α : Type} [DecidableEq α] (d : Nat → α) : Nat → List α → Tab α
  | _, [] => []
  | k, v :: vs => Tab.cell d k v ++ Tab.cells d (k + 1) vs

/-- The table with the values of `vs` at `k`, `k + 1`, … -/
def Tab.setRun {α : Type} [DecidableEq α] (d : Nat → α) (t : Tab α) (k : Nat) (vs : List α) : Tab α :=
  t.below k ++ Tab.cells d k vs ++ t.above (k + vs.length)

/-- The values at `n` consecutive keys from `k`. -/
def Tab.getRun {α : Type} (d : Nat → α) (t : Tab α) (k : Nat) : Nat → List α
  | 0 => []
  | n + 1 => t.get d k :: Tab.getRun d t (k + 1) n

/-- The canonical form: keys strictly rising, no entry equal to its key's default. -/
abbrev Tab.Wf {α : Type} (d : Nat → α) (t : Tab α) : Prop :=
  t.Pairwise (fun a b => a.1 < b.1) ∧ ∀ e ∈ t, e.2 ≠ d e.1

/-- The table with key `k` changed by `f`. -/
def Tab.upd {α : Type} [DecidableEq α] (d : Nat → α) (t : Tab α) (k : Nat) (f : α → α) : Tab α :=
  t.set d k (f (t.get d k))

end Sys2Proof
end

