-- ==== Sys2Proof/Machine/Registers.lean ====
section
/-!
DEFINITION. Sys2Proof/Machine/Registers.lean: every register of the module, from the register tables of the spec: its
address in the device physical map (R193), its fields by the names the tables give them, their access types (R10), reset
values and clamps. The SMBus registers of R525 have no device physical address and are keyed at 2^52 + code × 8.
-/
namespace Sys2Proof

/-- A field of a register: its lowest bit and its width. -/
structure Fld where
  lo : Nat
  len : Nat
  deriving DecidableEq, Repr

/-- The value of a field. -/
def Fld.get (f : Fld) (w : Word) : Nat := w.toNat / 2 ^ f.lo % 2 ^ f.len

/-- A word with the bits of a field set to `v` (taken modulo the field's width). -/
def Fld.put (f : Fld) (w : Word) (v : Nat) : Word :=
  BitVec.ofNat 64 (w.toNat % 2 ^ f.lo + v % 2 ^ f.len * 2 ^ f.lo + w.toNat / 2 ^ (f.lo + f.len) * 2 ^ (f.lo + f.len))

/-- The access types of R10. -/
inductive Acc
  | rw | ro | wo | w1c | w1s
  deriving DecidableEq, Repr

/-- A field's row of a register table: bits, access type, reset value, and the range a written value is clamped to. -/
structure FRow where
  lo : Nat
  len : Nat
  acc : Acc
  reset : Nat := 0
  cmin : Nat := 0
  cmax : Nat := 2 ^ 64 - 1
  deriving DecidableEq, Repr

/-- A register of a block: its offset, the count and stride of each index it carries, outermost first, and its fields. -/
structure RegRow where
  off : Nat
  dims : List (Nat × Nat)
  flds : List FRow
  deriving DecidableEq, Repr

/-- A block window: base, number of instances, stride, bytes of one instance, registers. -/
structure RegBlock where
  base : Nat
  count : Nat
  stride : Nat
  size : Nat
  rows : List RegRow
  deriving DecidableEq, Repr

/-- The counter layout of R78: COUNT in bits 47:0, read only. -/
def cntFlds : List FRow := [⟨0, 48, .ro, 0, 0, 2 ^ 64 - 1⟩]
/-- COUNT, the field of every counter. -/
def COUNT : Fld := ⟨0, 48⟩

/-! ### COR block -/

/-- COR_ID (R190). -/
def COR_ID (c : Nat) : Nat := 0x120000000000 + c * 0x4000
/-- Bits 10:10 of COR_ID, RO. -/
def COR_ID.ENABLED : Fld := ⟨10, 1⟩
/-- Bits 9:0 of COR_ID, RO. -/
def COR_ID.CORE : Fld := ⟨0, 10⟩
/-- COR_STATUS (R135). -/
def COR_STATUS (c : Nat) : Nat := 0x120000000010 + c * 0x4000
/-- Bits 2:2 of COR_STATUS, W1C. -/
def COR_STATUS.VAL_CLAMP : Fld := ⟨2, 1⟩
/-- Bits 1:1 of COR_STATUS, W1C. -/
def COR_STATUS.ALIGN_CLAMP : Fld := ⟨1, 1⟩
/-- Bits 0:0 of COR_STATUS, W1C. -/
def COR_STATUS.SHAPE_CLAMP : Fld := ⟨0, 1⟩
/-- COR_MTX_CTL (R78). -/
def COR_MTX_CTL (c : Nat) : Nat := 0x120000000800 + c * 0x4000
/-- Bits 7:7 of COR_MTX_CTL, WO. -/
def COR_MTX_CTL.CNT_CLR : Fld := ⟨7, 1⟩
/-- Bits 6:6 of COR_MTX_CTL, WO. -/
def COR_MTX_CTL.PRED_FLUSH : Fld := ⟨6, 1⟩
/-- Bits 2:2 of COR_MTX_CTL, RW. -/
def COR_MTX_CTL.PRED_EN : Fld := ⟨2, 1⟩
/-- Bits 1:1 of COR_MTX_CTL, RW. -/
def COR_MTX_CTL.TILESKIP_EN : Fld := ⟨1, 1⟩
/-- Bits 0:0 of COR_MTX_CTL, RW. -/
def COR_MTX_CTL.ROWSKIP_EN : Fld := ⟨0, 1⟩
/-- COR_MTX_STATUS (R78). -/
def COR_MTX_STATUS (c : Nat) : Nat := 0x120000000808 + c * 0x4000
/-- Bits 23:21 of COR_MTX_STATUS, RO. -/
def COR_MTX_STATUS.SHADOW_BUSY : Fld := ⟨21, 3⟩
/-- Bits 20:18 of COR_MTX_STATUS, RO. -/
def COR_MTX_STATUS.SHADOW_VALID : Fld := ⟨18, 3⟩
/-- Bits 17:15 of COR_MTX_STATUS, RO. -/
def COR_MTX_STATUS.ACTIVE_VALID : Fld := ⟨15, 3⟩
/-- Bits 14:12 of COR_MTX_STATUS, RO. -/
def COR_MTX_STATUS.FORM : Fld := ⟨12, 3⟩
/-- Bits 5:5 of COR_MTX_STATUS, W1C. -/
def COR_MTX_STATUS.ISAT : Fld := ⟨5, 1⟩
/-- Bits 4:4 of COR_MTX_STATUS, W1C. -/
def COR_MTX_STATUS.F8SAT : Fld := ⟨4, 1⟩
/-- Bits 3:3 of COR_MTX_STATUS, W1C. -/
def COR_MTX_STATUS.OVF : Fld := ⟨3, 1⟩
/-- Bits 2:2 of COR_MTX_STATUS, W1C. -/
def COR_MTX_STATUS.NAN : Fld := ⟨2, 1⟩
/-- Bits 1:1 of COR_MTX_STATUS, W1C. -/
def COR_MTX_STATUS.MXNAN : Fld := ⟨1, 1⟩
/-- Bits 0:0 of COR_MTX_STATUS, W1C. -/
def COR_MTX_STATUS.EMPTY : Fld := ⟨0, 1⟩
/-- COR_MTX_SEED (R78). -/
def COR_MTX_SEED (c i : Nat) : Nat := 0x120000000810 + c * 0x4000 + i * 0x8
/-- Bits 31:0 of COR_MTX_SEED, RW. -/
def COR_MTX_SEED.SEED : Fld := ⟨0, 32⟩
/-- COR_MTX_OPS (R78). -/
def COR_MTX_OPS (c i : Nat) : Nat := 0x120000000840 + c * 0x4000 + i * 0x8
/-- COR_MTX_SWAPSTALL (R78). -/
def COR_MTX_SWAPSTALL (c : Nat) : Nat := 0x120000000858 + c * 0x4000
/-- COR_MTX_FORMSW (R78). -/
def COR_MTX_FORMSW (c : Nat) : Nat := 0x120000000860 + c * 0x4000
/-- COR_SPR_SKIP (R78). -/
def COR_SPR_SKIP (c : Nat) : Nat := 0x120000000868 + c * 0x4000
/-- COR_SPR_REISSUE (R78). -/
def COR_SPR_REISSUE (c : Nat) : Nat := 0x120000000870 + c * 0x4000
/-- COR_SPR_MISSED (R78). -/
def COR_SPR_MISSED (c : Nat) : Nat := 0x120000000878 + c * 0x4000
/-- COR_SPR_ROWSKIP (R78). -/
def COR_SPR_ROWSKIP (c : Nat) : Nat := 0x120000000880 + c * 0x4000
/-- COR_HST_CTL (R95). -/
def COR_HST_CTL (c : Nat) : Nat := 0x120000000900 + c * 0x4000
/-- Bits 23:16 of COR_HST_CTL, RW. -/
def COR_HST_CTL.EBASE : Fld := ⟨16, 8⟩
/-- Bits 11:8 of COR_HST_CTL, RW. -/
def COR_HST_CTL.SAMPLE : Fld := ⟨8, 4⟩
/-- Bits 1:1 of COR_HST_CTL, WO. -/
def COR_HST_CTL.FLUSH : Fld := ⟨1, 1⟩
/-- Bits 0:0 of COR_HST_CTL, RW. -/
def COR_HST_CTL.EN : Fld := ⟨0, 1⟩
/-- COR_HST_TAG (R95). -/
def COR_HST_TAG (c : Nat) : Nat := 0x120000000908 + c * 0x4000
/-- Bits 15:0 of COR_HST_TAG, RW. -/
def COR_HST_TAG.TAG : Fld := ⟨0, 16⟩
/-- COR_HST_BASE (R95). -/
def COR_HST_BASE (c : Nat) : Nat := 0x120000000910 + c * 0x4000
/-- Bits 59:48 of COR_HST_BASE, RW. -/
def COR_HST_BASE.LAYERS : Fld := ⟨48, 12⟩
/-- Bits 47:8 of COR_HST_BASE, RW. -/
def COR_HST_BASE.ADDR : Fld := ⟨8, 40⟩
/-- COR_HST_STATUS (R95). -/
def COR_HST_STATUS (c : Nat) : Nat := 0x120000000918 + c * 0x4000
/-- Bits 3:3 of COR_HST_STATUS, W1C. -/
def COR_HST_STATUS.ADDRERR : Fld := ⟨3, 1⟩
/-- Bits 2:2 of COR_HST_STATUS, W1C. -/
def COR_HST_STATUS.TAGRANGE : Fld := ⟨2, 1⟩
/-- Bits 1:1 of COR_HST_STATUS, W1C. -/
def COR_HST_STATUS.HSAT : Fld := ⟨1, 1⟩
/-- Bits 0:0 of COR_HST_STATUS, RO. -/
def COR_HST_STATUS.FLUSH_BUSY : Fld := ⟨0, 1⟩
/-- COR_HST_SAMPLES (R95). -/
def COR_HST_SAMPLES (c : Nat) : Nat := 0x120000000920 + c * 0x4000
/-- COR_TILE_CTL (R135). -/
def COR_TILE_CTL (c : Nat) : Nat := 0x120000000a00 + c * 0x4000
/-- Bits 8:8 of COR_TILE_CTL, WO. -/
def COR_TILE_CTL.CNT_CLR : Fld := ⟨8, 1⟩
/-- Bits 7:0 of COR_TILE_CTL, RW. -/
def COR_TILE_CTL.RESTART_MAX : Fld := ⟨0, 8⟩
/-- COR_TILE_STATE (R135). -/
def COR_TILE_STATE (c : Nat) : Nat := 0x120000000a08 + c * 0x4000
/-- Bits 63:0 of COR_TILE_STATE, RO. -/
def COR_TILE_STATE.STATE : Fld := ⟨0, 64⟩
/-- COR_TFAULT_CMD (R135). -/
def COR_TFAULT_CMD (c : Nat) : Nat := 0x120000000a10 + c * 0x4000
/-- Bits 5:4 of COR_TFAULT_CMD, WO. -/
def COR_TFAULT_CMD.SLOT : Fld := ⟨4, 2⟩
/-- Bits 1:1 of COR_TFAULT_CMD, WO. -/
def COR_TFAULT_CMD.ABORT : Fld := ⟨1, 1⟩
/-- Bits 0:0 of COR_TFAULT_CMD, WO. -/
def COR_TFAULT_CMD.RESUME : Fld := ⟨0, 1⟩
/-- COR_TFAULT_INFO (R135). -/
def COR_TFAULT_INFO (c i : Nat) : Nat := 0x120000000a40 + c * 0x4000 + i * 0x20
/-- Bits 63:63 of COR_TFAULT_INFO, RO. -/
def COR_TFAULT_INFO.VALID : Fld := ⟨63, 1⟩
/-- Bits 62:62 of COR_TFAULT_INFO, RO. -/
def COR_TFAULT_INFO.FATAL : Fld := ⟨62, 1⟩
/-- Bits 59:56 of COR_TFAULT_INFO, RO. -/
def COR_TFAULT_INFO.CAUSE : Fld := ⟨56, 4⟩
/-- Bits 55:48 of COR_TFAULT_INFO, RO. -/
def COR_TFAULT_INFO.ROW : Fld := ⟨48, 8⟩
/-- Bits 47:43 of COR_TFAULT_INFO, RO. -/
def COR_TFAULT_INFO.TILE : Fld := ⟨43, 5⟩
/-- Bits 42:42 of COR_TFAULT_INFO, RO. -/
def COR_TFAULT_INFO.STORE : Fld := ⟨42, 1⟩
/-- Bits 41:41 of COR_TFAULT_INFO, RO. -/
def COR_TFAULT_INFO.TRANSPOSE : Fld := ⟨41, 1⟩
/-- Bits 40:40 of COR_TFAULT_INFO, RO. -/
def COR_TFAULT_INFO.HOSTPT : Fld := ⟨40, 1⟩
/-- Bits 39:32 of COR_TFAULT_INFO, RO. -/
def COR_TFAULT_INFO.RESTARTS : Fld := ⟨32, 8⟩
/-- COR_TFAULT_VA (R135). -/
def COR_TFAULT_VA (c i : Nat) : Nat := 0x120000000a48 + c * 0x4000 + i * 0x20
/-- Bits 47:0 of COR_TFAULT_VA, RO. -/
def COR_TFAULT_VA.VA : Fld := ⟨0, 48⟩
/-- COR_TFAULT_PC (R135). -/
def COR_TFAULT_PC (c i : Nat) : Nat := 0x120000000a50 + c * 0x4000 + i * 0x20
/-- Bits 47:0 of COR_TFAULT_PC, RO. -/
def COR_TFAULT_PC.PC : Fld := ⟨0, 48⟩
/-- COR_TILE_LOADS (R135). -/
def COR_TILE_LOADS (c : Nat) : Nat := 0x120000000ac0 + c * 0x4000
/-- COR_TILE_STORES (R135). -/
def COR_TILE_STORES (c : Nat) : Nat := 0x120000000ac8 + c * 0x4000
/-- COR_TILE_RESTARTS (R135). -/
def COR_TILE_RESTARTS (c : Nat) : Nat := 0x120000000ad0 + c * 0x4000
/-- COR_TILE_IRQRST (R135). -/
def COR_TILE_IRQRST (c : Nat) : Nat := 0x120000000ad8 + c * 0x4000
/-- COR_TILE_CLAMPS (R135). -/
def COR_TILE_CLAMPS (c : Nat) : Nat := 0x120000000ae0 + c * 0x4000
/-- COR_VEC_CTL (R160). -/
def COR_VEC_CTL (c : Nat) : Nat := 0x120000000b00 + c * 0x4000
/-- Bits 8:8 of COR_VEC_CTL, WO. -/
def COR_VEC_CTL.CNT_CLR : Fld := ⟨8, 1⟩
/-- Bits 1:1 of COR_VEC_CTL, RW. -/
def COR_VEC_CTL.MMNUM : Fld := ⟨1, 1⟩
/-- Bits 0:0 of COR_VEC_CTL, RW. -/
def COR_VEC_CTL.FLAG_ALL : Fld := ⟨0, 1⟩
/-- COR_VFLAGS (R160). -/
def COR_VFLAGS (c : Nat) : Nat := 0x120000000b08 + c * 0x4000
/-- Bits 4:4 of COR_VFLAGS, W1C. -/
def COR_VFLAGS.NX : Fld := ⟨4, 1⟩
/-- Bits 3:3 of COR_VFLAGS, W1C. -/
def COR_VFLAGS.UF : Fld := ⟨3, 1⟩
/-- Bits 2:2 of COR_VFLAGS, W1C. -/
def COR_VFLAGS.OF : Fld := ⟨2, 1⟩
/-- Bits 1:1 of COR_VFLAGS, W1C. -/
def COR_VFLAGS.DZ : Fld := ⟨1, 1⟩
/-- Bits 0:0 of COR_VFLAGS, W1C. -/
def COR_VFLAGS.NV : Fld := ⟨0, 1⟩
/-- COR_VEC_OPS (R160). -/
def COR_VEC_OPS (c : Nat) : Nat := 0x120000000b40 + c * 0x4000
/-- COR_VEC_BEATS (R160). -/
def COR_VEC_BEATS (c : Nat) : Nat := 0x120000000b48 + c * 0x4000
/-- COR_VEC_SLOTWAIT (R160). -/
def COR_VEC_SLOTWAIT (c : Nat) : Nat := 0x120000000b50 + c * 0x4000
/-- COR_MASK (R160). -/
def COR_MASK (c i j : Nat) : Nat := 0x120000001000 + c * 0x4000 + i * 0x200 + j * 0x8
/-- Bits 63:0 of COR_MASK, RO. -/
def COR_MASK.BITS : Fld := ⟨0, 64⟩
/-- COR_IVEC (R190). -/
def COR_IVEC (c : Nat) : Nat := 0x120000000c00 + c * 0x4000
/-- Bits 47:3 of COR_IVEC, RW. -/
def COR_IVEC.ADDR : Fld := ⟨3, 45⟩
/-- COR_EPC (R190). -/
def COR_EPC (c : Nat) : Nat := 0x120000000c08 + c * 0x4000
/-- Bits 47:3 of COR_EPC, RW. -/
def COR_EPC.ADDR : Fld := ⟨3, 45⟩
/-- COR_IEN (R190). -/
def COR_IEN (c : Nat) : Nat := 0x120000000c10 + c * 0x4000
/-- Bits 1:1 of COR_IEN, RW. -/
def COR_IEN.FW : Fld := ⟨1, 1⟩
/-- Bits 0:0 of COR_IEN, RW. -/
def COR_IEN.WATCH : Fld := ⟨0, 1⟩
/-- COR_IPEND (R190). -/
def COR_IPEND (c : Nat) : Nat := 0x120000000c18 + c * 0x4000
/-- Bits 2:2 of COR_IPEND, RO. -/
def COR_IPEND.INHANDLER : Fld := ⟨2, 1⟩
/-- Bits 1:1 of COR_IPEND, W1C. -/
def COR_IPEND.FW : Fld := ⟨1, 1⟩
/-- Bits 0:0 of COR_IPEND, RO. -/
def COR_IPEND.WATCH : Fld := ⟨0, 1⟩
/-- COR_IRAISE (R190). -/
def COR_IRAISE (c : Nat) : Nat := 0x120000000c38 + c * 0x4000
/-- Bits 1:1 of COR_IRAISE, WO. -/
def COR_IRAISE.FW : Fld := ⟨1, 1⟩
/-- COR_EXC (R190). -/
def COR_EXC (c : Nat) : Nat := 0x120000000c20 + c * 0x4000
/-- Bits 63:63 of COR_EXC, RO. -/
def COR_EXC.VALID : Fld := ⟨63, 1⟩
/-- Bits 62:62 of COR_EXC, RO. -/
def COR_EXC.FATAL : Fld := ⟨62, 1⟩
/-- Bits 59:56 of COR_EXC, RO. -/
def COR_EXC.CAUSE : Fld := ⟨56, 4⟩
/-- Bits 55:54 of COR_EXC, RO. -/
def COR_EXC.SLOT : Fld := ⟨54, 2⟩
/-- Bits 51:48 of COR_EXC, RO. -/
def COR_EXC.FCAUSE : Fld := ⟨48, 4⟩
/-- Bits 1:1 of COR_EXC, WO. -/
def COR_EXC.ABORT : Fld := ⟨1, 1⟩
/-- Bits 0:0 of COR_EXC, WO. -/
def COR_EXC.RESUME : Fld := ⟨0, 1⟩
/-- COR_EXC_PC (R190). -/
def COR_EXC_PC (c : Nat) : Nat := 0x120000000c28 + c * 0x4000
/-- Bits 47:0 of COR_EXC_PC, RO. -/
def COR_EXC_PC.PC : Fld := ⟨0, 48⟩
/-- COR_CVT_SEED (R190). -/
def COR_CVT_SEED (c : Nat) : Nat := 0x120000000c30 + c * 0x4000
/-- Bits 31:0 of COR_CVT_SEED, RW. -/
def COR_CVT_SEED.SEED : Fld := ⟨0, 32⟩
/-- COR_CYCLE (R190). -/
def COR_CYCLE (c : Nat) : Nat := 0x120000000c40 + c * 0x4000
/-- COR_INSTRET (R190). -/
def COR_INSTRET (c : Nat) : Nat := 0x120000000c48 + c * 0x4000
/-- COR_ISTALL (R190). -/
def COR_ISTALL (c : Nat) : Nat := 0x120000000c50 + c * 0x4000
/-- COR_MEM_CTL (R198). -/
def COR_MEM_CTL (c : Nat) : Nat := 0x120000000d00 + c * 0x4000
/-- Bits 9:9 of COR_MEM_CTL, WO. -/
def COR_MEM_CTL.INV : Fld := ⟨9, 1⟩
/-- Bits 8:8 of COR_MEM_CTL, WO. -/
def COR_MEM_CTL.CNT_CLR : Fld := ⟨8, 1⟩
/-- Bits 3:2 of COR_MEM_CTL, RO. -/
def COR_MEM_CTL.SPLIT_NOW : Fld := ⟨2, 2⟩
/-- Bits 1:0 of COR_MEM_CTL, RW. -/
def COR_MEM_CTL.SPLIT : Fld := ⟨0, 2⟩
/-- COR_CACHE_HIT (R198). -/
def COR_CACHE_HIT (c : Nat) : Nat := 0x120000000d40 + c * 0x4000
/-- COR_CACHE_MISS (R198). -/
def COR_CACHE_MISS (c : Nat) : Nat := 0x120000000d48 + c * 0x4000
/-- COR_UNCACHED (R198). -/
def COR_UNCACHED (c : Nat) : Nat := 0x120000000d50 + c * 0x4000
/-- COR_MISS_STATUS (R260). -/
def COR_MISS_STATUS (c : Nat) : Nat := 0x120000000e00 + c * 0x4000
/-- Bits 13:8 of COR_MISS_STATUS, RO. -/
def COR_MISS_STATUS.PARKED : Fld := ⟨8, 6⟩
/-- Bits 5:0 of COR_MISS_STATUS, RO. -/
def COR_MISS_STATUS.INUSE : Fld := ⟨0, 6⟩
/-- COR_MISS_STALL (R260). -/
def COR_MISS_STALL (c : Nat) : Nat := 0x120000000e40 + c * 0x4000
/-- COR_MISS_PARK (R260). -/
def COR_MISS_PARK (c : Nat) : Nat := 0x120000000e48 + c * 0x4000

/-- The register rows of the COR block. -/
def rowsCOR : List RegRow :=
  [
   -- COR_ID
   ⟨0x0, [], [⟨10, 1, .ro, 0, 0, 2 ^ 64 - 1⟩, ⟨0, 10, .ro, 0, 0, 2 ^ 64 - 1⟩]⟩,
   -- COR_STATUS
   ⟨0x10, [], [⟨2, 1, .w1c, 0, 0, 2 ^ 64 - 1⟩, ⟨1, 1, .w1c, 0, 0, 2 ^ 64 - 1⟩, ⟨0, 1, .w1c, 0, 0, 2 ^ 64 - 1⟩]⟩,
   -- COR_MTX_CTL
   ⟨0x800, [], [⟨7, 1, .wo, 0, 0, 2 ^ 64 - 1⟩, ⟨6, 1, .wo, 0, 0, 2 ^ 64 - 1⟩, ⟨2, 1, .rw, 1, 0, 2 ^ 64 - 1⟩, ⟨1, 1, .rw, 1, 0, 2 ^ 64 - 1⟩, ⟨0, 1, .rw, 1, 0, 2 ^ 64 - 1⟩]⟩,
   -- COR_MTX_STATUS
   ⟨0x808, [], [⟨21, 3, .ro, 0, 0, 2 ^ 64 - 1⟩, ⟨18, 3, .ro, 0, 0, 2 ^ 64 - 1⟩, ⟨15, 3, .ro, 0, 0, 2 ^ 64 - 1⟩, ⟨12, 3, .ro, 0, 0, 2 ^ 64 - 1⟩, ⟨5, 1, .w1c, 0, 0, 2 ^ 64 - 1⟩, ⟨4, 1, .w1c, 0, 0, 2 ^ 64 - 1⟩, ⟨3, 1, .w1c, 0, 0, 2 ^ 64 - 1⟩, ⟨2, 1, .w1c, 0, 0, 2 ^ 64 - 1⟩, ⟨1, 1, .w1c, 0, 0, 2 ^ 64 - 1⟩, ⟨0, 1, .w1c, 0, 0, 2 ^ 64 - 1⟩]⟩,
   -- COR_MTX_SEED
   ⟨0x810, [(3, 0x8)], [⟨0, 32, .rw, 0, 0, 2 ^ 64 - 1⟩]⟩,
   -- COR_MTX_OPS
   ⟨0x840, [(3, 0x8)], cntFlds⟩,
   -- COR_MTX_SWAPSTALL
   ⟨0x858, [], cntFlds⟩,
   -- COR_MTX_FORMSW
   ⟨0x860, [], cntFlds⟩,
   -- COR_SPR_SKIP
   ⟨0x868, [], cntFlds⟩,
   -- COR_SPR_REISSUE
   ⟨0x870, [], cntFlds⟩,
   -- COR_SPR_MISSED
   ⟨0x878, [], cntFlds⟩,
   -- COR_SPR_ROWSKIP
   ⟨0x880, [], cntFlds⟩] ++
  [
   -- COR_HST_CTL
   ⟨0x900, [], [⟨16, 8, .rw, 80, 0, 2 ^ 64 - 1⟩, ⟨8, 4, .rw, 0, 0, 8⟩, ⟨1, 1, .wo, 0, 0, 2 ^ 64 - 1⟩, ⟨0, 1, .rw, 0, 0, 2 ^ 64 - 1⟩]⟩,
   -- COR_HST_TAG
   ⟨0x908, [], [⟨0, 16, .rw, 65535, 0, 2 ^ 64 - 1⟩]⟩,
   -- COR_HST_BASE
   ⟨0x910, [], [⟨48, 12, .rw, 0, 0, 2 ^ 64 - 1⟩, ⟨8, 40, .rw, 0, 0, 2 ^ 64 - 1⟩]⟩,
   -- COR_HST_STATUS
   ⟨0x918, [], [⟨3, 1, .w1c, 0, 0, 2 ^ 64 - 1⟩, ⟨2, 1, .w1c, 0, 0, 2 ^ 64 - 1⟩, ⟨1, 1, .w1c, 0, 0, 2 ^ 64 - 1⟩, ⟨0, 1, .ro, 0, 0, 2 ^ 64 - 1⟩]⟩,
   -- COR_HST_SAMPLES
   ⟨0x920, [], cntFlds⟩,
   -- COR_TILE_CTL
   ⟨0xa00, [], [⟨8, 1, .wo, 0, 0, 2 ^ 64 - 1⟩, ⟨0, 8, .rw, 8, 1, 2 ^ 64 - 1⟩]⟩,
   -- COR_TILE_STATE
   ⟨0xa08, [], [⟨0, 64, .ro, 0, 0, 2 ^ 64 - 1⟩]⟩,
   -- COR_TFAULT_CMD
   ⟨0xa10, [], [⟨4, 2, .wo, 0, 0, 2 ^ 64 - 1⟩, ⟨1, 1, .wo, 0, 0, 2 ^ 64 - 1⟩, ⟨0, 1, .wo, 0, 0, 2 ^ 64 - 1⟩]⟩,
   -- COR_TFAULT_INFO
   ⟨0xa40, [(4, 0x20)], [⟨63, 1, .ro, 0, 0, 2 ^ 64 - 1⟩, ⟨62, 1, .ro, 0, 0, 2 ^ 64 - 1⟩, ⟨56, 4, .ro, 0, 0, 2 ^ 64 - 1⟩, ⟨48, 8, .ro, 0, 0, 2 ^ 64 - 1⟩, ⟨43, 5, .ro, 0, 0, 2 ^ 64 - 1⟩, ⟨42, 1, .ro, 0, 0, 2 ^ 64 - 1⟩, ⟨41, 1, .ro, 0, 0, 2 ^ 64 - 1⟩, ⟨40, 1, .ro, 0, 0, 2 ^ 64 - 1⟩, ⟨32, 8, .ro, 0, 0, 2 ^ 64 - 1⟩]⟩,
   -- COR_TFAULT_VA
   ⟨0xa48, [(4, 0x20)], [⟨0, 48, .ro, 0, 0, 2 ^ 64 - 1⟩]⟩,
   -- COR_TFAULT_PC
   ⟨0xa50, [(4, 0x20)], [⟨0, 48, .ro, 0, 0, 2 ^ 64 - 1⟩]⟩,
   -- COR_TILE_LOADS
   ⟨0xac0, [], cntFlds⟩] ++
  [
   -- COR_TILE_STORES
   ⟨0xac8, [], cntFlds⟩,
   -- COR_TILE_RESTARTS
   ⟨0xad0, [], cntFlds⟩,
   -- COR_TILE_IRQRST
   ⟨0xad8, [], cntFlds⟩,
   -- COR_TILE_CLAMPS
   ⟨0xae0, [], cntFlds⟩,
   -- COR_VEC_CTL
   ⟨0xb00, [], [⟨8, 1, .wo, 0, 0, 2 ^ 64 - 1⟩, ⟨1, 1, .rw, 0, 0, 2 ^ 64 - 1⟩, ⟨0, 1, .rw, 0, 0, 2 ^ 64 - 1⟩]⟩,
   -- COR_VFLAGS
   ⟨0xb08, [], [⟨4, 1, .w1c, 0, 0, 2 ^ 64 - 1⟩, ⟨3, 1, .w1c, 0, 0, 2 ^ 64 - 1⟩, ⟨2, 1, .w1c, 0, 0, 2 ^ 64 - 1⟩, ⟨1, 1, .w1c, 0, 0, 2 ^ 64 - 1⟩, ⟨0, 1, .w1c, 0, 0, 2 ^ 64 - 1⟩]⟩,
   -- COR_VEC_OPS
   ⟨0xb40, [], cntFlds⟩,
   -- COR_VEC_BEATS
   ⟨0xb48, [], cntFlds⟩,
   -- COR_VEC_SLOTWAIT
   ⟨0xb50, [], cntFlds⟩,
   -- COR_MASK
   ⟨0x1000, [(8, 0x200), (64, 0x8)], [⟨0, 64, .ro, 18446744073709551615, 0, 2 ^ 64 - 1⟩]⟩,
   -- COR_IVEC
   ⟨0xc00, [], [⟨3, 45, .rw, 0, 0, 2 ^ 64 - 1⟩]⟩,
   -- COR_EPC
   ⟨0xc08, [], [⟨3, 45, .rw, 0, 0, 2 ^ 64 - 1⟩]⟩] ++
  [
   -- COR_IEN
   ⟨0xc10, [], [⟨1, 1, .rw, 0, 0, 2 ^ 64 - 1⟩, ⟨0, 1, .rw, 0, 0, 2 ^ 64 - 1⟩]⟩,
   -- COR_IPEND
   ⟨0xc18, [], [⟨2, 1, .ro, 0, 0, 2 ^ 64 - 1⟩, ⟨1, 1, .w1c, 0, 0, 2 ^ 64 - 1⟩, ⟨0, 1, .ro, 0, 0, 2 ^ 64 - 1⟩]⟩,
   -- COR_IRAISE
   ⟨0xc38, [], [⟨1, 1, .wo, 0, 0, 2 ^ 64 - 1⟩]⟩,
   -- COR_EXC
   ⟨0xc20, [], [⟨63, 1, .ro, 0, 0, 2 ^ 64 - 1⟩, ⟨62, 1, .ro, 0, 0, 2 ^ 64 - 1⟩, ⟨56, 4, .ro, 0, 0, 2 ^ 64 - 1⟩, ⟨54, 2, .ro, 0, 0, 2 ^ 64 - 1⟩, ⟨48, 4, .ro, 0, 0, 2 ^ 64 - 1⟩, ⟨1, 1, .wo, 0, 0, 2 ^ 64 - 1⟩, ⟨0, 1, .wo, 0, 0, 2 ^ 64 - 1⟩]⟩,
   -- COR_EXC_PC
   ⟨0xc28, [], [⟨0, 48, .ro, 0, 0, 2 ^ 64 - 1⟩]⟩,
   -- COR_CVT_SEED
   ⟨0xc30, [], [⟨0, 32, .rw, 1260224041, 0, 2 ^ 64 - 1⟩]⟩,
   -- COR_CYCLE
   ⟨0xc40, [], cntFlds⟩,
   -- COR_INSTRET
   ⟨0xc48, [], cntFlds⟩,
   -- COR_ISTALL
   ⟨0xc50, [], cntFlds⟩,
   -- COR_MEM_CTL
   ⟨0xd00, [], [⟨9, 1, .wo, 0, 0, 2 ^ 64 - 1⟩, ⟨8, 1, .wo, 0, 0, 2 ^ 64 - 1⟩, ⟨2, 2, .ro, 1, 0, 2 ^ 64 - 1⟩, ⟨0, 2, .rw, 1, 0, 2 ^ 64 - 1⟩]⟩,
   -- COR_CACHE_HIT
   ⟨0xd40, [], cntFlds⟩,
   -- COR_CACHE_MISS
   ⟨0xd48, [], cntFlds⟩] ++
  [
   -- COR_UNCACHED
   ⟨0xd50, [], cntFlds⟩,
   -- COR_MISS_STATUS
   ⟨0xe00, [], [⟨8, 6, .ro, 0, 0, 2 ^ 64 - 1⟩, ⟨0, 6, .ro, 0, 0, 2 ^ 64 - 1⟩]⟩,
   -- COR_MISS_STALL
   ⟨0xe40, [], cntFlds⟩,
   -- COR_MISS_PARK
   ⟨0xe48, [], cntFlds⟩]

/-! ### MEM block -/

/-- MEM_STEP (R213). -/
def MEM_STEP (d : Nat) : Nat := 0x120100000000 + d * 0x10000
/-- Bits 32:32 of MEM_STEP, RW. -/
def MEM_STEP.OPEN : Fld := ⟨32, 1⟩
/-- Bits 31:0 of MEM_STEP, RW. -/
def MEM_STEP.EPOCH : Fld := ⟨0, 32⟩
/-- MEM_PT_ROOT (R213). -/
def MEM_PT_ROOT (d : Nat) : Nat := 0x120100000008 + d * 0x10000
/-- Bits 51:12 of MEM_PT_ROOT, RW. -/
def MEM_PT_ROOT.ADDR : Fld := ⟨12, 40⟩
/-- Bits 0:0 of MEM_PT_ROOT, RW. -/
def MEM_PT_ROOT.EN : Fld := ⟨0, 1⟩
/-- MEM_ATS_CTL (R213). -/
def MEM_ATS_CTL (d : Nat) : Nat := 0x120100000010 + d * 0x10000
/-- Bits 21:21 of MEM_ATS_CTL, RW. -/
def MEM_ATS_CTL.ATS_EN : Fld := ⟨21, 1⟩
/-- Bits 20:20 of MEM_ATS_CTL, RW. -/
def MEM_ATS_CTL.PASID_EN : Fld := ⟨20, 1⟩
/-- Bits 19:0 of MEM_ATS_CTL, RW. -/
def MEM_ATS_CTL.PASID : Fld := ⟨0, 20⟩
/-- MEM_CHMAP (R213). -/
def MEM_CHMAP (d : Nat) : Nat := 0x120100000018 + d * 0x10000
/-- Bits 39:32 of MEM_CHMAP, RO. -/
def MEM_CHMAP.C : Fld := ⟨32, 8⟩
/-- Bits 31:0 of MEM_CHMAP, RO. -/
def MEM_CHMAP.DEV_ACTIVE : Fld := ⟨0, 32⟩
/-- MEM_RGN_STATUS (R213). -/
def MEM_RGN_STATUS (d : Nat) : Nat := 0x120100000020 + d * 0x10000
/-- Bits 1:1 of MEM_RGN_STATUS, RO. -/
def MEM_RGN_STATUS.HELD : Fld := ⟨1, 1⟩
/-- Bits 0:0 of MEM_RGN_STATUS, W1C. -/
def MEM_RGN_STATUS.OVERLAP : Fld := ⟨0, 1⟩
/-- MEM_LATEWR (R213). -/
def MEM_LATEWR (d : Nat) : Nat := 0x120100000040 + d * 0x10000
/-- MEM_RGN_BASE (R213). -/
def MEM_RGN_BASE (d i : Nat) : Nat := 0x120100000100 + d * 0x10000 + i * 0x10
/-- Bits 63:63 of MEM_RGN_BASE, RW. -/
def MEM_RGN_BASE.V : Fld := ⟨63, 1⟩
/-- Bits 59:58 of MEM_RGN_BASE, RW. -/
def MEM_RGN_BASE.MARK : Fld := ⟨58, 2⟩
/-- Bits 51:16 of MEM_RGN_BASE, RW. -/
def MEM_RGN_BASE.BASE : Fld := ⟨16, 36⟩
/-- MEM_RGN_LIMIT (R213). -/
def MEM_RGN_LIMIT (d i : Nat) : Nat := 0x120100000108 + d * 0x10000 + i * 0x10
/-- Bits 51:16 of MEM_RGN_LIMIT, RW. -/
def MEM_RGN_LIMIT.LIMIT : Fld := ⟨16, 36⟩
/-- MEM_DMA_CTL (R260). -/
def MEM_DMA_CTL (d : Nat) : Nat := 0x120100000600 + d * 0x10000
/-- Bits 24:24 of MEM_DMA_CTL, WO. -/
def MEM_DMA_CTL.CNT_CLR : Fld := ⟨24, 1⟩
/-- Bits 21:16 of MEM_DMA_CTL, RW. -/
def MEM_DMA_CTL.BLOCKS : Fld := ⟨16, 6⟩
/-- Bits 11:0 of MEM_DMA_CTL, RW. -/
def MEM_DMA_CTL.CH_QUOTA : Fld := ⟨0, 12⟩
/-- MEM_TAG_STATUS (R260). -/
def MEM_TAG_STATUS (d : Nat) : Nat := 0x120100000608 + d * 0x10000
/-- Bits 45:32 of MEM_TAG_STATUS, RO. -/
def MEM_TAG_STATUS.LOW : Fld := ⟨32, 14⟩
/-- Bits 13:0 of MEM_TAG_STATUS, RO. -/
def MEM_TAG_STATUS.FREE : Fld := ⟨0, 14⟩
/-- MEM_TAG_WAIT (R260). -/
def MEM_TAG_WAIT (d : Nat) : Nat := 0x120100000640 + d * 0x10000
/-- MEM_CHQ_HELD (R260). -/
def MEM_CHQ_HELD (d : Nat) : Nat := 0x120100000648 + d * 0x10000

/-- The register rows of the MEM block. -/
def rowsMEM : List RegRow :=
  [
   -- MEM_STEP
   ⟨0x0, [], [⟨32, 1, .rw, 0, 0, 2 ^ 64 - 1⟩, ⟨0, 32, .rw, 0, 0, 2 ^ 64 - 1⟩]⟩,
   -- MEM_PT_ROOT
   ⟨0x8, [], [⟨12, 40, .rw, 0, 0, 2 ^ 64 - 1⟩, ⟨0, 1, .rw, 0, 0, 2 ^ 64 - 1⟩]⟩,
   -- MEM_ATS_CTL
   ⟨0x10, [], [⟨21, 1, .rw, 0, 0, 2 ^ 64 - 1⟩, ⟨20, 1, .rw, 0, 0, 2 ^ 64 - 1⟩, ⟨0, 20, .rw, 0, 0, 2 ^ 64 - 1⟩]⟩,
   -- MEM_CHMAP
   ⟨0x18, [], [⟨32, 8, .ro, 128, 0, 2 ^ 64 - 1⟩, ⟨0, 32, .ro, 4294967295, 0, 2 ^ 64 - 1⟩]⟩,
   -- MEM_RGN_STATUS
   ⟨0x20, [], [⟨1, 1, .ro, 0, 0, 2 ^ 64 - 1⟩, ⟨0, 1, .w1c, 0, 0, 2 ^ 64 - 1⟩]⟩,
   -- MEM_LATEWR
   ⟨0x40, [], cntFlds⟩,
   -- MEM_RGN_BASE
   ⟨0x100, [(64, 0x10)], [⟨63, 1, .rw, 0, 0, 2 ^ 64 - 1⟩, ⟨58, 2, .rw, 0, 0, 2⟩, ⟨16, 36, .rw, 0, 0, 2 ^ 64 - 1⟩]⟩,
   -- MEM_RGN_LIMIT
   ⟨0x108, [(64, 0x10)], [⟨16, 36, .rw, 0, 0, 2 ^ 64 - 1⟩]⟩,
   -- MEM_DMA_CTL
   ⟨0x600, [], [⟨24, 1, .wo, 0, 0, 2 ^ 64 - 1⟩, ⟨16, 6, .rw, 8, 1, 63⟩, ⟨0, 12, .rw, 256, 64, 2048⟩]⟩,
   -- MEM_TAG_STATUS
   ⟨0x608, [], [⟨32, 14, .ro, 8192, 0, 2 ^ 64 - 1⟩, ⟨0, 14, .ro, 8192, 0, 2 ^ 64 - 1⟩]⟩,
   -- MEM_TAG_WAIT
   ⟨0x640, [], cntFlds⟩,
   -- MEM_CHQ_HELD
   ⟨0x648, [], cntFlds⟩]

/-! ### STM block -/

/-- STM_STALE_CNT (R225). -/
def STM_STALE_CNT (d : Nat) : Nat := 0x120200000000 + d * 0x10000
/-- STM_STALE_LAST (R225). -/
def STM_STALE_LAST (d : Nat) : Nat := 0x120200000008 + d * 0x10000
/-- Bits 51:12 of STM_STALE_LAST, RO. -/
def STM_STALE_LAST.BLOCK : Fld := ⟨12, 40⟩
/-- Bits 1:0 of STM_STALE_LAST, RO. -/
def STM_STALE_LAST.KIND : Fld := ⟨0, 2⟩
/-- STM_REREAD (R225). -/
def STM_REREAD (d : Nat) : Nat := 0x120200000010 + d * 0x10000
/-- STM_CLAMPS (R225). -/
def STM_CLAMPS (d : Nat) : Nat := 0x120200000018 + d * 0x10000
/-- STM_RING_CTL (R225). -/
def STM_RING_CTL (d i : Nat) : Nat := 0x120200000100 + d * 0x10000 + i * 0x80
/-- Bits 43:32 of STM_RING_CTL, RW. -/
def STM_RING_CTL.TAGS : Fld := ⟨32, 12⟩
/-- Bits 27:24 of STM_RING_CTL, RW. -/
def STM_RING_CTL.DIE_MASK : Fld := ⟨24, 4⟩
/-- Bits 21:16 of STM_RING_CTL, RW. -/
def STM_RING_CTL.DEPTH : Fld := ⟨16, 6⟩
/-- Bits 13:8 of STM_RING_CTL, RW. -/
def STM_RING_CTL.SLOTS : Fld := ⟨8, 6⟩
/-- Bits 2:1 of STM_RING_CTL, RW. -/
def STM_RING_CTL.CLASS : Fld := ⟨1, 2⟩
/-- Bits 0:0 of STM_RING_CTL, RW. -/
def STM_RING_CTL.EN : Fld := ⟨0, 1⟩
/-- STM_RING_LIST (R225). -/
def STM_RING_LIST (d i : Nat) : Nat := 0x120200000108 + d * 0x10000 + i * 0x80
/-- Bits 63:48 of STM_RING_LIST, RW. -/
def STM_RING_LIST.COUNT : Fld := ⟨48, 16⟩
/-- Bits 47:4 of STM_RING_LIST, RW. -/
def STM_RING_LIST.VA : Fld := ⟨4, 44⟩
/-- STM_RING_SLOT (R225). -/
def STM_RING_SLOT (d i : Nat) : Nat := 0x120200000110 + d * 0x10000 + i * 0x80
/-- Bits 15:0 of STM_RING_SLOT, RW. -/
def STM_RING_SLOT.SIZE : Fld := ⟨0, 16⟩
/-- STM_RING_SYNC (R225). -/
def STM_RING_SYNC (d i : Nat) : Nat := 0x120200000118 + d * 0x10000 + i * 0x80
/-- Bits 49:32 of STM_RING_SYNC, RW. -/
def STM_RING_SYNC.REL : Fld := ⟨32, 18⟩
/-- Bits 17:0 of STM_RING_SYNC, RW. -/
def STM_RING_SYNC.PROD : Fld := ⟨0, 18⟩
/-- STM_RING_POS (R225). -/
def STM_RING_POS (d i : Nat) : Nat := 0x120200000140 + d * 0x10000 + i * 0x80
/-- Bits 63:63 of STM_RING_POS, RO. -/
def STM_RING_POS.ERR : Fld := ⟨63, 1⟩
/-- Bits 62:62 of STM_RING_POS, RO. -/
def STM_RING_POS.DONE : Fld := ⟨62, 1⟩
/-- Bits 15:0 of STM_RING_POS, RO. -/
def STM_RING_POS.FILLED : Fld := ⟨0, 16⟩
/-- STM_RING_BASE (R225). -/
def STM_RING_BASE (d i j : Nat) : Nat := 0x120200000120 + d * 0x10000 + i * 0x80 + j * 0x8
/-- Bits 51:12 of STM_RING_BASE, RW. -/
def STM_RING_BASE.ADDR : Fld := ⟨12, 40⟩

/-- The register rows of the STM block. -/
def rowsSTM : List RegRow :=
  [
   -- STM_STALE_CNT
   ⟨0x0, [], cntFlds⟩,
   -- STM_STALE_LAST
   ⟨0x8, [], [⟨12, 40, .ro, 0, 0, 2 ^ 64 - 1⟩, ⟨0, 2, .ro, 0, 0, 2 ^ 64 - 1⟩]⟩,
   -- STM_REREAD
   ⟨0x10, [], cntFlds⟩,
   -- STM_CLAMPS
   ⟨0x18, [], cntFlds⟩,
   -- STM_RING_CTL
   ⟨0x100, [(8, 0x80)], [⟨32, 12, .rw, 256, 0, 2 ^ 64 - 1⟩, ⟨24, 4, .rw, 0, 0, 2 ^ 64 - 1⟩, ⟨16, 6, .rw, 1, 0, 2 ^ 64 - 1⟩, ⟨8, 6, .rw, 1, 1, 2 ^ 64 - 1⟩, ⟨1, 2, .rw, 0, 0, 2 ^ 64 - 1⟩, ⟨0, 1, .rw, 0, 0, 2 ^ 64 - 1⟩]⟩,
   -- STM_RING_LIST
   ⟨0x108, [(8, 0x80)], [⟨48, 16, .rw, 0, 0, 2 ^ 64 - 1⟩, ⟨4, 44, .rw, 0, 0, 2 ^ 64 - 1⟩]⟩,
   -- STM_RING_SLOT
   ⟨0x110, [(8, 0x80)], [⟨0, 16, .rw, 1, 1, 2 ^ 64 - 1⟩]⟩,
   -- STM_RING_SYNC
   ⟨0x118, [(8, 0x80)], [⟨32, 18, .rw, 0, 0, 2 ^ 64 - 1⟩, ⟨0, 18, .rw, 0, 0, 2 ^ 64 - 1⟩]⟩,
   -- STM_RING_POS
   ⟨0x140, [(8, 0x80)], [⟨63, 1, .ro, 0, 0, 2 ^ 64 - 1⟩, ⟨62, 1, .ro, 0, 0, 2 ^ 64 - 1⟩, ⟨0, 16, .ro, 0, 0, 2 ^ 64 - 1⟩]⟩,
   -- STM_RING_BASE
   ⟨0x120, [(8, 0x80), (4, 0x8)], [⟨12, 40, .rw, 0, 0, 2 ^ 64 - 1⟩]⟩]

/-! ### CLU block -/

/-- CLU_SORT_CTL (R260). -/
def CLU_SORT_CTL (k : Nat) : Nat := 0x120300000000 + k * 0x1000
/-- Bits 32:32 of CLU_SORT_CTL, WO. -/
def CLU_SORT_CTL.CNT_CLR : Fld := ⟨32, 1⟩
/-- Bits 31:20 of CLU_SORT_CTL, RW. -/
def CLU_SORT_CTL.AGE_MAX : Fld := ⟨20, 12⟩
/-- Bits 19:16 of CLU_SORT_CTL, RW. -/
def CLU_SORT_CTL.ROW_BURST : Fld := ⟨16, 4⟩
/-- Bits 8:8 of CLU_SORT_CTL, RW. -/
def CLU_SORT_CTL.MERGE_EN : Fld := ⟨8, 1⟩
/-- Bits 5:0 of CLU_SORT_CTL, RW. -/
def CLU_SORT_CTL.QUOTA : Fld := ⟨0, 6⟩
/-- CLU_SORT_STATUS (R260). -/
def CLU_SORT_STATUS (k : Nat) : Nat := 0x120300000008 + k * 0x1000
/-- Bits 25:16 of CLU_SORT_STATUS, RO. -/
def CLU_SORT_STATUS.PARKED : Fld := ⟨16, 10⟩
/-- Bits 9:0 of CLU_SORT_STATUS, RO. -/
def CLU_SORT_STATUS.LINES : Fld := ⟨0, 10⟩
/-- CLU_SORT_REQ (R260). -/
def CLU_SORT_REQ (k : Nat) : Nat := 0x120300000040 + k * 0x1000
/-- CLU_SORT_MERGED (R260). -/
def CLU_SORT_MERGED (k : Nat) : Nat := 0x120300000048 + k * 0x1000
/-- CLU_SORT_ROWHIT (R260). -/
def CLU_SORT_ROWHIT (k : Nat) : Nat := 0x120300000050 + k * 0x1000

/-- The register rows of the CLU block. -/
def rowsCLU : List RegRow :=
  [
   -- CLU_SORT_CTL
   ⟨0x0, [], [⟨32, 1, .wo, 0, 0, 2 ^ 64 - 1⟩, ⟨20, 12, .rw, 512, 1, 2 ^ 64 - 1⟩, ⟨16, 4, .rw, 8, 1, 2 ^ 64 - 1⟩, ⟨8, 1, .rw, 1, 0, 2 ^ 64 - 1⟩, ⟨0, 6, .rw, 12, 4, 48⟩]⟩,
   -- CLU_SORT_STATUS
   ⟨0x8, [], [⟨16, 10, .ro, 0, 0, 2 ^ 64 - 1⟩, ⟨0, 10, .ro, 0, 0, 2 ^ 64 - 1⟩]⟩,
   -- CLU_SORT_REQ
   ⟨0x40, [], cntFlds⟩,
   -- CLU_SORT_MERGED
   ⟨0x48, [], cntFlds⟩,
   -- CLU_SORT_ROWHIT
   ⟨0x50, [], cntFlds⟩]

/-! ### ARB block -/

/-- ARB_CTL (R260). -/
def ARB_CTL (d : Nat) : Nat := 0x120400000000 + d * 0x10000
/-- Bits 1:1 of ARB_CTL, WO. -/
def ARB_CTL.CNT_CLR : Fld := ⟨1, 1⟩
/-- Bits 0:0 of ARB_CTL, RW. -/
def ARB_CTL.STARVE_IEN : Fld := ⟨0, 1⟩
/-- ARB_STARVE_THR (R260). -/
def ARB_STARVE_THR (d : Nat) : Nat := 0x120400000008 + d * 0x10000
/-- Bits 15:0 of ARB_STARVE_THR, RW. -/
def ARB_STARVE_THR.THR : Fld := ⟨0, 16⟩
/-- ARB_STARVE_REC (R260). -/
def ARB_STARVE_REC (d : Nat) : Nat := 0x120400000010 + d * 0x10000
/-- Bits 63:63 of ARB_STARVE_REC, W1C. -/
def ARB_STARVE_REC.VALID : Fld := ⟨63, 1⟩
/-- Bits 34:32 of ARB_STARVE_REC, RO. -/
def ARB_STARVE_REC.TABLE : Fld := ⟨32, 3⟩
/-- Bits 24:16 of ARB_STARVE_REC, RO. -/
def ARB_STARVE_REC.INST : Fld := ⟨16, 9⟩
/-- Bits 8:0 of ARB_STARVE_REC, RO. -/
def ARB_STARVE_REC.SLOT : Fld := ⟨0, 9⟩
/-- ARB_STARVE_CNT (R260). -/
def ARB_STARVE_CNT (d : Nat) : Nat := 0x120400000018 + d * 0x10000
/-- ARB_STARVE_MAP (R260). -/
def ARB_STARVE_MAP (d i j : Nat) : Nat := 0x120400000200 + d * 0x10000 + i * 0x40 + j * 0x8
/-- Bits 63:0 of ARB_STARVE_MAP, W1C. -/
def ARB_STARVE_MAP.BITS : Fld := ⟨0, 64⟩
/-- ARB_TKT (R260). -/
def ARB_TKT (d i j : Nat) : Nat := 0x120400001000 + d * 0x10000 + i * 0x1000 + j * 0x8
/-- Bits 9:8 of ARB_TKT, RW. -/
def ARB_TKT.CLASS : Fld := ⟨8, 2⟩
/-- Bits 7:0 of ARB_TKT, RW. -/
def ARB_TKT.TICKETS : Fld := ⟨0, 8⟩
/-- ARB_SEED (R260). -/
def ARB_SEED (d i : Nat) : Nat := 0x120400008000 + d * 0x10000 + i * 0x8
/-- Bits 31:0 of ARB_SEED, RW. -/
def ARB_SEED.SEED : Fld := ⟨0, 32⟩

/-- The register rows of the ARB block. -/
def rowsARB : List RegRow :=
  [
   -- ARB_CTL
   ⟨0x0, [], [⟨1, 1, .wo, 0, 0, 2 ^ 64 - 1⟩, ⟨0, 1, .rw, 1, 0, 2 ^ 64 - 1⟩]⟩,
   -- ARB_STARVE_THR
   ⟨0x8, [], [⟨0, 16, .rw, 4096, 1, 2 ^ 64 - 1⟩]⟩,
   -- ARB_STARVE_REC
   ⟨0x10, [], [⟨63, 1, .w1c, 0, 0, 2 ^ 64 - 1⟩, ⟨32, 3, .ro, 0, 0, 2 ^ 64 - 1⟩, ⟨16, 9, .ro, 0, 0, 2 ^ 64 - 1⟩, ⟨0, 9, .ro, 0, 0, 2 ^ 64 - 1⟩]⟩,
   -- ARB_STARVE_CNT
   ⟨0x18, [], cntFlds⟩,
   -- ARB_STARVE_MAP
   ⟨0x200, [(5, 0x40), (8, 0x8)], [⟨0, 64, .w1c, 0, 0, 2 ^ 64 - 1⟩]⟩,
   -- ARB_TKT
   ⟨0x1000, [(5, 0x1000), (512, 0x8)], [⟨8, 2, .rw, 1, 0, 2 ^ 64 - 1⟩, ⟨0, 8, .rw, 16, 0, 2 ^ 64 - 1⟩]⟩,
   -- ARB_SEED
   ⟨0x8000, [(277, 0x8)], [⟨0, 32, .rw, 0, 0, 2 ^ 64 - 1⟩]⟩]

/-! ### NOC block -/

/-- NOC_CTL (R290). -/
def NOC_CTL (d : Nat) : Nat := 0x120500000000 + d * 0x100000
/-- Bits 16:16 of NOC_CTL, WO. -/
def NOC_CTL.CNT_CLR : Fld := ⟨16, 1⟩
/-- Bits 15:8 of NOC_CTL, RW. -/
def NOC_CTL.HOLD : Fld := ⟨8, 8⟩
/-- Bits 0:0 of NOC_CTL, RW. -/
def NOC_CTL.COMB_EN : Fld := ⟨0, 1⟩
/-- NOC_BOUND (R290). -/
def NOC_BOUND (d : Nat) : Nat := 0x120500000008 + d * 0x100000
/-- Bits 31:0 of NOC_BOUND, RW. -/
def NOC_BOUND.T : Fld := ⟨0, 32⟩
/-- NOC_FENCE_MAP (R290). -/
def NOC_FENCE_MAP (d i : Nat) : Nat := 0x120500000020 + d * 0x100000 + i * 0x8
/-- Bits 63:0 of NOC_FENCE_MAP, RO. -/
def NOC_FENCE_MAP.CORES : Fld := ⟨0, 64⟩
/-- NOC_PACE_STOP (R290). -/
def NOC_PACE_STOP (d i : Nat) : Nat := 0x120500000100 + d * 0x100000 + i * 0x8
/-- Bits 31:31 of NOC_PACE_STOP, RW. -/
def NOC_PACE_STOP.EN : Fld := ⟨31, 1⟩
/-- Bits 22:16 of NOC_PACE_STOP, RW. -/
def NOC_PACE_STOP.BURST : Fld := ⟨16, 7⟩
/-- Bits 8:0 of NOC_PACE_STOP, RW. -/
def NOC_PACE_STOP.RATE : Fld := ⟨0, 9⟩
/-- NOC_RED_ADDR (R290). -/
def NOC_RED_ADDR (d i : Nat) : Nat := 0x120500000400 + d * 0x100000 + i * 0x10
/-- Bits 63:63 of NOC_RED_ADDR, RW. -/
def NOC_RED_ADDR.V : Fld := ⟨63, 1⟩
/-- Bits 62:62 of NOC_RED_ADDR, RO. -/
def NOC_RED_ADDR.ERR : Fld := ⟨62, 1⟩
/-- Bits 51:8 of NOC_RED_ADDR, RW. -/
def NOC_RED_ADDR.ADDR : Fld := ⟨8, 44⟩
/-- NOC_RED_CFG (R290). -/
def NOC_RED_CFG (d i : Nat) : Nat := 0x120500000408 + d * 0x100000 + i * 0x10
/-- Bits 45:28 of NOC_RED_CFG, RW. -/
def NOC_RED_CFG.OBJ : Fld := ⟨28, 18⟩
/-- Bits 27:16 of NOC_RED_CFG, RW. -/
def NOC_RED_CFG.EXPECT : Fld := ⟨16, 12⟩
/-- Bits 15:0 of NOC_RED_CFG, RW. -/
def NOC_RED_CFG.LINES : Fld := ⟨0, 16⟩
/-- NOC_MCG_ADDR (R290). -/
def NOC_MCG_ADDR (d i : Nat) : Nat := 0x120500000800 + d * 0x100000 + i * 0x10
/-- Bits 63:63 of NOC_MCG_ADDR, RW. -/
def NOC_MCG_ADDR.V : Fld := ⟨63, 1⟩
/-- Bits 62:62 of NOC_MCG_ADDR, RO. -/
def NOC_MCG_ADDR.ERR : Fld := ⟨62, 1⟩
/-- Bits 41:32 of NOC_MCG_ADDR, RW. -/
def NOC_MCG_ADDR.ROOT : Fld := ⟨32, 10⟩
/-- Bits 31:20 of NOC_MCG_ADDR, RW. -/
def NOC_MCG_ADDR.LEN : Fld := ⟨20, 12⟩
/-- Bits 19:8 of NOC_MCG_ADDR, RW. -/
def NOC_MCG_ADDR.OFFSET : Fld := ⟨8, 12⟩
/-- NOC_MCG_SET (R290). -/
def NOC_MCG_SET (d i : Nat) : Nat := 0x120500000808 + d * 0x100000 + i * 0x10
/-- Bits 19:16 of NOC_MCG_SET, RW. -/
def NOC_MCG_SET.DIES : Fld := ⟨16, 4⟩
/-- Bits 15:12 of NOC_MCG_SET, RW. -/
def NOC_MCG_SET.Y1 : Fld := ⟨12, 4⟩
/-- Bits 11:8 of NOC_MCG_SET, RW. -/
def NOC_MCG_SET.Y0 : Fld := ⟨8, 4⟩
/-- Bits 7:4 of NOC_MCG_SET, RW. -/
def NOC_MCG_SET.X1 : Fld := ⟨4, 4⟩
/-- Bits 3:0 of NOC_MCG_SET, RW. -/
def NOC_MCG_SET.X0 : Fld := ⟨0, 4⟩
/-- NOC_RED_ROUNDS (R290). -/
def NOC_RED_ROUNDS (d : Nat) : Nat := 0x120500000c00 + d * 0x100000
/-- NOC_RT_CTL (R290). -/
def NOC_RT_CTL (d i : Nat) : Nat := 0x120500010000 + d * 0x100000 + i * 0x100
/-- Bits 2:2 of NOC_RT_CTL, RO. -/
def NOC_RT_CTL.FUSED : Fld := ⟨2, 1⟩
/-- Bits 1:1 of NOC_RT_CTL, RO. -/
def NOC_RT_CTL.NEWT : Fld := ⟨1, 1⟩
/-- Bits 0:0 of NOC_RT_CTL, RW. -/
def NOC_RT_CTL.FENCE : Fld := ⟨0, 1⟩
/-- NOC_RT_PACE_L (R290). -/
def NOC_RT_PACE_L (d i : Nat) : Nat := 0x120500010008 + d * 0x100000 + i * 0x100
/-- Bits 31:31 of NOC_RT_PACE_L, RW. -/
def NOC_RT_PACE_L.EN : Fld := ⟨31, 1⟩
/-- Bits 22:16 of NOC_RT_PACE_L, RW. -/
def NOC_RT_PACE_L.BURST : Fld := ⟨16, 7⟩
/-- Bits 8:0 of NOC_RT_PACE_L, RW. -/
def NOC_RT_PACE_L.RATE : Fld := ⟨0, 9⟩
/-- NOC_RT_PACE_V (R290). -/
def NOC_RT_PACE_V (d i : Nat) : Nat := 0x120500010010 + d * 0x100000 + i * 0x100
/-- Bits 31:31 of NOC_RT_PACE_V, RW. -/
def NOC_RT_PACE_V.EN : Fld := ⟨31, 1⟩
/-- Bits 22:16 of NOC_RT_PACE_V, RW. -/
def NOC_RT_PACE_V.BURST : Fld := ⟨16, 7⟩
/-- Bits 8:0 of NOC_RT_PACE_V, RW. -/
def NOC_RT_PACE_V.RATE : Fld := ⟨0, 9⟩
/-- NOC_RT_FLITS (R290). -/
def NOC_RT_FLITS (d i j : Nat) : Nat := 0x120500010040 + d * 0x100000 + i * 0x100 + j * 0x8
/-- NOC_RT_COMB (R290). -/
def NOC_RT_COMB (d i : Nat) : Nat := 0x120500010070 + d * 0x100000 + i * 0x100
/-- NOC_RT_COMBPASS (R290). -/
def NOC_RT_COMBPASS (d i : Nat) : Nat := 0x120500010078 + d * 0x100000 + i * 0x100
/-- NOC_RT_MCHOLD (R290). -/
def NOC_RT_MCHOLD (d i : Nat) : Nat := 0x120500010080 + d * 0x100000 + i * 0x100
/-- NOC_RT_FENCED (R290). -/
def NOC_RT_FENCED (d i : Nat) : Nat := 0x120500010088 + d * 0x100000 + i * 0x100
/-- NOC_RT_DISCARD (R290). -/
def NOC_RT_DISCARD (d i : Nat) : Nat := 0x120500010090 + d * 0x100000 + i * 0x100
/-- NOC_RT_WAKE (R290). -/
def NOC_RT_WAKE (d i : Nat) : Nat := 0x120500010098 + d * 0x100000 + i * 0x100

/-- The register rows of the NOC block. -/
def rowsNOC : List RegRow :=
  [
   -- NOC_CTL
   ⟨0x0, [], [⟨16, 1, .wo, 0, 0, 2 ^ 64 - 1⟩, ⟨8, 8, .rw, 8, 1, 2 ^ 64 - 1⟩, ⟨0, 1, .rw, 1, 0, 2 ^ 64 - 1⟩]⟩,
   -- NOC_BOUND
   ⟨0x8, [], [⟨0, 32, .rw, 0, 0, 2 ^ 64 - 1⟩]⟩,
   -- NOC_FENCE_MAP
   ⟨0x20, [(4, 0x8)], [⟨0, 64, .ro, 0, 0, 2 ^ 64 - 1⟩]⟩,
   -- NOC_PACE_STOP
   ⟨0x100, [(21, 0x8)], [⟨31, 1, .rw, 0, 0, 2 ^ 64 - 1⟩, ⟨16, 7, .rw, 8, 5, 64⟩, ⟨0, 9, .rw, 256, 1, 256⟩]⟩,
   -- NOC_RED_ADDR
   ⟨0x400, [(64, 0x10)], [⟨63, 1, .rw, 0, 0, 2 ^ 64 - 1⟩, ⟨62, 1, .ro, 0, 0, 2 ^ 64 - 1⟩, ⟨8, 44, .rw, 0, 0, 2 ^ 64 - 1⟩]⟩,
   -- NOC_RED_CFG
   ⟨0x408, [(64, 0x10)], [⟨28, 18, .rw, 0, 0, 2 ^ 64 - 1⟩, ⟨16, 12, .rw, 1, 1, 2 ^ 64 - 1⟩, ⟨0, 16, .rw, 1, 1, 2 ^ 64 - 1⟩]⟩,
   -- NOC_MCG_ADDR
   ⟨0x800, [(64, 0x10)], [⟨63, 1, .rw, 0, 0, 2 ^ 64 - 1⟩, ⟨62, 1, .ro, 0, 0, 2 ^ 64 - 1⟩, ⟨32, 10, .rw, 0, 0, 2 ^ 64 - 1⟩, ⟨20, 12, .rw, 1, 1, 2 ^ 64 - 1⟩, ⟨8, 12, .rw, 0, 0, 2 ^ 64 - 1⟩]⟩,
   -- NOC_MCG_SET
   ⟨0x808, [(64, 0x10)], [⟨16, 4, .rw, 0, 0, 2 ^ 64 - 1⟩, ⟨12, 4, .rw, 0, 0, 2 ^ 64 - 1⟩, ⟨8, 4, .rw, 0, 0, 2 ^ 64 - 1⟩, ⟨4, 4, .rw, 0, 0, 2 ^ 64 - 1⟩, ⟨0, 4, .rw, 0, 0, 2 ^ 64 - 1⟩]⟩,
   -- NOC_RED_ROUNDS
   ⟨0xc00, [], cntFlds⟩,
   -- NOC_RT_CTL
   ⟨0x10000, [(256, 0x100)], [⟨2, 1, .ro, 0, 0, 2 ^ 64 - 1⟩, ⟨1, 1, .ro, 0, 0, 2 ^ 64 - 1⟩, ⟨0, 1, .rw, 0, 0, 2 ^ 64 - 1⟩]⟩,
   -- NOC_RT_PACE_L
   ⟨0x10008, [(256, 0x100)], [⟨31, 1, .rw, 0, 0, 2 ^ 64 - 1⟩, ⟨16, 7, .rw, 8, 5, 64⟩, ⟨0, 9, .rw, 256, 1, 256⟩]⟩,
   -- NOC_RT_PACE_V
   ⟨0x10010, [(256, 0x100)], [⟨31, 1, .rw, 0, 0, 2 ^ 64 - 1⟩, ⟨16, 7, .rw, 8, 5, 64⟩, ⟨0, 9, .rw, 256, 1, 256⟩]⟩] ++
  [
   -- NOC_RT_FLITS
   ⟨0x10040, [(256, 0x100), (6, 0x8)], cntFlds⟩,
   -- NOC_RT_COMB
   ⟨0x10070, [(256, 0x100)], cntFlds⟩,
   -- NOC_RT_COMBPASS
   ⟨0x10078, [(256, 0x100)], cntFlds⟩,
   -- NOC_RT_MCHOLD
   ⟨0x10080, [(256, 0x100)], cntFlds⟩,
   -- NOC_RT_FENCED
   ⟨0x10088, [(256, 0x100)], cntFlds⟩,
   -- NOC_RT_DISCARD
   ⟨0x10090, [(256, 0x100)], cntFlds⟩,
   -- NOC_RT_WAKE
   ⟨0x10098, [(256, 0x100)], cntFlds⟩]

/-! ### SYN block -/

/-- SYN_CTL (R315). -/
def SYN_CTL (k : Nat) : Nat := 0x120600000000 + k * 0x40000
/-- Bits 0:0 of SYN_CTL, WO. -/
def SYN_CTL.CNT_CLR : Fld := ⟨0, 1⟩
/-- SYN_STATUS (R315). -/
def SYN_STATUS (k : Nat) : Nat := 0x120600000008 + k * 0x40000
/-- Bits 42:32 of SYN_STATUS, RO. -/
def SYN_STATUS.HELD : Fld := ⟨32, 11⟩
/-- Bits 26:16 of SYN_STATUS, RO. -/
def SYN_STATUS.WATCHES : Fld := ⟨16, 11⟩
/-- Bits 3:3 of SYN_STATUS, W1C. -/
def SYN_STATUS.HOLD_FULL : Fld := ⟨3, 1⟩
/-- Bits 2:2 of SYN_STATUS, W1C. -/
def SYN_STATUS.WQ_FULL : Fld := ⟨2, 1⟩
/-- Bits 1:1 of SYN_STATUS, W1C. -/
def SYN_STATUS.OVF : Fld := ⟨1, 1⟩
/-- Bits 0:0 of SYN_STATUS, W1C. -/
def SYN_STATUS.ATTR_ERR : Fld := ⟨0, 1⟩
/-- SYN_ADV_CNT (R315). -/
def SYN_ADV_CNT (k : Nat) : Nat := 0x120600000040 + k * 0x40000
/-- SYN_HELD_CNT (R315). -/
def SYN_HELD_CNT (k : Nat) : Nat := 0x120600000048 + k * 0x40000
/-- SYN_FIRE_CNT (R315). -/
def SYN_FIRE_CNT (k : Nat) : Nat := 0x120600000050 + k * 0x40000
/-- SYN_RETRY_CNT (R315). -/
def SYN_RETRY_CNT (k : Nat) : Nat := 0x120600000058 + k * 0x40000
/-- SYN_VAL (R315). -/
def SYN_VAL (k i : Nat) : Nat := 0x120600010000 + k * 0x40000 + i * 0x8
/-- Bits 63:0 of SYN_VAL, RW. -/
def SYN_VAL.VALUE : Fld := ⟨0, 64⟩
/-- SYN_ADV (R315). -/
def SYN_ADV (k i : Nat) : Nat := 0x120600020000 + k * 0x40000 + i * 0x8
/-- Bits 63:0 of SYN_ADV, WO. -/
def SYN_ADV.AMOUNT : Fld := ⟨0, 64⟩
/-- SYN_ATTR (R315). -/
def SYN_ATTR (k i : Nat) : Nat := 0x120600030000 + k * 0x40000 + i * 0x8
/-- Bits 63:63 of SYN_ATTR, RW. -/
def SYN_ATTR.PV : Fld := ⟨63, 1⟩
/-- Bits 47:32 of SYN_ATTR, RW. -/
def SYN_ATTR.BOUND : Fld := ⟨32, 16⟩
/-- Bits 17:0 of SYN_ATTR, RW. -/
def SYN_ATTR.PARTNER : Fld := ⟨0, 18⟩

/-- The register rows of the SYN block. -/
def rowsSYN : List RegRow :=
  [
   -- SYN_CTL
   ⟨0x0, [], [⟨0, 1, .wo, 0, 0, 2 ^ 64 - 1⟩]⟩,
   -- SYN_STATUS
   ⟨0x8, [], [⟨32, 11, .ro, 0, 0, 2 ^ 64 - 1⟩, ⟨16, 11, .ro, 0, 0, 2 ^ 64 - 1⟩, ⟨3, 1, .w1c, 0, 0, 2 ^ 64 - 1⟩, ⟨2, 1, .w1c, 0, 0, 2 ^ 64 - 1⟩, ⟨1, 1, .w1c, 0, 0, 2 ^ 64 - 1⟩, ⟨0, 1, .w1c, 0, 0, 2 ^ 64 - 1⟩]⟩,
   -- SYN_ADV_CNT
   ⟨0x40, [], cntFlds⟩,
   -- SYN_HELD_CNT
   ⟨0x48, [], cntFlds⟩,
   -- SYN_FIRE_CNT
   ⟨0x50, [], cntFlds⟩,
   -- SYN_RETRY_CNT
   ⟨0x58, [], cntFlds⟩,
   -- SYN_VAL
   ⟨0x10000, [(4096, 0x8)], [⟨0, 64, .rw, 0, 0, 2 ^ 64 - 1⟩]⟩,
   -- SYN_ADV
   ⟨0x20000, [(4096, 0x8)], [⟨0, 64, .wo, 0, 0, 2 ^ 64 - 1⟩]⟩,
   -- SYN_ATTR
   ⟨0x30000, [(4096, 0x8)], [⟨63, 1, .rw, 0, 0, 2 ^ 64 - 1⟩, ⟨32, 16, .rw, 1, 1, 2 ^ 64 - 1⟩, ⟨0, 18, .rw, 0, 0, 2 ^ 64 - 1⟩]⟩]

/-! ### SYND block -/

/-- SYN_DIE_CTL (R315). -/
def SYN_DIE_CTL (d : Nat) : Nat := 0x120700000000 + d * 0x10000
/-- Bits 63:32 of SYN_DIE_CTL, RW. -/
def SYN_DIE_CTL.LATE_THR : Fld := ⟨32, 32⟩
/-- Bits 0:0 of SYN_DIE_CTL, RW. -/
def SYN_DIE_CTL.LATE_IEN : Fld := ⟨0, 1⟩
/-- SYN_LEND_CTL (R315). -/
def SYN_LEND_CTL (d i : Nat) : Nat := 0x120700000020 + d * 0x10000 + i * 0x8
/-- Bits 16:16 of SYN_LEND_CTL, RW. -/
def SYN_LEND_CTL.EN : Fld := ⟨16, 1⟩
/-- Bits 15:0 of SYN_LEND_CTL, RW. -/
def SYN_LEND_CTL.LEND_THR : Fld := ⟨0, 16⟩
/-- SYN_WAIT_STATUS (R315). -/
def SYN_WAIT_STATUS (d : Nat) : Nat := 0x120700000040 + d * 0x10000
/-- Bits 7:4 of SYN_WAIT_STATUS, RO. -/
def SYN_WAIT_STATUS.LENDABLE : Fld := ⟨4, 4⟩
/-- Bits 3:0 of SYN_WAIT_STATUS, RO. -/
def SYN_WAIT_STATUS.WAITING : Fld := ⟨0, 4⟩
/-- SYN_BAR_LATE_MAP (R315). -/
def SYN_BAR_LATE_MAP (d : Nat) : Nat := 0x120700000048 + d * 0x10000
/-- Bits 63:0 of SYN_BAR_LATE_MAP, W1C. -/
def SYN_BAR_LATE_MAP.LINES : Fld := ⟨0, 64⟩
/-- SYN_BAR_MISMATCH (R315). -/
def SYN_BAR_MISMATCH (d : Nat) : Nat := 0x120700000050 + d * 0x10000
/-- Bits 63:0 of SYN_BAR_MISMATCH, W1C. -/
def SYN_BAR_MISMATCH.LINES : Fld := ⟨0, 64⟩
/-- SYN_BAR_CFG (R315). -/
def SYN_BAR_CFG (d i : Nat) : Nat := 0x120700000100 + d * 0x10000 + i * 0x40
/-- Bits 33:32 of SYN_BAR_CFG, RW. -/
def SYN_BAR_CFG.SCOPE : Fld := ⟨32, 2⟩
/-- Bits 23:16 of SYN_BAR_CFG, RW. -/
def SYN_BAR_CFG.GROUP : Fld := ⟨16, 8⟩
/-- Bits 0:0 of SYN_BAR_CFG, RW. -/
def SYN_BAR_CFG.CC : Fld := ⟨0, 1⟩
/-- SYN_BAR_STATUS (R315). -/
def SYN_BAR_STATUS (d i : Nat) : Nat := 0x120700000108 + d * 0x10000 + i * 0x40
/-- Bits 63:32 of SYN_BAR_STATUS, RO. -/
def SYN_BAR_STATUS.EPISODE : Fld := ⟨32, 32⟩
/-- Bits 8:0 of SYN_BAR_STATUS, RO. -/
def SYN_BAR_STATUS.ARRIVED : Fld := ⟨0, 9⟩
/-- SYN_BAR_MASK (R315). -/
def SYN_BAR_MASK (d i j : Nat) : Nat := 0x120700000110 + d * 0x10000 + i * 0x40 + j * 0x8
/-- Bits 63:0 of SYN_BAR_MASK, RW. -/
def SYN_BAR_MASK.CORES : Fld := ⟨0, 64⟩

/-- The register rows of the SYND block. -/
def rowsSYND : List RegRow :=
  [
   -- SYN_DIE_CTL
   ⟨0x0, [], [⟨32, 32, .rw, 1000, 1, 2 ^ 64 - 1⟩, ⟨0, 1, .rw, 1, 0, 2 ^ 64 - 1⟩]⟩,
   -- SYN_LEND_CTL
   ⟨0x20, [(4, 0x8)], [⟨16, 1, .rw, 1, 0, 2 ^ 64 - 1⟩, ⟨0, 16, .rw, 20, 1, 10000⟩]⟩,
   -- SYN_WAIT_STATUS
   ⟨0x40, [], [⟨4, 4, .ro, 0, 0, 2 ^ 64 - 1⟩, ⟨0, 4, .ro, 0, 0, 2 ^ 64 - 1⟩]⟩,
   -- SYN_BAR_LATE_MAP
   ⟨0x48, [], [⟨0, 64, .w1c, 0, 0, 2 ^ 64 - 1⟩]⟩,
   -- SYN_BAR_MISMATCH
   ⟨0x50, [], [⟨0, 64, .w1c, 0, 0, 2 ^ 64 - 1⟩]⟩,
   -- SYN_BAR_CFG
   ⟨0x100, [(64, 0x40)], [⟨32, 2, .rw, 0, 0, 2⟩, ⟨16, 8, .rw, 0, 0, 2 ^ 64 - 1⟩, ⟨0, 1, .rw, 0, 0, 2 ^ 64 - 1⟩]⟩,
   -- SYN_BAR_STATUS
   ⟨0x108, [(64, 0x40)], [⟨32, 32, .ro, 0, 0, 2 ^ 64 - 1⟩, ⟨0, 9, .ro, 0, 0, 2 ^ 64 - 1⟩]⟩,
   -- SYN_BAR_MASK
   ⟨0x110, [(64, 0x40), (4, 0x8)], [⟨0, 64, .rw, 0, 0, 2 ^ 64 - 1⟩]⟩]

/-! ### UPDR block -/

/-- UPD_CTL (R344). -/
def UPD_CTL (r : Nat) : Nat := 0x120800000000 + r * 0x1000
/-- Bits 16:16 of UPD_CTL, WO. -/
def UPD_CTL.CNT_CLR : Fld := ⟨16, 1⟩
/-- Bits 8:0 of UPD_CTL, RW. -/
def UPD_CTL.LINES : Fld := ⟨0, 9⟩
/-- UPD_STATUS (R344). -/
def UPD_STATUS (r : Nat) : Nat := 0x120800000008 + r * 0x1000
/-- Bits 43:32 of UPD_STATUS, RO. -/
def UPD_STATUS.LAYER : Fld := ⟨32, 12⟩
/-- Bits 10:8 of UPD_STATUS, RO. -/
def UPD_STATUS.STATE : Fld := ⟨8, 3⟩
/-- Bits 4:4 of UPD_STATUS, RO. -/
def UPD_STATUS.LENT : Fld := ⟨4, 1⟩
/-- UPD_SEED (R344). -/
def UPD_SEED (r : Nat) : Nat := 0x120800000010 + r * 0x1000
/-- Bits 31:0 of UPD_SEED, RW. -/
def UPD_SEED.SEED : Fld := ⟨0, 32⟩
/-- UPD_ERR (R344). -/
def UPD_ERR (r : Nat) : Nat := 0x120800000018 + r * 0x1000
/-- Bits 63:63 of UPD_ERR, W1C. -/
def UPD_ERR.VALID : Fld := ⟨63, 1⟩
/-- Bits 55:48 of UPD_ERR, RO. -/
def UPD_ERR.CODE : Fld := ⟨48, 8⟩
/-- Bits 43:32 of UPD_ERR, RO. -/
def UPD_ERR.LAYER : Fld := ⟨32, 12⟩
/-- UPD_ELEMS_A (R344). -/
def UPD_ELEMS_A (r : Nat) : Nat := 0x120800000040 + r * 0x1000
/-- UPD_ELEMS_B (R344). -/
def UPD_ELEMS_B (r : Nat) : Nat := 0x120800000048 + r * 0x1000
/-- UPD_MASKED (R344). -/
def UPD_MASKED (r : Nat) : Nat := 0x120800000050 + r * 0x1000
/-- UPD_LAYERS (R344). -/
def UPD_LAYERS (r : Nat) : Nat := 0x120800000058 + r * 0x1000
/-- UPD_NONFIN (R344). -/
def UPD_NONFIN (r : Nat) : Nat := 0x120800000060 + r * 0x1000

/-- The register rows of the UPDR block. -/
def rowsUPDR : List RegRow :=
  [
   -- UPD_CTL
   ⟨0x0, [], [⟨16, 1, .wo, 0, 0, 2 ^ 64 - 1⟩, ⟨0, 9, .rw, 256, 16, 256⟩]⟩,
   -- UPD_STATUS
   ⟨0x8, [], [⟨32, 12, .ro, 0, 0, 2 ^ 64 - 1⟩, ⟨8, 3, .ro, 0, 0, 2 ^ 64 - 1⟩, ⟨4, 1, .ro, 0, 0, 2 ^ 64 - 1⟩]⟩,
   -- UPD_SEED
   ⟨0x10, [], [⟨0, 32, .rw, 1013904242, 0, 2 ^ 64 - 1⟩]⟩,
   -- UPD_ERR
   ⟨0x18, [], [⟨63, 1, .w1c, 0, 0, 2 ^ 64 - 1⟩, ⟨48, 8, .ro, 0, 0, 2 ^ 64 - 1⟩, ⟨32, 12, .ro, 0, 0, 2 ^ 64 - 1⟩]⟩,
   -- UPD_ELEMS_A
   ⟨0x40, [], cntFlds⟩,
   -- UPD_ELEMS_B
   ⟨0x48, [], cntFlds⟩,
   -- UPD_MASKED
   ⟨0x50, [], cntFlds⟩,
   -- UPD_LAYERS
   ⟨0x58, [], cntFlds⟩,
   -- UPD_NONFIN
   ⟨0x60, [], cntFlds⟩]

/-! ### UPD block -/

/-- UPD_EPOCH (R344). -/
def UPD_EPOCH : Nat := 0x120800010000
/-- Bits 63:0 of UPD_EPOCH, RO. -/
def UPD_EPOCH.EPOCH : Fld := ⟨0, 64⟩
/-- UPD_COMMITTED (R344). -/
def UPD_COMMITTED : Nat := 0x120800010008
/-- Bits 63:0 of UPD_COMMITTED, RO. -/
def UPD_COMMITTED.EPOCH : Fld := ⟨0, 64⟩
/-- UPD_PHASE (R344). -/
def UPD_PHASE : Nat := 0x120800010010
/-- Bits 8:8 of UPD_PHASE, RO. -/
def UPD_PHASE.SKIPPED : Fld := ⟨8, 1⟩
/-- Bits 1:0 of UPD_PHASE, RO. -/
def UPD_PHASE.PHASE : Fld := ⟨0, 2⟩
/-- UPD_NORM2 (R344). -/
def UPD_NORM2 : Nat := 0x120800010018
/-- Bits 31:0 of UPD_NORM2, RO. -/
def UPD_NORM2.S : Fld := ⟨0, 32⟩
/-- UPD_CLIP (R344). -/
def UPD_CLIP : Nat := 0x120800010020
/-- Bits 31:0 of UPD_CLIP, RO. -/
def UPD_CLIP.CLIP : Fld := ⟨0, 32⟩
/-- UPD_LR (R344). -/
def UPD_LR : Nat := 0x120800010028
/-- Bits 31:0 of UPD_LR, RO. -/
def UPD_LR.LR : Fld := ⟨0, 32⟩

/-- The register rows of the UPD block. -/
def rowsUPD : List RegRow :=
  [
   -- UPD_EPOCH
   ⟨0x0, [], [⟨0, 64, .ro, 0, 0, 2 ^ 64 - 1⟩]⟩,
   -- UPD_COMMITTED
   ⟨0x8, [], [⟨0, 64, .ro, 0, 0, 2 ^ 64 - 1⟩]⟩,
   -- UPD_PHASE
   ⟨0x10, [], [⟨8, 1, .ro, 0, 0, 2 ^ 64 - 1⟩, ⟨0, 2, .ro, 0, 0, 2 ^ 64 - 1⟩]⟩,
   -- UPD_NORM2
   ⟨0x18, [], [⟨0, 32, .ro, 0, 0, 2 ^ 64 - 1⟩]⟩,
   -- UPD_CLIP
   ⟨0x20, [], [⟨0, 32, .ro, 1065353216, 0, 2 ^ 64 - 1⟩]⟩,
   -- UPD_LR
   ⟨0x28, [], [⟨0, 32, .ro, 0, 0, 2 ^ 64 - 1⟩]⟩]

/-! ### FABD block -/

/-- FAB_PORT_CFG (R374). -/
def FAB_PORT_CFG (d i : Nat) : Nat := 0x120900000100 + d * 0x10000 + i * 0x40
/-- Bits 63:63 of FAB_PORT_CFG, RW. -/
def FAB_PORT_CFG.EN : Fld := ⟨63, 1⟩
/-- Bits 47:32 of FAB_PORT_CFG, RW. -/
def FAB_PORT_CFG.ETYPE : Fld := ⟨32, 16⟩
/-- Bits 31:20 of FAB_PORT_CFG, RW. -/
def FAB_PORT_CFG.VID : Fld := ⟨20, 12⟩
/-- Bits 19:17 of FAB_PORT_CFG, RW. -/
def FAB_PORT_CFG.PCP : Fld := ⟨17, 3⟩
/-- Bits 16:16 of FAB_PORT_CFG, RW. -/
def FAB_PORT_CFG.VLAN : Fld := ⟨16, 1⟩
/-- Bits 11:11 of FAB_PORT_CFG, RW. -/
def FAB_PORT_CFG.PFC : Fld := ⟨11, 1⟩
/-- Bits 9:8 of FAB_PORT_CFG, RW. -/
def FAB_PORT_CFG.PMD : Fld := ⟨8, 2⟩
/-- Bits 1:0 of FAB_PORT_CFG, RW. -/
def FAB_PORT_CFG.RATE : Fld := ⟨0, 2⟩
/-- FAB_PORT_STATUS (R374). -/
def FAB_PORT_STATUS (d i : Nat) : Nat := 0x120900000108 + d * 0x10000 + i * 0x40
/-- Bits 23:16 of FAB_PORT_STATUS, RO. -/
def FAB_PORT_STATUS.PATHS_DOWN : Fld := ⟨16, 8⟩
/-- Bits 9:8 of FAB_PORT_STATUS, RO. -/
def FAB_PORT_STATUS.RATE_NOW : Fld := ⟨8, 2⟩
/-- Bits 2:0 of FAB_PORT_STATUS, RO. -/
def FAB_PORT_STATUS.LINK : Fld := ⟨0, 3⟩
/-- FAB_TXF (R374). -/
def FAB_TXF (d i : Nat) : Nat := 0x120900000110 + d * 0x10000 + i * 0x40
/-- FAB_RXF (R374). -/
def FAB_RXF (d i : Nat) : Nat := 0x120900000118 + d * 0x10000 + i * 0x40
/-- FAB_RETX (R374). -/
def FAB_RETX (d i : Nat) : Nat := 0x120900000120 + d * 0x10000 + i * 0x40
/-- FAB_FCSERR (R374). -/
def FAB_FCSERR (d i : Nat) : Nat := 0x120900000128 + d * 0x10000 + i * 0x40
/-- FAB_NAK (R374). -/
def FAB_NAK (d i : Nat) : Nat := 0x120900000130 + d * 0x10000 + i * 0x40

/-- The register rows of the FABD block. -/
def rowsFABD : List RegRow :=
  [
   -- FAB_PORT_CFG
   ⟨0x100, [(6, 0x40)], [⟨63, 1, .rw, 0, 0, 2 ^ 64 - 1⟩, ⟨32, 16, .rw, 34997, 0, 2 ^ 64 - 1⟩, ⟨20, 12, .rw, 0, 0, 2 ^ 64 - 1⟩, ⟨17, 3, .rw, 0, 0, 2 ^ 64 - 1⟩, ⟨16, 1, .rw, 0, 0, 2 ^ 64 - 1⟩, ⟨11, 1, .rw, 0, 0, 2 ^ 64 - 1⟩, ⟨8, 2, .rw, 0, 0, 2⟩, ⟨0, 2, .rw, 0, 0, 2⟩]⟩,
   -- FAB_PORT_STATUS
   ⟨0x108, [(6, 0x40)], [⟨16, 8, .ro, 0, 0, 2 ^ 64 - 1⟩, ⟨8, 2, .ro, 0, 0, 2 ^ 64 - 1⟩, ⟨0, 3, .ro, 0, 0, 2 ^ 64 - 1⟩]⟩,
   -- FAB_TXF
   ⟨0x110, [(6, 0x40)], cntFlds⟩,
   -- FAB_RXF
   ⟨0x118, [(6, 0x40)], cntFlds⟩,
   -- FAB_RETX
   ⟨0x120, [(6, 0x40)], cntFlds⟩,
   -- FAB_FCSERR
   ⟨0x128, [(6, 0x40)], cntFlds⟩,
   -- FAB_NAK
   ⟨0x130, [(6, 0x40)], cntFlds⟩]

/-! ### FAB block -/

/-- FAB_CTL (R374). -/
def FAB_CTL : Nat := 0x120900100000
/-- Bits 0:0 of FAB_CTL, WO. -/
def FAB_CTL.CNT_CLR : Fld := ⟨0, 1⟩
/-- FAB_RETRY (R374). -/
def FAB_RETRY : Nat := 0x120900100008
/-- Bits 41:32 of FAB_RETRY, RW. -/
def FAB_RETRY.WINDOW : Fld := ⟨32, 10⟩
/-- Bits 23:16 of FAB_RETRY, RW. -/
def FAB_RETRY.RETRY_MAX : Fld := ⟨16, 8⟩
/-- Bits 15:0 of FAB_RETRY, RW. -/
def FAB_RETRY.RTO : Fld := ⟨0, 16⟩
/-- FAB_DUP (R374). -/
def FAB_DUP : Nat := 0x120900100040
/-- FAB_LATE (R374). -/
def FAB_LATE : Nat := 0x120900100048
/-- FAB_BACKUP (R374). -/
def FAB_BACKUP : Nat := 0x120900100050
/-- FAB_SHADOWLOSE (R374). -/
def FAB_SHADOWLOSE : Nat := 0x120900100058
/-- FAB_FOREIGN (R374). -/
def FAB_FOREIGN : Nat := 0x120900100060
/-- FAB_TIMEOUT (R374). -/
def FAB_TIMEOUT : Nat := 0x120900100068
/-- FAB_CHAN_STATUS (R374). -/
def FAB_CHAN_STATUS (i : Nat) : Nat := 0x120900100100 + i * 0x8
/-- Bits 63:32 of FAB_CHAN_STATUS, RO. -/
def FAB_CHAN_STATUS.RSN : Fld := ⟨32, 32⟩
/-- Bits 19:16 of FAB_CHAN_STATUS, RO. -/
def FAB_CHAN_STATUS.GROUP : Fld := ⟨16, 4⟩
/-- Bits 2:0 of FAB_CHAN_STATUS, RO. -/
def FAB_CHAN_STATUS.STATE : Fld := ⟨0, 3⟩

/-- The register rows of the FAB block. -/
def rowsFAB : List RegRow :=
  [
   -- FAB_CTL
   ⟨0x0, [], [⟨0, 1, .wo, 0, 0, 2 ^ 64 - 1⟩]⟩,
   -- FAB_RETRY
   ⟨0x8, [], [⟨32, 10, .rw, 512, 16, 512⟩, ⟨16, 8, .rw, 8, 1, 2 ^ 64 - 1⟩, ⟨0, 16, .rw, 50, 1, 2 ^ 64 - 1⟩]⟩,
   -- FAB_DUP
   ⟨0x40, [], cntFlds⟩,
   -- FAB_LATE
   ⟨0x48, [], cntFlds⟩,
   -- FAB_BACKUP
   ⟨0x50, [], cntFlds⟩,
   -- FAB_SHADOWLOSE
   ⟨0x58, [], cntFlds⟩,
   -- FAB_FOREIGN
   ⟨0x60, [], cntFlds⟩,
   -- FAB_TIMEOUT
   ⟨0x68, [], cntFlds⟩,
   -- FAB_CHAN_STATUS
   ⟨0x100, [(64, 0x8)], [⟨32, 32, .ro, 0, 0, 2 ^ 64 - 1⟩, ⟨16, 4, .ro, 0, 0, 2 ^ 64 - 1⟩, ⟨0, 3, .ro, 0, 0, 2 ^ 64 - 1⟩]⟩]

/-! ### TWN block -/

/-- TWN_CTL (R395). -/
def TWN_CTL : Nat := 0x120a00100000
/-- Bits 63:48 of TWN_CTL, RW. -/
def TWN_CTL.ETYPE : Fld := ⟨48, 16⟩
/-- Bits 32:32 of TWN_CTL, WO. -/
def TWN_CTL.CNT_CLR : Fld := ⟨32, 1⟩
/-- Bits 19:0 of TWN_CTL, RW. -/
def TWN_CTL.LOSS_TO : Fld := ⟨0, 20⟩
/-- TWN_STATUS (R395). -/
def TWN_STATUS : Nat := 0x120a00100008
/-- Bits 11:8 of TWN_STATUS, RO. -/
def TWN_STATUS.REASON : Fld := ⟨8, 4⟩
/-- Bits 4:4 of TWN_STATUS, RO. -/
def TWN_STATUS.UNMIRRORED : Fld := ⟨4, 1⟩
/-- Bits 3:3 of TWN_STATUS, RO. -/
def TWN_STATUS.ELDER : Fld := ⟨3, 1⟩
/-- Bits 2:0 of TWN_STATUS, RO. -/
def TWN_STATUS.STATE : Fld := ⟨0, 3⟩
/-- TWN_PEER (R395). -/
def TWN_PEER : Nat := 0x120a00100010
/-- Bits 63:0 of TWN_PEER, RO. -/
def TWN_PEER.SERIAL : Fld := ⟨0, 64⟩
/-- TWN_MIRROR_BASE (R395). -/
def TWN_MIRROR_BASE : Nat := 0x120a00100018
/-- Bits 51:12 of TWN_MIRROR_BASE, RW. -/
def TWN_MIRROR_BASE.BASE : Fld := ⟨12, 40⟩
/-- TWN_MIRROR_SLOT (R395). -/
def TWN_MIRROR_SLOT : Nat := 0x120a00100020
/-- Bits 47:12 of TWN_MIRROR_SLOT, RW. -/
def TWN_MIRROR_SLOT.SLOTLEN : Fld := ⟨12, 36⟩
/-- TWN_BONDS (R395). -/
def TWN_BONDS : Nat := 0x120a00100040
/-- TWN_LOSSES (R395). -/
def TWN_LOSSES : Nat := 0x120a00100048
/-- TWN_MIR_TX (R395). -/
def TWN_MIR_TX : Nat := 0x120a00100050
/-- TWN_MIR_RX (R395). -/
def TWN_MIR_RX : Nat := 0x120a00100058
/-- TWN_MIR_POISON (R395). -/
def TWN_MIR_POISON : Nat := 0x120a00100060
/-- TWN_BAR_SOLO (R395). -/
def TWN_BAR_SOLO : Nat := 0x120a00100068
/-- TWN_FOREIGN (R395). -/
def TWN_FOREIGN : Nat := 0x120a00100070

/-- The register rows of the TWN block. -/
def rowsTWN : List RegRow :=
  [
   -- TWN_CTL
   ⟨0x0, [], [⟨48, 16, .rw, 34997, 0, 2 ^ 64 - 1⟩, ⟨32, 1, .wo, 0, 0, 2 ^ 64 - 1⟩, ⟨0, 20, .rw, 5000, 200, 1000000⟩]⟩,
   -- TWN_STATUS
   ⟨0x8, [], [⟨8, 4, .ro, 0, 0, 2 ^ 64 - 1⟩, ⟨4, 1, .ro, 0, 0, 2 ^ 64 - 1⟩, ⟨3, 1, .ro, 0, 0, 2 ^ 64 - 1⟩, ⟨0, 3, .ro, 0, 0, 2 ^ 64 - 1⟩]⟩,
   -- TWN_PEER
   ⟨0x10, [], [⟨0, 64, .ro, 0, 0, 2 ^ 64 - 1⟩]⟩,
   -- TWN_MIRROR_BASE
   ⟨0x18, [], [⟨12, 40, .rw, 0, 0, 2 ^ 64 - 1⟩]⟩,
   -- TWN_MIRROR_SLOT
   ⟨0x20, [], [⟨12, 36, .rw, 0, 0, 2 ^ 64 - 1⟩]⟩,
   -- TWN_BONDS
   ⟨0x40, [], cntFlds⟩,
   -- TWN_LOSSES
   ⟨0x48, [], cntFlds⟩,
   -- TWN_MIR_TX
   ⟨0x50, [], cntFlds⟩,
   -- TWN_MIR_RX
   ⟨0x58, [], cntFlds⟩,
   -- TWN_MIR_POISON
   ⟨0x60, [], cntFlds⟩,
   -- TWN_BAR_SOLO
   ⟨0x68, [], cntFlds⟩,
   -- TWN_FOREIGN
   ⟨0x70, [], cntFlds⟩]

/-! ### TWND block -/

/-- TWN_PORT_STATUS (R395). -/
def TWN_PORT_STATUS (d : Nat) : Nat := 0x120a00000000 + d * 0x10000
/-- Bits 3:3 of TWN_PORT_STATUS, RO. -/
def TWN_PORT_STATUS.CROSSED : Fld := ⟨3, 1⟩
/-- Bits 2:0 of TWN_PORT_STATUS, RO. -/
def TWN_PORT_STATUS.LINK : Fld := ⟨0, 3⟩
/-- TWN_TXF (R395). -/
def TWN_TXF (d : Nat) : Nat := 0x120a00000040 + d * 0x10000
/-- TWN_RXF (R395). -/
def TWN_RXF (d : Nat) : Nat := 0x120a00000048 + d * 0x10000
/-- TWN_RETX (R395). -/
def TWN_RETX (d : Nat) : Nat := 0x120a00000050 + d * 0x10000

/-- The register rows of the TWND block. -/
def rowsTWND : List RegRow :=
  [
   -- TWN_PORT_STATUS
   ⟨0x0, [], [⟨3, 1, .ro, 0, 0, 2 ^ 64 - 1⟩, ⟨0, 3, .ro, 0, 0, 2 ^ 64 - 1⟩]⟩,
   -- TWN_TXF
   ⟨0x40, [], cntFlds⟩,
   -- TWN_RXF
   ⟨0x48, [], cntFlds⟩,
   -- TWN_RETX
   ⟨0x50, [], cntFlds⟩]

/-! ### PWR block -/

/-- PWR_CTL (R418). -/
def PWR_CTL : Nat := 0x120b00100000
/-- Bits 16:16 of PWR_CTL, WO. -/
def PWR_CTL.CNT_CLR : Fld := ⟨16, 1⟩
/-- Bits 11:0 of PWR_CTL, RO. -/
def PWR_CTL.CAP : Fld := ⟨0, 12⟩
/-- PWR_STATUS (R418). -/
def PWR_STATUS : Nat := 0x120b00100008
/-- Bits 63:32 of PWR_STATUS, RO. -/
def PWR_STATUS.EXCURSION : Fld := ⟨32, 32⟩
/-- Bits 2:2 of PWR_STATUS, RO. -/
def PWR_STATUS.THERMAL_IN : Fld := ⟨2, 1⟩
/-- Bits 1:1 of PWR_STATUS, W1C. -/
def PWR_STATUS.FASTLIM_SEEN : Fld := ⟨1, 1⟩
/-- Bits 0:0 of PWR_STATUS, RO. -/
def PWR_STATUS.FASTLIM : Fld := ⟨0, 1⟩
/-- PWR_IN (R418). -/
def PWR_IN : Nat := 0x120b00100010
/-- Bits 47:32 of PWR_IN, RO. -/
def PWR_IN.POWER : Fld := ⟨32, 16⟩
/-- Bits 31:16 of PWR_IN, RO. -/
def PWR_IN.CURRENT : Fld := ⟨16, 16⟩
/-- Bits 15:0 of PWR_IN, RO. -/
def PWR_IN.VOLTAGE : Fld := ⟨0, 16⟩
/-- PWR_ENERGY (R418). -/
def PWR_ENERGY : Nat := 0x120b00100040
/-- PWR_FASTLIM_CNT (R418). -/
def PWR_FASTLIM_CNT : Nat := 0x120b00100048
/-- PWR_LEND_CNT (R418). -/
def PWR_LEND_CNT : Nat := 0x120b00100050
/-- PWR_TICKS (R418). -/
def PWR_TICKS : Nat := 0x120b00100058

/-- The register rows of the PWR block. -/
def rowsPWR : List RegRow :=
  [
   -- PWR_CTL
   ⟨0x0, [], [⟨16, 1, .wo, 0, 0, 2 ^ 64 - 1⟩, ⟨0, 12, .ro, 3400, 0, 2 ^ 64 - 1⟩]⟩,
   -- PWR_STATUS
   ⟨0x8, [], [⟨32, 32, .ro, 0, 0, 2 ^ 64 - 1⟩, ⟨2, 1, .ro, 0, 0, 2 ^ 64 - 1⟩, ⟨1, 1, .w1c, 0, 0, 2 ^ 64 - 1⟩, ⟨0, 1, .ro, 0, 0, 2 ^ 64 - 1⟩]⟩,
   -- PWR_IN
   ⟨0x10, [], [⟨32, 16, .ro, 0, 0, 2 ^ 64 - 1⟩, ⟨16, 16, .ro, 0, 0, 2 ^ 64 - 1⟩, ⟨0, 16, .ro, 0, 0, 2 ^ 64 - 1⟩]⟩,
   -- PWR_ENERGY
   ⟨0x40, [], cntFlds⟩,
   -- PWR_FASTLIM_CNT
   ⟨0x48, [], cntFlds⟩,
   -- PWR_LEND_CNT
   ⟨0x50, [], cntFlds⟩,
   -- PWR_TICKS
   ⟨0x58, [], cntFlds⟩]

/-! ### PWRD block -/

/-- PWR_TEMP (R418). -/
def PWR_TEMP (d i : Nat) : Nat := 0x120b00000000 + d * 0x10000 + i * 0x8
/-- Bits 15:0 of PWR_TEMP, RO. -/
def PWR_TEMP.TEMP : Fld := ⟨0, 16⟩
/-- PWR_TRIP_CNT (R418). -/
def PWR_TRIP_CNT (d : Nat) : Nat := 0x120b00000200 + d * 0x10000

/-- The register rows of the PWRD block. -/
def rowsPWRD : List RegRow :=
  [
   -- PWR_TEMP
   ⟨0x0, [(64, 0x8)], [⟨0, 16, .ro, 0, 0, 2 ^ 64 - 1⟩]⟩,
   -- PWR_TRIP_CNT
   ⟨0x200, [], cntFlds⟩]

/-! ### PWRR block -/

/-- PWR_RGN_STATE (R418). -/
def PWR_RGN_STATE (r : Nat) : Nat := 0x120b00200000 + r * 0x1000
/-- Bits 31:24 of PWR_RGN_STATE, RO. -/
def PWR_RGN_STATE.PROFILE : Fld := ⟨24, 8⟩
/-- Bits 18:16 of PWR_RGN_STATE, RO. -/
def PWR_RGN_STATE.MAXPT : Fld := ⟨16, 3⟩
/-- Bits 15:15 of PWR_RGN_STATE, RO. -/
def PWR_RGN_STATE.RECALL : Fld := ⟨15, 1⟩
/-- Bits 14:14 of PWR_RGN_STATE, RO. -/
def PWR_RGN_STATE.TRIPPED : Fld := ⟨14, 1⟩
/-- Bits 13:13 of PWR_RGN_STATE, RO. -/
def PWR_RGN_STATE.THROTTLED : Fld := ⟨13, 1⟩
/-- Bits 12:12 of PWR_RGN_STATE, RO. -/
def PWR_RGN_STATE.LENDING : Fld := ⟨12, 1⟩
/-- Bits 11:11 of PWR_RGN_STATE, RO. -/
def PWR_RGN_STATE.BORROWING : Fld := ⟨11, 1⟩
/-- Bits 10:10 of PWR_RGN_STATE, RO. -/
def PWR_RGN_STATE.RESERVED : Fld := ⟨10, 1⟩
/-- Bits 9:8 of PWR_RGN_STATE, RO. -/
def PWR_RGN_STATE.RAIL : Fld := ⟨8, 2⟩
/-- Bits 3:3 of PWR_RGN_STATE, RO. -/
def PWR_RGN_STATE.BUSY : Fld := ⟨3, 1⟩
/-- Bits 2:0 of PWR_RGN_STATE, RO. -/
def PWR_RGN_STATE.POINT : Fld := ⟨0, 3⟩
/-- PWR_RGN_BUDGET (R418). -/
def PWR_RGN_BUDGET (r : Nat) : Nat := 0x120b00200008 + r * 0x1000
/-- Bits 63:48 of PWR_RGN_BUDGET, RO. -/
def PWR_RGN_BUDGET.MEASURED : Fld := ⟨48, 16⟩
/-- Bits 47:32 of PWR_RGN_BUDGET, RO. -/
def PWR_RGN_BUDGET.LENT : Fld := ⟨32, 16⟩
/-- Bits 15:0 of PWR_RGN_BUDGET, RO. -/
def PWR_RGN_BUDGET.ACCOUNT : Fld := ⟨0, 16⟩
/-- PWR_THROT_CNT (R418). -/
def PWR_THROT_CNT (r : Nat) : Nat := 0x120b00200040 + r * 0x1000
/-- PWR_OVER (R418). -/
def PWR_OVER (r : Nat) : Nat := 0x120b00200048 + r * 0x1000
/-- PWR_DVFS_CNT (R418). -/
def PWR_DVFS_CNT (r : Nat) : Nat := 0x120b00200050 + r * 0x1000

/-- The register rows of the PWRR block. -/
def rowsPWRR : List RegRow :=
  [
   -- PWR_RGN_STATE
   ⟨0x0, [], [⟨24, 8, .ro, 0, 0, 2 ^ 64 - 1⟩, ⟨16, 3, .ro, 0, 0, 2 ^ 64 - 1⟩, ⟨15, 1, .ro, 0, 0, 2 ^ 64 - 1⟩, ⟨14, 1, .ro, 0, 0, 2 ^ 64 - 1⟩, ⟨13, 1, .ro, 0, 0, 2 ^ 64 - 1⟩, ⟨12, 1, .ro, 0, 0, 2 ^ 64 - 1⟩, ⟨11, 1, .ro, 0, 0, 2 ^ 64 - 1⟩, ⟨10, 1, .ro, 0, 0, 2 ^ 64 - 1⟩, ⟨8, 2, .ro, 1, 0, 2 ^ 64 - 1⟩, ⟨3, 1, .ro, 0, 0, 2 ^ 64 - 1⟩, ⟨0, 3, .ro, 7, 0, 2 ^ 64 - 1⟩]⟩,
   -- PWR_RGN_BUDGET
   ⟨0x8, [], [⟨48, 16, .ro, 0, 0, 2 ^ 64 - 1⟩, ⟨32, 16, .ro, 0, 0, 2 ^ 64 - 1⟩, ⟨0, 16, .ro, 0, 0, 2 ^ 64 - 1⟩]⟩,
   -- PWR_THROT_CNT
   ⟨0x40, [], cntFlds⟩,
   -- PWR_OVER
   ⟨0x48, [], cntFlds⟩,
   -- PWR_DVFS_CNT
   ⟨0x50, [], cntFlds⟩]

/-! ### CMD block -/

/-- CMD_CTL (R456). -/
def CMD_CTL : Nat := 0x120c00000000
/-- Bits 0:0 of CMD_CTL, WO. -/
def CMD_CTL.CNT_CLR : Fld := ⟨0, 1⟩
/-- CMD_STATUS (R456). -/
def CMD_STATUS : Nat := 0x120c00000008
/-- Bits 47:32 of CMD_STATUS, RO. -/
def CMD_STATUS.INFLIGHT : Fld := ⟨32, 16⟩
/-- Bits 31:0 of CMD_STATUS, RO. -/
def CMD_STATUS.STAGED : Fld := ⟨0, 32⟩
/-- CMD_WIN (R456). -/
def CMD_WIN (i : Nat) : Nat := 0x120c00000010 + i * 0x8
/-- Bits 51:23 of CMD_WIN, RW. -/
def CMD_WIN.BASE : Fld := ⟨23, 29⟩
/-- CMD_SQ_BASE (R456). -/
def CMD_SQ_BASE (i : Nat) : Nat := 0x120c00001000 + i * 0x40
/-- Bits 51:6 of CMD_SQ_BASE, RW. -/
def CMD_SQ_BASE.ADDR : Fld := ⟨6, 46⟩
/-- CMD_SQ_CFG (R456). -/
def CMD_SQ_CFG (i : Nat) : Nat := 0x120c00001008 + i * 0x40
/-- Bits 63:63 of CMD_SQ_CFG, RW. -/
def CMD_SQ_CFG.EN : Fld := ⟨63, 1⟩
/-- Bits 23:22 of CMD_SQ_CFG, RW. -/
def CMD_SQ_CFG.V1DIE : Fld := ⟨22, 2⟩
/-- Bits 21:20 of CMD_SQ_CFG, RW. -/
def CMD_SQ_CFG.PRIO : Fld := ⟨20, 2⟩
/-- Bits 13:8 of CMD_SQ_CFG, RW. -/
def CMD_SQ_CFG.CQ : Fld := ⟨8, 6⟩
/-- Bits 3:0 of CMD_SQ_CFG, RW. -/
def CMD_SQ_CFG.SIZE : Fld := ⟨0, 4⟩
/-- CMD_SQ_HEAD (R456). -/
def CMD_SQ_HEAD (i : Nat) : Nat := 0x120c00001010 + i * 0x40
/-- Bits 11:0 of CMD_SQ_HEAD, RO. -/
def CMD_SQ_HEAD.INDEX : Fld := ⟨0, 12⟩
/-- CMD_CQ_BASE (R456). -/
def CMD_CQ_BASE (i : Nat) : Nat := 0x120c00001018 + i * 0x40
/-- Bits 51:5 of CMD_CQ_BASE, RW. -/
def CMD_CQ_BASE.ADDR : Fld := ⟨5, 47⟩
/-- CMD_CQ_CFG (R456). -/
def CMD_CQ_CFG (i : Nat) : Nat := 0x120c00001020 + i * 0x40
/-- Bits 63:63 of CMD_CQ_CFG, RW. -/
def CMD_CQ_CFG.EN : Fld := ⟨63, 1⟩
/-- Bits 31:16 of CMD_CQ_CFG, RW. -/
def CMD_CQ_CFG.COAL_US : Fld := ⟨16, 16⟩
/-- Bits 15:8 of CMD_CQ_CFG, RW. -/
def CMD_CQ_CFG.COAL_CNT : Fld := ⟨8, 8⟩
/-- Bits 3:0 of CMD_CQ_CFG, RW. -/
def CMD_CQ_CFG.SIZE : Fld := ⟨0, 4⟩
/-- CMD_CQ_TAIL (R456). -/
def CMD_CQ_TAIL (i : Nat) : Nat := 0x120c00001028 + i * 0x40
/-- Bits 16:16 of CMD_CQ_TAIL, RO. -/
def CMD_CQ_TAIL.PHASE : Fld := ⟨16, 1⟩
/-- Bits 11:0 of CMD_CQ_TAIL, RO. -/
def CMD_CQ_TAIL.INDEX : Fld := ⟨0, 12⟩
/-- CMD_CQ_RES (R456). -/
def CMD_CQ_RES (i : Nat) : Nat := 0x120c00001030 + i * 0x40
/-- Bits 63:63 of CMD_CQ_RES, RW. -/
def CMD_CQ_RES.EN : Fld := ⟨63, 1⟩
/-- Bits 51:8 of CMD_CQ_RES, RW. -/
def CMD_CQ_RES.ADDR : Fld := ⟨8, 44⟩
/-- CMD_CLAMP_CNT (R456). -/
def CMD_CLAMP_CNT (i : Nat) : Nat := 0x120c00001038 + i * 0x40
/-- CMD_CLAMP_REC (R456). -/
def CMD_CLAMP_REC (i : Nat) : Nat := 0x120c00002000 + i * 0x20
/-- Bits 63:63 of CMD_CLAMP_REC, W1C. -/
def CMD_CLAMP_REC.VALID : Fld := ⟨63, 1⟩
/-- Bits 62:48 of CMD_CLAMP_REC, RO. -/
def CMD_CLAMP_REC.SEQ : Fld := ⟨48, 15⟩
/-- Bits 47:40 of CMD_CLAMP_REC, RO. -/
def CMD_CLAMP_REC.OPCODE : Fld := ⟨40, 8⟩
/-- Bits 39:36 of CMD_CLAMP_REC, RO. -/
def CMD_CLAMP_REC.SOURCE : Fld := ⟨36, 4⟩
/-- Bits 31:16 of CMD_CLAMP_REC, RO. -/
def CMD_CLAMP_REC.INDEX : Fld := ⟨16, 16⟩
/-- Bits 6:0 of CMD_CLAMP_REC, RO. -/
def CMD_CLAMP_REC.OFFSET : Fld := ⟨0, 7⟩
/-- CMD_CLAMP_GIVEN (R456). -/
def CMD_CLAMP_GIVEN (i : Nat) : Nat := 0x120c00002008 + i * 0x20
/-- Bits 63:0 of CMD_CLAMP_GIVEN, RO. -/
def CMD_CLAMP_GIVEN.VALUE : Fld := ⟨0, 64⟩
/-- CMD_CLAMP_USED (R456). -/
def CMD_CLAMP_USED (i : Nat) : Nat := 0x120c00002010 + i * 0x20
/-- Bits 63:0 of CMD_CLAMP_USED, RO. -/
def CMD_CLAMP_USED.VALUE : Fld := ⟨0, 64⟩
/-- CMD_SQ_TAIL (R456). -/
def CMD_SQ_TAIL (i : Nat) : Nat := 0x120c00010000 + i * 0x1000
/-- Bits 11:0 of CMD_SQ_TAIL, RW. -/
def CMD_SQ_TAIL.INDEX : Fld := ⟨0, 12⟩
/-- CMD_CQ_HEAD (R456). -/
def CMD_CQ_HEAD (i : Nat) : Nat := 0x120c00010008 + i * 0x1000
/-- Bits 11:0 of CMD_CQ_HEAD, RW. -/
def CMD_CQ_HEAD.INDEX : Fld := ⟨0, 12⟩

/-- The register rows of the CMD block. -/
def rowsCMD : List RegRow :=
  [
   -- CMD_CTL
   ⟨0x0, [], [⟨0, 1, .wo, 0, 0, 2 ^ 64 - 1⟩]⟩,
   -- CMD_STATUS
   ⟨0x8, [], [⟨32, 16, .ro, 0, 0, 2 ^ 64 - 1⟩, ⟨0, 32, .ro, 0, 0, 2 ^ 64 - 1⟩]⟩,
   -- CMD_WIN
   ⟨0x10, [(2, 0x8)], [⟨23, 29, .rw, 0, 0, 2 ^ 64 - 1⟩]⟩,
   -- CMD_SQ_BASE
   ⟨0x1000, [(64, 0x40)], [⟨6, 46, .rw, 0, 0, 2 ^ 64 - 1⟩]⟩,
   -- CMD_SQ_CFG
   ⟨0x1008, [(64, 0x40)], [⟨63, 1, .rw, 0, 0, 2 ^ 64 - 1⟩, ⟨22, 2, .rw, 0, 0, 2 ^ 64 - 1⟩, ⟨20, 2, .rw, 0, 0, 2 ^ 64 - 1⟩, ⟨8, 6, .rw, 0, 0, 2 ^ 64 - 1⟩, ⟨0, 4, .rw, 0, 0, 8⟩]⟩,
   -- CMD_SQ_HEAD
   ⟨0x1010, [(64, 0x40)], [⟨0, 12, .ro, 0, 0, 2 ^ 64 - 1⟩]⟩,
   -- CMD_CQ_BASE
   ⟨0x1018, [(64, 0x40)], [⟨5, 47, .rw, 0, 0, 2 ^ 64 - 1⟩]⟩,
   -- CMD_CQ_CFG
   ⟨0x1020, [(64, 0x40)], [⟨63, 1, .rw, 0, 0, 2 ^ 64 - 1⟩, ⟨16, 16, .rw, 0, 0, 2 ^ 64 - 1⟩, ⟨8, 8, .rw, 0, 0, 2 ^ 64 - 1⟩, ⟨0, 4, .rw, 0, 0, 8⟩]⟩,
   -- CMD_CQ_TAIL
   ⟨0x1028, [(64, 0x40)], [⟨16, 1, .ro, 1, 0, 2 ^ 64 - 1⟩, ⟨0, 12, .ro, 0, 0, 2 ^ 64 - 1⟩]⟩,
   -- CMD_CQ_RES
   ⟨0x1030, [(64, 0x40)], [⟨63, 1, .rw, 0, 0, 2 ^ 64 - 1⟩, ⟨8, 44, .rw, 0, 0, 2 ^ 64 - 1⟩]⟩,
   -- CMD_CLAMP_CNT
   ⟨0x1038, [(64, 0x40)], cntFlds⟩,
   -- CMD_CLAMP_REC
   ⟨0x2000, [(64, 0x20)], [⟨63, 1, .w1c, 0, 0, 2 ^ 64 - 1⟩, ⟨48, 15, .ro, 0, 0, 2 ^ 64 - 1⟩, ⟨40, 8, .ro, 0, 0, 2 ^ 64 - 1⟩, ⟨36, 4, .ro, 0, 0, 2 ^ 64 - 1⟩, ⟨16, 16, .ro, 0, 0, 2 ^ 64 - 1⟩, ⟨0, 7, .ro, 0, 0, 2 ^ 64 - 1⟩]⟩] ++
  [
   -- CMD_CLAMP_GIVEN
   ⟨0x2008, [(64, 0x20)], [⟨0, 64, .ro, 0, 0, 2 ^ 64 - 1⟩]⟩,
   -- CMD_CLAMP_USED
   ⟨0x2010, [(64, 0x20)], [⟨0, 64, .ro, 0, 0, 2 ^ 64 - 1⟩]⟩,
   -- CMD_SQ_TAIL
   ⟨0x10000, [(64, 0x1000)], [⟨0, 12, .rw, 0, 0, 2 ^ 64 - 1⟩]⟩,
   -- CMD_CQ_HEAD
   ⟨0x10008, [(64, 0x1000)], [⟨0, 12, .rw, 0, 0, 2 ^ 64 - 1⟩]⟩]

/-! ### MOD block -/

/-- MOD_LINK_CTL (R456). -/
def MOD_LINK_CTL : Nat := 0x120d00000000
/-- Bits 9:8 of MOD_LINK_CTL, RW. -/
def MOD_LINK_CTL.MAXRATE : Fld := ⟨8, 2⟩
/-- Bits 1:0 of MOD_LINK_CTL, RW. -/
def MOD_LINK_CTL.MAXMODE : Fld := ⟨0, 2⟩
/-- MOD_LINK_STATUS (R456). -/
def MOD_LINK_STATUS : Nat := 0x120d00000008
/-- Bits 19:16 of MOD_LINK_STATUS, RO. -/
def MOD_LINK_STATUS.WIDTH : Fld := ⟨16, 4⟩
/-- Bits 9:8 of MOD_LINK_STATUS, RO. -/
def MOD_LINK_STATUS.RATE : Fld := ⟨8, 2⟩
/-- Bits 1:0 of MOD_LINK_STATUS, RO. -/
def MOD_LINK_STATUS.MODE : Fld := ⟨0, 2⟩
/-- MOD_TIME (R456). -/
def MOD_TIME : Nat := 0x120d00000010
/-- Bits 63:0 of MOD_TIME, RO. -/
def MOD_TIME.NS : Fld := ⟨0, 64⟩
/-- MOD_BIASFLIP (R456). -/
def MOD_BIASFLIP : Nat := 0x120d00000040
/-- MOD_ERR_CTL (R500). -/
def MOD_ERR_CTL : Nat := 0x120d00000080
/-- Bits 16:16 of MOD_ERR_CTL, WO. -/
def MOD_ERR_CTL.CNT_CLR : Fld := ⟨16, 1⟩
/-- Bits 11:8 of MOD_ERR_CTL, RW. -/
def MOD_ERR_CTL.CE_SHIFT : Fld := ⟨8, 4⟩
/-- Bits 3:0 of MOD_ERR_CTL, RW. -/
def MOD_ERR_CTL.IRQ_CLASS : Fld := ⟨0, 4⟩
/-- MOD_ERR_STATUS (R500). -/
def MOD_ERR_STATUS : Nat := 0x120d00000088
/-- Bits 2:2 of MOD_ERR_STATUS, W1C. -/
def MOD_ERR_STATUS.LOG_FULL : Fld := ⟨2, 1⟩
/-- Bits 1:1 of MOD_ERR_STATUS, W1C. -/
def MOD_ERR_STATUS.CE_SEEN : Fld := ⟨1, 1⟩
/-- Bits 0:0 of MOD_ERR_STATUS, RO. -/
def MOD_ERR_STATUS.FATAL : Fld := ⟨0, 1⟩
/-- MOD_LOG_BASE (R500). -/
def MOD_LOG_BASE : Nat := 0x120d00000090
/-- Bits 63:63 of MOD_LOG_BASE, RW. -/
def MOD_LOG_BASE.EN : Fld := ⟨63, 1⟩
/-- Bits 51:12 of MOD_LOG_BASE, RW. -/
def MOD_LOG_BASE.ADDR : Fld := ⟨12, 40⟩
/-- Bits 3:0 of MOD_LOG_BASE, RW. -/
def MOD_LOG_BASE.SIZE : Fld := ⟨0, 4⟩
/-- MOD_LOG_TAIL (R500). -/
def MOD_LOG_TAIL : Nat := 0x120d00000098
/-- Bits 31:0 of MOD_LOG_TAIL, RO. -/
def MOD_LOG_TAIL.INDEX : Fld := ⟨0, 32⟩
/-- MOD_LOG_HEAD (R500). -/
def MOD_LOG_HEAD : Nat := 0x120d000000a0
/-- Bits 31:0 of MOD_LOG_HEAD, RW. -/
def MOD_LOG_HEAD.INDEX : Fld := ⟨0, 32⟩
/-- MOD_CE_CSRAM (R500). -/
def MOD_CE_CSRAM : Nat := 0x120d000000a8
/-- MOD_CE_BSRAM (R500). -/
def MOD_CE_BSRAM : Nat := 0x120d000000b0
/-- MOD_CE_DRAM (R500). -/
def MOD_CE_DRAM : Nat := 0x120d000000b8
/-- MOD_UE_CSRAM (R500). -/
def MOD_UE_CSRAM : Nat := 0x120d000000c0
/-- MOD_UE_BSRAM (R500). -/
def MOD_UE_BSRAM : Nat := 0x120d000000c8
/-- MOD_UE_DRAM (R500). -/
def MOD_UE_DRAM : Nat := 0x120d000000d0
/-- MOD_D2D_RETRY (R500). -/
def MOD_D2D_RETRY : Nat := 0x120d000000d8
/-- MOD_LINK_RETRY (R500). -/
def MOD_LINK_RETRY : Nat := 0x120d000000e0
/-- MOD_LOG_LOST (R500). -/
def MOD_LOG_LOST : Nat := 0x120d000000e8

/-- The register rows of the MOD block. -/
def rowsMOD : List RegRow :=
  [
   -- MOD_LINK_CTL
   ⟨0x0, [], [⟨8, 2, .rw, 0, 0, 2 ^ 64 - 1⟩, ⟨0, 2, .rw, 3, 0, 2 ^ 64 - 1⟩]⟩,
   -- MOD_LINK_STATUS
   ⟨0x8, [], [⟨16, 4, .ro, 0, 0, 2 ^ 64 - 1⟩, ⟨8, 2, .ro, 0, 0, 2 ^ 64 - 1⟩, ⟨0, 2, .ro, 0, 0, 2 ^ 64 - 1⟩]⟩,
   -- MOD_TIME
   ⟨0x10, [], [⟨0, 64, .ro, 0, 0, 2 ^ 64 - 1⟩]⟩,
   -- MOD_BIASFLIP
   ⟨0x40, [], cntFlds⟩,
   -- MOD_ERR_CTL
   ⟨0x80, [], [⟨16, 1, .wo, 0, 0, 2 ^ 64 - 1⟩, ⟨8, 4, .rw, 10, 0, 2 ^ 64 - 1⟩, ⟨0, 4, .rw, 14, 0, 2 ^ 64 - 1⟩]⟩,
   -- MOD_ERR_STATUS
   ⟨0x88, [], [⟨2, 1, .w1c, 0, 0, 2 ^ 64 - 1⟩, ⟨1, 1, .w1c, 0, 0, 2 ^ 64 - 1⟩, ⟨0, 1, .ro, 0, 0, 2 ^ 64 - 1⟩]⟩,
   -- MOD_LOG_BASE
   ⟨0x90, [], [⟨63, 1, .rw, 0, 0, 2 ^ 64 - 1⟩, ⟨12, 40, .rw, 0, 0, 2 ^ 64 - 1⟩, ⟨0, 4, .rw, 4, 0, 14⟩]⟩,
   -- MOD_LOG_TAIL
   ⟨0x98, [], [⟨0, 32, .ro, 0, 0, 2 ^ 64 - 1⟩]⟩,
   -- MOD_LOG_HEAD
   ⟨0xa0, [], [⟨0, 32, .rw, 0, 0, 2 ^ 64 - 1⟩]⟩,
   -- MOD_CE_CSRAM
   ⟨0xa8, [], cntFlds⟩,
   -- MOD_CE_BSRAM
   ⟨0xb0, [], cntFlds⟩,
   -- MOD_CE_DRAM
   ⟨0xb8, [], cntFlds⟩] ++
  [
   -- MOD_UE_CSRAM
   ⟨0xc0, [], cntFlds⟩,
   -- MOD_UE_BSRAM
   ⟨0xc8, [], cntFlds⟩,
   -- MOD_UE_DRAM
   ⟨0xd0, [], cntFlds⟩,
   -- MOD_D2D_RETRY
   ⟨0xd8, [], cntFlds⟩,
   -- MOD_LINK_RETRY
   ⟨0xe0, [], cntFlds⟩,
   -- MOD_LOG_LOST
   ⟨0xe8, [], cntFlds⟩]

/-! ### MBX block -/

/-- MBX_H2F_SEND (R467). -/
def MBX_H2F_SEND (i : Nat) : Nat := 0x120e00002000 + i * 0x8
/-- Bits 31:24 of MBX_H2F_SEND, RO. -/
def MBX_H2F_SEND.SEQ : Fld := ⟨24, 8⟩
/-- Bits 22:20 of MBX_H2F_SEND, RO. -/
def MBX_H2F_SEND.RESULT : Fld := ⟨20, 3⟩
/-- Bits 19:19 of MBX_H2F_SEND, RO. -/
def MBX_H2F_SEND.OWNER : Fld := ⟨19, 1⟩
/-- Bits 18:14 of MBX_H2F_SEND, RW. -/
def MBX_H2F_SEND.DB : Fld := ⟨14, 5⟩
/-- Bits 8:0 of MBX_H2F_SEND, RW. -/
def MBX_H2F_SEND.LEN : Fld := ⟨0, 9⟩
/-- MBX_F2H_SEND (R467). -/
def MBX_F2H_SEND (i : Nat) : Nat := 0x120e00002080 + i * 0x8
/-- Bits 31:24 of MBX_F2H_SEND, RO. -/
def MBX_F2H_SEND.SEQ : Fld := ⟨24, 8⟩
/-- Bits 22:20 of MBX_F2H_SEND, RO. -/
def MBX_F2H_SEND.RESULT : Fld := ⟨20, 3⟩
/-- Bits 19:19 of MBX_F2H_SEND, RO. -/
def MBX_F2H_SEND.OWNER : Fld := ⟨19, 1⟩
/-- Bits 18:14 of MBX_F2H_SEND, RW. -/
def MBX_F2H_SEND.DB : Fld := ⟨14, 5⟩
/-- Bits 8:0 of MBX_F2H_SEND, RW. -/
def MBX_F2H_SEND.LEN : Fld := ⟨0, 9⟩
/-- MBX_H2F_RELEASE (R467). -/
def MBX_H2F_RELEASE : Nat := 0x120e00002100
/-- Bits 21:17 of MBX_H2F_RELEASE, WO. -/
def MBX_H2F_RELEASE.DB : Fld := ⟨17, 5⟩
/-- Bits 16:16 of MBX_H2F_RELEASE, WO. -/
def MBX_H2F_RELEASE.DBEN : Fld := ⟨16, 1⟩
/-- Bits 15:0 of MBX_H2F_RELEASE, WO. -/
def MBX_H2F_RELEASE.MASK : Fld := ⟨0, 16⟩
/-- MBX_F2H_RELEASE (R467). -/
def MBX_F2H_RELEASE : Nat := 0x120e00002108
/-- Bits 21:17 of MBX_F2H_RELEASE, WO. -/
def MBX_F2H_RELEASE.DB : Fld := ⟨17, 5⟩
/-- Bits 16:16 of MBX_F2H_RELEASE, WO. -/
def MBX_F2H_RELEASE.DBEN : Fld := ⟨16, 1⟩
/-- Bits 15:0 of MBX_F2H_RELEASE, WO. -/
def MBX_F2H_RELEASE.MASK : Fld := ⟨0, 16⟩
/-- MBX_STATUS (R467). -/
def MBX_STATUS : Nat := 0x120e00002110
/-- Bits 35:35 of MBX_STATUS, W1C. -/
def MBX_STATUS.LENCLAMP : Fld := ⟨35, 1⟩
/-- Bits 34:34 of MBX_STATUS, W1C. -/
def MBX_STATUS.DBERR : Fld := ⟨34, 1⟩
/-- Bits 33:33 of MBX_STATUS, RO. -/
def MBX_STATUS.HOST_RESET : Fld := ⟨33, 1⟩
/-- Bits 32:32 of MBX_STATUS, RO. -/
def MBX_STATUS.FW_RESET : Fld := ⟨32, 1⟩
/-- Bits 31:16 of MBX_STATUS, RO. -/
def MBX_STATUS.F2H_FULL : Fld := ⟨16, 16⟩
/-- Bits 15:0 of MBX_STATUS, RO. -/
def MBX_STATUS.H2F_FULL : Fld := ⟨0, 16⟩
/-- MBX_CTL (R467). -/
def MBX_CTL : Nat := 0x120e00002118
/-- Bits 1:1 of MBX_CTL, WO. -/
def MBX_CTL.CNT_CLR : Fld := ⟨1, 1⟩
/-- Bits 0:0 of MBX_CTL, WO. -/
def MBX_CTL.FW_READY : Fld := ⟨0, 1⟩
/-- MBX_HOST_DB (R467). -/
def MBX_HOST_DB : Nat := 0x120e00002200
/-- Bits 31:31 of MBX_HOST_DB, W1C. -/
def MBX_HOST_DB.PEER_RESET : Fld := ⟨31, 1⟩
/-- Bits 30:0 of MBX_HOST_DB, W1C. -/
def MBX_HOST_DB.DB : Fld := ⟨0, 31⟩
/-- MBX_HOST_DB_MASK (R467). -/
def MBX_HOST_DB_MASK : Nat := 0x120e00002208
/-- Bits 31:31 of MBX_HOST_DB_MASK, RW. -/
def MBX_HOST_DB_MASK.PEER_RESET : Fld := ⟨31, 1⟩
/-- Bits 30:0 of MBX_HOST_DB_MASK, RW. -/
def MBX_HOST_DB_MASK.DB : Fld := ⟨0, 31⟩
/-- MBX_HOST_DB_SET (R467). -/
def MBX_HOST_DB_SET : Nat := 0x120e00002210
/-- Bits 30:0 of MBX_HOST_DB_SET, W1S. -/
def MBX_HOST_DB_SET.DB : Fld := ⟨0, 31⟩
/-- MBX_FW_DB (R467). -/
def MBX_FW_DB : Nat := 0x120e00002300
/-- Bits 31:31 of MBX_FW_DB, W1C. -/
def MBX_FW_DB.PEER_RESET : Fld := ⟨31, 1⟩
/-- Bits 30:0 of MBX_FW_DB, W1C. -/
def MBX_FW_DB.DB : Fld := ⟨0, 31⟩
/-- MBX_FW_DB_MASK (R467). -/
def MBX_FW_DB_MASK : Nat := 0x120e00002308
/-- Bits 31:31 of MBX_FW_DB_MASK, RW. -/
def MBX_FW_DB_MASK.PEER_RESET : Fld := ⟨31, 1⟩
/-- Bits 30:0 of MBX_FW_DB_MASK, RW. -/
def MBX_FW_DB_MASK.DB : Fld := ⟨0, 31⟩
/-- MBX_FW_DB_SET (R467). -/
def MBX_FW_DB_SET : Nat := 0x120e00002310
/-- Bits 30:0 of MBX_FW_DB_SET, W1S. -/
def MBX_FW_DB_SET.DB : Fld := ⟨0, 31⟩
/-- MBX_REJECTS (R467). -/
def MBX_REJECTS : Nat := 0x120e00002400
/-- MBX_ABORTS (R467). -/
def MBX_ABORTS : Nat := 0x120e00002408

/-- The register rows of the MBX block. -/
def rowsMBX : List RegRow :=
  [
   -- MBX_H2F_SEND
   ⟨0x2000, [(16, 0x8)], [⟨24, 8, .ro, 0, 0, 2 ^ 64 - 1⟩, ⟨20, 3, .ro, 0, 0, 2 ^ 64 - 1⟩, ⟨19, 1, .ro, 0, 0, 2 ^ 64 - 1⟩, ⟨14, 5, .rw, 0, 0, 2 ^ 64 - 1⟩, ⟨0, 9, .rw, 0, 1, 256⟩]⟩,
   -- MBX_F2H_SEND
   ⟨0x2080, [(16, 0x8)], [⟨24, 8, .ro, 0, 0, 2 ^ 64 - 1⟩, ⟨20, 3, .ro, 0, 0, 2 ^ 64 - 1⟩, ⟨19, 1, .ro, 0, 0, 2 ^ 64 - 1⟩, ⟨14, 5, .rw, 0, 0, 2 ^ 64 - 1⟩, ⟨0, 9, .rw, 0, 1, 256⟩]⟩,
   -- MBX_H2F_RELEASE
   ⟨0x2100, [], [⟨17, 5, .wo, 0, 0, 2 ^ 64 - 1⟩, ⟨16, 1, .wo, 0, 0, 2 ^ 64 - 1⟩, ⟨0, 16, .wo, 0, 0, 2 ^ 64 - 1⟩]⟩,
   -- MBX_F2H_RELEASE
   ⟨0x2108, [], [⟨17, 5, .wo, 0, 0, 2 ^ 64 - 1⟩, ⟨16, 1, .wo, 0, 0, 2 ^ 64 - 1⟩, ⟨0, 16, .wo, 0, 0, 2 ^ 64 - 1⟩]⟩,
   -- MBX_STATUS
   ⟨0x2110, [], [⟨35, 1, .w1c, 0, 0, 2 ^ 64 - 1⟩, ⟨34, 1, .w1c, 0, 0, 2 ^ 64 - 1⟩, ⟨33, 1, .ro, 0, 0, 2 ^ 64 - 1⟩, ⟨32, 1, .ro, 1, 0, 2 ^ 64 - 1⟩, ⟨16, 16, .ro, 0, 0, 2 ^ 64 - 1⟩, ⟨0, 16, .ro, 0, 0, 2 ^ 64 - 1⟩]⟩,
   -- MBX_CTL
   ⟨0x2118, [], [⟨1, 1, .wo, 0, 0, 2 ^ 64 - 1⟩, ⟨0, 1, .wo, 0, 0, 2 ^ 64 - 1⟩]⟩,
   -- MBX_HOST_DB
   ⟨0x2200, [], [⟨31, 1, .w1c, 0, 0, 2 ^ 64 - 1⟩, ⟨0, 31, .w1c, 0, 0, 2 ^ 64 - 1⟩]⟩,
   -- MBX_HOST_DB_MASK
   ⟨0x2208, [], [⟨31, 1, .rw, 0, 0, 2 ^ 64 - 1⟩, ⟨0, 31, .rw, 0, 0, 2 ^ 64 - 1⟩]⟩,
   -- MBX_HOST_DB_SET
   ⟨0x2210, [], [⟨0, 31, .w1s, 0, 0, 2 ^ 64 - 1⟩]⟩,
   -- MBX_FW_DB
   ⟨0x2300, [], [⟨31, 1, .w1c, 0, 0, 2 ^ 64 - 1⟩, ⟨0, 31, .w1c, 0, 0, 2 ^ 64 - 1⟩]⟩,
   -- MBX_FW_DB_MASK
   ⟨0x2308, [], [⟨31, 1, .rw, 0, 0, 2 ^ 64 - 1⟩, ⟨0, 31, .rw, 0, 0, 2 ^ 64 - 1⟩]⟩,
   -- MBX_FW_DB_SET
   ⟨0x2310, [], [⟨0, 31, .w1s, 0, 0, 2 ^ 64 - 1⟩]⟩] ++
  [
   -- MBX_REJECTS
   ⟨0x2400, [], cntFlds⟩,
   -- MBX_ABORTS
   ⟨0x2408, [], cntFlds⟩]

/-! ### JNL block -/

/-- JNL_STATUS (R490). -/
def JNL_STATUS : Nat := 0x120f00000000
/-- Bits 63:32 of JNL_STATUS, RO. -/
def JNL_STATUS.START : Fld := ⟨32, 32⟩
/-- Bits 23:20 of JNL_STATUS, RO. -/
def JNL_STATUS.FAILSTARTS : Fld := ⟨20, 4⟩
/-- Bits 16:16 of JNL_STATUS, RO. -/
def JNL_STATUS.TRIAL : Fld := ⟨16, 1⟩
/-- Bits 3:0 of JNL_STATUS, RO. -/
def JNL_STATUS.STEP : Fld := ⟨0, 4⟩
/-- JNL_LASTSEQ (R490). -/
def JNL_LASTSEQ : Nat := 0x120f00000008
/-- Bits 31:0 of JNL_LASTSEQ, RO. -/
def JNL_LASTSEQ.SEQ : Fld := ⟨0, 32⟩

/-- The register rows of the JNL block. -/
def rowsJNL : List RegRow :=
  [
   -- JNL_STATUS
   ⟨0x0, [], [⟨32, 32, .ro, 0, 0, 2 ^ 64 - 1⟩, ⟨20, 4, .ro, 0, 0, 2 ^ 64 - 1⟩, ⟨16, 1, .ro, 0, 0, 2 ^ 64 - 1⟩, ⟨0, 4, .ro, 1, 0, 2 ^ 64 - 1⟩]⟩,
   -- JNL_LASTSEQ
   ⟨0x8, [], [⟨0, 32, .ro, 0, 0, 2 ^ 64 - 1⟩]⟩]

/-! ### SEC block -/

/-- SEC_STATUS (R490). -/
def SEC_STATUS : Nat := 0x121000000000
/-- Bits 63:56 of SEC_STATUS, RO. -/
def SEC_STATUS.SVN_MIN : Fld := ⟨56, 8⟩
/-- Bits 55:48 of SEC_STATUS, RO. -/
def SEC_STATUS.SVN_RUN : Fld := ⟨48, 8⟩
/-- Bits 8:8 of SEC_STATUS, RO. -/
def SEC_STATUS.CHAIN_BAD : Fld := ⟨8, 1⟩
/-- Bits 7:6 of SEC_STATUS, RO. -/
def SEC_STATUS.BAD : Fld := ⟨6, 2⟩
/-- Bits 5:4 of SEC_STATUS, RO. -/
def SEC_STATUS.STAGED : Fld := ⟨4, 2⟩
/-- Bits 1:1 of SEC_STATUS, RO. -/
def SEC_STATUS.NEXT : Fld := ⟨1, 1⟩
/-- Bits 0:0 of SEC_STATUS, RO. -/
def SEC_STATUS.ACTIVE : Fld := ⟨0, 1⟩
/-- SEC_FWVER (R490). -/
def SEC_FWVER : Nat := 0x121000000008
/-- Bits 63:32 of SEC_FWVER, RO. -/
def SEC_FWVER.SLOTB : Fld := ⟨32, 32⟩
/-- Bits 31:0 of SEC_FWVER, RO. -/
def SEC_FWVER.SLOTA : Fld := ⟨0, 32⟩
/-- SEC_SERIAL (R490). -/
def SEC_SERIAL : Nat := 0x121000000010
/-- Bits 63:0 of SEC_SERIAL, RO. -/
def SEC_SERIAL.SERIAL : Fld := ⟨0, 64⟩
/-- SEC_KEYREV (R490). -/
def SEC_KEYREV : Nat := 0x121000000018
/-- Bits 3:0 of SEC_KEYREV, RO. -/
def SEC_KEYREV.REVOKED : Fld := ⟨0, 4⟩

/-- The register rows of the SEC block. -/
def rowsSEC : List RegRow :=
  [
   -- SEC_STATUS
   ⟨0x0, [], [⟨56, 8, .ro, 0, 0, 2 ^ 64 - 1⟩, ⟨48, 8, .ro, 0, 0, 2 ^ 64 - 1⟩, ⟨8, 1, .ro, 0, 0, 2 ^ 64 - 1⟩, ⟨6, 2, .ro, 0, 0, 2 ^ 64 - 1⟩, ⟨4, 2, .ro, 0, 0, 2 ^ 64 - 1⟩, ⟨1, 1, .ro, 0, 0, 2 ^ 64 - 1⟩, ⟨0, 1, .ro, 0, 0, 2 ^ 64 - 1⟩]⟩,
   -- SEC_FWVER
   ⟨0x8, [], [⟨32, 32, .ro, 0, 0, 2 ^ 64 - 1⟩, ⟨0, 32, .ro, 0, 0, 2 ^ 64 - 1⟩]⟩,
   -- SEC_SERIAL
   ⟨0x10, [], [⟨0, 64, .ro, 0, 0, 2 ^ 64 - 1⟩]⟩,
   -- SEC_KEYREV
   ⟨0x18, [], [⟨0, 4, .ro, 0, 0, 2 ^ 64 - 1⟩]⟩]

/-! ### RPL block -/

/-- RPL_STATUS (R508). -/
def RPL_STATUS : Nat := 0x121100000000
/-- Bits 63:32 of RPL_STATUS, RO. -/
def RPL_STATUS.EPOCH : Fld := ⟨32, 32⟩
/-- Bits 6:6 of RPL_STATUS, RO. -/
def RPL_STATUS.STRICT : Fld := ⟨6, 1⟩
/-- Bits 5:5 of RPL_STATUS, W1C. -/
def RPL_STATUS.DIV : Fld := ⟨5, 1⟩
/-- Bits 4:4 of RPL_STATUS, RO. -/
def RPL_STATUS.FULL : Fld := ⟨4, 1⟩
/-- Bits 3:2 of RPL_STATUS, RO. -/
def RPL_STATUS.REPLAY : Fld := ⟨2, 2⟩
/-- Bits 1:0 of RPL_STATUS, RO. -/
def RPL_STATUS.RECORD : Fld := ⟨0, 2⟩
/-- RPL_PTR (R508). -/
def RPL_PTR : Nat := 0x121100000008
/-- Bits 63:0 of RPL_PTR, RO. -/
def RPL_PTR.BYTES : Fld := ⟨0, 64⟩
/-- RPL_DIVERGE (R508). -/
def RPL_DIVERGE : Nat := 0x121100000040
/-- RPL_CHM_DIVERGE (R508). -/
def RPL_CHM_DIVERGE : Nat := 0x121100000048
/-- RPL_HELD (R508). -/
def RPL_HELD : Nat := 0x121100000050

/-- The register rows of the RPL block. -/
def rowsRPL : List RegRow :=
  [
   -- RPL_STATUS
   ⟨0x0, [], [⟨32, 32, .ro, 0, 0, 2 ^ 64 - 1⟩, ⟨6, 1, .ro, 0, 0, 2 ^ 64 - 1⟩, ⟨5, 1, .w1c, 0, 0, 2 ^ 64 - 1⟩, ⟨4, 1, .ro, 0, 0, 2 ^ 64 - 1⟩, ⟨2, 2, .ro, 0, 0, 2 ^ 64 - 1⟩, ⟨0, 2, .ro, 0, 0, 2 ^ 64 - 1⟩]⟩,
   -- RPL_PTR
   ⟨0x8, [], [⟨0, 64, .ro, 0, 0, 2 ^ 64 - 1⟩]⟩,
   -- RPL_DIVERGE
   ⟨0x40, [], cntFlds⟩,
   -- RPL_CHM_DIVERGE
   ⟨0x48, [], cntFlds⟩,
   -- RPL_HELD
   ⟨0x50, [], cntFlds⟩]

/-! ### SB block -/

/-- MOD_SB_ID (R525). -/
def MOD_SB_ID : Nat := 2 ^ 52 + 0x0
/-- Bits 15:0 of MOD_SB_ID, RO. -/
def MOD_SB_ID.MEMBER : Fld := ⟨0, 16⟩
/-- Bits 17:16 of MOD_SB_ID, RO. -/
def MOD_SB_ID.GRADE : Fld := ⟨16, 2⟩
/-- Bits 23:20 of MOD_SB_ID, RO. -/
def MOD_SB_ID.STEPPING : Fld := ⟨20, 4⟩
/-- MOD_SB_SERIAL_LO (R525). -/
def MOD_SB_SERIAL_LO : Nat := 2 ^ 52 + 0x8
/-- Bits 31:0 of MOD_SB_SERIAL_LO, RO. -/
def MOD_SB_SERIAL_LO.SERIAL : Fld := ⟨0, 32⟩
/-- MOD_SB_SERIAL_HI (R525). -/
def MOD_SB_SERIAL_HI : Nat := 2 ^ 52 + 0x10
/-- Bits 31:0 of MOD_SB_SERIAL_HI, RO. -/
def MOD_SB_SERIAL_HI.SERIAL : Fld := ⟨0, 32⟩
/-- MOD_SB_STATUS (R525). -/
def MOD_SB_STATUS : Nat := 2 ^ 52 + 0x18
/-- Bits 23:20 of MOD_SB_STATUS, RO. -/
def MOD_SB_STATUS.FAILSTARTS : Fld := ⟨20, 4⟩
/-- Bits 15:15 of MOD_SB_STATUS, RO. -/
def MOD_SB_STATUS.SHUTDOWN : Fld := ⟨15, 1⟩
/-- Bits 14:14 of MOD_SB_STATUS, RO. -/
def MOD_SB_STATUS.FATAL : Fld := ⟨14, 1⟩
/-- Bits 13:13 of MOD_SB_STATUS, RO. -/
def MOD_SB_STATUS.HALT : Fld := ⟨13, 1⟩
/-- Bits 12:12 of MOD_SB_STATUS, RO. -/
def MOD_SB_STATUS.TRIAL : Fld := ⟨12, 1⟩
/-- Bits 11:11 of MOD_SB_STATUS, RO. -/
def MOD_SB_STATUS.SCAN_HELD : Fld := ⟨11, 1⟩
/-- Bits 10:10 of MOD_SB_STATUS, RO. -/
def MOD_SB_STATUS.DIES_ON : Fld := ⟨10, 1⟩
/-- Bits 9:9 of MOD_SB_STATUS, RO. -/
def MOD_SB_STATUS.VIN_OK : Fld := ⟨9, 1⟩
/-- Bits 3:0 of MOD_SB_STATUS, RO. -/
def MOD_SB_STATUS.STEP : Fld := ⟨0, 4⟩
/-- MOD_SB_CTL (R525). -/
def MOD_SB_CTL : Nat := 2 ^ 52 + 0x20
/-- Bits 3:3 of MOD_SB_CTL, RW. -/
def MOD_SB_CTL.ALERT_EN : Fld := ⟨3, 1⟩
/-- Bits 2:2 of MOD_SB_CTL, RW. -/
def MOD_SB_CTL.SCAN_HOLD : Fld := ⟨2, 1⟩
/-- Bits 1:1 of MOD_SB_CTL, WO. -/
def MOD_SB_CTL.JNL_CLEAR : Fld := ⟨1, 1⟩
/-- Bits 0:0 of MOD_SB_CTL, WO. -/
def MOD_SB_CTL.RESET_REQ : Fld := ⟨0, 1⟩
/-- MOD_SB_CAUSE (R525). -/
def MOD_SB_CAUSE : Nat := 2 ^ 52 + 0x28
/-- Bits 7:7 of MOD_SB_CAUSE, W1C. -/
def MOD_SB_CAUSE.SB_RESET : Fld := ⟨7, 1⟩
/-- Bits 6:6 of MOD_SB_CAUSE, W1C. -/
def MOD_SB_CAUSE.PIN_RESET : Fld := ⟨6, 1⟩
/-- Bits 5:5 of MOD_SB_CAUSE, W1C. -/
def MOD_SB_CAUSE.OVP : Fld := ⟨5, 1⟩
/-- Bits 4:4 of MOD_SB_CAUSE, W1C. -/
def MOD_SB_CAUSE.OCP : Fld := ⟨4, 1⟩
/-- Bits 3:3 of MOD_SB_CAUSE, W1C. -/
def MOD_SB_CAUSE.CONV_OT : Fld := ⟨3, 1⟩
/-- Bits 2:2 of MOD_SB_CAUSE, W1C. -/
def MOD_SB_CAUSE.DIE_OT : Fld := ⟨2, 1⟩
/-- Bits 1:1 of MOD_SB_CAUSE, W1C. -/
def MOD_SB_CAUSE.COOLANT : Fld := ⟨1, 1⟩
/-- Bits 0:0 of MOD_SB_CAUSE, W1C. -/
def MOD_SB_CAUSE.HALT : Fld := ⟨0, 1⟩
/-- MOD_SB_LINK (R525). -/
def MOD_SB_LINK : Nat := 2 ^ 52 + 0x30
/-- Bits 9:0 of MOD_SB_LINK, RW. -/
def MOD_SB_LINK.LINK : Fld := ⟨0, 10⟩
/-- MOD_SB_VIN (R525). -/
def MOD_SB_VIN : Nat := 2 ^ 52 + 0x40
/-- Bits 15:0 of MOD_SB_VIN, RO. -/
def MOD_SB_VIN.VOLTAGE : Fld := ⟨0, 16⟩
/-- Bits 31:16 of MOD_SB_VIN, RO. -/
def MOD_SB_VIN.CURRENT : Fld := ⟨16, 16⟩
/-- MOD_SB_PIN (R525). -/
def MOD_SB_PIN : Nat := 2 ^ 52 + 0x48
/-- Bits 15:0 of MOD_SB_PIN, RO. -/
def MOD_SB_PIN.POWER : Fld := ⟨0, 16⟩
/-- Bits 31:16 of MOD_SB_PIN, RO. -/
def MOD_SB_PIN.CAP : Fld := ⟨16, 16⟩
/-- MOD_SB_TEMP (R525). -/
def MOD_SB_TEMP : Nat := 2 ^ 52 + 0x50
/-- Bits 15:0 of MOD_SB_TEMP, RO. -/
def MOD_SB_TEMP.TEMP : Fld := ⟨0, 16⟩
/-- Bits 17:16 of MOD_SB_TEMP, RO. -/
def MOD_SB_TEMP.DIE : Fld := ⟨16, 2⟩
/-- Bits 23:18 of MOD_SB_TEMP, RO. -/
def MOD_SB_TEMP.SENSOR : Fld := ⟨18, 6⟩
/-- MOD_SB_BOARDT (R525). -/
def MOD_SB_BOARDT : Nat := 2 ^ 52 + 0x58
/-- Bits 7:0 of MOD_SB_BOARDT, RO. -/
def MOD_SB_BOARDT.INLET : Fld := ⟨0, 8⟩
/-- Bits 15:8 of MOD_SB_BOARDT, RO. -/
def MOD_SB_BOARDT.OUTLET : Fld := ⟨8, 8⟩
/-- Bits 23:16 of MOD_SB_BOARDT, RO. -/
def MOD_SB_BOARDT.HOTSPOT : Fld := ⟨16, 8⟩
/-- Bits 31:24 of MOD_SB_BOARDT, RO. -/
def MOD_SB_BOARDT.LPDDR : Fld := ⟨24, 8⟩
/-- MOD_SB_FLASH_ADDR (R525). -/
def MOD_SB_FLASH_ADDR : Nat := 2 ^ 52 + 0x80
/-- Bits 25:2 of MOD_SB_FLASH_ADDR, RW. -/
def MOD_SB_FLASH_ADDR.ADDR : Fld := ⟨2, 24⟩
/-- MOD_SB_FLASH_DATA (R525). -/
def MOD_SB_FLASH_DATA : Nat := 2 ^ 52 + 0x88
/-- Bits 31:0 of MOD_SB_FLASH_DATA, RO. -/
def MOD_SB_FLASH_DATA.DATA : Fld := ⟨0, 32⟩

/-- The register rows of the SB block. -/
def rowsSB : List RegRow :=
  [
   -- MOD_SB_ID
   ⟨0x0, [], [⟨0, 16, .ro, 4132, 0, 2 ^ 64 - 1⟩, ⟨16, 2, .ro, 0, 0, 2 ^ 64 - 1⟩, ⟨20, 4, .ro, 0, 0, 2 ^ 64 - 1⟩]⟩,
   -- MOD_SB_SERIAL_LO
   ⟨0x8, [], [⟨0, 32, .ro, 0, 0, 2 ^ 64 - 1⟩]⟩,
   -- MOD_SB_SERIAL_HI
   ⟨0x10, [], [⟨0, 32, .ro, 0, 0, 2 ^ 64 - 1⟩]⟩,
   -- MOD_SB_STATUS
   ⟨0x18, [], [⟨20, 4, .ro, 0, 0, 2 ^ 64 - 1⟩, ⟨15, 1, .ro, 0, 0, 2 ^ 64 - 1⟩, ⟨14, 1, .ro, 0, 0, 2 ^ 64 - 1⟩, ⟨13, 1, .ro, 0, 0, 2 ^ 64 - 1⟩, ⟨12, 1, .ro, 0, 0, 2 ^ 64 - 1⟩, ⟨11, 1, .ro, 0, 0, 2 ^ 64 - 1⟩, ⟨10, 1, .ro, 0, 0, 2 ^ 64 - 1⟩, ⟨9, 1, .ro, 0, 0, 2 ^ 64 - 1⟩, ⟨0, 4, .ro, 1, 0, 2 ^ 64 - 1⟩]⟩,
   -- MOD_SB_CTL
   ⟨0x20, [], [⟨3, 1, .rw, 1, 0, 2 ^ 64 - 1⟩, ⟨2, 1, .rw, 0, 0, 2 ^ 64 - 1⟩, ⟨1, 1, .wo, 0, 0, 2 ^ 64 - 1⟩, ⟨0, 1, .wo, 0, 0, 2 ^ 64 - 1⟩]⟩,
   -- MOD_SB_CAUSE
   ⟨0x28, [], [⟨7, 1, .w1c, 0, 0, 2 ^ 64 - 1⟩, ⟨6, 1, .w1c, 0, 0, 2 ^ 64 - 1⟩, ⟨5, 1, .w1c, 0, 0, 2 ^ 64 - 1⟩, ⟨4, 1, .w1c, 0, 0, 2 ^ 64 - 1⟩, ⟨3, 1, .w1c, 0, 0, 2 ^ 64 - 1⟩, ⟨2, 1, .w1c, 0, 0, 2 ^ 64 - 1⟩, ⟨1, 1, .w1c, 0, 0, 2 ^ 64 - 1⟩, ⟨0, 1, .w1c, 0, 0, 2 ^ 64 - 1⟩]⟩,
   -- MOD_SB_LINK
   ⟨0x30, [], [⟨0, 10, .rw, 3, 0, 2 ^ 64 - 1⟩]⟩,
   -- MOD_SB_VIN
   ⟨0x40, [], [⟨0, 16, .ro, 0, 0, 2 ^ 64 - 1⟩, ⟨16, 16, .ro, 0, 0, 2 ^ 64 - 1⟩]⟩,
   -- MOD_SB_PIN
   ⟨0x48, [], [⟨0, 16, .ro, 0, 0, 2 ^ 64 - 1⟩, ⟨16, 16, .ro, 0, 0, 2 ^ 64 - 1⟩]⟩,
   -- MOD_SB_TEMP
   ⟨0x50, [], [⟨0, 16, .ro, 32768, 0, 2 ^ 64 - 1⟩, ⟨16, 2, .ro, 0, 0, 2 ^ 64 - 1⟩, ⟨18, 6, .ro, 0, 0, 2 ^ 64 - 1⟩]⟩,
   -- MOD_SB_BOARDT
   ⟨0x58, [], [⟨0, 8, .ro, 0, 0, 2 ^ 64 - 1⟩, ⟨8, 8, .ro, 0, 0, 2 ^ 64 - 1⟩, ⟨16, 8, .ro, 0, 0, 2 ^ 64 - 1⟩, ⟨24, 8, .ro, 0, 0, 2 ^ 64 - 1⟩]⟩,
   -- MOD_SB_FLASH_ADDR
   ⟨0x80, [], [⟨2, 24, .rw, 0, 0, 2 ^ 64 - 1⟩]⟩] ++
  [
   -- MOD_SB_FLASH_DATA
   ⟨0x88, [], [⟨0, 32, .ro, 0, 0, 2 ^ 64 - 1⟩]⟩]

/-- The blocks of the register space (R193 and the block bases of the chapters). -/
def regBlocks : List RegBlock :=
  [⟨0x120000000000, 1024, 0x4000, 0x2000, rowsCOR⟩,
   ⟨0x120100000000, 4, 0x10000, 0x650, rowsMEM⟩,
   ⟨0x120200000000, 4, 0x10000, 0x4c8, rowsSTM⟩,
   ⟨0x120300000000, 64, 0x1000, 0x58, rowsCLU⟩,
   ⟨0x120400000000, 4, 0x10000, 0x88a8, rowsARB⟩,
   ⟨0x120500000000, 4, 0x100000, 0x1ffa0, rowsNOC⟩,
   ⟨0x120600000000, 64, 0x40000, 0x38000, rowsSYN⟩,
   ⟨0x120700000000, 4, 0x10000, 0x10f0, rowsSYND⟩,
   ⟨0x120800000000, 16, 0x1000, 0x68, rowsUPDR⟩,
   ⟨0x120800010000, 1, 0x0, 0x30, rowsUPD⟩,
   ⟨0x120900000000, 4, 0x10000, 0x278, rowsFABD⟩,
   ⟨0x120900100000, 1, 0x0, 0x300, rowsFAB⟩,
   ⟨0x120a00100000, 1, 0x0, 0x78, rowsTWN⟩,
   ⟨0x120a00000000, 4, 0x10000, 0x58, rowsTWND⟩,
   ⟨0x120b00100000, 1, 0x0, 0x60, rowsPWR⟩,
   ⟨0x120b00000000, 4, 0x10000, 0x208, rowsPWRD⟩,
   ⟨0x120b00200000, 16, 0x1000, 0x58, rowsPWRR⟩,
   ⟨0x120c00000000, 1, 0x0, 0x4f010, rowsCMD⟩,
   ⟨0x120d00000000, 1, 0x0, 0xf0, rowsMOD⟩,
   ⟨0x120e00000000, 1, 0x0, 0x2410, rowsMBX⟩,
   ⟨0x120f00000000, 1, 0x0, 0x10, rowsJNL⟩,
   ⟨0x121000000000, 1, 0x0, 0x20, rowsSEC⟩,
   ⟨0x121100000000, 1, 0x0, 0x58, rowsRPL⟩,
   ⟨2 ^ 52, 1, 0x0, 0x90, rowsSB⟩]

/-- Whether an offset within a register's array is an element of it. -/
def dimsHit : List (Nat × Nat) → Nat → Bool
  | [], o => o == 0
  | (n, st) :: ds, o =>
    let i := min (o / st) (n - 1)
    dimsHit ds (o - i * st)

/-- The register of a block at an offset. -/
def rowsFind : List RegRow → Nat → Option RegRow
  | [], _ => none
  | r :: rs, o => if r.off ≤ o && dimsHit r.dims (o - r.off) then some r else rowsFind rs o

/-- The register at an address; none where the address names no register. -/
def regFind : List RegBlock → Nat → Option RegRow
  | [], _ => none
  | b :: bs, a =>
    if b.base ≤ a && a < b.base + (b.count - 1) * b.stride + b.size then
      let o := a - b.base
      let i := if b.stride = 0 then 0 else min (o / b.stride) (b.count - 1)
      match rowsFind b.rows (o - i * b.stride) with
      | some r => some r
      | none => regFind bs a
    else regFind bs a

/-- The register that a device physical address names. -/
def regAt (a : Nat) : Option RegRow := regFind regBlocks a

/-- The reset word a register's table gives. -/
def RegRow.resetWord (r : RegRow) : Nat :=
  r.flds.foldl (fun acc f => acc + (if f.acc = .wo then 0 else f.reset * 2 ^ f.lo)) 0

/-- The reset value of the register at an address: the tables' values, and the values that depend on an index: the array
seeds of R78, the arbiter seeds and the reserved slots of R260, the default completion ring and window bases of R456, the
default doorbells of R467. An address of no register holds 0. -/
def regReset (a : Nat) : Word :=
  let core := (a - 0x120000000000) / 0x4000
  if 0x120000000000 ≤ a ∧ core < 1024 then
    let o := (a - 0x120000000000) % 0x4000
    if o = 0 then BitVec.ofNat 64 core
    else if o = 0x810 then 0x13579BDF else if o = 0x818 then 0x2468ACE0 else if o = 0x820 then 0x0F1E2D3C
    else match rowsFind rowsCOR o with
      | some r => BitVec.ofNat 64 r.resetWord
      | none => 0
  else if 0x120400000000 ≤ a ∧ a < 0x120400040000 then
    let d := (a - 0x120400000000) / 0x10000
    let o := (a - 0x120400000000) % 0x10000
    if 0x8000 ≤ o ∧ o < 0x8000 + 277 * 8 then
      BitVec.ofNat 64 ((0x5A5A0000 + (o - 0x8000) / 8 * 0x101 + d * 0x100000000) % 2 ^ 32)
    else if 0x1000 ≤ o ∧ o < 0x6000 then
      let t := (o - 0x1000) / 0x1000
      let s := (o - 0x1000) % 0x1000 / 8
      let slots := if t = 0 ∨ t = 2 then 28 else if t = 1 then 6 else if t = 3 then 257 else 16
      if s < slots then 0x110 else 0
    else match rowsFind rowsARB o with
      | some r => BitVec.ofNat 64 r.resetWord
      | none => 0
  else match regAt a with
    | some r => BitVec.ofNat 64 (r.resetWord + regResetIndexed a)
    | none => 0
where
  /-- The part of a reset value that depends on the register's index. -/
  regResetIndexed (a : Nat) : Nat :=
    if 0x120C00001008 ≤ a ∧ a < 0x120C00002008 ∧ (a - 0x120C00001008) % 64 = 0 then (a - 0x120C00001008) / 64 * 2 ^ 8
    else if a = 0x120C00000010 then 0x120000000000
    else if a = 0x120C00000018 then 0x120600000000
    else if 0x120E00002000 ≤ a ∧ a < 0x120E00002080 then (a - 0x120E00002000) / 8 * 2 ^ 14
    else if 0x120E00002080 ≤ a ∧ a < 0x120E00002100 then (a - 0x120E00002080) / 8 * 2 ^ 14
    else 0

end Sys2Proof
end

