-- ==== Sys2Proof/Machine/State.lean ====
section
/-!
DEFINITION. Sys2Proof/Machine/State.lean: everything the spec gives the module to hold, as plain data. Registers that
software reads by address are in `State.regs`; what only the hardware and firmware hold is in the structures below.
-/
namespace Sys2Proof.Machine

/-- Why a command stops the machine. No meaning of this model answers with a fault: every error the spec describes is an
effect on the state. -/
inductive Fault
  /-- Never raised. Safe. -/
  | none
  deriving DecidableEq, Repr

/-- Why a command has no meaning. -/
inductive Refusal
  /-- A row whose meaning is not written; raised by `exec` alone. Safe: the machine stops where the hardware goes on. -/
  | notModelled (mnemonic : String)
  deriving DecidableEq, Repr

/-! ### The core (R35 to R191) -/

/-- A stationary set of an array (R56): its element format, the rows and columns loaded, the element codes in row-major
order, and the scale bytes copied with it. -/
structure SetSt where
  fmt : Fmt
  rows : Nat
  cols : Nat
  codes : List Nat
  scale : Option (BitVec 1024)
  deriving DecidableEq, Repr

/-- One array: its form (R66, true is tadpole), its active and shadow sets (none is invalid, R63), the shadow load in
progress (R56), whether a swap stalls on it (R59), a form switch in progress (R66), whether the update engine has it on
loan (R337), seed writes waiting for the array to be idle, oldest first, each with the program-order number of the first operation behind it
(R55), the two banks of edge accumulators, row by row as wide as the form, and the bank the next operation takes (R41). -/
structure ArrSt where
  form : Bool := false
  act : Option SetSt := none
  shd : Option SetSt := none
  load : Option SetSt := none
  swapStall : Bool := false
  switching : Option Bool := none
  lent : Bool := false
  seedWait : List (BitVec 32 × Nat) := []
  acc : Vector (List Nat) 2 := Vector.replicate 2 []
  bank : Bool := false
  deriving DecidableEq, Repr

/-- The zero-row mask a tile register carries (R71, R116): the row length and row count of the instruction that wrote
it, and one bit per row. -/
structure ZMask where
  rb : Nat := 0
  rows : Nat := 0
  mask : BitVec 256 := 0
  deriving DecidableEq, Repr

/-- A part of a row that lies in one 256-byte line: the tile row (a source row for a transposing load), its byte within
the row, the device physical address and length, and the bytes once they have arrived, with their poison. -/
structure Seg where
  row : Nat
  off : Nat
  pa : Nat
  len : Nat
  data : Option (List Byte × Bool) := none
  deriving DecidableEq, Repr

/-- A fault of a load or store (R126, R127): cause code, row, virtual address, and whether the table is host-shared. -/
structure TFault where
  cause : BitVec 4
  row : Nat
  va : Nat
  host : Bool
  deriving DecidableEq, Repr

/-- Where an issued instruction stands. -/
inductive Phase
  /-- In its unit's queue. -/
  | queued
  /-- Begun: a load waiting for lines, a store whose rows are written, a shadow load, a stalled swap, a form switch, a
  DMAQ whose descriptor is read and that waits for its tag, a sync message under way. -/
  | run
  /-- A matrix operation whose accumulators are complete and whose write phase has not come (R42). -/
  | summed
  /-- A matrix operation predicted all-zero, before its check (R76). -/
  | predicted
  /-- Waiting for an ATS answer for the page of a virtual address (R236). -/
  | ats (va : Nat)
  /-- Parked in a fault slot (R126). -/
  | parked (slot : BitVec 2)
  /-- Held with its fault while all four slots are occupied (R126). -/
  | heldFault (f : TFault)
  /-- Abandoned by an interrupt (R131); it issues again on ERET. -/
  | abandoned
  deriving DecidableEq, Repr

/-- What a matrix operation has read of its streaming operand (R42): the element codes of its rows, the rows its mask marks
zero, and the scale register it names. -/
structure MtxOpnd where
  rows : List (List Nat)
  zero : List Bool
  sa : Option (BitVec 1024)
  deriving DecidableEq, Repr

/-- An issued instruction that has not completed: its place in program order, its word and address, the scalar operands
captured at issue (R182), where it stands, the parts of rows its load has asked for, the fault restarts so far (R129), the fault slot it has taken (R135),
whether its tile is INVALID (R117), what the predictor said when it was consulted (R75), the stationary set it was issued
with (R57, R76), whether its base, stride or address was rounded down (R121, R133), and, for a matrix operation, the enable
bits of COR_MTX_CTL it was issued under (R78), the streaming operand it has read, kept for a restart (R42), the accumulator
bank it holds (R41), its streaming rows not sent (R72), whether it accumulates in INT32, whether it is skipped whole (R73),
the COR_MTX_STATUS bits it has raised and whether its shape was clamped; for a DMAQ, whether it has waited for a tag (R251). -/
structure Flight where
  seq : Nat
  w : Word
  pc : Nat
  a : Word := 0
  b : Word := 0
  c : Word := 0
  ph : Phase := .queued
  segs : List Seg := []
  restarts : Nat := 0
  slot : Option (BitVec 2) := none
  inval : Bool := false
  pred : Option Bool := none
  pin : Option (Option SetSt) := none
  aligned : Bool := false
  ctl : BitVec 3 := 0
  opnd : Option MtxOpnd := none
  bank : Option Bool := none
  unsent : Nat := 0
  int : Bool := false
  skipAll : Bool := false
  mfl : BitVec 6 := 0
  clamped : Bool := false
  tagWait : Bool := false
  deriving DecidableEq, Repr

/-- An entry of a core's translation buffer (R234): one page of any size. -/
structure TlbEnt where
  va : Nat
  size : Nat
  pa : Nat
  r : Bool
  w : Bool
  x : Bool
  deriving DecidableEq, Repr

/-- Who sends an advance (R294): a core's SADV, a DMA by die and handle, a stream ring by die × 8 + ring, a reduction
endpoint's round, an update engine's region, a command, or a register write of firmware or the host. -/
inductive AdvSrc
  | core (c : CoreId)
  | dma (d : DieId) (tag : Nat)
  | ring (n : Nat)
  | red (d : DieId) (n : Nat)
  | upd (r : RegionId)
  | cmd (id : Nat)
  | reg
  deriving DecidableEq, Repr

/-- An advance message (R294). -/
structure Adv where
  src : AdvSrc
  obj : ObjId
  amt : Word
  deriving DecidableEq, Repr

/-- A slice's answer to an advance (R296, R299): applied with the value after it, held, or RETRY. -/
inductive AdvAns
  | applied (v : Word)
  | held
  | retry
  deriving DecidableEq, Repr

/-- Who watches: a core's slot, or a slot of a die's control complex (R300). -/
inductive Watcher
  | core (c : CoreId) (slot : BitVec 4)
  | cc (d : DieId) (slot : BitVec 6)
  deriving DecidableEq, Repr

/-- A watch as a registration, a queue entry or a fire message carries it (R300). -/
structure WatchMsg where
  who : Watcher
  gen : Nat
  obj : ObjId
  cmp : BitVec 2
  val : Word
  deriving DecidableEq, Repr

/-- A line of a core's cache (R196): its address, its 256 bytes as they were read, and its poisoned codewords. -/
structure CacheLine where
  addr : Nat
  data : List Byte
  poison : BitVec 16
  deriving DecidableEq, Repr

/-- What the mesh hands a core through its router-to-core crossing (R30). -/
inductive InMsg
  /-- A line read (R241). -/
  | line (l : CacheLine)
  /-- An advance applied, with the value after it (R296). -/
  | ack (a : Adv) (v : Word)
  /-- A watch fired (R302). -/
  | fire (w : WatchMsg)
  /-- A write of one of the core's registers by another agent (R264). -/
  | reg (a : Nat) (v : Word)
  deriving DecidableEq, Repr

/-- What a core's issue waits for (R179, R187). -/
inductive CoreWait
  /-- A BARR waits for its line to complete: line, module scope. -/
  | barr (line : BitVec 6) (scope : Bool)
  /-- An SWAIT waits for one of its slots to fire: slots, result register, parked in the newt state. -/
  | swait (smask : BitVec 16) (rd : BitVec 5) (park : Bool)
  deriving DecidableEq, Repr

/-- Whether a core has a program, and how far it is. -/
inductive RunSt
  /-- No program. -/
  | idle
  /-- Issuing. -/
  | running
  /-- HALT has issued; earlier instructions complete (R185). -/
  | halting
  /-- The program ended and the core has reported. -/
  | halted
  /-- The program was stopped (R130). -/
  | stopped
  deriving DecidableEq, Repr

/-- A slot of the 16 watch slots of a core (R300, R302): whether it holds a watch, its generation, the object, and
whether it raises the WATCH interrupt. -/
structure WatchSlot where
  live : Bool := false
  gen : Nat := 0
  obj : ObjId := 0
  irq : Bool := false
  fired : Bool := false
  deriving DecidableEq, Repr

/-- One core. Its registers that software reads by address are in `State.regs`. -/
structure CoreSt where
  /-- Whether a program runs. -/
  run : RunSt := .idle
  /-- The launch the program belongs to. -/
  launch : Option Nat := none
  /-- The program counter (R166). -/
  pc : Nat := 0
  /-- The instruction word fetched at `pc` and not yet issued (R184). -/
  ibuf : Option Word := none
  /-- The fetch is held for a not-present page (R184). -/
  fetchHeld : Bool := false
  /-- The line a fetch miss waits for, and whether its request has left (R242). -/
  fetchWant : Option Nat := none
  /-- The line a fetch has in hand when the cache allocates nothing (R196). -/
  fetchGot : Option CacheLine := none
  /-- g0 to g31; g0 stays 0 (R165). -/
  g : Vector Word 32 := Vector.replicate 32 0
  /-- m0 to m7 (R151). -/
  masks : Vector (BitVec 4096) 8 := Vector.replicate 8 (BitVec.allOnes 4096)
  /-- s0 to s7 (R49), byte b in bits 8b + 7 to 8b. -/
  scale : Vector (BitVec 1024) 8 := Vector.replicate 8 (BitVec.ofNat 1024 (127 * ((2 ^ 1024 - 1) / 255)))
  /-- The 128 KiB of the tile file (R105): byte o of tile t at key t × 4096 + o. -/
  tiles : Tab Byte := []
  /-- The zero-row masks (R116). -/
  zmask : Vector ZMask 32 := Vector.replicate 32 {}
  /-- Arrays F, G and W (R35). -/
  arr : Vector ArrSt 3 := Vector.replicate 3 {}
  /-- The predictor's two-bit counters (R75). -/
  pred : Tab (BitVec 2) := []
  /-- Issued instructions that have not completed, in program order. -/
  fl : List Flight := []
  /-- Instructions held with their fault, in the order in which the faults came (R126). -/
  heldFaults : List Nat := []
  /-- The program-order number of the next instruction issued. -/
  seq : Nat := 0
  /-- The tile states kept after a program stop (R130). -/
  stopTiles : Option (BitVec 64) := none
  /-- What issue waits for. -/
  wait : Option CoreWait := none
  /-- The wait an interrupt broke off, resumed by ERET (R187). -/
  waitSaved : Option CoreWait := none
  /-- Whether the wait, or the one it broke off, has begun to wait (R311). -/
  waitBegan : Bool := false
  /-- The watch slots (R300). -/
  watch : Vector WatchSlot 16 := Vector.replicate 16 {}
  /-- The generation the next watch gets (R302). -/
  watchGen : Nat := 0
  /-- The generation of the core, advanced by fencing (R286). -/
  coreGen : Nat := 0
  /-- Lines the core has arrived on since its launch, and whether the latest arrival has completed (R179). -/
  arrived : Tab Bool := []
  /-- Clock gated in the newt state (R287). -/
  parked : Bool := false
  /-- What waits in the router-to-core crossing, oldest first (R30, R32, R288). -/
  inq : List InMsg := []
  /-- The core's own cache (R196). -/
  cache : List CacheLine := []
  /-- The split in force (R195), as coded in SPLIT. -/
  split : BitVec 2 := 1
  /-- The translation buffer (R234). -/
  tlb : List TlbEnt := []
  /-- Line addresses that hold a miss register (R241). -/
  miss : List Nat := []
  /-- Line addresses in parking entries, oldest first (R244). -/
  park : List Nat := []
  /-- The live histogram counters (R93). -/
  hist : Tab Nat := []
  /-- The running sample counter (R91). -/
  histCount : Nat := 0
  /-- A fold waiting for the bank: its tag and the counters folded (R93). -/
  fold : Option (BitVec 16 × Tab Nat) := none
  /-- Fold requests from outside the core stalled behind a fold, oldest first; a TAG write carries its tag (R93). -/
  foldWait : List (Option (BitVec 16)) := []
  /-- The tile access that faulted last, while its clock lasts (R136). -/
  faultNow : Option Nat := none
  /-- ACLK clocks owed to the counters, in thousandths (a clock design choice). -/
  clk : Nat := 0
  deriving DecidableEq, Repr

/-! ### Errors, log and replay (R492 to R509) -/

/-- What the module has put out on its ports, pins and interrupt lines: the record of everything an outside agent sees
that leaves no trace in a register or in memory. -/
inductive Out
  /-- An MSI-X message of a vector (R430). -/
  | msix (v : Nat)
  /-- An AER message: Corrected (false) or Uncorrectable (true) Internal Error (R492). -/
  | aer (unc : Bool)
  /-- A CXL RAS status: 0 Mem Data ECC, 1 CRC Threshold, 2 Retry Threshold, 3 Cache Poison Received, 4 Internal Error
  (R498). -/
  | ras (cond : Nat)
  /-- An interrupt to a die's control complex: 0 STARVE, 1 MBX, 2 barrier late, 3 fault report, 4 watch, 5 thermal,
  6 overcurrent or power, 7 fabric or twin, 8 update engine, 9 a bus error of a control core's store. -/
  | dieInt (d : DieId) (kind : Nat)
  /-- A frame on a port: ports 0 to 23 fabric D0P0 to D3P5, 24 to 27 twin D0T to D3T; type, destination MAC, header
  and payload words. -/
  | frame (port : Nat) (ty : Nat) (dst : Nat) (hdr : List Nat) (data : List Byte)
  /-- A message on the host link: a kind and its words. 1 ATS invalidation complete, 2 Completer Abort, 3 configuration answer,
  4 Configuration Request Retry Status, 5 Device Readiness Status, 6 CXL.mem read data (poison, then bytes), 7 CXL.mem write
  done, 8 RspIHitI, 9 BISnpInv, 10 BISnpCur, 11 ATS translation request, 12 page request, 13 DOE Discovery answer, 14 CDAT
  structure, 15 SPDM answer (response code, then words), 16 SPDM error, 17 link reset. -/
  | host (kind : Nat) (words : List Nat)
  /-- An answer on the SMBus sideband. -/
  | smb (bytes : List Byte)
  /-- What a boundary-test instruction puts on a die's pins: 0 the boundary register's contents, 1 high impedance, 2 its
  contents as IEEE 1149.6 pulses, 3 as pulse trains (R527). -/
  | pins (d : DieId) (mode : Nat) (v : Nat)
  /-- A data register shifted out of a die's TAP: its length and contents (R527). -/
  | tdo (d : DieId) (len : Nat) (v : Nat)
  deriving DecidableEq, Repr

/-- A CORRECTED record gathered in the running 100 µs tick (R495). -/
structure CeRec where
  type : Nat
  src : Nat
  tier : Nat
  addr : Nat
  count : Nat
  time : Nat
  data : List Byte
  deriving DecidableEq, Repr

/-- The error log's firmware side: the next record number, records held while MOD_LOG_BASE.EN is 0 (R493), the CORRECTED
records of the running tick (R495), the times of each die-to-die link's resends of the last millisecond, and the links that
retrain (R497). -/
structure LogSt where
  seq : Nat := 0
  held : List (List Byte) := []
  ce : List CeRec := []
  d2d : Tab (List Nat) := []
  d2dTrain : List Nat := []
  deriving DecidableEq, Repr

/-- An order being recorded or forced: the resource key and the sources in order. -/
structure OrderRec where
  key : Nat
  srcs : List Nat
  deriving DecidableEq, Repr

/-- The replay recorder (R501 to R507): log area, class mask, object list, next sequence number, the orders of the running step
being recorded, the consumption number of the next command, and, in a replay, the log, bytes read, recorded orders of the running
step still to be matched, and the resources that follow arrival order after a divergence. -/
structure RplSt where
  base : Nat := 0
  len : Nat := 0
  mask : BitVec 8 := 0
  objs : List (ObjId × ObjId) := []
  seq : Nat := 0
  syncs : List OrderRec := []
  fabs : List OrderRec := []
  consumed : Nat := 0
  rBase : Nat := 0
  rLen : Nat := 0
  rPos : Nat := 0
  forced : List OrderRec := []
  free : List Nat := []
  deriving DecidableEq, Repr

/-! ### Memory tiers, requests and arbitration (R192 to R261) -/

/-- A memory tier an address lies in (R193, R194). -/
inductive Place
  | lpddr
  | bonded (bank : Nat)
  | window (core : Nat) (off : Nat)
  | regs
  | host
  | nowhere
  deriving DecidableEq, Repr

/-- The marking of R206. -/
inductive Mark
  | nomark | streamRo | spill
  deriving DecidableEq, Repr

/-- A line request's target (R243). -/
inductive Target
  | bank (b : Nat)
  | channel (n : Nat)
  | window (c : Nat)
  | host
  deriving DecidableEq, Repr

/-- A line entry of a cluster's sorter (R246, R247): the line, its target, the cores it serves, whether it has waited AGE_MAX
(R248), whether its read has been sent, and whether its bank or controller has admitted it (R255). -/
structure SortEntry where
  line : Nat
  target : Target
  cores : List CoreId
  aged : Bool := false
  sent : Bool := false
  adm : Bool := false
  deriving DecidableEq, Repr

/-- The page of the last LPDDR5X request a sorter sent to a channel (bank, row) and how many in a row it has sent on it
(R248). -/
structure LastSent where
  bank : Nat := 0
  row : Nat := 0
  run : Nat := 0
  deriving DecidableEq, Repr

/-- A cluster's request sorter: entries oldest first, and the last page sent to each channel. -/
structure SorterSt where
  entries : List SortEntry := []
  last : Tab LastSent := []
  deriving DecidableEq, Repr

/-- Who a DMA belongs to: a core's DMAQ, a host command of a ring, firmware. -/
inductive DmaOwner
  | core (c : CoreId)
  | cmd (id : Nat)
  | firmware
  deriving DecidableEq, Repr

/-- The state of a DMA use of a handle tag (R229). -/
inductive DmaPhase
  /-- 0x02, moving data. -/
  | running
  /-- 0x03, waiting on fault service, with the virtual address that faulted. -/
  | faulted (va : Nat)
  /-- 0x02, waiting for the host's translation or page response (R236). -/
  | ats (va : Nat)
  /-- 0x02, its blocks moved: its writes become visible, its reduction rounds end, its multicast lines are acknowledged
  (R227, R278, R283). -/
  | settling
  /-- 0x02, data visible, advance sent and not yet applied (R229). -/
  | advancing
  /-- 0x00. -/
  | done
  /-- 0x80. -/
  | error
  deriving DecidableEq, Repr

/-- Where a line request of a DMA or stream block stands. -/
inductive LineSt
  /-- In the die's per-channel pending list (R252). -/
  | held
  /-- Waiting for its injector's tokens (R271). -/
  | fresh
  /-- At the router port toward its memory-controller stop (R255). -/
  | port
  /-- At its bank port or controller queue (R255). -/
  | asking
  /-- Admitted. -/
  | queue
  /-- Its data are here. -/
  | got
  deriving DecidableEq, Repr

/-- A line request of a block: the block's number, whether a stream ring's, its class, its bytes' place in the block, its physical
address and length within one line, where it stands, and its bytes, with their poison, once they are here. -/
structure LineReq where
  blk : Nat
  stream : Bool
  cls : BitVec 2
  off : Nat
  pa : Nat
  n : Nat
  st : LineSt := .held
  data : List (Byte × Bool) := []
  deriving DecidableEq, Repr

/-- A block of a DMA in flight (R228): its number, its source and destination virtual addresses, its bytes, the die's
reduction and multicast tables as they stood when it started (R290), whether its line requests have been made, the bytes of it written,
and the physical page whose begin notice has been sent (R221). -/
structure DmaBlk where
  id : Nat
  src : Nat
  dst : Nat
  n : Nat
  tab : Tab Word := []
  asked : Bool := false
  moved : Nat := 0
  late : Option Nat := none
  deriving DecidableEq, Repr

/-- A DMA (R226 to R229): its handle tag and generation, owner, descriptor, the row and byte it has reached, the blocks
started and not finished, the blocks completed, its phase and error code, the reduction ranges it has written (R278), and
the multicast deliveries it still waits to hear of (R283), whether its addresses are device physical (R437), and the launch of the
program that owns it (R227). -/
structure DmaSt where
  tag : Nat
  gen : Nat
  owner : DmaOwner
  prog : Option Nat := none
  op : BitVec 8
  flags : BitVec 8
  cls : BitVec 2
  len : Nat
  src : Nat
  dst : Nat
  rows : Nat
  sstride : Int
  dstride : Int
  obj : ObjId
  amt : Word
  row : Nat := 0
  pos : Nat := 0
  blks : List DmaBlk := []
  blocks : Nat := 0
  ph : DmaPhase := .running
  err : BitVec 8 := 0
  rounds : List Nat := []
  redErr : Bool := false
  phys : Bool := false
  mcWait : Nat := 0
  deriving DecidableEq, Repr

/-- A block of a stream ring in flight (R218): its number, its place in the entry, its source page, whether it has been read, the
lines written, die by die, the reads discarded, and whether writes to it are held for one read (R222). -/
structure RingBlk where
  id : Nat
  n : Nat
  pa : Nat
  read : Bool := false
  moved : Nat := 0
  rereads : Nat := 0
  hold : Bool := false
  deriving DecidableEq, Repr

/-- A stream ring's engine state (R214 to R220): whether it runs, the sampled P and Rl, the entry it fills and its SRC, LEN,
FLAGS and TAG once read, the next block to start, the blocks in flight and the source pages written, whether it stops after
the block in progress, the virtual address whose translation is being serviced, and register writes held until it stops. -/
structure RingSt where
  running : Bool := false
  p0 : Word := 0
  r0 : Word := 0
  entry : Nat := 0
  loaded : Bool := false
  src : Nat := 0
  len : Nat := 0
  skip : Bool := false
  tag : Nat := 0
  next : Nat := 0
  blks : List RingBlk := []
  done : Nat := 0
  stopping : Bool := false
  faulted : Option Nat := none
  held : List (Nat × Word) := []
  deriving DecidableEq, Repr

/-- A slot of a ring that holds a copied block set: ring, slot, entry, layer tag, physical source blocks copied. -/
structure SlotCopy where
  ring : Nat
  slot : Nat
  entry : Nat
  tag : Nat
  blocks : List Nat
  deriving DecidableEq, Repr

/-- An arbiter instance: the round-robin pointers of the four classes (none is the reset value, the highest slot), and
the wait counters (R257, R259). -/
structure ArbSt where
  rr : Tab Nat := []
  wait : Tab Nat := []
  deriving DecidableEq, Repr

/-- A fault report firmware services (R237): a core's fault slot, its held fetch, a DMA, or a stream ring, with the virtual
address. -/
inductive FaultOf
  | coreSlot (c : CoreId) (slot : BitVec 2)
  | coreFetch (c : CoreId)
  | dma (tag : Nat)
  | ring (n : Nat)
  deriving DecidableEq, Repr

/-- An entry of a die's translation cache for ATS results (R234). -/
structure AtcEnt where
  va : Nat
  pa : Nat
  r : Bool
  w : Bool
  x : Bool
  deriving DecidableEq, Repr

/-- What one die holds beside its registers: region-table writes held for the step close, oldest first (register address and word,
R213), the walk cache (table-entry address and entry) and the ATS cache (R234), virtual pages whose ATS or page request is
outstanding, DMAs, DMAs of commands and firmware that wait for a tag, handle generations, line requests of DMA and stream blocks,
oldest first, the number of the next block, stream rings, slots that hold a copied layer, the begin notices open as the stream
engine sees them, a block once for each (R221), arbiter instances, and fault reports for firmware, oldest first. -/
structure DieSt where
  rgnHeld : List (Nat × Word) := []
  walkCache : List (Nat × Word) := []
  atc : List AtcEnt := []
  atsWait : List Nat := []
  priWait : List Nat := []
  dmas : List DmaSt := []
  dmaWait : List DmaSt := []
  tagGen : Tab Nat := []
  lines : List LineReq := []
  nextBlk : Nat := 0
  rings : Tab RingSt := []
  copies : List SlotCopy := []
  begun : List Nat := []
  arb : Tab ArbSt := []
  faults : List (FaultOf × Nat) := []
  deriving DecidableEq, Repr

/-- The part's fused data: the enabled-core mask (R4), the grade, the serial number, the MAC base, the fused minimum
security version and the revoked keys (R486). -/
structure Fuses where
  enabled : BitVec 1024 := BitVec.allOnes 1024
  grade : BitVec 8 := 0
  serial : BitVec 64 := 0
  macBase : BitVec 48 := 0
  svnMin : BitVec 8 := 0
  keyRevoked : BitVec 8 := 0
  deriving DecidableEq, Repr

/-! ### Sync objects and barriers (R292 to R316) -/

/-- A cluster's slice (R292, R298, R300): advances held, in arrival order, and watches queued. -/
structure SliceSt where
  held : List Adv := []
  wq : List WatchMsg := []
  deriving DecidableEq, Repr

/-- A control complex's watch slot (R300): its generation and the command that waits on it. -/
structure CcWatch where
  gen : Nat := 0
  cmd : Option Nat := none
  deriving DecidableEq, Repr

/-- A die's copy of a barrier line's episode (R305): the cores that have arrived, whether the control complex has, and the
commands whose BAR_ARRIVE waits for the line. -/
structure BarSt where
  arrived : BitVec 256 := 0
  cc : Bool := false
  cmds : List Nat := []
  deriving DecidableEq, Repr

/-- A system line at die 0 (R310): the episode whose arrival message has been sent, and the arrivals held from other members
as group, member rank and episode. -/
structure SysBar where
  sent : Option Nat := none
  got : List (Nat × Nat × Nat) := []
  deriving DecidableEq, Repr

/-- Sync messages on the mesh and the slices' records; each message has the number at which it was sent (R267). -/
structure SyncSt where
  slices : Tab SliceSt := []
  sent : Nat := 0
  advs : List (Nat × Adv) := []
  acks : List (Nat × Adv × AdvAns) := []
  regs : List (Nat × WatchMsg) := []
  fires : List (Nat × WatchMsg) := []
  retryAdv : List Adv := []
  retryReg : List WatchMsg := []
  cc : Tab CcWatch := []
  bars : Tab BarSt := []
  sys : Tab SysBar := []
  deriving DecidableEq, Repr

/-! ### The mesh (R262 to R291) -/

/-- What a packet of the reduction channel carries (R264): a reduction's line (R275), or deliveries of a multicast DMA (R283): its
die and generation, the deliveries marked delivered-fenced, and whether one found no memory (R291). -/
inductive RedKind
  | sum
  | ack (die : DieId) (gen : Nat) (fenced : Nat) (nomem : Bool)
  deriving DecidableEq, Repr

/-- A packet of the reduction channel (R274 to R279, R283): its reduction ID and line address, or its DMA's handle tag and the router
it returns to; its COUNT, the 64 FP32 codes, poison by codeword, the cores or dies its contributions came from in order of addition,
and the router it is to arrive at. -/
structure RedPkt where
  id : Nat
  line : Nat
  count : Nat
  vals : List Nat
  poison : BitVec 16
  srcs : List Nat
  pos : CoreId
  kind : RedKind := .sum
  deriving DecidableEq, Repr

/-- A multicast write under way (R280 to R283): the DMA it belongs to, the router it left from, the window offset, the bytes with
their poison, and the cores it has not reached. -/
structure McPkt where
  die : DieId
  tag : Nat
  gen : Nat
  from_ : CoreId
  off : Nat
  data : List (Byte × Bool)
  left : List CoreId
  deriving DecidableEq, Repr

/-- The round of a reduction range at its endpoint (R277): the contributions counted, rounds completed in the step, and, for
a recording or a forced order, the sources per line, the packets held out of turn and whether the round follows arrival
order after a divergence (R505). -/
structure RedRound where
  count : Nat := 0
  round : Nat := 0
  orders : Tab (List Nat) := []
  held : List RedPkt := []
  freed : Bool := false
  deriving DecidableEq, Repr

/-- A late-write notice (R221): the engine's die, the block, whether it begins or ends a DMA's writes or stands alone (0, 1,
2), and the writer. -/
structure Notice where
  d : DieId
  block : Nat
  kind : BitVec 2
  who : Nat
  deriving DecidableEq, Repr

/-- The mesh: combining buffers by router (the packets they hold), packets on links, packets at their endpoint, round-done
notices by die, reduction rounds by ID, multicast writes under way, token buckets by injector, and
late-write notices on their way. -/
structure NocSt where
  comb : Tab (List RedPkt) := []
  reds : List RedPkt := []
  atEnd : List RedPkt := []
  done : List (DieId × Nat) := []
  rounds : Tab RedRound := []
  mcs : List McPkt := []
  tokens : Tab Nat := []
  notices : List Notice := []
  deriving DecidableEq, Repr

/-! ### The host link and commands (R419 to R457) -/

/-- A command consumed and without a final reply (R434): its number, submission ring, packet, consumption number, slot, whether
it comes from a replayed log, whether a function level reset has discarded its reply, whether a DEFERRED reply has been posted, and what its progress needs. -/
structure CmdRec where
  id : Nat
  ring : RingId
  pkt : Packet
  seq : Nat
  slot : Nat := 0
  replayed : Bool := false
  mute : Bool := false
  deferred : Bool := false
  data : List Nat := []
  deriving DecidableEq, Repr

/-- A reply formed (R441): submission ring, TAG, STATUS, time in µs, result words, and whether its packet asked for an
interrupt. -/
structure Reply where
  ring : RingId
  tag : BitVec 16
  status : BitVec 8
  time : Nat
  words : List Nat
  irq : Bool
  deriving DecidableEq, Repr

/-- A range registered for mapping on demand (R237, R447): virtual base, length, physical base, permissions R, W, X in bits 0
to 2, and the page size. -/
structure Demand where
  va : Nat
  len : Nat
  pa : Nat
  perm : Nat
  page : Nat
  deriving DecidableEq, Repr

/-- A page-table pool area (R447): base, length, and the tables in use in it. -/
structure Pool where
  base : Nat
  len : Nat
  used : List Nat := []
  deriving DecidableEq, Repr

/-- A staged configuration generation (R452): its number, setting, the 48 VALUE bytes after clamping, and the selector. -/
structure Gen where
  n : Nat
  setting : Nat
  value : List Byte
  sel : BitVec 32
  deriving DecidableEq, Repr

/-- Where a launch stands (R407, R410, R448). -/
inductive LaunchPh
  /-- In the ready queue. -/
  | queued
  /-- Being started: its regions rise to their points. -/
  | starting
  | running
  /-- A core has been fenced or the launch is being stopped: its cores stop. -/
  | ending
  deriving DecidableEq, Repr

/-- A work-group (R407, R448): its command (none for the firmware's own rule-0 launches, whose engine region and layer stand
instead), entry, argument bytes, cores, priority, profile, operating-point limits, barrier lines, traffic descriptor
bytes, where it stands, what its end will say once that is settled, its start time plus 1 (0 before it), the point of its regions, the ticks it has
waited, and the generation it runs at. -/
structure Launch where
  id : Nat
  cmd : Option Nat
  rule0 : Option (Nat × Nat) := none
  entry : Nat
  argv : List Byte
  perCore : Bool
  cores : List CoreId
  prio : Nat
  profile : Nat
  minpt : Nat
  maxpt : Nat
  lines : BitVec 64
  tpat : List Byte
  ph : LaunchPh := .queued
  status : BitVec 8 := 0
  start : Nat := 0
  point : Nat := 0
  waited : Nat := 0
  gen : Nat := 0
  deriving DecidableEq, Repr

/-- The host side of the control complex: the commands in flight, the next command number, the commands consumed, the round-robin turn of each ring
priority, replies held by completion ring, replies since the last interrupt, mapping on demand, page-table pools (the current
first), device-bias 2 MiB pages, lines in the snoop filters, staged generations and each region's generation, launches,
page-request state (stopped, the allocation, and the requests that have left, as die × 2^48 + page), whether an FLR runs, whether
the link is up, cores whose programs have stopped since their launch began, in order, and the last BAR_CFG of each barrier line. -/
structure HostSt where
  cmds : List CmdRec := []
  next : Nat := 0
  consumed : Nat := 0
  rr : Tab Nat := []
  held : Tab (List Reply) := []
  coal : Tab Nat := []
  demand : List Demand := []
  pools : List Pool := []
  bias : Tab Bool := []
  filter : Tab (List Nat) := []
  gens : List Gen := []
  staged : Nat := 0
  committed : Nat := 0
  regionGen : Tab Nat := []
  launches : List Launch := []
  priStopped : Bool := false
  priAlloc : Nat := 1024
  priSent : List Nat := []
  flr : Bool := false
  linkUp : Bool := false
  stops : List CoreId := []
  barCfg : Tab (Option Word) := []
  deriving DecidableEq, Repr

/-! ### The update engines and the chameleon selector (R89 to R101, R317 to R345) -/

/-- A layer descriptor after clamping (R325); floating fields are FP32 codes. -/
structure Layer where
  rule : Nat
  flags : Nat
  engine : Nat
  cfmt : Nat
  mfmt : Nat
  tform : Nat
  tag : Nat
  rows : Nat
  cols : Nat
  wA : Nat
  gA : Nat
  mA : Nat
  vA : Nat
  cA : Nat
  sA : Nat
  tA : Nat
  tsA : Nat
  kA : Nat
  lrmult : Nat
  wd : Nat
  b1 : Nat
  b2 : Nat
  eps : Nat
  aux : Nat
  gobj : ObjId
  gstep : Nat
  nsiter : Nat
  deriving DecidableEq, Repr

/-- An installed plan (R324): its header after clamping, and the bytes it was read from with every address zeroed, for the
configuration digest of R388. -/
structure Plan where
  flags : Nat
  maxnorm : Nat
  gscale : Nat
  nchan : Nat
  ltab : Nat
  stab : Nat
  work : Nat
  wsize : Nat
  nsa : Nat
  nsb : Nat
  nsc : Nat
  layers : List Layer
  bytes : List Byte
  deriving DecidableEq, Repr

/-- An installed schedule block (R341). -/
structure Sched where
  warm : Nat
  decay : Nat
  lrmax : Nat
  fmin : Nat
  amp : Nat
  pmult : Nat
  e0 : Nat
  wsteps : Nat
  period : Nat
  total : Nat
  h : Nat
  bytes : List Byte
  deriving DecidableEq, Repr

/-- A layer within the step: GOBJ's base, SUMSQ as an FP64 code, its non-finite elements, and whether Pass A and Pass B are
behind it. -/
structure LayerSt where
  base : Word := 0
  sumsq : Nat := 0
  nonfin : Nat := 0
  aDone : Bool := false
  bDone : Bool := false
  deriving DecidableEq, Repr

/-- An array on loan (R337): its core and number, and the form and LFSR state it gets back. -/
structure LentArr where
  core : CoreId
  arr : Nat
  form : Bool
  seed : BitVec 32
  deriving DecidableEq, Repr

/-- A layer of the chameleon selector (R96 to R98): whether it has had an entry, format and scale, the other format select has
returned and for how many steps, and the histograms of the last 64 steps, newest first (empty where the layer had no
samples). -/
structure ChamSt where
  known : Bool := false
  fmt : Nat := 0
  scale : Nat := 127
  cand : Nat := 0
  run : Nat := 0
  hist : List (List Nat) := []
  deriving DecidableEq, Repr

/-- The update side of firmware and the engines: plan, schedule, layers of the step, the STEP_CLOSE that waits, the attempt,
whether the module's sum has been sent, whether S is known, the norm's result as the fabric gives it before it is acted on, whether the step skips Pass B, whether Pass B has
written, whether a late error stands, arrays on
loan, host-shared pages whose page request failed (die × 2^48 + page), and the chameleon selector's settings, those to take effect at the next
step boundary, and its layers. -/
structure UpdSt where
  plan : Option Plan := none
  sched : Option Sched := none
  lays : Tab LayerSt := []
  closeCmd : Option Nat := none
  attempt : Nat := 0
  sent : Bool := false
  known : Bool := false
  normGot : Option (Nat × Bool) := none
  skip : Bool := false
  wrote : Bool := false
  late : Bool := false
  lent : List LentArr := []
  priFail : List Nat := []
  chm : List Byte := []
  chmNext : Option (List Byte) := none
  table : Option (List Byte) := none
  chmLays : Tab ChamSt := []
  deriving DecidableEq, Repr

/-! ### The Dziari fabric (R346 to R375) -/

/-- A frame as a path carries it: type, frame, and the times it has been resent. -/
structure TxFrame where
  ty : Nat
  f : Frame
  retx : Bool := false
  deriving DecidableEq, Repr

/-- A path (R351 to R353): port and peer MAC; sending: whether its direction is open or an opening PROBE is unacknowledged, the
next PSN, frames unacknowledged and frames that wait, resends without progress, down; receiving: whether the peer's direction
is open, the PSN expected, whether the gap has had its NAK, and frames accepted since the last acknowledgement. -/
structure PathSt where
  port : Nat
  mac : Nat
  isOpen : Bool := false
  opening : Bool := false
  psn : Nat := 0
  unacked : List TxFrame := []
  waiting : List TxFrame := []
  resent : Nat := 0
  down : Bool := false
  rOpen : Bool := false
  expect : Nat := 0
  naked : Bool := false
  since : Nat := 0
  deriving DecidableEq, Repr

/-- A member of a group (R356). -/
structure Member where
  mac : Nat
  mode : Nat
  amac : Nat
  serial : Nat
  aserial : Nat
  deriving DecidableEq, Repr

/-- A group (R356, R372): fan-in, the module's rank and flag, its members, credit, deadlines in force, and those to come at the
next STEP_OPEN. -/
structure GroupSt where
  fanin : Nat
  alt : Bool
  rank : Nat
  members : List Member
  cinit : Nat
  soft : Nat := 5000
  hard : Nat := 100000
  next : Option (Nat × Nat) := none
  deriving DecidableEq, Repr

/-- A copy of a child rank's contribution (R354, R368): its segments accepted with their poison, whether a segment was
discarded, whether it is the preferred copy, whether it is no longer wanted, whether its
segments count as consumed already, and the ABORT flag of a norm contribution. -/
structure Contrib where
  rank : Nat
  alt : Bool
  segs : Tab (Option (List Byte × Bool)) := []
  lost : Bool := false
  pref : Bool := false
  gone : Bool := false
  paid : Bool := false
  abort : Bool := false
  deriving DecidableEq, Repr

/-- A reduction at the module (R362 to R370): its number, kind (0 reduce-scatter, 1 all-gather, 2 norm), shard entry, root
rank, segments, the value of LOBJ at step open, whether its sending has begun (a norm: its own value is there), the copies of
contributions in order of their first segment, segments formed, the bytes formed or received (a norm: 0 the partial sum, 1 the
total), the sources of formed segments not yet forwarded, segments queued toward each destination (rank × 2 + copy), whether
DL_SOFT has passed, the ABORT of a norm, and whether nothing is left to form, send or receive. -/
structure Red where
  rsn : Nat
  kind : Nat
  entry : Nat
  root : Nat
  nseg : Nat
  base : Word := 0
  begun : Bool := false
  own : Nat := 0
  copies : List Contrib := []
  formed : Nat := 0
  sums : Tab (Option (List Byte × Bool)) := []
  pend : List (Nat × List Nat) := []
  queued : Tab Nat := []
  soft : Bool := false
  abort : Bool := false
  done : Bool := false
  deriving DecidableEq, Repr

/-- A source's or destination's credit on a channel (R355): segments sent to it, consumed by it as it last said, consumed from
it, and consumed at the last grant to it. -/
structure Credit where
  sent : Nat := 0
  theirs : Nat := 0
  mine : Nat := 0
  told : Nat := 0
  deriving DecidableEq, Repr

/-- A channel (R358): its group, planes, stores, class and credit, its next RSN and the one at step open, unended
reductions in RSN order, credits by rank × 2 + copy, and segments of reductions not yet issued here, with their port and
frame type. -/
structure ChanSt where
  group : Nat
  planes : Nat
  rbuf : Nat
  rblen : Nat
  bkbuf : Nat
  bklen : Nat
  cls : BitVec 2
  credit : Nat
  rsn : Nat := 0
  rsnOpen : Nat := 0
  reds : List Red := []
  credits : Tab Credit := []
  early : List (Nat × Nat × Frame) := []
  deriving DecidableEq, Repr

/-- An entry of the shard table (R360). -/
structure Shard where
  tag : Nat
  chan : Nat
  gchan : Nat
  owner : Nat
  flags : Nat
  group : Nat
  gsrc : Nat
  glen : Nat
  lobj : ObjId
  lstep : Nat
  gadr : Nat
  gathlen : Nat
  bytes : List Byte
  deriving DecidableEq, Repr

/-- The fabric: paths, groups, channels, the shard table, ports paused by PFC, ports whose training a FAB_PORT_SET waits for,
and whether a reduce-scatter of the step has failed here. -/
structure FabSt where
  paths : List PathSt := []
  groups : Tab (Option GroupSt) := []
  chans : Tab (Option ChanSt) := []
  shards : List Shard := []
  paused : List Nat := []
  txHeld : List (Nat × Out) := []
  portCfg : Tab Word := []
  training : List (Nat × Nat) := []
  failed : Bool := false
  timedOut : Bool := false
  deriving DecidableEq, Repr

/-! ### The twin (R376 to R396) -/

/-- A bond record (R386), without its signature. -/
structure BondRec where
  serial : Nat
  mac : Nat
  mode : Nat
  source : Nat
  fwver : Nat
  cfgdig : List Byte
  time : Nat
  committed : Nat
  statedig : List Byte
  mepoch : Nat
  mirdig : List Byte
  imglen : Nat
  pnonce : List Byte
  deriving DecidableEq, Repr

/-- The bond settings of a TWN_BOND. -/
structure BondSet where
  mode : Nat
  source : Nat
  peer : Nat
  timeout : Nat
  split : Bool := false
  deriving DecidableEq, Repr

/-- The twin (R376 to R396): the bond being made or in force and its command; the nonce sent and the partner's; the partner's
BOND frames so far (segment and whether it is the last) and its record; this module's record; the partner's MAC base; the
decisions; the resynchronisation that runs (0 none, 1 this module's state goes out, 2 the partner's state comes in, 3 full
mirrors) and whether mirrors follow it; layers whose image is still to be sent; the image bytes of the partner's mirror (its
epoch, the segments received as tag × 2^32 + segment); whether the partner has acknowledged the full mirror, and whether its
own is here; whether the step waits for a MACK; unbond commands and answers; and the settings stored in SPI NOR. -/
structure TwnSt where
  set : Option BondSet := none
  cmd : Option Nat := none
  nonce : List Byte := []
  peerNonce : Option (List Byte) := none
  rxBond : Tab (Option (List Byte × Bool)) := []
  peer : Option BondRec := none
  mine : Option BondRec := none
  peerMac : Nat := 0
  decision : Option Nat := none
  theirs : Option Nat := none
  resync : Nat := 0
  mirrorLeft : List Nat := []
  rxEpoch : Option Nat := none
  rxGot : List Nat := []
  acked : Bool := false
  got : Bool := false
  owed : Bool := false
  unbondCmd : Option Nat := none
  unbondSent : Bool := false
  peerUnbond : Bool := false
  stored : Option BondSet := none
  deriving DecidableEq, Repr

/-! ### Power and scheduling (R397 to R418) -/

/-- A profile (R408): W0 in units of 2^-32 token, and its sample count. -/
structure ProfSt where
  w0 : Nat := 155 * 2 ^ 32
  count : Nat := 0
  deriving DecidableEq, Repr

/-- A step of a region's change of point (R405, R406): a relock or a slew, the point it leads to, and whether the change raises
the frequency. -/
structure Move where
  relock : Bool
  point : Nat
  up : Bool
  deriving DecidableEq, Repr

/-- A region's power: steps of a change of point still to come, the point a borrower held before borrowing, the launch, profile
and point it has run at since the last tick with nothing changed, the launch that reserves it, the points an overspend lowers
it by at the next tick, and the tokens it lent. -/
structure RgnPwr where
  moves : List Move := []
  borrowFrom : Option Nat := none
  base : Option (Nat × Nat × Nat) := none
  resFor : Option Nat := none
  lower : Nat := 0
  lent : Nat := 0
  deriving DecidableEq, Repr

/-- A function of R415: on (0), off (1), shutting down (2), enabling (3); the commands whose transition runs or that wait, by
number, true to enable. -/
structure FuncSt where
  st : Nat := 0
  queue : List (Nat × Bool) := []
  deriving DecidableEq, Repr

/-- The power manager: settings in force (CAP is in PWR_CTL): THROT, GUARD, RESERVE, LEND_FREQ, the control-latency target;
THERMAL_IN; input samples in a row below CAP; the efficiency measured as output over input power; profiles, regions, functions;
commands whose settings apply at the next tick; the last tick's free tokens, loan pool and A_mod and its highest sensor reading;
pacer RATEs lowered by a tick of R273 as link, injector and earlier RATE; and the link flit counts at the last tick. -/
structure PwrSt where
  throt : Nat := 95
  guard : Nat := 20
  reserve : Nat := 50
  lendFreq : Nat := 400
  latency : Nat := 4000
  thermalIn : Nat := 3400
  below : Nat := 0
  effOut : Nat := 94
  effIn : Nat := 100
  profs : Tab ProfSt := []
  rgns : Tab RgnPwr := []
  funcs : Tab FuncSt := []
  after : List Nat := []
  free : Int := 0
  loan : Nat := 0
  amod : Int := 0
  hottest : Int := 0
  lowered : List (Nat × Nat × Nat) := []
  flits : Tab Nat := []
  deriving DecidableEq, Repr

/-! ### Start-up, journal, security, mailboxes, board and test access (R458 to R491, R510 to R530) -/

/-- A journal entry (R474) without its CRC. -/
structure JEntry where
  seq : Nat
  start : Nat
  step : Nat
  tryNo : Nat
  outcome : Nat
  slot : Nat
  object : Nat
  detail : Nat
  ms : Nat
  deriving DecidableEq, Repr

/-- The state block (R476): slot for the next start, flags BAD and STAGED by slot, the trial flag (0 none, 1 the next start is a
trial start, 2 a trial start has begun), the slot before the trial, FAILSTARTS, INCOMPLETE, the step and object that used up
their tries in the previous start and in this one, timing sets by device (0 normal, 1 conservative, 2 excluded), and the cores
fenced by step 8. -/
structure StateBlk where
  next : Nat := 0
  bad : BitVec 2 := 0
  staged : BitVec 2 := 0
  trial : Nat := 0
  prevSlot : Nat := 0
  failStarts : Nat := 0
  incomplete : Bool := false
  failedPrev : List (Nat × Nat) := []
  failedNow : List (Nat × Nat) := []
  timing : Tab Nat := []
  fenced : Tab Bool := []
  deriving DecidableEq, Repr

/-- Non-volatile state of the SPI NOR (R473, R475, R476): the last SEQ and start number used, the two journal sectors and
whether sector 1 is current, the latest state block, and the bytes written into the device elsewhere. -/
structure Nvm where
  seq : Nat := 0
  starts : Nat := 0
  sector0 : List JEntry := []
  sector1 : List JEntry := []
  cur : Bool := false
  blk : StateBlk := {}
  flash : Tab Byte := []
  deriving DecidableEq, Repr

/-- An SPDM session's state (R487): its identifier, whether FINISH has established it, and how often its keys have changed. -/
structure Session where
  id : Nat
  established : Bool := false
  keys : Nat := 0
  deriving DecidableEq, Repr

/-- A die's TAP (R526, R527): the instruction, the boundary register as last loaded, and the read data of the last completed
CCDBG access. -/
structure TapSt where
  ir : BitVec 8 := 2
  cells : BitVec 116 := 0
  data : Word := 0
  deriving DecidableEq, Repr

/-- Start-up and the board: input above the lock-out, over-voltage standing, die rails on, the shut-down state, its 10 s still
running and a reset that waits for them, MOD_RST# low, PERST# asserted, the halt state, the step in progress, failed tries of the
step by object, units lost in the step, the step-1 try that waits for its 100 ms, a start held after step 1, whether the host
link trains, and whether it retrains every second after step 10 failed, whether step 12 has given up its bond or has none to make, the start number, module
time at its beginning, the slot of the start and whether it is a trial start, VERSION, SVN and DIGEST of the running image; a
running FW_STAGE and the header bytes it writes last; SPDM negotiation (0 none, 1 version, 2 capabilities, 3 algorithms, 4 with key exchange and encryption), its
sessions and the next session number; non-volatile memory; the TAPs by die; the mailbox data; and the last 1,000 input samples as
voltage, current, and the last board temperatures. -/
structure SysSt where
  vin : Bool := true
  ovp : Bool := false
  rails : Bool := false
  shutdown : Bool := false
  hold : Bool := false
  resetWait : Bool := false
  rstLow : Bool := false
  perst : Bool := false
  halted : Bool := false
  step : Nat := 1
  tries : Tab Nat := []
  lost : Nat := 0
  railWait : Bool := false
  scanHeld : Bool := false
  linkTry : Bool := false
  linkRetry : Bool := false
  noBond : Bool := false
  start : Nat := 0
  began : Nat := 0
  slot : Nat := 0
  trialNow : Bool := false
  version : Nat := 0
  svn : Nat := 0
  digest : List Byte := []
  stage : Option Nat := none
  stageHead : List Byte := []
  spdm : Nat := 0
  sessions : List Session := []
  nextSession : Nat := 1
  nvm : Nvm := {}
  taps : Tab TapSt := []
  mbox : Tab Byte := []
  samples : List (Nat × Nat) := []
  board : BitVec 32 := 0
  deriving DecidableEq, Repr
/-! ### The machine -/

/-- The whole module. -/
structure State where
  /-- Commands waiting, first in, first out. -/
  pending : List Instr := []
  /-- The MODEL's own counter of free values taken. -/
  free : Nat := 0
  /-- Memory by device physical address; host memory at 0x2000_0000_0000 + h (R193). -/
  mem : Tab Byte := []
  /-- Poisoned 16-byte codewords by number, address ÷ 16 (R231). -/
  poison : Tab Bool := []
  /-- Registers by device physical address; unlisted registers hold their reset values. -/
  regs : Tab Word := []
  /-- The part's fused data (R4, R486). -/
  fuses : Fuses := {}
  /-- Cores by core ID. -/
  cores : Tab CoreSt := []
  /-- Cluster request sorters by cluster number. -/
  sorters : Tab SorterSt := []
  /-- Per-die hardware. -/
  dies : Tab DieSt := []
  /-- What the module has put out, oldest first. -/
  out : List Out := []
  /-- The error log's firmware side. -/
  log : LogSt := {}
  /-- The replay recorder. -/
  rpl : RplSt := {}
  /-- Sync objects' messages, watches and barrier lines; the values are in SYN_VAL registers. -/
  sync : SyncSt := {}
  /-- What is under way on the mesh. -/
  noc : NocSt := {}
  /-- The host link's and the command firmware's records. -/
  host : HostSt := {}
  /-- The update engines' and the selector's records. -/
  upd : UpdSt := {}
  /-- The fabric. -/
  fab : FabSt := {}
  /-- The twin. -/
  twn : TwnSt := {}
  /-- Power and scheduling. -/
  pwr : PwrSt := {}
  /-- Start-up, journal, security, mailboxes, board and test access. -/
  sys : SysSt := {}
  deriving DecidableEq, Repr

/-- The module right after a module reset (R515, R517): every register at its table's reset value, nothing queued, no
memory listed, start-up step 1 in progress. -/
def State.reset : State := {}

end Sys2Proof.Machine
end

