-- ==== Sys2Proof/Machine/Ops.lean ====
section
/-!
DEFINITION. Sys2Proof/Machine/Ops.lean: the named operations over registers, cores, dies and memory that every meaning
goes through.
-/
namespace Sys2Proof.Machine

/-! ### Registers -/

/-- The word a register holds. -/
def State.rd (s : State) (a : Nat) : Word := s.regs.get regReset a
/-- A register set by the hardware or by firmware, past its access types. -/
def State.wr (s : State) (a : Nat) (v : Word) : State := { s with regs := s.regs.set regReset a v }
/-- A field of a register. -/
def State.fld (s : State) (a : Nat) (f : Fld) : Nat := f.get (s.rd a)
/-- A one-bit field as a Bool. -/
def State.bit (s : State) (a : Nat) (f : Fld) : Bool := s.fld a f == 1
/-- A field set. -/
def State.setFld (s : State) (a : Nat) (f : Fld) (v : Nat) : State := s.wr a (f.put (s.rd a) v)
/-- A counter of the layout of R78 advanced by `n`; it wraps to 0 after 2^48 − 1. -/
def State.bump (s : State) (a : Nat) (n : Nat := 1) : State :=
  s.wr a (BitVec.ofNat 64 (((s.rd a).toNat + n) % 2 ^ 48))
/-- A list of counters cleared. -/
def State.clear (s : State) (as : List Nat) : State := as.foldl (fun s a => s.wr a 0) s
/-- A fresh free value, and the state that has taken it. -/
def State.take (s : State) : Nat × State := (Config.free s.free, { s with free := s.free + 1 })

/-! ### Records -/

/-- Core `c`. -/
def State.core (s : State) (c : CoreId) : CoreSt := s.cores.get (fun _ => {}) c.toNat
/-- Core `c` set. -/
def State.setCore (s : State) (c : CoreId) (x : CoreSt) : State :=
  { s with cores := s.cores.set (fun _ => {}) c.toNat x }
/-- Core `c` changed by `f`. -/
def State.modCore (s : State) (c : CoreId) (f : CoreSt → CoreSt) : State := s.setCore c (f (s.core c))
/-- Die `d`. -/
def State.die (s : State) (d : DieId) : DieSt := s.dies.get (fun _ => {}) d.toNat
/-- Die `d` set. -/
def State.setDie (s : State) (d : DieId) (x : DieSt) : State :=
  { s with dies := s.dies.set (fun _ => {}) d.toNat x }
/-- Die `d` changed by `f`. -/
def State.modDie (s : State) (d : DieId) (f : DieSt → DieSt) : State := s.setDie d (f (s.die d))
/-- The request sorter of cluster `k`. -/
def State.sorter (s : State) (k : ClusterId) : SorterSt := s.sorters.get (fun _ => {}) k.toNat
/-- The request sorter of cluster `k` set. -/
def State.setSorter (s : State) (k : ClusterId) (x : SorterSt) : State :=
  { s with sorters := s.sorters.set (fun _ => {}) k.toNat x }

/-- The first element that passes a test changed by `f`. -/
def modFirst {α : Type} (p : α → Bool) (f : α → α) : List α → List α
  | [] => []
  | x :: xs => if p x then f x :: xs else x :: modFirst p f xs

/-! ### Identifiers (R15 to R19) -/

/-- The die of a core. -/
def dieOf (c : CoreId) : DieId := c.extractLsb' 8 2
/-- The cluster of a core, within the module. -/
def clusterOf (c : CoreId) : ClusterId := c.extractLsb' 4 6
/-- The region of a core. -/
def regionOf (c : CoreId) : RegionId := c.extractLsb' 6 4
/-- The die of a cluster. -/
def dieOfCluster (k : ClusterId) : DieId := k.extractLsb' 4 2
/-- The die of a region. -/
def dieOfRegion (r : RegionId) : DieId := r.extractLsb' 2 2
/-- Mesh coordinates of a core within its die (R17). -/
def meshX (c : CoreId) : Nat := c.toNat / 64 % 2 * 8 + c.toNat / 16 % 2 * 4 + c.toNat % 4
/-- Mesh row of a core within its die (R17). -/
def meshY (c : CoreId) : Nat := c.toNat / 128 % 2 * 8 + c.toNat / 32 % 2 * 4 + c.toNat / 4 % 4
/-- The core at a mesh coordinate of a die (R17, R18). -/
def coreAt (d : DieId) (x y : Nat) : CoreId :=
  BitVec.ofNat 10 (d.toNat * 256 + y / 8 % 2 * 128 + x / 8 % 2 * 64 + y / 4 % 2 * 32 + x / 4 % 2 * 16 + y % 4 * 4 + x % 4)
/-- Whether a core is enabled, not fused off (R3, R4). -/
def State.enabled (s : State) (c : CoreId) : Bool := s.fuses.enabled.getLsbD c.toNat
/-- All core IDs. -/
def allCores : List CoreId := (List.range 1024).map (BitVec.ofNat 10)
/-- The four dies. -/
def allDies : List DieId := [0, 1, 2, 3]
/-- The cluster whose slice homes an object, and its index there (R19). -/
def homeOf (o : ObjId) : ClusterId × BitVec 12 := (o.extractLsb' 12 6, o.extractLsb' 0 12)

/-! ### The clock of a core (R14, R32) -/

/-- All regions. -/
def allRegions : List RegionId := (List.range 16).map (BitVec.ofNat 4)
/-- A region's power record. -/
def State.rp (s : State) (r : RegionId) : RgnPwr := s.pwr.rgns.get (fun _ => {}) r.toNat
/-- Whether a region's PLL relocks, its ACLK stopped (R32, R405). -/
def State.relocking (s : State) (r : RegionId) : Bool :=
  match (s.rp r).moves with
  | m :: _ => m.relock
  | [] => false
/-- Whether a region's rail is off, shutting down, or not yet enabled again (R415). -/
def State.railOff (s : State) (r : RegionId) : Bool := (s.pwr.funcs.get (fun _ => {}) r.toNat).st != 0
/-- Whether a region's ACLK runs: its rail and PLL serve its cores and its update engine (R14). -/
def State.rclocked (s : State) (r : RegionId) : Bool := !s.relocking r && !s.railOff r
/-- Whether a core is clocked. -/
def State.clocked (s : State) (c : CoreId) : Bool := s.rclocked (regionOf c)

/-! ### Memory (R193, R194, R230, R231) -/

/-- What memory that nothing has written reads as: 0 (a DESIGN CHOICE, in the log). -/
def memZero : Nat → Byte := fun _ => 0
/-- Bytes of memory. -/
def State.rdMem (s : State) (a n : Nat) : List Byte := s.mem.getRun memZero a n
/-- A little-endian number from bytes (R9). -/
def leNat : List Byte → Nat
  | [] => 0
  | b :: bs => b.toNat + 256 * leNat bs
/-- `n` little-endian bytes of a number. -/
def toLe : Nat → Nat → List Byte
  | 0, _ => []
  | n + 1, v => BitVec.ofNat 8 v :: toLe n (v / 256)
/-- A little-endian number of `n` bytes in memory. -/
def State.rdNum (s : State) (a n : Nat) : Nat := leNat (s.rdMem a n)
/-- Whether a codeword that holds a byte of the range is poisoned. -/
def State.poisoned (s : State) (a n : Nat) : Bool :=
  decide (0 < n) && s.poison.any fun e => e.2 && decide (a / 16 ≤ e.1) && decide (e.1 ≤ (a + n - 1) / 16)
/-- Codewords of a range set poisoned or clean. -/
def State.setPoison (s : State) (a n : Nat) (p : Bool) : State :=
  { s with poison := s.poison.setRun (fun _ => false) (a / 16) (List.replicate ((a + n + 15) / 16 - a / 16) p) }
/-- Good data put into memory: a codeword written whole becomes clean, one written in part keeps its poison (R231). -/
def State.putMem (s : State) (a : Nat) (bs : List Byte) : State :=
  let lo := (a + 15) / 16
  let hi := (a + bs.length) / 16
  { s with
    mem := s.mem.setRun memZero a bs
    poison := if lo < hi then s.poison.setRun (fun _ => false) lo (List.replicate (hi - lo) false) else s.poison }
/-- Lines of a range that the snoop filters show the host may hold leave them by BISnpInv (R426). -/
def State.backInv (s : State) (a n : Nat) : State :=
  if s.host.filter.isEmpty then s
  else
    let hit (l : Nat) : Bool := decide (a < l * 64 + 64) && decide (l * 64 < a + n)
    let gone := (s.host.filter.flatMap (·.2)).filter hit
    { s with
      out := s.out ++ gone.map fun l => .host 9 [l * 64]
      host := { s.host with filter := (s.host.filter.map fun e => (e.1, e.2.filter fun l => !hit l)).filter fun e => !e.2.isEmpty } }
/-- A device agent's write of good data. -/
def State.wrMem (s : State) (a : Nat) (bs : List Byte) : State := (s.backInv a bs.length).putMem a bs
/-- A copy: the bytes, and the poison of the source with them (R231). -/
def State.copyMem (s : State) (src dst n : Nat) : State :=
  let bs := s.rdMem src n
  let bad := s.poisoned src n
  let s' := s.wrMem dst bs
  if bad then
    -- each destination codeword that takes a byte of a poisoned source codeword
    (List.range n).foldl (fun t i => if s.poisoned (src + i) 1 then t.setPoison (dst + i) 1 true else t) s'
  else s'
/-- A number written little-endian. -/
def State.wrNum (s : State) (a n v : Nat) : State := s.wrMem a (toLe n v)

/-- LPDDR5X bytes present: C × 16 GiB (R205). -/
def State.lpddrSize (s : State) : Nat := s.fld (MEM_CHMAP 0) MEM_CHMAP.C * 2 ^ 34
/-- The scratch size S of a core (R195). -/
def State.scratch (s : State) (c : CoreId) : Nat := (3 - (s.core c).split.toNat) * 2 ^ 18
/-- The place an address names (R193, R194). -/
def State.place (s : State) (a : Nat) : Place :=
  if a < 0x20000000000 then (if a < s.lpddrSize then .lpddr else .nowhere)
  else if 0x100000000000 ≤ a ∧ a < 0x100400000000 then .bonded ((a - 0x100000000000) / 2 ^ 24)
  else if 0x110000000000 ≤ a ∧ a < 0x110040000000 then
    let c := (a - 0x110000000000) / 2 ^ 20
    let o := (a - 0x110000000000) % 2 ^ 20
    if o < s.scratch (BitVec.ofNat 10 c) then .window c o else .nowhere
  else if 0x120000000000 ≤ a ∧ a < 0x130000000000 then .regs
  else if 0x200000000000 ≤ a ∧ a < 2 ^ 52 then .host
  else .nowhere

/-- The device physical address of host memory (R193). -/
def hostMem (h : Nat) : Nat := 0x200000000000 + h

/-- The marking that die `d`'s copy of the region table gives an address: the valid entry of lowest index that covers it
(R206, R210). -/
def State.rgnMark (s : State) (d : DieId) (a : Nat) : Mark :=
  let base := MEM_RGN_BASE d.toNat 0
  let es := s.regs.filter fun e => decide (base ≤ e.1) && decide (e.1 < base + 0x400) && decide ((e.1 - base) % 16 = 0)
  let hit := es.find? fun e =>
    MEM_RGN_BASE.V.get e.2 == 1 &&
    decide (MEM_RGN_BASE.BASE.get e.2 ≤ a / 2 ^ 16) && decide (a / 2 ^ 16 ≤ MEM_RGN_LIMIT.LIMIT.get (s.rd (e.1 + 8)))
  match hit with
  | some e => match MEM_RGN_BASE.MARK.get e.2 with
    | 1 => .streamRo
    | 2 => .spill
    | _ => .nomark
  | none => .nomark

/-- The marking of an address as die `d` sees it: the table's for memory; entries over core SRAM windows, and over addresses that
name no memory, are ignored (R194, R207). -/
def State.mark (s : State) (d : DieId) (a : Nat) : Mark :=
  match s.place a with
  | .lpddr | .bonded _ | .host => s.rgnMark d a
  | _ => .nomark

/-- Whether a step is open as die `d` sees it (R208). -/
def State.openOn (s : State) (d : DieId) : Bool := s.bit (MEM_STEP d.toNat) MEM_STEP.OPEN

/-- The active LPDDR5X channels in rising order (R204, R205). -/
def State.channels (s : State) : List Nat :=
  let act := s.fld (MEM_CHMAP 0) MEM_CHMAP.DEV_ACTIVE
  (List.range 128).filter fun n => decide (act / 2 ^ (n / 4) % 2 = 1)
/-- The channel, bank and row of an LPDDR5X address (R204). -/
def State.chanOf (s : State) (pa : Nat) : Nat × Nat × Nat :=
  let act := s.channels
  let C := act.length
  let blk := pa / 256
  let q := blk / C
  let h := (q ^^^ (q / 2 ^ 7) ^^^ (q / 2 ^ 14) ^^^ (q / 2 ^ 21)) % 128
  (act.getD ((blk % C + h) % C) 0, q / 8 % 16, q / 128)
/-- The die that holds an address: its bank's, its controller's or its core's; host memory and registers are on die 0. -/
def State.homeDie (s : State) (a : Nat) : DieId :=
  match s.place a with
  | .bonded b => BitVec.ofNat 2 (b / 256)
  | .lpddr => BitVec.ofNat 2 ((s.chanOf a).1 / 32)
  | .window c _ => BitVec.ofNat 2 (c / 256)
  | _ => 0

end Sys2Proof.Machine
end

