-- ==== Sys2Proof/Machine/Log.lean ====
section
/-!
DEFINITION. Sys2Proof/Machine/Log.lean: what the module puts out, its interrupts to the host, and the module error log of
R492 to R499.
-/
namespace Sys2Proof.Machine

/-- A message put out. -/
def State.emit (s : State) (o : Out) : State := { s with out := s.out ++ [o] }

/-- The MSI-X table entry of vector `v`, as PCIe lays it out: message address, then data with the mask in bit 32. The
table is reached at BAR0 alone and is keyed past the device physical map. -/
def msixEntry (v : Nat) : Nat := 2 ^ 53 + v * 16
/-- The MSI-X pending-bit array. -/
def msixPba (v : Nat) : Nat := 2 ^ 53 + 0x8000 + v / 64 * 8
/-- An MSI-X vector raised: a masked vector sets its pending bit (R430). -/
def State.msix (s : State) (v : Nat) : State :=
  -- the mask bit resets to 1, so the register holds its complement
  if (s.rd (msixEntry v + 8)).getLsbD 32 then s.emit (.msix v)
  else s.wr (msixPba v) (s.rd (msixPba v) ||| (1 <<< (v % 64)))

/-- Host doorbells set; a bit that becomes pending and unmasked signals the host through vector 64 (R465). -/
def State.hostDb (s : State) (bits : Word) : State :=
  let old := s.rd MBX_HOST_DB
  let new := old ||| bits
  let mask := s.rd MBX_HOST_DB_MASK
  let s := s.wr MBX_HOST_DB new
  if new &&& ~~~old &&& ~~~mask ≠ 0 then s.msix 64 else s
/-- Firmware doorbells set; a bit that becomes pending and unmasked signals D0CC (R465). -/
def State.fwDb (s : State) (bits : Word) : State :=
  let old := s.rd MBX_FW_DB
  let new := old ||| bits
  let mask := s.rd MBX_FW_DB_MASK
  let s := s.wr MBX_FW_DB new
  if new &&& ~~~old &&& ~~~mask ≠ 0 then s.emit (.dieInt 0 1) else s

/-- The four classes of R492 by code. -/
abbrev ErrClass := Nat
/-- The record types whose records ring doorbell 30 (R499). -/
def actionTypes : List Nat := [0x11, 0x12, 0x13, 0x17, 0x20, 0x21]

/-- A log record's 64 bytes (R494). -/
def logBytes (type cls flags seq time epoch src tier count addr : Nat) (data : List Byte) : List Byte :=
  toLe 2 type ++ toLe 1 cls ++ toLe 1 flags ++ toLe 4 seq ++ toLe 8 time ++ toLe 8 epoch ++ toLe 2 src ++ toLe 1 tier ++
  toLe 1 0 ++ toLe 4 count ++ toLe 8 addr ++ (data ++ List.replicate 24 0).take 24

/-- Whether a record's class raises vector 65 (R499). -/
def State.classIrq (s : State) (cls : Nat) : Bool := s.fld MOD_ERR_CTL MOD_ERR_CTL.IRQ_CLASS / 2 ^ cls % 2 == 1

/-- A record put into the log ring, which must have room; TAIL advances after it, and its interrupts follow (R493,
R499). Record indices run freely over 32 bits, and index i lies in slot i mod the ring's size. -/
def State.logPut (s : State) (rec : List Byte) : State :=
  let base := s.rd MOD_LOG_BASE
  let n := 64 * 2 ^ MOD_LOG_BASE.SIZE.get base
  let tail := s.fld MOD_LOG_TAIL MOD_LOG_TAIL.INDEX
  let s := s.wrMem (MOD_LOG_BASE.ADDR.get base * 4096 + tail % n * 64) rec
  let s := s.setFld MOD_LOG_TAIL MOD_LOG_TAIL.INDEX (tail + 1)
  let s := if s.classIrq (leNat ((rec.drop 2).take 1)) then s.msix 65 else s
  if leNat ((rec.drop 3).take 1) % 2 = 1 then s.hostDb (1 <<< 30) else s

/-- Whether the ring has room for a record. -/
def State.logRoom (s : State) : Bool :=
  let used := (s.fld MOD_LOG_TAIL MOD_LOG_TAIL.INDEX + 2 ^ 32 - s.fld MOD_LOG_HEAD MOD_LOG_HEAD.INDEX) % 2 ^ 32
  decide (used < 64 * 2 ^ s.fld MOD_LOG_BASE MOD_LOG_BASE.SIZE)

/-- A record written, held while EN is 0, or lost (R493). -/
def State.logWrite (s : State) (type cls flags count time src tier addr : Nat) (data : List Byte) : State :=
  let flags := flags + (if actionTypes.contains type then 1 else 0)
  let rec' := logBytes type cls flags s.log.seq time (s.rd UPD_EPOCH).toNat src tier count addr data
  let s := { s with log := { s.log with seq := s.log.seq + 1 } }
  if s.bit MOD_LOG_BASE MOD_LOG_BASE.EN then
    if s.logRoom then s.logPut rec'
    else (s.bump MOD_LOG_LOST).setFld MOD_ERR_STATUS MOD_ERR_STATUS.LOG_FULL 1
  else if s.log.held.length < 256 then { s with log := { s.log with held := s.log.held ++ [rec'] } }
  else s.bump MOD_LOG_LOST

/-- The module's time in nanoseconds. -/
def State.now (s : State) : Nat := (s.rd MOD_TIME).toNat

/-- An event of class CONTAINED, FATAL or EVENT: one record each, never merged (R495). -/
def State.event (s : State) (type cls src tier addr : Nat) (data : List Byte) : State :=
  s.logWrite type cls 0 1 s.now src tier addr data

/-- A SOURCE field of R494: kind and number. -/
def srcOf (kind n : Nat) : Nat := kind * 4096 + n % 4096

/-- A CORRECTED event: the counter, CE_SEEN, an AER message each 2^CE_SHIFT events, and the tick's merged record (R492,
R495). -/
def State.corrected (s : State) (cnt type src tier addr : Nat) (data : List Byte) : State :=
  let s := s.bump cnt
  let s := s.setFld MOD_ERR_STATUS MOD_ERR_STATUS.CE_SEEN 1
  let s := if (s.rd cnt).toNat % 2 ^ s.fld MOD_ERR_CTL MOD_ERR_CTL.CE_SHIFT = 0 then s.emit (.aer false) else s
  let same (r : CeRec) : Bool := r.type == type && r.src == src && r.addr / 16 == addr / 16
  if s.log.ce.any same then
    { s with log := { s.log with ce := s.log.ce.map fun r => if same r then { r with count := r.count + 1 } else r } }
  else { s with log := { s.log with ce := s.log.ce ++ [⟨type, src, tier, addr, 1, s.now, data⟩] } }

/-- The tick's CORRECTED records written, at most 64 of them (R495). -/
def State.logTick (s : State) : State :=
  let rs := s.log.ce.take 64
  let s := { s with log := { s.log with ce := [] } }
  rs.foldl (fun s r => s.logWrite r.type 0 (if 1 < r.count then 2 else 0) r.count r.time r.src r.tier r.addr r.data) s

/-- The tier code, tier counters (corrected, poisoned) and SOURCE of an address (R494, R500). -/
def State.tierOf (s : State) (a : Nat) : Nat × Nat × Nat × Nat :=
  match s.place a with
  | .window c _ => (1, MOD_CE_CSRAM, MOD_UE_CSRAM, srcOf 0 c)
  | .bonded b => (2, MOD_CE_BSRAM, MOD_UE_BSRAM, srcOf 1 b)
  | .lpddr => (3, MOD_CE_DRAM, MOD_UE_DRAM, srcOf 2 (s.chanOf a).1)
  | .host => (5, MOD_CE_DRAM, MOD_UE_DRAM, srcOf 6 0)
  | _ => (0, MOD_CE_DRAM, MOD_UE_DRAM, srcOf 6 0)

/-- A CXL.cache read returned poison: a HOST_POISON record with the CXL RAS status of R498. -/
def State.hostPoison (s : State) (addr who : Nat) : State :=
  let (tier, _, _, src) := s.tierOf addr
  if tier = 5 ∧ s.fld MOD_LINK_STATUS MOD_LINK_STATUS.MODE ≠ 0 then (s.event 0x0004 1 src tier addr (toLe 4 0 ++ toLe 4 who)).emit (.ras 3) else s

/-- A consumer met poison: a POISON_USE record (R232, R496), after the HOST_POISON of a read that brought it from host memory. -/
def State.poisonUse (s : State) (addr consumer : Nat) (who : Nat) : State :=
  let (tier, _, _, src) := s.tierOf addr
  (s.hostPoison addr (if consumer = 2 then who else 0)).event 0x0003 1 src tier addr (toLe 4 consumer ++ toLe 4 who)

/-! ### The Igrov log (R501 to R503) -/

/-- Whether a recording runs. -/
def State.recording (s : State) : Bool := decide (2 ≤ s.fld RPL_STATUS RPL_STATUS.RECORD)
/-- Whether a class of R501 is recorded. -/
def State.records (s : State) (bit : Nat) : Bool := s.recording && s.rpl.mask.getLsbD bit
/-- Whether a replay runs. -/
def State.replaying (s : State) : Bool := decide (s.fld RPL_STATUS RPL_STATUS.REPLAY ≠ 0)

/-- The bytes of an Igrov record: the 16-byte header and the body, filled to a multiple of 8 (R503). -/
def State.rplBytes (s : State) (type : Nat) (body : List Byte) (cont : Bool := false) : List Byte :=
  let len := (16 + body.length + 7) / 8 * 8
  toLe 1 type ++ toLe 1 ((if s.replaying then 1 else 0) + (if cont then 2 else 0)) ++ toLe 2 len ++ toLe 4 s.rpl.seq ++ toLe 8 s.now ++ body ++
  List.replicate (len - 16 - body.length) 0

/-- Bytes put at the recorder's pointer. -/
def State.rplPut (s : State) (bs : List Byte) : State :=
  let p := (s.rd RPL_PTR).toNat
  let s := s.wrMem (s.rpl.base + p) bs
  { s.wr RPL_PTR (BitVec.ofNat 64 (p + bs.length)) with rpl := { s.rpl with seq := s.rpl.seq + 1 } }

/-- The recording ended with END and its reason: 0 stop, 1 full (R502, R503). -/
def State.rplEnd (s : State) (reason : Nat) : State :=
  let body := toLe 4 reason ++ toLe 4 (s.fld RPL_STATUS RPL_STATUS.EPOCH)
  let s := s.rplPut (s.rplBytes 0x0E body)
  let s := s.setFld RPL_STATUS RPL_STATUS.RECORD 0
  if reason = 1 then s.setFld RPL_STATUS RPL_STATUS.FULL 1 else s

/-- An Igrov record written while recording; with less than 4 KiB of the log left, END instead (R502). -/
def State.rplWrite (s : State) (type : Nat) (body : List Byte) (cont : Bool := false) : State :=
  if s.recording then
    if s.rpl.len < (s.rd RPL_PTR).toNat + 4096 then s.rplEnd 1
    else s.rplPut (s.rplBytes type body cont)
  else s

/-- A SEED record: kind, cause (0 step open, 1 write), unit, LFSR state (R503). -/
def State.rplSeed (s : State) (kind cause unit : Nat) (v : BitVec 32) : State :=
  s.rplWrite 0x06 (toLe 1 kind ++ toLe 1 cause ++ toLe 2 unit ++ toLe 4 v.toNat)

/-- A divergence of a replay: counted, DIV set, a DIVERGE record; with STRICT the replay stops at the next step boundary
(R505). -/
def State.diverge (s : State) (what seq detail : Nat) : State :=
  let s := s.bump RPL_DIVERGE
  let s := s.setFld RPL_STATUS RPL_STATUS.DIV 1
  let s := s.rplWrite 0x0C (toLe 4 what ++ toLe 4 seq ++ toLe 8 detail)
  if s.bit RPL_STATUS RPL_STATUS.STRICT then s.setFld RPL_STATUS RPL_STATUS.REPLAY 2 else s

end Sys2Proof.Machine
end

