-- ==== Sys2Proof/Machine/Mmu.lean ====
section
/-!
DEFINITION. Sys2Proof/Machine/Mmu.lean: virtual memory (R234 to R236): the four-level walk with the die's walk cache, a
core's translation buffer, host-shared addresses, and the permission of an access by marking (R207).
-/
namespace Sys2Proof.Machine

/-- What an access needs of a translation. -/
inductive Need
  | read | write | fetch
  deriving DecidableEq, Repr

/-- Cause codes of R127. -/
abbrev Cause := BitVec 4
/-- NOT_PRESENT. -/
def cNotPresent : Cause := 1
/-- PERMISSION. -/
def cPermission : Cause := 2
/-- POISON. -/
def cPoison : Cause := 3
/-- RESTART_LIMIT. -/
def cRestart : Cause := 4
/-- PRI_FAIL. -/
def cPriFail : Cause := 5

/-- The outcome of a walk or a translation. -/
inductive Xl
  /-- A page: its virtual base, size, physical base, and permissions R, W, X. -/
  | page (e : TlbEnt)
  /-- A fault of a cause; `host` on a host-shared table; where the cause is POISON, the address of the poisoned table entry. -/
  | fault (c : Cause) (host : Bool) (entry : Nat)
  /-- A host-shared page whose translation is not in the ATS cache (R236). -/
  | ats
  /-- A host-shared page granted without the permission needed: a page request follows (R236). -/
  | pri
  deriving DecidableEq, Repr

/-- Fields of a table entry (R235). -/
def pteV (e : Word) : Bool := e.getLsbD 0
/-- R of a table entry. -/
def pteR (e : Word) : Bool := e.getLsbD 1
/-- W of a table entry. -/
def pteW (e : Word) : Bool := e.getLsbD 2
/-- X of a table entry. -/
def pteX (e : Word) : Bool := e.getLsbD 3
/-- S64 of a table entry. -/
def pteS64 (e : Word) : Bool := e.getLsbD 4
/-- PA of a table entry, as an address. -/
def ptePa (e : Word) : Nat := e.toNat / 2 ^ 12 % 2 ^ 40 * 2 ^ 12
/-- Whether an entry is a leaf: some permission set. -/
def pteLeaf (e : Word) : Bool := pteR e || pteW e || pteX e
/-- Whether a reserved field of an entry is not zero. -/
def pteRsvd (e : Word) : Bool := decide (e.toNat / 2 ^ 52 ≠ 0) || decide (e.toNat / 2 ^ 5 % 2 ^ 7 ≠ 0)
/-- The index of a virtual address at a level (R235). -/
def vaIndex (level va : Nat) : Nat := va / 2 ^ (12 + 9 * level) % 512

/-- A table entry as die `d`'s walker reads it, from its walk cache or memory; none when the codeword is poisoned. -/
def State.pte (s : State) (d : DieId) (a : Nat) : Option Word :=
  match (s.die d).walkCache.find? fun e => e.1 == a with
  | some e => some e.2
  | none => if s.poisoned a 8 then none else some (BitVec.ofNat 64 (s.rdNum a 8))

/-- Whether a pointer's target can hold a table: present LPDDR5X or bonded SRAM. -/
def State.tableOk (s : State) (pa : Nat) : Bool :=
  match s.place pa with
  | .lpddr | .bonded _ => true
  | _ => false

/-- Where the 16 level-0 entries of the 64 KiB range of a virtual address start, in the table at `t`. -/
def groupAt (t va : Nat) : Nat := t + vaIndex 0 va / 16 * 16 * 8

/-- The 16 level-0 entries of the 64 KiB range of a virtual address, from the table at `t`. -/
def State.group64 (s : State) (d : DieId) (t va : Nat) : List (Option Word) := (List.range 16).map fun i => s.pte d (groupAt t va + i * 8)

/-- Whether 16 entries form a 64 KiB page (R235). -/
def s64Consistent (es : List Word) : Bool :=
  match es with
  | e0 :: _ =>
    decide (ptePa e0 % 2 ^ 16 = 0) &&
    (es.zip (List.range 16)).all fun (e, i) =>
      pteV e && pteS64 e && pteR e == pteR e0 && pteW e == pteW e0 && pteX e == pteX e0 && ptePa e == ptePa e0 + i * 4096 && !pteRsvd e
  | [] => false

/-- The page of a level-0 leaf `e` of a virtual address, the entries of its 64 KiB range being `g` (R235): a poisoned one among them
fails the walk (R232). -/
def leafPage (t va : Nat) (e : Word) (g : List (Option Word)) : Xl :=
  match g.findIdx? Option.isNone with
  | some i => .fault cPoison false (groupAt t va + i * 8)
  | none =>
    let es := g.filterMap id
    if es.any pteS64 then
      if s64Consistent es then .page ⟨va / 2 ^ 16 * 2 ^ 16, 2 ^ 16, ptePa (es.headD e), pteR e, pteW e, pteX e⟩ else .fault cPermission false 0
    else .page ⟨va / 2 ^ 12 * 2 ^ 12, 2 ^ 12, ptePa e, pteR e, pteW e, pteX e⟩

/-- The walk of R235 from level `l` down, table at `t`; the addresses and entries read come back for the walk cache. -/
def State.walk (s : State) (d : DieId) (va : Nat) : Nat → Nat → List (Nat × Word) → Xl × List (Nat × Word)
  | l, t, seen =>
    let a := t + vaIndex l va * 8
    match s.pte d a with
    | none => (.fault cPoison false a, seen)
    | some e =>
      let seen := seen ++ [(a, e)]
      if !pteV e then (.fault cNotPresent false 0, seen)
      else if pteRsvd e then (.fault cPermission false 0, seen)
      else match l with
      | 0 => if !pteLeaf e then (.fault cPermission false 0, seen) else (leafPage t va e (s.group64 d t va), seen)
      | l' + 1 =>
        if pteLeaf e then
          if l' = 0 && !pteS64 e && ptePa e % 2 ^ 21 == 0 then
            (.page ⟨va / 2 ^ 21 * 2 ^ 21, 2 ^ 21, ptePa e, pteR e, pteW e, pteX e⟩, seen)
          else (.fault cPermission false 0, seen)
        else if pteS64 e || !s.tableOk (ptePa e) then (.fault cPermission false 0, seen)
        else State.walk s d va l' (ptePa e) seen
  termination_by structural l _ _ => l

/-- Translation by die `d` without a core's buffer (R234): the page, or why there is none, and what the walk read. -/
def State.xlateDie (s : State) (d : DieId) (va : Nat) : Xl × List (Nat × Word) :=
  if 2 ^ 48 ≤ va then (.fault cPermission false 0, [])
  else if va < 2 ^ 47 then
    let root := s.rd (MEM_PT_ROOT d.toNat)
    if MEM_PT_ROOT.EN.get root = 0 then (.fault cNotPresent false 0, [])
    else s.walk d va 3 (MEM_PT_ROOT.ADDR.get root * 4096) []
  else if s.bit (MEM_ATS_CTL d.toNat) MEM_ATS_CTL.ATS_EN then
    match (s.die d).atc.find? fun e => e.va == va / 4096 * 4096 with
    | some e => (.page ⟨e.va, 4096, e.pa, e.r, e.w, e.x⟩, [])
    | none => (.ats, [])
  else (.fault cPermission true 0, [])

/-- Entries added to a cache of `n` entries; when it is full, free values pick the ones replaced. -/
def cacheAdd {α : Type} [DecidableEq α] (n : Nat) (c : List α) (x : α) : List α :=
  if c.contains x then c
  else if c.length < n then c ++ [x]
  else c.eraseIdx (Config.victim n c.length % n) ++ [x]

/-- Whether a page permits an access. -/
def permits (e : TlbEnt) : Need → Bool
  | .read => e.r
  | .write => e.w
  | .fetch => e.x

/-- The physical address of `va` in a page, or why the access may not have it (R236): a host-shared page without the permission is
asked for by a page request. -/
def inPage (e : TlbEnt) (va : Nat) (need : Need) : Except Xl Nat :=
  if permits e need then .ok (e.pa + (va - e.va)) else .error (if va < 2 ^ 47 then .fault cPermission false 0 else .pri)

/-- The walk cache of die `d` takes what a walk has read. -/
def State.walked (s : State) (d : DieId) (seen : List (Nat × Word)) : State :=
  if seen.isEmpty then s else s.modDie d fun D => { D with walkCache := seen.foldl (fun c e => cacheAdd 512 c e) D.walkCache }

/-- Translation for die `d`'s engines: the physical address of `va`, or the fault. -/
def State.xlate (s : State) (d : DieId) (va : Nat) (need : Need) : State × Except Xl Nat :=
  let (x, seen) := s.xlateDie d va
  match x with
  | .page e => (s.walked d seen, inPage e va need)
  | x => (s.walked d seen, .error x)

/-- Translation for a core: through its 64-entry translation buffer first (R234, R239). A host-shared page without the permission
is not kept: the page request brings another (R236). -/
def State.xlateCore (s : State) (c : CoreId) (va : Nat) (need : Need) : State × Except Xl Nat :=
  match (s.core c).tlb.find? fun e => decide (e.va ≤ va) && decide (va < e.va + e.size) with
  | some e => (s, inPage e va need)
  | none =>
    let (x, seen) := s.xlateDie (dieOf c) va
    let s := s.walked (dieOf c) seen
    match x with
    | .page e =>
      let keep := decide (va < 2 ^ 47) || permits e need
      (if keep then s.modCore c fun C => { C with tlb := cacheAdd 64 C.tlb e } else s, inPage e va need)
    | x => (s, .error x)

/-- A table entry whose poison failed a walk is reported: a page-table walk is consumer 4 (R232, R496). -/
def State.walkPoison (s : State) (cause : Cause) (entry who : Nat) : State := if cause = cPoison then s.poisonUse entry 4 who else s

/-- How a core reaches an address it may load from (R207): from its own SRAM or cache, through the cache, or uncached. -/
inductive Reach
  | direct | cached | uncached
  deriving DecidableEq, Repr

/-- A core's load of a physical address, by place and marking (R194, R207); none is a PERMISSION fault. -/
def State.loadReach (s : State) (c : CoreId) (pa : Nat) : Option Reach :=
  match s.place pa with
  | .window k _ => if k = c.toNat then some .direct else some .uncached
  | .regs | .nowhere => none
  | _ => match s.mark (dieOf c) pa with
    | .streamRo => some .cached
    | .spill => some .uncached
    | .nomark => none

/-- Whether a core may store to a physical address: the scratch of its own SRAM alone (R122, R207). -/
def State.storeOk (s : State) (c : CoreId) (pa : Nat) : Bool :=
  match s.place pa with
  | .window k _ => k == c.toNat
  | _ => false

/-- Whether a core may fetch from a physical address: STREAM-RO alone, never a core SRAM window (R184, R207). -/
def State.fetchOk (s : State) (c : CoreId) (pa : Nat) : Bool :=
  match s.place pa with
  | .lpddr | .bonded _ | .host => s.mark (dieOf c) pa == .streamRo
  | _ => false

end Sys2Proof.Machine
end

