-- ==== Sys2Proof/Machine/Operands.lean ====
section
/-!
DEFINITION. Sys2Proof/Machine/Operands.lean: the fields of a core instruction's word (R162 to R181), effective shapes
(R108 to R114), and the tile registers, masks and scale registers they name.
-/
namespace Sys2Proof.Machine

/-- Bits `hi:lo` of an instruction word. -/
def ibits (w : Word) (hi lo : Nat) : Nat := w.toNat / 2 ^ lo % 2 ^ (hi - lo + 1)
/-- One bit of an instruction word. -/
def ibit (w : Word) (i : Nat) : Bool := w.getLsbD i
/-- A 5-bit register field. -/
def ireg (w : Word) (lo : Nat) : BitVec 5 := w.extractLsb' lo 5
/-- CLASS. -/
def iclass (w : Word) : Nat := ibits w 63 60
/-- The opcode: bits 59:54 of the scalar ALU class, bits 59:56 of every other (R162). -/
def iop (w : Word) : Nat := if iclass w = 0 then ibits w 59 54 else ibits w 59 56
/-- The function field of UNARY and TRN, 0 elsewhere (R173). -/
def ifn (w : Word) : Nat := if iclass w = 5 ∧ (iop w = 0xA ∨ iop w = 0xB) then ibits w 40 38 else 0
/-- Class, opcode and function in one number: class × 0x1000 + opcode × 0x10 + function. -/
def ikey (w : Word) : Nat := iclass w * 0x1000 + iop w * 0x10 + ifn w

/-- The scalar ALU opcodes of R165. -/
def aluOps : List Nat := [0, 1, 2, 3, 4, 5, 6, 7, 8, 9, 0xA, 0xB, 0xC, 0xD, 0x10, 0x11, 0x12, 0x13, 0x18]
/-- The opcodes listed for a class (R165 to R181). -/
def classOps : Nat → List Nat
  | 0x0 => aluOps
  | 0x1 => [0, 1, 2, 3, 4, 5, 8, 9]
  | 0x2 => [0, 1, 2, 3, 4, 5, 6, 8, 9, 0xA, 0xB]
  | 0x3 => [0, 1, 2]
  | 0x4 => [0, 1]
  | 0x5 => [0, 1, 2, 3, 4, 5, 6, 7, 8, 9, 0xA, 0xB]
  | 0x6 => [0, 1, 2, 8, 9, 0xA, 0xB, 0xC, 0xD, 0xE, 0xF]
  | 0x7 => [0, 1, 2]
  | 0x8 => [0, 1]
  | 0x9 => [0, 1, 2, 3, 4, 5, 8, 9]
  | 0xA => [0, 1, 2, 3, 4]
  | 0xF => [0, 1, 8, 9, 0xA]
  | _ => []

/-- A word whose class, opcode and function this chapter lists. -/
def listed (w : Word) : Bool :=
  (classOps (iclass w)).contains (iop w) &&
  (if iclass w = 5 ∧ iop w = 0xA then decide (ifn w < 3) else if iclass w = 5 ∧ iop w = 0xB then decide (ifn w < 5) else true)

/-- The shape field of R108: format code, columns, rows. -/
def shFmt (w : Word) : BitVec 4 := w.extractLsb' 16 4
/-- Columns of the shape field. -/
def shCols (w : Word) : Nat := ibits w 15 8 + 1
/-- Rows of the shape field. -/
def shRows (w : Word) : Nat := ibits w 7 0 + 1

/-- The effective shape of R113. -/
def effShape (rows cols : Nat) (f : Fmt) (lr lc : Nat) : Nat × Nat :=
  let cols := if f.isNibble && cols % 2 == 1 then cols - 1 else cols
  if cols = 0 then (0, 0)
  else
    let rows := min (min rows (4096 / f.rowBytes cols)) lr
    (rows, min cols lc)

/-- The columns of a shape field with an odd count of FP4 or INT4 elements reduced; they give the row length (R111). -/
def evenCols (f : Fmt) (cols : Nat) : Nat := if f.isNibble && cols % 2 == 1 then cols - 1 else cols

/-- A format field that must be a defined code (R110). -/
def fmtOk (c : BitVec 4) : Bool := (Fmt.ofCode c).isSome
/-- The destination formats of a matrix operation (R52, R164). -/
def mtxDstOk (c : BitVec 4) : Bool := [0x0, 0x1, 0x2, 0x3, 0x4, 0xA].contains c.toNat
/-- Formats the vector engine takes as sources (R137, R139). -/
def vecSrcOk (c : BitVec 4) : Bool := fmtOk c && !([0x7, 0x9].contains c.toNat)
/-- Formats the vector engine writes (R139). -/
def vecDstOk (c : BitVec 4) : Bool := [0x0, 0x1, 0x2, 0xA].contains c.toNat

/-- Classes of R138. -/
inductive VClass
  | f32 | f16 | i32
  deriving DecidableEq, Repr

/-- The class of a set of tile formats (R138): both kinds give 32-bit float; float only, the wider; integer only, 32-bit
integer. -/
def vclassOf (fs : List Fmt) : VClass :=
  if fs.all Fmt.isInt then .i32
  else if fs.any Fmt.isInt then .f32
  else if fs.any (· == Fmt.fp32) then .f32 else .f16

/-- The operands a class 0x5 opcode uses, as the low bits of their mode fields: A 43, B 36, C 29 (R173). -/
def vecModes (w : Word) : List Nat :=
  match iop w with
  | 0x3 | 0x4 | 0x5 => [ibits w 44 43, ibits w 37 36, ibits w 30 29]
  | 0x9 => [ibits w 37 36, ibits w 30 29]
  | 0xA | 0xB => [ibits w 44 43]
  | _ => [ibits w 44 43, ibits w 37 36]

/-- The class of a class 0x5 instruction (R138, R173, R174). -/
def vecClass (w : Word) : VClass :=
  let dst := (Fmt.ofCode (shFmt w)).getD .fp32
  let src := (Fmt.ofCode (w.extractLsb' 25 4)).getD .fp32
  let tiles := (vecModes w).any (· != 3)
  if iop w = 8 then
    if tiles then vclassOf [src] else if dst.isInt then .i32 else .f32
  else if tiles then vclassOf [src, dst] else vclassOf [dst]

/-- Whether a listed word is illegal for its fields (R164); `inH` says whether an interrupt handler runs. -/
def illegalFields (w : Word) (inH : Bool) : Bool :=
  match iclass w with
  | 0x3 => inH || !fmtOk (shFmt w)
  | 0x4 => inH || ibits w 55 54 == 3 || !mtxDstOk (w.extractLsb' 40 4) || !fmtOk (shFmt w) || shFmt w == 0xA
  | 0x7 => inH || ibits w 55 54 == 3 || (iop w == 0 && (!fmtOk (shFmt w) || shFmt w == 0xA))
  | 0x5 =>
    let tiles := (vecModes w).any (· != 3)
    inH || (tiles && !vecSrcOk (w.extractLsb' 25 4)) ||
    (if iop w = 8 then !fmtOk (shFmt w) || ibit w 54 || ibit w 53 else !vecDstOk (shFmt w)) ||
    (iop w == 0xB && vecClass w == .i32)
  | 0x6 =>
    inH || (decide (iop w < 8) && (decide (4 < ibits w 55 53) || !vecSrcOk (shFmt w) ||
      (decide (iop w < 2) && !vecDstOk (w.extractLsb' 34 4))))
  | 0xA => inH || (decide (iop w < 2) && (!fmtOk (shFmt w) || !fmtOk (w.extractLsb' 42 4)))
  | 0xF => iop w == 8 && !inH
  | _ => false

/-- Whether a word raises the illegal-instruction exception (R164). -/
def illegal (w : Word) (inH : Bool) : Bool := !listed w || illegalFields w inH

/-! ### Scoreboard resources of an instruction (R117, R154, R182) -/

/-- The unit whose queue an instruction goes to (R162). -/
inductive UnitQ
  | none | arr (a : Nat) | vec | lsu | dma | sync
  deriving DecidableEq, Repr

/-- The unit of a word. -/
def unitOf (w : Word) : UnitQ :=
  match iclass w with
  | 0x2 | 0x3 => .lsu
  | 0x4 | 0x7 => .arr (ibits w 55 54)
  | 0x5 | 0x6 | 0xA => .vec
  | 0x8 => .dma
  | 0x9 => .sync
  | _ => .none

/-- Entries of a unit's queue (R162). -/
def unitCap : UnitQ → Nat
  | .arr _ | .vec => 4
  | _ => 8

/-- Tile registers an instruction reads. -/
def tileReads (w : Word) : List (BitVec 5) :=
  match iclass w, iop w with
  | 0x3, 2 => [ireg w 51]
  | 0x4, 0 => [ireg w 44]
  | 0x4, 1 => [ireg w 44, ireg w 49]
  | 0x7, 0 => [ireg w 49]
  | 0x5, op =>
    let a := if ibits w 44 43 != 3 then [ireg w 45] else []
    let b := if ibits w 37 36 != 3 then [ireg w 38] else []
    let c := if ibits w 30 29 != 3 then [ireg w 31] else []
    if op = 0xA ∨ op = 0xB then a else if op = 9 then b ++ c
    else if op = 3 ∨ op = 4 ∨ op = 5 then a ++ b ++ c else a ++ b
  | 0x6, op => if op < 3 then [ireg w 43] else []
  | 0xA, op => if op < 3 then [ireg w 46] else []
  | _, _ => []

/-- Tile registers an instruction writes. -/
def tileWrites (w : Word) : List (BitVec 5) :=
  match iclass w, iop w with
  | 0x3, 0 | 0x3, 1 => [ireg w 51]
  | 0x4, _ => [ireg w 49]
  | 0x5, 8 => []
  | 0x5, _ => [ireg w 50]
  | 0x6, 0 | 0x6, 1 => [ireg w 48]
  | 0xA, 0 | 0xA, 1 | 0xA, 3 => [ireg w 51]
  | _, _ => []

/-- Mask registers an instruction reads. -/
def maskReads (w : Word) : List (BitVec 3) :=
  match iclass w, iop w with
  | 0x5, 9 => [w.extractLsb' 21 3]
  | 0x5, _ => if ibit w 24 then [w.extractLsb' 21 3] else []
  | 0x6, op =>
    if op < 3 then (if ibit w 33 then [w.extractLsb' 30 3] else [])
    else if op < 0xC then [w.extractLsb' 43 3, w.extractLsb' 38 3]
    else if op = 0xD then [] else [w.extractLsb' 43 3]
  | _, _ => []

/-- Mask registers an instruction writes. -/
def maskWrites (w : Word) : List (BitVec 3) :=
  match iclass w, iop w with
  | 0x5, 8 => [w.extractLsb' 50 3]
  | 0x6, op => if 8 ≤ op ∧ op < 0xE then [w.extractLsb' 48 3] else []
  | _, _ => []

/-- Scale registers an instruction reads. -/
def scaleReads (w : Word) : List (BitVec 3) :=
  match iclass w, iop w with
  | 0x4, _ => if ibit w 38 then [w.extractLsb' 35 3] else []
  | 0x7, 0 => if ibit w 48 then [w.extractLsb' 45 3] else []
  | 0xA, 3 => [w.extractLsb' 37 3]
  | _, _ => []

/-- Scale registers an instruction writes. -/
def scaleWrites (w : Word) : List (BitVec 3) :=
  match iclass w, iop w with
  | 0xA, 1 | 0xA, 2 | 0xA, 4 => [w.extractLsb' 37 3]
  | _, _ => []

/-- The g register an instruction writes after its issue step (R182). -/
def gLate (w : Word) : Option (BitVec 5) :=
  match iclass w, iop w with
  | 0x2, op => if op < 8 then some (ireg w 51) else none
  | 0x6, 2 | 0x6, 0xE | 0x6, 0xF => some (ireg w 48)
  | 0x8, _ => some (ireg w 51)
  | 0x9, 0 | 0x9, 1 | 0x9, 5 | 0x9, 9 => some (ireg w 51)
  | _, _ => none

/-- The g registers an instruction reads at issue (R182). -/
def gReads (w : Word) : List (BitVec 5) :=
  match iclass w, iop w with
  | 0x0, _ => if ibit w 38 then [ireg w 44] else [ireg w 44, ireg w 39]
  | 0x1, 8 => []
  | 0x1, 9 => [ireg w 51]
  | 0x1, _ => [ireg w 51, ireg w 46]
  | 0x2, op => if op < 8 then [ireg w 46] else [ireg w 51, ireg w 46]
  | 0x3, _ => [ireg w 46, ireg w 41]
  | 0x5, op =>
    let a := if ibits w 44 43 == 3 then [ireg w 45] else []
    let b := if ibits w 37 36 == 3 then [ireg w 38] else []
    let c := if ibits w 30 29 == 3 then [ireg w 31] else []
    if op = 0xA ∨ op = 0xB then a else if op = 9 then b ++ c
    else if op = 3 ∨ op = 4 ∨ op = 5 then a ++ b ++ c else a ++ b
  | 0x6, 0xD => [ireg w 38]
  | 0x8, _ => [ireg w 46]
  | 0x9, 0 | 0x9, 2 => [ireg w 46, ireg w 41]
  | 0x9, 1 => [ireg w 46]
  | 0xA, 0 | 0xA, 1 => if ibit w 40 then [ireg w 32] else []
  | 0xA, 4 => [ireg w 32]
  | 0xF, 1 => [ireg w 46]
  | _, _ => []

/-- The g register an instruction writes, at issue or later. -/
def gWrites (w : Word) : List (BitVec 5) :=
  match iclass w, iop w with
  | 0x0, _ => [ireg w 49]
  | 0x1, 8 | 0x1, 9 => [ireg w 41]
  | 0x9, 4 => [ireg w 51]
  | 0xF, 0 => [ireg w 51]
  | _, _ => (gLate w).toList

/-- A tile load or store, or a scalar load or store. -/
def isLsu (w : Word) : Bool := iclass w == 2 || iclass w == 3
/-- A store of either kind. -/
def isStore (w : Word) : Bool := (iclass w == 2 && decide (8 ≤ iop w)) || (iclass w == 3 && iop w == 2)
/-- A tile load of either kind. -/
def isTileLoad (w : Word) : Bool := iclass w == 3 && decide (iop w < 2)
/-- A matrix operation. -/
def isMtx (w : Word) : Bool := iclass w == 4

/-- Bytes of a scalar access (R167). -/
def accSize (w : Word) : Nat := 2 ^ ([0, 1, 2, 3, 0, 1, 2, 0, 0, 1, 2, 3].getD (iop w) 0)

end Sys2Proof.Machine
end

