-- ==== Sys2Proof/Machine/Flags.lean ====
section
/-!
DEFINITION. Sys2Proof/Machine/Flags.lean: the flag computations: the exception flags of the vector engine's arithmetic
(R144 to R149, R155), and the sticky bits of COR_STATUS, COR_VFLAGS and COR_MTX_STATUS.
-/
namespace Sys2Proof.Machine

/-! ### Sticky registers -/

/-- SHAPE_CLAMP set and the clamp counted (R114). -/
def State.shapeClamp (s : State) (c : CoreId) : State :=
  (s.setFld (COR_STATUS c.toNat) COR_STATUS.SHAPE_CLAMP 1).bump (COR_TILE_CLAMPS c.toNat)
/-- ALIGN_CLAMP set (R121, R167). -/
def State.alignClamp (s : State) (c : CoreId) : State := s.setFld (COR_STATUS c.toNat) COR_STATUS.ALIGN_CLAMP 1
/-- VAL_CLAMP set (R153). -/
def State.valClamp (s : State) (c : CoreId) : State := s.setFld (COR_STATUS c.toNat) COR_STATUS.VAL_CLAMP 1
/-- Exception flags ORed into COR_VFLAGS (R155, R156). -/
def State.orVflags (s : State) (c : CoreId) (f : VFlags) : State :=
  s.wr (COR_VFLAGS c.toNat) (s.rd (COR_VFLAGS c.toNat) ||| f.zeroExtend 64)
/-- Matrix flags ORed into COR_MTX_STATUS (R52, R78). -/
def State.orMtx (s : State) (c : CoreId) (f : MFlags) : State :=
  s.wr (COR_MTX_STATUS c.toNat) (s.rd (COR_MTX_STATUS c.toNat) ||| f.zeroExtend 64)

/-! ### Vector arithmetic -/

/-- A vector-engine value: exact in the float classes, an integer in the integer class. -/
inductive VVal
  | f (x : XR)
  | i (v : Int)
  deriving DecidableEq, Repr

/-- A result written to a destination format (R145, R147): code and flags. -/
def VVal.write (df : Fmt) : VVal → Nat × VFlags
  | .i v =>
    if df.isInt then let (x, o) := sat32 v; (unint 32 x, .when o .of)
    else df.ieee (XR.ofInt v)
  | .f x =>
    if df.isInt then
      let (v, s, ix, n) := XR.toIntSat 32 x
      (unint 32 v, .when (s || n) .nv ||| .when (ix && !s) .nx)
    else df.ieee x

/-- An integer result saturated on the way (R147). -/
def satI (v : Int) : VVal × VFlags := let (x, o) := sat32 v; (.i x, .when o .of)

/-- MIN or MAX of two numbers, −0 below +0 (R146). -/
def xrMinMax (mx : Bool) (a b : XR) : XR :=
  match a.cmp b with
  | some .lt => if mx then b else a
  | some .gt => if mx then a else b
  | _ => if a.sign = mx then b else a

/-- MIN and MAX under MMNUM (R146). -/
def fMinMax (mx num : Bool) (a b : XR) : XR × VFlags :=
  let nv := VFlags.when (a.isSig || b.isSig) .nv
  if a.isNan && b.isNan then (.nan false, nv)
  else if a.isNan then (if num then b else .nan false, nv)
  else if b.isNan then (if num then a else .nan false, nv)
  else (xrMinMax mx a b, 0)

/-- The predicates of R152 on an order (none: unordered). -/
def cmpPred (p : Nat) (o : Option Ordering) : Bool :=
  match p with
  | 0 => o == some .eq
  | 1 => o != some .eq
  | 2 => o == some .lt
  | 3 => o == some .lt || o == some .eq
  | 4 => o == some .gt
  | 5 => o == some .gt || o == some .eq
  | 6 => o.isSome
  | _ => o.isNone

/-- CMP on one element: bit and flags (R152). -/
def vecCmp (p : Nat) (a b : VVal) : Bool × VFlags :=
  match a, b with
  | .i a, .i b => (cmpPred p (some (compare a b)), 0)
  | .f a, .f b =>
    let nan := a.isNan || b.isNan
    let nv := if 2 ≤ p ∧ p ≤ 5 then nan else a.isSig || b.isSig
    (cmpPred p (a.cmp b), .when nv .nv)
  | _, _ => (false, 0)

/-- RCP, RSQ, SQRT, EXP2 and LOG2 (R145, R146): the value as sign, magnitude and exponent with a sticky last bit, or a
special result with its flags. -/
def trnExact (fn : Nat) (x : XR) : XR × VFlags :=
  match fn, x with
  | _, .nan s => (.nan s, 0)
  | 0, .inf n => (.num n 0 0, 0)
  | 0, .num n m e => if m = 0 then (.inf n, .dz) else let (q, k) := stickyDiv 1 m; (.num n q (k - e), 0)
  | 1, .inf n => if n then (.nan true, 0) else (.num false 0 0, 0)
  | 1, .num n m e =>
    if m = 0 then (.inf n, .dz) else if n then (.nan true, 0)
    else
      let (q, k) := stickyDiv 1 m
      let (r, j) := stickySqrt q (k - e)
      -- the quotient's sticky bit stays sticky in the root
      (.num false (r ||| (if m.log2 = 0 ∨ 2 ^ m.log2 = m then 0 else 1)) j, 0)
  | 2, .inf n => if n then (.nan true, 0) else (.inf false, 0)
  | 2, .num n m e =>
    if m = 0 then (.num n 0 0, 0) else if n then (.nan true, 0)
    else let (r, j) := stickySqrt m e; (.num false r j, 0)
  | 3, .inf n => if n then (.num false 0 0, 0) else (.inf false, 0)
  | 3, .num n m e =>
    if m = 0 then (.num false 1 0, 0)
    else if 20 < e + (bitLen m : Int) then (.num false 1 (if n then -100000 else 100000), 0)
    else let (r, j) := stickyExp2 n m e; (.num false r j, 0)
  | _, .inf n => if n then (.nan true, 0) else (.inf false, 0)
  | _, .num n m e =>
    if m = 0 then (.inf true, .dz) else if n then (.nan true, 0)
    else let (g, r, j) := stickyLog2 m e; (.num g r j, 0)

/-- A transcendental result in its destination: correctly rounded, but for RCP, RSQ, EXP2 and LOG2 to FP32, where any
value within one unit in the last place may come, the same for the same input (R145). -/
def trnWrite (fn : Nat) (input : Nat) (df : Fmt) (x : XR) : Nat × VFlags :=
  let (code, fl) := (VVal.f x).write df
  match x with
  | .num n m e =>
    if df = .fp32 ∧ fn ≠ 2 ∧ m ≠ 0 ∧ code % 2 ^ 31 < 0x7F800000 then
      (Fmt.fp32.lay.signed n (min (ulpPick fn input m e) 0x7F800000), fl)
    else (code, fl)
  | _ => (code, fl)

/-- An elementwise result before its destination (R144): opcode of class 0x5. -/
def vecOp (op : Nat) (mmnum : Bool) (a b c : VVal) : VVal × VFlags :=
  match a, b, c with
  | .i a, .i b, .i c =>
    match op with
    | 0 => satI (a + b)
    | 1 => satI (a - b)
    | 2 => satI (a * b)
    | 3 => satI (a * b + c)
    | 4 => satI (a * b - c)
    | 5 => satI (-(a * b) + c)
    | 6 => (.i (min a b), 0)
    | 7 => (.i (max a b), 0)
    | _ => (.i a, 0)
  | .f a, .f b, .f c =>
    match op with
    | 0 => (.f (a.add b), 0)
    | 1 => (.f (a.add b.neg), 0)
    | 2 => (.f (a.mul b), 0)
    | 3 => (.f ((a.mul b).add c), 0)
    | 4 => (.f ((a.mul b).add c.neg), 0)
    | 5 => (.f ((a.mul b).neg.add c), 0)
    | 6 => let (x, f) := fMinMax false mmnum a b; (.f x, f)
    | 7 => let (x, f) := fMinMax true mmnum a b; (.f x, f)
    | _ => (.f a, 0)
  | a, _, _ => (a, 0)

/-- UNARY on one element (R144): 0 MOV, 1 ABS, 2 NEG. In the source's own format only the sign bit changes. -/
def vecUnary (fn : Nat) (sf df : Fmt) (code : Nat) (x : VVal) : Nat × VFlags :=
  match x with
  | .i v => (satI (if fn = 1 then (v.natAbs : Int) else if fn = 2 then -v else v)).1.write df |> fun (r, f) =>
      (r, f ||| (satI (if fn = 1 then (v.natAbs : Int) else if fn = 2 then -v else v)).2)
  | .f x =>
    if sf = df then
      let sgn := 2 ^ (df.bits - 1)
      (if fn = 0 then code else if fn = 1 then code % sgn else (code + sgn) % (2 * sgn), 0)
    else (VVal.f (if fn = 1 then x.abs else if fn = 2 then x.neg else x)).write df

/-! ### Reductions (R148, R149) -/

/-- Reduction functions by FN: 0 SUM, 1 SUMSQ, 2 MAX, 3 MIN, 4 AMAX. One step of the float tree on FP32 codes. -/
def redStep (fn : Nat) (mmnum : Bool) (a b : Nat) : Nat × VFlags :=
  let x := Fmt.fp32.value a
  let y := Fmt.fp32.value b
  if fn < 2 then Fmt.fp32.ieee (x.add y)
  else let (r, f) := fMinMax (fn != 3) mmnum x y; let (v, g) := Fmt.fp32.ieee r; (v, f ||| g)

/-- The float identity of R149 as it enters the tree, as an FP32 code: SUMSQ squares its −0 to +0. -/
def redId (fn : Nat) : Nat := if fn = 1 then 0 else if fn = 0 then 0x80000000 else if fn = 2 then 0xFF800000 else if fn = 3 then 0x7F800000 else 0

/-- A float leaf: SUMSQ squares it, AMAX clears its sign. -/
def redLeaf (fn : Nat) (code : Nat) : Nat × VFlags :=
  if fn = 1 then let x := Fmt.fp32.value code; Fmt.fp32.ieee (x.mul x)
  else if fn = 4 then (code % 2 ^ 31, 0) else (code, 0)

/-- One step of the integer tree. -/
def redStepInt (fn : Nat) (a b : Int) : Int × VFlags :=
  if fn < 2 then let (v, o) := sat32 (a + b); (v, .when o .of)
  else if fn = 3 then (min a b, 0) else (max a b, 0)

/-- The integer identity. -/
def redIdInt (fn : Nat) : Int := if fn = 2 then -(2 ^ 31) else if fn = 3 then 2 ^ 31 - 1 else 0

/-- An integer leaf. -/
def redLeafInt (fn : Nat) (v : Int) : Int × VFlags :=
  if fn = 1 then let (x, o) := sat32 (v * v); (x, .when o .of)
  else if fn = 4 then let (x, o) := sat32 v.natAbs; (x, .when o .of) else (v, 0)

/-- One level of a pairwise tree: neighbours combined, flags gathered. -/
def pairUp {α : Type} (step : α → α → α × VFlags) : List α → List α × VFlags
  | a :: b :: t =>
    let (v, f) := step a b
    let (vs, g) := pairUp step t
    (v :: vs, f ||| g)
  | l => (l, 0)

/-- The whole tree over a list whose length is a power of two: `n` levels. -/
def treeRed {α : Type} (step : α → α → α × VFlags) : Nat → List α → List α × VFlags
  | 0, l => (l, 0)
  | n + 1, l =>
    let (l', f) := pairUp step l
    let (r, g) := treeRed step n l'
    (r, f ||| g)

/-- The levels of a tree over `n` leaves: log₂ of the smallest power of two at or above `n` (R149). -/
def treeLevels (n : Nat) : Nat := if n ≤ 1 then 0 else (n - 1).log2 + 1

/-- A reduction by the fixed tree; a leaf is its value, or none when inactive (R149, R151). -/
def reduceList {α : Type} (step : α → α → α × VFlags) (leaf : α → α × VFlags) (ident : α) (vs : List (Option α)) : α × VFlags :=
  let n := treeLevels vs.length
  let ls := vs.map fun v => match v with
    | some v => leaf v
    | none => (ident, 0)
  let padded := ls.map (·.1) ++ List.replicate (2 ^ n - vs.length) ident
  let (r, f) := treeRed step n padded
  (r.headD ident, (ls.map (·.2)).foldl (· ||| ·) f)

end Sys2Proof.Machine
end

