-- ==== Sys2Proof/Machine/CoreOps.lean ====
section
/-!
DEFINITION. Sys2Proof/Machine/CoreOps.lean: what every core instruction shares: scalar registers, issue (R164, R182), the
scoreboard (R117, R118, R183), completion, program stop and exceptions (R130, R189).
-/
namespace Sys2Proof.Machine

/-- Array `a` of a core: 0 F, 1 G, 2 W; a number past 2 names W (the encoding stops it before, R164). -/
def arrIx (a : Nat) : Fin 3 := ⟨min a 2, by omega⟩
/-- An array of a core. -/
def CoreSt.array (C : CoreSt) (a : Nat) : ArrSt := C.arr.get (arrIx a)
/-- An array of a core set. -/
def CoreSt.setArray (C : CoreSt) (a : Nat) (x : ArrSt) : CoreSt :=
  { C with arr := C.arr.set (arrIx a).val x (arrIx a).isLt }
/-- A scalar register; g0 reads as zero (R165). -/
def CoreSt.rg (C : CoreSt) (r : BitVec 5) : Word := if r = 0 then 0 else C.g.get r.toFin
/-- A scalar register written; writes to g0 are discarded (R165). -/
def CoreSt.setRg (C : CoreSt) (r : BitVec 5) (v : Word) : CoreSt :=
  if r = 0 then C else { C with g := C.g.set r.toNat v r.isLt }
/-- A mask register. -/
def CoreSt.mask (C : CoreSt) (m : BitVec 3) : BitVec 4096 := C.masks.get m.toFin
/-- A mask register written, and its copy in COR_MASK_m_w (R160). -/
def CoreSt.setMask (C : CoreSt) (m : BitVec 3) (v : BitVec 4096) : CoreSt :=
  { C with masks := C.masks.set m.toNat v m.isLt }
/-- A scale register. -/
def CoreSt.scaleOf (C : CoreSt) (m : BitVec 3) : BitVec 1024 := C.scale.get m.toFin
/-- A scale register written. -/
def CoreSt.setScale (C : CoreSt) (m : BitVec 3) (v : BitVec 1024) : CoreSt :=
  { C with scale := C.scale.set m.toNat v m.isLt }
/-- Bytes of a tile register. -/
def CoreSt.tileBytes (C : CoreSt) (t : BitVec 5) (o n : Nat) : List Byte := C.tiles.getRun memZero (t.toNat * 4096 + o) n
/-- Bytes of a tile register written. -/
def CoreSt.setTile (C : CoreSt) (t : BitVec 5) (o : Nat) (bs : List Byte) : CoreSt :=
  { C with tiles := C.tiles.setRun memZero (t.toNat * 4096 + o) bs }
/-- The zero-row mask of a tile register. -/
def CoreSt.zm (C : CoreSt) (t : BitVec 5) : ZMask := C.zmask.get t.toFin
/-- The zero-row mask of a tile register set. -/
def CoreSt.setZm (C : CoreSt) (t : BitVec 5) (z : ZMask) : CoreSt :=
  { C with zmask := C.zmask.set t.toNat z t.isLt }

/-- The code of element (r, c) in tile bytes of row length rb (R111). -/
def elemCode (f : Fmt) (rb : Nat) (bs : Nat → Byte) (r c : Nat) : Nat :=
  match f.bits with
  | 4 => let b := (bs (r * rb + c / 2)).toNat; if c % 2 = 0 then b % 16 else b / 16
  | 8 => (bs (r * rb + c)).toNat % (if f.isFp6 then 64 else 256)
  | 16 => (bs (r * rb + 2 * c)).toNat + 256 * (bs (r * rb + 2 * c + 1)).toNat
  | _ =>
    let o := r * rb + 4 * c
    (bs o).toNat + 256 * (bs (o + 1)).toNat + 65536 * (bs (o + 2)).toNat + 16777216 * (bs (o + 3)).toNat
/-- Byte `o` of a tile register. -/
def CoreSt.tileByte (C : CoreSt) (t : BitVec 5) (o : Nat) : Byte := C.tiles.get memZero (t.toNat * 4096 + o)
/-- An element of a tile register. -/
def CoreSt.elem (C : CoreSt) (t : BitVec 5) (f : Fmt) (rb r c : Nat) : Nat := elemCode f rb (C.tileByte t) r c
/-- Element codes packed into the bytes of a row (R109, R111); an FP6 element has bits 7:6 zero, as `elemCode` reads it. -/
def packRow (f : Fmt) (es : List Nat) : List Byte :=
  match f.bits with
  | 4 => ((chunksOf 2 0 es).map fun p => BitVec.ofNat 8 (p.getD 0 0 % 16 + p.getD 1 0 % 16 * 16))
  | n => (es.map fun e => toLe (n / 8) e).flatten
/-- Whether an element code is ±0 (R71). -/
def zeroCode (f : Fmt) (e : Nat) : Bool := (f.value e).isZero
/-- The mask of rows whose elements are all zero (R71). -/
def zeroRows (f : Fmt) (rows : List (List Nat)) : BitVec 256 :=
  (rows.zip (List.range rows.length)).foldl (fun m (r, i) => if r.all (zeroCode f) then m ||| (1 <<< i) else m) 0
/-- Which of its `m` rows a reader of row length `rb` takes as zero (R116). -/
def ZMask.rowsFor (z : ZMask) (rb m : Nat) : List Bool :=
  (List.range m).map fun i => z.rb == rb && decide (i < z.rows) && z.mask.getLsbD i

/-! ### Scoreboard -/

/-- Whether a flight still holds its tile sources: a matrix operation has read them once its sums are formed, and keeps what it
has read for a restart (R42). -/
def Flight.reading (f : Flight) : Bool := !(isMtx f.w && (f.ph == .summed || f.opnd.isSome))
/-- Whether an interrupt has abandoned a flight. -/
def Flight.gone (f : Flight) : Bool := f.ph == .abandoned

/-- Instructions issued before number `q`. -/
def CoreSt.before (C : CoreSt) (q : Nat) : List Flight := C.fl.filter fun f => decide (f.seq < q)
/-- Whether instruction `q` may read tile `t`: no earlier writer is outstanding (R118, R183). -/
def CoreSt.mayRead (C : CoreSt) (q : Nat) (t : BitVec 5) : Bool := (C.before q).all fun f => !(tileWrites f.w).contains t
/-- Whether earlier readers of tile `t` have read it. -/
def CoreSt.readersDone (C : CoreSt) (q : Nat) (t : BitVec 5) : Bool :=
  (C.before q).all fun f => !((tileReads f.w).contains t && f.reading)
/-- Whether instruction `q` may write tile `t`. -/
def CoreSt.mayWrite (C : CoreSt) (q : Nat) (t : BitVec 5) : Bool := C.mayRead q t && C.readersDone q t
/-- Whether the masks an instruction names allow it (R154). -/
def CoreSt.masksOk (C : CoreSt) (q : Nat) (w : Word) : Bool :=
  (C.before q).all fun f =>
    (maskReads w ++ maskWrites w).all (fun m => !(maskWrites f.w).contains m) &&
    (maskWrites w).all (fun m => !(maskReads f.w).contains m)
/-- Whether the scale registers an instruction names allow it, in program order (R51). -/
def CoreSt.scalesOk (C : CoreSt) (q : Nat) (w : Word) : Bool :=
  (C.before q).all fun f =>
    (scaleReads w ++ scaleWrites w).all (fun m => !(scaleWrites f.w).contains m) &&
    (scaleWrites w).all (fun m => !((scaleReads f.w).contains m && f.reading))
/-- Whether a wait is an SWAIT's that will write register `r`. -/
def waitWrites (w : Option CoreWait) (r : BitVec 5) : Bool :=
  match w with
  | some (.swait _ rd _) => rd == r
  | _ => false
/-- Whether a g register is pending (R182, R188): some instruction that is not abandoned still has to write it, a waiting SWAIT
among them. -/
def CoreSt.gPending (C : CoreSt) (r : BitVec 5) : Bool :=
  r != 0 && (waitWrites C.wait r || waitWrites C.waitSaved r || C.fl.any fun f => !f.gone && gLate f.w == some r)
/-- Whether a scalar or tile store is still under way before instruction `q` (R178, R180). -/
def CoreSt.storesBefore (C : CoreSt) (q : Nat) : Bool := (C.before q).any fun f => isStore f.w
/-- Whether the core has an arrival on a line that has not completed, or one still in its sync queue (R180). -/
def CoreSt.barPending (C : CoreSt) (n : BitVec 6) : Bool :=
  !(C.arrived.get (fun _ => true) n.toNat) ||
  C.fl.any fun f => iclass f.w == 9 && iop f.w == 8 && f.w.extractLsb' 10 6 == n
/-- Whether a conversion is in flight (R177). -/
def CoreSt.converting (C : CoreSt) : Bool := C.fl.any fun f => iclass f.w == 0xA && !f.gone

/-- The state of a tile register (R117): 0 VALID, 1 HELD, 2 PENDING, 3 INVALID. -/
def CoreSt.tileState (C : CoreSt) (t : BitVec 5) : Nat :=
  if C.fl.any fun f => f.inval && (tileWrites f.w).contains t then 3
  else if C.fl.any fun f => (tileWrites f.w).contains t then 2
  else if C.fl.any fun f => (tileReads f.w).contains t && f.reading then 1 else 0
/-- COR_TILE_STATE: bits 2n + 1 to 2n give tile n (R135). -/
def CoreSt.tileStates (C : CoreSt) : Word :=
  match C.stopTiles with
  | some w => w
  | none => (List.range 32).foldl (fun w i => w ||| BitVec.ofNat 64 (C.tileState (BitVec.ofNat 5 i) * 4 ^ i)) 0

/-- Entries of a unit's queue in use: the load/store, DMA and sync units hold an instruction until it ends; one that an interrupt
abandoned has left (R125, R131, R162). -/
def CoreSt.queued (C : CoreSt) (u : UnitQ) : Nat :=
  (C.fl.filter fun f => unitOf f.w == u && !f.gone && (f.ph == .queued || (u == .lsu || u == .dma || u == .sync))).length

/-- A flight changed. -/
def CoreSt.modFl (C : CoreSt) (q : Nat) (g : Flight → Flight) : CoreSt :=
  { C with fl := C.fl.map fun f => if f.seq = q then g f else f }
/-- The flight of a number. -/
def CoreSt.flight (C : CoreSt) (q : Nat) : Option Flight := C.fl.find? fun f => f.seq == q
/-- An instruction completed: it leaves the flights and counts in COR_INSTRET (R190). -/
def State.complete (s : State) (c : CoreId) (q : Nat) : State :=
  (s.modCore c fun C => { C with fl := C.fl.filter fun f => f.seq != q }).bump (COR_INSTRET c.toNat)

/-- Whether an interrupt handler runs on core `c` (R186). -/
def State.inHandler (s : State) (c : CoreId) : Bool := s.bit (COR_IPEND c.toNat) COR_IPEND.INHANDLER

/-! ### Stationary sets -/

/-- A shadow load writes its last cell row: the shadow set becomes valid (R56). -/
def ArrSt.loadDone (A : ArrSt) : ArrSt :=
  match A.load with
  | some x => { A with shd := some x, load := none }
  | none => A
/-- A leapfrog swap: the sets exchange roles (R57, R60). -/
def ArrSt.swap (A : ArrSt) : ArrSt := { A with act := A.shd, shd := A.act, swapStall := false }
/-- A form switch ends: the array has its new form and both sets are invalid (R63, R66). -/
def ArrSt.switchDone (A : ArrSt) : ArrSt :=
  match A.switching with
  | some f => { A with form := f, act := none, shd := none, switching := none }
  | none => A

/-- The shadow loads, swaps and form switches in flight run to their end (R42, R62, R130, R131). -/
def State.finishStationary (s : State) (c : CoreId) : State :=
  let C := s.core c
  let done (f : Flight) : Bool := iclass f.w == 7 && f.ph == .run
  let s := (C.fl.filter done).foldl (fun s _ => s.bump (COR_INSTRET c.toNat)) s
  let switched := ((List.range 3).filter fun a => (C.array a).switching.isSome).length
  let s := if switched = 0 then s else s.bump (COR_MTX_FORMSW c.toNat) switched
  s.modCore c fun C =>
    let C := (List.range 3).foldl (fun C a =>
      let A := (C.array a).loadDone
      C.setArray a (if A.swapStall then A.swap else A).switchDone) C
    { C with fl := C.fl.filter fun f => !done f }

/-! ### Program stop and exceptions -/

/-- A region is no longer lendable: one of its cores stops waiting (R312); a lender latches RECALL (R413). -/
def State.unlend (s : State) (c : CoreId) : State :=
  let a := SYN_WAIT_STATUS (dieOf c).toNat
  let l := s.fld a SYN_WAIT_STATUS.LENDABLE
  let r := (regionOf c).toNat % 4
  let p := PWR_RGN_STATE (regionOf c).toNat
  if l / 2 ^ r % 2 = 1 then
    let s := s.setFld a SYN_WAIT_STATUS.LENDABLE (l - 2 ^ r)
    if s.bit p PWR_RGN_STATE.LENDING then s.setFld p PWR_RGN_STATE.RECALL 1 else s
  else s

/-- A core that was waiting stops waiting (R311, R312). -/
def State.unwait (s : State) (c : CoreId) : State :=
  if (s.core c).waitBegan then (s.modCore c fun C => { C with waitBegan := false }).unlend c else s

/-- A program stop (R130): issue stops, every instruction not in a write phase is abandoned, shadow loads, swaps and form
switches finish, and firmware hears of it (a launch's end is `LAUNCH_COMPLETE`). The tile states stay as they are. -/
def State.stopProgram (s : State) (c : CoreId) : State :=
  let ts := (s.core c).tileStates
  let on := (s.core c).run == .running || (s.core c).run == .halting
  let s := if on then { s with host := { s.host with stops := s.host.stops ++ [c] } } else s
  let s := (s.finishStationary c).unwait c
  s.modCore c fun C =>
    { C with run := if on then .stopped else C.run, fl := [], ibuf := none, fetchHeld := false, fetchWant := none, fetchGot := none,
             wait := none, waitSaved := none, heldFaults := [], stopTiles := some ts }

/-- An exception (R189): the program stops, COR_EXC and COR_EXC_PC are set. Causes: 1 ILLEGAL, 2 FAULT, 3 FETCH. -/
def State.exception (s : State) (c : CoreId) (cause slot fcause pc : Nat) : State :=
  let e := COR_EXC.VALID.put (COR_EXC.FATAL.put (COR_EXC.CAUSE.put (COR_EXC.SLOT.put (COR_EXC.FCAUSE.put 0 fcause) slot) cause) 1) 1
  let s := s.wr (COR_EXC c.toNat) e
  let s := s.wr (COR_EXC_PC c.toNat) (BitVec.ofNat 64 (pc % 2 ^ 48))
  s.stopProgram c

/-! ### Issue -/

/-- Whether core `c` has word `w` at its issue step: its clock runs, its program runs, nothing it waits for holds issue, and the
word fetched at its program counter is `w`. -/
def State.atIssue (s : State) (c : CoreId) (w : Word) : Bool :=
  let C := s.core c
  s.clocked c && C.run == .running && C.wait == none && C.ibuf == some w && !C.parked

/-- The address of the register a CSR number names; none for a number past the block (R181). -/
def csrAddr (c : CoreId) (w : Word) : Nat := COR_ID c.toNat + ibits w 45 35 * 8

/-- Whether a CSR access must wait: COR_VFLAGS for earlier vector instructions (R156), a seed for its user (R55, R177), a fold
request for the fold before it (R93). -/
def State.csrWaits (s : State) (c : CoreId) (w : Word) : Bool :=
  let a := csrAddr c w
  let n := c.toNat
  let C := s.core c
  if a = COR_VFLAGS n then C.fl.any fun f => unitOf f.w == .vec && !f.gone
  else if iop w = 0 then false
  else if a = COR_CVT_SEED n then C.converting
  else if a = COR_MTX_SEED n 0 ∨ a = COR_MTX_SEED n 1 ∨ a = COR_MTX_SEED n 2 then
    C.fl.any fun f => isMtx f.w && !f.gone && ibits f.w 55 54 == (a - COR_MTX_SEED n 0) / 8
  else if a = COR_HST_TAG n ∨ (a = COR_HST_CTL n ∧ (C.rg (ireg w 46)).getLsbD 1) then C.fold.isSome
  else false

/-- The wait of a row of its own at issue: a DMAQ for earlier stores (R178), a BARR for the core's arrival before it (R180), a CSR
access, a FENCE for every earlier instruction that is not abandoned (R181). -/
def State.issueHeld (s : State) (c : CoreId) (w : Word) : Bool :=
  let C := s.core c
  match iclass w, iop w with
  | 0x8, 0 => C.storesBefore C.seq
  | 0x9, 8 => C.barPending (w.extractLsb' 10 6)
  | 0xF, 0 | 0xF, 1 => s.csrWaits c w
  | 0xF, 0xA => C.fl.any fun f => !f.gone
  | _, _ => false

/-- Whether issue of `w` stalls: on a pending g register, a full queue (R36, R182), or its row's own wait. -/
def State.stalls (s : State) (c : CoreId) (w : Word) : Bool :=
  let C := s.core c
  (gReads w ++ gWrites w).any C.gPending || (unitOf w != .none && decide (unitCap (unitOf w) ≤ C.queued (unitOf w))) || s.issueHeld c w

/-- The issue step of the instruction `w` of row `key` (R164, R182): nothing when it is not the word at issue or stalls, which
COR_ISTALL counts clock by clock; an exception when it is illegal; else its effect. -/
def State.issue (s : State) (c : CoreId) (w : Word) (key : Nat) (eff : State → State) : State :=
  if !s.atIssue c w then s
  else if !listed w then s.exception c 1 0 0 (s.core c).pc
  else if ikey w ≠ key then s
  else if illegalFields w (s.inHandler c) then s.exception c 1 0 0 (s.core c).pc
  else if s.stalls c w then s
  else eff s

/-- The program counter moved to `pc`, the issue buffer empty. -/
def CoreSt.goto (C : CoreSt) (pc : Nat) : CoreSt := { C with pc := pc % 2 ^ 64, ibuf := none }
/-- The address after the instruction at issue. -/
def CoreSt.nextPc (C : CoreSt) : Nat := C.pc + 8

/-- An instruction that completes at issue: an update of the core, the program counter moved on, COR_INSTRET. -/
def State.retire (s : State) (c : CoreId) (f : CoreSt → CoreSt) : State :=
  (s.modCore c fun C => (f C).goto C.nextPc).bump (COR_INSTRET c.toNat)

/-- The enable bits of COR_MTX_CTL an instruction issues under (R78): 0 ROWSKIP_EN, 1 TILESKIP_EN, 2 PRED_EN. -/
def State.mtxCtl (s : State) (c : CoreId) : BitVec 3 := (s.rd (COR_MTX_CTL c.toNat)).extractLsb' 0 3

/-- An instruction put into its unit's queue with its captured operands; `al` says whether an address or stride was rounded down. -/
def State.enqueue (s : State) (c : CoreId) (w a b x : Word) (al : Bool := false) : State :=
  s.modCore c fun C =>
    ({ C with fl := C.fl ++ [{ seq := C.seq, w := w, pc := C.pc, a := a, b := b, c := x, aligned := al, ctl := s.mtxCtl c }],
              seq := C.seq + 1 } : CoreSt).goto C.nextPc

end Sys2Proof.Machine
end

