-- ==== Sys2Proof/Machine/Lsu.lean ====
section
/-!
DEFINITION. Sys2Proof/Machine/Lsu.lean: the load/store path of a core (R120 to R130, R167, R168, R226): rows cut into
256-byte lines, translated and fetched, faults parked in the four fault slots, restarts.
-/
namespace Sys2Proof.Machine

/-- A flight of core `c` changed. -/
def State.modFlight (s : State) (c : CoreId) (q : Nat) (g : Flight → Flight) : State := s.modCore c fun C => C.modFl q g

/-- A row's bytes cut at 256-byte boundaries: byte within the row, address, length. `fuel` bounds the parts. -/
def rowCuts : Nat → Nat → Nat → Nat → List (Nat × Nat × Nat)
  | 0, _, _, _ => []
  | k + 1, off, va, n =>
    if n = 0 then []
    else
      let m := min n (256 - va % 256)
      (off, va, m) :: rowCuts k (off + m) (va + m) (n - m)

/-- The rows a load or store covers: row number, virtual address, length. For a tile access the effective shape's rows from
base by stride, for TLDT the source rows (R120); for a scalar access its bytes; for DMAQ the descriptor (R226). -/
def Flight.rows (f : Flight) : List (Nat × Nat × Nat) :=
  match iclass f.w with
  | 3 =>
    let fm := (Fmt.ofCode (shFmt f.w)).getD .fp32
    let (r, c) := effShape (shRows f.w) (shCols f.w) fm 256 256
    let (n, len) := if iop f.w = 1 then (c, fm.rowBytes r) else (r, fm.rowBytes c)
    let len := if iop f.w = 1 ∧ fm.isNibble then (r + 1) / 2 else len
    (List.range n).map fun i => (i, (f.a + BitVec.ofNat 64 i * f.b).toNat, len)
  | 2 => [(0, f.a.toNat, accSize f.w)]
  | _ => [(0, f.a.toNat, 64)]

/-- The 256-byte granules of virtual address an access touches, as ranges of first and last granule (R125). -/
def Flight.granules (f : Flight) : List (Nat × Nat) := (f.rows.filter fun r => r.2.2 != 0).map fun (_, va, n) => (va / 256, (va + n - 1) / 256)
/-- Whether two accesses overlap at 256-byte granularity (R125). -/
def overlaps (f g : Flight) : Bool :=
  f.granules.any fun (a, b) => g.granules.any fun (x, y) => decide (a ≤ y) && decide (x ≤ b)

/-- Whether a flight uses the load path: a load or store, or a DMAQ whose descriptor is not yet read. -/
def Flight.onLsu (f : Flight) : Bool := isLsu f.w || (iclass f.w == 8 && iop f.w == 0 && !(f.ph == .run && f.segs.all fun g => g.data.isSome))
/-- Whether a flight is parked with its fault, in a slot or waiting for one. -/
def Flight.parkedNow (f : Flight) : Bool :=
  match f.ph with
  | .parked _ | .heldFault _ => true
  | _ => false

/-! ### Faults -/

/-- The free fault slot of lowest number (R126). -/
def State.freeSlot (s : State) (c : CoreId) : Option (BitVec 2) :=
  ([0, 1, 2, 3] : List (BitVec 2)).find? fun i => !s.bit (COR_TFAULT_INFO c.toNat i.toNat) COR_TFAULT_INFO.VALID

/-- The record of a fault slot (R135, R168). -/
def faultInfo (f : Flight) (t : TFault) : Word :=
  let fatal := t.cause != cNotPresent
  let tile := match iclass f.w with
    | 8 => ibits f.w 50 46
    | _ => ibits f.w 55 51
  let i := COR_TFAULT_INFO.VALID.put 0 1
  let i := COR_TFAULT_INFO.FATAL.put i (if fatal then 1 else 0)
  let i := COR_TFAULT_INFO.CAUSE.put i t.cause.toNat
  let i := COR_TFAULT_INFO.ROW.put i t.row
  let i := COR_TFAULT_INFO.TILE.put i tile
  let i := COR_TFAULT_INFO.STORE.put i (if isStore f.w then 1 else 0)
  let i := COR_TFAULT_INFO.TRANSPOSE.put i (if iclass f.w == 3 && iop f.w == 1 then 1 else 0)
  let i := COR_TFAULT_INFO.HOSTPT.put i (if t.host then 1 else 0)
  COR_TFAULT_INFO.RESTARTS.put i f.restarts

/-- The instruction `q` parked in slot `i` with its fault (R126, R127): firmware is told of a NOT_PRESENT fault of a
device-owned table, a host-shared one becomes a page request, and any other cause stops the program. -/
def State.parkAt (s : State) (c : CoreId) (f : Flight) (i : BitVec 2) (t : TFault) : State :=
  let s := s.wr (COR_TFAULT_INFO c.toNat i.toNat) (faultInfo f t)
  let s := s.wr (COR_TFAULT_VA c.toNat i.toNat) (BitVec.ofNat 64 (t.va % 2 ^ 48))
  let s := s.wr (COR_TFAULT_PC c.toNat i.toNat) (BitVec.ofNat 64 (f.pc % 2 ^ 48))
  let s := s.modFlight c f.seq fun f => { f with ph := .parked i, slot := some i, segs := [], inval := f.inval || isTileLoad f.w }
  if t.cause = cNotPresent then
    if t.host then
      s.modDie (dieOf c) fun D => if D.priWait.contains (t.va / 4096 * 4096) then D
        else { D with priWait := D.priWait ++ [t.va / 4096 * 4096] }
    else
      (s.modDie (dieOf c) fun D => { D with faults := D.faults ++ [(.coreSlot c i, t.va)] }).emit (.dieInt (dieOf c) 3)
  else s.exception c 2 i.toNat 0 f.pc

/-- The instruction `q` faults (R126): it stops asking for rows, a load's tile becomes INVALID, and it parks in the slot it
has, in a free slot, or is held with its fault until one frees. -/
def State.tileFault (s : State) (c : CoreId) (q : Nat) (t : TFault) : State :=
  match (s.core c).flight q with
  | none => s
  | some f =>
    let s := s.modCore c fun C => { C with faultNow := some q }
    match f.slot.or (s.freeSlot c) with
    | some i => s.parkAt c f i t
    | none => s.modCore c fun C =>
        { C.modFl q fun f => { f with ph := .heldFault t, segs := [], inval := f.inval || isTileLoad f.w } with
          heldFaults := C.heldFaults ++ [q] }

/-- A held fault takes a slot that has freed, the earliest first (R126). -/
def State.placeHeld (s : State) (c : CoreId) : State :=
  match (s.core c).heldFaults, s.freeSlot c with
  | q :: rest, some i =>
    let s := s.modCore c fun C => { C with heldFaults := rest }
    match (s.core c).flight q with
    | some f => match f.ph with
      | .heldFault t => s.parkAt c f i t
      | _ => s
    | none => s
  | _, _ => s

/-- A fault slot cleared (R135). -/
def State.clearSlot (s : State) (c : CoreId) (i : BitVec 2) : State :=
  ((s.wr (COR_TFAULT_INFO c.toNat i.toNat) 0).wr (COR_TFAULT_VA c.toNat i.toNat) 0).wr (COR_TFAULT_PC c.toNat i.toNat) 0

/-- A load or store completes: its fault slot, if it took one, is cleared and may take a held fault (R126, R135). -/
def State.completeLs (s : State) (c : CoreId) (q : Nat) : State :=
  match ((s.core c).flight q).bind (·.slot) with
  | some i => ((s.complete c q).clearSlot c i).placeHeld c
  | none => s.complete c q

/-! ### Data -/

/-- Poison of the codewords of a line's part. -/
def linePoison (p : BitVec 16) (off n : Nat) : Bool :=
  (List.range 16).any fun i => p.getLsbD i && decide (off / 16 ≤ i) && decide (i ≤ (off + n - 1) / 16)
/-- The cached copy of a line. -/
def CoreSt.cached (C : CoreSt) (line : Nat) : Option CacheLine := C.cache.find? fun l => l.addr == line
/-- The cache size in KiB of a split (R195). -/
def cacheKiB (split : BitVec 2) : Nat := split.toNat * 256
/-- The set of a line in a core's cache (R196). -/
def CoreSt.setOf (C : CoreSt) (line : Nat) : Nat := line / 256 % (cacheKiB C.split / 2)
/-- A cached line used: it becomes the most recent. -/
def CoreSt.touch (C : CoreSt) (l : CacheLine) : CoreSt := { C with cache := C.cache.filter (fun x => x.addr != l.addr) ++ [l] }
/-- A line put into the cache, 8 ways to a set, the cache kept from the least recently used line on (R196). Pseudo-LRU never
replaces the most recent of the 8; which of the others it replaces is left free. -/
def CoreSt.allocate (C : CoreSt) (l : CacheLine) : CoreSt :=
  if cacheKiB C.split = 0 then C
  else
    let mine := C.cache.filter fun x => C.setOf x.addr == C.setOf l.addr && x.addr != l.addr
    let out := if mine.length < 8 then none else mine[Config.victim (C.setOf l.addr) C.seq % 7]?
    { C with cache := C.cache.filter (fun x => x.addr != l.addr && out != some x) ++ [l] }

/-- One part of a row asked for (R123, R126, R207): its data at once from the core's own SRAM or cache, else a line to
request; or the fault. -/
def State.askSeg (s : State) (c : CoreId) (row off va n : Nat) : State × Except (Option TFault × Bool) Seg :=
  let flt (cause : Cause) (host : Bool) : Except (Option TFault × Bool) Seg := .error (some ⟨cause, row, va, host⟩, false)
  match s.xlateCore c va .read with
  | (s, .error (.fault cause h e)) =>
    (s.walkPoison cause e c.toNat, flt cause h)
  | (s, .error .ats) => (s, .error (none, true))
  | (s, .error _) => (s, flt cNotPresent true)
  | (s, .ok pa) =>
    match s.loadReach c pa with
    | none => (s, flt cPermission (decide (2 ^ 47 ≤ va)))
    | some .direct =>
      if s.poisoned pa n then (s.poisonUse pa 0 c.toNat, flt cPoison false)
      else (s, .ok ⟨row, off, pa, n, some (s.rdMem pa n, false)⟩)
    | some .uncached => (s, .ok ⟨row, off, pa, n, none⟩)
    | some .cached =>
      match (s.core c).cached (pa / 256 * 256) with
      | some l =>
        let s := (s.modCore c fun C => C.touch l).bump (COR_CACHE_HIT c.toNat)
        if linePoison l.poison (pa % 256) n then (s.poisonUse pa 0 c.toNat, flt cPoison false)
        else (s, .ok ⟨row, off, pa, n, some ((l.data.drop (pa % 256)).take n, false)⟩)
      | none => (s.bump (COR_CACHE_MISS c.toNat), .ok ⟨row, off, pa, n, none⟩)

/-- All parts of a load asked for in ascending row order, up to the first fault or wait. -/
def State.askRows (s : State) (c : CoreId) :
    List (Nat × Nat × Nat × Nat) → List Seg → State × List Seg × Option (Option TFault × Nat)
  | [], acc => (s, acc, none)
  | (row, off, va, n) :: rest, acc =>
    match s.askSeg c row off va n with
    | (s, .ok g) => State.askRows s c rest (acc ++ [g])
    | (s, .error (f, _)) => (s, acc, some (f, va))
  termination_by structural l => l

/-- A load's row bytes, once every part has arrived. -/
def rowBytesOf (segs : List Seg) (row : Nat) : Option (List Byte) :=
  (segs.filter fun g => g.row == row).foldl (fun acc g =>
    match acc, g.data with
    | some bs, some (d, _) => some (bs ++ d)
    | _, _ => none) (some [])

/-- Whether all data of a load has arrived. -/
def Flight.complete (f : Flight) : Bool := f.segs.all fun g => g.data.isSome

/-- A plain load's rows that have arrived, written whole to the tile (R123). -/
def CoreSt.landRows (C : CoreSt) (f : Flight) : CoreSt :=
  if iclass f.w = 3 ∧ iop f.w = 0 then
    f.rows.foldl (fun C (r, _, n) =>
      if n ≠ 0 ∧ f.segs.any (·.row == r) then
        match rowBytesOf f.segs r with
        | some bs => if bs.length = n then C.setTile (ireg f.w 51) (r * n) bs else C
        | none => C
      else C) C
  else C

/-- A transposing load's tile: tile[r][c] = source[c][r], written when the last source row has arrived (R82, R83). -/
def CoreSt.landTransposed (C : CoreSt) (f : Flight) : CoreSt :=
  let fm := (Fmt.ofCode (shFmt f.w)).getD .fp32
  let (r, c) := effShape (shRows f.w) (shCols f.w) fm 256 256
  let src := (List.range c).map fun j => (rowBytesOf f.segs j).getD []
  let rows := (List.range r).map fun i => (List.range c).map fun j =>
    let bs := src.getD j []
    elemCode fm 0 (fun o => bs.getD o 0) 0 i
  rows.zip (List.range r) |>.foldl (fun C (es, i) => C.setTile (ireg f.w 51) (i * fm.rowBytes c) (packRow fm es)) C

/-- The destination's zero-row mask after a load of shape r × c (R71, R85, R116). -/
def CoreSt.maskLoaded (C : CoreSt) (f : Flight) : CoreSt :=
  let fm := (Fmt.ofCode (shFmt f.w)).getD .fp32
  let (r, c) := effShape (shRows f.w) (shCols f.w) fm 256 256
  let t := ireg f.w 51
  let rb := fm.rowBytes c
  C.setZm t ⟨rb, r, zeroRows fm ((List.range r).map fun i => (List.range c).map fun j => C.elem t fm rb i j)⟩

/-- A scalar load's result (R167). -/
def loadExtend (w : Word) (bs : List Byte) : Word :=
  let n := accSize w
  let v := leNat bs
  if 4 ≤ iop w ∧ iop w < 7 then BitVec.ofInt 64 (sint (8 * n) v) else BitVec.ofNat 64 v

/-- A scalar load whose byte has arrived writes its register and completes; a DMAQ keeps its descriptor and waits for its
tag (R167, R226). -/
def State.landScalar (s : State) (c : CoreId) (f : Flight) : State :=
  if iclass f.w = 2 ∧ f.complete then
    match rowBytesOf f.segs 0 with
    | some bs => (s.modCore c fun C => C.setRg (ireg f.w 51) (loadExtend f.w bs)).completeLs c f.seq
    | none => s
  else s

/-- A load begun (R120, R124, R126): every row asked for; hits land at once, misses wait for their lines, the first fault
parks the instruction, a page the host must translate holds it. -/
def State.startLoad (s : State) (c : CoreId) (f : Flight) : State :=
  let cuts := (f.rows.map fun (r, va, n) => (rowCuts (n / 256 + 2) 0 va n).map fun (o, v, m) => (r, o, v, m)).flatten
  match s.askRows c cuts [] with
  | (s, segs, none) =>
    let f' := { f with ph := .run, segs := segs }
    let s := s.modCore c fun C => (C.modFl f.seq fun _ => f').landRows f'
    s.landScalar c f'
  | (s, segs, some (none, va)) =>
    let _ := segs
    let s := s.modFlight c f.seq fun f => { f with ph := .ats va }
    s.modDie (dieOf c) fun D => if D.atsWait.contains (va / 4096 * 4096) then D
      else { D with atsWait := D.atsWait ++ [va / 4096 * 4096] }
  | (s, segs, some (some t, _)) =>
    let f' := { f with ph := .run, segs := segs }
    let s := s.modCore c fun C => (C.modFl f.seq fun _ => f').landRows f'
    s.tileFault c f.seq t

/-- One row of a store written to the core's scratch in ascending order of its parts; none when all landed (R122). -/
def State.storeParts (s : State) (c : CoreId) (row : Nat) (bs : List Byte) :
    List (Nat × Nat × Nat) → State × Option (Option TFault × Nat)
  | [] => (s, none)
  | (off, va, n) :: rest =>
    match s.xlateCore c va .write with
    | (s, .ok pa) =>
      if s.storeOk c pa then State.storeParts (s.wrMem pa ((bs.drop off).take n)) c row bs rest
      else (s, some (some ⟨cPermission, row, va, decide (2 ^ 47 ≤ va)⟩, va))
    | (s, .error (.fault cause h e)) => (s.walkPoison cause e c.toNat, some (some ⟨cause, row, va, h⟩, va))
    | (s, .error .ats) => (s, some (none, va))
    | (s, .error _) => (s, some (some ⟨cNotPresent, row, va, true⟩, va))
  termination_by structural l => l

/-- The bytes of a store's row: of the source tile, or the g register captured at issue. -/
def CoreSt.storeRow (C : CoreSt) (f : Flight) (r n : Nat) : List Byte :=
  if iclass f.w = 3 then C.tileBytes (ireg f.w 51) (r * n) n else toLe n f.c.toNat

/-- Rows of a store written one after another up to the first fault or wait. -/
def State.storeRows (s : State) (c : CoreId) (f : Flight) : List (Nat × Nat × Nat) → State × Option (Option TFault × Nat)
  | [] => (s, none)
  | (r, va, n) :: rest =>
    match s.storeParts c r ((s.core c).storeRow f r n) (rowCuts (n / 256 + 2) 0 va n) with
    | (s, none) => State.storeRows s c f rest
    | (s, some e) => (s, some e)
  termination_by structural l => l

/-- A store begun (R122, R168): its rows written in ascending order; a scalar store completes, a tile store runs until
`TILE_STORE_COMPLETE`. -/
def State.startStore (s : State) (c : CoreId) (f : Flight) : State :=
  match s.storeRows c f f.rows with
  | (s, none) =>
    if iclass f.w = 2 then s.completeLs c f.seq
    else s.modFlight c f.seq fun f => { f with ph := .run }
  | (s, some (none, va)) =>
    let s := s.modFlight c f.seq fun f => { f with ph := .ats va }
    s.modDie (dieOf c) fun D => if D.atsWait.contains (va / 4096 * 4096) then D
      else { D with atsWait := D.atsWait ++ [va / 4096 * 4096] }
  | (s, some (some t, _)) => s.tileFault c f.seq t

/-- Whether a queued access may begin (R118, R125, R126): its tile allows it; no earlier unfinished access overlaps it, but
for a parked load that a load passes; no earlier load still waits to begin; no faulting instruction holds the unit. -/
def CoreSt.lsuReady (C : CoreSt) (f : Flight) : Bool :=
  (tileReads f.w).all (C.mayRead f.seq) && (tileWrites f.w).all (C.mayWrite f.seq) &&
  (C.before f.seq).all (fun g => !g.onLsu ||
    (!(overlaps f g && !(g.parkedNow && !isStore g.w && !isStore f.w)) && !(g.ph == .queued && !isStore g.w && isLsu f.w))) &&
  C.fl.all (fun g => match g.ph with | .heldFault _ => false | _ => true)

/-- A queued access begun when it may be. -/
def State.tryLsu (s : State) (c : CoreId) (f : Flight) : State :=
  if f.ph = .queued ∧ (s.core c).lsuReady f then
    if isStore f.w then s.startStore c f else s.startLoad c f
  else s

/-- The sticky bits of an access that begins anew: its shape was clamped, its base, stride or address rounded down (R133). -/
def State.reclamp (s : State) (c : CoreId) (f : Flight) : State :=
  let sh := effShape (shRows f.w) (shCols f.w) ((Fmt.ofCode (shFmt f.w)).getD .fp32) 256 256
  let s := if iclass f.w = 3 ∧ sh ≠ (shRows f.w, shCols f.w) then s.setFld (COR_STATUS c.toNat) COR_STATUS.SHAPE_CLAMP 1 else s
  if f.aligned then s.alignClamp c else s

/-- A parked access restarted from row 0 (R128, R129); past RESTART_MAX restarts it faults with RESTART_LIMIT. -/
def State.restart (s : State) (c : CoreId) (i : BitVec 2) : State :=
  match (s.core c).fl.find? fun f => f.ph == .parked i with
  | none => s
  | some f =>
    let mx := s.fld (COR_TILE_CTL c.toNat) COR_TILE_CTL.RESTART_MAX
    let va := (s.rd (COR_TFAULT_VA c.toNat i.toNat)).toNat
    let row := s.fld (COR_TFAULT_INFO c.toNat i.toNat) COR_TFAULT_INFO.ROW
    let host := s.bit (COR_TFAULT_INFO c.toNat i.toNat) COR_TFAULT_INFO.HOSTPT
    if mx ≤ f.restarts then s.parkAt c f i ⟨cRestart, row, va, host⟩
    else
      let s := s.bump (COR_TILE_RESTARTS c.toNat)
      let s := s.setFld (COR_TFAULT_INFO c.toNat i.toNat) COR_TFAULT_INFO.RESTARTS (f.restarts + 1)
      let f' := { f with ph := .queued, restarts := f.restarts + 1 }
      let s := (s.reclamp c f).modFlight c f.seq fun _ => f'
      if isStore f.w then s.startStore c f' else s.startLoad c f'

end Sys2Proof.Machine
end

