-- ==== Sys2Proof/Machine/MatrixOps.lean ====
section
/-!
DEFINITION. Sys2Proof/Machine/MatrixOps.lean: the arrays of a core: what an operation, shadow load, swap or form switch does
when it leaves its array queue, the write phase, and the sparsity predictor (R36 to R77).
-/
namespace Sys2Proof.Machine

/-- ARR of an array instruction. -/
def iarr (w : Word) : Nat := ibits w 55 54
/-- The form field of an element code's format, FP32 for a code that names none. -/
def fmtOf (c : BitVec 4) : Fmt := (Fmt.ofCode c).getD .fp32
/-- DF of a matrix instruction. -/
def mtxDf (w : Word) : Fmt := fmtOf (w.extractLsb' 40 4)

/-- The stationary set an operation runs against: the one it was issued with, else the array's active set. -/
def CoreSt.setFor (C : CoreSt) (f : Flight) : Option SetSt := f.pin.getD (C.array (iarr f.w)).act

/-- Element (k, n) of a stationary set; zero outside what was loaded (R79). -/
def SetSt.at (x : SetSt) (k n : Nat) : Nat := if k < x.rows ∧ n < x.cols then x.codes.getD (k * x.cols + n) 0 else 0

/-- The shape figures of an operation: rows m, depth k used, class depth K, width N, and whether the shape was clamped
(R79, R113). -/
structure MtxShape where
  m : Nat
  kk : Nat
  K : Nat
  N : Nat
  clamp : Bool
  deriving DecidableEq, Repr

/-- The shape of operation `f` against its stationary set (R39, R47, R79). -/
def CoreSt.mtxShape (C : CoreSt) (f : Flight) : MtxShape :=
  let af := fmtOf (shFmt f.w)
  let st := C.setFor f
  let bf := (st.map (·.fmt)).getD af
  let tad := (C.array (iarr f.w)).form
  let (K, N) := statShape (opClass af bf).1 tad
  let (m, k) := effShape (shRows f.w) (shCols f.w) af (mLimit tad) K
  ⟨m, k, K, N, (m, k) != (shRows f.w, shCols f.w) || (m != 0 && k != K) ||
    (match st with | some x => decide (K < x.rows) | none => false)⟩

/-- The row length of the streaming tile (R111). -/
def streamRb (w : Word) : Nat := let f := fmtOf (shFmt w); f.rowBytes (evenCols f (shCols w))
/-- Rows of the streaming tile that its mask marks zero (R71, R116). -/
def CoreSt.zeroStream (C : CoreSt) (f : Flight) (m : Nat) : List Bool := (C.zm (ireg f.w 44)).rowsFor (streamRb f.w) m

/-- What operation `f` reads of its streaming operand: what it read before an interrupt abandoned it, else its rows, their zero-row
mask and its scale register as they are (R42, R51). -/
def CoreSt.opndOf (C : CoreSt) (f : Flight) : MtxOpnd :=
  let af := fmtOf (shFmt f.w)
  let sh := C.mtxShape f
  f.opnd.getD
    { rows := (List.range sh.m).map fun r => (List.range sh.kk).map fun k => C.elem (ireg f.w 44) af (streamRb f.w) r k
      zero := C.zeroStream f sh.m
      sa := if ibit f.w 38 then some (C.scaleOf (f.w.extractLsb' 35 3)) else none }

/-- The operands of operation `f` (R39, R47, R49, R63). The stationary scale bytes of a column are as many as the blocks of the
depth K of a tile of the set's own class in the array's form. -/
def CoreSt.mtxIn (C : CoreSt) (f : Flight) : MtxIn :=
  let af := fmtOf (shFmt f.w)
  let sh := C.mtxShape f
  let st := C.setFor f
  let bf := (st.map (·.fmt)).getD af
  let o := C.opndOf f
  { a := o.rows
    af := af
    b := fun k n => match st with | some x => x.at k n | none => 0
    bf := bf
    sa := o.sa
    sb := st.bind (·.scale)
    kk := sh.kk
    K := sh.K
    N := sh.N
    aBlocks := (evenCols af (shCols f.w) + 31) / 32
    bBlocks := ((statShape (clsBits bf) (C.array (iarr f.w)).form).1 + 31) / 32 }

/-! ### Accumulators (R41 to R43) -/

/-- A bank of an array's edge accumulators. -/
def ArrSt.accOf (A : ArrSt) (b : Bool) : List Nat := A.acc.get (if b then 1 else 0)
/-- A bank of an array's edge accumulators set. -/
def ArrSt.setAcc (A : ArrSt) (b : Bool) (v : List Nat) : ArrSt := { A with acc := A.acc.set (if b then 1 else 0) v (by split <;> omega) }

/-- Whether an operation of array `a` holds bank `b`. -/
def CoreSt.bankHeld (C : CoreSt) (a : Nat) (b : Bool) : Bool := C.fl.any fun g => isMtx g.w && iarr g.w == a && g.bank == some b
/-- The bank the next operation of array `a` takes (R41): operations alternate, and one that was issued again after a wrong
prediction may find only the other bank free; none while both are held. -/
def CoreSt.freeBank (C : CoreSt) (a : Nat) : Option Bool :=
  let b := (C.array a).bank
  if !C.bankHeld a b then some b else if !C.bankHeld a (!b) then some (!b) else none
/-- Whether operation `f` may take a bank: one stays free for an earlier operation predicted all-zero, which may yet run. -/
def CoreSt.bankFor (C : CoreSt) (f : Flight) : Option Bool :=
  let a := iarr f.w
  if ((C.before f.seq).any fun g => isMtx g.w && iarr g.w == a && g.ph == .predicted) && (C.bankHeld a false || C.bankHeld a true) then none
  else C.freeBank a

/-- One destination row: accumulators converted in order, the LFSR running on (R52 to R54). -/
def outRow (int : Bool) (df : Fmt) (stoch : Bool) (acc : List Nat) (s : BitVec 32) : List Nat × MFlags × BitVec 32 :=
  acc.foldl (fun (out, fl, s) a => let (o, g, s') := accOut int df stoch s a; (out ++ [o], fl ||| g, s')) ([], 0, s)

/-- Destination rows of `N` from accumulators row by row. -/
def outRows (int : Bool) (df : Fmt) (stoch : Bool) (N : Nat) (acc : List Nat) (s : BitVec 32) : List (List Nat) × MFlags × BitVec 32 :=
  (chunksOf N 0 acc).foldl (fun (out, fl, s) r => let (o, g, s') := outRow int df stoch r s; (out ++ [o], fl ||| g, s')) ([], 0, s)

/-- How often operation `f` draws from its array's LFSR (R54). -/
def CoreSt.draws (C : CoreSt) (f : Flight) : Nat :=
  let sh := C.mtxShape f
  if drawsFor (mtxDf f.w) then sh.m * sh.N else 0

/-- The accumulation before `f` on its array whose bank gives `f` its starting values (R43): both accumulate into one tile in one
format, the first has its sums, and no other writer of the tile is outstanding. -/
def CoreSt.forwards (C : CoreSt) (f : Flight) : Option Flight :=
  match ((C.before f.seq).filter fun g => isMtx g.w && iarr g.w == iarr f.w).getLast? with
  | some g =>
    if iop f.w == 1 && iop g.w == 1 && ireg g.w 49 == ireg f.w 49 && g.ph == .summed && g.bank.isSome &&
      ((C.before f.seq).all fun h => !(tileWrites h.w).contains (ireg f.w 49) ||
        (isMtx h.w && iarr h.w == iarr f.w && iop h.w == 1 && mtxDf h.w == mtxDf f.w))
    then some g else none
  | none => none

/-- The element codes an accumulation starts from (R41, R43): the destination tile's, or for each row of the accumulation before it
what that one will write, converted under its rounding from the LFSR as its turn finds it. -/
def State.startCodes (s : State) (c : CoreId) (f : Flight) : List (List Nat) :=
  let C := s.core c
  let sh := C.mtxShape f
  let df := mtxDf f.w
  let tile := (List.range sh.m).map fun r => (List.range sh.N).map fun n => C.elem (ireg f.w 49) df (df.rowBytes sh.N) r n
  match C.forwards f with
  | none => tile
  | some g =>
    let a := iarr f.w
    let seed := (s.rd (COR_MTX_SEED c.toNat (arrIx a).val)).extractLsb' 0 32
    let drawn := (((C.before g.seq).filter fun h => isMtx h.w && iarr h.w == a).map C.draws).sum
    let rows := (outRows g.int df (ibit g.w 39) sh.N ((C.array a).accOf (g.bank.getD false)) (lfsrAdvance drawn seed)).1
    rows.take sh.m ++ tile.drop rows.length

/-- An accumulator row: initial values, then the column sums; a row not sent keeps its initial values (R40, R41, R72). -/
def accRow (int : Bool) (init : List Nat) (sum : Option (List Nat)) : List Nat × MFlags :=
  match sum with
  | none => (init, 0)
  | some v => (init.zip v).foldl (fun (out, fl) (i, x) => let (a, g) := accAdd int i x; (out ++ [a], fl ||| g)) ([], 0)

/-- The initial accumulators of a row (R41). -/
def accStart (int : Bool) (df : Fmt) (codes : List Nat) : List Nat × MFlags :=
  codes.foldl (fun (out, fl) x => let (a, g) := accInit int df x; (out ++ [a], fl ||| g)) ([], 0)

/-- A matrix operation leaves its queue (R36, R39, R41, R73): it reads its streaming rows and, while a bank is free for it, its
accumulators are initialised and its column sums added, rows marked zero left out. An all-zero tile skips it whole: no row
enters the array, so nothing runs with its stationary set and EMPTY stays as it is even where that set is invalid (DESIGN
CHOICE: R63 and R73 do not say). An empty shape completes it. -/
def State.startMtx (s : State) (c : CoreId) (f : Flight) : State :=
  let C := s.core c
  let a := iarr f.w
  let sh := C.mtxShape f
  if sh.m = 0 then (s.shapeClamp c).complete c f.seq
  else
    let o := C.opndOf f
    let pin := some (C.setFor f)
    let x := C.mtxIn f
    if f.ctl.getLsbD 1 ∧ o.zero.all id then
      s.modFlight c f.seq fun f =>
        { f with ph := .summed, skipAll := true, opnd := some o, pin := pin, int := x.int, mfl := 0, unsent := 0, clamped := sh.clamp }
    else match C.bankFor f with
    | none => s
    | some b =>
      let skip (z : Bool) : Bool := f.ctl.getLsbD 0 && z
      let init := if iop f.w = 1 then (s.startCodes c f).map (accStart x.int (mtxDf f.w))
        else List.replicate sh.m (List.replicate sh.N 0, (0 : MFlags))
      let rows := (o.rows.zip (o.zero.zip (init.zip (List.range sh.m)))).map fun (codes, z, (i, f1), r) =>
        if skip z then (i, f1)
        else
          let (v, f2) := x.row r codes
          let (acc, f3) := accRow x.int i (some v)
          (acc, f1 ||| f2 ||| f3)
      let fl := rows.foldl (fun a p => a ||| p.2) (MFlags.when (C.setFor f).isNone .empty)
      s.modCore c fun C => (C.setArray a { (C.array a).setAcc b (rows.flatMap (·.1)) with bank := !b }).modFl f.seq fun f =>
        { f with ph := .summed, skipAll := false, opnd := some o, bank := some b, unsent := (o.zero.filter skip).length, pin := pin
                 int := x.int, mfl := fl, clamped := sh.clamp }

/-- The write phase of operation `f` (R42, R52 to R54, R71, R73): the destination rows, its zero-row mask, the array's LFSR,
the sticky bits, the counters. -/
def State.mtxWrite (s : State) (c : CoreId) (f : Flight) : State :=
  let a := (arrIx (iarr f.w)).val
  let C := s.core c
  let sh := C.mtxShape f
  let df := mtxDf f.w
  let td := ireg f.w 49
  let rb := df.rowBytes sh.N
  let seed := (s.rd (COR_MTX_SEED c.toNat a)).extractLsb' 0 32
  let (rows, fl, seed') :=
    if f.skipAll then
      ((List.range sh.m).map fun r => (List.range sh.N).map fun n => if iop f.w = 1 then C.elem td df rb r n else 0, (0 : MFlags),
       lfsrAdvance (C.draws f) seed)
    else outRows f.int df (ibit f.w 39) sh.N ((C.array a).accOf (f.bank.getD false)) seed
  let s := s.modCore c fun C =>
    (C.setTile td 0 (rows.map (packRow df)).flatten).setZm td ⟨rb, sh.m, zeroRows df rows⟩
  let s := s.wr (COR_MTX_SEED c.toNat a) (seed'.zeroExtend 64)
  let s := s.orMtx c (fl ||| f.mfl)
  let s := if f.clamped then s.shapeClamp c else s
  let s := if f.skipAll then s.bump (COR_SPR_SKIP c.toNat)
    else if f.unsent = 0 then s else s.bump (COR_SPR_ROWSKIP c.toNat) f.unsent
  (s.bump (COR_MTX_OPS c.toNat a)).complete c f.seq

/-! ### The array queue -/

/-- Whether an array takes the instruction at the head of its queue: not on loan, no form switch, no stalled swap (R59, R66,
R68). -/
def ArrSt.free (A : ArrSt) : Bool := !A.lent && A.switching.isNone && !A.swapStall

/-- Whether a flight is the head of its array queue (R183). -/
def CoreSt.arrHead (C : CoreSt) (f : Flight) : Bool :=
  (C.before f.seq).all fun g => !(unitOf g.w == unitOf f.w && g.ph == .queued)

/-- Whether an operation's turn on its array has come: no seed write ahead of it waits (R55, R79). -/
def CoreSt.seedReady (C : CoreSt) (f : Flight) : Bool := (C.array (iarr f.w)).seedWait.all fun w => decide (f.seq < w.2)

/-- Whether a matrix operation at the head may begin (R118, R183): sources complete, no earlier writer of its destination
but what R43 forwards; earlier readers of it hold only the write phase. -/
def CoreSt.mtxReady (C : CoreSt) (f : Flight) : Bool :=
  C.mayRead f.seq (ireg f.w 44) && (C.mayRead f.seq (ireg f.w 49) || (C.forwards f).isSome) && C.scalesOk f.seq f.w && C.seedReady f

/-- Whether the streaming tile of a matrix operation is still being loaded (R75). -/
def CoreSt.streamLoading (C : CoreSt) (f : Flight) : Bool :=
  match ((C.before f.seq).filter fun g => (tileWrites g.w).contains (ireg f.w 44)).getLast? with
  | some g => isTileLoad g.w
  | none => false

/-- The predictor index of an instruction address (R75). -/
def predIx (pc : Nat) : Nat := pc / 8 % 256

/-- A shadow load leaves its queue (R56, R79): the source tile's elements and scale bytes are on their way into the shadow
set, which is invalid until the load is done. -/
def State.startSload (s : State) (c : CoreId) (f : Flight) : State :=
  let C := s.core c
  let fm := fmtOf (shFmt f.w)
  let a := iarr f.w
  let A := C.array a
  let (K, N) := statShape (clsBits fm) A.form
  let (r, n) := effShape (shRows f.w) (shCols f.w) fm K N
  let rb := fm.rowBytes (evenCols fm (shCols f.w))
  let s := if (r, n) = (shRows f.w, shCols f.w) then s else s.shapeClamp c
  if r = 0 then s.complete c f.seq
  else
    let x : SetSt :=
      { fmt := fm, rows := r, cols := n
        codes := ((List.range r).map fun i => (List.range n).map fun j => C.elem (ireg f.w 49) fm rb i j).flatten
        scale := if ibit f.w 48 then some (C.scaleOf (f.w.extractLsb' 45 3)) else none }
    s.modCore c fun C => (C.setArray a { A with load := some x, shd := none }).modFl f.seq fun f => { f with ph := .run }

/-- A swap leaves its queue: it takes effect, or stalls on the shadow load in progress (R57, R59). A stalled swap has left its queue
(DESIGN CHOICE: R59 and R62 do not say): its entry is free, and an interrupt lets it complete. -/
def State.startSwap (s : State) (c : CoreId) (f : Flight) : State :=
  let a := iarr f.w
  let A := (s.core c).array a
  if A.load.isSome then
    s.modCore c fun C => (C.setArray a { A with swapStall := true }).modFl f.seq fun f => { f with ph := .run }
  else (s.modCore c fun C => C.setArray a A.swap).complete c f.seq

/-- A form switch leaves its queue: to the form the array has it completes, to the other it runs 64 clocks (R66). -/
def State.startForm (s : State) (c : CoreId) (f : Flight) : State :=
  let a := iarr f.w
  let A := (s.core c).array a
  if A.form = ibit f.w 44 then s.complete c f.seq
  else s.modCore c fun C =>
    (C.setArray a { A with switching := some (ibit f.w 44) }).modFl f.seq fun f => { f with ph := .run }

/-- The instruction at the head of an array queue begun when it may be; a matrix operation whose streaming tile is still
being loaded consults the predictor once (R75, R76). -/
def State.tryArr (s : State) (c : CoreId) (f : Flight) : State :=
  let C := s.core c
  let A := C.array (iarr f.w)
  if f.ph ≠ .queued ∨ !C.arrHead f ∨ !A.free then s
  else if isMtx f.w then
    if C.mtxReady f then s.startMtx c f
    else
      if f.pred = none ∧ f.ctl.getLsbD 2 ∧ f.ctl.getLsbD 1 ∧ C.seedReady f ∧ C.streamLoading f then
        let p := decide (2 ≤ (C.pred.get (fun _ => 0) (predIx f.pc)).toNat)
        s.modFlight c f.seq fun g =>
          { g with pred := some p, ph := if p then .predicted else .queued, pin := if p then some (C.setFor g) else g.pin }
      else s
  else match iop f.w with
    | 0 => if C.mayRead f.seq (ireg f.w 49) && A.load.isNone && C.scalesOk f.seq f.w then s.startSload c f else s
    | 1 =>
      if (C.before f.seq).any fun g => isMtx g.w && iarr g.w == iarr f.w && g.ph == .predicted then s
      else s.startSwap c f
    | _ =>
      if (C.before f.seq).any fun g => unitOf g.w == unitOf f.w then s else s.startForm c f

/-- The check of predictions when the load of tile `t` has finished (R75, R76): the counter is trained; a confirmed skip goes
to its write phase, a wrong one is issued again against its set, a missed one is counted. -/
def State.predictionCheck (s : State) (c : CoreId) (t : BitVec 5) : State :=
  (s.core c).fl.foldl (fun s f =>
    let C := s.core c
    match f.pred with
    | none => s
    | some p =>
      if isMtx f.w && ireg f.w 44 == t && C.mayRead f.seq t && (f.ph == .queued || f.ph == .predicted) then
        let sh := C.mtxShape f
        let zero := sh.m != 0 && (C.zeroStream f sh.m).all id
        let ix := predIx f.pc
        let k := (C.pred.get (fun _ => 0) ix).toNat
        let k' : Nat := if zero then min (k + 1) 3 else k - 1
        let s := s.modCore c fun C => { C with pred := C.pred.set (fun _ => 0) ix (BitVec.ofNat 2 k') }
        if p then
          if zero then
            s.modFlight c f.seq fun g =>
              { g with ph := .summed, skipAll := true, opnd := some (C.opndOf f), pred := none, mfl := 0, unsent := 0, clamped := sh.clamp }
          else
            let s := s.bump (COR_SPR_REISSUE c.toNat)
            let s := if s.records 6 then s.rplWrite 0x0B (toLe 2 c.toNat ++ toLe 1 (iarr f.w) ++ toLe 1 0 ++
              toLe 4 (s.rd UPD_EPOCH).toNat ++ toLe 8 f.pc) else s
            s.modFlight c f.seq fun g => { g with ph := .queued, pred := none }
        else
          let s := if zero then s.bump (COR_SPR_MISSED c.toNat) else s
          s.modFlight c f.seq fun g => { g with pred := none }
      else s) s

/-- A seed write that waited for the array applies once no operation ahead of it is left on it and no loan has it (R55, R337). -/
def State.applySeed (s : State) (c : CoreId) (a : Nat) : State :=
  let C := s.core c
  let A := C.array a
  match A.seedWait with
  | [] => s
  | (v, q) :: rest =>
    if A.lent || (C.before q).any fun f => isMtx f.w && (arrIx (iarr f.w)).val == a then s
    else
      let s := s.modCore c fun C => C.setArray a { A with seedWait := rest }
      let s := s.wr (COR_MTX_SEED c.toNat a) ((seedStore v).zeroExtend 64)
      s.rplSeed a 1 c.toNat (seedStore v)

end Sys2Proof.Machine
end

