-- ==== Sys2Proof/Machine/VectorOps.lean ====
section
/-!
DEFINITION. Sys2Proof/Machine/VectorOps.lean: what a vector, cross-lane, mask or conversion instruction does (R137 to R161,
R173 to R177), and the histogram unit that watches it (R91 to R95, R159).
-/
namespace Sys2Proof.Machine

/-- What the end of an instruction's write phase brings: tile bytes by offset, the zero-row mask, a mask register, a scale
register, a g register, flags, the conversion LFSR's draws, the samples seen, whether the shape was clamped, beats run. -/
structure VOut where
  tile : Option (BitVec 5 × List (Nat × List Byte) × ZMask) := none
  mask : Option (BitVec 3 × BitVec 4096) := none
  scale : Option (BitVec 3 × BitVec 1024) := none
  greg : Option (BitVec 5 × Word) := none
  flags : VFlags := 0
  draws : Nat := 0
  samples : List Nat := []
  clamp : Bool := false
  valClamp : Bool := false
  beats : Nat := 0
  deriving DecidableEq, Repr

/-- A source operand's element: its code, its format and its value in the class, with the flags of entering it (R138). -/
structure VSrc where
  code : Nat
  fmt : Fmt
  val : VVal
  flags : VFlags

/-- An element taken into a class: an integer in the integer class; in the 32-bit float class an INT32 element rounds to FP32
and raises NX when inexact (R138). -/
def vsrc (cls : VClass) (f : Fmt) (code : Nat) : VSrc :=
  match cls with
  | .i32 => ⟨code, f, .i (f.intValue code), 0⟩
  | _ =>
    if f.isInt then
      let (c, fl) := Fmt.fp32.ieee (XR.ofInt (f.intValue code))
      ⟨c, .fp32, .f (Fmt.fp32.value c), fl &&& .nx⟩
    else ⟨code, f, .f (f.value code), 0⟩

/-- Operand element (r, c) of a class 0x5 instruction in its mode (R141, R173). The operand's rows have the length of the
shape's columns in the operand's format. -/
def CoreSt.vElem (C : CoreSt) (w : Word) (cls : VClass) (mode : Nat) (reg : BitVec 5) (g : Word) (r c : Nat) : VSrc :=
  if mode = 3 then vsrc cls (if cls = .i32 then .int32 else .fp32) (g.toNat % 2 ^ 32)
  else
    let sf := fmtOf (w.extractLsb' 25 4)
    let rb := sf.rowBytes (shCols w)
    vsrc cls sf (C.elem reg sf rb (if mode = 1 then 0 else r) (if mode = 2 then 0 else c))

/-- The element of FP32 the histogram unit sees (R159). -/
def sampleOf (f : Fmt) (code : Nat) : Nat := if f.isInt then (Fmt.fp32.ieee (XR.ofInt (f.intValue code))).1 else f32Round (f.value code)

/-- Rows × columns in row-major order with their element numbers. -/
def grid (r c : Nat) : List (Nat × Nat × Nat) :=
  (List.range r).flatMap fun i => (List.range c).map fun j => (i, j, i * c + j)

/-- Elements per beat of a class (R137). -/
def perBeat : VClass → Nat
  | .f16 => 256
  | _ => 128

/-- The effective shape of a class 0x5 instruction (R142, R174). -/
def vecShape (w : Word) : Nat × Nat :=
  let df := fmtOf (shFmt w)
  let sf := fmtOf (w.extractLsb' 25 4)
  let modes := vecModes w
  let (r, c) := if iop w = 8 then (min (shRows w) (4096 / shCols w), shCols w) else effShape (shRows w) (shCols w) df 256 256
  let limR := modes.any fun m => m == 0 || m == 2
  if limR then
    let (r2, c2) := effShape (shRows w) (shCols w) sf 256 256
    (min r r2, min c c2)
  else (r, c)

/-- Whether element `i` is active (R151, R174). -/
def vecActive (C : CoreSt) (en : Bool) (m : BitVec 3) (i : Nat) : Bool := !en || (C.mask m).getLsbD i

/-- A class 0x5 instruction (R141 to R147, R151, R152, R155, R173, R174). -/
def CoreSt.runVec (C : CoreSt) (f : Flight) (mmnum flagAll : Bool) : VOut :=
  let w := f.w
  let op := iop w
  let cls := vecClass w
  let df := fmtOf (shFmt w)
  let (rows, cols) := vecShape w
  let sel := op == 9
  let en := ibit w 24 && !sel
  let mr := w.extractLsb' 21 3
  let a (r c : Nat) := C.vElem w cls (ibits w 44 43) (ireg w 45) f.a r c
  let b (r c : Nat) := C.vElem w cls (ibits w 37 36) (ireg w 38) f.b r c
  let x (r c : Nat) := C.vElem w cls (ibits w 30 29) (ireg w 31) f.c r c
  let keep (i : Nat) := vecActive C en mr i || flagAll
  let clamp := (rows, cols) != (shRows w, shCols w)
  let n := rows * cols
  let samples := if ibit w 55 && ibits w 44 43 == 0 && !sel then
    ((grid rows cols).filter fun e => vecActive C en mr e.2.2).map fun (r, c, _) =>
      let sf := fmtOf (w.extractLsb' 25 4)
      sampleOf sf (C.elem (ireg w 45) sf (sf.rowBytes (shCols w)) r c)
    else []
  let beats := (n + perBeat cls - 1) / perBeat cls
  if op = 8 then
    let m := w.extractLsb' 50 3
    let old := C.mask m
    let (bits, fl) := (grid rows cols).foldl (fun (acc : BitVec 4096 × VFlags) (r, c, i) =>
      let p := a r c; let q := b r c
      let (v, g) := vecCmp (ibits w 33 31) p.val q.val
      let act := vecActive C en mr i
      let bit := if act then v else if ibit w 20 then false else old.getLsbD i
      (if bit then acc.1 ||| (1 <<< i) else acc.1, if keep i then acc.2 ||| g ||| p.flags ||| q.flags else acc.2)) (0, 0)
    { mask := some (m, bits), flags := fl, clamp := clamp, beats := beats, samples := samples }
  else
    let res (r c i : Nat) : Nat × VFlags :=
      if sel then
        let p := if (C.mask mr).getLsbD i then b r c else x r c
        if p.fmt = df then (p.code, 0) else ((p.val.write df).1, 0)
      else if op = 0xA then let p := a r c; let (v, g) := vecUnary (ifn w) p.fmt df p.code p.val; (v, g ||| p.flags)
      else if op = 0xB then
        let p := a r c
        match p.val with
        | .f y => let (t, g) := trnExact (ifn w) y; let (v, h) := trnWrite (ifn w) (f32Round y) df t; (v, g ||| h ||| p.flags)
        | .i _ => (0, 0)
      else
        let p := a r c; let q := b r c
        let z := if op = 3 ∨ op = 4 ∨ op = 5 then x r c else p
        let (v, g) := vecOp op mmnum p.val q.val z.val
        let (o, h) := v.write df
        -- of the flags of their result MIN and MAX raise NV alone (R144)
        let fl := g ||| h
        (o, (if op = 6 ∨ op = 7 then fl &&& .nv else fl) ||| p.flags ||| q.flags ||| z.flags)
    let rb := df.rowBytes (shCols w)
    let out := (List.range rows).map fun r => (List.range cols).map fun c =>
      let i := r * cols + c
      let (v, g) := res r c i
      let act := vecActive C en mr i
      (if act then some v else if ibit w 20 then some 0 else none, if keep i then g else 0)
    let td := ireg w 50
    let final := (out.zip (List.range rows)).map fun (es, r) => (es.zip (List.range cols)).map fun ((v, _), c) =>
      v.getD (C.elem td df rb r c)
    { tile := some (td, (final.zip (List.range rows)).map fun (es, r) => (r * rb, packRow df es), ⟨rb, rows, zeroRows df final⟩)
      flags := out.foldl (fun fl es => es.foldl (fun fl e => fl ||| e.2) fl) 0
      clamp := clamp, beats := beats, samples := samples }

/-- A reduction of class 0x6 (R148, R149, R151, R155, R175). -/
def CoreSt.runRed (C : CoreSt) (f : Flight) (mmnum flagAll : Bool) : VOut :=
  let w := f.w
  let op := iop w
  let fn := ibits w 55 53
  let sf := fmtOf (shFmt w)
  let df := fmtOf (w.extractLsb' 34 4)
  let cls := if op = 2 then vclassOf [sf] else vclassOf [sf, df]
  let (rows, cols) := effShape (shRows w) (shCols w) sf 256 256
  let rb := sf.rowBytes (shCols w)
  let en := ibit w 33
  let mr := w.extractLsb' 30 3
  let src (r c : Nat) := vsrc cls sf (C.elem (ireg w 43) sf rb r c)
  let groups : List (List (Nat × Nat × Nat)) :=
    if op = 0 then (List.range rows).map fun r => (List.range cols).map fun c => (r, c, r * cols + c)
    else if op = 1 then (List.range cols).map fun c => (List.range rows).map fun r => (r, c, r * cols + c)
    else [grid rows cols]
  let one (g : List (Nat × Nat × Nat)) : Nat × Int × VFlags :=
    let vs := g.map fun (r, c, i) => (src r c, vecActive C en mr i)
    -- a signalling NaN raises NV as it enters (R145); an inactive element's widening and leaf raise flags under FLAG_ALL alone (R155)
    let side := vs.foldl (fun fl (v, act) =>
      if act then fl ||| v.flags ||| (match v.val with | .f y => VFlags.when y.isSig .nv | .i _ => 0)
      else if flagAll then fl ||| v.flags ||| (match v.val with
        | .i k => (redLeafInt fn k).2
        | .f y => (redLeaf fn (f32Round y)).2 ||| VFlags.when y.isSig .nv) else fl) (0 : VFlags)
    if cls = .i32 then
      let (v, fl) := reduceList (redStepInt fn) (redLeafInt fn) (redIdInt fn) (vs.map fun (v, act) =>
        if act then match v.val with | .i k => some k | .f _ => some 0 else none)
      (0, v, fl ||| side)
    else
      let (v, fl) := reduceList (redStep fn mmnum) (redLeaf fn) (redId fn) (vs.map fun (v, act) =>
        if act then match v.val with
          | .f y => some (if y.isNan then 0x7FC00000 else if v.fmt = .fp32 then v.code else f32Round y)
          | .i _ => some 0 else none)
      (v, 0, fl ||| side)
  let res := groups.map one
  let sideFl := res.foldl (fun fl r => fl ||| r.2.2) (0 : VFlags)
  let clampS := (rows, cols) != (shRows w, shCols w)
  let beats := (rows * cols + perBeat cls - 1) / perBeat cls
  let empty := rows = 0
  if op = 2 then
    let v : Word := match res with
      | (fv, iv, _) :: _ => if cls = VClass.i32 then BitVec.ofInt 64 iv else BitVec.ofNat 64 fv
      | [] => 0
    { greg := if empty then none else some (ireg w 48, v), flags := sideFl, clamp := clampS, beats := beats }
  else
    let dlen := ibits w 28 21 + 1
    let outs := (res.take dlen).map fun (fv, iv, _) => (if cls = VClass.i32 then VVal.i iv else .f (Fmt.fp32.value fv)).write df
    let codes := outs.map (·.1)
    let fl := outs.foldl (fun fl o => fl ||| o.2) sideFl
    let rows' : List (List Nat) := if op = 0 then codes.map fun c => [c] else [codes]
    let rbd := if op = 0 then df.rowBytes 1 else df.rowBytes codes.length
    { tile := if empty then none else
        some (ireg w 48, [(0, (rows'.map (packRow df)).flatten)], ⟨rbd, rows'.length, zeroRows df rows'⟩)
      flags := fl, clamp := clampS || decide (dlen < res.length), beats := beats }

/-- The lowest set bit of a mask below `n`, or `n` (R153). -/
def firstSet (m : BitVec 4096) : Nat := ((List.range 4096).find? fun i => m.getLsbD i).getD 4096
/-- The number of set bits of a mask. -/
def popCount (m : BitVec 4096) : Nat := ((List.range 4096).filter fun i => m.getLsbD i).length

/-- A mask instruction of class 0x6 (R153, R175). -/
def CoreSt.runMask (C : CoreSt) (f : Flight) : VOut :=
  let w := f.w
  let a := C.mask (w.extractLsb' 43 3)
  let b := C.mask (w.extractLsb' 38 3)
  let md := w.extractLsb' 48 3
  match iop w with
  | 0x8 => { mask := some (md, a &&& b) }
  | 0x9 => { mask := some (md, a ||| b) }
  | 0xA => { mask := some (md, a ^^^ b) }
  | 0xB => { mask := some (md, a &&& ~~~b) }
  | 0xC => { mask := some (md, ~~~a) }
  | 0xD =>
    let n := min f.a.toNat 4096
    { mask := some (md, BitVec.ofNat 4096 (2 ^ n - 1)), valClamp := decide (4096 < f.a.toNat) }
  | 0xE => { greg := some (ireg w 48, BitVec.ofNat 64 (popCount a)) }
  | _ => { greg := some (ireg w 48, BitVec.ofNat 64 (firstSet a)) }

/-- Destinations that draw from the conversion LFSR (R177). -/
def cvtDraws (f : Fmt) : Bool := !f.isInt && f != .fp32

/-- Flags of a class 0xA element: float into INT32 saturating or NaN is NV, an integer saturating is OF (R147, R176). -/
def cvtFlags (src df : Fmt) (o : CvtOut) : VFlags :=
  if df.isInt && src.isInt && o.isat then VFlags.of else o.flags

/-- An element's conversion: scaled by 2^(−k), or a NaN when the scale byte is 0xFF (R176). -/
def cvtElem (src df : Fmt) (md : Rnd) (k : Option Int) (code : Nat) : Nat × VFlags :=
  match k with
  | none => let o := df.convert md (.nan false); (o.code, o.flags ||| .nv)
  | some k => let o := df.convert md ((src.value code).scale (-k)); (o.code, cvtFlags src df o)

/-- emax of CVTMX (R176); for the formats that R176 gives none it is free. -/
def mxEmax : Fmt → Int
  | .e4m3 => 8
  | .e5m2 => 15
  | .e3m2 => 4
  | .e2m3 | .e2m1 | .int4 => 2
  | .int8 => 6
  | f => Config.mxEmax f.bits

/-- The scale byte of a block: floor(log₂ amax) − emax + 127 clamped to 0–254; 127 without a non-zero finite element. -/
def mxScale (df : Fmt) (xs : List XR) : Nat :=
  let tops := xs.filterMap fun x => match x with
    | .num _ m e => if m = 0 then none else some (e + (bitLen m : Int) - 1)
    | _ => none
  match tops with
  | [] => 127
  | t :: ts => (max 0 (min 254 (ts.foldl max t - mxEmax df + 127))).toNat

/-- A class 0xA conversion, CVT or CVTMX (R176, R177); `seed` is the conversion LFSR. -/
def CoreSt.runCvt (C : CoreSt) (f : Flight) (seed : BitVec 32) : VOut × BitVec 32 :=
  let w := f.w
  let mx := iop w == 1
  let df := fmtOf (shFmt w)
  let sf := fmtOf (w.extractLsb' 42 4)
  let oddCols := df.isNibble || sf.isNibble
  let cols0 := if oddCols && shCols w % 2 == 1 then shCols w - 1 else shCols w
  let (r1, c1) := effShape (shRows w) (shCols w) df 256 256
  let (r2, c2) := effShape (shRows w) (shCols w) sf 256 256
  let cols := min (min c1 c2) cols0
  let B := (cols + 31) / 32
  let rows := if cols = 0 then 0 else if mx then min (min r1 r2) (128 / B) else min r1 r2
  let rbs := sf.rowBytes (evenCols sf (shCols w))
  let rbd := df.rowBytes (evenCols df (shCols w))
  let src (r c : Nat) := C.elem (ireg w 46) sf rbs r c
  let sig := f.a.toNat % 256
  let uni : Option Int := if !ibit w 40 then some 0 else if sig = 0xFF then none else some ((sig : Int) - 127)
  let scales := (List.range rows).map fun r => (List.range B).map fun b =>
    mxScale df (((List.range cols).drop (32 * b)).take 32 |>.map fun c => sf.value (src r c))
  let k (r c : Nat) : Option Int := if mx then some ((((scales.getD r []).getD (c / 32) 127 : Nat) : Int) - 127) else uni
  let (out, fl, s) := (List.range rows).foldl (fun (acc : List (List Nat) × VFlags × BitVec 32) r =>
    let (es, fl, s) := (List.range cols).foldl (fun (acc : List Nat × VFlags × BitVec 32) c =>
      let (es, fl, s) := acc
      let s' := if cvtDraws df then lfsrNext s else s
      let md := if cvtDraws df && ibit w 41 then Rnd.stoch (lfsrRnd s) else .near
      let (v, g) := cvtElem sf df md (k r c) (src r c)
      (es ++ [v], fl ||| g, s')) ([], acc.2.1, acc.2.2)
    (acc.1 ++ [es], fl, s)) ([], 0, seed)
  let sreg := w.extractLsb' 37 3
  let sbits := (scales.flatten.zip (List.range (rows * B))).foldl (fun (v : BitVec 1024) (x, i) =>
    (v &&& ~~~(BitVec.ofNat 1024 (255 * 2 ^ (8 * i)))) ||| BitVec.ofNat 1024 (x * 2 ^ (8 * i))) (C.scaleOf sreg)
  ({ tile := if rows = 0 then none else
       some (ireg w 51, (out.zip (List.range rows)).map fun (es, r) => (r * rbd, packRow df es), ⟨rbd, rows, zeroRows df out⟩)
     scale := if mx && rows != 0 then some (sreg, sbits) else none
     flags := fl
     clamp := (rows, cols) != (shRows w, shCols w)
     samples := ((grid rows cols).map fun (r, c, _) => sampleOf sf (src r c))
     beats := (rows * cols + perBeat (vclassOf [sf, df]) - 1) / perBeat (vclassOf [sf, df]) }, s)

/-- SCLD, SCST and SCSET (R176). -/
def CoreSt.runScale (C : CoreSt) (f : Flight) : VOut :=
  let w := f.w
  let row := min (ibits w 31 24) 31
  let clamp := decide (31 < ibits w 31 24)
  let sreg := w.extractLsb' 37 3
  match iop w with
  | 2 => { scale := some (sreg, BitVec.ofNat 1024 (leNat (C.tileBytes (ireg w 46) (row * 128) 128))), clamp := clamp }
  | 3 =>
    let bs := toLe 128 (C.scaleOf sreg).toNat
    -- the tile's mask tells of the row written alone (DESIGN CHOICE: R116 does not say what a single row leaves of the others)
    { tile := some (ireg w 51, [(row * 128, bs)],
        ⟨128, row + 1, if bs.all (· == 0) then BitVec.ofNat 256 (2 ^ row) else 0⟩), clamp := clamp }
  | _ => { scale := some (sreg, BitVec.ofNat 1024 (f.a.toNat % 256 * ((2 ^ 1024 - 1) / 255))) }

/-- What the instruction `f` brings when it ends, and the conversion LFSR after it. -/
def State.vecResult (s : State) (c : CoreId) (f : Flight) : VOut × BitVec 32 :=
  let C := s.core c
  let ctl := s.rd (COR_VEC_CTL c.toNat)
  let mm := COR_VEC_CTL.MMNUM.get ctl == 1
  let fa := COR_VEC_CTL.FLAG_ALL.get ctl == 1
  let seed := (s.rd (COR_CVT_SEED c.toNat)).extractLsb' 0 32
  match iclass f.w with
  | 0x5 => (C.runVec f mm fa, seed)
  | 0x6 => (if iop f.w < 3 then C.runRed f mm fa else C.runMask f, seed)
  | _ => if iop f.w < 2 then C.runCvt f seed else (C.runScale f, seed)

/-! ### The histogram unit -/

/-- The bin of an FP32 element (R92). With EBASE 0 a subnormal has E = EB and falls into bin 2 (DESIGN CHOICE: R92's bin 1 holds the
values with E < EB, "subnormals included", and no E is below 0). -/
def histBin (ebase code : Nat) : Nat :=
  let e := code / 2 ^ 23 % 256
  if code % 2 ^ 31 = 0 then 0
  else if e < ebase then 1
  else if e ≤ ebase + 60 ∧ e ≠ 255 then e - ebase + 2
  else 63

/-- Whether the record area of a core's histogram unit lies in bonded SRAM (R94, R95). -/
def histAreaOk (base : Word) : Bool :=
  let a := COR_HST_BASE.ADDR.get base * 256
  decide (0x100000000000 ≤ a) && decide (a + COR_HST_BASE.LAYERS.get base * 256 ≤ 0x100400000000)

/-- ADDRERR raised while EN is set over an area outside bonded SRAM (R95). -/
def State.histCheck (s : State) (c : CoreId) : State :=
  if s.bit (COR_HST_CTL c.toNat) COR_HST_CTL.EN && !histAreaOk (s.rd (COR_HST_BASE c.toNat)) then
    s.setFld (COR_HST_STATUS c.toNat) COR_HST_STATUS.ADDRERR 1
  else s

/-- Samples counted into the live counters, with the running counter's advance (R91, R93, R95). Of every 2^SAMPLE elements counted
since the launch the first is taken (DESIGN CHOICE: R91 says every 2^k-th and not which of them). -/
def State.sample (s : State) (c : CoreId) (es : List Nat) : State :=
  let ctl := s.rd (COR_HST_CTL c.toNat)
  let base := s.rd (COR_HST_BASE c.toNat)
  if COR_HST_CTL.EN.get ctl = 0 then s
  else if s.bit (COR_HST_STATUS c.toNat) COR_HST_STATUS.ADDRERR then s
  else
    let k := 2 ^ COR_HST_CTL.SAMPLE.get ctl
    let eb := COR_HST_CTL.EBASE.get ctl
    let tag := COR_HST_TAG.TAG.get (s.rd (COR_HST_TAG c.toNat))
    let C := s.core c
    let taken := ((es.zip (List.range es.length)).filter fun (_, i) => (C.histCount + i) % k == 0).map (·.1)
    let s := s.setCore c { C with histCount := C.histCount + es.length }
    if taken.isEmpty ∨ tag = 0xFFFF then s
    else if COR_HST_BASE.LAYERS.get base ≤ tag then s.setFld (COR_HST_STATUS c.toNat) COR_HST_STATUS.TAGRANGE 1
    else
      let s := s.bump (COR_HST_SAMPLES c.toNat) taken.length
      taken.foldl (fun s e =>
        let b := histBin eb e
        let v := (s.core c).hist.get (fun _ => 0) b
        if 2 ^ 32 - 1 ≤ v then s.setFld (COR_HST_STATUS c.toNat) COR_HST_STATUS.HSAT 1
        else s.modCore c fun C => { C with hist := C.hist.set (fun _ => 0) b (v + 1) }) s

/-- Whether the vector instruction `f` at the queue head may begin: the tiles, masks and scale registers it names allow it (R154,
R183). -/
def CoreSt.vecReady (C : CoreSt) (f : Flight) : Bool :=
  (tileReads f.w).all (C.mayRead f.seq) && (tileWrites f.w).all (C.mayWrite f.seq) && C.masksOk f.seq f.w && C.scalesOk f.seq f.w

/-- The head of the vector queue. -/
def CoreSt.vecHead (C : CoreSt) : Option Flight := C.fl.find? fun f => unitOf f.w == .vec && !f.gone

/-- Clocks in which a vector instruction has waited for tile-file slots: none when nothing else uses the tile file, else a free
number (R107, R157, R161; the model has no clock for slot grants). -/
def State.slotWait (s : State) (c : CoreId) : State :=
  if (s.core c).fl.any fun g => (isTileLoad g.w || isStore g.w || isMtx g.w || iclass g.w == 7) && g.ph != .queued && !g.gone then
    let (v, s) := s.take
    s.bump (COR_VEC_SLOTWAIT c.toNat) v
  else s

/-- Beats of the vector instruction at the queue head that an interrupt breaks off, as far as it had come: a free number up to its
beats (R160; how far it had come is not given). -/
def State.lostBeats (s : State) (c : CoreId) : State :=
  match (s.core c).vecHead with
  | none => s
  | some f =>
    let n := if (s.core c).vecReady f then (s.vecResult c f).1.beats else 0
    if n = 0 then s else let (v, s) := s.take; s.bump (COR_VEC_BEATS c.toNat) (v % (n + 1))

/-- An instruction of the vector engine ends its write phase (R143, R150, R155 to R160). -/
def State.vecFinish (s : State) (c : CoreId) (f : Flight) : State :=
  let (o, seed) := s.vecResult c f
  let s := s.modCore c fun C =>
    let C := match o.tile with
      | some (t, rows, z) => (rows.foldl (fun C (off, bs) => C.setTile t off bs) C).setZm t z
      | none => C
    let C := match o.mask with | some (m, v) => C.setMask m v | none => C
    let C := match o.scale with | some (m, v) => C.setScale m v | none => C
    match o.greg with | some (r, v) => C.setRg r v | none => C
  let s := s.wr (COR_CVT_SEED c.toNat) (seed.zeroExtend 64)
  let s := s.orVflags c o.flags
  let s := if o.clamp then s.shapeClamp c else s
  let s := if o.valClamp then s.valClamp c else s
  let s := s.sample c o.samples
  let s := (s.slotWait c).bump (COR_VEC_OPS c.toNat)
  let s := if o.beats = 0 then s else s.bump (COR_VEC_BEATS c.toNat) o.beats
  s.complete c f.seq

end Sys2Proof.Machine
end

