-- ==== Sys2Proof/Machine/Mesh.lean ====
section
/-!
DEFINITION. Sys2Proof/Machine/Mesh.lean: routes on the 32 × 32 mesh, the stops of the I/O ring, packets with the flit counters along
their way (R262 to R269) and the pacers that let them in (R271), and fenced cores (R284, R285).
-/
namespace Sys2Proof.Machine

/-- Global X of a router (R268). -/
def gX (c : CoreId) : Nat := if c.toNat / 256 % 2 = 0 then meshX c else 31 - meshX c

/-- Global Y of a router (R268). -/
def gY (c : CoreId) : Nat := if c.toNat / 512 = 0 then meshY c else 31 - meshY c

/-- The router at a global coordinate (R268). -/
def routerAt (X Y : Nat) : CoreId :=
  coreAt (BitVec.ofNat 2 (X / 16 + 2 * (Y / 16))) (if X < 16 then X else 31 - X) (if Y < 16 then Y else 31 - Y)

/-- The output port and the next router on the way from `c` to `d`, along X and then along Y (R269); none at `d`. Ports: 0
north, 1 east, 2 south, 3 west (R262). -/
def nextHop (c d : CoreId) : Option (Nat × CoreId) :=
  let (x, y, x', y') := (gX c, gY c, gX d, gY d)
  if x < x' then some (if x < 16 then 1 else 3, routerAt (x + 1) y)
  else if x' < x then some (if x < 16 then 3 else 1, routerAt (x - 1) y)
  else if y < y' then some (if y < 16 then 2 else 0, routerAt x (y + 1))
  else if y' < y then some (if y < 16 then 0 else 2, routerAt x (y - 1))
  else none

/-- A counter of a router advanced. -/
def State.bumpRt (s : State) (reg : Nat → Nat → Nat) (c : CoreId) (n : Nat := 1) : State :=
  s.bump (reg (c.toNat / 256) (c.toNat % 256)) n

/-- `n` flits leave router `c` by output port `p`. -/
def State.flitOut (s : State) (c : CoreId) (p n : Nat) : State :=
  s.bump (NOC_RT_FLITS (c.toNat / 256) (c.toNat % 256) p) n

/-- A packet of `n` flits from router `c` to router `d`, leaving there by port `out` (R269). -/
def State.flits (s : State) (c d : CoreId) (out n : Nat) : State :=
  let rec go : Nat → State → CoreId → State
    | 0, s, _ => s
    | k + 1, s, c =>
      match nextHop c d with
      | some (p, c') => go k (s.flitOut c p n) c'
      | none => s.flitOut c out n
  go 64 s c

/-- The links from a router to another, as router × 8 + port (R269). -/
def routeLinks (c d : CoreId) : List Nat :=
  let rec go : Nat → CoreId → List Nat
    | 0, _ => []
    | k + 1, c => match nextHop c d with
      | some (p, c') => (c.toNat * 8 + p) :: go k c'
      | none => []
  go 64 c

/-- The input port at which a packet from `c` reaches router `d`: the local port where they are one; a die-to-die link joins two ports
of one side (R24, R262). -/
def inPort (c d : CoreId) : Nat :=
  match (routeLinks c d).getLast? with
  | none => 4
  | some l => if BitVec.ofNat 2 (l / 8 / 256) = dieOf d then (l % 8 + 2) % 4 else l % 8

/-! ### Where packets enter and leave the mesh -/

/-- A place where packets enter and leave the mesh: its router, the router's port toward it, and its pacer there, numbered as
`pacerReg` numbers them (R25, R262, R271). -/
structure Ep where
  r : CoreId
  out : Nat
  pace : Nat
  deriving DecidableEq, Repr

/-- The local port of a router: a core, its SRAM window, a part of its cluster's slice (R262, R292). -/
def coreEp (c : CoreId) : Ep := ⟨c, 4, 2 * (c.toNat % 256)⟩
/-- The bank above a core (R21). -/
def bankEp (b : Nat) : Ep := ⟨BitVec.ofNat 10 b, 5, 2 * (b % 256) + 1⟩
/-- A die's control complex (R25). -/
def ccEp (d : DieId) : Ep := ⟨coreAt d 0 0, 0, 512⟩
/-- A die's twin port. -/
def twinEp (d : DieId) : Ep := ⟨coreAt d 0 0, 3, 513⟩
/-- The CXL stop. -/
def cxlEp : Ep := ⟨coreAt 0 1 0, 0, 514⟩
/-- Memory-controller stop `m` of a die. -/
def mcEp (d : DieId) (m : Nat) : Ep :=
  if m < 4 then ⟨coreAt d (2 + 4 * m) 0, 0, 515 + m⟩ else ⟨coreAt d 0 (2 + 4 * (m - 4)), 3, 515 + m⟩
/-- Fabric port `p` of a die. -/
def portEp (d : DieId) (p : Nat) : Ep :=
  if p < 3 then ⟨coreAt d (4 + 4 * p) 0, 0, 523 + p⟩ else ⟨coreAt d 0 (4 + 4 * (p - 3)), 3, 523 + p⟩
/-- A region's update engine: at a router of its region that the spec does not name. -/
def updEp (r : RegionId) : Ep := ⟨BitVec.ofNat 10 (r.toNat * 64 + Config.updRouter r.toNat % 64), 4, 529 + r.toNat % 4⟩

/-- Where the tier of an address meets the mesh (R21, R25, R262). -/
def State.tierEp (s : State) (a : Nat) : Ep :=
  match s.place a with
  | .bonded b => bankEp b
  | .window c _ => coreEp (BitVec.ofNat 10 c)
  | .lpddr => let n := (s.chanOf a).1; mcEp (BitVec.ofNat 2 (n / 32)) (n / 4 % 8)
  | _ => cxlEp

/-- The stop at which a die's DMA and stream engines reach the mesh for a line (R25): the line's own controller where it is the die's;
else the eight take lines in turn (a DESIGN CHOICE, in the log). -/
def State.engEp (s : State) (d : DieId) (a : Nat) : Ep :=
  match s.place a with
  | .lpddr => if BitVec.ofNat 2 ((s.chanOf a).1 / 32) = d then mcEp d ((s.chanOf a).1 / 4 % 8) else mcEp d (a / 256 % 8)
  | _ => mcEp d (a / 256 % 8)

/-! ### Fencing -/

/-- Whether a core is fenced or fused off (R284, R286). -/
def State.fenced (s : State) (c : CoreId) : Bool :=
  !s.enabled c || s.bit (NOC_RT_CTL (c.toNat / 256) (c.toNat % 256)) NOC_RT_CTL.FENCE

/-- A request or message to a fenced core is answered FENCED and counted (R285). -/
def State.countFenced (s : State) (c : CoreId) : State := s.bumpRt NOC_RT_FENCED c

/-! ### Pacers (R271) -/

/-- An injector's pacer register: `p` < 512 the local (even) and vertical (odd) ports of router p ÷ 2, and 512 + s stop s. -/
def pacerReg (d p : Nat) : Nat :=
  if p < 512 then (if p % 2 = 0 then NOC_RT_PACE_L d (p / 2) else NOC_RT_PACE_V d (p / 2)) else NOC_PACE_STOP d (p - 512)

/-- The tokens of an injector; a bucket that nothing has used is full. -/
def State.tokensOf (s : State) (d p : Nat) : Nat :=
  min (s.noc.tokens.get (fun _ => 64) (d * 1024 + p)) (s.fld (pacerReg d p) NOC_RT_PACE_L.BURST)

/-- Whether a packet of `n` flits waits at its injector for tokens (R271). -/
def State.paced (s : State) (e : Ep) (n : Nat) : Bool :=
  s.bit (pacerReg (e.r.toNat / 256) e.pace) NOC_RT_PACE_L.EN && decide (s.tokensOf (e.r.toNat / 256) e.pace < n)

/-- A packet of `n` flits takes its tokens. -/
def State.spend (s : State) (e : Ep) (n : Nat) : State :=
  let d := e.r.toNat / 256
  if s.bit (pacerReg d e.pace) NOC_RT_PACE_L.EN then
    { s with noc := { s.noc with tokens := s.noc.tokens.set (fun _ => 64) (d * 1024 + e.pace) (s.tokensOf d e.pace - n) } }
  else s

/-- Whether two places are one memory-controller stop: what an engine and the controller at its own stop exchange crosses no link. -/
def Ep.atStop (e e' : Ep) : Bool := e == e' && decide (515 ≤ e.pace) && decide (e.pace < 523)

/-- A packet of `n` flits from one place to another. -/
def State.send (s : State) (e e' : Ep) (n : Nat) : State := if e.atStop e' then s else (s.spend e n).flits e.r e'.r e'.out n

/-- A control message, of one flit, which takes no tokens (R264, R271). -/
def State.ctrl (s : State) (e e' : Ep) : State := if e.atStop e' then s else s.flits e.r e'.r e'.out 1

/-- The flits of a write of `n` bytes (R264). -/
def writeFlits (n : Nat) : Nat := 1 + (n + 63) / 64

/-- A bucket gains RATE tokens up to BURST. -/
def State.refill (s : State) (d p : Nat) : State :=
  let r := pacerReg d p
  let t := min (s.tokensOf d p + s.fld r NOC_RT_PACE_L.RATE) (s.fld r NOC_RT_PACE_L.BURST)
  { s with noc := { s.noc with tokens := s.noc.tokens.set (fun _ => 64) (d * 1024 + p) t } }

end Sys2Proof.Machine
end

