-- ==== Sys2Proof/Machine/Sorter.lean ====
section
/-!
DEFINITION. Sys2Proof/Machine/Sorter.lean: miss registers, the cluster request sorter and lottery arbitration (R241 to
R249, R255 to R259).
-/
namespace Sys2Proof.Machine

/-! ### Lottery arbitration -/

/-- The table of an arbiter instance, numbered as for ARB_SEED_i (R255, R260). -/
def arbTable (i : Nat) : Nat := if i < 256 then 0 else if i < 264 then 1 else if i < 272 then 2 else if i = 272 then 3 else 4
/-- The number of requester slots of a table (R255, R256). -/
def arbSlots (t : Nat) : Nat := if t = 0 ∨ t = 2 then 28 else if t = 1 then 6 else if t = 3 then 257 else 4
/-- The ticket register of a slot of an instance; table 4 keeps four slots per region (R260). -/
def arbTkt (d i s : Nat) : Nat := ARB_TKT d (arbTable i) (if arbTable i = 4 then (i - 273) * 4 + s else s)

/-- The outcome of a draw: the slot granted, the LFSR after it, the round-robin pointers after it (R257, R258). -/
def drawSlot (tk cls : Nat → Nat) (asking : List Nat) (seed : BitVec 32) (rr : Tab Nat) (slots : Nat) :
    Option Nat × BitVec 32 × Tab Nat :=
  let c := asking.foldl (fun m s => max m (cls s)) 0
  let live := (List.range slots).filter fun s => asking.contains s && cls s == c
  let pos := live.filter fun s => decide (0 < tk s)
  match pos with
  | [] =>
    let p := rr.get (fun _ => slots - 1) c
    let g := (live.find? fun s => decide (p < s)).or live.head?
    (g, seed, match g with | some g => rr.set (fun _ => slots - 1) c g | none => rr)
  | [s] => (some s, seed, rr)
  | _ =>
    let T := (pos.map tk).sum
    let x := lfsrRnd seed * T / 65536
    let rec walk : List Nat → Nat → Option Nat
      | [], _ => pos.getLast?
      | s :: ss, x => if x < tk s then some s else walk ss (x - tk s)
    (walk pos x, lfsrNext seed, rr)

/-- A wait counter's new value and whether it has reached the threshold (R259). -/
def waitStep (thr old : Nat) : Nat × Bool := (min (old + 1) 65535, decide (old < thr) && decide (thr ≤ min (old + 1) 65535))

/-- A starvation report (R259): the slot's bit, the record, the count, the interrupt. -/
def State.starve (s : State) (d : DieId) (i slot : Nat) : State :=
  let n := d.toNat
  let t := arbTable i
  let sl := if t = 4 then (i - 273) * 4 + slot else slot
  let map := ARB_STARVE_MAP n t (sl / 64)
  let s := s.wr map (s.rd map ||| (1 <<< (sl % 64)))
  let r := ARB_STARVE_REC.VALID.put (ARB_STARVE_REC.TABLE.put (ARB_STARVE_REC.INST.put (ARB_STARVE_REC.SLOT.put 0 sl) i) t) 1
  let s := (s.wr (ARB_STARVE_REC n) r).bump (ARB_STARVE_CNT n)
  if s.bit (ARB_CTL n) ARB_CTL.STARVE_IEN then s.emit (.dieInt d 0) else s

/-- One draw of an arbiter instance (R257 to R259): the state after it and the slot granted. A slot the table does not have
never asks. -/
def State.draw (s : State) (w : Draw) : State × Option Nat :=
  let i := w.inst.toNat
  let d := w.d.toNat
  let slots := arbSlots (arbTable i)
  let ask := w.asking.filter fun a => decide (a.1.toNat < slots)
  if 277 ≤ i ∨ ask.isEmpty then (s, none)
  else
    let tk (x : Nat) := ARB_TKT.TICKETS.get (s.rd (arbTkt d i x))
    let cls (x : Nat) := ask.foldl (fun m a => if a.1.toNat = x then max m a.2.toNat else m) (ARB_TKT.CLASS.get (s.rd (arbTkt d i x)))
    let A := (s.die w.d).arb.get (fun _ => {}) i
    let seed := (s.rd (ARB_SEED d i)).extractLsb' 0 32
    let (g, seed', rr) := drawSlot tk cls (ask.map fun a => a.1.toNat) seed A.rr slots
    let s := s.wr (ARB_SEED d i) (seed'.zeroExtend 64)
    let thr := s.fld (ARB_STARVE_THR d) ARB_STARVE_THR.THR
    let (wt, hits) := ask.foldl (fun (acc : Tab Nat × List Nat) a =>
      let x := a.1.toNat
      if some x = g then (acc.1.set (fun _ => 0) x 0, acc.2)
      else
        let (v, hit) := waitStep thr (acc.1.get (fun _ => 0) x)
        (acc.1.set (fun _ => 0) x v, if hit then acc.2 ++ [x] else acc.2)) (A.wait, [])
    let s := s.modDie w.d fun D => { D with arb := D.arb.set (fun _ => {}) i ⟨rr, wt⟩ }
    (hits.foldl (fun s x => s.starve w.d i x) s, g)

/-! ### Targets -/

/-- The target of a line (R243). -/
def State.targetOf (s : State) (line : Nat) : Target :=
  match s.place line with
  | .bonded b => .bank b
  | .lpddr => .channel (s.chanOf line).1
  | .window c _ => .window c
  | _ => .host

/-- Whether a lottery stands before a target (R255). -/
def Target.drawn : Target → Bool
  | .bank _ | .channel _ => true
  | _ => false

/-- Whether a target lies behind an arbiter instance of a die (R255, R260): its bank port, the router port toward its controller's stop,
or its controller. -/
def Target.behind (d : DieId) (i : Nat) : Target → Bool
  | .bank b => decide (b = d.toNat * 256 + i)
  | .channel n => decide (256 ≤ i) && decide (i < 272) && decide (n / 4 = d.toNat * 8 + i % 8)
  | _ => false

/-- The slot a request takes at an instance of die `d` (R255, R256): at a router port the input it comes by; elsewhere `own` from die `d`
and 24 + e from die `e`. -/
def reqSlot (d : DieId) (i : Nat) (r : CoreId) (own : Nat) : Nat :=
  if 256 ≤ i ∧ i < 264 then inPort r (mcEp d (i % 8)).r else if dieOf r = d then own else 24 + (dieOf r).toNat

/-! ### The sorter -/

/-- A sorter entry sent, with the row-hit bookkeeping of an LPDDR5X queue (R248): its request of one flit leaves the first requester's
router (R264), once it has a token (R271). What no controller stands before is admitted with it. -/
def State.sendEntry (s : State) (k : ClusterId) (line : Nat) : State :=
  let S := s.sorter k
  match S.entries.find? fun e => e.line == line && !e.sent with
  | none => s
  | some e =>
    match e.cores with
    | [] => s.setSorter k { S with entries := S.entries.erase e }
    | c :: _ =>
      if s.paced (coreEp c) 1 then s
      else
        let s := s.send (coreEp c) (s.tierEp line) 1
        let adm := match e.target with | .channel _ => false | _ => true
        let S : SorterSt := { S with entries := modFirst (fun x => x.line == line && !x.sent) (fun x => { x with sent := true, adm := adm }) S.entries }
        match e.target with
        | .channel n =>
          let (_, bank, row) := s.chanOf line
          let L := S.last.get (fun _ => ({} : LastSent)) n
          let hit := decide (0 < L.run) && L.bank == bank && L.row == row
          let s := if hit then s.bump (CLU_SORT_ROWHIT k.toNat) else s
          s.setSorter k { S with last := S.last.set (fun _ => {}) n ⟨bank, row, if hit then L.run + 1 else 1⟩ }
        | _ => s.setSorter k S

/-- The line a queue sends next (R248): one that has waited AGE_MAX; else by age, but toward LPDDR5X requests on the page of the last
one sent first, up to ROW_BURST of them. -/
def State.nextLine (s : State) (k : ClusterId) (t : Target) : Option Nat :=
  let S := s.sorter k
  let q := S.entries.filter fun e => e.target == t && !e.sent
  let oldest := q.head?.map (·.line)
  let byPage := match t with
    | .channel n =>
      let L := S.last.get (fun _ => {}) n
      if 0 < L.run ∧ L.run < s.fld (CLU_SORT_CTL k.toNat) CLU_SORT_CTL.ROW_BURST then
        ((q.find? fun e => (s.chanOf e.line).2 == (L.bank, L.row)).map (·.line)).or oldest
      else oldest
    | _ => oldest
  ((q.find? (·.aged)).map (·.line)).or byPage

/-- The requests of a cluster that no lottery stands before leave. -/
def State.sendFree (s : State) (k : ClusterId) : State :=
  ((s.sorter k).entries.filter fun e => !e.sent && !e.target.drawn).foldl (fun s e => s.sendEntry k e.line) s

/-! ### What the draws let in (R255 to R257) -/

/-- A request that a draw may let in: a line of a cluster's sorter, or of a block of a die's DMA or stream engine. -/
inductive Req
  | sorter (k : ClusterId) (line : Nat)
  | eng (d : DieId) (blk pa : Nat)
  deriving DecidableEq, Repr

/-- Requests in the controller queue of an LPDDR5X channel (R255). -/
def State.queueLen (s : State) (n : Nat) : Nat :=
  (s.sorters.map fun e => (e.2.entries.filter fun x => x.adm && x.target == .channel n).length).sum +
  (s.dies.map fun e => (e.2.lines.filter fun l => l.st == .queue && s.targetOf l.pa == .channel n).length).sum

/-- Whether a controller queue has a free one of its 64 entries for a target (R255). -/
def State.queueRoom (s : State) : Target → Bool
  | .channel n => decide (s.queueLen n < 64)
  | _ => true

/-- What the sorters present to a slot of an instance: at a controller the oldest request that has passed the router's port, elsewhere
what their queue sends next. -/
def State.sorterReqs (s : State) (d : DieId) (i slot : Nat) : List (Nat × Req) :=
  s.sorters.flatMap fun (n, S) =>
    let k : ClusterId := BitVec.ofNat 6 n
    ((S.entries.map (·.target)).eraseDups.filter (·.behind d i)).flatMap fun t =>
      let e := if 264 ≤ i then S.entries.find? fun e => e.target == t && e.sent && !e.adm
        else (s.nextLine k t).bind fun l => S.entries.find? fun e => e.line == l && !e.sent
      match e with
      | some e => match e.cores with
        | c :: _ => if reqSlot d i c (k.toNat % 16) = slot && (264 ≤ i || !s.paced (coreEp c) 1) then [(0, .sorter k e.line)] else []
        | [] => []
      | none => []

/-- What the DMA and stream engines present to a slot of an instance, with the class their descriptor or ring carries (R257). -/
def State.engReqs (s : State) (d : DieId) (i slot : Nat) : List (Nat × Req) :=
  s.dies.flatMap fun (n, D) =>
    let e : DieId := BitVec.ofNat 2 n
    (D.lines.filter fun l => (if 256 ≤ i ∧ i < 264 then l.st == .port else l.st == .asking) && (s.targetOf l.pa).behind d i &&
      reqSlot d i (s.engEp e l.pa).r (if l.stream then 21 else 20) == slot).map fun l => (l.cls.toNat, .eng e l.blk l.pa)

/-- What a slot of an instance presents, its highest class first (R257); nothing where the controller's queue is full. -/
def State.presents (s : State) (d : DieId) (i slot : Nat) : Option (Nat × Req) :=
  let room (x : Nat × Req) : Bool := 264 > i || s.queueRoom (s.targetOf (match x.2 with | .sorter _ l => l | .eng _ _ pa => pa))
  ((s.engReqs d i slot ++ s.sorterReqs d i slot).filter room).foldl (fun m x => match m with
    | some y => if y.1 < x.1 then some x else some y
    | none => some x) none

/-- Whether a slot of an instance of die `d` asks, and with what class: a cluster's only with a line of its own; the die's own index of
24 to 27 never (R256). What other sources have there comes with the draw. -/
def State.asks (s : State) (d : DieId) (i : Nat) (a : BitVec 9 × BitVec 2) : Option (BitVec 9 × BitVec 2) :=
  let x := a.1.toNat
  if arbTable i % 2 = 0 ∧ arbTable i ≠ 4 ∧ x = 24 + d.toNat then none
  else match s.presents d i x with
    | some (c, _) => some (a.1, BitVec.ofNat 2 c)
    | none => if arbTable i % 2 = 0 ∧ arbTable i ≠ 4 ∧ x < 16 then none else some a

/-- A line request of a die's engines changed. -/
def State.modLine (s : State) (d : DieId) (blk pa : Nat) (f : LineReq → LineReq) : State :=
  s.modDie d fun D => { D with lines := modFirst (fun l => l.blk == blk && l.pa == pa) f D.lines }

/-- A request let in by a grant of an instance: through the router's port to the controller's queue, or into the bank or the queue. -/
def State.letIn (s : State) (i : Nat) : Req → State
  | .sorter k line =>
    if 264 ≤ i then
      let S := s.sorter k
      s.setSorter k { S with entries := modFirst (fun e => e.line == line && e.sent && !e.adm) (fun e => { e with adm := true }) S.entries }
    else s.sendEntry k line
  | .eng d blk pa => s.modLine d blk pa fun l => { l with st := if 256 ≤ i ∧ i < 264 then .asking else .queue }

/-- One draw run (R257): the engines' admission of DMAs is drawn where they are let in (R255), and a region's update-engine port draws nothing
while its clock is stopped (R261). -/
def State.runDraw (s : State) (w : Draw) : State :=
  let i := w.inst.toNat
  if i = 272 ∨ 277 ≤ i then s
  else if 273 ≤ i then (if s.rclocked (BitVec.ofNat 4 (w.d.toNat * 4 + (i - 273))) then (s.draw w).1 else s)
  else
    let (s, g) := s.draw { w with asking := w.asking.filterMap (s.asks w.d i) }
    match g.bind fun x => s.presents w.d i x with
    | some (_, r) => s.letIn i r
    | none => s

/-- The draws of the clocks before an event run in order. -/
def State.runDraws (s : State) (ws : List Draw) : State := ws.foldl State.runDraw s

/-! ### Line requests -/

/-- Whether a core's load of a line goes past its cache: a SPILL region or another core's scratch (R198). -/
def State.uncachedLine (s : State) (c : CoreId) (line : Nat) : Bool := s.loadReach c line == some .uncached

/-- A line request takes a miss register and enters the sorter, merging with a read of the line under way (R241, R246,
R247); an uncached line read is counted once however many rows wait for it (R198). -/
def State.enterSorter (s : State) (c : CoreId) (line : Nat) : State :=
  let k := clusterOf c
  let s := s.modCore c fun C => { C with miss := C.miss ++ [line] }
  let s := if s.uncachedLine c line then s.bump (COR_UNCACHED c.toNat) else s
  let S := s.sorter k
  let mergeable (e : SortEntry) : Bool := e.line == line && !e.cores.contains c
  if s.bit (CLU_SORT_CTL k.toNat) CLU_SORT_CTL.MERGE_EN && S.entries.any mergeable then
    (s.setSorter k { S with entries := modFirst mergeable (fun e => { e with cores := e.cores ++ [c] }) S.entries }).bump (CLU_SORT_MERGED k.toNat)
  else
    let t := s.targetOf line
    s.setSorter k { S with entries := S.entries ++ [{ line := line, target := t, cores := [c] }] }

/-- The line the core's load path asks for next: a fetch miss first, then the oldest load's first missing line (R242). -/
def CoreSt.wanted (C : CoreSt) : Option Nat :=
  let out (l : Nat) : Bool := !C.miss.contains l && !C.park.contains l
  match C.fetchWant.filter out with
  | some l => some l
  | none =>
    (C.fl.flatMap fun f => if f.ph == .run then f.segs.filterMap fun g =>
      if g.data.isNone then some (g.pa / 256 * 256) else none else []).find? out

/-- How many miss registers a core holds against a target (R243, R244). -/
def State.heldAgainst (s : State) (c : CoreId) (t : Target) : Nat :=
  ((s.core c).miss.filter fun l => s.targetOf l == t).length

/-- Whether the core's load path stalls at its next line request: all 48 miss registers are taken, or the request must park and no
parking entry is free (R242, R244). -/
def State.lineStall (s : State) (c : CoreId) : Bool :=
  let C := s.core c
  match C.wanted with
  | none => false
  | some line =>
    decide (48 ≤ C.miss.length) ||
    (decide (s.fld (CLU_SORT_CTL (clusterOf c).toNat) CLU_SORT_CTL.QUOTA ≤ s.heldAgainst c (s.targetOf line)) && decide (32 ≤ C.park.length))

/-- A core's next line request (R242 to R246): a miss register and a sorter entry, or a parking entry at the bank quota; a stalled
path, or one whose clock has stopped, asks for nothing. -/
def State.lineRequest (s : State) (c : CoreId) : State :=
  let C := s.core c
  let k := clusterOf c
  match C.wanted with
  | none => s
  | some line =>
    if !s.clocked c ∨ s.lineStall c then s
    else if s.fld (CLU_SORT_CTL k.toNat) CLU_SORT_CTL.QUOTA ≤ s.heldAgainst c (s.targetOf line) then
      ((s.setCore c { C with park := C.park ++ [line] }).bump (COR_MISS_PARK c.toNat)).bump (CLU_SORT_REQ k.toNat)
    else (s.enterSorter c line).bump (CLU_SORT_REQ k.toNat)

/-- The oldest parked request of a core for a target takes the miss register that has been freed (R244, R245). -/
def State.unpark (s : State) (c : CoreId) (t : Target) : State :=
  let C := s.core c
  match C.park.find? fun l => s.targetOf l == t with
  | none => s
  | some line =>
    if s.fld (CLU_SORT_CTL (clusterOf c).toNat) CLU_SORT_CTL.QUOTA ≤ s.heldAgainst c t ∨ 48 ≤ C.miss.length then s
    else
      let s := s.setCore c { C with park := C.park.erase line }
      -- a register that already tracks the line is joined
      if C.miss.contains line then s else s.enterSorter c line

/-- A line as it stands in memory, with its poisoned codewords. -/
def State.lineAt (s : State) (line : Nat) : CacheLine :=
  { addr := line, data := s.rdMem line 256
    poison := (List.range 16).foldl (fun p i => if s.poisoned (line + 16 * i) 1 then p ||| (1 <<< i) else p) 0 }

/-- A line's data handed to one core (R123, R126, R241): into its cache when the line is STREAM-RO in a tier below (R196, R198), to its fetch, and to every
load that waits for it; poison faults the load. -/
def State.deliver (s : State) (c : CoreId) (l : CacheLine) : State :=
  let s := s.modCore c fun C => { C with miss := C.miss.erase l.addr }
  let s := if s.loadReach c l.addr = some .cached then s.modCore c fun C => C.allocate l else s
  let s := s.modCore c fun C =>
    if C.fetchWant = some l.addr then { C with fetchWant := none, fetchGot := some l } else C
  (s.core c).fl.foldl (fun s f =>
    if f.ph = .run ∧ (f.segs.any fun g => g.data.isNone && g.pa / 256 * 256 == l.addr) then
      let mine (g : Seg) : Bool := g.data.isNone && g.pa / 256 * 256 == l.addr
      match (f.segs.filter mine).find? fun g => linePoison l.poison (g.pa % 256) g.len with
      | some g =>
        let va := ((f.rows.find? fun r => r.1 == g.row).map (·.2.1)).getD 0 + g.off
        (s.poisonUse g.pa 0 c.toNat).tileFault c f.seq ⟨cPoison, g.row, va, false⟩
      | none =>
        let f' := { f with segs := f.segs.map fun g =>
          if (mine g) then { g with data := some ((l.data.drop (g.pa % 256)).take g.len, false) } else g }
        let s := s.modCore c fun C => (C.modFl f.seq fun _ => f').landRows f'
        s.landScalar c f'
    else s) s

end Sys2Proof.Machine
end

