-- ==== Sys2Proof/Machine/Sync.lean ====
section
/-!
DEFINITION. Sys2Proof/Machine/Sync.lean: sync objects, bounded advances, watches and the arrivals of cores on barrier lines
(R292 to R306), the core's waits (R179, R187, R287, R288), and the pump that lets a core's queued instructions begin.
-/
namespace Sys2Proof.Machine

/-! ### Slices -/

/-- The slice of cluster `k`. -/
def State.slice (s : State) (k : ClusterId) : SliceSt := s.sync.slices.get (fun _ => {}) k.toNat

/-- The slice of cluster `k` set, with the counts SYN_STATUS shows (R315). -/
def State.setSlice (s : State) (k : ClusterId) (x : SliceSt) : State :=
  let s := { s with sync := { s.sync with slices := s.sync.slices.set (fun _ => {}) k.toNat x } }
  (s.setFld (SYN_STATUS k.toNat) SYN_STATUS.HELD x.held.length).setFld (SYN_STATUS k.toNat) SYN_STATUS.WATCHES x.wq.length

/-- The value register of an object. -/
def valReg (o : ObjId) : Nat := SYN_VAL (homeOf o).1.toNat (homeOf o).2.toNat

/-- The attribute register of an object. -/
def attrReg (o : ObjId) : Nat := SYN_ATTR (homeOf o).1.toNat (homeOf o).2.toNat

/-- The value of an object. -/
def State.objVal (s : State) (o : ObjId) : Word := s.rd (valReg o)

/-- The router of an object's slice part (R292). -/
def objRouter (o : ObjId) : CoreId := BitVec.ofNat 10 ((homeOf o).1.toNat * 16 + (homeOf o).2.toNat % 16)

/-- Whether a comparison holds: 0 GE, 1 GT, 2 EQ, 3 NE, unsigned (R179). -/
def watchHolds (cmp : BitVec 2) (v x : Word) : Bool :=
  match cmp.toNat with
  | 0 => decide (x ≤ v)
  | 1 => decide (x < v)
  | 2 => v == x
  | _ => v != x

/-- An object's part of its slice, on the mesh (R292). -/
def objEp (o : ObjId) : Ep := coreEp (objRouter o)

/-- A watcher, on the mesh (R25). -/
def watcherEp : Watcher → Ep
  | .core c _ => coreEp c
  | .cc d _ => ccEp d

/-- An advance's source, on the mesh: what has no place of its own there, a DMA or a ring of a die, sends from controller stop 0 (R25; a
DESIGN CHOICE, in the log); commands and register writes come from die 0's control complex. -/
def State.srcEp (s : State) : AdvSrc → Ep
  | .core c => coreEp c
  | .dma d _ => mcEp d 0
  | .ring n => mcEp (BitVec.ofNat 2 (n / 8)) 0
  | .red d n => s.tierEp (s.fld (NOC_RED_ADDR d.toNat n) NOC_RED_ADDR.ADDR * 256)
  | .upd r => updEp r
  | .cmd _ | .reg => ccEp 0

/-- Whether two advances have one source (R294, R296): commands and register writes are firmware's and the host's, one source. -/
def AdvSrc.same : AdvSrc → AdvSrc → Bool
  | .cmd _, .cmd _ | .cmd _, .reg | .reg, .cmd _ | .reg, .reg => true
  | a, b => a == b

/-- The number of the next message, taken. -/
def State.stamp (s : State) : State := { s with sync := { s.sync with sent := s.sync.sent + 1 } }

/-- A watch fired: its message leaves for the watcher (R301). -/
def State.fire (s : State) (k : ClusterId) (w : WatchMsg) : State :=
  let s := ((s.ctrl (objEp w.obj) (watcherEp w.who)).bump (SYN_FIRE_CNT k.toNat)).stamp
  { s with sync := { s.sync with fires := s.sync.fires ++ [(s.sync.sent, w)] } }

/-- The queued watches of an object evaluated against its value; those that hold fire and leave the queue (R301). -/
def State.evalWatches (s : State) (o : ObjId) : State :=
  let k := (homeOf o).1
  let S := s.slice k
  let v := s.objVal o
  let hit (w : WatchMsg) : Bool := w.obj == o && watchHolds w.cmp v w.val
  let fired := S.wq.filter hit
  if fired.isEmpty then s
  else
    let s := s.setSlice k { S with wq := S.wq.filter fun w => !hit w }
    fired.foldl (fun s w => s.fire k w) s

/-! ### Advances -/

/-- The source code of a SYNC_ORDER record (R503). -/
def srcCode : AdvSrc → Nat
  | .core c => c.toNat
  | .dma d t => 0x1000 + d.toNat * 256 + t % 256
  | .ring n => 0x2000 + n
  | .red d n => 0x3000 + d.toNat * 256 + n
  | .upd r => 0x4000 + r.toNat
  | .cmd _ | .reg => 0x5000

/-- Whether an object is on the object list of a recording (R501, R507). -/
def State.listedObj (s : State) (o : ObjId) : Bool := s.rpl.objs.any fun r => decide (r.1 ≤ o) && decide (o ≤ r.2)

/-- A source added to the order kept under `key`. -/
def addOrder (l : List OrderRec) (key src : Nat) : List OrderRec :=
  if l.any fun r => r.key == key then l.map fun r => if r.key = key then { r with srcs := r.srcs ++ [src] } else r
  else l ++ [⟨key, [src]⟩]

/-- An advance noted in the recording's sync orders (R501). -/
def State.noteAdv (s : State) (a : Adv) : State :=
  if s.records 3 && s.listedObj a.obj then
    { s with rpl := { s.rpl with syncs := addOrder s.rpl.syncs a.obj.toNat (srcCode a.src) } }
  else s

/-- What a forced order says of a source: 0 nothing is forced, 1 its turn, 2 out of turn, 3 not in the order (R505). -/
def State.turn (s : State) (key src : Nat) : Nat :=
  if !s.replaying || s.rpl.free.contains key then 0
  else match s.rpl.forced.find? fun r => r.key == key with
    | none => 0
    | some r => if r.srcs.head? = some src then 1 else if r.srcs.contains src then 2 else 3

/-- A forced order's head taken. -/
def State.takeTurn (s : State) (key : Nat) : State :=
  { s with rpl := { s.rpl with forced := s.rpl.forced.map fun r => if r.key = key then { r with srcs := r.srcs.drop 1 } else r } }

/-- A resource follows arrival order until the step closes (R505). -/
def State.freeOrder (s : State) (key : Nat) : State := { s with rpl := { s.rpl with free := s.rpl.free ++ [key] } }

/-- Whether an advance fits its producer's bound: (P + a) − C ≤ BOUND, signed (R298). -/
def State.fits (s : State) (o : ObjId) (amt : Word) : Bool :=
  let at_ := s.rd (attrReg o)
  if SYN_ATTR.PV.get at_ = 0 then true
  else
    let c := s.objVal (BitVec.ofNat 18 (SYN_ATTR.PARTNER.get at_))
    decide (((s.objVal o).toNat : Int) + amt.toNat - c.toNat ≤ SYN_ATTR.BOUND.get at_)

/-- An answer sent to the source of an advance (R296); nobody waits for that of a register write, but a RETRY has it sent again (R299). -/
def State.answer (s : State) (a : Adv) (r : AdvAns) : State :=
  let s := (s.ctrl (objEp a.obj) (s.srcEp a.src)).stamp
  match a.src, r with
  | .reg, .retry => { s with sync := { s.sync with retryAdv := s.sync.retryAdv ++ [a] } }
  | .reg, _ => s
  | _, _ => { s with sync := { s.sync with acks := s.sync.acks ++ [(s.sync.sent, a, r)] } }

/-- An advance applied (R294, R295): the value, saturating; the answer; the watches. -/
def State.applyAdv (s : State) (a : Adv) : State :=
  let k := (homeOf a.obj).1.toNat
  let sum := (s.objVal a.obj).toNat + a.amt.toNat
  let s := if 2 ^ 64 ≤ sum then s.setFld (SYN_STATUS k) SYN_STATUS.OVF 1 else s
  let v := BitVec.ofNat 64 (min sum (2 ^ 64 - 1))
  let s := ((s.wr (valReg a.obj) v).bump (SYN_ADV_CNT k)).noteAdv a
  let s := if s.turn a.obj.toNat (srcCode a.src) = 1 then s.takeTurn a.obj.toNat else s
  (s.answer a (.applied v)).evalWatches a.obj

/-- The held advance of a slice that may be applied next: the oldest of its object, once it fits and is not out of turn
(R298, R505). -/
def State.nextHeld (s : State) (k : ClusterId) : Option Adv :=
  let S := s.slice k
  let t (a : Adv) := s.turn a.obj.toNat (srcCode a.src)
  S.held.find? fun a =>
    let mine := S.held.filter fun b => b.obj == a.obj
    s.fits a.obj a.amt && t a != 2 &&
    (t a == 1 || mine.head? == some a)

/-- Held advances applied for as long as one fits (R298). -/
def State.drainHeld (s : State) (k : ClusterId) : Nat → State
  | 0 => s
  | n + 1 =>
    match s.nextHeld k with
    | none => s
    | some a =>
      let S := s.slice k
      State.drainHeld ((s.setSlice k { S with held := S.held.erase a }).applyAdv a) k n

/-- An advance reaches its slice (R298, R299, R505): applied, held behind the bound, behind earlier held advances or out of a
forced order's turn, or answered RETRY when the hold store is full. -/
def State.sliceAdvance (s : State) (a : Adv) : State :=
  let k := (homeOf a.obj).1
  let S := s.slice k
  let t := s.turn a.obj.toNat (srcCode a.src)
  let s := if t = 3 then (s.diverge 2 0 a.obj.toNat).freeOrder a.obj.toNat else s
  let behind := S.held.any fun b => b.obj == a.obj
  if s.fits a.obj a.amt && t != 2 && (t == 1 || !behind) then (s.applyAdv a).drainHeld k 2048
  else if S.held.length < 1024 then
    let s := if t = 2 then s.bump RPL_HELD else s
    let s := (s.setSlice k { S with held := S.held ++ [a] }).bump (SYN_HELD_CNT k.toNat)
    let s := s.answer a .held
    -- an object freed from its forced order lets go what it held
    if t = 3 then s.drainHeld k 2048 else s
  else
    let s := (s.setFld (SYN_STATUS k.toNat) SYN_STATUS.HOLD_FULL 1).bump (SYN_RETRY_CNT k.toNat)
    s.answer a .retry

/-- An advance sent (R296): it waits its turn among its source's advances of the object. -/
def State.sendAdv (s : State) (a : Adv) : State :=
  let s := (s.ctrl (s.srcEp a.src) (objEp a.obj)).stamp
  { s with sync := { s.sync with advs := s.sync.advs ++ [(s.sync.sent, a)] } }

/-- Whether a source has an advance to an object before its `n`-th message that is not answered as applied or held (R296). -/
def State.advBehind (s : State) (n : Nat) (a : Adv) : Bool :=
  let same (b : Adv) : Bool := b.src.same a.src && b.obj == a.obj
  (s.sync.advs.take n).any (fun b => same b.2) || (s.sync.acks.any fun b => same b.2.1) || s.sync.retryAdv.any same

/-- Whether a message with number `k` from a place to a part of a slice comes after one that has not arrived (R267): an advance that
has left its source, or a registration. -/
def State.reqBehind (s : State) (k : Nat) (e : Ep) (o : ObjId) : Bool :=
  let ahead (x : Nat) (e' : Ep) (o' : ObjId) : Bool := decide (x < k) && e' == e && objRouter o' == objRouter o
  (s.sync.advs.zipIdx.any fun (b, i) => ahead b.1 (s.srcEp b.2.src) b.2.obj && !s.advBehind i b.2) ||
  s.sync.regs.any fun w => ahead w.1 (watcherEp w.2.who) w.2.obj

/-- Whether an answer or fire message with number `k` from a part of a slice to a place comes after one that has not arrived (R267). -/
def State.rspBehind (s : State) (k : Nat) (o : ObjId) (e : Ep) : Bool :=
  let ahead (x : Nat) (o' : ObjId) (e' : Ep) : Bool := decide (x < k) && e' == e && objRouter o' == objRouter o
  (s.sync.acks.any fun b => ahead b.1 b.2.1.obj (s.srcEp b.2.1.src)) || s.sync.fires.any fun w => ahead w.1 w.2.obj (watcherEp w.2.who)

/-- The `n`-th advance under way, where it may be taken: every earlier advance of its source to its object is answered (R296), and nothing
sent before it on its way is behind it (R267). -/
def State.advReady (s : State) (n : Nat) : Option Adv :=
  match s.sync.advs[n]? with
  | none => none
  | some (k, a) => if s.advBehind n a || s.reqBehind k (s.srcEp a.src) a.obj then none else some a

/-! ### Watches -/

/-- A registration reaches its slice (R300, R299): it fires at once, is queued, or is answered RETRY. -/
def State.sliceWatch (s : State) (w : WatchMsg) : State :=
  let k := (homeOf w.obj).1
  let S := s.slice k
  if watchHolds w.cmp (s.objVal w.obj) w.val then s.fire k w
  else if S.wq.length < 1024 then s.setSlice k { S with wq := S.wq ++ [w] }
  else
    let s := (s.setFld (SYN_STATUS k.toNat) SYN_STATUS.WQ_FULL 1).bump (SYN_RETRY_CNT k.toNat)
    { s with sync := { s.sync with retryReg := s.sync.retryReg ++ [w] } }

/-- A registration sent (R300). -/
def State.sendReg (s : State) (w : WatchMsg) : State :=
  let s := (s.ctrl (watcherEp w.who) (objEp w.obj)).stamp
  { s with sync := { s.sync with regs := s.sync.regs ++ [(s.sync.sent, w)] } }

/-- A watcher's watch cancelled wherever it is but in a fire message (R302, R303). -/
def State.cancelWatch (s : State) (who : Watcher) : State :=
  let keep (w : WatchMsg) : Bool := w.who != who
  let hit := (List.range 64).filter fun k => (s.slice (BitVec.ofNat 6 k)).wq.any fun w => !keep w
  let s := hit.foldl (fun s k =>
    let S := s.slice (BitVec.ofNat 6 k)
    s.setSlice (BitVec.ofNat 6 k) { S with wq := S.wq.filter keep }) s
  { s with sync := { s.sync with regs := s.sync.regs.filter fun w => keep w.2, retryReg := s.sync.retryReg.filter keep } }

/-- A watch slot of a core. -/
def CoreSt.slotAt (C : CoreSt) (i : BitVec 4) : WatchSlot := C.watch.get i.toFin

/-- A watch slot of a core set. -/
def CoreSt.setSlot (C : CoreSt) (i : BitVec 4) (x : WatchSlot) : CoreSt :=
  { C with watch := C.watch.set i.toNat x i.isLt }

/-- The 16 slots. -/
def allSlots : List (BitVec 4) := (List.range 16).map (BitVec.ofNat 4)

/-- The 16 fired bits (R179). -/
def CoreSt.fired (C : CoreSt) : BitVec 16 :=
  allSlots.foldl (fun b i => if (C.slotAt i).fired then b ||| (1 <<< i.toNat) else b) 0

/-- The slots that hold a live watch that has not fired. -/
def CoreSt.live (C : CoreSt) : BitVec 16 :=
  allSlots.foldl (fun b i => if (C.slotAt i).live && !(C.slotAt i).fired then b ||| (1 <<< i.toNat) else b) 0

/-- COR_IPEND.WATCH follows the fired slots that interrupt (R186). -/
def State.watchPend (s : State) (c : CoreId) : State :=
  let C := s.core c
  s.setFld (COR_IPEND c.toNat) COR_IPEND.WATCH
    (if allSlots.any fun i => (C.slotAt i).fired && (C.slotAt i).irq then 1 else 0)

/-- A core's slot cancelled: generation on, live and fired bits clear, the queued watch gone (R300, R302). -/
def State.cancelSlot (s : State) (c : CoreId) (i : BitVec 4) : State :=
  let s := s.modCore c fun C => C.setSlot i { (C.slotAt i) with live := false, fired := false, gen := ((C.slotAt i).gen + 1) % 16 }
  (s.cancelWatch (.core c i)).watchPend c

/-! ### Waiting cores (R179, R187, R287, R288, R311, R312) -/

/-- Whether core `c` has an interrupt it may accept (R186). -/
def State.canInterrupt (s : State) (c : CoreId) : Bool :=
  let p := s.rd (COR_IPEND c.toNat)
  let e := s.rd (COR_IEN c.toNat)
  !s.inHandler c && (s.core c).run == .running &&
  ((COR_IPEND.FW.get p == 1 && COR_IEN.FW.get e == 1) || (COR_IPEND.WATCH.get p == 1 && COR_IEN.WATCH.get e == 1))

/-- Whether core `c` is waiting under R311: an SWAIT that began to wait with a live unfired watch, or a BARR, until that instruction
completes; one that an interrupt has broken off still counts (R314). -/
def State.waiting (s : State) (c : CoreId) : Bool := (s.core c).waitBegan

/-- The core begins to wait (R311). -/
def State.beginWait (s : State) (c : CoreId) : State := s.modCore c fun C => { C with waitBegan := true }

/-- An SWAIT's end: g[RD] gets the fired bits of SMASK (R179). -/
def State.endSwait (s : State) (c : CoreId) (m : BitVec 16) (rd : BitVec 5) : State :=
  let s := s.modCore c fun C => { (C.setRg rd ((C.fired &&& m).zeroExtend 64)) with wait := none, parked := false }
  (s.unwait c).bump (COR_INSTRET c.toNat)

/-- A begun SWAIT ends when a slot of SMASK has fired or none holds a live watch (R179, R180); else it waits, parked with PARK once every
earlier instruction has completed (R287). -/
def State.trySwait (s : State) (c : CoreId) : State :=
  let C := s.core c
  match C.wait with
  | some (.swait m rd park) =>
    if C.parked || (C.fl.any fun f => iclass f.w == 9) then s
    else if (C.fired &&& m) != 0 || (C.live &&& m) == 0 then s.endSwait c m rd
    else
      let s := s.beginWait c
      if park && C.fl.isEmpty && !s.canInterrupt c then s.modCore c fun C => { C with parked := true } else s
  | _ => s

/-! ### Barrier lines -/

/-- A die's line. -/
def State.bar (s : State) (d : DieId) (n : BitVec 6) : BarSt := s.sync.bars.get (fun _ => {}) (d.toNat * 64 + n.toNat)

/-- A die's line set. -/
def State.setBar (s : State) (d : DieId) (n : BitVec 6) (x : BarSt) : State :=
  { s with sync := { s.sync with bars := s.sync.bars.set (fun _ => {}) (d.toNat * 64 + n.toNat) x } }

/-- Whether core `c` is a participant of its die's line. -/
def State.inMask (s : State) (c : CoreId) (n : BitVec 6) : Bool :=
  s.enabled c && (s.rd (SYN_BAR_MASK (dieOf c).toNat n.toNat (c.toNat / 64 % 4))).getLsbD (c.toNat % 64)

/-- A line's scope on a die. -/
def State.barScope (s : State) (d : DieId) (n : BitVec 6) : Nat := s.fld (SYN_BAR_CFG d.toNat n.toNat) SYN_BAR_CFG.SCOPE

/-- A BARR reaches its router (R305, R306): its arrival is latched, whether or not the core is a participant; a SCOPE that does not match
is reported. -/
def State.barArrive (s : State) (c : CoreId) (n : BitVec 6) (scope : Bool) : State :=
  let d := dieOf c
  let sc := s.barScope d n
  let s := if (scope && sc == 0) || (!scope && sc != 0) then
      s.wr (SYN_BAR_MISMATCH d.toNat) (s.rd (SYN_BAR_MISMATCH d.toNat) ||| (1 <<< n.toNat)) else s
  let s := s.modCore c fun C => { C with arrived := C.arrived.set (fun _ => true) n.toNat false }
  let B := s.bar d n
  s.setBar d n { B with arrived := B.arrived ||| (1 <<< (c.toNat % 256)) }

/-! ### The sync queue, the DMA queue and the pump -/

/-- Whether an earlier DMA of the same owner core has not completed (ORDER, R226). -/
def DieSt.ordered (D : DieSt) (m : DmaSt) : Bool :=
  m.flags.getLsbD 1 && (D.dmas.takeWhile fun x => x.tag != m.tag).any fun x => x.ph != .done && x.ph != .error && x.owner == m.owner

/-- The status word of a tag (R229): done, queued (accepted, held by ORDER or with no block begun yet), running, waiting on service,
retired or error. -/
def State.dmaStatus (s : State) (v : Word) : Word :=
  let t := v.toNat % 8192
  let d : DieId := v.extractLsb' 13 2
  let g := v.toNat / 2 ^ 16 % 2 ^ 16
  let D := s.die d
  if D.tagGen.get (fun _ => 0) t ≠ g then BitVec.ofNat 64 (4 + g * 2 ^ 16)
  else match D.dmas.find? fun m => m.tag == t with
    | none => BitVec.ofNat 64 (g * 2 ^ 16)
    | some m =>
      let st := match m.ph with
        | .running => if D.ordered m || (m.blks.isEmpty && m.row == 0 && m.pos == 0 && m.len != 0) then 1 else 2
        | .ats _ | .settling | .advancing => 2
        | .faulted _ => 3
        | .done => 0
        | .error => 0x80
      BitVec.ofNat 64 (st + m.err.toNat * 2 ^ 8 + g * 2 ^ 16 + m.blocks * 2 ^ 32)

/-- A DMAST at the head of the DMA queue (R178, R229): g[RD] ← the status of its tag. -/
def State.tryDmast (s : State) (c : CoreId) (f : Flight) : State :=
  if (s.core c).fl.any fun g => decide (g.seq < f.seq) && iclass g.w == 8 then s
  else (s.modCore c fun C => C.setRg (ireg f.w 51) (s.dmaStatus f.a)).complete c f.seq

/-- An instruction of the sync queue that ends at the queue head by writing g[RD]. -/
def State.endSync (s : State) (c : CoreId) (f : Flight) (v : Word) : State :=
  (s.modCore c fun C => C.setRg (ireg f.w 51) v).complete c f.seq

/-- The instruction at the head of the sync queue begins (R179, R180, R183, R296). -/
def State.trySync (s : State) (c : CoreId) (f : Flight) : State :=
  let C := s.core c
  let o : ObjId := f.a.extractLsb' 0 18
  let sm : BitVec 16 := f.w.extractLsb' 16 16
  let line : BitVec 6 := f.w.extractLsb' 10 6
  if f.ph ≠ .queued ∨ (C.before f.seq).any fun g => iclass g.w == 9 then s
  else match iop f.w with
    | 0 =>
      if C.storesBefore f.seq then s
      else (s.modFlight c f.seq fun f => { f with ph := .run }).sendAdv ⟨.core c, o, f.b⟩
    | 1 => s.endSync c f (s.objVal o)
    | 2 =>
      let slot : BitVec 4 := f.w.extractLsb' 37 4
      let s := s.cancelSlot c slot
      let g := ((s.core c).slotAt slot).gen
      let s := s.modCore c fun C => C.setSlot slot { live := true, gen := g, obj := o, irq := ibit f.w 34, fired := false }
      (s.sendReg ⟨.core c slot, g, o, f.w.extractLsb' 35 2, f.b⟩).complete c f.seq
    | 3 => ((allSlots.filter fun i => sm.getLsbD i.toNat).foldl (fun s i => s.cancelSlot c i) s).complete c f.seq
    | 4 => s.modCore c fun C => { C with fl := C.fl.filter fun g => g.seq != f.seq }
    | 5 => s.endSync c f ((C.fired).zeroExtend 64)
    | 8 =>
      let s := s.barArrive c line (ibit f.w 9)
      if ibit f.w 8 then s.complete c f.seq
      else (s.modCore c fun C => { C with fl := C.fl.filter fun g => g.seq != f.seq }).beginWait c
    | _ => s.endSync c f (if C.arrived.get (fun _ => true) line.toNat then 1 else 0)

/-- Everything of core `c` that may begin does (R183): seed writes, array heads, loads and stores, the sync queue, in program
order; then a begun SWAIT is looked at. -/
def State.pumpOnce (s : State) (c : CoreId) : State :=
  let s := ([0, 1, 2] : List Nat).foldl (fun s a => s.applySeed c a) s
  let s := (s.core c).fl.foldl (fun s f =>
    match (s.core c).flight f.seq with
    | none => s
    | some f => match unitOf f.w with
      | .arr _ => s.tryArr c f
      | .lsu => s.tryLsu c f
      | .dma => if iop f.w = 1 then s.tryDmast c f else if f.onLsu then s.tryLsu c f else s
      | .sync => s.trySync c f
      | _ => s) s
  s.trySwait c

/-- The pump run until what it starts lets nothing else start: each pass ends an instruction or leaves all as they are. A core whose
clock has stopped starts nothing (R14, R32, R134). -/
def State.pump (s : State) (c : CoreId) : State :=
  if !s.clocked c then s
  else (List.range ((s.core c).fl.length + 1)).foldl (fun s _ => s.pumpOnce c) s

end Sys2Proof.Machine
end

