-- ==== Sys2Proof/Machine/CoreRegs.lean ====
section
/-!
DEFINITION. Sys2Proof/Machine/CoreRegs.lean: register writes under the access types of R10 and R11, what writing and reading
the COR_ registers of a core does (R55, R75, R78, R93, R128 to R130, R135, R156, R160, R177, R184, R186, R190, R196),
and the histogram unit's folds (R93, R94).
-/
namespace Sys2Proof.Machine

/-! ### Access types -/

/-- A field after a write (R10, R11): RW takes the value, clamped; W1C clears what is written 1; RO and WO keep what they
read as. -/
def fieldAfter (f : FRow) (old v : Nat) : Nat :=
  let o := old / 2 ^ f.lo % 2 ^ f.len
  let x := v / 2 ^ f.lo % 2 ^ f.len
  match f.acc with
  | .rw => max f.cmin (min f.cmax x)
  | .ro => o
  | .wo => 0
  | .w1c => (List.range f.len).foldl (fun a i => if o / 2 ^ i % 2 = 1 ∧ x / 2 ^ i % 2 = 0 then a + 2 ^ i else a) 0
  | .w1s => (List.range f.len).foldl (fun a i => if o / 2 ^ i % 2 = 1 ∨ x / 2 ^ i % 2 = 1 then a + 2 ^ i else a) 0

/-- A register's word after a write; reserved bits read 0. -/
def regAfter (r : RegRow) (old v : Word) : Word :=
  BitVec.ofNat 64 (r.flds.foldl (fun a f => a + fieldAfter f old.toNat v.toNat % 2 ^ f.len * 2 ^ f.lo) 0)

/-- Whether a written value was outside an RW field's range and is clamped (R11). -/
def regClamps (r : RegRow) (v : Word) : Bool :=
  r.flds.any fun f => f.acc == .rw &&
    (let x := v.toNat / 2 ^ f.lo % 2 ^ f.len; decide (x < f.cmin) || decide (f.cmax < x))

/-- A plain write of the register at an address; an address of no register ignores it (R12). -/
def State.plainWrite (s : State) (a : Nat) (v : Word) : State :=
  match regAt a with
  | some r => s.wr a (regAfter r (s.rd a) v)
  | none => s

/-! ### Histogram folds -/

/-- A fold asked for (R93): the live counters leave for the record of the current tag, and are cleared; `next` is the tag to
put in force. -/
def State.foldNow (s : State) (c : CoreId) (next : Option (BitVec 16)) : State :=
  let C := s.core c
  let tag := COR_HST_TAG.TAG.get (s.rd (COR_HST_TAG c.toNat))
  let base := s.rd (COR_HST_BASE c.toNat)
  let ok := tag != 0xFFFF && decide (tag < COR_HST_BASE.LAYERS.get base) && histAreaOk base
  let s := s.setCore c { C with hist := [], fold := if ok then some (BitVec.ofNat 16 tag, C.hist) else none }
  let s := s.setFld (COR_HST_STATUS c.toNat) COR_HST_STATUS.FLUSH_BUSY (if ok then 1 else 0)
  match next with
  | some t => s.setFld (COR_HST_TAG c.toNat) COR_HST_TAG.TAG t.toNat
  | none => s

/-- A fold request: it stalls while an earlier fold waits for the bank (R93). -/
def State.foldReq (s : State) (c : CoreId) (next : Option (BitVec 16)) : State :=
  if (s.core c).fold.isSome then s.modCore c fun C => { C with foldWait := C.foldWait ++ [next] } else s.foldNow c next

/-- Stalled fold requests go on in order until one waits for the bank (R93). -/
def State.foldRun (s : State) (c : CoreId) : List (Option (BitVec 16)) → State
  | [] => s.modCore c fun C => { C with foldWait := [] }
  | n :: rest =>
    let s := s.foldNow c n
    if (s.core c).fold.isSome then s.modCore c fun C => { C with foldWait := rest } else s.foldRun c rest

/-- The record a fold goes to gets each counter, rounded to nearest even, in its FP32 bin (R93, R94). -/
def State.foldInto (s : State) (c : CoreId) (tag : BitVec 16) (h : Tab Nat) : State :=
  let base := COR_HST_BASE.ADDR.get (s.rd (COR_HST_BASE c.toNat)) * 256 + tag.toNat * 256
  (List.range 64).foldl (fun s b =>
    let n := h.get (fun _ => 0) b
    if n = 0 then s
    else
      let a := base + 4 * b
      s.wrNum a 4 (f32Round ((Fmt.fp32.value (s.rdNum a 4)).add (XR.ofInt n)))) s

/-- The bank accepts a fold; stalled requests follow (R93). -/
def State.foldAccept (s : State) (c : CoreId) : State :=
  match (s.core c).fold with
  | none => s
  | some (t, h) =>
    let s := (s.foldInto c t h).modCore c fun C => { C with fold := none }
    let s := s.setFld (COR_HST_STATUS c.toNat) COR_HST_STATUS.FLUSH_BUSY 0
    s.foldRun c (s.core c).foldWait

/-! ### Fault commands -/

/-- RESUME of a fault slot: the parked instruction restarts; nothing for a slot that is empty or fatal (R128, R135). -/
def State.tfResume (s : State) (c : CoreId) (i : BitVec 2) : State :=
  let info := s.rd (COR_TFAULT_INFO c.toNat i.toNat)
  if COR_TFAULT_INFO.VALID.get info = 1 ∧ COR_TFAULT_INFO.FATAL.get info = 0 then (s.restart c i).pump c else s

/-- ABORT of a fault slot stops the program (R130, R135). -/
def State.tfAbort (s : State) (c : CoreId) (i : BitVec 2) : State :=
  let info := s.rd (COR_TFAULT_INFO c.toNat i.toNat)
  if COR_TFAULT_INFO.VALID.get info = 1 ∧ COR_TFAULT_INFO.FATAL.get info = 0 then
    s.exception c 2 i.toNat 0 (s.rd (COR_TFAULT_PC c.toNat i.toNat)).toNat
  else s

/-- RESUME of a held fetch (R184, R190). -/
def State.excResume (s : State) (c : CoreId) : State :=
  s.modCore c fun C => { C with fetchHeld := false }

/-- ABORT of a held fetch stops the program (R130, R190). -/
def State.excAbort (s : State) (c : CoreId) : State :=
  if (s.core c).fetchHeld then s.exception c 3 0 cNotPresent.toNat (s.rd (COR_EXC_PC c.toNat)).toNat else s

/-! ### Reading -/

/-- Whether an array has a shadow load in progress: one that runs, or one at the queue head that waits for its source tile (R79). -/
def CoreSt.shadowBusy (C : CoreSt) (a : Nat) : Bool :=
  (C.array a).load.isSome ||
  C.fl.any fun f => iclass f.w == 7 && iop f.w == 0 && iarr f.w == a && f.ph == .queued && C.arrHead f && !C.mayRead f.seq (ireg f.w 49)

/-- Bits of COR_MTX_STATUS that show the arrays (R78): SHADOW_BUSY, SHADOW_VALID, ACTIVE_VALID, FORM. -/
def CoreSt.mtxView (C : CoreSt) : Nat :=
  (List.range 3).foldl (fun v a =>
    let A := C.array a
    let b (x : Bool) (i : Nat) : Nat := if x then 2 ^ (i + a) else 0
    v + b A.form 12 + b A.act.isSome 15 + b A.shd.isSome 18 + b (C.shadowBusy a) 21) 0

/-- What a read of a COR_ register of core `c` returns: the register, or the view of the core it shows (R78, R135, R160,
R190, R260). -/
def State.corRead (s : State) (c : CoreId) (a : Nat) : Word :=
  let n := c.toNat
  let C := s.core c
  let v := s.rd a
  if a = COR_ID n then v ||| (if s.enabled c then 1024 else 0)
  else if a = COR_MTX_STATUS n then v ||| BitVec.ofNat 64 C.mtxView
  else if a = COR_TILE_STATE n then C.tileStates
  else if a = COR_MISS_STATUS n then COR_MISS_STATUS.PARKED.put (COR_MISS_STATUS.INUSE.put 0 C.miss.length) C.park.length
  else if a = COR_MEM_CTL n then COR_MEM_CTL.SPLIT_NOW.put v C.split.toNat
  else if COR_MASK n 0 0 ≤ a ∧ a < COR_MASK n 0 0 + 4096 then
    let i := (a - COR_MASK n 0 0) / 8
    (C.mask (BitVec.ofNat 3 (i / 64))).extractLsb' (i % 64 * 64) 64
  else v

/-! ### Writing -/

/-- The cache invalidated (R196). -/
def State.invalidate (s : State) (c : CoreId) : State := s.modCore c fun C => { C with cache := [] }

/-- The counters CNT_CLR of COR_MTX_CTL clears (R78). -/
def mtxCounters (c : Nat) : List Nat :=
  [COR_MTX_OPS c 0, COR_MTX_OPS c 1, COR_MTX_OPS c 2, COR_MTX_SWAPSTALL c, COR_MTX_FORMSW c, COR_SPR_SKIP c, COR_SPR_REISSUE c,
   COR_SPR_MISSED c, COR_SPR_ROWSKIP c]

/-- The counters CNT_CLR of COR_TILE_CTL clears (R135). -/
def tileCounters (c : Nat) : List Nat :=
  [COR_TILE_LOADS c, COR_TILE_STORES c, COR_TILE_RESTARTS c, COR_TILE_IRQRST c, COR_TILE_CLAMPS c]

/-- The counters CNT_CLR of COR_VEC_CTL clears (R160). -/
def vecCounters (c : Nat) : List Nat := [COR_VEC_OPS c, COR_VEC_BEATS c, COR_VEC_SLOTWAIT c]

/-- The counters CNT_CLR of COR_MEM_CTL clears (R198). -/
def memCounters (c : Nat) : List Nat := [COR_CACHE_HIT c, COR_CACHE_MISS c, COR_UNCACHED c]

/-- COR_MTX_SEED of array `a` written: it waits until the operations ahead of it have left the array (R55, R79). An operation that an
interrupt has abandoned before the write is not ahead of it. -/
def State.seedWrite (s : State) (c : CoreId) (a : Nat) (v : BitVec 32) : State :=
  (s.modCore c fun C =>
    let q := ((C.fl.find? Flight.gone).map (·.seq)).getD C.seq
    C.setArray a { C.array a with seedWait := (C.array a).seedWait ++ [(v, q)] }).pump c

/-- COR_CVT_SEED written (R177). -/
def State.cvtSeed (s : State) (c : CoreId) (v : BitVec 32) : State :=
  (s.wr (COR_CVT_SEED c.toNat) ((seedStore v).zeroExtend 64)).rplSeed 3 1 c.toNat (seedStore v)

/-- COR_IRAISE.FW: the firmware interrupt becomes pending (R186). -/
def State.raiseFw (s : State) (c : CoreId) : State := s.setFld (COR_IPEND c.toNat) COR_IPEND.FW 1

/-- `f` applied when bit `b` of `v` is 1. -/
def State.onBit (s : State) (v : Word) (b : Nat) (f : State → State) : State := if v.getLsbD b then f s else s

/-- A write of a COR_ register of core `c`, with all it does (R10, R181). -/
def State.corWrite (s : State) (c : CoreId) (a : Nat) (v : Word) : State :=
  let n := c.toNat
  let s1 := s.plainWrite a v
  if a = COR_MTX_CTL n then
    (s1.onBit v 7 fun s => s.clear (mtxCounters n)).onBit v 6 fun s => s.modCore c fun C => { C with pred := [] }
  else if a = COR_MTX_SEED n 0 ∨ a = COR_MTX_SEED n 1 ∨ a = COR_MTX_SEED n 2 then
    s.seedWrite c ((a - COR_MTX_SEED n 0) / 8) (v.extractLsb' 0 32)
  else if a = COR_HST_CTL n then (s1.histCheck c).onBit v 1 fun s => s.foldReq c none
  else if a = COR_HST_BASE n ∨ a = COR_HST_STATUS n then s1.histCheck c
  else if a = COR_HST_TAG n then s.foldReq c (some (v.extractLsb' 0 16))
  else if a = COR_TILE_CTL n then s1.onBit v 8 fun s => s.clear (tileCounters n)
  else if a = COR_TFAULT_CMD n then
    let i : BitVec 2 := v.extractLsb' 4 2
    if v.getLsbD 1 then s.tfAbort c i else if v.getLsbD 0 then s.tfResume c i else s
  else if a = COR_VEC_CTL n then s1.onBit v 8 fun s => s.clear (vecCounters n)
  else if a = COR_IRAISE n then s.onBit v 1 fun s => s.raiseFw c
  else if a = COR_EXC n then
    if v.getLsbD 1 then s.excAbort c else if v.getLsbD 0 then s.excResume c else s
  else if a = COR_CVT_SEED n then s.cvtSeed c (v.extractLsb' 0 32)
  else if a = COR_MEM_CTL n then
    (s1.onBit v 9 fun s => s.invalidate c).onBit v 8 fun s => s.clear (memCounters n)
  else s1

end Sys2Proof.Machine
end

