-- ==== Sys2Proof/Machine/Host.lean ====
section
/-!
DEFINITION. Sys2Proof/Machine/Host.lean: command packets, selectors, clamps, replies and completion rings (R432 to R444).
-/
namespace Sys2Proof.Machine

/-! ### Status codes (R442) -/

/-- OK. -/
def stOk : BitVec 8 := 0x00
/-- ACCEPTED. -/
def stAccepted : BitVec 8 := 0x01
/-- DEFERRED. -/
def stDeferred : BitVec 8 := 0x02
/-- BUSY. -/
def stBusy : BitVec 8 := 0x10
/-- ABORTED. -/
def stAborted : BitVec 8 := 0x20
/-- TIMEOUT. -/
def stTimeout : BitVec 8 := 0x21
/-- NO_RESOURCE. -/
def stNoResource : BitVec 8 := 0x30
/-- FENCED. -/
def stFenced : BitVec 8 := 0x40
/-- SPLIT. -/
def stSplit : BitVec 8 := 0x48
/-- UNSUPPORTED. -/
def stUnsupported : BitVec 8 := 0x50
/-- AUTH_FAIL. -/
def stAuthFail : BitVec 8 := 0x60
/-- HW_ERROR. -/
def stHwError : BitVec 8 := 0x70

/-! ### Packets (R437, R438) -/

/-- `n` bytes of a packet from byte `o` as a number. -/
def pk (p : Packet) (o n : Nat) : Nat := p.toNat / 2 ^ (8 * o) % 2 ^ (8 * n)

/-- OPCODE. -/
def pkOp (p : Packet) : Nat := pk p 0 1

/-- VERSION. -/
def pkVersion (p : Packet) : Nat := pk p 1 1 % 16

/-- FENCE. -/
def pkFence (p : Packet) : Bool := p.getLsbD 12

/-- IRQ. -/
def pkIrq (p : Packet) : Bool := p.getLsbD 13

/-- PHYS. -/
def pkPhys (p : Packet) : Bool := p.getLsbD 14

/-- TAG. -/
def pkTag (p : Packet) : BitVec 16 := p.extractLsb' 16 16

/-- SEL. -/
def pkSel (p : Packet) : BitVec 32 := p.extractLsb' 32 32

/-- A packet from its 64 bytes. -/
def packetOf (bs : List Byte) : Packet := BitVec.ofNat 512 (leNat bs)

/-- LEVEL of a selector. -/
def selLevel (sel : BitVec 32) : Nat := sel.toNat / 2 ^ 29

/-- ID of a selector. -/
def selId (sel : BitVec 32) : Nat := sel.toNat / 2 ^ 16 % 64

/-- MASK bit of a selector. -/
def selBit (sel : BitVec 32) (i : Nat) : Bool := sel.getLsbD i && decide (i < 16)

/-- Whether a selector selects a die: itself, or a coarser level does (R438). -/
def selDie (sel : BitVec 32) (d : DieId) : Bool :=
  match selLevel sel with
  | 0 => true
  | 1 => selBit sel d.toNat && decide (d.toNat < 4)
  | _ => false

/-- Whether a selector selects a region. -/
def selRegion (sel : BitVec 32) (r : RegionId) : Bool :=
  if selLevel sel = 2 then selBit sel r.toNat else selDie sel (dieOfRegion r)

/-- Whether a selector selects a cluster. -/
def selCluster (sel : BitVec 32) (k : ClusterId) : Bool :=
  if selLevel sel = 3 then selId sel % 4 == k.toNat / 16 && selBit sel (k.toNat % 16)
  else selRegion sel (k.extractLsb' 2 4)

/-- Whether a selector selects a core. -/
def selCore (sel : BitVec 32) (c : CoreId) : Bool :=
  if selLevel sel = 4 then selId sel == c.toNat / 16 && selBit sel (c.toNat % 16)
  else selCluster sel (clusterOf c)

/-- The enabled cores a selector selects (R438, R439). -/
def State.selected (s : State) (sel : BitVec 32) : List CoreId := allCores.filter fun c => selCore sel c && s.enabled c

/-! ### Memory a command names (R437) -/

/-- An address parameter as a physical address, by die 0's translation unless PHYS is set; none where it cannot be reached
(R443). -/
def State.cmdAddr (s : State) (phys : Bool) (a : Nat) (need : Need) : Option Nat :=
  let pa := if phys then some a else match s.xlateDie 0 a with
    | (.page e, _) => if permits e need then some (e.pa + (a - e.va)) else none
    | _ => none
  match pa with
  | some p => match s.place p with
    | .nowhere | .regs => none
    | _ => some p
  | none => none

/-- `n` bytes at an address parameter, page by page; none where a page cannot be read or holds poison. -/
def State.cmdRead (s : State) (phys : Bool) (a n : Nat) : Option (List Byte) :=
  let pages := (List.range ((a % 4096 + n + 4095) / 4096)).map fun i =>
    let lo := if i = 0 then a else a / 4096 * 4096 + i * 4096
    (lo, min (4096 - lo % 4096) (a + n - lo))
  pages.foldl (fun acc (lo, m) =>
    match acc, s.cmdAddr phys lo .read with
    | some bs, some p => if s.poisoned p m then none else some (bs ++ s.rdMem p m)
    | _, _ => none) (some [])

/-- Bytes written at an address parameter, page by page; false where a page cannot be written. -/
def State.cmdWrite (s : State) (phys : Bool) (a : Nat) (bs : List Byte) : State × Bool :=
  let n := bs.length
  let pages := (List.range ((a % 4096 + n + 4095) / 4096)).map fun i =>
    let lo := if i = 0 then a else a / 4096 * 4096 + i * 4096
    (lo, min (4096 - lo % 4096) (a + n - lo))
  pages.foldl (fun (s, ok) (lo, m) =>
    match s.cmdAddr phys lo .write with
    | some p => (s.wrMem p ((bs.drop (lo - a)).take m), ok)
    | none => (s, false)) (s, true)

/-! ### Clamps (R444) -/

/-- A clamp recorded for a ring: opcode, source, index, byte offset, value given and value used. -/
def State.clamp (s : State) (r : RingId) (op src ix off given used : Nat) : State :=
  let n := r.toNat
  let old := s.rd (CMD_CLAMP_REC n)
  let w := CMD_CLAMP_REC.VALID.put 0 1
  let w := CMD_CLAMP_REC.SEQ.put w (CMD_CLAMP_REC.SEQ.get old + 1)
  let w := CMD_CLAMP_REC.OPCODE.put w op
  let w := CMD_CLAMP_REC.SOURCE.put w src
  let w := CMD_CLAMP_REC.INDEX.put w ix
  let w := CMD_CLAMP_REC.OFFSET.put w off
  let s := (s.wr (CMD_CLAMP_REC n) w).wr (CMD_CLAMP_GIVEN n) (BitVec.ofNat 64 given)
  (s.wr (CMD_CLAMP_USED n) (BitVec.ofNat 64 used)).bump (CMD_CLAMP_CNT n)

/-- A number of an entry clamped, recorded when it changes: source, index and offset as R444 codes them. -/
def State.clampIn (s : State) (r : RingId) (op src ix off v u : Nat) : State := if u = v then s else s.clamp r op src ix off v u

/-- A number of a packet clamped to a range, recorded when it changes (R443). -/
def State.clampTo (s : State) (r : RingId) (op off v lo hi : Nat) : State × Nat :=
  (s.clampIn r op 0 0 off v (max lo (min hi v)), max lo (min hi v))

/-- An address or length of a packet aligned downward to a multiple, recorded as a clamp when it changes. -/
def State.alignTo (s : State) (r : RingId) (op off v m : Nat) : State × Nat := (s.clampIn r op 0 0 off v (v / m * m), v / m * m)

/-- A length rounded up to a multiple of its unit, recorded as a clamp when it changes. -/
def State.roundTo (s : State) (r : RingId) (op off v m : Nat) : State × Nat :=
  (s.clampIn r op 0 0 off v ((v + m - 1) / m * m), (v + m - 1) / m * m)

/-! ### Replies (R435, R436, R441) -/

/-- The completion ring of a submission ring. -/
def State.cqOf (s : State) (r : RingId) : Nat := s.fld (CMD_SQ_CFG r.toNat) CMD_SQ_CFG.CQ

/-- Entries of a ring of a SIZE field (R432). -/
def ringEntries (size : Nat) : Nat := 16 * 2 ^ min size 8

/-- Whether a completion ring takes no further reply: it is off, or its tail would meet its head. -/
def State.cqFull (s : State) (q : Nat) : Bool :=
  let n := ringEntries (s.fld (CMD_CQ_CFG q) CMD_CQ_CFG.SIZE)
  !s.bit (CMD_CQ_CFG q) CMD_CQ_CFG.EN ||
  (s.fld (CMD_CQ_TAIL q) CMD_CQ_TAIL.INDEX + 1) % n == s.fld (CMD_CQ_HEAD q) CMD_CQ_HEAD.INDEX % n

/-- Replies unsignalled on a completion ring signalled when their number or an IRQ asks (R436). -/
def State.coalesce (s : State) (q : Nat) (irq : Bool) : State :=
  let n := s.host.coal.get (fun _ => 0) q + 1
  let want := s.fld (CMD_CQ_CFG q) CMD_CQ_CFG.COAL_CNT
  let now := irq || want == 0 || decide (want ≤ n)
  let s := { s with host := { s.host with coal := s.host.coal.set (fun _ => 0) q (if now then 0 else n) } }
  if now then s.msix q else s

/-- A reply written at the tail of its completion ring, which has room (R435, R441). -/
def State.putReply (s : State) (q : Nat) (x : Reply) : State :=
  let t := s.rd (CMD_CQ_TAIL q)
  let ix := CMD_CQ_TAIL.INDEX.get t
  let ph := CMD_CQ_TAIL.PHASE.get t
  let n := ringEntries (s.fld (CMD_CQ_CFG q) CMD_CQ_CFG.SIZE)
  let res := s.rd (CMD_CQ_RES q)
  let ext := decide (3 < x.words.length) && CMD_CQ_RES.EN.get res == 1
  let s := if ext then
      s.wrMem (CMD_CQ_RES.ADDR.get res * 256 + ix * 256) ((List.range 32).flatMap fun i => toLe 8 (x.words.getD i 0)) else s
  let flags := x.ring.toNat + (if ext then 64 else 0) + ph * 128
  let bs := toLe 2 x.tag.toNat ++ toLe 1 x.status.toNat ++ toLe 1 flags ++ toLe 4 x.time ++
    (List.range 3).flatMap fun i => toLe 8 (x.words.getD i 0)
  let s := s.wrMem (CMD_CQ_BASE.ADDR.get (s.rd (CMD_CQ_BASE q)) * 32 + ix * 32) bs
  let wrap := decide (ix + 1 = n)
  let s := s.wr (CMD_CQ_TAIL q)
    (CMD_CQ_TAIL.PHASE.put (CMD_CQ_TAIL.INDEX.put t (if wrap then 0 else ix + 1)) (if wrap then 1 - ph else ph))
  s.coalesce q x.irq

/-- A completion ring's held replies written for as long as it has room, oldest first (R435). -/
def State.flushReplies (s : State) (q : Nat) : State :=
  (s.host.held.get (fun _ => []) q).foldl (fun s x =>
    if s.cqFull q then s
    else
      let s := s.putReply q x
      { s with host := { s.host with held := s.host.held.set (fun _ => []) q ((s.host.held.get (fun _ => []) q).drop 1) } }) s

/-- A reply formed for a ring (R435): it goes behind the replies its completion ring holds. A replayed command's reply is
compared and not posted (R504). -/
def State.post (s : State) (r : RingId) (p : Packet) (status : BitVec 8) (words : List Nat) : State :=
  let q := s.cqOf r
  let x : Reply := ⟨r, pkTag p, status, s.now / 1000, words, pkIrq p && pkVersion p != 1⟩
  let s := { s with host := { s.host with held := s.host.held.set (fun _ => []) q (s.host.held.get (fun _ => []) q ++ [x]) } }
  s.flushReplies q

/-- The commands in flight, as CMD_STATUS shows them (R434, R456). -/
def State.setCmds (s : State) (cs : List CmdRec) : State :=
  ({ s with host := { s.host with cmds := cs } }).setFld CMD_STATUS CMD_STATUS.INFLIGHT cs.length

/-- The command of a number. -/
def State.cmd (s : State) (id : Nat) : Option CmdRec := s.host.cmds.find? fun x => x.id == id

/-- A command changed. -/
def State.modCmd (s : State) (id : Nat) (f : CmdRec → CmdRec) : State :=
  { s with host := { s.host with cmds := s.host.cmds.map fun x => if x.id = id then f x else x } }

/-- The next REPLY record of a replayed log with a consumption number, if the reply differs from it (R504). -/
def State.replyDiffers (s : State) (seq : Nat) (p : Packet) (status : BitVec 8) (words : List Nat) : Bool :=
  let body := toLe 2 (pkTag p).toNat ++ toLe 1 status.toNat
  let all := s.rdMem s.rpl.rBase s.rpl.rLen
  let rec scan : Nat → Nat → Bool
    | 0, _ => false
    | k + 1, o =>
      let len := leNat ((all.drop (o + 2)).take 2)
      if len < 16 ∨ all.length < o + len then false
      else if (all.drop o).head? = some 3 ∧ leNat ((all.drop (o + 20)).take 4) = seq then
        ((all.drop (o + 16)).take 3 != body) ||
          (List.range 3).any fun i => leNat ((all.drop (o + 24 + 8 * i)).take 8) != words.getD i 0
      else scan k (o + len)
  scan (s.rpl.rLen / 16 + 1) 0

/-- The final reply of a command: it leaves the commands in flight, is recorded, and is posted, or compared when the command
came from a replayed log (R434, R442, R501, R504). A command that is no longer there posts nothing. -/
def State.finish (s : State) (id : Nat) (status : BitVec 8) (words : List Nat) : State :=
  match s.cmd id with
  | none => s
  | some x =>
    let s := s.setCmds (s.host.cmds.filter fun y => y.id != id)
    let s := if s.records 0 then
        s.rplWrite 0x03 (toLe 2 (pkTag x.pkt).toNat ++ toLe 1 status.toNat ++ toLe 1 x.ring.toNat ++ toLe 4 x.seq ++
          (List.range 3).flatMap fun i => toLe 8 (words.getD i 0))
      else s
    if x.replayed then
      if s.replyDiffers x.seq x.pkt status words then s.diverge 1 x.seq status.toNat else s
    else if x.mute then s
    else s.post x.ring x.pkt status words

/-- A DEFERRED reply, once per command (R442). -/
def State.defer (s : State) (id : Nat) : State :=
  match s.cmd id with
  | none => s
  | some x =>
    if x.deferred || x.replayed || x.mute then s
    else (s.modCmd id fun x => { x with deferred := true }).post x.ring x.pkt stDeferred []

end Sys2Proof.Machine
end

