-- ==== Sys2Proof/Machine/Writes.lean ====
section
/-!
DEFINITION. Sys2Proof/Machine/Writes.lean: what a write does where it arrives (R221, R231), bytes with their poison, ranges
that must be SPILL (R215, R274), reduction and multicast ranges (R274, R280), and the mesh's reduction and multicast packets
(R275 to R283).
-/
namespace Sys2Proof.Machine

/-! ### Bytes with their poison (R231) -/

/-- Bytes of memory, each with the poison of its codeword. -/
def State.readP (s : State) (a n : Nat) : List (Byte × Bool) :=
  let bs := s.rdMem a n
  if s.poisoned a n then (bs.zip (List.range n)).map fun (b, i) => (b, s.poisoned (a + i) 1) else bs.map fun b => (b, false)

/-- The first poisoned codeword of a range. -/
def State.firstPoison (s : State) (a n : Nat) : Option Nat :=
  ((List.range ((a % 16 + n + 15) / 16)).map fun i => (a / 16 + i) * 16).find? fun b => s.poisoned b 16

/-- Bytes written, codewords with a poisoned byte left poisoned. -/
def State.writeP (s : State) (a : Nat) (bs : List (Byte × Bool)) : State :=
  let s := s.wrMem a (bs.map (·.1))
  (bs.zip (List.range bs.length)).foldl (fun s (b, i) => if b.2 then s.setPoison (a + i) 1 true else s) s

/-! ### Late writes (R221) -/

/-- A notice sent to all four stream engines. -/
def State.notify (s : State) (block : Nat) (kind : BitVec 2) (who : Nat) : State :=
  { s with noc := { s.noc with notices := s.noc.notices ++ allDies.map fun d => ⟨d, block, kind, who⟩ } }

/-- Whether a write at an address is late as the receiving die sees it: a step is open and the address is STREAM-RO. -/
def State.isLate (s : State) (a : Nat) : Bool := let d := s.homeDie a; s.openOn d && s.mark d a == .streamRo

/-- A write packet received at an address (R221): a late one is counted and told to the stream engines. `who` is the DMA tag
with its die in bits 14:13, or 0xFFFF_FFFF for the host. -/
def State.received (s : State) (a : Nat) (who : Nat) : State :=
  if s.isLate a then (s.bump (MEM_LATEWR (s.homeDie a).toNat)).notify (a / 4096 * 4096) 2 who else s

/-- Whether a DMA stands between its begin and its end notice for a page (R221). -/
def State.midWrite (s : State) (page : Nat) : Bool := s.dies.any fun e => e.2.dmas.any fun m => m.blks.any fun b => b.late == some page

/-- Whether writes to a page are held for one read of a stream engine (R222): a DMA that has begun to write the page goes on first. -/
def State.heldForRead (s : State) (a : Nat) : Bool :=
  let page := a / 4096 * 4096
  (allDies.any fun d => (s.die d).rings.any fun e => e.2.blks.any fun b => b.hold && !b.read && b.pa == page) && !s.midWrite page

/-- Bytes cut at 256-byte lines: offset and length of each part. -/
def lineCuts (a n : Nat) : List (Nat × Nat) := (rowCuts (n / 256 + 2) 0 a n).map fun (o, _, m) => (o, m)

/-- A write applied where it arrives, line by line. -/
def State.writeLines (s : State) (a : Nat) (bs : List (Byte × Bool)) (who : Nat) : State :=
  (lineCuts a bs.length).foldl (fun s (o, m) => (s.writeP (a + o) ((bs.drop o).take m)).received (a + o) who) s

/-! ### SPILL ranges -/

/-- Whether every byte of a range has a marking that a test accepts, in die `d`'s copy. -/
def State.rangeAll (s : State) (d : DieId) (lo hi : Nat) (p : Mark → Bool) : Bool :=
  let base := MEM_RGN_BASE d.toNat 0
  let es := s.regs.filter fun e => decide (base ≤ e.1) && decide (e.1 < base + 0x400) && decide ((e.1 - base) % 16 = 0)
  let cuts := es.flatMap fun e => [MEM_RGN_BASE.BASE.get e.2 * 2 ^ 16, (MEM_RGN_LIMIT.LIMIT.get (s.rd (e.1 + 8)) + 1) * 2 ^ 16]
  (lo :: cuts.filter fun c => decide (lo < c) && decide (c < hi)).all fun a => p (s.mark d a)

/-- Whether a range has one marking throughout. -/
def State.rangeMark (s : State) (d : DieId) (lo hi : Nat) (m : Mark) : Bool := s.rangeAll d lo hi (· == m)

/-- Whether a range lies in SPILL bonded SRAM (R215, R274). -/
def State.spillBonded (s : State) (d : DieId) (lo n : Nat) : Bool :=
  decide (0x100000000000 ≤ lo) && decide (lo + n ≤ 0x100400000000) && s.rangeMark d lo (lo + n) .spill

/-! ### Reduction and multicast entries (R274, R280, R290) -/

/-- Whether a reduction entry's range is allowed: SPILL bonded SRAM or one core's scratch. -/
def State.redRangeOk (s : State) (d : DieId) (a lines : Nat) : Bool :=
  let n := lines * 256
  s.spillBonded d a n ||
  match s.place a, s.place (a + n - 1) with
  | .window c _, .window c' _ => c == c'
  | _, _ => false

/-- A die's reduction and multicast tables, as registers. -/
def State.nocTabs (s : State) (d : DieId) : Tab Word :=
  s.regs.filter fun e => decide (NOC_RED_ADDR d.toNat 0 ≤ e.1) && decide (e.1 < NOC_RED_ADDR d.toNat 0 + 0x800)

/-- The state with a die's tables as they stood at another time. -/
def State.withTabs (s : State) (d : DieId) (t : Tab Word) : State :=
  { s with regs := (s.regs.filter fun e => decide (e.1 < NOC_RED_ADDR d.toNat 0)) ++ t ++
                   s.regs.filter fun e => decide (NOC_RED_ADDR d.toNat 0 + 0x800 ≤ e.1) }

/-- A reduction entry's V and ERR after its words are set (R274): an entry whose range lies elsewhere does not become valid. -/
def State.redCheck (s : State) (d : DieId) (n : Nat) : State :=
  let a := NOC_RED_ADDR d.toNat n
  let w := s.rd a
  if NOC_RED_ADDR.V.get w = 0 then s.wr a (NOC_RED_ADDR.ERR.put w 0)
  else if s.redRangeOk d (NOC_RED_ADDR.ADDR.get w * 256) (s.fld (NOC_RED_CFG d.toNat n) NOC_RED_CFG.LINES) then
    s.wr a (NOC_RED_ADDR.ERR.put w 0)
  else s.wr a (NOC_RED_ADDR.V.put (NOC_RED_ADDR.ERR.put w 1) 0)

/-- The valid reduction entry of lowest number whose range holds an address, in die `d`'s copy. -/
def State.redOf (s : State) (d : DieId) (a : Nat) : Option Nat :=
  (List.range 64).find? fun n =>
    let w := s.rd (NOC_RED_ADDR d.toNat n)
    let lo := NOC_RED_ADDR.ADDR.get w * 256
    NOC_RED_ADDR.V.get w == 1 && decide (lo ≤ a) &&
      decide (a < lo + s.fld (NOC_RED_CFG d.toNat n) NOC_RED_CFG.LINES * 256)

/-- A multicast entry's V and ERR after its words are set (R290): OFFSET + LEN must not pass the end of ROOT's window. -/
def State.mcgCheck (s : State) (d : DieId) (n : Nat) : State :=
  let a := NOC_MCG_ADDR d.toNat n
  let w := s.rd a
  if NOC_MCG_ADDR.V.get w = 0 then s.wr a (NOC_MCG_ADDR.ERR.put w 0)
  else if NOC_MCG_ADDR.OFFSET.get w + NOC_MCG_ADDR.LEN.get w ≤ 4096 then s.wr a (NOC_MCG_ADDR.ERR.put w 0)
  else s.wr a (NOC_MCG_ADDR.V.put (NOC_MCG_ADDR.ERR.put w 1) 0)

/-- The valid multicast entry of lowest number whose range holds an address, in die `d`'s copy. -/
def State.mcgOf (s : State) (d : DieId) (a : Nat) : Option Nat :=
  (List.range 64).find? fun n =>
    let w := s.rd (NOC_MCG_ADDR d.toNat n)
    let lo := 0x110000000000 + NOC_MCG_ADDR.ROOT.get w * 2 ^ 20 + NOC_MCG_ADDR.OFFSET.get w * 256
    NOC_MCG_ADDR.V.get w == 1 && decide (lo ≤ a) && decide (a < lo + NOC_MCG_ADDR.LEN.get w * 256)

/-- A multicast entry's set register with its clamps (R290): X1 to X0, Y1 to Y0, and no dies to ROOT's. -/
def State.mcgClamp (s : State) (d : DieId) (n : Nat) : State :=
  let a := NOC_MCG_SET d.toNat n
  let w := s.rd a
  let w := NOC_MCG_SET.X1.put w (max (NOC_MCG_SET.X0.get w) (NOC_MCG_SET.X1.get w))
  let w := NOC_MCG_SET.Y1.put w (max (NOC_MCG_SET.Y0.get w) (NOC_MCG_SET.Y1.get w))
  let root := s.fld (NOC_MCG_ADDR d.toNat n) NOC_MCG_ADDR.ROOT / 256
  s.wr a (if NOC_MCG_SET.DIES.get w = 0 then NOC_MCG_SET.DIES.put w (2 ^ root) else w)

/-- A multicast entry's word written, with the entry's clamps and its check (R290). A DIES of 0 that was stored stands for ROOT's die as it
was when the set was written. -/
def State.mcgWrite (s : State) (d : DieId) (n : Nat) (set : Bool) (v : Word) : State :=
  if set then ((s.plainWrite (NOC_MCG_SET d.toNat n) v).mcgClamp d n).mcgCheck d n else (s.plainWrite (NOC_MCG_ADDR d.toNat n) v).mcgCheck d n

/-- The cores of a multicast entry's set (R280): the dies of DIES (0 is ROOT's die, until the register is first written), on each the
rectangle. -/
def State.mcSet (s : State) (d : DieId) (n : Nat) : List CoreId :=
  let a := s.rd (NOC_MCG_ADDR d.toNat n)
  let w := s.rd (NOC_MCG_SET d.toNat n)
  let dies := NOC_MCG_SET.DIES.get w
  let root := NOC_MCG_ADDR.ROOT.get a / 256
  let x0 := NOC_MCG_SET.X0.get w
  let x1 := NOC_MCG_SET.X1.get w
  let y0 := NOC_MCG_SET.Y0.get w
  let y1 := NOC_MCG_SET.Y1.get w
  allDies.flatMap fun e =>
    if (if dies = 0 then e.toNat = root else dies / 2 ^ e.toNat % 2 = 1) then
      (List.range (y1 - y0 + 1)).flatMap fun j => (List.range (x1 - x0 + 1)).map fun i => coreAt e (x0 + i) (y0 + j)
    else []

/-- The links a rectangle's tree takes from its start, as router × 8 + port (R281): along the start's row to the rectangle's columns, along
each column to its rows, and into each core's window port. -/
def treeLinks (start : CoreId) (here : List CoreId) : List Nat :=
  let d := dieOf start
  let y := meshY start
  let cols := (here.map meshX).eraseDups
  (cols.flatMap fun x => routeLinks start (coreAt d x y)) ++
  (here.flatMap fun c => routeLinks (coreAt d (meshX c) y) c) ++ here.map fun c => c.toNat * 8 + 4

/-- Flits of one multicast packet of `n` flits (R281, R282): a copy for each link of its trees; another die's copy goes as unicast to that
die's rectangle corner, where its tree starts. -/
def State.mcFlits (s : State) (src : CoreId) (set : List CoreId) (n : Nat) : State :=
  allDies.foldl (fun s d =>
    let here := set.filter fun c => dieOf c == d
    match here with
    | [] => s
    | c0 :: _ =>
      let links := if dieOf src = d then treeLinks src here else routeLinks src c0 ++ treeLinks c0 here
      links.eraseDups.foldl (fun s l => s.flitOut (BitVec.ofNat 10 (l / 8)) (l % 8) n) s) s

/-! ### Reduction packets (R275 to R279) -/

/-- The FP32 codes of a line. -/
def lineVals (bs : List Byte) : List Nat := (List.range 64).map fun i => leNat ((bs.drop (4 * i)).take 4)

/-- Whether routers combine: not while reduction orders are recorded or forced (R501, R505). -/
def State.combines (s : State) (c : CoreId) : Bool :=
  s.bit (NOC_CTL (dieOf c).toNat) NOC_CTL.COMB_EN && !s.records 4 &&
  !(s.replaying && s.rpl.forced.any fun r => decide (0x100000 ≤ r.key) && decide (r.key < 0x8000000))

/-- The key of a reduction line's order. -/
def redKey (id line : Nat) : Nat := 0x100000 + id * 0x100000 + line / 256 % 0x100000

/-- Where a packet of the reduction channel goes: its line's tier, or the stop its DMA sent from. -/
def State.redDest (s : State) (p : RedPkt) : Ep :=
  match p.kind with
  | .sum => s.tierEp p.line
  | .ack d _ _ _ => ((List.range 8).map (mcEp d)).find? (fun e => e.r.toNat == p.line) |>.getD (mcEp d 0)

/-- The flits of a packet of the reduction channel (R264). -/
def RedPkt.flits (p : RedPkt) : Nat := match p.kind with | .sum => 5 | .ack .. => 1

/-- Whether two packets of the reduction channel have one key (R276, R283): reduction ID and line, or source and DMA tag. -/
def RedPkt.sameKey (e p : RedPkt) : Bool :=
  e.id == p.id && e.line == p.line && match e.kind, p.kind with
  | .sum, .sum => true
  | .ack d g _ _, .ack d' g' _ _ => d == d' && g == g'
  | _, _ => false

/-- A packet of the reduction channel leaves a router toward its destination: on the next link, or at its endpoint. -/
def State.redForward (s : State) (p : RedPkt) : State :=
  let e := s.redDest p
  match nextHop p.pos e.r with
  | some (o, c) =>
    let s := s.flitOut p.pos o p.flits
    { s with noc := { s.noc with reds := s.noc.reds ++ [{ p with pos := c }] } }
  | none =>
    let s := s.flitOut p.pos e.out p.flits
    { s with noc := { s.noc with atEnd := s.noc.atEnd ++ [p] } }

/-- Two packets of one key added, entry + packet (R276). -/
def redAdd (e p : RedPkt) : RedPkt :=
  { e with vals := (e.vals.zip p.vals).map fun (a, b) => f32Add a b, count := e.count + p.count, poison := e.poison ||| p.poison,
           srcs := e.srcs ++ p.srcs
           kind := match e.kind, p.kind with
             | .ack d g f m, .ack _ _ f' m' => .ack d g (f + f') (m || m')
             | k, _ => k }

/-- A router's combining entries set. -/
def State.setComb (s : State) (c : CoreId) (es : List RedPkt) : State :=
  { s with noc := { s.noc with comb := s.noc.comb.set (fun _ => []) c.toNat es } }

/-- Whether a packet's COUNT has reached EXPECT (R276); an acknowledgement has none and is released after HOLD. -/
def State.redFull (s : State) (p : RedPkt) : Bool :=
  match p.kind with
  | .sum => decide (s.fld (NOC_RED_CFG (dieOf p.pos).toNat p.id) NOC_RED_CFG.EXPECT ≤ p.count)
  | .ack .. => false

/-- A packet of the reduction channel arrives at its router (R276, R283). -/
def State.redArrive (s : State) (p : RedPkt) : State :=
  let c := p.pos
  if !s.combines c then s.redForward p
  else
    let es := s.noc.comb.get (fun _ => []) c.toNat
    match es.find? fun e => e.sameKey p with
    | some e =>
      let s := s.bumpRt NOC_RT_COMB c
      let e' := redAdd e p
      let rest := es.filter fun x => !x.sameKey p
      if s.redFull e' then (s.setComb c rest).redForward e' else s.setComb c (rest ++ [e'])
    | none =>
      if s.redFull p then s.redForward p
      else if es.length < 64 then s.setComb c (es ++ [p])
      else (s.bumpRt NOC_RT_COMBPASS c).redForward p

/-- A delivery acknowledgement leaves a core's router for the DMA it answers (R283). -/
def State.mcAck (s : State) (c : CoreId) (p : McPkt) (fenced nomem : Bool) : State :=
  let x : RedPkt := { id := p.tag, line := p.from_.toNat, count := 1, vals := [], poison := 0, srcs := [], pos := c,
                      kind := .ack p.die p.gen (if fenced then 1 else 0) nomem }
  { s with noc := { s.noc with reds := s.noc.reds ++ [x] } }

/-- A RED_ORDER record: lines of one order share it (R503). -/
def State.redOrderRec (s : State) (id : Nat) (d : DieId) (round line n : Nat) (srcs : List Nat) : State :=
  s.rplWrite 0x08 (toLe 1 id ++ toLe 1 d.toNat ++ toLe 4 round ++ toLe 2 0 ++ toLe 4 line ++ toLe 2 n ++ toLe 2 srcs.length ++
    srcs.flatMap (toLe 2))

/-- The RED_ORDER records of a round that ends (R503). -/
def State.redOrders (s : State) (id : Nat) (d : DieId) (R : RedRound) : State :=
  let rec go : Nat → State → Tab (List Nat) → State
    | 0, s, _ => s
    | _, s, [] => s
    | k + 1, s, (l, o) :: t =>
      let run := (t.zip (List.range t.length)).takeWhile fun (e, i) => e.1 == l + 1 + i && e.2 == o
      go k (s.redOrderRec id d R.round l (run.length + 1) o) (t.drop run.length)
  go (R.orders.length + 1) s R.orders

/-- A die's round of a reduction ID. -/
def State.round (s : State) (d : DieId) (id : Nat) : RedRound := s.noc.rounds.get (fun _ => {}) (d.toNat * 64 + id)

/-- A die's round of a reduction ID set. -/
def State.setRound (s : State) (d : DieId) (id : Nat) (R : RedRound) : State :=
  { s with noc := { s.noc with rounds := s.noc.rounds.set (fun _ => {}) (d.toNat * 64 + id) R } }

/-- A reduction packet added to its line and counted (R277). -/
def State.redApply (s : State) (p : RedPkt) : State :=
  let d := s.homeDie p.line
  let old := s.readP p.line 256
  let sums := ((lineVals (old.map (·.1))).zip p.vals).map fun (m, v) => f32Add m v
  let bad := (List.range 16).map fun i => p.poison.getLsbD i || (old.drop (16 * i)).head?.any (·.2)
  let bytes := (sums.flatMap (toLe 4)).zip (List.range 256)
  let s := s.writeP p.line (bytes.map fun (b, i) => (b, bad.getD (i / 16) false))
  let cfg := s.rd (NOC_RED_CFG d.toNat p.id)
  let R := s.round d p.id
  if !s.bit (NOC_RED_ADDR d.toNat p.id) NOC_RED_ADDR.V then s
  else
    let base := s.fld (NOC_RED_ADDR d.toNat p.id) NOC_RED_ADDR.ADDR * 256
    let R := if s.records 4 then { R with orders := R.orders.upd (fun _ => []) ((p.line - base) / 256) (· ++ p.srcs) } else R
    let n := R.count + p.count
    let total := NOC_RED_CFG.LINES.get cfg * NOC_RED_CFG.EXPECT.get cfg
    if n < total then s.setRound d p.id { R with count := n }
    else
      let s := if s.records 4 then s.redOrders p.id d R else s
      let s := s.setRound d p.id { R with count := n - total, round := R.round + 1, orders := [], freed := false }
      let s := (s.bump (NOC_RED_ROUNDS d.toNat)).sendAdv ⟨.red d p.id, BitVec.ofNat 18 (NOC_RED_CFG.OBJ.get cfg), 1⟩
      let s := allDies.foldl (fun s e => s.ctrl (s.tierEp p.line) (mcEp e 0)) s
      { s with noc := { s.noc with done := s.noc.done ++ allDies.map fun e => (e, p.id) } }

/-- Held packets of a forced order let in as their turns come (R505). -/
def State.redDrain (s : State) (d : DieId) (id : Nat) : Nat → State
  | 0 => s
  | k + 1 =>
    let R := s.round d id
    match R.held.find? fun p => s.turn (redKey id p.line) (p.srcs.headD 0) != 2 with
    | none => s
    | some p =>
      let s := s.setRound d id { R with held := R.held.erase p }
      let s := if s.turn (redKey id p.line) (p.srcs.headD 0) = 1 then s.takeTurn (redKey id p.line) else s
      State.redDrain (s.redApply p) d id k

/-- A reduction packet at its endpoint (R277, R505): in its turn it is added; out of turn it is held while the reorder store
has room; a source not in the order is a divergence. -/
def State.redEnd (s : State) (p : RedPkt) : State :=
  let d := s.homeDie p.line
  let k := redKey p.id p.line
  let t := s.turn k (p.srcs.headD 0)
  let R := s.round d p.id
  if t = 2 ∧ R.held.length < 256 then
    (s.bump RPL_HELD).setRound d p.id { R with held := R.held ++ [p] }
  else
    let s := if t = 3 then (s.diverge 3 0 p.line).freeOrder k else if t = 2 then (s.diverge 5 0 p.line).freeOrder k else s
    let s := if t = 1 then s.takeTurn k else s
    (s.redApply p).redDrain d p.id 256

end Sys2Proof.Machine
end

