-- ==== Sys2Proof/Machine/Dma.lean ====
section
/-!
DEFINITION. Sys2Proof/Machine/Dma.lean: DMA descriptors, tags, blocks and their line requests, errors and completion (R226 to R229, R250 to
R253), with
the input digests of recording and replay (R501, R504).
-/
namespace Sys2Proof.Machine

/-! ### Tags -/

/-- Whether a DMA still holds its handle. -/
def DmaSt.busy (m : DmaSt) : Bool := m.ph != .done && m.ph != .error

/-- Tags of a die's pool in use (R250): a DMA's handle carries its first block; each further block and each stream block takes
one. -/
def DieSt.tagsUsed (D : DieSt) : Nat :=
  ((D.dmas.filter DmaSt.busy).map fun m => max 1 m.blks.length).sum + (D.rings.map fun e => e.2.blks.length).sum

/-- Free tags of a die's pool. -/
def State.tagsFree (s : State) (d : DieId) : Nat := 8192 - (s.die d).tagsUsed

/-- MEM_TAG_STATUS follows the pool: FREE, and LOW the lowest it has been (R260). -/
def State.showTags (s : State) (d : DieId) : State :=
  let a := MEM_TAG_STATUS d.toNat
  let f := s.tagsFree d
  let s := s.setFld a MEM_TAG_STATUS.FREE f
  s.setFld a MEM_TAG_STATUS.LOW (min (s.fld a MEM_TAG_STATUS.LOW) f)

/-- The DMA that holds a handle tag. -/
def State.dmaOf (s : State) (d : DieId) (tag : Nat) : Option DmaSt := (s.die d).dmas.find? fun m => m.tag == tag && m.busy

/-- A DMA changed. -/
def State.modDma (s : State) (d : DieId) (tag : Nat) (f : DmaSt → DmaSt) : State :=
  s.modDie d fun D => { D with dmas := D.dmas.map fun m => if m.tag = tag then f m else m }

/-! ### Blocks (R228) -/

/-- The rows a DMA has. -/
def DmaSt.rowsOf (m : DmaSt) : Nat := if m.op = 3 then max 1 m.rows else 1

/-- Source address of a row's byte. -/
def DmaSt.srcAt (m : DmaSt) (row pos : Nat) : Nat := (((m.src : Int) + m.sstride * row + pos) % 2 ^ 64).toNat

/-- Destination address of a row's byte. -/
def DmaSt.dstAt (m : DmaSt) (row pos : Nat) : Nat := (((m.dst : Int) + m.dstride * row + pos) % 2 ^ 64).toNat

/-- Whether a DMA has moved or started every block. -/
def DmaSt.cursorEnd (m : DmaSt) : Bool := decide (m.rowsOf ≤ m.row) || m.len == 0

/-- The next block of a DMA, numbered `id`, and its cursor after it: the part of the row within one destination page. -/
def DmaSt.nextBlk (m : DmaSt) (id : Nat) : DmaBlk × DmaSt :=
  let dst := m.dstAt m.row m.pos
  let n := min (m.len - m.pos) (4096 - dst % 4096)
  let b : DmaBlk := { id := id, src := m.srcAt m.row m.pos, dst := dst, n := n }
  (b, if m.pos + n = m.len then { m with row := m.row + 1, pos := 0 } else { m with pos := m.pos + n })

/-- The writer code of a DMA in notices. -/
def dmaWho (d : DieId) (tag : Nat) : Nat := tag + d.toNat * 8192

/-- A DMA's address translated; one of a PHYS command stands for itself (R437). -/
def State.dmaXl (s : State) (d : DieId) (m : DmaSt) (va : Nat) (need : Need) : State × Except Xl Nat :=
  if m.phys then (s, .ok va) else s.xlate d va need

/-- A DMA's address as a physical address, where it is translated now. -/
def State.dmaPa (s : State) (d : DieId) (m : DmaSt) (va : Nat) : Option Nat :=
  if m.phys then some va
  else match s.xlateDie d va with
    | (.page e, _) => some (e.pa + (va - e.va))
    | _ => none

/-! ### Line requests (R250 to R252, R255) -/

/-- Line requests of a die's tags outstanding at an LPDDR5X channel (R252). -/
def State.chanHeld (s : State) (d : DieId) (n : Nat) : Nat :=
  ((s.die d).lines.filter fun l => l.st != .held && l.st != .got && s.targetOf l.pa == .channel n).length

/-- Whether a line's channel is at the die's quota (R252, R253). -/
def State.atQuota (s : State) (d : DieId) (pa : Nat) : Bool :=
  match s.targetOf pa with
  | .channel n => decide (s.fld (MEM_DMA_CTL d.toNat) MEM_DMA_CTL.CH_QUOTA ≤ s.chanHeld d n)
  | _ => false

/-- A waiting line request goes on as far as the channel quota and its injector's tokens let it (R252, R271): to the arbiters before its
target, or to a target that has none. -/
def State.lineGo (s : State) (d : DieId) (l : LineReq) : State :=
  let e := s.engEp d l.pa
  let e' := s.tierEp l.pa
  if l.st = .held ∧ s.atQuota d l.pa then s
  else if !e.atStop e' && s.paced e 1 then s.modLine d l.blk l.pa fun l => { l with st := .fresh }
  else
    let st : LineSt := match s.targetOf l.pa with
      | .bank _ => .asking
      | .channel _ => if e.atStop e' then .asking else .port
      | _ => .queue
    (s.send e e' 1).modLine d l.blk l.pa fun l => { l with st := st }

/-- Every line request of a die that waits goes on as far as it may, oldest first (R245, R252). -/
def State.pumpLines (s : State) (d : DieId) : State :=
  (s.die d).lines.foldl (fun s l => if l.st = .held ∨ l.st = .fresh then s.lineGo d l else s) s

/-- A line request made: held, and counted, where its channel is at quota (R252). -/
def State.addLine (s : State) (d : DieId) (l : LineReq) : State :=
  let q := s.atQuota d l.pa
  let s := s.modDie d fun D => { D with lines := D.lines ++ [{ l with st := if q then .held else .fresh }] }
  if q then s.bump (MEM_CHQ_HELD d.toNat) else s.lineGo d { l with st := .fresh }

/-- The line requests of bytes at a physical address, from offset `off` of their block. -/
def State.addLines (s : State) (d : DieId) (blk : Nat) (stream : Bool) (cls : BitVec 2) (off pa n : Nat) : State :=
  (lineCuts pa n).foldl (fun s (o, k) => s.addLine d { blk := blk, stream := stream, cls := cls, off := off + o, pa := pa + o, n := k }) s

/-- Admitted requests of a block answered (R264): five flits for each line, as its injector's tokens let them go. -/
def State.fetchLines (s : State) (d : DieId) (blk : Nat) : State :=
  ((s.die d).lines.filter fun l => l.blk == blk && l.st == .queue).foldl (fun s l =>
    let e := s.engEp d l.pa
    let e' := s.tierEp l.pa
    if !e.atStop e' && s.paced e' 5 then s
    else
      let bs := s.readP l.pa l.n
      (s.send e' e 5).modLine d blk l.pa fun l => { l with st := .got, data := bs }) s

/-- The bytes of a block, once all its lines are here. -/
def State.blkData (s : State) (d : DieId) (blk : Nat) : Option (List (Byte × Bool)) :=
  let ls := (s.die d).lines.filter fun l => l.blk == blk
  if !ls.isEmpty && ls.all (·.st == .got) then some (ls.flatMap (·.data)) else none

/-- The first poisoned codeword a block has read (R233). -/
def State.blkPoison (s : State) (d : DieId) (blk : Nat) : Option Nat :=
  ((s.die d).lines.filter fun l => l.blk == blk).findSome? fun l =>
    (l.data.zipIdx.find? fun x => x.1.2).map fun x => (l.pa + x.2) / 16 * 16

/-- A block's line requests are over, and what they held back goes on. -/
def State.dropLines (s : State) (d : DieId) (blks : List Nat) : State :=
  (s.modDie d fun D => { D with lines := D.lines.filter fun l => !blks.contains l.blk }).pumpLines d

/-- Whether an address may be read or written by a DMA (R194). -/
def State.dmaPlace (s : State) (a n : Nat) : Bool :=
  match s.place a, s.place (a + n - 1) with
  | .nowhere, _ | .regs, _ | _, .nowhere | _, .regs => false
  | _, _ => true

/-- Where a block's source bytes lie, as offset, physical address and length; or why they cannot be had: a translation, or an error
code, with the virtual address. A FILL has no source. -/
def State.dmaPieces (s : State) (d : DieId) (m : DmaSt) (b : DmaBlk) : State × Except (Sum Xl (BitVec 8) × Nat) (List (Nat × Nat × Nat)) :=
  if m.op = 2 then (s, .ok [])
  else
    let n1 := min b.n (4096 - b.src % 4096)
    match s.dmaXl d m b.src .read with
    | (s, .error x) => (s, .error (.inl x, b.src))
    | (s, .ok p1) =>
      if !s.dmaPlace p1 n1 then (s, .error (.inr 2, b.src))
      else if n1 = b.n then (s, .ok [(0, p1, n1)])
      else
        match s.dmaXl d m (b.src + n1) .read with
        | (s, .error x) => (s, .error (.inl x, b.src + n1))
        | (s, .ok p2) =>
          if !s.dmaPlace p2 (b.n - n1) then (s, .error (.inr 2, b.src + n1)) else (s, .ok [(0, p1, n1), (n1, p2, b.n - n1)])

/-- A block of a DMA changed. -/
def State.modDmaBlk (s : State) (d : DieId) (tag id : Nat) (f : DmaBlk → DmaBlk) : State :=
  s.modDma d tag fun m => { m with blks := m.blks.map fun b => if b.id = id then f b else b }

/-- A block's line requests made. -/
def State.askPieces (s : State) (d : DieId) (m : DmaSt) (b : DmaBlk) (ps : List (Nat × Nat × Nat)) : State :=
  let s := s.modDmaBlk d m.tag b.id fun b => { b with asked := true }
  ps.foldl (fun s (o, pa, n) => s.addLines d b.id false m.cls o pa n) s

/-- A started block's line requests made, where its source can be translated; a fault shows when the block is looked at. -/
def State.askBlk (s : State) (d : DieId) (m : DmaSt) (b : DmaBlk) : State :=
  match s.dmaPieces d m b with
  | (s, .ok ps) => s.askPieces d m b ps
  | (s, .error _) => s

/-- Blocks of one DMA started while it may (R250, R251). -/
def State.startBlocks (s : State) (d : DieId) (tag : Nat) : Nat → State
  | 0 => s
  | k + 1 =>
    match s.dmaOf d tag with
    | none => s
    | some m =>
      if m.ph ≠ .running ∨ m.cursorEnd ∨ s.fld (MEM_DMA_CTL d.toNat) MEM_DMA_CTL.BLOCKS ≤ m.blks.length ∨
         (s.die d).ordered m ∨ (m.blks ≠ [] ∧ s.tagsFree d ≤ 64) then s
      else
        let id := (s.die d).nextBlk
        let (b, m') := m.nextBlk id
        let b := { b with tab := s.nocTabs d }
        let s := (s.modDma d tag fun _ => { m' with blks := m'.blks ++ [b] }).modDie d fun D => { D with nextBlk := id + 1 }
        State.startBlocks (s.askBlk d m b) d tag k

/-- Every DMA of a die starts what it may. -/
def State.pumpDmas (s : State) (d : DieId) : State :=
  let s := (s.die d).dmas.foldl (fun s m => if m.busy then s.startBlocks d m.tag 64 else s) s
  -- a DMA with nothing left to move waits for its writes to be visible
  let s := (s.die d).dmas.foldl (fun s m =>
    if m.ph = .running ∧ m.blks.isEmpty ∧ m.cursorEnd ∧ !(s.die d).ordered m then
      s.modDma d m.tag fun m => { m with ph := .settling } else s) s
  s.showTags d

/-! ### Errors -/

/-- A DMA ends in error (R227): its blocks stop, firmware stops the owning program, where it still runs, or completes the owning command
with HW_ERROR. -/
def State.dmaError (s : State) (d : DieId) (tag : Nat) (err : BitVec 8) : State :=
  match s.dmaOf d tag with
  | none => s
  | some m =>
    let s := m.blks.foldl (fun s b => match b.late with | some p => s.notify p 1 (dmaWho d tag) | none => s) s
    let s := s.modDma d tag fun m => { m with ph := .error, err := err, blks := [], rounds := [], mcWait := 0 }
    let s := s.dropLines d (m.blks.map (·.id))
    let s := match m.owner with
      | .core c =>
        if (s.core c).launch = m.prog ∧ ((s.core c).run = RunSt.running ∨ (s.core c).run = RunSt.halting) then s.stopProgram c else s
      | .cmd id => s.finish id stHwError []
      | .firmware => s
    s.pumpDmas d

/-- The error code of a translation that ends a DMA, or nothing when the DMA waits for service (R229, R236, R237). -/
def State.dmaXlFail (s : State) (d : DieId) (tag va : Nat) (x : Xl) : State :=
  match x with
  | .fault c host entry =>
    if c = cNotPresent ∧ !host then
      ((s.modDma d tag fun m => { m with ph := .faulted va }).modDie d fun D =>
        { D with faults := D.faults ++ [(.dma tag, va)] }).emit (.dieInt d 3)
    else if c = cPoison then (s.poisonUse entry 4 (dmaWho d tag)).dmaError d tag 3
    else s.dmaError d tag 1
  | .ats => (s.modDma d tag fun m => { m with ph := .ats va }).modDie d fun D =>
      if D.atsWait.contains (va / 4096 * 4096) then D else { D with atsWait := D.atsWait ++ [va / 4096 * 4096] }
  | .pri => (s.modDma d tag fun m => { m with ph := .ats va }).modDie d fun D =>
      if D.priWait.contains (va / 4096 * 4096) then D else { D with priWait := D.priWait ++ [va / 4096 * 4096] }
  | .page _ => s

/-! ### Data -/

/-- The core ID a reduction's order names for a DMA (R503). -/
def DmaSt.srcId (m : DmaSt) (d : DieId) : Nat :=
  match m.owner with
  | .core c => c.toNat
  | _ => 0x400 + d.toNat

/-- How one line's part of a block goes out: it waits for tokens, it covers only part of a line of a reduction range, or it is gone. -/
inductive Part
  | wait
  | bad
  | gone (s : State)

/-- One line's part of a block written (R264, R275, R280): into a multicast set, as a reduction packet, or as a plain write with its
acknowledgement; FILL writes are never summed. The tables are those the block started under (R290). -/
def State.dmaPart (s : State) (d : DieId) (m : DmaSt) (tab : Tab Word) (a : Nat) (bs : List (Byte × Bool)) : Part :=
  let old := s.withTabs d tab
  let e := s.engEp d a
  let n := writeFlits bs.length
  match old.mcgOf d a with
  | some g =>
    if s.paced e n then .wait
    else
      let set := old.mcSet d g
      let s := (s.spend e n).mcFlits e.r set n
      let p : McPkt := ⟨d, m.tag, m.gen, e.r, (a - 0x110000000000) % 2 ^ 20, bs, set⟩
      let s := s.modDma d m.tag fun m => { m with mcWait := m.mcWait + set.length }
      .gone { s with noc := { s.noc with mcs := s.noc.mcs ++ [p] } }
  | none =>
    match if m.op = 2 then none else old.redOf d a with
    | some r =>
      if a % 256 ≠ 0 ∨ bs.length ≠ 256 then .bad
      else if s.paced e 5 then .wait
      else
        let bad := (List.range 16).foldl (fun p i => if (bs.drop (16 * i)).head?.any (·.2) then p ||| (1 <<< i) else p) 0
        let p : RedPkt := { id := r, line := a, count := 1, vals := lineVals (bs.map (·.1)), poison := bad, srcs := [m.srcId d], pos := e.r }
        let s := (s.spend e 5).modDma d m.tag fun m => { m with rounds := if m.rounds.contains r then m.rounds else m.rounds ++ [r] }
        .gone { s with noc := { s.noc with reds := s.noc.reds ++ [p] } }
    | none =>
      let e' := s.tierEp a
      if !e.atStop e' && s.paced e n then .wait
      else .gone ((((s.send e e' n).writeP a bs).received a (dmaWho d m.tag)).ctrl e' e)

/-- A block's bytes written line by line from those moved, for as long as tokens last, up to a line that a reduction range refuses: the
state, the bytes moved, and whether a line was refused. -/
def State.dmaParts (s : State) (d : DieId) (m : DmaSt) (tab : Tab Word) (a : Nat) (bs : List (Byte × Bool)) (moved : Nat) : List (Nat × Nat) → State × Nat × Bool
  | [] => (s, moved, false)
  | (o, n) :: rest =>
    if o < moved then State.dmaParts s d m tab a bs moved rest
    else match s.dmaPart d m tab (a + o) ((bs.drop o).take n) with
    | .gone s => State.dmaParts s d m tab a bs (o + n) rest
    | .wait => (s, moved, false)
    | .bad => (s, moved, true)
  termination_by structural l => l

/-- The pattern of a FILL over a block (R226). -/
def fillBytes (m : DmaSt) (b : DmaBlk) : List (Byte × Bool) :=
  (List.range b.n).map fun i => (BitVec.ofNat 8 (m.src / 256 ^ ((b.dst + i) % 8)), false)

/-- A block's bytes written at their destination (R221, R228): a begin notice goes before its first write to a late page and an end notice
after its last; a block whose lines have all gone is finished and frees its tag. -/
def State.dmaWrite (s : State) (d : DieId) (m : DmaSt) (b : DmaBlk) (bs : List (Byte × Bool)) : State :=
  let who := dmaWho d m.tag
  match s.dmaXl d m b.dst .write with
  | (s, .error x) => s.dmaXlFail d m.tag b.dst x
  | (s, .ok a) =>
    let page := a / 4096 * 4096
    if ((s.withTabs d b.tab).mcgOf d a).isNone && !s.dmaPlace a b.n then s.dmaError d m.tag 2
    else if b.late.isNone && s.heldForRead a then s
    else
      let s := match s.blkPoison d b.id with
        | some pa => if b.moved = 0 then (s.poisonUse pa 2 who).modDma d m.tag fun m => { m with err := 3 } else s
        | none => s
      let opens := b.late.isNone && s.isLate a
      let s := if opens then s.notify page 0 who else s
      let late := if opens then some page else b.late
      let s := s.modDmaBlk d m.tag b.id fun b => { b with late := late }
      match s.dmaParts d m b.tab a bs b.moved (lineCuts a b.n) with
      | (s, _, true) => s.dmaError d m.tag 5
      | (s, k, false) =>
        if k < b.n then s.modDmaBlk d m.tag b.id fun b => { b with moved := k }
        else
          let s := match late with | some p => s.notify p 1 who | none => s
          ((s.modDma d m.tag fun m => { m with blks := m.blks.filter (·.id != b.id), blocks := m.blocks + 1 }).dropLines d [b.id]).pumpDmas d

/-- A block in flight goes on (R228): its source is asked for, read wholly, and then written; or the fault or error it meets. -/
def State.dmaBlock (s : State) (d : DieId) (m : DmaSt) (b : DmaBlk) : State :=
  let (s, r) := if b.asked then (s, .ok []) else s.dmaPieces d m b
  match r with
  | .error (.inl x, va) => s.dmaXlFail d m.tag va x
  | .error (.inr e, _) => s.dmaError d m.tag e
  | .ok ps =>
    let s := if b.asked then s else s.askPieces d m b ps
    if m.op = 2 then s.dmaWrite d m b (fillBytes m b)
    else
      let s := (s.pumpLines d).fetchLines d b.id
      match s.blkData d b.id with
      | some bs => s.dmaWrite d m b bs
      | none => s

/-! ### Acceptance -/

/-- A DMA from a 64-byte descriptor (R226). -/
def dmaFrom (bs : List Byte) (owner : DmaOwner) : DmaSt :=
  let f (o n : Nat) := leNat ((bs.drop o).take n)
  { tag := 0, gen := 0, owner := owner, op := BitVec.ofNat 8 (f 0 1), flags := BitVec.ofNat 8 (f 1 1), cls := BitVec.ofNat 2 (f 2 1)
    len := f 4 4, src := f 8 8, dst := f 16 8, rows := f 24 4, sstride := sint 64 (f 32 8), dstride := sint 64 (f 40 8)
    obj := BitVec.ofNat 18 (f 48 4), amt := BitVec.ofNat 64 (f 52 4) }

/-- A DMA takes a handle tag and begins (R226, R250): an OP that is not listed ends it in error DESCRIPTOR. -/
def State.acceptDma (s : State) (d : DieId) (tag : Nat) (m : DmaSt) : State :=
  let g := ((s.die d).tagGen.get (fun _ => 0) tag + 1) % 65536
  let m := { m with tag := tag, gen := g, prog := match m.owner with | .core c => (s.core c).launch | _ => none }
  let s := s.modDie d fun D => { D with tagGen := D.tagGen.set (fun _ => 0) tag g
                                        dmas := (D.dmas.filter fun x => x.tag != tag) ++ [m] }
  if m.op = 1 ∨ m.op = 2 ∨ m.op = 3 then s.pumpDmas d else s.dmaError d tag 5

/-- The head DMAQ of a core's queue whose descriptor has been read. -/
def CoreSt.dmaqReady (C : CoreSt) : Option Flight :=
  (C.fl.find? fun f => iclass f.w == 8 && !f.gone).filter fun f => f.ph == .run && f.complete

/-! ### Replay logs -/

/-- The records of a replayed log, as byte lists, from offset `o`. -/
def State.replayRecords (s : State) : List (List Byte) :=
  let all := s.rdMem s.rpl.rBase s.rpl.rLen
  let rec go : Nat → List Byte → List (List Byte)
    | 0, _ => []
    | k + 1, bs =>
      let len := leNat ((bs.drop 2).take 2)
      if len < 16 ∨ bs.length < len then [] else bs.take len :: go k (bs.drop len)
  go (s.rpl.rLen / 16 + 1) all

/-- A field of a record. -/
def recNum (r : List Byte) (o n : Nat) : Nat := leNat ((r.drop o).take n)

/-- An input recorded (R501) and, in a replay, checked against the log's digest (R504): kind, die, DMA tag or RSN, source word,
bytes. -/
def State.input (s : State) (kind die tag : Nat) (src : Nat) (bs : List Byte) : State :=
  let dig := sm3 bs
  let s :=
    if s.records 1 then
      let seq := s.rpl.seq
      let s := s.rplWrite 0x04 (toLe 1 kind ++ toLe 1 0 ++ toLe 2 die ++ toLe 4 tag ++ toLe 8 src ++ toLe 8 bs.length ++ dig)
      if s.records 2 then
        (List.range ((bs.length + 4095) / 4096)).foldl (fun s i =>
          s.rplWrite 0x05 (toLe 4 seq ++ toLe 4 0 ++ toLe 8 (4096 * i) ++ (bs.drop (4096 * i)).take 4096)) s
      else s
    else s
  if s.replaying then
    let rs := s.replayRecords.filter fun r =>
      r.head? == some 4 && recNum r 16 1 == kind && recNum r 18 2 == die && recNum r 24 8 == src && recNum r 32 8 == bs.length
    if rs.isEmpty ∨ (rs.any fun r => (r.drop 40).take 32 == dig) then s
    else s.diverge 0 (recNum (rs.headD []) 4 4) src
  else s

/-- The bytes a log's CONTENT records give for an input, when they are all there (R504). -/
def State.loggedInput (s : State) (kind die src n : Nat) : Option (List Byte) :=
  if !s.replaying then none
  else match s.replayRecords.find? fun r =>
      r.head? == some 4 && recNum r 16 1 == kind && recNum r 18 2 == die && recNum r 24 8 == src && recNum r 32 8 == n with
    | none => none
    | some r =>
      let parts := s.replayRecords.filter fun c => c.head? == some 5 && recNum c 16 4 == recNum r 4 4
      let bs := (parts.flatMap fun c => c.drop 32).take n
      if bs.length = n then some bs else none

/-- The bytes a DMA has read, row by row, and whether its source lies in host memory. -/
def State.dmaInput (s : State) (d : DieId) (m : DmaSt) : List Byte × Bool :=
  let page (va n : Nat) : List Byte × Bool := match s.dmaPa d m va with
    | some pa => (s.rdMem pa n, s.place pa == .host)
    | none => (List.replicate n 0, false)
  let parts := (List.range m.rowsOf).flatMap fun r =>
    let a := m.srcAt r 0
    (List.range ((a % 4096 + m.len + 4095) / 4096)).map fun i =>
      let lo := if i = 0 then a else a / 4096 * 4096 + i * 4096
      page lo (min (4096 - lo % 4096) (a + m.len - lo))
  (parts.flatMap (·.1), match parts with | (_, h) :: _ => h | [] => false)

/-- A replayed DMA's input taken from the log in place of its source (R504): its destination rows get the logged bytes. -/
def State.dmaReplay (s : State) (d : DieId) (m : DmaSt) (bs : List Byte) : State :=
  (List.range m.rowsOf).foldl (fun s r =>
    let a := m.dstAt r 0
    (List.range ((a % 4096 + m.len + 4095) / 4096)).foldl (fun s i =>
      let lo := if i = 0 then a else a / 4096 * 4096 + i * 4096
      let n := min (4096 - lo % 4096) (a + m.len - lo)
      match s.dmaPa d m lo with
      | some pa => s.wrMem pa ((bs.drop (r * m.len + (lo - a))).take n)
      | none => s) s) s

/-! ### Completion -/

/-- The bytes a DMA moves, as its command's word 0 says (R447). -/
def DmaSt.bytes (m : DmaSt) : Nat := m.len * m.rowsOf

/-- A DMA is done (R227, R229): its handle frees, its owner's command completes, HW_ERROR when the data were poisoned (R442). -/
def State.dmaDone (s : State) (d : DieId) (m : DmaSt) : State :=
  let s := s.modDma d m.tag fun m => { m with ph := .done }
  let s := match m.owner with
    | .cmd id => s.finish id (if m.err = 3 then stHwError else stOk) [m.bytes]
    | _ => s
  s.pumpDmas d

/-- A DMA whose writes are visible everywhere (R227, R278, R283): it advances its object, or is done, or reports its error. -/
def State.dmaVisible (s : State) (d : DieId) (m : DmaSt) : State :=
  if m.redErr then s.dmaError d m.tag 2
  else
    let s := if m.op ≠ 2 ∧ (s.recording ∨ s.replaying) then
        let (bs, host) := s.dmaInput d m
        if host then
          let s := s.input 0 d.toNat m.tag m.src bs
          match s.loggedInput 0 d.toNat m.src bs.length with
          | some l => s.dmaReplay d m l
          | none => s
        else s
      else s
    if m.flags.getLsbD 0 then
      (s.modDma d m.tag fun m => { m with ph := .advancing }).sendAdv ⟨.dma d m.tag, m.obj, m.amt⟩
    else s.dmaDone d m

end Sys2Proof.Machine
end

