-- ==== Sys2Proof/Machine/Stream.lean ====
section
/-!
DEFINITION. Sys2Proof/Machine/Stream.lean: stream rings and late-write notices at the stream engines (R214 to R225).
-/
namespace Sys2Proof.Machine

/-- A die's ring. -/
def State.ring (s : State) (d : DieId) (n : Nat) : RingSt := (s.die d).rings.get (fun _ => {}) n

/-- A die's ring set. -/
def State.setRing (s : State) (d : DieId) (n : Nat) (r : RingSt) : State :=
  s.modDie d fun D => { D with rings := D.rings.set (fun _ => {}) n r }

/-- Slots of a ring (R217): SLOTS holds S − 1. -/
def State.ringS (s : State) (d : DieId) (n : Nat) : Nat := max 1 (s.fld (STM_RING_CTL d.toNat n) STM_RING_CTL.SLOTS) + 1

/-- Bytes of a slot. -/
def State.ringSize (s : State) (d : DieId) (n : Nat) : Nat := max 1 (s.fld (STM_RING_SLOT d.toNat n) STM_RING_SLOT.SIZE) * 4096

/-- The dies a ring writes (R219): DIE_MASK, 0 for its own. -/
def State.ringDies (s : State) (d : DieId) (n : Nat) : List DieId :=
  let m := s.fld (STM_RING_CTL d.toNat n) STM_RING_CTL.DIE_MASK
  allDies.filter fun e => if m = 0 then e == d else decide (m / 2 ^ e.toNat % 2 = 1)

/-- The base of a ring's slots on a die. -/
def State.ringBase (s : State) (d : DieId) (n : Nat) (e : DieId) : Nat :=
  s.fld (STM_RING_BASE d.toNat n e.toNat) STM_RING_BASE.ADDR * 4096

/-- The producer object of a ring. -/
def State.ringP (s : State) (d : DieId) (n : Nat) : ObjId := BitVec.ofNat 18 (s.fld (STM_RING_SYNC d.toNat n) STM_RING_SYNC.PROD)

/-- The release object of a ring. -/
def State.ringR (s : State) (d : DieId) (n : Nat) : ObjId := BitVec.ofNat 18 (s.fld (STM_RING_SYNC d.toNat n) STM_RING_SYNC.REL)

/-- A ring register after a write: DEPTH is clamped to 1 to S − 1, TAGS to 1 to 2,048 and DIE_MASK 0 to its own die (R217,
R225). -/
def State.ringFix (s : State) (d : DieId) (n : Nat) : State :=
  let a := STM_RING_CTL d.toNat n
  let w := s.rd a
  let w := STM_RING_CTL.DEPTH.put w (max 1 (min (s.ringS d n - 1) (STM_RING_CTL.DEPTH.get w)))
  let w := STM_RING_CTL.TAGS.put w (max 1 (min 2048 (STM_RING_CTL.TAGS.get w)))
  let w := if STM_RING_CTL.DIE_MASK.get w = 0 then STM_RING_CTL.DIE_MASK.put w (2 ^ d.toNat) else w
  s.wr a w

/-- A ring has stopped: EN reads 0 and the register writes held meanwhile apply (R225). -/
def State.ringStopped (s : State) (d : DieId) (n : Nat) : State :=
  let r := s.ring d n
  let s := s.setFld (STM_RING_CTL d.toNat n) STM_RING_CTL.EN 0
  let s := (s.setRing d n { r with running := false, stopping := false, blks := [], faulted := none, held := [] }).dropLines d (r.blks.map (·.id))
  ((r.held.foldl (fun s (a, v) => s.plainWrite a v) s).ringFix d n).showTags d

/-- A ring ends in error: no advance of P (R215, R218). -/
def State.ringErr (s : State) (d : DieId) (n : Nat) : State :=
  (s.setFld (STM_RING_POS d.toNat n) STM_RING_POS.ERR 1).ringStopped d n

/-- A translation that fails a ring, or what it waits for (R218, R236, R237). -/
def State.ringXlFail (s : State) (d : DieId) (n va : Nat) (x : Xl) : State :=
  let page := va / 4096 * 4096
  let r := s.ring d n
  match x with
  | .fault c host entry =>
    if c = cNotPresent ∧ !host then
      if r.faulted.isSome then s
      else ((s.setRing d n { r with faulted := some va }).modDie d fun D =>
        { D with faults := D.faults ++ [(.ring n, va)] }).emit (.dieInt d 3)
    else (s.walkPoison c entry n).ringErr d n
  | .ats => s.modDie d fun D => if D.atsWait.contains page then D else { D with atsWait := D.atsWait ++ [page] }
  | .pri => s.modDie d fun D => if D.priWait.contains page then D else { D with priWait := D.priWait ++ [page] }
  | .page _ => s

/-- Entries of the list. -/
def State.ringCount (s : State) (d : DieId) (n : Nat) : Nat := s.fld (STM_RING_LIST d.toNat n) STM_RING_LIST.COUNT

/-- An entry filled (R217): P advances, FILLED counts, the next entry is up; after the last one the ring is DONE. -/
def State.ringEntryDone (s : State) (d : DieId) (n : Nat) : State :=
  let r := s.ring d n
  let s := s.sendAdv ⟨.ring (d.toNat * 8 + n), s.ringP d n, 1⟩
  let pos := STM_RING_POS d.toNat n
  let s := s.setFld pos STM_RING_POS.FILLED (s.fld pos STM_RING_POS.FILLED + 1)
  let s := s.setRing d n { r with entry := r.entry + 1, loaded := false, next := 0, done := 0 }
  if s.ringCount d n ≤ r.entry + 1 then (s.setFld pos STM_RING_POS.DONE 1).ringStopped d n else s

/-- The virtual address a ring reads next: its entry of the list, or the next block of the entry's source. -/
def State.ringVa (s : State) (d : DieId) (n : Nat) : Nat :=
  let r := s.ring d n
  if r.loaded then r.src + r.next * 4096 else s.fld (STM_RING_LIST d.toNat n) STM_RING_LIST.VA * 16 + 16 * r.entry

/-- The next entry of the list read (R216): LEN rounded up and clamped. A list outside STREAM-RO memory ends the ring; so does a poisoned
entry (a DESIGN CHOICE, in the log), which is reported. -/
def State.ringLoad (s : State) (d : DieId) (n : Nat) : State :=
  let r := s.ring d n
  let va := s.ringVa d n
  match s.xlate d va .read with
  | (s, .error x) => s.ringXlFail d n va x
  | (s, .ok pa) =>
    if s.mark d pa ≠ .streamRo then s.ringErr d n
    else if s.poisoned pa 16 then (s.poisonUse pa 3 n).ringErr d n
    else
      let len := s.rdNum (pa + 8) 4
      let len' := min ((len + 4095) / 4096 * 4096) (s.ringSize d n)
      let s := if len' = len then s else s.bump (STM_CLAMPS d.toNat)
      let skip := s.rdNum (pa + 12) 1 % 2 == 1
      let s := s.setRing d n { s.ring d n with
        loaded := true, src := s.rdNum pa 8 / 4096 * 4096, len := len', skip := skip, tag := s.rdNum (pa + 14) 2, next := 0, done := 0 }
      -- the slot is refilled: its earlier copy is gone
      s.modDie d fun D => { D with copies := D.copies.filter fun c => !(c.ring == n && c.slot == r.entry % s.ringS d n) }

/-- Whether a block's read has begun and has not ended: it has line requests (R222). -/
def DieSt.reading (D : DieSt) (b : RingBlk) : Bool := !b.read && D.lines.any fun l => l.blk == b.id

/-- Whether notices of a page are on their way to a die's stream engine (R221). -/
def State.noticesFor (s : State) (d : DieId) (page : Nat) : Bool := s.noc.notices.any fun x => x.d == d && x.block == page

/-- Whether a block's read may begin (R222): its page is not between a begin notice and its end notice; a read for which writes are held
waits until nothing that came before the hold is on its way. -/
def State.mayReadBlk (s : State) (d : DieId) (b : RingBlk) : Bool :=
  !(s.die d).begun.contains b.pa && (!b.hold || (!s.noticesFor d b.pa && !s.midWrite b.pa))

/-- A block's read begun, where it may: a line request for each of its 16 lines, of the ring's class. -/
def State.blkRead (s : State) (d : DieId) (n : Nat) (b : RingBlk) : State :=
  if b.read || (s.die d).reading b || !s.mayReadBlk d b then s
  else s.addLines d b.id true (BitVec.ofNat 2 (s.fld (STM_RING_CTL d.toNat n) STM_RING_CTL.CLASS)) 0 b.pa 4096

/-- A block of the entry started (R218, R222, R251): one whose source page is being written waits; one outside STREAM-RO ends
the ring. -/
def State.ringStart (s : State) (d : DieId) (n : Nat) : State :=
  let r := s.ring d n
  let va := s.ringVa d n
  match s.xlate d va .read with
  | (s, .error x) => s.ringXlFail d n va x
  | (s, .ok pa) =>
    if s.mark d pa ≠ .streamRo then s.ringErr d n
    else if (s.die d).begun.contains (pa / 4096 * 4096) then s
    else
      let b : RingBlk := { id := (s.die d).nextBlk, n := r.next, pa := pa / 4096 * 4096 }
      let s := s.modDie d fun D => { D with nextBlk := D.nextBlk + 1 }
      ((s.setRing d n { s.ring d n with next := r.next + 1, blks := r.blks ++ [b] }).blkRead d n b).showTags d

/-- A ring goes as far as it may (R217, R218): entries in order as releases allow, blocks up to TAGS in flight while more than
64 tags are free. `fuel` bounds the entries skipped and blocks started. -/
def State.ringGo (s : State) (d : DieId) (n : Nat) : Nat → State
  | 0 => s
  | k + 1 =>
    let r := s.ring d n
    if !r.running ∨ r.stopping ∨ r.faulted.isSome then s
    else if !r.loaded then
      if s.ringCount d n ≤ r.entry then (s.setFld (STM_RING_POS d.toNat n) STM_RING_POS.DONE 1).ringStopped d n
      else
        let rel := (s.objVal (s.ringR d n) - r.r0).toNat
        if r.entry ≤ rel + s.fld (STM_RING_CTL d.toNat n) STM_RING_CTL.DEPTH then
          let s := s.ringLoad d n
          if (s.ring d n).loaded then State.ringGo s d n k else s
        else s
    else if r.skip ∨ r.len = 0 then State.ringGo (s.ringEntryDone d n) d n k
    else if r.len ≤ r.next * 4096 ∨ s.fld (STM_RING_CTL d.toNat n) STM_RING_CTL.TAGS ≤ r.blks.length ∨ s.tagsFree d ≤ 64 then s
    else
      let s := s.ringStart d n
      if r.next < (s.ring d n).next then State.ringGo s d n k else s

/-- The fuel of a ring's progress: enough for every block one entry may start. -/
def ringFuel : Nat := 4096

/-- A ring is enabled (R215, R217): it samples P and Rl and starts, unless a slot lies outside SPILL bonded SRAM. -/
def State.ringEnable (s : State) (d : DieId) (n : Nat) : State :=
  let r := s.ring d n
  if r.running then (if r.stopping then s else s)
  else
    let s := (s.setFld (STM_RING_CTL d.toNat n) STM_RING_CTL.EN 1).ringFix d n
    let s := s.wr (STM_RING_POS d.toNat n) 0
    if (s.ringDies d n).all fun e => s.spillBonded d (s.ringBase d n e) (s.ringS d n * s.ringSize d n) then
      let s := s.setRing d n { running := true, p0 := s.objVal (s.ringP d n), r0 := s.objVal (s.ringR d n) }
      let s := s.modDie d fun D => { D with copies := D.copies.filter fun c => c.ring != n }
      s.ringGo d n ringFuel
    else s.ringErr d n

/-- A ring is disabled: it stops once the block in progress has been written (R220). -/
def State.ringDisable (s : State) (d : DieId) (n : Nat) : State :=
  let r := s.ring d n
  if !r.running then s
  else if r.blks.isEmpty then s.ringStopped d n
  else s.setRing d n { r with stopping := true }

/-- A block of a ring changed. -/
def State.modRingBlk (s : State) (d : DieId) (n id : Nat) (f : RingBlk → RingBlk) : State :=
  let r := s.ring d n
  s.setRing d n { r with blks := r.blks.map fun b => if b.id = id then f b else b }

/-- A block in flight is written into its slot (R217 to R219, R222): it leaves the ring, and the slot remembers it; after the last block of
an entry P advances, and a ring that is being stopped stops. -/
def State.ringWritten (s : State) (d : DieId) (n : Nat) (b : RingBlk) : State :=
  let r := s.ring d n
  let slot := r.entry % s.ringS d n
  let s := (s.setRing d n { r with blks := r.blks.filter (·.id != b.id), done := r.done + 1 }).dropLines d [b.id]
  let s := s.modDie d fun D =>
    if D.copies.any fun c => c.ring == n && c.slot == slot then
      { D with copies := D.copies.map fun c => if c.ring = n ∧ c.slot = slot then { c with blocks := c.blocks ++ [b.pa] } else c }
    else { D with copies := D.copies ++ [⟨n, slot, r.entry, r.tag, [b.pa]⟩] }
  let s := if r.len ≤ (r.done + 1) * 4096 then s.ringEntryDone d n else s
  let r := s.ring d n
  (if r.running ∧ r.stopping ∧ r.blks.isEmpty then s.ringStopped d n else s.ringGo d n ringFuel).showTags d

/-- The lines of a block still to be written: on each die of the ring, the slot's address and the bytes (R219). -/
def State.ringParts (s : State) (d : DieId) (n : Nat) (b : RingBlk) (data : List (Byte × Bool)) : List (Nat × List (Byte × Bool)) :=
  let at_ (e : DieId) : Nat := s.ringBase d n e + (s.ring d n).entry % s.ringS d n * s.ringSize d n + b.n * 4096
  ((s.ringDies d n).flatMap fun e => (List.range 16).map fun i => (at_ e + 256 * i, (data.drop (256 * i)).take 256)).drop b.moved

/-- Lines written for as long as tokens last: the state, and how many went (R264, R271). -/
def State.ringSend (s : State) (d : DieId) (k : Nat) : List (Nat × List (Byte × Bool)) → State × Nat
  | [] => (s, k)
  | (a, bs) :: rest =>
    let e := s.engEp d a
    let e' := s.tierEp a
    if s.paced e 5 then (s, k) else State.ringSend (((s.send e e' 5).writeP a bs).ctrl e' e) d (k + 1) rest
  termination_by structural l => l

/-- A block that has been read goes into its slot on every die of the ring (R218, R219): its poison goes with it and is reported. -/
def State.ringBlock (s : State) (d : DieId) (n : Nat) (b : RingBlk) (data : List (Byte × Bool)) : State :=
  let s := match s.blkPoison d b.id with
    | some pa => if b.moved = 0 then s.poisonUse pa 3 n else s
    | none => s
  let parts := s.ringParts d n b data
  let (s, k) := s.ringSend d 0 parts
  if k < parts.length then s.modRingBlk d n b.id fun b => { b with moved := b.moved + k } else s.ringWritten d n b

/-- A block in flight goes on (R217 to R222): read as it stood at one instant, no notice of its page being on its way, then written. -/
def State.ringStep (s : State) (d : DieId) (n : Nat) (b : RingBlk) : State :=
  let s := s.blkRead d n b
  let s := if b.read then s else (s.pumpLines d).fetchLines d b.id
  match s.blkData d b.id with
  | none => s
  | some bs =>
    if !b.read && s.noticesFor d b.pa then s
    else (s.modRingBlk d n b.id fun b => { b with read := true }).ringBlock d n { b with read := true } bs

/-- A STALE_WINDOW event (R224). -/
def State.stale (s : State) (d : DieId) (block : Nat) (kind ring slot entry tag who : Nat) : State :=
  let s := s.bump (STM_STALE_CNT d.toNat)
  let s := s.wr (STM_STALE_LAST d.toNat) (STM_STALE_LAST.KIND.put (STM_STALE_LAST.BLOCK.put 0 (block / 4096)) kind)
  let (tier, _, _, src) := s.tierOf block
  s.event 0x0010 3 src tier block
    (toLe 1 kind ++ toLe 1 ring ++ toLe 2 slot ++ toLe 4 entry ++ toLe 2 tag ++ toLe 2 0 ++ toLe 4 who)

/-- Whether a copy's slot has not been released (R217, R224). -/
def State.unreleased (s : State) (d : DieId) (c : SlotCopy) : Bool :=
  decide ((s.objVal (s.ringR d c.ring) - (s.ring d c.ring).r0).toNat ≤ c.entry)

/-- The fills of a die that have a block in flight. -/
def State.filling (s : State) (d : DieId) (block : Nat) : List Nat :=
  ((s.die d).rings.filter fun e => e.2.blks.any fun b => b.pa == block && !b.read).map (·.1)

/-- The live slots of a die that hold a copy of a block. -/
def State.liveCopies (s : State) (d : DieId) (block : Nat) : List SlotCopy :=
  (s.die d).copies.filter fun c => c.blocks.contains block && s.unreleased d c

/-- Reads of a block in progress are discarded (R222), each counted; the fourth asks for writes to be held for one read, which is
kept. -/
def State.discardReads (s : State) (d : DieId) (block : Nat) : State :=
  (s.filling d block).foldl (fun s n =>
    let D := s.die d
    let hit (b : RingBlk) : Bool := b.pa == block && D.reading b && !b.hold
    let gone := (s.ring d n).blks.filter hit
    let redo (b : RingBlk) : RingBlk := { b with rereads := b.rereads + 1, hold := decide (4 ≤ b.rereads + 1) }
    let s := s.setRing d n { s.ring d n with blks := (s.ring d n).blks.map fun b => if hit b then redo b else b }
    (gone.foldl (fun s _ => s.bump (STM_REREAD d.toNat)) s).dropLines d (gone.map (·.id))) s

/-- A stream engine receives a late-write notice (R222, R224): whatever its kind it discards the reads of the block in progress; begin and
end notices bar and free the block; a write is reported by each engine that fills from or holds the block, and where none does, by the
engine of the block's die. -/
def State.noticed (s : State) (x : Notice) : State :=
  let d := x.d
  let rs := s.filling d x.block
  let s := s.discardReads d x.block
  match x.kind.toNat with
  | 0 => s.modDie d fun D => { D with begun := D.begun ++ [x.block] }
  | 1 => s.modDie d fun D => { D with begun := D.begun.erase x.block }
  | _ =>
    let s1 := rs.foldl (fun s n =>
      let r := s.ring d n
      s.stale d x.block 1 n (r.entry % s.ringS d n) r.entry r.tag x.who) s
    let cs := s.liveCopies d x.block
    let s2 := cs.foldl (fun s c => s.stale d x.block 0 c.ring c.slot c.entry c.tag x.who) s1
    if s.homeDie x.block = d ∧ allDies.all fun e => (s.filling e x.block).isEmpty && (s.liveCopies e x.block).isEmpty then
      s2.stale d x.block 2 0 0 0 0 x.who
    else s2

/-! ### Translations in use (R238) -/

/-- Whether an access still uses one of a list of physical ranges with a translation it has made (R238): a load's line, a line request or a
block of an engine, or a write on the mesh. -/
def State.inUse (s : State) (rs : List (Nat × Nat)) : Bool :=
  let hit (pa k : Nat) : Bool := rs.any fun (a, n) => decide (pa < a + n) && decide (a < pa + k)
  (s.cores.any fun e => e.2.fl.any fun f => f.segs.any fun g => g.data.isNone && hit g.pa g.len) ||
  (s.dies.any fun e => (e.2.lines.any fun l => hit l.pa l.n) || e.2.rings.any fun r => r.2.blks.any fun b => hit b.pa 4096) ||
  ((s.noc.reds ++ s.noc.atEnd ++ s.noc.comb.flatMap (·.2) ++ s.noc.rounds.flatMap (·.2.held)).any fun p => p.kind == .sum && hit p.line 256) ||
  s.noc.mcs.any fun p => p.left.any fun c => hit (0x110000000000 + c.toNat * 2 ^ 20 + p.off) p.data.length

/-- The number that marks a command's data as the ranges its reply waits for. -/
def mapMark : Nat := 0x4D4150

/-- Pairs of a flat list. -/
def pairsOf : List Nat → List (Nat × Nat)
  | a :: b :: t => (a, b) :: pairsOf t
  | _ => []

/-- Map and unmap commands whose old translations no access uses any more complete (R238). -/
def State.mapsDone (s : State) : State :=
  s.host.cmds.foldl (fun s x =>
    match x.data with
    | m :: rest => if m = mapMark ∧ !s.inUse (pairsOf rest) then s.finish x.id stOk [] else s
    | [] => s) s

end Sys2Proof.Machine
end

