-- ==== Sys2Proof/Machine/MemEvents.lean ====
section
/-!
DEFINITION. Sys2Proof/Machine/MemEvents.lean: the events of DMA, memory, stream rings and the mesh (R213, R217 to R231, R250,
R264 to R291).
-/
namespace Sys2Proof.Machine

/-! ### DMA -/

/-- The DMAQs of a die that find no tag free are counted, each once (R251). -/
def State.tagWaits (s : State) (d : DieId) (cores : List Nat) : State :=
  cores.foldl (fun s i =>
    let c : CoreId := BitVec.ofNat 10 (d.toNat * 256 + i)
    match (s.core c).dmaqReady with
    | some f => if f.tagWait then s else (s.modFlight c f.seq fun f => { f with tagWait := true }).bump (MEM_TAG_WAIT d.toNat)
    | none => s) s

/-- The DMA of commands and firmware that slot 256 presents: the first of the highest class (R257). -/
def DieSt.cmdDma (D : DieSt) : Option DmaSt :=
  D.dmaWait.foldl (fun b m => match b with
    | some x => if x.cls < m.cls then some m else some x
    | none => some m) none

/-- R250, R257: the die's DMA engines draw among the DMAQs and command DMAs that wait; the one granted takes the free tag `tag`
as its handle. With no tag free they wait, a DMAQ counted in MEM_TAG_WAIT. -/
def execDmaAccept (d : DieId) (tag : BitVec 13) (s : State) : Host.Outcome State Fault Refusal :=
  let D := s.die d
  let cores := (List.range 256).filter fun i => ((s.core (BitVec.ofNat 10 (d.toNat * 256 + i))).dmaqReady).isSome
  let cls (i : Nat) : BitVec 2 := match (s.core (BitVec.ofNat 10 (d.toNat * 256 + i))).dmaqReady with
    | some f => BitVec.ofNat 2 (leNat (((rowBytesOf f.segs 0).getD []).drop 2 |>.take 1))
    | none => 0
  let asking := cores.map (fun i => (BitVec.ofNat 9 i, cls i)) ++
    (match D.cmdDma with | some m => [((256 : BitVec 9), m.cls)] | none => [])
  .next <|
    if asking.isEmpty then s
    else if s.tagsFree d = 0 then s.tagWaits d cores
    else if D.dmas.any fun m => m.tag == tag.toNat && m.busy then s
    else match s.draw ⟨d, 272, asking⟩ with
    | (s, none) => s
    | (s, some 256) =>
      match D.cmdDma with
      | some m => (s.modDie d fun D => { D with dmaWait := D.dmaWait.erase m }).acceptDma d tag.toNat m
      | none => s
    | (s, some i) =>
      let c : CoreId := BitVec.ofNat 10 (d.toNat * 256 + i)
      match (s.core c).dmaqReady with
      | none => s
      | some f =>
        let m := dmaFrom ((rowBytesOf f.segs 0).getD []) (.core c)
        let g := ((s.die d).tagGen.get (fun _ => 0) tag.toNat + 1) % 65536
        let s := s.modCore c fun C => C.setRg (ireg f.w 51) (BitVec.ofNat 64 (tag.toNat + d.toNat * 8192 + g * 65536))
        ((s.completeLs c f.seq).acceptDma d tag.toNat m).pump c

/-- Whether a DMA's source and destination ranges overlap (R228). -/
def DmaSt.overlap (m : DmaSt) : Bool :=
  m.op != 2 && decide (m.src < m.dst + m.len) && decide (m.dst < m.src + m.len)

/-- R228: after the draws of the clocks before it, the `i`-th block in flight of the DMA with handle `tag` goes as far as it may: once its
lines are all here and its writes have gone it completes and frees its tag. Blocks of overlapping ranges complete in ascending order. -/
def execDmaBlockDone (d : DieId) (tag : BitVec 13) (i : BitVec 8) (draws : List Draw) (s : State) : Host.Outcome State Fault Refusal :=
  let s := s.runDraws draws
  .next <| match s.dmaOf d tag.toNat with
  | none => s
  | some m =>
    match m.blks[i.toNat]? with
    | none => s
    | some b =>
      if m.ph ≠ .running ∨ (m.overlap ∧ i ≠ 0) ∨ (m.op = 3 ∧ i ≠ 0) then s
      else (s.dmaBlock d m b).mapsDone

/-- R227: the writes of a DMA whose blocks have all moved are visible to every agent. -/
def execDmaComplete (d : DieId) (tag : BitVec 13) (s : State) : Host.Outcome State Fault Refusal :=
  .next <| match s.dmaOf d tag.toNat with
  | none => s
  | some m => if m.ph = .settling ∧ m.rounds.isEmpty ∧ m.mcWait = 0 then s.dmaVisible d m else s

/-! ### Memory -/

/-- R230, R233: the patrol scrubber visits the codeword of an address: nothing, one symbol corrected and written back, or two
in error, which poisons it. -/
def execPatrolScrub (a : BitVec 52) (found : BitVec 2) (sym : BitVec 6) (s : State) : Host.Outcome State Fault Refusal :=
  let pa := a.toNat / 16 * 16
  let (tier, ce, ue, src) := s.tierOf pa
  .next <| if tier = 0 ∨ tier = 5 then s
    else match found.toNat with
    | 0 => s
    | 1 => s.corrected ce 0x0001 src tier pa (toLe 1 sym.toNat ++ [1])
    | _ =>
      if s.poisoned pa 16 then s
      else ((s.setPoison pa 16 true).bump ue).event 0x0002 1 src tier pa [1]

/-- The valid entries of a die's region table as first and last granule. -/
def State.rgnSpans (s : State) (d : DieId) : List (Nat × Nat) :=
  (List.range 64).filterMap fun n =>
    let b := s.rd (MEM_RGN_BASE d.toNat n)
    if MEM_RGN_BASE.V.get b = 1 then
      some (MEM_RGN_BASE.BASE.get b, MEM_RGN_LIMIT.LIMIT.get (s.rd (MEM_RGN_LIMIT d.toNat n))) else none

/-- Whether two of a list of spans overlap. -/
def spansOverlap : List (Nat × Nat) → Bool
  | [] => false
  | (a, b) :: t => (t.any fun (x, y) => decide (a ≤ y) && decide (x ≤ b)) || spansOverlap t

/-- OVERLAP set when valid entries of a die's table overlap (R210). -/
def State.rgnOverlap (s : State) (d : DieId) : State :=
  if spansOverlap (s.rgnSpans d) then s.setFld (MEM_RGN_STATUS d.toNat) MEM_RGN_STATUS.OVERLAP 1 else s

/-- A region-table register as it reads: the held word, while a write is held (R213). -/
def State.rgnRead (s : State) (d : DieId) (a : Nat) : Word :=
  match (s.die d).rgnHeld.find? fun e => e.1 == a with
  | some e => e.2
  | none => s.rd a

/-- The word a region-table register gets: its access types, LIMIT clamped to the entry's BASE (R213). -/
def State.rgnWord (s : State) (a n : Nat) (limit : Bool) (d : DieId) (v : Word) : Word :=
  match regAt a with
  | none => 0
  | some r =>
    let w := regAfter r (s.rgnRead d a) v
    if limit then
      MEM_RGN_LIMIT.LIMIT.put w (max (MEM_RGN_LIMIT.LIMIT.get w) (MEM_RGN_BASE.BASE.get (s.rgnRead d (MEM_RGN_BASE d.toNat n))))
    else w

/-- A region-table register written (R210, R213): held while OPEN is 1, else applied, with OVERLAP set when entries overlap. -/
def State.rgnWrite (s : State) (d : DieId) (n : Nat) (limit : Bool) (v : Word) : State :=
  let a := if limit then MEM_RGN_LIMIT d.toNat n else MEM_RGN_BASE d.toNat n
  let w := s.rgnWord a n limit d v
  if s.openOn d then
    (s.modDie d fun D => { D with rgnHeld := (D.rgnHeld.filter fun e => e.1 != a) ++ [(a, w)] }).setFld (MEM_RGN_STATUS d.toNat) MEM_RGN_STATUS.HELD 1
  else (s.wr a w).rgnOverlap d

/-- MEM_STEP of a die written (R208, R210, R213): OPEN and EPOCH; with OPEN 0 the held region-table writes apply. -/
def State.memStep (s : State) (d : DieId) (v : Word) : State :=
  let s := s.plainWrite (MEM_STEP d.toNat) v
  if MEM_STEP.OPEN.get v = 1 ∨ (s.die d).rgnHeld.isEmpty then s
  else
    let s := (s.die d).rgnHeld.foldl (fun s (a, w) => s.wr a w) s
    let s := s.modDie d fun D => { D with rgnHeld := [] }
    (s.setFld (MEM_RGN_STATUS d.toNat) MEM_RGN_STATUS.HELD 0).rgnOverlap d

/-- R213: a write of MEM_STEP. -/
def execMemStepWrite (d : DieId) (v : Word) (s : State) : Host.Outcome State Fault Refusal := .next (s.memStep d v)

/-- R213: a write of MEM_RGN_BASE_n or MEM_RGN_LIMIT_n. -/
def execRgnEntryWrite (d : DieId) (n : BitVec 6) (limit : Bool) (v : Word) (s : State) : Host.Outcome State Fault Refusal :=
  .next (s.rgnWrite d n.toNat limit v)

/-- The writer of a packet, on the mesh: the host's CXL stop, or a DMA's engines (R221). -/
def State.writerEp (s : State) (who a : Nat) : Ep :=
  if who = 0xFFFFFFFF then cxlEp else s.engEp (BitVec.ofNat 2 (who / 8192)) a

/-- R221: a controller stop or a bank or window port receives a write packet of 1 to 256 bytes within one line, applies it and
acknowledges it (R264); a write held for a stream engine's read waits (R222), and so does one without tokens (R271). -/
def execWritePacket (a : BitVec 52) (data : List Byte) (who : BitVec 32) (s : State) : Host.Outcome State Fault Refusal :=
  let n := data.length
  let e := s.writerEp who.toNat a.toNat
  let e' := s.tierEp a.toNat
  .next <|
    if n = 0 ∨ 256 < a.toNat % 256 + n ∨ !s.dmaPlace a.toNat n ∨ s.heldForRead a.toNat ∨ (!e.atStop e' && s.paced e (writeFlits n)) then s
    else ((((s.send e e' (writeFlits n)).wrMem a.toNat data).received a.toNat who.toNat).ctrl e' e)

/-- Whether an earlier notice of the same DMA to the same engine has not arrived (R267). -/
def State.noticeBehind (s : State) (n : Nat) (x : Notice) : Bool :=
  decide (x.kind.toNat < 2) && (s.noc.notices.take n).any fun y => y.d == x.d && y.who == x.who && decide (y.kind.toNat < 2)

/-- R222, R224: the `n`-th notice under way reaches its stream engine. -/
def execLateNoticeReceive (n : BitVec 16) (s : State) : Host.Outcome State Fault Refusal :=
  .next <| match s.noc.notices[n.toNat]? with
  | none => s
  | some x => if s.noticeBehind n.toNat x then s else { s with noc := { s.noc with notices := s.noc.notices.eraseIdx n.toNat } }.noticed x

/-! ### Stream rings -/

/-- R217: STM_RING_CTL.EN written 1. -/
def execRingEnable (d : DieId) (n : BitVec 3) (s : State) : Host.Outcome State Fault Refusal := .next (s.ringEnable d n.toNat)

/-- R220: STM_RING_CTL.EN written 0. -/
def execRingDisable (d : DieId) (n : BitVec 3) (s : State) : Host.Outcome State Fault Refusal := .next (s.ringDisable d n.toNat)

/-- R217, R218: after the draws of the clocks before it, a block in flight of a ring goes as far as it may: read, then written into
its slot; a ring with none in flight first starts what it may. A block between a begin and an end notice waits (R222). -/
def execStreamBlockWritten (d : DieId) (n : BitVec 3) (b : BlockStep) (s : State) : Host.Outcome State Fault Refusal :=
  let s := if (s.ring d n.toNat).blks.isEmpty then s.ringGo d n.toNat ringFuel else s
  let s := s.runDraws b.draws
  .next <| match (s.ring d n.toNat).blks[b.i.toNat]? with
  | none => s
  | some b => (s.ringStep d n.toNat b).mapsDone

/-! ### In-network summation and multicast -/

/-- R276, R283: the `n`-th packet of the reduction channel on a link arrives at its router. -/
def execReductionPacketArrive (n : BitVec 16) (s : State) : Host.Outcome State Fault Refusal :=
  .next <| match s.noc.reds[n.toNat]? with
  | none => s
  | some p => { s with noc := { s.noc with reds := s.noc.reds.eraseIdx n.toNat } }.redArrive p

/-- R276: a router's combining entry is released, HOLD having passed since its last addition. -/
def execCombineHoldExpire (r : CoreId) (n : BitVec 6) (s : State) : Host.Outcome State Fault Refusal :=
  let es := s.noc.comb.get (fun _ => []) r.toNat
  .next <| match es[n.toNat]? with
  | none => s
  | some e => { s with noc := { s.noc with comb := s.noc.comb.set (fun _ => []) r.toNat (es.eraseIdx n.toNat) } }.redForward e

/-- R277: the `n`-th reduction packet at its endpoint is added to its line. -/
def execReductionEndpointWrite (n : BitVec 16) (s : State) : Host.Outcome State Fault Refusal :=
  .next <| match s.noc.atEnd[n.toNat]? with
  | none => s
  | some p => if p.kind ≠ .sum then s
    else ({ s with noc := { s.noc with atEnd := s.noc.atEnd.eraseIdx n.toNat } }.redEnd p).mapsDone

/-- R278: the `n`-th round-done notice under way reaches its die's DMA engines. -/
def execRoundDoneNotice (n : BitVec 16) (s : State) : Host.Outcome State Fault Refusal :=
  .next <| match s.noc.done[n.toNat]? with
  | none => s
  | some (d, id) =>
    let s := { s with noc := { s.noc with done := s.noc.done.eraseIdx n.toNat } }
    s.modDie d fun D => { D with dmas := D.dmas.map fun m =>
      if m.ph = .settling then { m with rounds := m.rounds.erase id } else m }

/-- R267, R283, R285, R291: the window port of core `c` writes the `n`-th multicast line, after those sent before it from its router, and
acknowledges it; a fenced core's router acknowledges without writing, delivered-fenced; an offset past the core's scratch is acknowledged
NOMEM. The branch was held `held` MCLK. -/
def execMulticastDeliver (n : BitVec 16) (c : CoreId) (held : BitVec 16) (s : State) : Host.Outcome State Fault Refusal :=
  .next <| match s.noc.mcs[n.toNat]? with
  | none => s
  | some p =>
    if !p.left.contains c || (s.noc.mcs.take n.toNat).any fun q => q.from_ == p.from_ && q.left.contains c then s
    else
      let s := if held = 0 then s else s.bumpRt NOC_RT_MCHOLD c held.toNat
      let p' := { p with left := p.left.erase c }
      let mcs := if p'.left.isEmpty then s.noc.mcs.eraseIdx n.toNat else s.noc.mcs.set n.toNat p'
      let nomem := !s.fenced c && decide (s.scratch c < p.off + p.data.length)
      let s := if s.fenced c || nomem then s else s.writeP (0x110000000000 + c.toNat * 2 ^ 20 + p.off) p.data
      ({ s with noc := { s.noc with mcs := mcs } }.mcAck c p (s.fenced c) nomem).mapsDone

/-- R283: the `n`-th packet at its endpoint, a delivery acknowledgement, is taken by its DMA: its deliveries count, those marked
delivered-fenced among them. -/
def execMulticastAck (n : BitVec 16) (s : State) : Host.Outcome State Fault Refusal :=
  .next <| match s.noc.atEnd[n.toNat]? with
  | none => s
  | some p => match p.kind with
    | .sum => s
    | .ack die gen _ nomem =>
      let s := { s with noc := { s.noc with atEnd := s.noc.atEnd.eraseIdx n.toNat } }
      s.modDie die fun D => { D with dmas := D.dmas.map fun m =>
        if m.tag = p.id ∧ m.gen = gen ∧ m.busy then { m with mcWait := m.mcWait - p.count, redErr := m.redErr || nomem } else m }

/-- R271: an injector's bucket gains RATE tokens, up to BURST: even `p` below 512 the local port of router p ÷ 2, odd its
vertical port, 512 + s stop s. -/
def execPacerRefill (d : DieId) (p : BitVec 10) (s : State) : Host.Outcome State Fault Refusal :=
  .next (if p.toNat < 533 then s.refill d.toNat p.toNat else s)

/-- A reduction entry's word written (R274, R290): V = 0 discards an incomplete round's counter, and the DMAs that wait on it
end in error DESCRIPTOR. -/
def State.redWrite (s : State) (d : DieId) (n : Nat) (cfg : Bool) (v : Word) : State :=
  let a := if cfg then NOC_RED_CFG d.toNat n else NOC_RED_ADDR d.toNat n
  let s := (s.plainWrite a v).redCheck d n
  if !cfg ∧ NOC_RED_ADDR.V.get v = 0 then
    let s := s.setRound d n { s.round d n with count := 0, orders := [], held := [] }
    allDies.foldl (fun s e =>
      ((s.die e).dmas.filter fun m => m.ph == .settling && m.rounds.contains n).foldl (fun s m => s.dmaError e m.tag 5) s) s
  else s

/-- R290: a write of NOC_RED_ADDR_n or NOC_RED_CFG_n. -/
def execRedEntryWrite (d : DieId) (n : BitVec 6) (cfg : Bool) (v : Word) (s : State) : Host.Outcome State Fault Refusal :=
  .next (s.redWrite d n.toNat cfg v)

/-- Registers of an address range that lie at offsets a test picks set to 0: counters, whose reset value is 0. -/
def State.clearRange (s : State) (lo hi : Nat) (pick : Nat → Bool) : State :=
  { s with regs := s.regs.filter fun e => !(decide (lo ≤ e.1) && decide (e.1 < hi) && pick (e.1 - lo)) }

/-- R290: NOC_CTL.CNT_CLR clears NOC_RED_ROUNDS and every router counter of the die. -/
def State.nocClear (s : State) (d : DieId) : State :=
  let lo := NOC_RT_CTL d.toNat 0
  (s.wr (NOC_RED_ROUNDS d.toNat) 0).clearRange lo (lo + 0x10000) fun o => decide (0x40 ≤ o % 0x100)

/-- R290: NOC_CTL.CNT_CLR. -/
def execNocCntClr (d : DieId) (s : State) : Host.Outcome State Fault Refusal := .next (s.nocClear d)

/-! ### Fencing and the newt state (R284 to R289) -/

/-- What waits to enter a core is discarded and counted; a fenced core's router answers the requests among it FENCED (R33, R284, R285). -/
def State.discardIn (s : State) (c : CoreId) : State :=
  let q := (s.core c).inq
  let reqs := if s.fenced c then q.filter fun m => match m with | .reg .. => true | _ => false else []
  let s := s.modCore c fun C => { C with inq := [] }
  let s := if q.isEmpty then s else s.bumpRt NOC_RT_DISCARD c q.length
  reqs.foldl (fun s _ => (s.countFenced c).ctrl (coreEp c) (ccEp 0)) s

/-- A core's watches, and its advances that slices hold, go (R303, R316). -/
def State.dropSync (s : State) (c : CoreId) : State :=
  let s := allSlots.foldl (fun s i => s.cancelSlot c i) s
  (List.range 64).foldl (fun s j =>
    let k : ClusterId := BitVec.ofNat 6 j
    let S := s.slice k
    if S.held.any fun a => a.src == .core c then
      (s.setSlice k { S with held := S.held.filter fun a => a.src != .core c }).drainHeld k 2048
    else s) s

/-- A core's miss registers and parking entries are freed; reads merged with its own go on for the others (R254). -/
def State.freeMiss (s : State) (c : CoreId) : State :=
  let k := clusterOf c
  let S := s.sorter k
  let es := S.entries.map fun e => { e with cores := e.cores.filter (· != c) }
  (s.modCore c fun C => { C with miss := [], park := [] }).setSorter k { S with entries := es.filter fun e => e.sent || !e.cores.isEmpty }

/-- The hardware steps 2 to 5 of fencing a core that is not fenced (R284, R285, R316), whoever writes FENCE: its program stops, what waits
to enter it is discarded, its miss registers and parking entries free, its watches and held advances go, its unaccepted DMAQs are
discarded. A core in the newt state stays gated (R289). A fold that waits for its bank is lost with the counters (DESIGN CHOICE, in the
log). -/
def State.fence (s : State) (c : CoreId) : State :=
  if s.fenced c then s
  else
    let s := s.setFld (NOC_RT_CTL (c.toNat / 256) (c.toNat % 256)) NOC_RT_CTL.FENCE 1
    let s := (s.stopProgram c).discardIn c
    let s := s.modCore c fun C => { C with fold := none, foldWait := [] }
    let s := s.setFld (COR_HST_STATUS c.toNat) COR_HST_STATUS.FLUSH_BUSY 0
    ((s.freeMiss c).dropSync c).mapsDone

/-- R284: NOC_RT_CTL written with FENCE 1; the other bits are read-only, and FENCE 0 is the row of its own (R286). -/
def execFenceWrite (c : CoreId) (v : Word) (s : State) : Host.Outcome State Fault Refusal :=
  .next (if v.getLsbD 0 then s.fence c else s)

/-- A fence released in hardware (R286): the core is idle, in its state after reset; a fused-off core ignores it. -/
def State.release (s : State) (c : CoreId) : State :=
  if !s.enabled c ∨ !s.fenced c then s
  else
    let s := s.setFld (NOC_RT_CTL (c.toNat / 256) (c.toNat % 256)) NOC_RT_CTL.FENCE 0
    s.modCore c fun C => { split := C.split, coreGen := C.coreGen + 1 }

/-- R286: NOC_RT_CTL.FENCE written 0. -/
def execFenceReleaseWrite (c : CoreId) (s : State) : Host.Outcome State Fault Refusal := .next (s.release c)

end Sys2Proof.Machine
end

