-- ==== Sys2Proof/Machine/SyncEvents.lean ====
section
/-!
DEFINITION. Sys2Proof/Machine/SyncEvents.lean: the events of sync objects, watches and lending (R292 to R303, R311, R312).
-/
namespace Sys2Proof.Machine

/-! ### Messages -/

/-- Whether a core runs a program. -/
def State.runs (s : State) (c : CoreId) : Bool := (s.core c).run == .running || (s.core c).run == .halting

/-- R298: the `n`-th advance under way reaches its slice, unless an earlier advance of its source to its object is unanswered
(R296) or a message sent before it on its way is still under way (R267). -/
def execSyncAdvance (n : BitVec 16) (s : State) : Host.Outcome State Fault Refusal :=
  .next <| match s.advReady n.toNat with
  | none => s
  | some a => { s with sync := { s.sync with advs := s.sync.advs.eraseIdx n.toNat } }.sliceAdvance a

/-- The SADV of core `c` that waits for the answer of an advance to `o`. -/
def CoreSt.sadvOf (C : CoreSt) (o : ObjId) : Option Flight :=
  C.fl.find? fun f => iclass f.w == 9 && iop f.w == 0 && f.ph == .run && f.a.extractLsb' 0 18 == o

/-! ### Into a core: its crossing queues and the newt state (R28, R30, R32, R287, R288) -/

/-- What a message does in its core: a line is delivered, its miss register takes the oldest parked request (R241, R244, R245); an SADV
writes g[RD] and ends (R296); a fire of the slot's generation sets its fired bit, any other is dropped (R302); a register is written. -/
def State.coreIn (s : State) (c : CoreId) : InMsg → State
  | .line l => ((s.deliver c l).unpark c (s.targetOf l.addr)).pump c
  | .ack a v =>
    match (s.core c).sadvOf a.obj with
    | none => s
    | some f => (s.endSync c f v).pump c
  | .fire w =>
    match w.who with
    | .core _ i =>
      let x := (s.core c).slotAt i
      if x.live && x.gen == w.gen then
        ((s.modCore c fun C => C.setSlot i { (C.slotAt i) with fired := true }).watchPend c).pump c
      else s.pump c
    | .cc _ _ => s
  | .reg a v => s.corWrite c a v

/-- Whether a message is of the request channel; the others are of the response channel (R264). -/
def InMsg.req : InMsg → Bool
  | .reg .. => true
  | _ => false

/-- Whether core `c` takes what reaches it at once: its clock runs and it is not gated (R14, R32, R287). -/
def State.awake (s : State) (c : CoreId) : Bool := s.clocked c && !(s.core c).parked

/-- Whether a message may leave the mesh toward core `c`: the core takes it, or its channel's crossing queue has one of its 16 entries
free (R28, R30). -/
def State.ejects (s : State) (c : CoreId) (m : InMsg) : Bool :=
  let q := (s.core c).inq
  s.railOff (regionOf c) || (s.awake c && q.isEmpty) || decide ((q.filter fun x => x.req == m.req).length < 16)

/-- A message leaves the mesh toward core `c`: into the core, or behind what waits in its crossing; a core whose rail is off is held in
reset, and its crossing discards and counts it (R33). -/
def State.eject (s : State) (c : CoreId) (m : InMsg) : State :=
  if s.railOff (regionOf c) then s.bumpRt NOC_RT_DISCARD c
  else if s.awake c && (s.core c).inq.isEmpty then s.coreIn c m else s.modCore c fun C => { C with inq := C.inq ++ [m] }

/-- What waits in the crossing enters the core in order, while the core is awake. -/
def State.drainIn (s : State) (c : CoreId) : Nat → State
  | 0 => s
  | k + 1 =>
    match (s.core c).inq with
    | [] => s
    | m :: q => if s.awake c then ((s.modCore c fun C => { C with inq := q }).coreIn c m).drainIn c k else s

/-- The cores of a region. -/
def regionCores (r : RegionId) : List CoreId := (List.range 64).map fun i => BitVec.ofNat 10 (r.toNat * 64 + i)

/-- A region's clock starts again: what waits in its cores' crossings enters in order, and the cores go on (R32). -/
def State.wakeRegion (s : State) (r : RegionId) : State :=
  if s.rclocked r then (regionCores r).foldl (fun s c => (s.drainIn c (s.core c).inq.length).pump c) s else s

/-- R288: a parked core that a packet waits for is ungated, once its region's clock runs, and takes it; an SWAIT that nothing ends parks
again, and so does a core that runs no program. A fenced core never wakes (R289). -/
def execNewtUngate (c : CoreId) (s : State) : Host.Outcome State Fault Refusal :=
  let C := s.core c
  .next (if s.fenced c ∨ !C.parked ∨ !s.clocked c ∨ C.inq.isEmpty then s
    else
      let s := ((s.modCore c fun C => { C with parked := false }).bumpRt NOC_RT_WAKE c).drainIn c (s.core c).inq.length
      if s.runs c then s.pump c else s.modCore c fun C => { C with parked := true })

/-- A register of core `c` written from place `e` of the mesh (R264, R285): a packet of the request channel, which a fenced core's router
answers FENCED. One past the 16 entries of the crossing stands behind them, held in order (R28). -/
def State.regIn (s : State) (e : Ep) (c : CoreId) (a : Nat) (v : Word) : State :=
  let s := s.ctrl e (coreEp c)
  if s.fenced c then (s.countFenced c).ctrl (coreEp c) e else s.eject c (.reg a v)

/-- R186: COR_IRAISE.FW written 1: the firmware interrupt becomes pending. -/
def execFwIrqRaise (c : CoreId) (s : State) : Host.Outcome State Fault Refusal := .next (s.regIn (ccEp (dieOf c)) c (COR_IRAISE c.toNat) 2)

/-! ### Answers -/

/-- The first advance of a source to an object that waited for an answer leaves now (R296). -/
def State.sendWaiting (s : State) (a : Adv) : State :=
  let mine (b : Nat × Adv) : Bool := b.2.src.same a.src && b.2.obj == a.obj
  let s := s.stamp
  { s with sync := { s.sync with advs := modFirst mine (fun b => (s.sync.sent, b.2)) s.sync.advs } }

/-- An advance's source that is no core hears that it is applied (R296): a DMA ends, a command completes. -/
def State.advApplied (s : State) (a : Adv) (v : Word) : State :=
  match a.src with
  | .dma d t =>
    match s.dmaOf d t with
    | some m => if m.ph = .advancing then s.dmaDone d m else s
    | none => s
  | .cmd id => s.finish id stOk [v.toNat]
  | _ => s

/-- Whether an answer may reach its source: a core's crossing must take it. -/
def State.answerGoes (s : State) (a : Adv) (r : AdvAns) : Bool :=
  match a.src, r with
  | .core c, .applied v => s.fenced c || s.ejects c (.ack a v)
  | _, _ => true

/-- R296: the slice's `n`-th answer reaches the source, after what its part sent there before it (R267); a fenced core's is discarded
(R285). -/
def execAdvanceAck (n : BitVec 16) (s : State) : Host.Outcome State Fault Refusal :=
  .next <| match s.sync.acks[n.toNat]? with
  | none => s
  | some (k, a, r) =>
    if s.rspBehind k a.obj (s.srcEp a.src) || !s.answerGoes a r then s
    else
      let s := { s with sync := { s.sync with acks := s.sync.acks.eraseIdx n.toNat } }
      match r with
      | .retry => { s with sync := { s.sync with retryAdv := s.sync.retryAdv ++ [a] } }
      | .held => s.sendWaiting a
      | .applied v =>
        let s := s.sendWaiting a
        match a.src with
        | .core c => if s.fenced c then s else s.eject c (.ack a v)
        | _ => s.advApplied a v

/-- R300: the `n`-th registration under way reaches its slice, after what its watcher sent there before it (R267). -/
def execWatchRegistration (n : BitVec 16) (s : State) : Host.Outcome State Fault Refusal :=
  .next <| match s.sync.regs[n.toNat]? with
  | none => s
  | some (k, w) =>
    if s.reqBehind k (watcherEp w.who) w.obj then s
    else { s with sync := { s.sync with regs := s.sync.regs.eraseIdx n.toNat } }.sliceWatch w

/-- A fire message of the control complex's slot `i` of die `d` delivered (R302): one whose generation matches completes the command that
waits on it; any other is dropped. -/
def State.ccFire (s : State) (d : DieId) (i : BitVec 6) (w : WatchMsg) : State :=
  let k := d.toNat * 64 + i.toNat
  let x := s.sync.cc.get (fun _ => {}) k
  match x.cmd with
  | some id =>
    if x.gen = w.gen then
      { s with sync := { s.sync with cc := s.sync.cc.set (fun _ => {}) k { x with cmd := none } } }.finish id stOk []
    else s
  | none => s

/-- Whether a fire message may reach its watcher: a core's crossing must take it. -/
def State.fireGoes (s : State) (w : WatchMsg) : Bool :=
  match w.who with
  | .core c _ => s.fenced c || s.ejects c (.fire w)
  | .cc _ _ => true

/-- R302: the `n`-th fire message under way is delivered, after what its slice part sent there before it (R267); a fenced core's router
drops it and answers FENCED (R285). -/
def execWatchFire (n : BitVec 16) (s : State) : Host.Outcome State Fault Refusal :=
  .next <| match s.sync.fires[n.toNat]? with
  | none => s
  | some (k, w) =>
    if s.rspBehind k w.obj (watcherEp w.who) || !s.fireGoes w then s
    else
      let s := { s with sync := { s.sync with fires := s.sync.fires.eraseIdx n.toNat } }
      match w.who with
      | .cc d i => s.ccFire d i w
      | .core c _ => if s.fenced c then (s.countFenced c).ctrl (coreEp c) (objEp w.obj) else s.eject c (.fire w)

/-- R299: the `n`-th advance or registration answered RETRY is sent again. -/
def execRetryResend (n : BitVec 16) (s : State) : Host.Outcome State Fault Refusal :=
  .next <| match s.sync.retryAdv[n.toNat]? with
  | some a =>
    let s := (s.ctrl (s.srcEp a.src) (objEp a.obj)).stamp
    { s with sync := { s.sync with retryAdv := s.sync.retryAdv.eraseIdx n.toNat, advs := (s.sync.sent, a) :: s.sync.advs } }
  | none =>
    let m := n.toNat - s.sync.retryAdv.length
    match s.sync.retryReg[m]? with
    | some w => { s with sync := { s.sync with retryReg := s.sync.retryReg.eraseIdx m } }.sendReg w
    | none => s

/-! ### Register writes -/

/-- SYN_VAL of an object written (R295): the watches queued on it are evaluated against the value, then held advances that
fit are applied. -/
def State.valWrite (s : State) (o : ObjId) (v : Word) : State :=
  ((s.wr (valReg o) v).evalWatches o).drainHeld (homeOf o).1 2048

/-- R295: a write of SYN_VAL. -/
def execSynValWrite (o : ObjId) (v : Word) (s : State) : Host.Outcome State Fault Refusal := .next (s.valWrite o v)

/-- SYN_ADV of an object written: an advance of firmware or the host, behind those of theirs to the object that the slice has not yet
answered (R294, R296). -/
def State.advWrite (s : State) (o : ObjId) (v : Word) : State :=
  let a : Adv := ⟨.reg, o, v⟩
  if s.advBehind s.sync.advs.length a then s.sendAdv a else s.sliceAdvance a

/-- R294: a write of SYN_ADV. -/
def execSynAdvWrite (o : ObjId) (v : Word) (s : State) : Host.Outcome State Fault Refusal := .next (s.advWrite o v)

/-- SYN_ATTR of an object written (R297): a partner homed in another slice is refused. -/
def State.attrWrite (s : State) (o : ObjId) (v : Word) : State :=
  let k := (homeOf o).1
  if SYN_ATTR.PV.get v = 1 ∧ (homeOf (BitVec.ofNat 18 (SYN_ATTR.PARTNER.get v))).1 ≠ k then
    (s.setFld (attrReg o) SYN_ATTR.PV 0).setFld (SYN_STATUS k.toNat) SYN_STATUS.ATTR_ERR 1
  else (s.plainWrite (attrReg o) v).drainHeld k 2048

/-- R297: a write of SYN_ATTR. -/
def execSynAttrWrite (o : ObjId) (v : Word) (s : State) : Host.Outcome State Fault Refusal := .next (s.attrWrite o v)

/-- R315: SYN_CTL.CNT_CLR. -/
def execSynCntClr (k : ClusterId) (s : State) : Host.Outcome State Fault Refusal :=
  let n := k.toNat
  .next (s.clear [SYN_ADV_CNT n, SYN_HELD_CNT n, SYN_FIRE_CNT n, SYN_RETRY_CNT n])

/-! ### Lending -/

/-- Whether a region is waiting (R311). -/
def State.regionWaiting (s : State) (r : RegionId) : Bool :=
  let cs := (regionCores r).filter s.runs
  !cs.isEmpty && cs.all s.waiting

/-- R312: a region that has waited for LEND_THR becomes lendable. -/
def execLendableSet (r : RegionId) (s : State) : Host.Outcome State Fault Refusal :=
  let d := (dieOfRegion r).toNat
  let i := r.toNat % 4
  .next (if s.regionWaiting r ∧ s.bit (SYN_LEND_CTL d i) SYN_LEND_CTL.EN then
      let a := SYN_WAIT_STATUS d
      s.setFld a SYN_WAIT_STATUS.LENDABLE (s.fld a SYN_WAIT_STATUS.LENDABLE ||| 2 ^ i)
    else s)

/-- Whether a die's line holds an arrival: a BARR's, whether or not of a participant, its control complex's, or, at die 0 for a line of
system scope, another member's (R305, R308, R310). -/
def State.barHeld (s : State) (d : DieId) (n : BitVec 6) : Bool :=
  (s.bar d n).arrived != 0 || (s.bar d n).cc ||
  (d == 0 && s.barScope 0 n == 2 &&
    (s.sync.sys.get (fun _ => {}) n.toNat).got.any fun x => x.2.2 == s.fld (SYN_BAR_STATUS 0 n.toNat) SYN_BAR_STATUS.EPISODE)

/-- R308: a line that has held an arrival for LATE_THR without completing is reported. -/
def execBarrierLate (d : DieId) (n : BitVec 6) (s : State) : Host.Outcome State Fault Refusal :=
  .next (if !s.barHeld d n then s
    else
      let s := s.wr (SYN_BAR_LATE_MAP d.toNat) (s.rd (SYN_BAR_LATE_MAP d.toNat) ||| (1 <<< n.toNat))
      if s.bit (SYN_DIE_CTL d.toNat) SYN_DIE_CTL.LATE_IEN then s.emit (.dieInt d 2) else s)

end Sys2Proof.Machine
end

