-- ==== Sys2Proof/Machine/Vm.lean ====
section
/-!
DEFINITION. Sys2Proof/Machine/Vm.lean: firmware's side of virtual memory: page tables built, split and torn down (R235, R238,
R447), fault service (R237), and ATS and PRI (R236, R428, R429).
-/
namespace Sys2Proof.Machine

/-! ### Table pool (R447) -/

/-- A free table of the current pool, zeroed. -/
def State.allocTable (s : State) : Option (State × Nat) :=
  match s.host.pools with
  | [] => none
  | p :: rest =>
    match (List.range (p.len / 4096)).find? fun i => !p.used.contains (p.base + i * 4096) with
    | none => none
    | some i =>
      let a := p.base + i * 4096
      let s := s.wrMem a (List.replicate 4096 0)
      some ({ s with host := { s.host with pools := { p with used := p.used ++ [a] } :: rest } }, a)

/-- A table returned to the area it came from. -/
def State.freeTable (s : State) (a : Nat) : State :=
  { s with host := { s.host with pools := s.host.pools.map fun p => { p with used := p.used.erase a } } }

/-- A table entry written. -/
def State.setPte (s : State) (a : Nat) (pa perm : Nat) (s64 : Bool) : State :=
  s.wrNum a 8 (pa + perm * 2 + (if s64 then 16 else 0) + 1)

/-- A table entry as it stands in memory. -/
def State.memPte (s : State) (a : Nat) : Word := BitVec.ofNat 64 (s.rdNum a 8)

/-- R, W and X of an entry in bits 0 to 2. -/
def ptePerm (e : Word) : Nat := e.toNat / 2 % 8

/-- The root table, allocated and put into MEM_PT_ROOT of every die when there is none. -/
def State.rootTable (s : State) : Option (State × Nat) :=
  let r := s.rd (MEM_PT_ROOT 0)
  if MEM_PT_ROOT.EN.get r = 1 then some (s, MEM_PT_ROOT.ADDR.get r * 4096)
  else match s.allocTable with
    | none => none
    | some (s, a) => some (allDies.foldl (fun s d => s.wr (MEM_PT_ROOT d.toNat) (BitVec.ofNat 64 (a + 1))) s, a)

/-- A 2 MiB leaf at entry address `a` split into 64 KiB pages (R238); none when the pool is exhausted. -/
def State.split2M (s : State) (a : Nat) : Option State :=
  let e := s.memPte a
  match s.allocTable with
  | none => none
  | some (s, t) =>
    let s := (List.range 512).foldl (fun s i => s.setPte (t + i * 8) (ptePa e + i * 4096) (ptePerm e) true) s
    some (s.wrNum a 8 (t + 1))

/-- The table one level below the entry of `va` in a table at level `l`, made when missing; a 2 MiB leaf there is split. -/
def State.tableBelow (s : State) (t l va : Nat) : Option (State × Nat) :=
  let a := t + vaIndex l va * 8
  let e := s.memPte a
  if !pteV e then
    match s.allocTable with
    | none => none
    | some (s, b) => some (s.wrNum a 8 (b + 1), b)
  else if pteLeaf e then
    match s.split2M a with
    | none => none
    | some s => some (s, ptePa (s.memPte a))
  else some (s, ptePa e)

/-- The level-1 table of `va`. -/
def State.table1 (s : State) (va : Nat) : Option (State × Nat) :=
  match s.rootTable with
  | none => none
  | some (s, t3) => match s.tableBelow t3 3 va with
    | none => none
    | some (s, t2) => s.tableBelow t2 2 va

/-- The S64 bits of the 64 KiB group of `va` in a level-0 table cleared: its pages become 4 KiB pages (R238). -/
def State.breakGroup (s : State) (t0 va : Nat) : State :=
  (List.range 16).foldl (fun s i =>
    let a := t0 + (vaIndex 0 va / 16 * 16 + i) * 8
    let e := s.memPte a
    if pteS64 e then s.wrNum a 8 (e.toNat - 16) else s) s

/-- One page mapped: `size` 4 KiB, 64 KiB or 2 MiB. -/
def State.mapPage (s : State) (va pa size perm : Nat) : Option State :=
  match s.table1 va with
  | none => none
  | some (s, t1) =>
    if size = 2 ^ 21 then some (s.setPte (t1 + vaIndex 1 va * 8) pa perm false)
    else match s.tableBelow t1 1 va with
      | none => none
      | some (s, t0) =>
        if size = 2 ^ 16 then
          some ((List.range 16).foldl (fun s i => s.setPte (t0 + (vaIndex 0 va + i) * 8) (pa + i * 4096) perm true) s)
        else some ((s.breakGroup t0 va).setPte (t0 + vaIndex 0 va * 8) pa perm false)

/-! ### Removal -/

/-- Whether a table holds no valid entry. -/
def State.tableEmpty (s : State) (t : Nat) : Bool := (List.range 512).all fun i => !pteV (s.memPte (t + i * 8))

/-- The addresses of the level-3, level-2 and level-1 entries of `va`, while they are valid pointers above level 1. -/
def State.entries (s : State) (va : Nat) : Option (Nat × Nat × Nat) :=
  let r := s.rd (MEM_PT_ROOT 0)
  if MEM_PT_ROOT.EN.get r = 0 then none
  else
    let a3 := MEM_PT_ROOT.ADDR.get r * 4096 + vaIndex 3 va * 8
    let e3 := s.memPte a3
    if !pteV e3 || pteLeaf e3 then none
    else
      let a2 := ptePa e3 + vaIndex 2 va * 8
      let e2 := s.memPte a2
      if !pteV e2 || pteLeaf e2 then none
      else
        let a1 := ptePa e2 + vaIndex 1 va * 8
        if pteV (s.memPte a1) then some (a3, a2, a1) else none

/-- An emptied table's entry cleared and the table freed; otherwise nothing. -/
def State.reap (s : State) (a : Nat) : State :=
  let e := s.memPte a
  if pteV e && !pteLeaf e && s.tableEmpty (ptePa e) then (s.wrNum a 8 0).freeTable (ptePa e) else s

/-- The level-0 entries of `va` to `hi` (within one 2 MiB range) removed from the table at `t0`, with the pages they named. -/
def State.clear4K (s : State) (t0 va hi : Nat) : State × List (Nat × Nat) :=
  (List.range ((hi - va + 4095) / 4096)).foldl (fun (s, l) i =>
    let v := va + i * 4096
    let a := t0 + vaIndex 0 v * 8
    let e := s.memPte a
    if !pteV e then (s, l)
    else
      let g := v / 2 ^ 16 * 2 ^ 16
      let s := if pteS64 e && !(decide (va ≤ g) && decide (g + 2 ^ 16 ≤ hi)) then s.breakGroup t0 v else s
      (s.wrNum a 8 0, l ++ [(ptePa e, 4096)])) (s, [])

/-- Mappings removed from `va` to `hi`, one 2 MiB range a turn, with the physical pages that were mapped; none when a split
finds no table. -/
def State.unmapGo : Nat → State → Nat → Nat → List (Nat × Nat) → Option (State × List (Nat × Nat))
  | 0, s, _, _, l => some (s, l)
  | k + 1, s, va, hi, l =>
    if hi ≤ va then some (s, l)
    else
      let next := (va / 2 ^ 21 + 1) * 2 ^ 21
      match s.entries va with
      | none => State.unmapGo k s next hi l
      | some (a3, a2, a1) =>
        let e := s.memPte a1
        if pteLeaf e && decide (va % 2 ^ 21 = 0) && decide (next ≤ hi) then
          State.unmapGo k (((s.wrNum a1 8 0).reap a2).reap a3) next hi (l ++ [(ptePa e, 2 ^ 21)])
        else
          match if pteLeaf e then s.split2M a1 else some s with
          | none => none
          | some s =>
            let (s, l') := s.clear4K (ptePa (s.memPte a1)) va (min hi next)
            State.unmapGo k (((s.reap a1).reap a2).reap a3) next hi (l ++ l')

/-- Every mapping in a range removed. -/
def State.unmapRange (s : State) (va len : Nat) : Option (State × List (Nat × Nat)) :=
  s.unmapGo (len / 2 ^ 21 + 2) va (va + len) []

/-- Translations of a range dropped from every translation buffer, walk cache and ATS cache (R238, R429). -/
def State.dropXlate (s : State) (va len : Nat) : State :=
  let hit (a n : Nat) : Bool := decide (a < va + len) && decide (va < a + n)
  let s := { s with cores := (s.cores.map fun e => (e.1, { e.2 with tlb := e.2.tlb.filter fun t => !hit t.va t.size })).filter
                              fun e => e.2 != ({} : CoreSt) }
  allDies.foldl (fun s d => s.modDie d fun D => { D with walkCache := [], atc := D.atc.filter fun e => !hit e.va 4096 }) s

/-- Demand registrations over a range end; what lies outside it stays registered. -/
def State.dropDemand (s : State) (va len : Nat) : State :=
  { s with host := { s.host with demand := s.host.demand.flatMap fun d =>
      if d.va + d.len ≤ va ∨ va + len ≤ d.va then [d]
      else
        (if d.va < va then [{ d with len := va - d.va }] else []) ++
        (if va + len < d.va + d.len then
          [{ d with va := va + len, pa := d.pa + (va + len - d.va), len := d.va + d.len - (va + len) }] else []) } }

/-! ### Fault service (R237) -/

/-- The largest page, of a registered range's size or a smaller one, that holds an address and lies whole in the range (R237, R238): what
is left of a page that was split is mapped by smaller ones. -/
def Demand.pageAt (d : Demand) (va : Nat) : Nat :=
  ([2 ^ 21, 2 ^ 16].find? fun n =>
    let base := va / n * n
    decide (n ≤ d.page) && decide (d.va ≤ base) && decide (base + n ≤ d.va + d.len) && decide ((d.pa + (base - d.va)) % n = 0)).getD 4096

/-- The page that mapping on demand gives an address, mapped; none where no registered range holds it or no table is left. -/
def State.demandMap (s : State) (va : Nat) : Option State :=
  match s.host.demand.find? fun d => decide (d.va ≤ va) && decide (va < d.va + d.len) with
  | none => none
  | some d =>
    let n := d.pageAt va
    let base := va / n * n
    s.mapPage base (d.pa + (base - d.va)) n d.perm

/-- Whether die `d` has a translation of an address. -/
def State.mapped (s : State) (d : DieId) (va : Nat) : Bool :=
  match (s.xlateDie d va).1 with
  | .page _ => true
  | _ => false

/-- A serviced access goes on. -/
def State.retryFault (s : State) (d : DieId) : FaultOf → State
  | .coreSlot c i => s.tfResume c i
  | .coreFetch c => s.excResume c
  | .dma t => (s.modDma d t fun m => match m.ph with | .faulted _ => { m with ph := .running } | _ => m).pumpDmas d
  | .ring n => (s.setRing d n { s.ring d n with faulted := none }).ringGo d n ringFuel

/-- An access that cannot be serviced ends. -/
def State.abortFault (s : State) (d : DieId) : FaultOf → State
  | .coreSlot c i => s.tfAbort c i
  | .coreFetch c => s.excAbort c
  | .dma t => s.dmaError d t 1
  | .ring n => s.ringErr d n

/-- R237: firmware services the oldest NOT_PRESENT fault of a die. -/
def execFaultReportService (d : DieId) (s : State) : Host.Outcome State Fault Refusal :=
  .next <| match (s.die d).faults with
  | [] => s
  | (x, va) :: rest =>
    let s := s.modDie d fun D => { D with faults := rest }
    if s.mapped d va then s.retryFault d x
    else match s.demandMap va with
      | some s => (s.dropXlate (va / 4096 * 4096) 4096).retryFault d x
      | none => s.abortFault d x

/-! ### ATS and PRI (R236, R428, R429) -/

/-- Core instructions that wait for the translation of a page begin again. -/
def State.wakeAtsCores (s : State) (d : DieId) (page : Nat) : State :=
  let mine (f : Flight) : Bool := match f.ph with | .ats va => va / 4096 * 4096 == page | _ => false
  ((List.range 256).map fun i => (BitVec.ofNat 10 (d.toNat * 256 + i) : CoreId)).foldl (fun s c =>
    if (s.core c).fl.any mine then
      (s.modCore c fun C => { C with fl := C.fl.map fun f => if mine f then { f with ph := .queued } else f }).pump c
    else s) s

/-- Engines of a die that wait for the translation of a page go on: DMAs and stream rings. -/
def State.wakeAtsEngines (s : State) (d : DieId) (page : Nat) : State :=
  let s := s.modDie d fun D => { D with dmas := D.dmas.map fun m => match m.ph with
    | .ats va => if va / 4096 * 4096 = page then { m with ph := .running } else m
    | _ => m }
  (List.range 8).foldl (fun s n => s.ringGo d n ringFuel) (s.pumpDmas d)

/-- R236: the host answers an ATS translation request of a die's page: host address and permissions, none set when it refuses. -/
def execAtsTranslationCompletion (d : DieId) (va : BitVec 48) (host : BitVec 52) (perm : BitVec 3) (s : State) :
    Host.Outcome State Fault Refusal :=
  let page := va.toNat / 4096 * 4096
  .next <|
    if !(s.die d).atsWait.contains page then s
    else
      let e : AtcEnt := ⟨page, hostMem (host.toNat / 4096 * 4096), perm.getLsbD 0, perm.getLsbD 1, perm.getLsbD 2⟩
      let s := s.modDie d fun D => { D with atsWait := D.atsWait.erase page,
                                            atc := cacheAdd 2048 (D.atc.filter fun x => x.va != page) e }
      (s.wakeAtsCores d page).wakeAtsEngines d page

/-- Fault slots of a core parked for a page request on a page. -/
def State.priSlots (s : State) (c : CoreId) (page : Nat) : List (BitVec 2) :=
  ([0, 1, 2, 3] : List (BitVec 2)).filter fun i =>
    let w := s.rd (COR_TFAULT_INFO c.toNat i.toNat)
    COR_TFAULT_INFO.VALID.get w == 1 && COR_TFAULT_INFO.HOSTPT.get w == 1 && COR_TFAULT_INFO.FATAL.get w == 0 &&
      (s.rd (COR_TFAULT_VA c.toNat i.toNat)).toNat / 4096 * 4096 == page

/-- A core's accesses that a page response concerns: retried, or stopped with PRI_FAIL. -/
def State.priCore (s : State) (c : CoreId) (page : Nat) (ok : Bool) : State :=
  let s := (s.priSlots c page).foldl (fun s i =>
    if ok then (s.restart c i).pump c
    else
      let a := COR_TFAULT_INFO c.toNat i.toNat
      let s := (s.setFld a COR_TFAULT_INFO.CAUSE cPriFail.toNat).setFld a COR_TFAULT_INFO.FATAL 1
      s.exception c 2 i.toNat 0 (s.rd (COR_TFAULT_PC c.toNat i.toNat)).toNat) s
  let C := s.core c
  if C.fetchHeld ∧ C.pc / 4096 * 4096 = page then
    if ok then s.excResume c else s.exception c 3 0 cPriFail.toNat C.pc
  else s

/-- A die's engines that a page response concerns: retried, or ended with PRI_FAIL. -/
def State.priEngines (s : State) (d : DieId) (page : Nat) (ok : Bool) : State :=
  if ok then s.wakeAtsEngines d page
  else
    let bad := (s.die d).dmas.filter fun m => match m.ph with | .ats va => va / 4096 * 4096 == page | _ => false
    let s := bad.foldl (fun s m => s.dmaError d m.tag 4) s
    (List.range 8).foldl (fun s n =>
      let r := s.ring d n
      if r.running ∧ s.ringVa d n / 4096 * 4096 = page then s.ringErr d n else s) s

/-- Page requests that may leave do: none while the host holds the function in the PRI Stopped state, and no more outstanding
than the host's allocation (R428). -/
def State.priSend (s : State) : State :=
  if s.host.priStopped then s
  else
    let want := allDies.flatMap fun d => (s.die d).priWait.map fun p => d.toNat * 2 ^ 48 + p
    let new := want.filter fun k => !s.host.priSent.contains k
    { s with host := { s.host with priSent := s.host.priSent ++ new.take (min 1024 s.host.priAlloc - s.host.priSent.length) } }

/-- A page dropped from the translation buffers of a die's cores: their entries are as stale as the die's (R236). -/
def State.dropPage (s : State) (d : DieId) (page : Nat) : State :=
  let drop (k : Nat) (C : CoreSt) : CoreSt := if k / 256 = d.toNat then { C with tlb := C.tlb.filter fun t => t.va != page } else C
  { s with cores := (s.cores.map fun (k, C) => (k, drop k C)).filter fun e => e.2 != ({} : CoreSt) }

/-- R428: the host answers a page request of a die's page: success (0), Invalid Request (1) or Response Failure (2, 3), after
which no page request leaves until the host clears the stopped state. -/
def execPriResponse (d : DieId) (va : BitVec 48) (code : BitVec 2) (s : State) : Host.Outcome State Fault Refusal :=
  let page := va.toNat / 4096 * 4096
  let key := d.toNat * 2 ^ 48 + page
  let s := s.priSend
  .next <|
    if !s.host.priSent.contains key then s
    else
      let ok := code = 0
      let s := { s with host := { s.host with priSent := s.host.priSent.erase key } }
      let s := s.modDie d fun D => { D with priWait := D.priWait.erase page, atc := D.atc.filter fun x => x.va != page }
      let s := s.dropPage d page
      let s := if code.toNat < 2 then s else { s with host := { s.host with priStopped := true } }
      let s := if ok then s else { s with upd := { s.upd with priFail := s.upd.priFail ++ [key] } }
      let s := ((List.range 256).map fun i => (BitVec.ofNat 10 (d.toNat * 256 + i) : CoreId)).foldl (fun s c => s.priCore c page ok) s
      s.priEngines d page ok

/-- R429: an ATS Invalidate Request completes: every cache drops the range's translations, once no access uses one. -/
def execAtsInvalidate (va : BitVec 48) (len : BitVec 48) (s : State) : Host.Outcome State Fault Refusal :=
  let used := allDies.flatMap fun d => ((s.die d).atc.filter fun e =>
    decide (e.va < va.toNat + len.toNat) && decide (va.toNat < e.va + 4096)).map fun e => (e.pa, 4096)
  .next (if s.inUse used then s
    else (s.dropXlate va.toNat len.toNat).emit (.host 1 [va.toNat, len.toNat]))

end Sys2Proof.Machine
end

