-- ==== Sys2Proof/Machine/FabPath.lean ====
section
/-!
DEFINITION. Sys2Proof/Machine/FabPath.lean: ports, paths, sequence numbers, acknowledgement, retry and path failure on the
fabric and twin ports (R346 to R354, R376 to R378). Ports 0 to 23 are the fabric planes, 24 to 27 the twin ports D0T to D3T.
-/
namespace Sys2Proof.Machine

/-! ### Ports -/

/-- The die of a port. -/
def portDie (p : Nat) : Nat := if p < 24 then p / 6 else (p - 24) % 4

/-- The port's status register. -/
def portStatus (p : Nat) : Nat := if p < 24 then FAB_PORT_STATUS (p / 6) (p % 6) else TWN_PORT_STATUS ((p - 24) % 4)

/-- LINK of a port: 0 DOWN, 1 TRAINING, 2 UP, 3 SKIPPED. -/
def State.portLink (s : State) (p : Nat) : Nat := s.fld (portStatus p) FAB_PORT_STATUS.LINK

/-- LINK of a port set. -/
def State.setLink (s : State) (p v : Nat) : State := s.setFld (portStatus p) FAB_PORT_STATUS.LINK v

/-- Whether a port carries traffic: UP, and for a twin port not CROSSED (R376). -/
def State.portUp (s : State) (p : Nat) : Bool :=
  s.portLink p == 2 && (decide (p < 24) || !s.bit (portStatus p) TWN_PORT_STATUS.CROSSED)

/-- A port counter advanced: 0 TXF, 1 RXF, 2 RETX, 3 FCSERR, 4 NAK; twin ports have the first three. -/
def State.portCount (s : State) (p k : Nat) : State :=
  if p < 24 then
    let d := p / 6
    let i := p % 6
    match k with
    | 0 => s.bump (FAB_TXF d i)
    | 1 => s.bump (FAB_RXF d i)
    | 2 => s.bump (FAB_RETX d i)
    | 3 => s.bump (FAB_FCSERR d i)
    | _ => s.bump (FAB_NAK d i)
  else
    let d := (p - 24) % 4
    match k with
    | 0 => s.bump (TWN_TXF d)
    | 1 => s.bump (TWN_RXF d)
    | 2 => s.bump (TWN_RETX d)
    | _ => s

/-- A frame nobody expects, discarded and counted (R350). -/
def State.foreign (s : State) (p : Nat) : State := if p < 24 then s.bump FAB_FOREIGN else s.bump TWN_FOREIGN

/-! ### Paths -/

/-- The key of a path: the peer's MAC address on a fabric port; a twin port is one path (R377). -/
def pathKey (port base : Nat) : Nat := if port < 24 then base + port else 0

/-- A path; one never used is fresh. -/
def State.path (s : State) (port mac : Nat) : PathSt :=
  (s.fab.paths.find? fun p => p.port == port && p.mac == mac).getD { port := port, mac := mac }

/-- A path set. -/
def State.setPath (s : State) (x : PathSt) : State :=
  let same (p : PathSt) : Bool := p.port == x.port && p.mac == x.mac
  { s with fab := { s.fab with paths :=
      if (s.fab.paths.any same) then s.fab.paths.map fun p => (if (same p) then x else p) else s.fab.paths ++ [x] } }

/-- Whether a path is live: its port up and it is not down (R348). -/
def State.pathLive (s : State) (port mac : Nat) : Bool := s.portUp port && !(s.path port mac).down

/-- A frame of no content. -/
def frame0 : Frame := ⟨0, 0, 0, 0, 0, 0, 0, 0, 0, 0, 0, 0, 0, []⟩

/-- A frame put on its port, with the acknowledgement it carries. -/
def State.putFrame (s : State) (p : PathSt) (ty : Nat) (f : Frame) (retx : Bool) : State :=
  let fl := if retx then f.flags.toNat ||| 16 else f.flags.toNat
  let h := [fl, f.chan.toNat, f.group.toNat, f.psn.toNat, p.expect, f.srank.toNat, f.tag.toNat, f.rsn.toNat, f.seg.toNat,
    f.cgrant.toNat, f.data.length, f.attempt.toNat, f.epoch.toNat]
  let (dst, s) := if p.port < 24 then (p.mac, s)
    else if s.twn.peerMac ≠ 0 then (s.twn.peerMac + p.port, s)
    -- the address a twin port sends to before it knows its peer is not given
    else let (x, s) := s.take; (x % 2 ^ 48, s)
  -- a port paused by priority flow control sends nothing until it is free again (R347)
  if s.fab.paused.contains p.port then { s with fab := { s.fab with txHeld := s.fab.txHeld ++ [(p.port, .frame p.port ty dst h f.data)] } }
  else (s.emit (.frame p.port ty dst h f.data)).portCount p.port 0

/-- The frames a pause held on a port leave it. -/
def State.releaseTx (s : State) (port : Nat) : State :=
  let mine := s.fab.txHeld.filter fun e => e.1 == port
  let s : State := { s with fab := { s.fab with txHeld := s.fab.txHeld.filter fun e => e.1 != port } }
  mine.foldl (fun s e => (s.emit e.2).portCount port 0) s

/-- A frame of a path's own, with no content but a rank of this module that the peer knows: in the lowest group that names the
peer (R350). -/
def State.ctrlFrame (s : State) (port mac : Nat) : Frame :=
  let base := mac - port
  let knows (e : Nat × Option GroupSt) : Bool := match e.2 with
    | some G => decide (port < 24) && G.members.any fun m => m.mac == base || (m.mode != 0 && m.amac == base)
    | none => false
  match s.fab.groups.find? knows with
  | some (g, some G) =>
    { frame0 with group := BitVec.ofNat 4 g, srank := BitVec.ofNat 16 G.rank, flags := if G.alt then 2 else 0 }
  | _ => frame0

/-- An opening or testing PROBE sent (R351, R353): its PSN field names the first PSN the direction will use. -/
def State.sendProbe (s : State) (p : PathSt) : State :=
  let s := s.setPath { p with opening := true, isOpen := false }
  s.putFrame p 10 { (s.ctrlFrame p.port p.mac) with psn := BitVec.ofNat 32 p.psn } false

/-- An acknowledgement sent (R351). -/
def State.sendAck (s : State) (port mac : Nat) : State :=
  let p := { s.path port mac with since := 0 }
  (s.setPath p).putFrame p 5 { (s.ctrlFrame port mac) with apsn := BitVec.ofNat 32 p.expect } false

/-- Frames waiting on a path sent for as long as the window allows; a closed direction is opened first (R351, R352). -/
def State.pumpPath (s : State) (port mac : Nat) : Nat → State
  | 0 => s
  | k + 1 =>
    let p := s.path port mac
    match p.waiting with
    | [] => s
    | x :: rest =>
      if !s.portUp port ∨ p.down ∨ s.fab.paused.contains port then s
      else if !p.isOpen then (if p.opening then s else s.sendProbe p)
      else if s.fld FAB_RETRY FAB_RETRY.WINDOW ≤ p.unacked.length then s
      else
        let x := { x with f := { x.f with psn := BitVec.ofNat 32 p.psn } }
        -- the frame carries the acknowledgement of what has come (R351)
        let p := { p with waiting := rest, unacked := p.unacked ++ [x], psn := (p.psn + 1) % 2 ^ 32, since := 0 }
        State.pumpPath ((s.setPath p).putFrame p x.ty x.f false) port mac k

/-- A frame handed to a path. -/
def State.sendOn (s : State) (port mac ty : Nat) (f : Frame) : State :=
  let p := s.path port mac
  let s := s.setPath { p with waiting := p.waiting ++ [{ ty := ty, f := f }] }
  s.pumpPath port mac (p.waiting.length + 1)

/-- Whether PSN `a` comes before PSN `b` in the numbering that wraps at 2^32. -/
def psnBefore (a b : Nat) : Bool := a != b && decide ((b + 2 ^ 32 - a) % 2 ^ 32 < 2 ^ 31)

/-- A cumulative acknowledgement: frames before the PSN leave the window (R351). -/
def State.ackPath (s : State) (port mac apsn : Nat) : State :=
  let p := s.path port mac
  let left := p.unacked.dropWhile fun x => psnBefore x.f.psn.toNat apsn
  if !p.isOpen ∨ left.length = p.unacked.length then s
  else (s.setPath { p with unacked := left, resent := 0 }).pumpPath port mac (p.waiting.length + 1)

/-- Every unacknowledged frame from a PSN on sent again with RETX set (R352); on a port that is not UP they are lost. -/
def State.resendFrom (s : State) (port mac psn : Nat) : State :=
  let p := s.path port mac
  let fs := p.unacked.filter fun x => !psnBefore x.f.psn.toNat psn
  if s.portUp port then
    let s := if fs.isEmpty then s else s.setPath { p with since := 0 }
    fs.foldl (fun s x => (s.putFrame p x.ty x.f true).portCount port 2) s
  else s

/-- The planes a frame type may use toward a MAC base: its channel's for segments and credits, else every plane; on the twin the four twin
ports. -/
def State.planesFor (s : State) (port ty chan : Nat) : List Nat :=
  if 24 ≤ port then [24, 25, 26, 27]
  else match (if ty ≤ 4 ∨ ty = 7 then s.fab.chans.get (fun _ => none) chan else none) with
    | some C => (List.range 24).filter fun n => decide (C.planes / 2 ^ n % 2 = 1)
    | none => List.range 24

/-- The MAC base a port's peer address belongs to. -/
def macBase (mac : Nat) : Nat := mac / 32 * 32

/-- A path declared down (R353): its frames move to the first other live plane of the same channel toward the same peer; with
none they wait on the path. -/
def State.pathDown (s : State) (port mac : Nat) : State :=
  let p := s.path port mac
  if p.down then s
  else
    let fs := (p.unacked ++ p.waiting).map fun x => { x with retx := false }
    let s := s.setPath { p with down := true, isOpen := false, opening := false, unacked := [], waiting := [], resent := 0 }
    let s := if port < 24 then
        s.setFld (portStatus port) FAB_PORT_STATUS.PATHS_DOWN (s.fld (portStatus port) FAB_PORT_STATUS.PATHS_DOWN + 1) else s
    let s := s.event 0x0011 3 (if port < 24 then srcOf 4 port else srcOf 7 (port - 24)) 0 0 
      (toLe 6 (if port < 24 then mac else s.twn.peerMac + port))
    fs.foldl (fun s x =>
      let base := macBase mac
      match (s.planesFor port x.ty x.f.chan.toNat).find? fun n => n != port && s.pathLive n (pathKey n base) with
      | some n => s.sendOn n (pathKey n base) x.ty x.f
      | none => let q := s.path port mac; s.setPath { q with waiting := q.waiting ++ [x] }) s

/-- No acknowledgement in time, or a NAK: resend from a PSN, or declare the path down after RETRY_MAX resends (R352, R353). -/
def State.retryPath (s : State) (port mac psn : Nat) : State :=
  let p := s.path port mac
  if p.unacked.isEmpty then s
  else if s.fld FAB_RETRY FAB_RETRY.RETRY_MAX ≤ p.resent then s.pathDown port mac
  else (s.setPath { p with resent := p.resent + 1 }).resendFrom port mac psn

/-- A port is live again toward a peer: frames that wait on a path toward that peer which is down, or whose port is not UP, leave by it
where their channel may use it (R353, R359). -/
def State.rescue (s : State) (port base : Nat) : State :=
  let from_ := s.fab.paths.filter fun q => q.port != port && decide ((q.port < 24) = (port < 24)) &&
    q.mac == pathKey q.port base && !s.pathLive q.port q.mac
  if !s.pathLive port (pathKey port base) then s
  else from_.foldl (fun s q =>
    let may (x : TxFrame) : Bool := (s.planesFor port x.ty x.f.chan.toNat).contains port
    let s := s.setPath { q with waiting := q.waiting.filter fun x => !may x }
    (q.waiting.filter may).foldl (fun s x => s.sendOn port (pathKey port base) x.ty x.f) s) s

/-- The peers a port has frames for elsewhere that it may send now. -/
def State.rescueAll (s : State) (port : Nat) : State :=
  let bases := (s.fab.paths.filter fun q => !q.waiting.isEmpty && decide ((q.port < 24) = (port < 24))).map fun q =>
    if port < 24 then macBase q.mac else 0
  bases.eraseDups.foldl (fun s b => s.rescue port b) s

/-- A path's direction is open: the peer has acknowledged the PROBE; a path that was down is live again (R351, R353). -/
def State.pathOpened (s : State) (port mac : Nat) : State :=
  let p := s.path port mac
  let s := if p.down ∧ port < 24 then
      s.setFld (portStatus port) FAB_PORT_STATUS.PATHS_DOWN (s.fld (portStatus port) FAB_PORT_STATUS.PATHS_DOWN - 1) else s
  let s := (s.setPath { p with isOpen := true, opening := false, down := false, resent := 0 }).pumpPath port mac (p.waiting.length + 1)
  s.rescue port (if port < 24 then macBase mac else 0)

/-! ### Receiving -/

/-- The member of a rank of a group. -/
def State.member (s : State) (g r : Nat) : Option Member :=
  match s.fab.groups.get (fun _ => none) g with
  | some G => G.members[r]?
  | none => none

/-- Whether a fabric frame comes from the module its SRANK, ALT flag and GROUP name (R350, R356); a twin frame from the
partner (R395), once there is one. -/
def State.knownPeer (s : State) (port : Nat) (f : Frame) : Bool :=
  if port < 24 then
    match s.member f.group.toNat f.srank.toNat with
    | some m => f.src.toNat == (if f.flags.getLsbD 1 then m.amac else m.mac) + port && !(f.flags.getLsbD 1 && m.mode == 0)
    | none => false
  else s.twn.peerMac == 0 || f.src.toNat == s.twn.peerMac + port

/-- The path key a received frame belongs to. -/
def srcKey (port : Nat) (f : Frame) : Nat := if port < 24 then f.src.toNat else 0

/-- A twin port whose peer is another die's twin port is marked CROSSED and carries no traffic (R376). -/
def State.checkCrossed (s : State) (port : Nat) (f : Frame) : State :=
  let i := f.src.toNat % 32
  if 24 ≤ port ∧ s.portLink port = 2 ∧ 24 ≤ i ∧ i < 28 ∧ i ≠ port ∧ macBase f.src.toNat ≠ s.fuses.macBase.toNat then s.setFld (portStatus port) TWN_PORT_STATUS.CROSSED 1 else s

/-- A numbered frame in order of its path: accepted in its turn; after a gap discarded with one NAK; before it discarded as a
duplicate and acknowledged (R351). -/
def State.inOrder (s : State) (port : Nat) (f : Frame) : State × Bool :=
  let mac := srcKey port f
  let p := s.path port mac
  if !p.rOpen then (s, false)
  else if f.psn.toNat = p.expect then
    let p := { p with expect := (p.expect + 1) % 2 ^ 32, naked := false, since := p.since + 1 }
    let s := (s.setPath p).portCount port 1
    (if 16 ≤ p.since then s.sendAck port mac else s, true)
  else if psnBefore f.psn.toNat p.expect then ((s.bump FAB_DUP).sendAck port mac, false)
  else if p.naked then (s, false)
  else
    let s := s.setPath { p with naked := true }
    ((s.putFrame p 6 { (s.ctrlFrame port mac) with apsn := BitVec.ofNat 32 p.expect } false).portCount port 4, false)

/-- A received frame of a known peer on a live port, its acknowledgement taken; `numbered` frames must be in order. -/
def State.receive (s : State) (port : Nat) (f : Frame) (numbered : Bool) : State × Bool :=
  let s := s.checkCrossed port f
  if !s.portUp port then (s, false)
  else if !s.knownPeer port f then (s.foreign port, false)
  else
    let s := s.ackPath port (srcKey port f) f.apsn.toNat
    if numbered then s.inOrder port f else (s, true)

end Sys2Proof.Machine
end

