-- ==== Sys2Proof/Machine/FabRed.lean ====
section
/-!
DEFINITION. Sys2Proof/Machine/FabRed.lean: reductions on the fabric's channels (R355 to R371): trees, credits, forming and
forwarding segments, contributions and their copies, and how a reduction ends.
-/
namespace Sys2Proof.Machine

/-! ### Trees (R357) -/

/-- The position of a rank in the tree rooted at `o`. -/
def treePos (M o r : Nat) : Nat := (r + M - o % M) % M

/-- The ranks of this module's children in the tree rooted at `o`. -/
def GroupSt.children (G : GroupSt) (o : Nat) : List Nat :=
  let M := G.members.length
  (List.range G.fanin).filterMap fun i =>
    let k := treePos M o G.rank * G.fanin + 1 + i
    if k < M then some ((k + o) % M) else none

/-- The rank of this module's parent in the tree rooted at `o`. -/
def GroupSt.parent (G : GroupSt) (o : Nat) : Option Nat :=
  let M := G.members.length
  let q := treePos M o G.rank
  if q = 0 then none else some (((q - 1) / G.fanin + o) % M)

/-- MODE of a rank: 0 no ALT, 1 SHADOW, 2 SPARE. -/
def GroupSt.mode (G : GroupSt) (r : Nat) : Nat := match G.members[r]? with | some m => m.mode | none => 0

/-- The copies of a rank that are sent to: the primary, and the ALT under SHADOW, or under SPARE when the rank is not the
root. -/
def GroupSt.copiesOf (G : GroupSt) (o r : Nat) : List Bool :=
  if G.mode r = 1 ∨ (G.mode r = 2 ∧ r ≠ o) then [false, true] else [false]

/-- The MAC base of a copy of a rank. -/
def GroupSt.mac (G : GroupSt) (r : Nat) (alt : Bool) : Nat :=
  match G.members[r]? with
  | some m => if alt then m.amac else m.mac
  | none => 0

/-- Whether the module is the ALT of a SPARE root, to which nobody sends and which sends nothing (R357, R365). -/
def GroupSt.aside (G : GroupSt) (o : Nat) : Bool := G.alt && G.rank == o && G.mode o == 2

/-! ### Channels and reductions -/

/-- A channel. -/
def State.chan (s : State) (c : Nat) : Option ChanSt := s.fab.chans.get (fun _ => none) c

/-- A channel set. -/
def State.setChan (s : State) (c : Nat) (C : ChanSt) : State :=
  { s with fab := { s.fab with chans := s.fab.chans.set (fun _ => none) c (some C) } }

/-- A group. -/
def State.group (s : State) (g : Nat) : Option GroupSt := s.fab.groups.get (fun _ => none) g

/-- A reduction of a channel by number, with its channel and group. -/
def State.red (s : State) (c rsn : Nat) : Option (ChanSt × GroupSt × Red) :=
  match s.chan c with
  | none => none
  | some C => match s.group C.group, C.reds.find? fun R => R.rsn == rsn with
    | some G, some R => some (C, G, R)
    | _, _ => none

/-- A reduction changed. -/
def State.modRed (s : State) (c rsn : Nat) (f : Red → Red) : State :=
  match s.chan c with
  | none => s
  | some C => s.setChan c { C with reds := C.reds.map fun R => if R.rsn = rsn then f R else R }

/-- The die whose fabric engine serves a channel (R358). -/
def chanDie (c : Nat) : DieId := BitVec.ofNat 2 (c / 16)

/-- The shard entry of a reduction. -/
def State.shardOf (s : State) (R : Red) : Option Shard := s.fab.shards[R.entry]?

/-- The plan's layer of a TAG, with its index. -/
def State.layerOf (s : State) (tag : Nat) : Option (Nat × Layer) :=
  match s.upd.plan with
  | none => none
  | some P => ((List.range P.layers.length).zip P.layers).find? fun (_, l) => l.tag == tag

/-- UPD_PHASE.PHASE. -/
def State.phase (s : State) : Nat := s.fld UPD_PHASE UPD_PHASE.PHASE

/-- Low 32 bits of the open epoch. -/
def State.epoch32 (s : State) : Nat := (s.rd UPD_EPOCH).toNat % 2 ^ 32

/-- Whether a frame belongs to the module's current step attempt (R371). -/
def State.inAttempt (s : State) (f : Frame) : Bool :=
  s.phase != 0 && f.epoch.toNat == s.epoch32 && f.attempt.toNat == s.upd.attempt % 8

/-! ### Memory of the fabric engines -/

/-- A virtual range cut at pages; an empty range has none. -/
def pageCuts (a n : Nat) : List (Nat × Nat) :=
  (List.range (if n = 0 then 0 else (a % 4096 + n + 4095) / 4096)).map fun i =>
    let lo := if i = 0 then a else a / 4096 * 4096 + i * 4096
    (lo, min (4096 - lo % 4096) (a + n - lo))

/-- Bytes read by an engine of die `d`; none where a page cannot be reached. -/
def State.engRead (s : State) (d : DieId) (va n : Nat) : Option (List (Byte × Bool)) :=
  (pageCuts va n).foldl (fun acc (lo, m) =>
    match acc, (s.xlateDie d lo).1 with
    | some bs, .page e =>
      let pa := e.pa + (lo - e.va)
      if e.r && s.dmaPlace pa m then some (bs ++ s.readP pa m) else none
    | _, _ => none) (some [])

/-- Whether an engine of die `d` can write every page of a range. -/
def State.engWritable (s : State) (d : DieId) (va n : Nat) : Bool :=
  (pageCuts va n).all fun (lo, m) => match (s.xlateDie d lo).1 with
    | .page e => e.w && s.dmaPlace (e.pa + (lo - e.va)) m
    | _ => false

/-- The physical pieces of a range as an engine of die `d` reaches them: address and length, page by page. -/
def State.engPieces (s : State) (d : DieId) (va n : Nat) : List (Nat × Nat) :=
  (pageCuts va n).filterMap fun (lo, m) => match (s.xlateDie d lo).1 with
    | .page e => some (e.pa + (lo - e.va), m)
    | _ => none

/-- Where the first poisoned codeword of a range lies; 0 where the engine finds none. -/
def State.poisonAt (s : State) (d : DieId) (va n : Nat) : Nat :=
  ((s.engPieces d va n).findSome? fun (pa, m) =>
    ((List.range (m / 16 + 2)).map fun i => pa / 16 * 16 + 16 * i).find? fun w => decide (w < pa + m) && s.poisoned w 1).getD 0

/-- The packets of an engine's traffic over a range, line by line (R25, R264): reads with their responses, or writes with their
acknowledgements, between the engine's place and the tiers. -/
def State.engTraffic (s : State) (d : DieId) (e : Ep) (va n : Nat) (write : Bool) : State :=
  (s.engPieces d va n).foldl (fun s (pa, m) => (lineCuts pa m).foldl (fun s (o, k) =>
    let t := s.tierEp (pa + o)
    if write then (s.send e t (writeFlits k)).ctrl t e else (s.send e t 1).send t e 5) s) s

/-- The stop at which the fabric engine that serves a channel reaches the mesh: the first fabric port's of its die (a DESIGN CHOICE, in
the log: R358 names the die alone). -/
def chanEp (c : Nat) : Ep := portEp (BitVec.ofNat 2 (c / 16)) 0

/-- Bytes written by an engine of die `d`, page by page. -/
def State.engWrite (s : State) (d : DieId) (va : Nat) (bs : List (Byte × Bool)) : State :=
  (pageCuts va bs.length).foldl (fun s (lo, m) =>
    match (s.xlateDie d lo).1 with
    | .page e => s.writeLines (e.pa + (lo - e.va)) ((bs.drop (lo - va)).take m) 0xFFFFFFFF
    | _ => s) s

/-! ### Credits (R355) -/

/-- The key of a copy of a rank. -/
def copyKey (r : Nat) (alt : Bool) : Nat := r * 2 + (if alt then 1 else 0)

/-- A frame of a channel toward a copy of a rank, with the grant it carries; the grant counts as told. -/
def State.chanFrame (s : State) (c : Nat) (C : ChanSt) (G : GroupSt) (key : Nat) : State × Frame :=
  let x := C.credits.get (fun _ => {}) key
  (s.setChan c { C with credits := C.credits.set (fun _ => {}) key { x with told := x.mine } },
   { frame0 with
     flags := if G.alt then 2 else 0
     chan := BitVec.ofNat 6 c
     group := BitVec.ofNat 4 C.group
     srank := BitVec.ofNat 16 G.rank
     cgrant := BitVec.ofNat 16 x.mine
     attempt := BitVec.ofNat 3 s.upd.attempt
     epoch := BitVec.ofNat 32 s.epoch32 })

/-- The live planes of a channel toward a MAC base, in ascending order (R348, R359). -/
def State.livePlanes (s : State) (C : ChanSt) (mac : Nat) : List Nat :=
  (List.range 24).filter fun n => decide (C.planes / 2 ^ n % 2 = 1) && s.pathLive n (mac + n)

/-- Segments of a source consumed; 64 since the last grant send a CREDIT frame. -/
def State.consume (s : State) (c key n : Nat) : State :=
  match s.chan c with
  | none => s
  | some C =>
    let x := C.credits.get (fun _ => {}) key
    let C := { C with credits := C.credits.set (fun _ => {}) key { x with mine := x.mine + n } }
    let s := s.setChan c C
    match s.group C.group with
    | none => s
    | some G =>
      let mac := G.mac (key / 2) (key % 2 == 1)
      match s.livePlanes C mac with
      | p :: _ =>
        if x.mine + n < x.told + 64 then s
        else
          let (s, f) := s.chanFrame c C G key
          s.sendOn p (mac + p) 7 f
      | [] => s

/-- CGRANT of a frame taken: a cumulative count of 16 bits, never lowered (R355). -/
def State.takeGrant (s : State) (f : Frame) : State :=
  let c := f.chan.toNat
  match s.chan c with
  | none => s
  | some C =>
    let key := copyKey f.srank.toNat (f.flags.getLsbD 1)
    let x := C.credits.get (fun _ => {}) key
    let up := (f.cgrant.toNat + 2 ^ 16 - x.theirs % 2 ^ 16) % 2 ^ 16
    if up = 0 ∨ 2 ^ 15 ≤ up then s
    else s.setChan c { C with credits := C.credits.set (fun _ => {}) key { x with theirs := x.theirs + up } }

/-! ### Contribution order (R364, R505) -/

/-- The key of a reduction's order in a replay. -/
def fabKey (c rsn : Nat) : Nat := 2 ^ 40 + c * 2 ^ 32 + rsn

/-- The order a replay forces on a reduction: ranks, with bit 15 where the ALT copy is preferred. -/
def State.forcedFab (s : State) (c rsn : Nat) : Option (List Nat) :=
  if !s.replaying || s.rpl.free.contains (fabKey c rsn) then none
  else (s.rpl.forced.find? fun r => r.key == fabKey c rsn).map (·.srcs)

/-- The contribution order of a reduction: forced, or that of the first segments. -/
def State.orderOf (s : State) (c : Nat) (R : Red) : List Nat :=
  match s.forcedFab c R.rsn with
  | some o => o.map (· % 2 ^ 15)
  | none => (R.copies.map (·.rank)).eraseDups

/-- The preferred copy of a rank's contribution. -/
def Red.preferred (R : Red) (r : Nat) : Option Contrib := R.copies.find? fun x => x.rank == r && x.pref

/-- A copy changed. -/
def Red.modCopy (R : Red) (r : Nat) (alt : Bool) (f : Contrib → Contrib) : Red :=
  { R with copies := R.copies.map fun x => if x.rank = r ∧ x.alt = alt then f x else x }

/-- A segment a copy holds. -/
def Contrib.seg (x : Contrib) (k : Nat) : Option (List Byte × Bool) := x.segs.get (fun _ => none) k

/-- Whether a copy is wholly there from segment `k` on. -/
def Contrib.whole (x : Contrib) (k n : Nat) : Bool := !x.lost && (List.range n).all fun i => decide (i < k) || (x.seg i).isSome

/-! ### Forming (R363, R366) -/

/-- FP32 sums, element by element. -/
def addBytes (a b : List Byte) : List Byte :=
  (List.range ((a.length + 3) / 4)).flatMap fun i =>
    toLe 4 (f32Add (leNat ((a.drop (4 * i)).take 4)) (leNat ((b.drop (4 * i)).take 4)))

/-- Segment `k` of every child's preferred copy in contribution order, once all are there: bytes, poison, the copy's key and
whether it counts as consumed. -/
def State.inputsOf (s : State) (c : Nat) (G : GroupSt) (R : Red) (k : Nat) : Option (List (List Byte × Bool × Nat × Bool)) :=
  let kids := if G.aside R.root then [] else G.children R.root
  let o := (s.orderOf c R).filter fun r => kids.contains r
  if o.length < kids.length then none
  else o.foldl (fun acc r =>
    match acc, R.preferred r with
    | some l, some x => (x.seg k).map fun (bs, p) => l ++ [(bs, p, copyKey r x.alt, x.paid)]
    | _, _ => none) (some [])

/-- R362: whether a reduce-scatter's contribution is ready: LOBJ has advanced by LSTEP since step open. -/
def State.contribReady (s : State) (R : Red) : Bool :=
  match s.shardOf R with
  | some e => decide (e.lstep ≤ (s.objVal e.lobj - R.base).toNat)
  | none => false

/-- Segments of a reduce-scatter formed for as long as everything they need is there: the contribution, and the children's (R363). What is
formed leaves only once the reduction may send (R362). -/
def State.formRs (s : State) (c rsn : Nat) : Nat → State
  | 0 => s
  | fuel + 1 =>
    match s.red c rsn with
    | none => s
    | some (_, G, R) =>
      if R.kind ≠ 0 ∨ !s.contribReady R ∨ R.done ∨ R.nseg ≤ R.formed then s
      else match s.shardOf R with
      | none => s
      | some e =>
        let k := R.formed
        let n := min 4096 (e.glen - 4096 * k)
        match s.engRead (chanDie c) (e.gsrc + 4096 * k) n, s.inputsOf c G R k with
        | some own, some ins =>
          let bad := own.any (·.2) || ins.any fun x => x.2.1
          let sum := ins.foldl (fun a x => addBytes a x.1) (own.map (·.1))
          let paid := (ins.filter fun x => !x.2.2.2).map fun x => x.2.2.1
          let drop (R : Red) : Red :=
            { R with formed := k + 1, copies := R.copies.map fun x => { x with segs := if x.pref then x.segs.set (fun _ => none) k none else x.segs } }
          let s := s.engTraffic (chanDie c) (chanEp c) (e.gsrc + 4096 * k) n false
          let s := if own.any (·.2) then s.poisonUse (s.poisonAt (chanDie c) (e.gsrc + 4096 * k) n) 7 0 else s
          if G.parent R.root = none then
            match s.layerOf e.tag with
            | none => s
            | some (_, l) =>
              if s.engWritable (chanDie c) (l.gA + 4096 * k) n then
                let s := (s.modRed c rsn drop).engWrite (chanDie c) (l.gA + 4096 * k) (sum.map fun b => (b, bad))
                let s := s.engTraffic (chanDie c) (chanEp c) (l.gA + 4096 * k) n true
                (paid.foldl (fun s key => s.consume c key 1) s).formRs c rsn fuel
              else s
          else
            (s.modRed c rsn fun R => { drop R with sums := R.sums.set (fun _ => none) k (some (sum, bad)), pend := R.pend ++ [(k, paid)] }).formRs
              c rsn fuel
        | _, _ => s

/-- The norm at this module (R366): once its own value and every child's are there, their sum goes up, or at rank 0 is the
total. -/
def State.formNorm (s : State) (c rsn : Nat) : State :=
  match s.red c rsn with
  | none => s
  | some (_, G, R) =>
    if R.kind ≠ 2 ∨ !R.begun ∨ R.formed ≠ 0 then s
    else match s.inputsOf c G R 0 with
    | none => s
    | some ins =>
      let ab := R.abort || R.copies.any fun x => x.pref && x.abort
      let sum := ins.foldl (fun a x => f32Add a (leNat x.1)) R.own
      let up := (G.parent R.root).isSome
      let R' := { R with formed := 1, abort := ab, sums := R.sums.set (fun _ => none) (if up then 0 else 1) (some (toLe 4 sum, false)) }
      let s := s.modRed c rsn fun _ => R'
      let s := ins.foldl (fun s x => if x.2.2.2 then s else s.consume c x.2.2.1 1) s
      if up then s else { s with upd := { s.upd with normGot := some (sum, ab) } }

/-! ### Sending (R355, R357, R359, R365) -/

/-- The destinations of a reduction: rank, copy, and for the norm whether it is the total. -/
def GroupSt.dests (G : GroupSt) (R : Red) : List (Nat × Bool × Bool) :=
  if G.aside R.root then []
  else
    let up := match G.parent R.root with
      | some p => (G.copiesOf R.root p).map fun a => (p, a, false)
      | none => []
    let down := (G.children R.root).flatMap fun r => (G.copiesOf R.root r).map fun a => (r, a, true)
    match R.kind with
    | 0 => up
    | 1 => down
    | _ => up ++ down

/-- The segment of a reduction for a destination, when it is there to be sent. -/
def State.outSeg (s : State) (c : Nat) (G : GroupSt) (R : Red) (k : Nat) (down : Bool) : Option (List Byte × Bool) :=
  match R.kind with
  | 1 =>
    if G.parent R.root = none then
      match s.shardOf R with
      | some e => if R.begun then
          (s.engRead (chanDie c) (e.gadr + 4096 * k) (min 4096 (e.gathlen - 4096 * k))).map fun l => (l.map (·.1), l.any (·.2))
        else none
      | none => none
    else R.sums.get (fun _ => none) k
  | 2 => R.sums.get (fun _ => none) (if down then 1 else 0)
  | _ => R.sums.get (fun _ => none) k

/-- Sources of formed segments that every destination has taken count as consumed. -/
def State.settlePend (s : State) (c rsn : Nat) : State :=
  match s.red c rsn with
  | none => s
  | some (_, G, R) =>
    let low := (G.dests R).foldl (fun m (r, a, _) => min m (R.queued.get (fun _ => 0) (copyKey r a))) R.nseg
    let out := R.pend.filter fun x => decide (x.1 < low)
    let s := s.modRed c rsn fun R => { R with
      pend := R.pend.filter fun x => decide (low ≤ x.1)
      sums := if R.kind = 0 then R.sums.filter fun x => decide (low ≤ x.1) else R.sums }
    out.foldl (fun s x => x.2.foldl (fun s key => s.consume c key 1) s) s

/-- Segments of a reduction sent to one destination for as long as there are segments, credit and a live plane. -/
def State.pushDest (s : State) (c rsn : Nat) (dst : Nat × Bool × Bool) : Nat → State
  | 0 => s
  | fuel + 1 =>
    match s.red c rsn with
    | none => s
    | some (C, G, R) =>
      let (r, a, down) := dst
      let key := copyKey r a
      let k := R.queued.get (fun _ => 0) key
      let x := C.credits.get (fun _ => {}) key
      let mac := G.mac r a
      let ps := s.livePlanes C mac
      if R.nseg ≤ k ∨ R.done ∨ (R.kind = 0 ∧ !R.begun) ∨ C.credit ≤ x.sent - x.theirs ∨ ps.isEmpty then s
      else match s.outSeg c G R k down with
      | none => s
      | some (bs, bad) =>
        let s := match s.shardOf R with
          | some e =>
            if R.kind = 1 ∧ G.parent R.root = none then
              let s := s.engTraffic (chanDie c) (chanEp c) (e.gadr + 4096 * k) bs.length false
              if bad then s.poisonUse (s.poisonAt (chanDie c) (e.gadr + 4096 * k) bs.length) 7 0 else s
            else s
          | none => s
        let tag := match s.shardOf R with | some e => if R.kind = 2 then none else some e.tag | none => none
        let (t, s) := match tag with | some t => (t, s) | none => s.take
        let (s, f) := s.chanFrame c C G key
        let fl := (if k + 1 = R.nseg then 1 else 0) + (if bad then 4 else 0) + (if R.kind = 2 ∧ R.abort then 8 else 0)
        let f := { f with
          flags := f.flags ||| BitVec.ofNat 8 fl
          tag := BitVec.ofNat 16 t
          rsn := BitVec.ofNat 32 rsn
          seg := BitVec.ofNat 32 k
          data := bs }
        let s := (s.modRed c rsn fun R => { R with queued := R.queued.set (fun _ => 0) key (k + 1) })
        let s := match s.chan c with
          | some C => s.setChan c { C with credits := C.credits.upd (fun _ => {}) key fun x => { x with sent := x.sent + 1 } }
          | none => s
        let p := ps.getD (k % ps.length) 0
        let ty := if R.kind = 0 then 1 else if R.kind = 1 then 2 else if down then 4 else 3
        (s.sendOn p (mac + p) ty f).pushDest c rsn dst fuel

/-! ### Ending (R364) -/

/-- Whether nothing of a reduction is left to form, receive or send. -/
def GroupSt.finished (G : GroupSt) (R : Red) : Bool :=
  R.done || G.aside R.root ||
  ((G.dests R).all fun (r, a, _) => R.nseg ≤ R.queued.get (fun _ => 0) (copyKey r a)) &&
  match R.kind with
  | 0 => decide (R.nseg ≤ R.formed)
  | 1 => if G.parent R.root = none then R.begun else decide (R.nseg ≤ R.formed)
  | _ => (R.sums.get (fun _ => none) 1).isSome

/-- Whether a frame of a reduction is still unacknowledged. -/
def State.unacked (s : State) (c rsn : Nat) : Bool :=
  s.fab.paths.any fun p => (p.unacked ++ p.waiting).any fun x =>
    1 ≤ x.ty && x.ty ≤ 4 && x.f.chan.toNat == c && x.f.rsn.toNat == rsn && x.f.attempt.toNat == s.upd.attempt % 8 &&
      x.f.epoch.toNat == s.epoch32

/-- A reduction's contribution order and preferred copies noted for its FAB_ORDER record. -/
def State.noteRed (s : State) (c : Nat) (R : Red) : State :=
  if s.records 5 ∧ !R.copies.isEmpty then
    let o := (s.orderOf c R).map fun r => match R.preferred r with
      | some x => if x.alt then r + 2 ^ 15 else r
      | none => r
    { s with rpl := { s.rpl with fabs := s.rpl.fabs ++ [⟨fabKey c R.rsn, o⟩] } }
  else s

/-- The oldest reductions of a channel that are finished and acknowledged end, in RSN order; the root of a reduce-scatter
advances GOBJ by 1. -/
def State.endReds (s : State) (c : Nat) : Nat → State
  | 0 => s
  | fuel + 1 =>
    match s.chan c with
    | none => s
    | some C => match C.reds, s.group C.group with
      | R :: rest, some G =>
        if G.finished R && !s.unacked c R.rsn then
          let s := (s.noteRed c R).setChan c { C with reds := rest }
          let s := if R.kind = 0 ∧ G.parent R.root = none ∧ !R.done ∧ !G.aside R.root then
              match (s.shardOf R).bind fun e => s.layerOf e.tag with
              | some (_, l) => s.sendAdv ⟨.reg, l.gobj, 1⟩
              | none => s
            else s
          s.endReds c fuel
        else s
      | _, _ => s

/-- Everything of a channel that may go on does: sums are formed, segments sent, reductions ended. -/
def State.pumpChan (s : State) (c : Nat) : State :=
  match s.chan c with
  | none => s
  | some C =>
    let s := C.reds.foldl (fun s R =>
      let s := (s.formRs c R.rsn (R.nseg + 1)).formNorm c R.rsn
      match s.red c R.rsn with
      | none => s
      | some (_, G, R) => ((G.dests R).foldl (fun s d => s.pushDest c R.rsn d (R.nseg + 1)) s).settlePend c R.rsn) s
    s.endReds c (C.reds.length + 1)

/-- Every channel goes on. -/
def State.pumpFab (s : State) : State := (s.fab.chans.map (·.1)).foldl (fun s c => s.pumpChan c) s

/-- Whether a reduce-scatter of the step is unended at the module. -/
def State.rsLeft (s : State) : Bool :=
  s.fab.chans.any fun e => match e.2 with | some C => C.reds.any fun R => R.kind == 0 | none => false

/-- The norm's own value handed over, once every reduce-scatter of the step has ended, or with ABORT once one has failed
(R366). -/
def State.normTry (s : State) : State :=
  if (s.upd.sent ∧ !s.rsLeft) ∨ s.fab.failed then
    s.fab.chans.foldl (fun s e => match e.2 with
      | none => s
      | some C => C.reds.foldl (fun s R =>
          if R.kind = 2 ∧ !R.begun then
            let (v, s) := if s.upd.sent then (R.own, s) else let (x, s) := s.take; (x % 2 ^ 32, s)
            (s.modRed e.1 R.rsn fun R => { R with begun := true, own := v, abort := R.abort || s.fab.failed }).pumpChan e.1
          else s) s) s
  else s

/-- The fabric goes on after a change: channels, then the norm, which may wait for reduce-scatters to end. -/
def State.fabGo (s : State) : State := s.pumpFab.normTry

/-! ### Receiving (R354, R363 to R369) -/

/-- A rank's contribution taken from its stored backup from the first segment not yet summed (R369). -/
def State.switchCopy (s : State) (c rsn r : Nat) : State :=
  match s.red c rsn with
  | none => s
  | some (_, _, R) =>
    match R.preferred r, R.copies.find? fun x => x.rank == r && !x.pref && !x.gone && x.whole R.formed R.nseg with
    | some old, some new =>
      if old.whole R.formed R.nseg then s
      else
        let n := (old.segs.filter fun e => e.2.isSome).length
        let s := s.modRed c rsn fun R =>
          (R.modCopy r old.alt fun x => { x with pref := false, gone := true, segs := [] }).modCopy r new.alt
            fun x => { x with pref := true, paid := true }
        let s := (s.consume c (copyKey r old.alt) n).bump FAB_BACKUP
        let s := if n = 0 then s else s.bump FAB_LATE n
        s.event 0x0016 3 (srcOf 6 0) 0 0 (toLe 1 c ++ toLe 3 0 ++ toLe 4 rsn ++ toLe 2 r)
    | _, _ => s

/-- After DL_SOFT, ranks whose preferred copy is incomplete and whose backup is complete are switched. -/
def State.softCheck (s : State) (c rsn : Nat) : State :=
  match s.red c rsn with
  | none => s
  | some (_, _, R) => if R.soft then ((R.copies.map (·.rank)).eraseDups).foldl (fun s r => s.switchCopy c rsn r) s else s

/-- A backup copy dropped once the preferred copy is complete (R368, R369). -/
def State.dropBackup (s : State) (c rsn r : Nat) (shadow : Bool) : State :=
  match s.red c rsn with
  | none => s
  | some (_, _, R) =>
    match R.copies.find? fun x => x.rank == r && !x.pref && !x.gone with
    | none => s
    | some x =>
      let n := (x.segs.filter fun e => e.2.isSome).length
      let s := s.modRed c rsn fun R => R.modCopy r x.alt fun x => { x with segs := [], gone := true, lost := true }
      if shadow ∧ 0 < n then s.bump FAB_SHADOWLOSE n else s

/-- Segments the backup copies of a channel hold. -/
def ChanSt.backupUsed (C : ChanSt) : Nat :=
  (C.reds.map fun R => (R.copies.map fun x => if x.pref then 0 else (x.segs.filter fun e => e.2.isSome).length).sum).sum

/-- A child's segment `k` accepted for a reduction (R354, R363, R368). -/
def State.contribute (s : State) (c rsn r : Nat) (alt : Bool) (k : Nat) (bs : List Byte) (bad ab : Bool) : State :=
  match s.red c rsn with
  | none => s
  | some (C, G, R) =>
    let key := copyKey r alt
    let mode := G.mode r
    let forced := s.forcedFab c rsn
    let known := match forced with | some o => o.any fun x => x % 2 ^ 15 == r | none => true
    let s := if known then s else (s.diverge 4 0 rsn).freeOrder (fabKey c rsn)
    let forced := if known then forced else none
    -- the copy, new when this is its first segment
    let want := match forced with
      | some o => o.contains (r + (if alt then 2 ^ 15 else 0))
      | none => if mode = 2 then !alt else (R.preferred r).isNone
    let R := if R.copies.any fun x => x.rank == r && x.alt == alt then R
      else { R with copies := R.copies ++ [{ rank := r, alt := alt, pref := want }] }
    let s := s.modRed c rsn fun _ => R
    match R.copies.find? fun x => x.rank == r && x.alt == alt with
    | none => s
    | some x =>
      if R.nseg ≤ k then s.consume c key 1
      else if (x.seg k).isSome ∨ (x.pref ∧ k < R.formed ∧ !x.gone) then (s.bump FAB_DUP).consume c key 1
      else if x.gone then (s.bump (if mode = 1 ∧ x.lost then FAB_SHADOWLOSE else FAB_LATE)).consume c key 1
      else if x.pref then
        let early := match forced with
          | some o => ((o.map (· % 2 ^ 15)).takeWhile fun q => q != r).any fun q => (R.preferred q).isNone
          | none => false
        let s := if early then s.bump RPL_HELD else s
        let s := s.modRed c rsn fun R => R.modCopy r alt fun x =>
          { x with segs := x.segs.set (fun _ => none) k (some (bs, bad)), abort := x.abort || ab }
        match s.red c rsn with
        | some (_, _, R') => match R'.preferred r with
          | some y => if y.whole R'.formed R'.nseg then s.dropBackup c rsn r (mode = 1) else s
          | none => s
        | none => s
      else if x.lost ∨ C.bklen / 4096 ≤ C.backupUsed then
        let s := s.modRed c rsn fun R => R.modCopy r alt fun x => { x with lost := true }
        (if mode = 1 then s.bump FAB_SHADOWLOSE else s).consume c key 1
      else
        let s := s.modRed c rsn fun R => R.modCopy r alt fun x =>
          { x with segs := x.segs.set (fun _ => none) k (some (bs, bad)), abort := x.abort || ab }
        let s := (s.consume c key 1).softCheck c rsn
        -- behind a preferred copy that is complete nothing is kept (R368)
        match s.red c rsn with
        | some (_, _, R') => match R'.preferred r with
          | some y => if y.alt != alt && y.whole R'.formed R'.nseg then s.dropBackup c rsn r (mode = 1) else s
          | none => s
        | none => s

/-- An all-gather's segment written to the copy area and kept for the children (R365); a second copy is a duplicate (R354). -/
def State.gatherSeg (s : State) (c rsn key k : Nat) (bs : List Byte) (bad : Bool) : State :=
  match s.red c rsn with
  | none => s
  | some (_, _, R) =>
    match s.shardOf R with
    | none => s
    | some e =>
      if R.nseg ≤ k then s.consume c key 1
      else if (R.sums.get (fun _ => none) k).isSome then (s.bump FAB_DUP).consume c key 1
      else
        let s := s.modRed c rsn fun R => { R with sums := R.sums.set (fun _ => none) k (some (bs, bad)), formed := R.formed + 1 }
        ((s.engWrite (chanDie c) (e.gadr + 4096 * k) (bs.map fun b => (b, bad))).engTraffic (chanDie c) (chanEp c) (e.gadr + 4096 * k) bs.length
          true).consume c key 1

/-- The total S reaches a member (R366). -/
def State.normDown (s : State) (c rsn key : Nat) (bs : List Byte) (ab : Bool) : State :=
  match s.red c rsn with
  | none => s
  | some (_, _, R) =>
    if (R.sums.get (fun _ => none) 1).isSome then (s.bump FAB_DUP).consume c key 1
    else
      let s := s.modRed c rsn fun R => { R with sums := R.sums.set (fun _ => none) 1 (some (bs, false)), abort := ab }
      { s.consume c key 1 with upd := { s.upd with normGot := some (leNat bs, ab) } }

/-- A received segment noted as an input of recording and replay; in a replay with contents the log's bytes stand for it
(R501, R504). -/
def State.fabInput (s : State) (ty : Nat) (f : Frame) : State × List Byte :=
  let c := f.chan.toNat
  let src := c + f.seg.toNat * 2 ^ 32
  let kind := if ty = 4 then 3 else 1
  let l := s.loggedInput kind (c / 16) src f.data.length
  (s.input kind (c / 16) f.rsn.toNat src f.data, l.getD f.data)

/-- Whether the sender of a frame may send to this module in a reduction's tree. -/
def GroupSt.sends (G : GroupSt) (R : Red) (ty r : Nat) : Bool :=
  if ty = 1 ∨ ty = 3 then (G.children R.root).contains r else G.parent R.root == some r

/-- A late segment: counted, and its credit given back. -/
def State.lateSeg (s : State) (c key : Nat) : State := (s.bump FAB_LATE).consume c key 1

/-- A segment accepted from its path (R354, R371): of another attempt it is late; of a reduction not yet issued here it is kept;
else it is taken up. -/
def State.segment (s : State) (port ty : Nat) (f : Frame) : State :=
  let c := f.chan.toNat
  let key := copyKey f.srank.toNat (f.flags.getLsbD 1)
  match s.chan c with
  | none => s.bump FAB_LATE
  | some C =>
    if C.group ≠ f.group.toNat ∨ !s.inAttempt f then s.lateSeg c key
    else match s.red c f.rsn.toNat with
    | none =>
      if (f.rsn.toNat + 2 ^ 32 - C.rsn) % 2 ^ 32 < 2 ^ 31 then s.setChan c { C with early := C.early ++ [(port, ty, f)] }
      else s.lateSeg c key
    | some (_, G, R) =>
      let kind := if ty = 1 then 0 else if ty = 2 then 1 else 2
      if R.kind ≠ kind ∨ !G.sends R ty f.srank.toNat then s.lateSeg c key
      else
        let (s, bs) := s.fabInput ty f
        let bad := f.flags.getLsbD 2
        let ab := f.flags.getLsbD 3
        match ty with
        | 2 => s.gatherSeg c R.rsn key f.seg.toNat bs bad
        | 4 => s.normDown c R.rsn key bs ab
        | _ => s.contribute c R.rsn f.srank.toNat (f.flags.getLsbD 1) (if ty = 3 then 0 else f.seg.toNat) bs bad ab

/-! ### Issuing and abandoning (R362, R365, R366, R371) -/

/-- A reduction issued on a channel with its next RSN; segments that came early are taken up. -/
def State.issueRed (s : State) (c : Nat) (R : Red) : State :=
  match s.chan c with
  | none => s
  | some C =>
    let mine (x : Nat × Nat × Frame) : Bool := x.2.2.rsn.toNat == C.rsn
    let early := C.early.filter mine
    let s := s.setChan c { C with
      reds := C.reds ++ [{ R with rsn := C.rsn }]
      rsn := (C.rsn + 1) % 2 ^ 32
      early := C.early.filter fun x => !mine x }
    early.foldl (fun s (p, t, f) => s.segment p t f) s

/-- Shard entries with their indices. -/
def FabSt.entries (F : FabSt) : List (Nat × Shard) := (List.range F.shards.length).zip F.shards

/-- The step's reduce-scatters, in table order on each channel (R362). -/
def State.issueRs (s : State) : State :=
  let s := s.fab.chans.foldl (fun s e => match e.2 with
    | some C => s.setChan e.1 { C with rsnOpen := C.rsn }
    | none => s) s
  let s := { s with fab := { s.fab with failed := false, timedOut := false } }
  s.fab.entries.foldl (fun s (i, e) =>
    if e.flags / 2 % 2 = 1 then s
    else s.issueRed e.chan { rsn := 0, kind := 0, entry := i, root := e.owner, nseg := (e.glen + 4095) / 4096, base := s.objVal e.lobj }) s

/-- The norm and the step's all-gathers (R365, R366). -/
def State.issueUpdate (s : State) (nchan : Nat) : State :=
  let s := s.issueRed nchan { rsn := 0, kind := 2, entry := s.fab.shards.length, root := 0, nseg := 1 }
  s.fab.entries.foldl (fun s (i, e) =>
    if e.flags % 2 = 1 then s
    else s.issueRed e.gchan { rsn := 0, kind := 1, entry := i, root := e.owner, nseg := (e.gathlen + 4095) / 4096 }) s

/-- The all-gather of a shard entry may send (R365). -/
def State.gatherReady (s : State) (tag : Nat) : State :=
  s.fab.entries.foldl (fun s (i, e) =>
    if e.tag = tag then
      match s.chan e.gchan with
      | some C => C.reds.foldl (fun s R => if R.kind = 1 ∧ R.entry = i then
          (s.modRed e.gchan R.rsn fun R => { R with begun := true }) else s) s
      | none => s
    else s) s

/-- The all-gathers of a step that skipped Pass B end without data (R365). -/
def State.gatherSkip (s : State) : State :=
  s.fab.chans.foldl (fun s e => match e.2 with
    | some C => C.reds.foldl (fun s R => if R.kind = 1 then s.modRed e.1 R.rsn fun R => { R with done := true } else s) s
    | none => s) s

/-- Whether an all-gather of the step is unended at the module. -/
def State.agLeft (s : State) : Bool :=
  s.fab.chans.any fun e => match e.2 with | some C => C.reds.any fun R => R.kind == 1 | none => false

/-- Segments of the step that no reduction will consume, discarded and consumed. -/
def State.discardReds (s : State) (c : Nat) (C : ChanSt) : State :=
  let s := C.early.foldl (fun s (_, _, f) => s.consume c (copyKey f.srank.toNat (f.flags.getLsbD 1)) 1) s
  C.reds.foldl (fun s R =>
    let s := R.pend.foldl (fun s x => x.2.foldl (fun s key => s.consume c key 1) s) s
    R.copies.foldl (fun s x => if x.pref ∧ !x.paid then
      s.consume c (copyKey x.rank x.alt) ((x.segs.filter fun e => e.2.isSome).length) else s) s) s

/-- Every reduction of the attempt discarded, RSNs as at step open, the attempt advanced (R371). -/
def State.abandonReds (s : State) : State :=
  let s := s.fab.chans.foldl (fun s e => match e.2 with
    | some C =>
      let s := s.discardReds e.1 C
      match s.chan e.1 with
      | some C => s.setChan e.1 { C with reds := [], early := [], rsn := C.rsnOpen }
      | none => s
    | none => s) s
  { s with fab := { s.fab with failed := false, timedOut := false }, upd := { s.upd with attempt := s.upd.attempt + 1 } }

/-- ABORT frames sent to every other member of a channel's group (R370), on the lowest live plane toward each. -/
def State.sendAborts (s : State) (c : Nat) : State :=
  match s.chan c with
  | none => s
  | some C => match s.group C.group with
    | none => s
    | some G =>
      (List.range G.members.length).foldl (fun s r =>
        (if G.mode r = 0 then [false] else [false, true]).foldl (fun s a =>
          if r = G.rank ∧ a = G.alt then s
          else
            let mac := G.mac r a
            match (List.range 24).find? fun n => s.pathLive n (mac + n) with
            | some p =>
              let (s, f) := s.chanFrame c C G (copyKey r a)
              s.sendOn p (mac + p) 9 { f with cgrant := 0 }
            | none => s) s) s

end Sys2Proof.Machine
end

