-- ==== Sys2Proof/Machine/UpdMath.lean ====
section
/-!
DEFINITION. Sys2Proof/Machine/UpdMath.lean: the arithmetic of the update engines (R329 to R342): FP32 operations on codes, the
schedule, the four rules, sums of squares, Newton–Schulz, and copies with their scale records.
-/
namespace Sys2Proof.Machine

/-! ### FP32 operations on codes (R329) -/

/-- The value of an FP32 code. -/
def fv (a : Nat) : XR := Fmt.fp32.value a

/-- 1.0. -/
def f1 : Nat := 0x3F800000

/-- Sign reversed. -/
def fNeg (a : Nat) : Nat := a ^^^ 0x80000000

/-- A difference. -/
def fSub (a b : Nat) : Nat := f32Add a (fNeg b)

/-- A product. -/
def fMul (a b : Nat) : Nat := f32Round ((fv a).mul (fv b))

/-- a × b + c, rounded once. -/
def fFma (a b c : Nat) : Nat := f32Round (((fv a).mul (fv b)).add (fv c))

/-- A quotient. -/
def fDiv (a b : Nat) : Nat :=
  f32Round (match fv a, fv b with
    | .nan s, _ => .nan s
    | _, .nan s => .nan s
    | .inf _, .inf _ => .nan true
    | .inf x, .num y _ _ => .inf (x != y)
    | .num x _ _, .inf y => .num (x != y) 0 0
    | .num x m e, .num y n f =>
      if n = 0 then (if m = 0 then .nan true else .inf (x != y))
      else let (q, k) := stickyDiv m n; .num (x != y) q (k + e - f))

/-- A square root. -/
def fSqrt (a : Nat) : Nat := f32Round (trnExact 2 (fv a)).1

/-- An integer as an FP32 code. -/
def fOfNat (n : Nat) : Nat := f32Round (.num false n 0)

/-- Terms of the cosine series of `x / 2^200`, added with alternating signs; `t` is the term in hand. -/
def cosSeries (x : Nat) : Nat → Nat → Nat → Int
  | 0, _, _ => 0
  | k + 1, n, t => (t : Int) - cosSeries x k (n + 1) (t * (x * x) / 2 ^ 400 / ((2 * n + 1) * (2 * n + 2)))

/-- The cosine of a value from 0 to 4, to 200 bits with a sticky last bit, rounded to FP32. -/
def fCos (a : Nat) : Nat :=
  match fv a with
  | .num _ m e =>
    if m = 0 then f1
    else
      let x := if 0 ≤ e + 200 then m * 2 ^ (e + 200).toNat else m / 2 ^ (-(e + 200)).toNat
      let v := cosSeries x 64 0 (2 ^ 200)
      f32Round (.num (decide (v < 0)) (2 * v.natAbs + 1) (-201))
  | _ => f32Round (.nan true)

/-- 2^a, within one unit in the last place. -/
def fExp2 (a : Nat) : Nat := (trnWrite 3 a .fp32 (trnExact 3 (fv a)).1).1

/-! ### The schedule (R342) -/

/-- π in FP32. -/
def fPi : Nat := 0x40490FDB

/-- Cycles of restarts taken off (R342): steps left, amplitude and period. The period's product with PMULT is exact and
rounded up. -/
def restarts (pm amp0 : Nat) : Nat → Nat → Nat → Nat → Nat × Nat × Nat
  | 0, u, amp, P => (u, amp, P)
  | k + 1, u, amp, P =>
    if u < P then (u, amp, P)
    else
      let q := match fv pm with
        | .num _ m e => if 0 ≤ e then P * m * 2 ^ e.toNat else (P * m + 2 ^ (-e).toNat - 1) / 2 ^ (-e).toNat
        | _ => P
      restarts pm amp0 k (u - P) (fMul amp amp0) q

/-- The learning rate of an epoch. -/
def Sched.rate (b : Sched) (e : Nat) : Nat :=
  let s := if b.e0 < e then e - b.e0 else 0
  if s < b.wsteps then
    let x := fDiv (fOfNat (s + 1)) (fOfNat b.wsteps)
    let fw := match b.warm with
      | 0 => f1
      | 1 => x
      | _ => fMul 0x3F000000 (fSub f1 (fCos (fMul fPi x)))
    fMul b.lrmax fw
  else
    let u := s - b.wsteps
    let (u, amp, P) := if b.period = 0 then (min u b.total, f1, b.total)
      else restarts b.pmult b.amp (u / b.period + 1) u f1 b.period
    let r := fDiv (fOfNat u) (fOfNat P)
    let f := match b.decay with
      | 0 => f1
      | 1 => fFma (fSub f1 b.fmin) (fSub f1 r) b.fmin
      | 2 => fFma (fMul (fSub f1 b.fmin) 0x3F000000) (f32Add f1 (fCos (fMul fPi r))) b.fmin
      | 3 => fSqrt (fDiv (fOfNat b.h) (fOfNat (b.h + u)))
      | _ => fExp2 (fNeg (fDiv (fOfNat u) (fOfNat b.h)))
    fMul (fMul b.lrmax amp) f

/-! ### Sums (R330, R331) -/

/-- FP64. -/
def f64Lay : FLay := ⟨11, 52, 0x7FEFFFFFFFFFFFFF, some 0x7FF0000000000000, some 0x7FF8000000000000⟩

/-- An exact value rounded to FP64. -/
def f64Round : XR → Nat
  | .nan _ => 0x7FF8000000000000
  | .inf n => f64Lay.signed n 0x7FF0000000000000
  | .num n m e => f64Lay.signed n (min (f64Lay.narrow .near m e).code 0x7FF0000000000000)

/-- The value of an FP64 code. -/
def dv (a : Nat) : XR := f64Lay.decode false a

/-- An FP64 sum. -/
def f64Add (a b : Nat) : Nat := f64Round ((dv a).add (dv b))

/-- The sum of squares by the tree of R149; none is an excluded element. -/
def treeSumsq (vs : List (Option Nat)) : Nat := (reduceList (redStep 1 false) (redLeaf 1) (redId 1) vs).1

/-- SUMSQ of a layer: groups of 1,024 element positions by the tree, added in FP64 in element order. -/
def sumsq (vs : List (Option Nat)) : Nat :=
  ((List.range ((vs.length + 1023) / 1024)).map fun i => treeSumsq ((vs.drop (1024 * i)).take 1024)).foldl
    (fun a g => f64Add a (f64Round (fv g))) 0

/-- Whether an FP32 code is an infinity or a NaN. -/
def fBad (a : Nat) : Bool := decide (0x7F800000 ≤ a % 2 ^ 31)

/-- The clip factor (R331). -/
def clipOf (P : Plan) (S : Nat) : Nat :=
  if fBad S then f1
  else
    let norm := fSqrt S
    if P.flags % 2 = 0 then f1
    else match (fv norm).cmp (fv P.maxnorm) with
      | some .lt | some .eq => f1
      | _ => fDiv P.maxnorm norm

/-! ### The rules (R332 to R336) -/

/-- What is fixed for a layer's Pass B: η_l, κ_l, P1 and P2 after the step, clip and GSCALE. -/
structure RuleEnv where
  eta : Nat
  kappa : Nat
  p1 : Nat
  p2 : Nat
  clip : Nat
  gscale : Nat

/-- NESTEROV. -/
def Layer.nesterov (l : Layer) : Bool := l.flags / 4 % 2 == 1

/-- Whether a layer's matrix has one row or one column. -/
def Layer.flat (l : Layer) : Bool := l.rows == 1 || l.cols == 1

/-- The rule in force: ORTHO on a one-dimensional layer is MOMENTUM (R336). -/
def Layer.ruleNow (l : Layer) : Nat := if l.rule = 4 ∧ l.flat then 1 else l.rule

/-- The sign of R335. -/
def fSign (a : Nat) : Nat :=
  match fv a with
  | .nan _ => f32Round (.nan false)
  | .inf n => if n then fNeg f1 else f1
  | .num n m _ => if m = 0 then 0 else if n then fNeg f1 else f1

/-- The element-wise rules: w, m and v after a step with gradient `g` (R333 to R335). -/
def Layer.apply (l : Layer) (x : RuleEnv) (w m v g : Nat) : Nat × Nat × Nat :=
  match l.ruleNow with
  | 1 =>
    let aux := if l.rule = 4 then 0 else l.aux
    let g := fFma l.wd w g
    let m := fFma l.b1 m (fMul (fSub f1 aux) g)
    let d := if l.nesterov then fFma l.b1 m g else m
    (fFma (fNeg x.eta) d w, m, v)
  | 2 =>
    let m := fFma l.b1 m (fMul (fSub f1 l.b1) g)
    let v := fFma l.b2 v (fMul (fSub f1 l.b2) (fMul g g))
    let (mh, vh) := if l.flags / 8 % 2 = 1 then (fDiv m (fSub f1 x.p1), fDiv v (fSub f1 x.p2)) else (m, v)
    (fFma x.kappa w (fNeg (fMul x.eta (fDiv mh (f32Add (fSqrt vh) l.eps)))), m, v)
  | _ =>
    let c := fFma l.b1 m (fMul (fSub f1 l.b1) g)
    (fFma x.kappa w (fNeg (fMul x.eta (fSign c))), fFma l.b2 m (fMul (fSub f1 l.b2) g), v)

/-! ### ORTHO's matrix work (R336, R337) -/

/-- A BF16 code from an FP32 code. -/
def toBf (a : Nat) : Nat := (Fmt.bf16.convert .near (fv a)).code

/-- A BF16 code as an FP32 code. -/
def ofBf (a : Nat) : Nat := f32Round (Fmt.bf16.value a)

/-- Rows become columns. -/
def transpose (m : List (List Nat)) : List (List Nat) :=
  (List.range (m.headD []).length).map fun j => m.map fun r => r.getD j 0

/-- One element of a product on the arrays: 32 products a pass, accumulated in FP32 in ascending K order, written BF16. -/
def arrDot (a b : List Nat) : Nat :=
  let ps := (a.zip b).map fun (x, y) => (Fmt.bf16.value x).mul (Fmt.bf16.value y)
  toBf (((List.range ((ps.length + 31) / 32)).map fun i => (colSum 1 32 false ((ps.drop (32 * i)).take 32) none).1).foldl f32Add 0)

/-- A product of BF16 matrices on the arrays. -/
def arrMul (a b : List (List Nat)) : List (List Nat) :=
  let bt := transpose b
  a.map fun r => bt.map fun c => arrDot r c

/-- Two matrices combined element by element. -/
def matZip (f : Nat → Nat → Nat) (a b : List (List Nat)) : List (List Nat) := (a.zip b).map fun (r, q) => (r.zip q).map fun (x, y) => f x y

/-- One Newton–Schulz iteration on a BF16 matrix. -/
def nsStep (na nb nc : Nat) (X : List (List Nat)) : List (List Nat) :=
  let A := arrMul X (transpose X)
  let Q := arrMul A A
  let B := matZip (fun a q => toBf (fFma nb (ofBf a) (fMul nc (ofBf q)))) A Q
  matZip (fun x y => toBf (fFma na (ofBf x) (ofBf y))) X (arrMul B X)

/-- `n` iterations. -/
def nsIter (na nb nc : Nat) : Nat → List (List Nat) → List (List Nat)
  | 0, X => X
  | n + 1, X => nsIter na nb nc n (nsStep na nb nc X)

/-- A list cut into rows. -/
def rowsOf (rows cols : Nat) (xs : List Nat) : List (List Nat) := (List.range rows).map fun r => (xs.drop (r * cols)).take cols

/-- The orthogonalised momentum, row-major BF16 codes, from D's FP32 codes. -/
def ortho (P : Plan) (l : Layer) (D : List Nat) : List Nat :=
  let f := f32Add (fSqrt (treeSumsq (D.map some))) l.eps
  let X := rowsOf l.rows l.cols (D.map fun d => toBf (fDiv d f))
  let tr := decide (l.cols < l.rows)
  let X := if tr then transpose X else X
  let X := nsIter P.nsa P.nsb P.nsc l.nsiter X
  (if tr then transpose X else X).flatten

/-- The factor η_l × s of ORTHO's second sweep. -/
def Layer.orthoRate (l : Layer) (eta : Nat) : Nat :=
  let r := if l.rows ≤ l.cols then f1 else fDiv (fOfNat l.rows) (fOfNat l.cols)
  fMul eta (fMul l.aux (fSqrt r))

/-! ### Copies (R339) -/

/-- The format of a layer's compute copy. -/
def Layer.copyFmt (l : Layer) : Fmt := (Fmt.ofCode (BitVec.ofNat 4 l.cfmt)).getD .fp32

/-- Whether the copy carries block scales: MX set and a format of at most 8 bits. -/
def Layer.scaled (l : Layer) : Bool := l.cfmt / 128 % 2 == 1 && decide (l.copyFmt.bits ≤ 8)

/-- Scale bytes of a matrix by block down a column: row b of the result has one byte per column. -/
def blockScales (f : Fmt) (m : List (List Nat)) : List (List Nat) :=
  let n := (m.headD []).length
  (List.range ((m.length + 31) / 32)).map fun b =>
    let rows := (m.drop (32 * b)).take 32
    (List.range n).map fun c => mxScale f (rows.map fun r => fv (r.getD c 0))

/-- A matrix of FP32 codes converted, row-major, with the LFSR after it: one draw per element when rounding is stochastic. -/
def copyCodes (f : Fmt) (sr : Bool) (sc : Option (List (List Nat))) (m : List (List Nat)) (seed : BitVec 32) :
    List (List Nat) × BitVec 32 :=
  (m.zip (List.range m.length)).foldl (fun (out, s) (row, r) =>
    let (es, s) := (row.zip (List.range row.length)).foldl (fun (es, s) (x, c) =>
      let k : Int := match sc with
        | some t => (((t.getD (r / 32) []).getD c 127 : Nat) : Int) - 127
        | none => 0
      let md := if sr && f != .fp32 then Rnd.stoch (lfsrRnd s) else .near
      let s := if sr then lfsrNext s else s
      let v := if f = .fp32 then x else (f.convert md ((fv x).scale (-k))).code
      (es ++ [v], s)) ([], s)
    (out ++ [es], s)) ([], seed)

/-- The scale records of a matrix, one of 128 bytes per stationary tile, in row-major order of the tile grid. -/
def scaleRecords (f : Fmt) (tad : Bool) (K N : Nat) (sc : List (List Nat)) : List Byte :=
  let (D, W) := statShape (clsBits f) tad
  let B := (D + 31) / 32
  (List.range ((K + D - 1) / D)).flatMap fun i => (List.range ((N + W - 1) / W)).flatMap fun j =>
    (List.range 128).map fun x =>
      let n := x / B
      let blk := (i * D + x % B * 32) / 32
      if n < W ∧ j * W + n < N then
        match sc[blk]? with
        | some row => BitVec.ofNat 8 (row.getD (j * W + n) 0x7F)
        | none => 0x7F
      else 0x7F

end Sys2Proof.Machine
end

