-- ==== Sys2Proof/Machine/Update.lean ====
section
/-!
DEFINITION. Sys2Proof/Machine/Update.lean: the update engines: memory as they reach it, Pass A, the norm's outcome, arrays on
loan, Pass B with its copies and state records (R317 to R345).
-/
namespace Sys2Proof.Machine

/-! ### Engine memory (R328, R345) -/

/-- How a page stands for an engine: reached, to be waited for (translation, or page request when the flag is set), or an
error of UPD_ERR.CODE. -/
inductive UHit
  | ok
  | wait (pri : Bool)
  | err (code : Nat)
  deriving DecidableEq, Repr

/-- A page of an engine of die `d`. -/
def State.updPage (s : State) (d : DieId) (va : Nat) (write : Bool) : UHit :=
  match (s.xlateDie d va).1 with
  | .page e =>
    let pa := e.pa + (va - e.va)
    let lack := if write then !e.w else !e.r
    if lack then
      if va < 2 ^ 47 then .err 2
      else if s.upd.priFail.contains (d.toNat * 2 ^ 48 + va / 4096 * 4096) then .err 6 else .wait true
    else match s.place pa with
      | .nowhere | .regs => .err 1
      | .window _ _ => if write then .err 2 else .ok
      | _ => if write && s.mark d pa == .nomark then .err 2 else .ok
  | .fault c _ _ => .err (if c = cPoison then 3 else if c = cNotPresent then 1 else 2)
  | .ats => .wait false
  | .pri => .wait true

/-- A range an engine uses: address, bytes, whether it writes, and the elements it holds (none: no element's). -/
structure Rng where
  va : Nat
  n : Nat
  write : Bool
  elems : Nat := 0

/-- Pages of ranges that are not present are mapped on demand (R237). -/
def State.updMap (s : State) (d : DieId) (rs : List Rng) : State :=
  rs.foldl (fun s r => (pageCuts r.va r.n).foldl (fun s (lo, _) =>
    match (s.xlateDie d lo).1 with
    | .fault 1 _ _ => (s.demandMap lo).getD s
    | _ => s) s) s

/-- Pages of ranges the engine waits for, and whether by page request. -/
def State.updWaits (s : State) (d : DieId) (rs : List Rng) : List (Nat × Bool) :=
  rs.flatMap fun r => (pageCuts r.va r.n).filterMap fun (lo, _) =>
    match s.updPage d lo r.write with
    | .wait p => some (lo / 4096 * 4096, p)
    | _ => none

/-- Translations and page requests asked for. -/
def State.updAsk (s : State) (d : DieId) (ws : List (Nat × Bool)) : State :=
  s.modDie d fun D => ws.foldl (fun D (p, pri) =>
    if pri then (if D.priWait.contains p then D else { D with priWait := D.priWait ++ [p] })
    else (if D.atsWait.contains p then D else { D with atsWait := D.atsWait ++ [p] })) D

/-- Whether one of an engine's writes waits: it goes to STREAM-RO memory that its home die sees in an open step (R208). -/
def State.updHeld (s : State) (d : DieId) (rs : List Rng) : Bool :=
  rs.any fun r => r.write && (s.engPieces d r.va r.n).any fun (pa, m) => (lineCuts pa m).any fun (o, _) => s.isLate (pa + o)

/-- The traffic of an engine over its ranges, each read, and written where it is (R25, R317). -/
def State.updTraffic (s : State) (r : RegionId) (rs : List Rng) : State :=
  rs.foldl (fun s x =>
    let s := s.engTraffic (dieOfRegion r) (updEp r) x.va x.n false
    if x.write then s.engTraffic (dieOfRegion r) (updEp r) x.va x.n true else s) s

/-- The ranges cut down to their first `k` elements. -/
def Rng.upTo (k : Nat) (r : Rng) : Rng := { r with n := if r.elems = 0 then r.n else (r.n * k + r.elems - 1) / r.elems, elems := k }

/-- Where element `k` of a range lies: its first byte and how many. -/
def Rng.piece (r : Rng) (k : Nat) : Nat × Nat :=
  if r.n < r.elems then (r.va + k / 8, 1) else (r.va + k * (r.n / r.elems), r.n / r.elems)

/-- Where the poison that element `k` of a layer meets lies: the first of its operands' codewords that are poisoned. -/
def State.poisonOf (s : State) (d : DieId) (rs : List Rng) (k : Nat) : Nat :=
  (rs.findSome? fun r => match s.poisonAt d (r.piece k).1 (r.piece k).2 with
    | 0 => none
    | a => some a).getD 0

/-- The first element an engine cannot reach in its ranges, with the error; ranges without elements count at element 0. -/
def State.updBad (s : State) (d : DieId) (rs : List Rng) : Option (Nat × Nat) :=
  (rs.flatMap fun r => (pageCuts r.va r.n).filterMap fun (lo, _) =>
    match s.updPage d lo r.write with
    | .err c => some (if r.n = 0 then 0 else (lo - r.va) * r.elems / r.n, c)
    | _ => none).foldl (fun b x => match b with
      | some y => if x.1 < y.1 then some x else some y
      | none => some x) none

/-- Values of `k` bytes each with their poison. -/
def elemsOf (k : Nat) (bs : List (Byte × Bool)) : List (Nat × Bool) :=
  (List.range (bs.length / k)).map fun i =>
    let p := (bs.drop (i * k)).take k
    (leNat (p.map (·.1)), p.any (·.2))

/-- `n` values of `k` bytes at an address. -/
def State.updVals (s : State) (d : DieId) (va k n : Nat) : List (Nat × Bool) := elemsOf k ((s.engRead d va (k * n)).getD [])

/-- Values of `k` bytes each written, with their poison. -/
def State.updPut (s : State) (d : DieId) (va k : Nat) (vs : List (Nat × Bool)) : State :=
  s.engWrite d va (vs.flatMap fun (v, p) => (toLe k v).map fun b => (b, p))

/-! ### Layers and engines -/

/-- Elements of a layer. -/
def Layer.size (l : Layer) : Nat := l.rows * l.cols

/-- FROZEN. -/
def Layer.frozen (l : Layer) : Bool := l.flags % 2 == 1

/-- MASK_EN. -/
def Layer.masked (l : Layer) : Bool := l.flags / 2 % 2 == 1

/-- Bytes of a moment. -/
def Layer.mBytes (l : Layer) : Nat := if l.mfmt = 0 then 4 else 2

/-- The layers of a region's engine, in table order. -/
def State.layersOf (s : State) (r : RegionId) : List (Nat × Layer) :=
  match s.upd.plan with
  | none => []
  | some P => ((List.range P.layers.length).zip P.layers).filter fun (_, l) => l.engine == r.toNat

/-- A layer's state within the step. -/
def State.lay (s : State) (i : Nat) : LayerSt := s.upd.lays.get (fun _ => {}) i

/-- A layer's state changed. -/
def State.modLay (s : State) (i : Nat) (f : LayerSt → LayerSt) : State :=
  { s with upd := { s.upd with lays := s.upd.lays.upd (fun _ => {}) i f } }

/-- UPD_STATUS of a region's engine set (R344). -/
def State.engState (s : State) (r : RegionId) (st layer : Nat) : State :=
  (s.setFld (UPD_STATUS r.toNat) UPD_STATUS.STATE st).setFld (UPD_STATUS r.toNat) UPD_STATUS.LAYER layer

/-- An error recorded for a region's engine. -/
def State.engErr (s : State) (r : RegionId) (code layer : Nat) : State :=
  let a := UPD_ERR r.toNat
  s.wr a (UPD_ERR.LAYER.put (UPD_ERR.CODE.put (UPD_ERR.VALID.put (s.rd a) 1) code) layer)

/-- The frozen elements of a layer, one bit each (R340). -/
def State.maskOf (s : State) (d : DieId) (l : Layer) : List (Bool × Bool) :=
  if l.masked then
    let ks := s.updVals d l.kA 1 ((l.size + 7) / 8)
    (List.range l.size).map fun i => match ks[i / 8]? with
      | some (b, p) => (b / 2 ^ (i % 8) % 2 == 1, p)
      | none => (false, false)
  else List.replicate l.size (false, false)

/-! ### Pass A (R330) -/

/-- The ranges of Pass A. -/
def Layer.rangesA (l : Layer) : List Rng :=
  if l.frozen then []
  else
    let n := l.size
    [⟨l.gA, 4 * n, false, n⟩, ⟨l.mA, l.mBytes * n, false, n⟩] ++
    (if l.rule = 2 then [⟨l.vA, l.mBytes * n, false, n⟩] else []) ++
    (if l.masked then [⟨l.kA, (n + 7) / 8, false, n⟩] else [])

/-- A moment's FP32 code. -/
def Layer.widen (l : Layer) (x : Nat) : Nat := if l.mfmt = 0 then x else ofBf x

/-- A moment as it is stored. -/
def Layer.narrow (l : Layer) (x : Nat) : Nat := if l.mfmt = 0 then x else toBf x

/-- Pass A of a layer that can be reached: SUMSQ and the non-finite elements. -/
def State.passA (s : State) (r : RegionId) (i : Nat) (P : Plan) (l : Layer) : State :=
  if l.frozen then s.modLay i fun x => { x with sumsq := 0, nonfin := 0, aDone := true }
  else
    let d := dieOfRegion r
    let n := l.size
    let mask := s.maskOf d l
    let gs := s.updVals d l.gA 4 n
    let ms := s.updVals d l.mA l.mBytes n
    let vs := if l.rule = 2 then s.updVals d l.vA l.mBytes n else []
    let es := (List.range n).map fun k =>
      if (mask.getD k (false, false)).1 then none
      else
        let (g, gp) := gs.getD k (0, false)
        let (m, mp) := ms.getD k (0, false)
        let (v, vp) := vs.getD k (0, false)
        let p := gp || mp || vp || (mask.getD k (false, false)).2
        -- poison makes the element non-finite (R345)
        let x := if p then 0x7FC00000 else fMul P.gscale g
        let bad := (if fBad x then 1 else 0) + (if fBad (l.widen m) || mp then 1 else 0) + (if fBad (l.widen v) || vp then 1 else 0)
        some (x, bad, p)
    let nf := (es.map fun e => match e with | some (_, b, _) => b | none => 0).sum
    let live := (es.filter fun e => e.isSome).length
    let s := s.updTraffic r l.rangesA
    let s := match es.findIdx? fun e => match e with | some (_, _, p) => p | none => false with
      | some k => s.poisonUse (s.poisonOf d l.rangesA k) 6 0
      | none => s
    let s := (s.bump (UPD_ELEMS_A r.toNat) live).bump (UPD_NONFIN r.toNat) nf
    s.modLay i fun x => { x with sumsq := sumsq (es.map fun e => e.map (·.1)), nonfin := nf, aDone := true }

/-- The next layer of an engine for Pass A. -/
def State.nextA (s : State) (r : RegionId) : Option (Nat × Layer) := (s.layersOf r).find? fun (i, _) => !(s.lay i).aDone

/-- Whether every layer of the plan is through Pass A. -/
def State.allA (s : State) : Bool :=
  match s.upd.plan with
  | none => true
  | some P => (List.range P.layers.length).all fun i => (s.lay i).aDone

/-! ### Arrays on loan (R337) -/

/-- The cores of a region whose arrays an engine may borrow: enabled and unfenced. -/
def State.lendCores (s : State) (r : RegionId) : List CoreId :=
  ((List.range 64).map fun i => (BitVec.ofNat 10 (r.toNat * 64 + i) : CoreId)).filter fun c => !s.fenced c

/-- Whether work that core `C`'s array `a` has begun still runs; the array is lent once it has ended. -/
def CoreSt.arrBusy (C : CoreSt) (a : Nat) : Bool :=
  (C.array a).load.isSome || (C.array a).switching.isSome || C.fl.any fun f => unitOf f.w == .arr a && f.ph != .queued

/-- Whether a core's array is recorded as lent. -/
def State.lentNow (s : State) (c : CoreId) (a : Nat) : Bool := s.upd.lent.any fun x => x.core == c && x.arr == a

/-- An array handed over: its form and LFSR state recorded, normal form, stationary sets invalid. -/
def State.lendOne (s : State) (c : CoreId) (a : Nat) : State :=
  let A := (s.core c).array a
  if !A.lent || s.lentNow c a || (s.core c).arrBusy a then s
  else
    let x : LentArr := ⟨c, a, A.form, BitVec.ofNat 32 (s.fld (COR_MTX_SEED c.toNat a) COR_MTX_SEED.SEED)⟩
    let s := s.modCore c fun C => C.setArray a { A with form := false, act := none, shd := none }
    { s with upd := { s.upd with lent := s.upd.lent ++ [x] } }

/-- The arrays of a region that have ended their work are handed over. -/
def State.lendTake (s : State) (r : RegionId) : State :=
  (s.lendCores r).foldl (fun s c => ([0, 1, 2] : List Nat).foldl (fun s a => s.lendOne c a) s) s

/-- Whether every array that the engine of a region borrows is handed over. -/
def State.lentAll (s : State) (r : RegionId) : Bool := (s.lendCores r).all fun c => ([0, 1, 2] : List Nat).all fun a => s.lentNow c a

/-- The engine borrows every array of its region: none takes an instruction from its queue any more (R68), and each is handed over
as its work ends. -/
def State.lendArrays (s : State) (r : RegionId) : State :=
  let s := (s.lendCores r).foldl (fun s c =>
    s.modCore c fun C => ([0, 1, 2] : List Nat).foldl (fun C a => C.setArray a { C.array a with lent := true }) C) s
  (s.setFld (UPD_STATUS r.toNat) UPD_STATUS.LENT 1).lendTake r

/-- The arrays of a region returned: form and LFSR state restored, stationary sets invalid; what waited for them goes on. -/
def State.returnArrays (s : State) (r : RegionId) : State :=
  let mine (x : LentArr) : Bool := regionOf x.core == r
  let xs := s.upd.lent.filter mine
  let s := { s with upd := { s.upd with lent := s.upd.lent.filter fun x => !mine x } }
  let s := s.setFld (UPD_STATUS r.toNat) UPD_STATUS.LENT 0
  let s := (xs.filter fun x => ((s.core x.core).array x.arr).lent).foldl (fun s x =>
    (s.modCore x.core fun C => C.setArray x.arr { (C.array x.arr) with form := x.form, act := none, shd := none }).setFld
      (COR_MTX_SEED x.core.toNat x.arr) COR_MTX_SEED.SEED x.seed.toNat) s
  let back := ((List.range 64).map fun i => (BitVec.ofNat 10 (r.toNat * 64 + i) : CoreId)).filter fun c =>
    ([0, 1, 2] : List Nat).any fun a => ((s.core c).array a).lent
  back.foldl (fun s c =>
    (s.modCore c fun C => ([0, 1, 2] : List Nat).foldl (fun C a => C.setArray a { C.array a with lent := false }) C).pump c) s

/-- Whether a region's work area serves a layer: large enough, and SPILL bonded SRAM on the region's die (R338). -/
def State.workOk (s : State) (r : RegionId) (P : Plan) (l : Layer) : Bool :=
  let k := min l.rows l.cols
  let need := 4 * l.size + 6 * k * k
  let d := dieOfRegion r
  decide (need ≤ P.wsize) && (pageCuts (P.work + r.toNat * P.wsize) need).all fun (lo, _) =>
    match (s.xlateDie d lo).1 with
    | .page e =>
      let pa := e.pa + (lo - e.va)
      e.r && e.w && s.mark d pa == .spill && (match s.place pa with | .bonded b => b / 256 == d.toNat | _ => false)
    | _ => false

/-- What ORTHO leaves in the work area: its layout there is not given, so every byte it may use holds a free value. -/
def State.scribble (s : State) (d : DieId) (va n : Nat) : State :=
  let bs := (List.range n).map fun i => (BitVec.ofNat 8 (Config.free (s.free + i)), false)
  { s with free := s.free + n }.engWrite d va bs

/-! ### Pass B (R332 to R340) -/

/-- Whether a layer is two-dimensional ORTHO. -/
def Layer.isOrtho (l : Layer) : Bool := l.rule == 4 && !l.flat

/-- Bytes of a copy of K × N elements. -/
def Layer.copyBytes (l : Layer) (K N : Nat) : Nat := K * ((N * l.copyFmt.bits + 7) / 8)

/-- Bytes of the scale records of a K × N copy. -/
def Layer.recordBytes (l : Layer) (K N : Nat) : Nat :=
  if l.scaled then
    let (D, W) := statShape (clsBits l.copyFmt) (l.tform == 1)
    128 * ((K + D - 1) / D) * ((N + W - 1) / W)
  else 0

/-- TCOPY. -/
def Layer.tcopy (l : Layer) : Bool := l.flags / 16 % 2 == 1

/-- The ranges of the elements of Pass B: master weights, gradient, moments, freeze mask. -/
def Layer.rangesB (l : Layer) : List Rng :=
  let n := l.size
  [⟨l.wA, 4 * n, true, n⟩, ⟨l.gA, 4 * n, false, n⟩, ⟨l.mA, l.mBytes * n, true, n⟩] ++
  (if l.rule = 2 then [⟨l.vA, l.mBytes * n, true, n⟩] else []) ++
  (if l.masked then [⟨l.kA, (n + 7) / 8, false, n⟩] else [])

/-- The ranges of a layer's copies and their scale records. -/
def Layer.rangesC (l : Layer) : List Rng :=
  [⟨l.cA, l.copyBytes l.rows l.cols, true, 0⟩, ⟨l.sA, l.recordBytes l.rows l.cols, true, 0⟩] ++
  (if l.tcopy then [⟨l.tA, l.copyBytes l.cols l.rows, true, 0⟩, ⟨l.tsA, l.recordBytes l.cols l.rows, true, 0⟩] else [])

/-- A layer's state record. -/
def Plan.record (P : Plan) (i : Nat) : Rng := ⟨P.stab + 32 * i, 32, true, 0⟩

/-- A layer's state record, before the step's update. -/
structure URec where
  t : Nat
  p1 : Nat
  p2 : Nat

/-- The state record of a layer advanced: T + 1, P1 × B1, P2 × B2. -/
def State.recOf (s : State) (d : DieId) (P : Plan) (i : Nat) (l : Layer) : URec :=
  let bs := ((s.engRead d (P.stab + 32 * i) 32).getD []).map (·.1)
  let f (o n : Nat) := leNat ((bs.drop o).take n)
  ⟨(f 0 8 + 1) % 2 ^ 64, fMul (f 8 4) l.b1, fMul (f 12 4) l.b2⟩

/-- The state record of a layer written. -/
def State.putRec (s : State) (d : DieId) (P : Plan) (i : Nat) (x : URec) : State :=
  let L := s.lay i
  let bs := toLe 8 x.t ++ toLe 4 x.p1 ++ toLe 4 x.p2 ++ toLe 8 L.sumsq ++ toLe 4 L.nonfin ++ toLe 4 s.epoch32
  s.engWrite d (P.stab + 32 * i) (bs.map fun b => (b, false))

/-- η_l and κ_l of a layer. -/
def State.ruleEnv (s : State) (P : Plan) (l : Layer) (x : URec) : RuleEnv :=
  let eta := fMul (s.fld UPD_LR UPD_LR.LR) l.lrmult
  ⟨eta, fFma (fNeg eta) l.wd f1, x.p1, x.p2, s.fld UPD_CLIP UPD_CLIP.CLIP, P.gscale⟩

/-- Bytes of Pass B written up to the first page that cannot be reached: how many, and the error met there. -/
def State.putUpTo (s : State) (r : RegionId) (va : Nat) (bs : List (Byte × Bool)) : State × Nat × Option Nat :=
  let d := dieOfRegion r
  let (n, e) := match s.updBad d [⟨va, bs.length, true, bs.length⟩] with
    | some (k, c) => (k, some c)
    | none => (bs.length, none)
  let s := (s.engWrite d va (bs.take n)).engTraffic d (updEp r) va n true
  (if n = 0 then s else { s with upd := { s.upd with wrote := true } }, n, e)

/-- Elements of `K` rows of `N` that lie wholly in the first `n` bytes of their copy. -/
def Layer.elemsIn (l : Layer) (N n : Nat) : Nat :=
  let rb := (N * l.copyFmt.bits + 7) / 8
  if rb = 0 then 0 else n / rb * N + min N (n % rb * 8 / l.copyFmt.bits)

/-- The copy of a matrix and its records written, as far as they can be reached: the seed after the elements written, and the error. -/
def State.putCopy (s : State) (r : RegionId) (l : Layer) (ca sa : Nat) (m : List (List (Nat × Bool))) (seed : BitVec 32) :
    State × BitVec 32 × Option Nat :=
  let f := l.copyFmt
  let sr := l.flags / 32 % 2 == 1
  let ws := m.map fun r => r.map (·.1)
  let sc := if l.scaled then some (blockScales f ws) else none
  let (cs, seed') := copyCodes f sr sc ws seed
  let bytes := (cs.zip m).flatMap fun (row, src) =>
    let bs := packRow f row
    (bs.zip (List.range bs.length)).map fun (b, i) =>
      (b, (List.range src.length).any fun c => decide (c * f.bits / 8 ≤ i) && decide (i ≤ ((c + 1) * f.bits - 1) / 8) && (src.getD c (0, false)).2)
  let N := (m.headD []).length
  match s.putUpTo r ca bytes with
  | (s, n, some c) => (s, if sr then lfsrAdvance (l.elemsIn N n) seed else seed, some c)
  | (s, _, none) => match sc with
    | some sc =>
      let (s, _, e) := s.putUpTo r sa ((scaleRecords f (l.tform == 1) m.length N sc).map fun b => (b, false))
      (s, seed', e)
    | none => (s, seed', none)

/-- The copies of a layer (R339), written in order up to the first error. -/
def State.putCopies (s : State) (r : RegionId) (l : Layer) : State × Option Nat :=
  let d := dieOfRegion r
  let ws := s.updVals d l.wA 4 l.size
  let m := (List.range l.rows).map fun k => (ws.drop (k * l.cols)).take l.cols
  let seed := BitVec.ofNat 32 (s.fld (UPD_SEED r.toNat) UPD_SEED.SEED)
  let (s, seed, e) := s.putCopy r l l.cA l.sA m seed
  let (s, seed, e) := if l.tcopy && e.isNone then
      s.putCopy r l l.tA l.tsA ((List.range l.cols).map fun j => m.map fun row => row.getD j (0, false)) seed
    else (s, seed, e)
  (s.setFld (UPD_SEED r.toNat) UPD_SEED.SEED seed.toNat, e)

/-- The elements of Pass B as read: w, g, m, v, frozen, poison. -/
def State.elemsB (s : State) (d : DieId) (l : Layer) (n : Nat) : List (Nat × Nat × Nat × Nat × Bool × Bool) :=
  let mask := s.maskOf d l
  let ws := s.updVals d l.wA 4 n
  let gs := s.updVals d l.gA 4 n
  let ms := s.updVals d l.mA l.mBytes n
  let vs := if l.rule = 2 then s.updVals d l.vA l.mBytes n else []
  (List.range n).map fun k =>
    let (w, wp) := ws.getD k (0, false)
    let (g, gp) := gs.getD k (0, false)
    let (m, mp) := ms.getD k (0, false)
    let (v, vp) := vs.getD k (0, false)
    let (z, zp) := mask.getD k (false, false)
    (w, g, l.widen m, l.widen v, z, wp || gp || mp || vp || zp)

/-- The gradient of R332: GSCALE × G, times clip. -/
def RuleEnv.grad (x : RuleEnv) (g : Nat) : Nat := fMul (fMul x.gscale g) x.clip

/-- New w, m and v of every element. -/
def Layer.update (P : Plan) (l : Layer) (x : RuleEnv) (es : List (Nat × Nat × Nat × Nat × Bool × Bool)) : List (Nat × Nat × Nat) :=
  if l.isOrtho then
    let s1 := es.map fun (_, g, m, _, z, _) =>
      if z then (m, 0)
      else
        let g := x.grad g
        let m := fFma l.b1 m g
        (m, if l.nesterov then fFma l.b1 m g else m)
    let X := ortho P l (s1.map (·.2))
    let rate := l.orthoRate x.eta
    ((es.zip s1).zip (List.range es.length)).map fun (((w, _, _, v, _, _), (m, _)), i) =>
      (fFma x.kappa w (fNeg (fMul rate (ofBf (X.getD i 0)))), m, v)
  else es.map fun (w, g, m, v, _, _) => l.apply x w m v (x.grad g)

/-- Elements of Pass B written: frozen ones keep their bytes. -/
def State.putElems (s : State) (d : DieId) (l : Layer) (es : List (Nat × Nat × Nat × Nat × Bool × Bool))
    (out : List (Nat × Nat × Nat)) : State :=
  ((es.zip out).zip (List.range es.length)).foldl (fun s ((e, w, m, v), k) =>
    let (_, _, _, _, z, p) := e
    if z then s
    else
      let s := s.updPut d (l.wA + 4 * k) 4 [(w, p)]
      let s := s.updPut d (l.mA + l.mBytes * k) l.mBytes [(l.narrow m, p)]
      if l.rule = 2 then s.updPut d (l.vA + l.mBytes * k) l.mBytes [(l.narrow v, p)] else s) s

/-- Pass B over the first `n` elements of a layer, all of which can be reached. -/
def State.passBElems (s : State) (r : RegionId) (P : Plan) (l : Layer) (x : RuleEnv) (n : Nat) : State :=
  let d := dieOfRegion r
  let es := s.elemsB d l n
  let z := (es.filter fun e => e.2.2.2.2.1).length
  let bad := es.findIdx? fun e => e.2.2.2.2.2 && !e.2.2.2.2.1
  let s := match bad with
    | some k => (s.poisonUse (s.poisonOf d l.rangesB k) 6 0)
    | none => s
  let s := (s.putElems d l es (l.update P x es)).updTraffic r (l.rangesB.map (Rng.upTo n))
  let s := if z < n then { s with upd := { s.upd with wrote := true } } else s
  (s.bump (UPD_ELEMS_B r.toNat) (n - z)).bump (UPD_MASKED r.toNat) z

/-- Whether a layer's Pass B meets poison. -/
def State.poisonB (s : State) (r : RegionId) (l : Layer) : Bool :=
  (s.elemsB (dieOfRegion r) l l.size).any fun e => e.2.2.2.2.2 && !e.2.2.2.2.1

/-- A layer's state record written, where it can be (R332). -/
def State.writeRec (s : State) (r : RegionId) (i : Nat) (P : Plan) (x : URec) : State × Option Nat :=
  let d := dieOfRegion r
  match s.updBad d [P.record i] with
  | some (_, c) => (s, some c)
  | none =>
    let s := (s.putRec d P i x).updTraffic r [P.record i]
    ({ s with upd := { s.upd with wrote := true } }, none)

/-- The elements of a layer's Pass B, the error of a poisoned read (R345) and the workspace an ORTHO layer leaves behind. -/
def State.passBBody (s : State) (r : RegionId) (i : Nat) (P : Plan) (l : Layer) (x : URec) : State :=
  let d := dieOfRegion r
  let bad := s.poisonB r l
  let s := s.passBElems r P l (s.ruleEnv P l x) l.size
  let s := if bad then s.engErr r 3 i else s
  if l.isOrtho then
    let k := min l.rows l.cols
    s.scribble d (P.work + r.toNat * P.wsize) (4 * l.size + 6 * k * k)
  else s

/-- A layer's Pass B complete (R344). -/
def State.layerDone (s : State) (r : RegionId) (i : Nat) : State :=
  (s.modLay i fun L => { L with bDone := true }).bump (UPD_LAYERS r.toNat)

/-- A part of Pass B done where the part before it met no error (R332: the writes stop at the first error). -/
def unlessErr (p : State × Option Nat) (f : State → State × Option Nat) : State × Option Nat :=
  match p.2 with
  | some c => (p.1, some c)
  | none => f p.1

/-- Pass B of a layer whose elements can all be reached, with its record x: elements, copies, state record, up to the first error. -/
def State.passBWith (s : State) (r : RegionId) (i : Nat) (P : Plan) (l : Layer) (x : URec) : State × Option Nat :=
  unlessErr ((s.passBBody r i P l x).putCopies r l) fun s => unlessErr (s.writeRec r i P x) fun s => (s.layerDone r i, none)

/-- Pass B of a layer whose elements can all be reached, with the record it finds. -/
def State.passB (s : State) (r : RegionId) (i : Nat) (P : Plan) (l : Layer) : State × Option Nat :=
  s.passBWith r i P l (s.recOf (dieOfRegion r) P i l)

/-- A layer skipped whole, or one that stopped in error: Pass B is behind it. -/
def State.endLayer (s : State) (i : Nat) : State := s.modLay i fun L => { L with bDone := true }

/-- A late error (R322, R345): the layer stops, the step will not commit. -/
def State.lateErr (s : State) (r : RegionId) (code i : Nat) : State :=
  let s := ((s.engErr r code i).engState r 6 i).endLayer i
  { s with upd := { s.upd with late := true } }

/-- The next layer of an engine for Pass B. -/
def State.nextB (s : State) (r : RegionId) : Option (Nat × Layer) := (s.layersOf r).find? fun (i, _) => !(s.lay i).bDone

/-- The launch of a rule-0 layer put in the ready queue (R343). -/
def State.rule0Launch (s : State) (r : RegionId) (i : Nat) (P : Plan) (l : Layer) : State :=
  let x : Launch := {
    id := s.host.next, cmd := none, rule0 := some (r.toNat, i), entry := P.ltab + l.aux * 8, argv := []
    perCore := false, cores := s.lendCores r, prio := 7, profile := 255, minpt := 7, maxpt := 0, lines := 0, tpat := [] }
  { s with host := { s.host with next := s.host.next + 1, launches := s.host.launches ++ [x] } }

/-- Whether all layers of the plan are through Pass B. -/
def State.allB (s : State) : Bool :=
  match s.upd.plan with
  | none => true
  | some P => (List.range P.layers.length).all fun i => (s.lay i).bDone

/-- The registers of a rule-0 program on core `n` of `m` (R343): g1 to g7. -/
def State.rule0Regs (s : State) (r : RegionId) (i n m : Nat) : List Word :=
  match s.upd.plan with
  | none => []
  | some P => match P.layers[i]? with
    | none => []
    | some l =>
      let x := s.recOf (dieOfRegion r) P i l
      let e := s.ruleEnv P l x
      [P.ltab + 128 * i, e.clip, e.eta, e.kappa, x.t, n, m].map (BitVec.ofNat 64)

end Sys2Proof.Machine
end

