-- ==== Sys2Proof/Machine/Chameleon.lean ====
section
/-!
DEFINITION. Sys2Proof/Machine/Chameleon.lean: the chameleon selector at a step boundary (R96 to R101) and the step's replay
records (R501 to R505).
-/
namespace Sys2Proof.Machine

/-! ### Igrov records of a step -/

/-- A STEP record: 0 OPEN, 1 CLOSE, 2 COMMIT, 3 ABANDON (R503). -/
def State.rplStep (s : State) (ev : Nat) : State :=
  s.rplWrite 0x01 (toLe 1 ev ++ toLe 1 s.upd.attempt ++ toLe 6 0 ++ toLe 8 (s.rd UPD_EPOCH).toNat ++
    toLe 4 (s.fld UPD_NORM2 UPD_NORM2.S) ++ toLe 4 (s.fld UPD_CLIP UPD_CLIP.CLIP) ++ toLe 4 (s.fld UPD_LR UPD_LR.LR) ++ toLe 4 0)

/-- The SEED records of a step open (R501, R503). -/
def State.rplSeeds (s : State) : State :=
  let s := allCores.foldl (fun s c =>
    let s := ([0, 1, 2] : List Nat).foldl (fun s a => s.rplSeed a 0 c.toNat (BitVec.ofNat 32 (s.fld (COR_MTX_SEED c.toNat a) COR_MTX_SEED.SEED))) s
    s.rplSeed 3 0 c.toNat (BitVec.ofNat 32 (s.fld (COR_CVT_SEED c.toNat) COR_CVT_SEED.SEED))) s
  let s := allDies.foldl (fun s d => (List.range 277).foldl (fun s i =>
    s.rplSeed 4 0 (d.toNat * 512 + i) (BitVec.ofNat 32 (s.fld (ARB_SEED d.toNat i) ARB_SEED.SEED))) s) s
  (List.range 16).foldl (fun s r => s.rplSeed 5 0 r (BitVec.ofNat 32 (s.fld (UPD_SEED r) UPD_SEED.SEED))) s

/-- A list of 2-byte items as records of at most `m` items, the later ones marked CONT (R503). -/
def State.rplItems (s : State) (type m k : Nat) (head : Nat → List Byte) (items : List Byte) : State :=
  let n := items.length / k
  (List.range ((n + m - 1) / m)).foldl (fun s i =>
    let part := (items.drop (i * m * k)).take (m * k)
    s.rplWrite type (head (part.length / k) ++ part) (decide (0 < i))) s

/-- The SYNC_ORDER and FAB_ORDER records of a step, written when it ends (R503). -/
def State.rplOrders (s : State) : State :=
  let s := s.rpl.syncs.foldl (fun s r =>
    s.rplItems 0x07 4000 2 (fun n => toLe 4 r.key ++ toLe 2 n ++ toLe 2 0) (r.srcs.flatMap (toLe 2))) s
  let s := s.rpl.fabs.foldl (fun s r =>
    let c := r.key / 2 ^ 32 % 64
    let g := match s.chan c with | some C => C.group | none => 0
    s.rplItems 0x09 4000 2 (fun n => toLe 1 c ++ toLe 1 g ++ toLe 2 n ++ toLe 4 (r.key % 2 ^ 32)) (r.srcs.flatMap (toLe 2))) s
  { s with rpl := { s.rpl with syncs := [], fabs := [] } }

/-- The records of a replayed log that belong to epoch `e`: those from its STEP OPEN to the next (R502). -/
def stepRecords (e : Nat) : List (List Byte) → Bool → List (List Byte)
  | [], _ => []
  | r :: rest, on =>
    let isOpen := r.head? == some 1 && recNum r 16 1 == 0
    let on := if isOpen then recNum r 24 8 == e else on
    if on then r :: stepRecords e rest on else stepRecords e rest on

/-- A forced order extended. -/
def forceOrder (l : List OrderRec) (key : Nat) (srcs : List Nat) : List OrderRec := srcs.foldl (fun l x => addOrder l key x) l

/-- At a replayed step's open: recorded seeds loaded, recorded orders put in force (R504, R505). -/
def State.replayOpen (s : State) (e : Nat) : State :=
  let rs := stepRecords e s.replayRecords false
  let seeds := rs.filter fun r => r.head? == some 6 && recNum r 17 1 == 0
  let s := seeds.foldl (fun s r =>
    let u := recNum r 18 2
    let a := match recNum r 16 1 with
      | 0 | 1 | 2 => COR_MTX_SEED u (recNum r 16 1)
      | 3 => COR_CVT_SEED u
      | 4 => ARB_SEED (u / 512) (u % 512)
      | _ => UPD_SEED u
    s.wr a (BitVec.ofNat 64 (recNum r 20 4))) s
  let items (r : List Byte) (o n : Nat) : List Nat := (List.range n).map fun i => recNum r (o + 2 * i) 2
  let forced := rs.foldl (fun l r => match recNum r 0 1 with
    | 7 => forceOrder l (recNum r 16 4) (items r 24 (recNum r 20 2))
    | 8 =>
      let id := recNum r 16 1
      let base := s.fld (NOC_RED_ADDR (recNum r 17 1) id) NOC_RED_ADDR.ADDR * 256
      (List.range (recNum r 28 2)).foldl (fun l i =>
        forceOrder l (redKey id (base + (recNum r 24 4 + i) * 256)) (items r 32 (recNum r 30 2))) l
    | 9 => forceOrder l (fabKey (recNum r 16 1) (recNum r 20 4)) (items r 24 (recNum r 18 2))
    | _ => l) []
  { s with rpl := { s.rpl with forced := forced, free := [] } }

/-! ### Settings and histograms (R96, R100) -/

/-- Byte `i` of the settings in force; the defaults of R100 where none are set. -/
def State.chmByte (s : State) (i : Nat) : Nat :=
  match s.upd.chm[i]? with
  | some b => b.toNat
  | none => [16, 1, 10, 14, 2, 0, 0, 0, 0, 0, 0, 0, 0, 0, 1, 0].getD i 0

/-- TABLE. -/
def State.chmTable (s : State) : Nat := ((List.range 6).map fun i => s.chmByte (8 + i) * 2 ^ (8 * i)).sum

/-- LAYERS. -/
def State.chmCount (s : State) : Nat := s.chmByte 14 + s.chmByte 15 * 256

/-- The folds of a core that wait for the bank accepted one after another. -/
def State.foldDrain (s : State) (c : CoreId) : Nat → State
  | 0 => s
  | k + 1 => if (s.core c).fold.isSome then (s.foldAccept c).foldDrain c k else s

/-- The histogram unit of a core flushed into its record, behind what already waits (R93, R96). -/
def State.flushHist (s : State) (c : CoreId) : State :=
  (((s.foldDrain c ((s.core c).foldWait.length + 1))).foldNow c none).foldAccept c

/-- The records of a tag over all cores, summed bin by bin as whole counts. -/
def State.histOf (s : State) (tag : Nat) : List Nat :=
  let bases := (allCores.map fun c => s.rd (COR_HST_BASE c.toNat)).filter fun b =>
    decide (tag < COR_HST_BASE.LAYERS.get b) && histAreaOk b
  (List.range 64).map fun i => (bases.map fun b =>
    match fv (s.rdNum (COR_HST_BASE.ADDR.get b * 256 + tag * 256 + 4 * i) 4) with
    | .num false m e => if 0 ≤ e then m * 2 ^ e.toNat else m / 2 ^ (-e).toNat
    | _ => 0).sum

/-- Every record cleared. -/
def State.clearHist (s : State) : State :=
  allCores.foldl (fun s c =>
    let b := s.rd (COR_HST_BASE c.toNat)
    if histAreaOk b then s.wrMem (COR_HST_BASE.ADDR.get b * 256) (List.replicate (COR_HST_BASE.LAYERS.get b * 256) 0) else s) s

/-! ### The decision (R97, R98) -/

/-- What select returns: format, scale, INIT and ABOVE flags, and the top bin it used. -/
structure Sel where
  fmt : Nat
  scale : Nat
  init : Bool := false
  above : Bool := false
  top : Option Nat := none
  deriving DecidableEq, Repr

/-- e(b). -/
def histExp (eb b : Nat) : Int := (eb : Int) + b - 2 - 127

/-- Etop of the FP8 formats. -/
def etop (fmt : Nat) : Int := if fmt = 1 then 8 else 15

/-- The scale formula of R97. -/
def chmScale (eb fmt h t : Nat) : Nat := if fmt = 0 then 127 else (max 0 (min 254 (histExp eb t - etop fmt + h + 127))).toNat

/-- select of R97. -/
def select (eb h loss4 loss5 init : Nat) (H : List Nat) : Sel :=
  let at_ (b : Nat) := H.getD b 0
  let n := ((List.range 63).map fun i => at_ (i + 1)).sum
  if n = 0 then { fmt := init, scale := 127, init := true }
  else
    let top := ((List.range 61).reverse.map (· + 2)).find? fun b => decide (0 < at_ b)
    if 0 < at_ 63 then { fmt := 0, scale := 127, above := true, top := top }
    else match top with
    | none => { fmt := 0, scale := 127 }
    | some t =>
      let ok (fmt : Nat) (R : Int) (k : Nat) : Bool :=
        let cut := histExp eb t - (R - 1 - h)
        let lost := at_ 1 + (((List.range 61).map (· + 2)).map fun b => if b ≤ t ∧ histExp eb b < cut then at_ b else 0).sum
        decide (lost * 2 ^ k ≤ n) && decide (fmt ≠ 0)
      if ok 1 18 loss4 then { fmt := 1, scale := chmScale eb 1 h t, top := top }
      else if ok 2 32 loss5 then { fmt := 2, scale := chmScale eb 2 h t, top := top }
      else { fmt := 0, scale := 127, top := top }

/-- How wide a format's range is (R89). -/
def chmWidth (fmt : Nat) : Nat := if fmt = 1 then 0 else if fmt = 2 then 1 else 2

/-- Whether the finished step's samples pass the current FP8 range (R98). -/
def escapes (eb fmt scale : Nat) (H : List Nat) : Bool :=
  fmt != 0 && (decide (0 < H.getD 63 0) ||
    ((List.range 61).map (· + 2)).any fun b => decide (0 < H.getD b 0) && decide ((scale : Int) - 127 + etop fmt + 1 ≤ histExp eb b))

/-- A layer's entry after a step (R98), with its flags: bit 0 CHANGED, 1 ESCAPE, 2 INIT, 3 ABOVE. Two points are the model's (DESIGN CHOICE, in
the log): a layer with no entry yet takes what select returns at once, without dwell and with CHANGED clear; and an entry kept during dwell
while no bin of the window from 2 to 62 is occupied, so that R97's formula has no t, keeps its scale and shows neither INIT nor ABOVE. -/
def ChamSt.next (x : ChamSt) (eb h dwell : Nat) (sel : Sel) (step : List Nat) : ChamSt × Nat :=
  let fl (a : Bool) (n : Nat) : Nat := if a then n else 0
  let put (fmt scale fl0 : Nat) (y : ChamSt) : ChamSt × Nat :=
    ({ y with known := true, fmt := fmt, scale := scale }, fl0 + fl (x.known && fmt != x.fmt) 1)
  let selFl := fl sel.init 4 + fl sel.above 8
  if x.known ∧ escapes eb x.fmt x.scale step then
    if chmWidth x.fmt < chmWidth sel.fmt then put sel.fmt sel.scale (2 + selFl) { x with run := 0 }
    else
      let f := if x.fmt = 1 then 2 else 0
      put f (match sel.top with | some t => chmScale eb f h t | none => 127) 2 { x with run := 0 }
  else if x.known ∧ sel.fmt ≠ x.fmt then
    let run := if 0 < x.run ∧ x.cand = sel.fmt then x.run + 1 else 1
    if dwell ≤ run then put sel.fmt sel.scale selFl { x with run := 0 }
    else
      let sc := if x.fmt = 0 then 127 else match sel.top with | some t => chmScale eb x.fmt h t | none => x.scale
      put x.fmt sc 0 { x with run := run, cand := sel.fmt }
  else put sel.fmt sel.scale selFl { x with run := 0 }

/-- EBASE of the module's lowest enabled core, which stands for EB in e(b). -/
def State.ebase (s : State) : Nat :=
  match allCores.find? s.enabled with
  | some c => s.fld (COR_HST_CTL c.toNat) COR_HST_CTL.EBASE
  | none => 80

/-- The entry a replayed log gives a layer for the step, if any (R101): 8 bytes. -/
def logEntry (rs : List (List Byte)) (i : Nat) : Option (List Byte) :=
  let all := (rs.filter fun r => r.head? == some 10).flatMap fun r => (r.drop 24).take (8 * recNum r 16 2)
  let e := (all.drop (8 * i)).take 8
  if e.length = 8 then some e else none

/-- The step boundary's work for one layer: its history and its table entry. -/
def State.chmLayer (s : State) (log : List (List Byte)) (i : Nat) (step : List Nat) : State × List Byte :=
  let x := s.upd.chmLays.get (fun _ => {}) i
  let x := { x with hist := ((if step.any (0 < ·) then step else []) :: x.hist).take 64 }
  let win := (x.hist.filter fun h => !h.isEmpty).take (s.chmByte 0)
  let H := (List.range 64).map fun b => (win.map fun h => h.getD b 0).sum
  let h := s.chmByte 1
  let sel := select s.ebase h (s.chmByte 2) (s.chmByte 3) (s.chmByte 5) H
  let (y, fl) := if s.chmByte 6 = 1 then
      ({ x with known := true, fmt := s.chmByte 5, scale := 127, run := 0 },
        16 + if x.known ∧ x.fmt ≠ s.chmByte 5 then 1 else 0)
    else x.next s.ebase h (s.chmByte 4) sel step
  let (y, fl, diff) := match (if s.replaying then logEntry log i else none) with
    | some e =>
      let f := (e.headD 0).toNat
      let sc := (e.getD 1 0).toNat
      ({ y with fmt := f, scale := sc }, (e.getD 2 0).toNat ||| 16, f ≠ y.fmt || sc ≠ y.scale)
    | none => (y, fl, false)
  let s := { s with upd := { s.upd with chmLays := s.upd.chmLays.set (fun _ => {}) i y } }
  let s := if diff then s.bump RPL_CHM_DIVERGE else s
  (s, toLe 1 y.fmt ++ toLe 1 y.scale ++ toLe 1 fl ++ toLe 1 0 ++ toLe 4 (s.epoch32 + 1))

/-- The format table of the next step written, by DMA of die 0's control complex (R99): a page that is not present is mapped on demand or asked
for, and the write goes on once it is there; a table at an address that no DMA may write is dropped (a DESIGN CHOICE, in the log). -/
def State.tableTry (s : State) : State :=
  match s.upd.table with
  | none => s
  | some bytes =>
    let rs := [(⟨s.chmTable, bytes.length, true, 0⟩ : Rng)]
    let s := s.updMap 0 rs
    let ws := s.updWaits 0 rs
    if !ws.isEmpty then s.updAsk 0 ws
    else
      let s := if (s.updBad 0 rs).isSome then s
        else (s.engWrite 0 s.chmTable (bytes.map fun b => (b, false))).engTraffic 0 (ccEp 0) s.chmTable bytes.length true
      { s with upd := { s.upd with table := none } }

/-- The step boundary of R96 and R99: units flushed, records summed and cleared, decisions made, the table for the next step
written and recorded. -/
def State.boundary (s : State) : State :=
  let s := match s.upd.chmNext with
    | some b => { s with upd := { s.upd with chm := b, chmNext := none } }
    | none => s
  let s := (allCores.filter fun c => !s.fenced c).foldl State.flushHist s
  let n := s.chmCount
  let hists := (List.range n).map s.histOf
  let s := s.clearHist
  let log := stepRecords (s.rd UPD_EPOCH).toNat s.replayRecords false
  let (s, bytes) := (hists.zip (List.range n)).foldl (fun (s, bs) (h, i) =>
    let (s, e) := s.chmLayer log i h
    (s, bs ++ e)) (s, [])
  let s := ({ s with upd := { s.upd with table := some bytes } }).tableTry
  s.rplItems 0x0A 1000 8 (fun k => toLe 2 k ++ toLe 6 0) bytes

end Sys2Proof.Machine
end

