-- ==== Sys2Proof/Machine/Steps.lean ====
section
/-!
DEFINITION. Sys2Proof/Machine/Steps.lean: plans and schedule blocks as they are installed (R324 to R327, R341), and the step
discipline: open, close, the norm's outcome, abandonment, commit (R319 to R323, R331, R361, R370).
-/
namespace Sys2Proof.Machine

/-! ### Clamps of blocks a command names (R443, R444) -/

/-- A list of clamps recorded: source, index, offset, value given, value used. -/
def State.clamps (s : State) (r : RingId) (op : Nat) (cs : List (Nat × Nat × Nat × Nat × Nat)) : State :=
  cs.foldl (fun s (src, ix, off, v, u) => s.clampIn r op src ix off v u) s

/-- Bytes with those of some fields set to 0: (offset, length) pairs. -/
def zeroed (bs : List Byte) (fs : List (Nat × Nat)) : List Byte :=
  (bs.zip (List.range bs.length)).map fun (b, i) => if fs.any fun (o, n) => o ≤ i && i < o + n then 0 else b

/-- A field of a byte list. -/
def fieldOf (bs : List Byte) (o n : Nat) : Nat := leNat ((bs.drop o).take n)

/-! ### The plan (R324 to R327) -/

/-- A layer descriptor as the engine uses it (R325, R327). -/
def layerDesc (bs : List Byte) : Layer :=
  let f := fieldOf bs
  { rule := f 0 1, flags := f 1 1, engine := min 15 (f 2 1), cfmt := f 3 1, mfmt := f 4 1, tform := min 1 (f 5 1), tag := f 6 2
    rows := f 8 4, cols := f 12 4, wA := f 16 8, gA := f 24 8, mA := f 32 8, vA := f 40 8, cA := f 48 8, sA := f 56 8, tA := f 64 8
    tsA := f 72 8, kA := f 80 8, lrmult := f 88 4, wd := f 92 4, b1 := f 96 4, b2 := f 100 4, eps := f 104 4, aux := f 108 4
    gobj := BitVec.ofNat 18 (f 112 4), gstep := f 116 4, nsiter := max 1 (min 16 (f 120 1)) }

/-- Whether a descriptor's codes are ones R327 accepts. -/
def layerOk (bs : List Byte) : Bool :=
  decide (fieldOf bs 0 1 ≤ 4) && decide (fieldOf bs 4 1 ≤ 1) && decide (fieldOf bs 3 1 % 16 < 8)

/-- The clamps of a descriptor. -/
def layerClamps (i : Nat) (bs : List Byte) : List (Nat × Nat × Nat × Nat × Nat) :=
  let f := fieldOf bs
  [(2, i, 2, f 2 1, min 15 (f 2 1)), (2, i, 5, f 5 1, min 1 (f 5 1)), (2, i, 120, f 120 1, max 1 (min 16 (f 120 1)))]

/-- The ranges a layer's update writes. -/
def Layer.written (l : Layer) : List (Nat × Nat) :=
  let n := l.size
  ([(l.wA, 4 * n), (l.mA, l.mBytes * n), (l.cA, l.copyBytes l.rows l.cols), (l.sA, l.recordBytes l.rows l.cols)] ++
   (if l.rule = 2 then [(l.vA, l.mBytes * n)] else []) ++
   (if l.tcopy then [(l.tA, l.copyBytes l.cols l.rows), (l.tsA, l.recordBytes l.cols l.rows)] else [])).filter fun r => r.2 != 0

/-- Whether two ranges meet. -/
def rangesMeet (a b : Nat × Nat) : Bool := decide (a.1 < b.1 + b.2) && decide (b.1 < a.1 + a.2)

/-- Whether no two of a list's members are related. -/
def noPair {α : Type} (bad : α → α → Bool) : List α → Bool
  | [] => true
  | x :: rest => (rest.all fun y => !bad x y) && noPair bad rest

/-- MAXNORM in force: 0 or below is the smallest positive normal value. -/
def maxnormOf (v : Nat) : Nat := match (fv v).cmp XR.zero with | some .gt => v | some _ => 0x00800000 | none => v

/-- A plan read from memory: its parts and the clamps; HW_ERROR where memory cannot be read, UNSUPPORTED where R327 refuses. -/
def State.readPlan (s : State) (phys : Bool) (h : Nat) : Except (BitVec 8) (Plan × List (Nat × Nat × Nat × Nat × Nat)) :=
  match s.cmdRead phys h 64 with
  | none => .error stHwError
  | some hd =>
    let f := fieldOf hd
    let n := max 1 (min 4095 (f 2 2))
    let ltab := f 16 8 / 128 * 128
    let stab := f 24 8 / 32 * 32
    if f 0 1 ≠ 1 then .error stUnsupported
    else match s.cmdRead false ltab (128 * n) with
    | none => .error stHwError
    | some tb =>
      let ds := (List.range n).map fun i => (tb.drop (128 * i)).take 128
      let ls := ds.map layerDesc
      if !ds.all layerOk || !noPair (fun (a b : Layer) => a.tag == b.tag) ls ||
         !noPair (fun (a b : Layer) => a.written.any fun x => b.written.any fun y => rangesMeet x y) ls then .error stUnsupported
      else
        let P : Plan := { flags := f 1 1, maxnorm := maxnormOf (f 4 4), gscale := f 8 4, nchan := f 12 1 % 64, ltab := ltab, stab := stab
                          work := f 32 8, wsize := f 40 4, nsa := f 44 4, nsb := f 48 4, nsc := f 52 4, layers := ls
                          bytes := zeroed hd [(16, 24)] ++ ds.flatMap fun d => zeroed d [(16, 72)] }
        let cs := [(1, 0, 2, f 2 2, n), (1, 0, 4, f 4 4, maxnormOf (f 4 4)), (1, 0, 12, f 12 1, min 63 (f 12 1)), (1, 0, 16, f 16 8, ltab),
          (1, 0, 24, f 24 8, stab)] ++ ((List.range n).zip ds).flatMap fun (i, d) => layerClamps i d
        .ok ({ P with nchan := min 63 (f 12 1) }, cs)

/-- R327: a plan installed, or refused. -/
def State.installPlan (s : State) (r : RingId) (phys : Bool) (h : Nat) : State × BitVec 8 :=
  match s.readPlan phys h with
  | .error st => (s, st)
  | .ok (P, cs) =>
    let s := s.clamps r 0x82 cs
    ({ s with upd := { s.upd with plan := some P, lays := [] } }, stOk)

/-! ### The schedule block (R341) -/

/-- An FP32 code clamped to a range; a NaN to its lower end. -/
def fClamp (v lo hi : Nat) : Nat :=
  match (fv v).cmp (fv lo), (fv v).cmp (fv hi) with
  | some .lt, _ => lo
  | _, some .gt => hi
  | none, _ => lo
  | _, _ => v

/-- AMP in force: 0 is 2^-24. -/
def ampOf (v : Nat) : Nat := let x := fClamp v 0 f1; if (fv x).isZero then 0x33800000 else x

/-- R341: a schedule block installed, or refused. -/
def State.installSched (s : State) (r : RingId) (phys : Bool) (a : Nat) : State × BitVec 8 :=
  match s.cmdRead phys a 64 with
  | none => (s, stHwError)
  | some bs =>
    let f := fieldOf bs
    if 2 < f 0 1 ∨ 4 < f 1 1 then (s, stUnsupported)
    else
      let b : Sched := { warm := f 0 1, decay := f 1 1, lrmax := fClamp (f 4 4) 0 0x7F800000, fmin := fClamp (f 8 4) 0 f1, amp := ampOf (f 12 4)
                         pmult := fClamp (f 16 4) f1 0x41800000, e0 := f 24 8, wsteps := f 32 8, period := f 40 8, total := max 1 (f 48 8)
                         h := max 1 (f 56 8), bytes := bs }
      let s := s.clamps r 0x83 [(3, 0, 4, f 4 4, b.lrmax), (3, 0, 8, f 8 4, b.fmin), (3, 0, 12, f 12 4, b.amp), (3, 0, 16, f 16 4, b.pmult),
        (3, 0, 48, f 48 8, b.total), (3, 0, 56, f 56 8, b.h)]
      ({ s with upd := { s.upd with sched := some b } }, stOk)

/-! ### Open (R320, R361) -/

/-- Every entry of one list is in the other, and the other way round. -/
def sameSet (a b : List Nat) : Bool := (a.all b.contains) && (b.all a.contains)

/-- Whether the shard table agrees with the plan (R361); with no shard table there is nothing to compare. -/
def State.shardsAgree (s : State) : Bool :=
  s.fab.shards.isEmpty ||
  sameSet ((s.fab.shards.filter fun e => match s.group e.group with | some G => G.rank == e.owner | none => false).map (·.tag))
    (match s.upd.plan with | some P => P.layers.map (·.tag) | none => [])

/-- UPD_PHASE.PHASE set. -/
def State.setPhase (s : State) (p : Nat) : State := s.setFld UPD_PHASE UPD_PHASE.PHASE p

/-- The epoch of a step that opens: UPD_EPOCH and MEM_STEP.EPOCH; a new epoch is a first attempt (R320, R370). -/
def State.openEpoch (s : State) (e : Nat) : State :=
  let s := if (s.rd UPD_EPOCH).toNat = e then s else { s with upd := { s.upd with attempt := 0 } }
  let s := s.wr UPD_EPOCH (BitVec.ofNat 64 e)
  allDies.foldl (fun s d => s.setFld (MEM_STEP d.toNat) MEM_STEP.EPOCH (e % 2 ^ 32)) s

/-- Every core's cache invalidated (R320). -/
def State.dropCaches (s : State) : State :=
  allCores.foldl (fun s c => if (s.core c).cache.isEmpty then s else s.invalidate c) s

/-- The plan's layers as a step begins: their GOBJ bases sampled (R320). -/
def State.openLayers (s : State) : State :=
  let ls : List Layer := match s.upd.plan with | some P => P.layers | none => []
  let lays : List (Nat × LayerSt) := (List.range ls.length).zip (ls.map fun l => { base := s.objVal l.gobj })
  { s with upd := { s.upd with
    lays := lays.foldl (fun t (i, x) => t.set (fun _ => {}) i x) []
    closeCmd := none, sent := false, known := false, normGot := none, skip := false, wrote := false, late := false, priFail := [] } }

/-- OPEN set on every die and the engines at their first layers (R320, R344). -/
def State.openEngines (s : State) : State :=
  let s := allDies.foldl (fun s d => s.setFld (MEM_STEP d.toNat) MEM_STEP.OPEN 1) s
  let s := s.setPhase 1
  (List.range 16).foldl (fun s r =>
    match s.layersOf (BitVec.ofNat 4 r) with
    | (i, _) :: _ => s.engState (BitVec.ofNat 4 r) 1 i
    | [] => s.engState (BitVec.ofNat 4 r) 5 0) s

/-- Deadlines set for the next STEP_OPEN come into force (R372). -/
def State.openDeadlines (s : State) : State :=
  let groups := s.fab.groups.map fun g => (g.1, g.2.map fun G =>
    match G.next with | some (a, b) => { G with soft := a, hard := b, next := none } | none => G)
  { s with fab := { s.fab with groups := groups } }

/-- What the recorder does as a step opens: an armed recording begins, a replay reads the step's orders (R501, R504). -/
def State.openRecord (s : State) (e : Nat) : State :=
  let s := if s.fld RPL_STATUS RPL_STATUS.RECORD = 1 then s.setFld RPL_STATUS RPL_STATUS.RECORD 2 else s
  let s := if s.recording then (s.rplStep 0).rplSeeds else s
  if s.replaying then s.replayOpen e else s

/-- R320: STEP_OPEN in IDLE: UNSUPPORTED while shard and plan disagree, else the next epoch opens. -/
def State.stepOpen (s : State) : State × BitVec 8 :=
  if !s.shardsAgree then (s, stUnsupported)
  else
    let e := (s.rd UPD_COMMITTED).toNat + 1
    let s := ((s.openEpoch e).dropCaches.openLayers.openEngines.openDeadlines).openRecord e
    (s.issueRs.fabGo, stOk)

/-! ### Close (R321) -/

/-- η of the step (R342); with no schedule block installed the spec states none, and it is a free value. -/
def State.rateNow (s : State) : State × Nat :=
  match s.upd.sched with
  | some b => (s, b.rate (s.rd UPD_EPOCH).toNat)
  | none => let (x, s) := s.take; (s, x % 2 ^ 32)

/-- Whether the module mirrors its steps: in MIRROR, and while it drains from it (R321, R380, R392). -/
def State.mirroring (s : State) : Bool :=
  match s.fld TWN_STATUS TWN_STATUS.STATE, s.twn.set with
  | 2, _ => true
  | 4, some b => b.mode == 1
  | _, _ => false

/-- OPEN cleared on every die: held region-table writes apply (R213, R321). -/
def State.closeDies (s : State) : State :=
  allDies.foldl (fun s d => s.memStep d (MEM_STEP.OPEN.put (s.rd (MEM_STEP d.toNat)) 0)) s

/-- The learning rate of the step in UPD_LR (R321, R341). -/
def State.takeRate (s : State) : State := s.rateNow.1.setFld UPD_LR UPD_LR.LR s.rateNow.2

/-- R321: STEP_CLOSE in OPEN. -/
def State.stepClose (s : State) (id : Nat) : State :=
  let s := (s.closeDies.setPhase 2).takeRate
  let layers := match s.upd.plan with | some P => P.layers.length | none => 0
  let mirror := s.mirroring && layers != 0
  let s := { s with upd := { s.upd with closeCmd := some id }
                    twn := { s.twn with owed := mirror, mirrorLeft := if mirror then List.range layers else [] } }
  let s := s.rplStep 1
  let n := match s.upd.plan with | some P => P.nchan | none => 0
  (s.issueUpdate n).fabGo

/-! ### The end of a step (R321, R322) -/

/-- What every end of a step does: loans returned, rule-0 launches not started dropped, engines idle, STEP_CLOSE completed, IDLE. -/
def State.stepEnd (s : State) (st : BitVec 8) : State :=
  let s := (List.range 16).foldl (fun s r =>
    let s := if s.bit (UPD_STATUS r) UPD_STATUS.LENT then s.returnArrays (BitVec.ofNat 4 r) else s
    s.engState (BitVec.ofNat 4 r) 0 0) s
  let keep (l : Launch) : Bool := !(l.rule0.isSome && l.ph == LaunchPh.queued)
  let s := { s with host := { s.host with launches := s.host.launches.filter keep } }
  let s := allDies.foldl (fun s d => if s.openOn d then s.memStep d (MEM_STEP.OPEN.put (s.rd (MEM_STEP d.toNat)) 0) else s) s
  let s := s.setPhase 0
  match s.upd.closeCmd with
  | some id => ({ s with upd := { s.upd with closeCmd := none } }).finish id st []
  | none => s

/-- R322, R371: the step is abandoned. -/
def State.stepAbandon (s : State) (st : BitVec 8) : State :=
  if s.phase = 0 then s
  else
    let s := s.rplOrders.rplStep 3
    let s := s.abandonReds
    ({ s with twn := { s.twn with owed := false, mirrorLeft := [] } }).stepEnd st

/-- An engine error (R322, R345): before any Pass B write the step is abandoned; after one the layer stops and the step will not
commit. -/
def State.engineError (s : State) (r : RegionId) (code i : Nat) (st : BitVec 8) : State :=
  if s.upd.wrote then s.lateErr r code i
  else ((s.engErr r code i).engState r 6 i).stepAbandon st

/-! ### Pass B of the engines (R331, R332, R337, R343) -/

/-- An engine takes its next layer for Pass B: frozen layers are skipped whole, an ORTHO layer borrows the arrays, a rule-0
layer's program goes to the ready queue. -/
def State.startB (s : State) (r : RegionId) : Nat → State
  | 0 => s
  | k + 1 =>
    match s.nextB r, s.upd.plan with
    | some (i, l), some P =>
      if s.phase ≠ 2 then s
      else if l.frozen then ((s.endLayer i).gatherReady l.tag).startB r k
      else if l.isOrtho then
        if !s.workOk r P l then (s.engineError r 4 i stAborted).startB r k
        else if (s.lendCores r).isEmpty then (s.engineError r 5 i stHwError).startB r k
        else (s.engState r 4 i).lendArrays r
      else if l.rule = 0 then (s.engState r 4 i).rule0Launch r i P l
      else s.engState r 4 i
    | _, _ => if s.phase = 2 ∧ s.fld (UPD_STATUS r.toNat) UPD_STATUS.STATE ≠ 6 then s.engState r 5 0 else s

/-- Every engine begins Pass B. -/
def State.startAllB (s : State) : State :=
  (List.range 16).foldl (fun s r => let r := BitVec.ofNat 4 r; s.startB r ((s.layersOf r).length + 1)) s

/-- The norm's outcome acted on (R331, R370): abandonment when it carries ABORT, a skipped Pass B, or clip and Pass B. -/
def State.normSettle (s : State) : State :=
  match s.upd.normGot with
  | none => s
  | some (S, ab) =>
    if s.upd.known ∨ s.phase ≠ 2 then s
    else if ab then s.stepAbandon (if s.fab.timedOut then stTimeout else stAborted)
    else
      let s := { s with upd := { s.upd with known := true } }
      let s := s.setFld UPD_NORM2 UPD_NORM2.S S
      match s.upd.plan with
      | none => s.fabGo
      | some P =>
        if fBad S ∧ P.flags / 2 % 2 = 1 then
          let s := (List.range P.layers.length).foldl State.endLayer s
          let s := (List.range 16).foldl (fun s r => s.engState (BitVec.ofNat 4 r) 5 0) s
          ({ s with upd := { s.upd with skip := true } }).gatherSkip.fabGo
        else (s.setFld UPD_CLIP UPD_CLIP.CLIP (clipOf P S)).startAllB.fabGo

/-- The fabric goes on, and the norm's outcome is acted on. -/
def State.fabSettle (s : State) : State := s.fabGo.normSettle

/-! ### Pass A, the norm and Pass B as they end -/

/-- R331: the module's sum: SUMSQ values added in FP64 in table order, rounded to FP32. -/
def State.moduleSum (s : State) : Nat :=
  match s.upd.plan with
  | none => 0
  | some P => f32Round (dv ((List.range P.layers.length).foldl (fun a i => f64Add a (s.lay i).sumsq) 0))

/-- The sum sent as the module's contribution; a module whose NCHAN is bound to no group is a group of its own. -/
def State.contributeNorm (s : State) : State :=
  let S := s.moduleSum
  let s := { s with upd := { s.upd with sent := true } }
  let n := match s.upd.plan with | some P => P.nchan | none => 0
  match s.chan n with
  | none => ({ s with upd := { s.upd with normGot := some (S, s.fab.failed) } }).normSettle
  | some C =>
    let s := s.setChan n { C with reds := C.reds.map fun R => if R.kind = 2 then { R with own := S } else R }
    s.fabSettle

/-- A Pass A in progress ends (R330): translations awaited, an error, or the sums; it waits while its region's clock has stopped (R317). -/
def State.endA (s : State) (r : RegionId) : State :=
  match s.nextA r, s.upd.plan with
  | some (i, l), some P =>
    if !s.rclocked r then s else
    let d := dieOfRegion r
    let s := s.updMap d l.rangesA
    let ws := s.updWaits d l.rangesA
    if !ws.isEmpty then s.updAsk d ws
    else match s.updBad d l.rangesA with
    | some (_, c) => s.engineError r c i stAborted
    | none =>
      let s := s.passA r i P l
      match s.nextA r with
      | some (j, _) => s.engState r 1 j
      | none => s.engState r 3 i
  | _, _ => s

/-- The layer an engine's Pass B is in. -/
def State.inB (s : State) (r : RegionId) : Option (Nat × Layer × Plan) :=
  match s.nextB r, s.upd.plan with
  | some (i, l), some P => if s.fld (UPD_STATUS r.toNat) UPD_STATUS.STATE = 4 ∧ s.phase = 2 then some (i, l, P) else none
  | _, _ => none

/-- A layer whose Pass B has ended: its gather may send, the engine goes on. -/
def State.afterB (s : State) (r : RegionId) (l : Layer) : State :=
  let s := if s.bit (UPD_STATUS r.toNat) UPD_STATUS.LENT then s.returnArrays r else s
  (s.gatherReady l.tag).startB r ((s.layersOf r).length + 1) |>.fabSettle

/-- A layer stops in error (R322, R345); where the step goes on, its arrays go back and the engine takes its next layer. -/
def State.stopLayer (s : State) (r : RegionId) (code i : Nat) (st : BitVec 8) : State :=
  let s := s.engineError r code i st
  if s.phase = 2 then
    let s := if s.bit (UPD_STATUS r.toNat) UPD_STATUS.LENT then s.returnArrays r else s
    s.startB r ((s.layersOf r).length + 1)
  else s

/-- What follows a layer's Pass B: the next layer, or the engine's stop on an error. -/
def State.passDone (r : RegionId) (i : Nat) (l : Layer) (p : State × Option Nat) : State :=
  match p.2 with
  | some c => p.1.stopLayer r c i stAborted
  | none => p.1.afterB r l

/-- Pass B of a layer whose ranges are translated: all of it, or the elements before the first that cannot be reached (R322, R345; none
of an ORTHO layer's, whose step is over whole matrices). -/
def State.runB (s : State) (r : RegionId) (i : Nat) (P : Plan) (l : Layer) (els : List Rng) : State :=
  let d := dieOfRegion r
  match s.updBad d els with
  | none => State.passDone r i l (s.passB r i P l)
  | some (k, c) =>
    let k := if l.isOrtho then 0 else k
    (if k = 0 then s else s.passBElems r P l (s.ruleEnv P l (s.recOf d P i l)) k).stopLayer r c i stAborted

/-- A Pass B in progress ends (R332, R345): the state record is read, then the elements are run, copies and record written, in that order, up to
the first that cannot be reached. A pass waits for translations, and while its region's clock has stopped (R317). An ORTHO layer that cannot
reach an element writes none (a DESIGN CHOICE, in the log). -/
def State.endB (s : State) (r : RegionId) : State :=
  match s.inB r with
  | none => s
  | some (i, l, P) =>
    if l.rule = 0 ∨ !s.rclocked r then s
    else
      let d := dieOfRegion r
      let s := if l.isOrtho then s.lendTake r else s
      let els := { P.record i with write := false } :: l.rangesB
      let rs := els ++ l.rangesC ++ [P.record i]
      let s := s.updMap d rs
      let ws := s.updWaits d rs
      if l.isOrtho ∧ !s.upd.lent.any fun x => regionOf x.core == r && !s.fenced x.core && s.lentAll r then
        if (s.lendCores r).isEmpty then s.stopLayer r 5 i stHwError else s
      else if !ws.isEmpty then s.updAsk d ws
      else if s.updHeld d rs then s
      else s.runB r i P l els

/-! ### Commit (R321) -/

/-- Whether everything the commit of the step waits for has happened. -/
def State.canCommit (s : State) : Bool :=
  s.phase == 2 && s.upd.known && s.allB && !s.upd.late && !s.agLeft && !s.twn.owed

/-- R321: the epoch is committed and the step boundary occurs. -/
def State.commit (s : State) : State :=
  let s := s.wr UPD_COMMITTED (s.rd UPD_EPOCH)
  let s := s.setFld UPD_PHASE UPD_PHASE.SKIPPED (if s.upd.skip then 1 else 0)
  let s := s.rplOrders.rplStep 2
  let s := if s.recording ∨ s.replaying then s.setFld RPL_STATUS RPL_STATUS.EPOCH s.epoch32 else s
  let s := s.boundary
  s.stepEnd stOk

/-- A step with a late error ends once its layers have (R322, R345): STEP_CLOSE completes HW_ERROR, nothing is committed. -/
def State.lateEnd (s : State) : State :=
  let s := s.rplOrders.rplStep 3
  (s.abandonReds).stepEnd stHwError

end Sys2Proof.Machine
end

