-- ==== Sys2Proof/Machine/Twin.lean ====
section
/-!
DEFINITION. Sys2Proof/Machine/Twin.lean: the twin link's frames, bonding, resynchronisation, mirrors and detachment (R376 to
R396), with the identity certificate chain (R486).
-/
namespace Sys2Proof.Machine

/-! ### State and frames -/

/-- TWN_STATUS.STATE: 0 SOLO, 1 BONDING, 2 MIRROR, 3 SHADOW, 4 DRAINING, 5 SPLIT. -/
def State.twin (s : State) : Nat := s.fld TWN_STATUS TWN_STATUS.STATE

/-- The twin state set. -/
def State.setTwin (s : State) (v : Nat) : State := s.setFld TWN_STATUS TWN_STATUS.STATE v

/-- The twin's records changed. -/
def State.modTwn (s : State) (f : TwnSt → TwnSt) : State := { s with twn := f s.twn }

/-- The live twin ports in ascending order. -/
def State.twinPorts (s : State) : List Nat := [24, 25, 26, 27].filter fun p => s.pathLive p 0

/-- A twin frame on a port. -/
def State.twinOn (s : State) (port ty tag seg epoch flags : Nat) (data : List Byte) : State :=
  s.sendOn port 0 ty { frame0 with
    tag := BitVec.ofNat 16 tag, seg := BitVec.ofNat 32 seg, epoch := BitVec.ofNat 32 epoch, flags := BitVec.ofNat 8 flags, data := data }

/-- A twin frame on the lowest live port; with none live it waits on D0T's path. -/
def State.twinSend (s : State) (ty tag seg epoch flags : Nat) (data : List Byte) : State :=
  s.twinOn (s.twinPorts.headD 24) ty tag seg epoch flags data

/-- A CTRL frame: 1 HEARTBEAT, 2 DECISION, 3 UNBOND, 4 UNBOND_ACK, 5 MSKIP. -/
def State.twinCtrl (s : State) (tag epoch : Nat) (data : List Byte) : State := s.twinSend 15 tag 0 epoch 0 data

/-- Bytes by free values. -/
def State.takeBytes (s : State) (n : Nat) : List Byte × State :=
  ((List.range n).map fun i => BitVec.ofNat 8 (Config.free (s.free + i)), { s with free := s.free + n })

/-! ### Identity (R485, R486) -/

/-- The identity certificate chain in DER, as the maker put it into the SPI NOR. -/
def chainBytes : List Byte := (List.range (Config.maker 0 % 65536)).map fun i => BitVec.ofNat 8 (Config.maker (i + 1))

/-- Whether a chain verifies up to the boot ROM's root key and its device certificate carries a serial. -/
def chainOk (chain : List Byte) (serial : Nat) : Bool := Config.verify 0 (leNat chain) serial

/-- Whether a signature of 64 bytes over some bytes verifies with the key of a chain's device certificate. -/
def sigOk (chain bytes sig : List Byte) : Bool := Config.verify (1 + leNat chain) (leNat (sm3 bytes)) (leNat sig)

/-- A signature of the fused identity key over some bytes: 64 bytes. -/
def signed (bytes : List Byte) : List Byte := toLe 64 (Config.sign 0 (leNat (sm3 bytes)))

/-! ### Layer images (R383, R388) -/

/-- Parts of a layer image: address and bytes of the state record, master weights and moments. -/
def imageParts (P : Plan) (i : Nat) (l : Layer) : List (Nat × Nat) :=
  [(P.stab + 32 * i, 32), (l.wA, 4 * l.size), (l.mA, l.mBytes * l.size)] ++ (if l.rule = 2 then [(l.vA, l.mBytes * l.size)] else [])

/-- The 4 KiB segments of a layer image: address and bytes of each, the rest of a segment being zeros. -/
def imageSegs (P : Plan) (i : Nat) (l : Layer) : List (Nat × Nat) :=
  (imageParts P i l).flatMap fun (a, n) => (List.range ((n + 4095) / 4096)).map fun k => (a + 4096 * k, min 4096 (n - 4096 * k))

/-- The plan's layers with their indices. -/
def State.planLayers (s : State) : List (Nat × Layer) :=
  match s.upd.plan with
  | some P => (List.range P.layers.length).zip P.layers
  | none => []

/-- IMGLEN of the module's own images. -/
def State.imgLen (s : State) : Nat :=
  match s.upd.plan with
  | some P => (s.planLayers.map fun (i, l) => 4096 * (imageSegs P i l).length).sum
  | none => 0

/-- The die an engine of a layer lies on. -/
def Layer.die (l : Layer) : DieId := dieOfRegion (BitVec.ofNat 4 l.engine)

/-- A segment of a layer image as it is read: 4,096 bytes and whether a codeword is poisoned. -/
def State.imageSeg (s : State) (l : Layer) (seg : Nat × Nat) : List Byte × Bool :=
  let bs := (s.engRead l.die seg.1 seg.2).getD (List.replicate seg.2 (0, false))
  (bs.map (·.1) ++ List.replicate (4096 - seg.2) 0, bs.any (·.2))

/-- The state digest (R388). -/
def State.stateDigest (s : State) : List Byte :=
  match s.upd.plan with
  | none => sm3 ((List.range 4).flatMap fun _ => sm3 [])
  | some P => sm3 (allDies.flatMap fun d => sm3 ((s.planLayers.filter fun (_, l) => l.die == d).flatMap fun (i, l) =>
      (imageSegs P i l).flatMap fun g => (s.imageSeg l g).1))

/-- The bytes of a shard entry with every address zeroed. -/
def Shard.plain (e : Shard) : List Byte := zeroed e.bytes [(8, 8), (32, 8)]

/-- CFGDIG for a mode (R388). -/
def State.cfgDigest (s : State) (mode : Nat) : List Byte :=
  let sched := match s.upd.sched with | some b => b.bytes | none => []
  let chm := (List.range 16).map fun i => if 8 ≤ i ∧ i < 14 then 0 else BitVec.ofNat 8 (s.chmByte i)
  let plan := match s.upd.plan with | some P => P.bytes | none => []
  sm3 (toLe 1 mode ++ sched ++ chm ++ toLe 8 (s.rd FAB_RETRY).toNat ++
    (if mode = 2 then plan ++ s.fab.shards.flatMap Shard.plain else []))

/-! ### Mirror slots (R383, R384) -/

/-- A slot's physical base. -/
def State.slotBase (s : State) (i : Nat) : Nat :=
  s.fld TWN_MIRROR_BASE TWN_MIRROR_BASE.BASE * 4096 + i * (s.fld TWN_MIRROR_SLOT TWN_MIRROR_SLOT.SLOTLEN * 4096)

/-- A slot's epoch. -/
def State.slotEpoch (s : State) (i : Nat) : Nat := s.rdNum (s.slotBase i) 8

/-- Whether a slot holds a complete mirror. -/
def State.slotFull (s : State) (i : Nat) : Bool :=
  s.fld TWN_MIRROR_SLOT TWN_MIRROR_SLOT.SLOTLEN != 0 && s.rdNum (s.slotBase i + 8) 1 == 2

/-- The slot of the latest complete mirror. -/
def State.latestSlot (s : State) : Option Nat :=
  match s.slotFull 0, s.slotFull 1 with
  | true, true => some (if s.slotEpoch 0 < s.slotEpoch 1 then 1 else 0)
  | true, false => some 0
  | false, true => some 1
  | false, false => none

/-- MEPOCH. -/
def State.mepoch (s : State) : Nat := match s.latestSlot with | some i => s.slotEpoch i | none => 0

/-- A full epoch from its low 32 bits, at or after a known one. -/
def fullEpoch (known low : Nat) : Nat :=
  let e := known / 2 ^ 32 * 2 ^ 32 + low % 2 ^ 32
  if e < known then e + 2 ^ 32 else e

/-- A slot header written. -/
def State.slotHeader (s : State) (i epoch st layers len : Nat) : State :=
  s.wrMem (s.slotBase i) (toLe 8 epoch ++ toLe 4 st ++ toLe 4 layers ++ toLe 8 len ++ List.replicate (4096 - 24) 0)

/-- The image of a layer sent: segment k on the (k mod n)-th live port (R378, R380, R385). -/
def State.sendImage (s : State) (i epoch : Nat) : State :=
  match s.upd.plan, s.planLayers[i]? with
  | some P, some (_, l) =>
    let segs := imageSegs P i l
    ((List.range segs.length).zip segs).foldl (fun s (k, g) =>
      let (bs, bad) := s.imageSeg l g
      let s := s.engTraffic l.die (twinEp l.die) g.1 g.2 false
      let s := if bad then (s.poisonUse (s.poisonAt l.die g.1 g.2) 7 0).bump TWN_MIR_POISON else s
      let ps := s.twinPorts
      let p := ps.getD (k % ps.length) 24
      (s.bump TWN_MIR_TX).twinOn p 13 l.tag k epoch ((if k + 1 = segs.length then 1 else 0) + (if bad then 4 else 0)) bs) s
  | _, _ => s

/-- Mirrors that may leave do: of layers whose Pass B has ended, or of the whole module after a bond (R380, R391). -/
def State.mirrorGo (s : State) : State :=
  let ready := s.twn.mirrorLeft.filter fun i => s.phase = 0 || (s.lay i).bDone
  let s := s.modTwn fun t => { t with mirrorLeft := t.mirrorLeft.filter fun i => !ready.contains i }
  let e := if s.phase = 0 then (s.rd UPD_COMMITTED).toNat else (s.rd UPD_EPOCH).toNat
  ready.foldl (fun s i => s.sendImage i e) s

/-- The mirror of a step begins (R380): images as layers end, or one MSKIP. -/
def State.mirrorStep (s : State) : State :=
  if s.mirroring ∧ s.twn.owed then
    if !s.upd.skip then s.mirrorGo
    else if s.twn.mirrorLeft.isEmpty then s
    else (s.modTwn fun t => { t with mirrorLeft := [] }).twinCtrl 5 s.epoch32 []
  else s

/-! ### Bonding (R386 to R391) -/

/-- The bytes of a bond record that are signed. -/
def BondRec.bytes (b : BondRec) : List Byte :=
  toLe 8 b.serial ++ toLe 6 b.mac ++ toLe 1 b.mode ++ toLe 1 b.source ++ toLe 4 b.fwver ++ b.cfgdig ++ toLe 8 b.time ++ toLe 8 b.committed ++
  b.statedig ++ toLe 8 b.mepoch ++ b.mirdig ++ toLe 8 b.imglen ++ b.pnonce

/-- A bond record from its bytes. -/
def bondOf (bs : List Byte) : BondRec :=
  let f := fieldOf bs
  let g (o n : Nat) := (bs.drop o).take n
  { serial := f 0 8, mac := f 8 6, mode := f 14 1, source := f 15 1, fwver := f 16 4, cfgdig := g 20 32, time := f 52 8, committed := f 60 8
    statedig := g 68 32, mepoch := f 100 8, mirdig := g 108 32, imglen := f 140 8, pnonce := g 148 32 }

/-- This module's bond record; `mirdig` is what firmware computes over its latest complete slot, whose images' engines the
partner's plan names. -/
def State.ownBond (s : State) (b : BondSet) (mirdig : BitVec 256) : BondRec :=
  { serial := s.fuses.serial.toNat, mac := s.fuses.macBase.toNat, mode := b.mode, source := b.source, fwver := s.sys.version
    cfgdig := s.cfgDigest b.mode, time := s.now, committed := (s.rd UPD_COMMITTED).toNat, statedig := s.stateDigest, mepoch := s.mepoch
    mirdig := if s.latestSlot.isSome then toLe 32 mirdig.toNat else List.replicate 32 0, imglen := s.imgLen
    pnonce := s.twn.peerNonce.getD [] }

/-- The BOND frames sent, once the partner's HELLO is here (R387). -/
def State.sendBond (s : State) (mirdig : BitVec 256) : State :=
  match s.twn.set with
  | none => s
  | some b =>
    let r := s.ownBond b mirdig
    let bytes := chainBytes ++ r.bytes ++ signed r.bytes
    let n := (bytes.length + 4095) / 4096
    let s := s.modTwn fun t => { t with mine := some r }
    (List.range n).foldl (fun s k => s.twinSend 12 0 k 0 (if k + 1 = n then 1 else 0) ((bytes.drop (4096 * k)).take 4096)) s

/-- A bond that ends without one: reason in TWN_STATUS, SOLO or SPLIT, the command's reply. A bond tried in SPLIT that is not made leaves
SPLIT as it was: only TWN_UNBOND, or a bond with SOURCE set on both sides, ends it (R390). -/
def State.endBond (s : State) (st : BitVec 8) (reason state : Nat) : State :=
  let state := if s.twn.set.any (·.split) then 5 else state
  let s := (s.setFld TWN_STATUS TWN_STATUS.REASON reason).setTwin state
  let id := s.twn.cmd
  let s := s.modTwn fun t => { t with cmd := none, decision := none, theirs := none, resync := 0, mirrorLeft := [], rxGot := [], rxEpoch := none
                                      rxBond := [], peer := none, mine := none, nonce := [], peerNonce := none
                                      set := if state = 5 then t.set else none, peerMac := if state = 5 then t.peerMac else 0 }
  let s := if state = 0 then s.wr TWN_PEER 0 else s
  match id with
  | some id => s.finish id st [reason, (s.rd UPD_COMMITTED).toNat]
  | none => s

/-- The bond is made: the requested mode, the partner's serial, the elder's bit; the command completes OK (R379, R393). -/
def State.bonded (s : State) : State :=
  match s.twn.set, s.twn.peer with
  | some b, some p =>
    let s := (s.setTwin (b.mode + 1)).setFld TWN_STATUS TWN_STATUS.UNMIRRORED 0
    let s := s.setFld TWN_STATUS TWN_STATUS.REASON 0
    let s := s.setFld TWN_STATUS TWN_STATUS.ELDER (if s.fuses.serial.toNat < p.serial then 1 else 0)
    let s := (s.wr TWN_PEER (BitVec.ofNat 64 p.serial)).bump TWN_BONDS
    let id := s.twn.cmd
    let s := s.modTwn fun t => { t with cmd := none, resync := 0, decision := none, theirs := none, rxBond := [], nonce := [] }
    match id with
    | some id => s.finish id stOk [0, (s.rd UPD_COMMITTED).toNat]
    | none => s
  | _, _ => s

/-- Full mirrors of both modules (R389, R391): this module's own leaves. -/
def State.fullMirrors (s : State) : State :=
  let s := s.modTwn fun t => { t with resync := 3, acked := false, got := false, mirrorLeft := s.planLayers.map (·.1), rxGot := [], rxEpoch := none }
  s.mirrorGo

/-- What a bond decides (R389; in SPLIT only with SOURCE set on both sides, R390): 1 bond, 2 bond after full mirrors, 3 split, 4 state from the elder, 5 state from the younger,
16 + reason a refusal ABORTED, 32 AUTH_FAIL, 33 NO_RESOURCE. -/
def bondDecision (me you : BondRec) (slotLen : Nat) (auth split : Bool) : Nat :=
  let elder := decide (me.serial < you.serial)
  let from_ (mine : Bool) : Nat := if mine = elder then 4 else 5
  if !auth then 32
  else if me.serial = you.serial then 17
  else if me.fwver % 256 ≠ you.fwver % 256 then 18
  else if me.cfgdig ≠ you.cfgdig ∨ me.mode ≠ you.mode then 19
  else if me.mode = 1 ∧ slotLen < you.imglen + 4096 then 33
  else if me.source = 1 ∧ you.source = 2 then from_ true
  else if me.source = 2 ∧ you.source = 1 then from_ false
  else if me.source ≠ 0 ∨ you.source ≠ 0 ∨ split then 20
  else if me.committed ≠ you.committed then from_ (decide (you.committed < me.committed))
  else if me.mode = 2 then (if me.statedig = you.statedig then 1 else 3)
  else if me.mirdig = you.statedig ∧ you.mirdig = me.statedig ∧ me.mepoch = me.committed ∧ you.mepoch = you.committed then 1
  else 2

/-- The times compared (R389): `rtt` is the HELLO round trip; the younger adopts the elder's time. -/
def State.adoptTime (s : State) (me you : BondRec) (rtt : Nat) : State :=
  let theirs := you.time + rtt / 2
  let diff : Int := (s.now : Int) - theirs
  if diff.natAbs ≤ 1000000 ∨ me.serial < you.serial then s
  else (s.wr MOD_TIME (BitVec.ofNat 64 theirs)).event 0x0014 3 (srcOf 6 0) 0 0 (toLe 8 (unint 64 diff))

/-- The segments of a state that goes out (R391): own images, or for MIRROR the partner's images from the latest slot. -/
def State.sendState (s : State) (me you : BondRec) : State :=
  if me.mode = 2 then
    (s.planLayers.map (·.1)).foldl (fun s i => s.sendImage i me.committed) s
  else if you.committed < me.mepoch then
    match s.latestSlot with
    | none => s
    | some i =>
      -- the slot's images go back to the module they came from, as they lie in the slot
      (List.range (s.rdNum (s.slotBase i + 16) 8 / 4096)).foldl (fun s k =>
        let a := s.slotBase i + 4096 * (k + 1)
        let bad := s.poisoned a 4096
        let ps := s.twinPorts
        (s.bump TWN_MIR_TX).twinOn (ps.getD (k % ps.length) 24) 13 0 k me.mepoch (if bad then 4 else 0) (s.rdMem a 4096)) s
  else s

/-- Both decisions are here (R387, R390, R391). -/
def State.decided (s : State) : State :=
  match s.twn.decision, s.twn.theirs, s.twn.mine, s.twn.peer with
  | some d, some t, some me, some you =>
    if t ≠ Config.outcome d % 2 ^ 32 then s.endBond stAborted 5 0
    else match d with
    | 1 => s.bonded
    | 2 => s.fullMirrors
    | 3 => s.endBond stSplit 0 5
    | _ =>
      let elder := decide (me.serial < you.serial)
      let source := (d = 4) = elder
      -- under MIRROR state comes back only from a mirror newer than the other's epoch; else it keeps its state
      if me.mode = 1 ∧ (if source then me.mepoch ≤ you.committed else you.mepoch ≤ me.committed) then s.fullMirrors
      else if source then
        let s := (s.modTwn fun t => { t with resync := 1 }).sendState me you
        if me.mode = 2 ∧ s.planLayers.isEmpty then s.bonded else s
      else if s.imgLen = 0 then
        -- nothing to receive: the source's epoch is taken
        let s := s.wr UPD_COMMITTED (BitVec.ofNat 64 (if me.mode = 2 then you.committed else you.mepoch))
        if me.mode = 2 then s.bonded else s.fullMirrors
      else s.modTwn fun t => { t with resync := 2, rxGot := [], rxEpoch := none }
  | _, _, _, _ => s

/-- The partner's record judged once its BOND frames are all here (R387, R389). -/
def State.judge (s : State) (rtt : Nat) : State :=
  let segs := s.twn.rxBond
  let last := segs.find? fun e => match e.2 with | some (_, l) => l | none => false
  match last, s.twn.mine, s.twn.set with
  | some (n, _), some me, some b =>
    if s.twn.decision.isSome ∨ segs.length ≤ n then s
    else
      let bytes := segs.flatMap fun e => match e.2 with | some (x, _) => x | none => []
      let chain := bytes.take (bytes.length - 244)
      let rec' := bytes.drop (bytes.length - 244)
      let you := bondOf rec'
      let auth := chainOk chain you.serial && sigOk chain (rec'.take 180) (rec'.drop 180) && you.pnonce == s.twn.nonce &&
        !s.bit SEC_STATUS SEC_STATUS.CHAIN_BAD && (b.peer == 0 || b.peer == you.serial)
      let d := bondDecision me you (s.fld TWN_MIRROR_SLOT TWN_MIRROR_SLOT.SLOTLEN * 4096) auth b.split
      let s := s.modTwn fun t => { t with peer := some you, decision := some d }
      let s := s.twinCtrl 2 0 (toLe 4 (Config.outcome d))
      if 16 ≤ d then
        s.endBond (if d = 32 then stAuthFail else if d = 33 then stNoResource else stAborted) (if d < 32 then d - 16 else 0) 0
      else
        let s := if me.fwver ≠ you.fwver then s.event 0x0015 3 (srcOf 6 0) 0 0 (toLe 4 you.fwver) else s
        (s.adoptTime me you rtt).decided
  | _, _, _ => s

/-- A bond begun (R387): twin ports that are DOWN train, BONDING, a nonce, HELLO; what the partner has sent before counts. -/
def State.startBond (s : State) (b : BondSet) (id : Option Nat) (mirdig : BitVec 256) : State :=
  let (nonce, s) := s.takeBytes 32
  let s := ([24, 25, 26, 27] : List Nat).foldl (fun s p => if s.portLink p = 0 then s.setLink p 1 else s) s
  let s := (s.setTwin 1).modTwn fun t => { t with set := some b, cmd := id, nonce := nonce, decision := none, mine := none, peer := none }
  let s := s.twinSend 11 0 0 0 0 nonce
  if s.twn.peerNonce.isSome then s.sendBond mirdig else s

/-! ### Detachment (R390 to R393) -/

/-- SOLO after a planned unbond. -/
def State.solo (s : State) : State :=
  let id := s.twn.unbondCmd
  let s := (s.setTwin 0).wr TWN_PEER 0
  let s := s.modTwn fun t => { t with set := none, peer := none, mine := none, peerMac := 0, peerNonce := none, rxBond := [], unbondCmd := none
                                      unbondSent := false, peerUnbond := false, owed := false, mirrorLeft := [], rxGot := [], rxEpoch := none }
  match id with
  | some id => s.finish id stOk []
  | none => s

/-- The groups whose member table names a serial, one bit each (R393). -/
def State.groupsOf (s : State) (serial : Nat) : Nat :=
  (s.fab.groups.map fun g => match g.2 with
    | some G => if G.members.any fun m => m.serial == serial || (m.mode != 0 && m.aserial == serial) then 2 ^ g.1 else 0
    | none => 0).sum

/-- R392, R393: the partner is lost: once this module has sent UNBOND the unbond is done; else the loss is recorded and the module is SOLO and
UNMIRRORED. A handshake cut off ends ABORTED without a reason (a DESIGN CHOICE, in the log). -/
def State.partnerLost (s : State) : State :=
  match s.twin with
  | 2 | 3 | 4 =>
    if s.twn.unbondSent then s.solo else
    let serial := (s.rd TWN_PEER).toNat
    let s := (s.setFld TWN_STATUS TWN_STATUS.UNMIRRORED 1).bump TWN_LOSSES
    s.event 0x0013 3 (srcOf 6 0) 0 0 (toLe 8 serial ++ toLe 2 (s.groupsOf serial)) |>.solo
  | 1 =>
    -- a handshake or a resynchronisation cut off (R391)
    if s.twn.resync = 2 then s.endBond stAborted 6 5 else s.endBond stAborted (if s.twn.resync = 0 then 0 else 6) 0
  | _ => s

/-- Whether every twin path to a partner, one that is bonded or has sent its HELLO, is down (R378). -/
def State.twinAllDown (s : State) : Bool :=
  (s.twin == 2 || s.twin == 3 || s.twin == 4 || s.twin == 1 && s.twn.peerNonce.isSome) && s.twinPorts.isEmpty

/-- A planned unbond that may run does: UNBOND sent, a partner's UNBOND acknowledged (R392). -/
def State.unbondGo (s : State) : State :=
  if s.phase ≠ 0 then s
  else if s.twn.peerUnbond then (s.twinCtrl 4 0 []).solo
  else if s.twn.unbondCmd.isSome ∧ !s.twn.unbondSent then
    (s.modTwn fun t => { t with unbondSent := true }).twinCtrl 3 0 []
  else s

/-! ### Mirrors received (R384, R391) -/

/-- A resynchronisation's or mirror's last acknowledgement may end the bond. -/
def State.mirrorsDone (s : State) : State := if s.twn.resync = 3 ∧ s.twn.acked ∧ s.twn.got then s.bonded else s

/-- A segment of the partner's state written into this module's own ranges (R391). -/
def State.takeState (s : State) (f : Frame) (you me : BondRec) : State :=
  match s.upd.plan with
  | none => s
  | some P =>
    let all := s.planLayers.flatMap fun (i, l) => (imageSegs P i l).map fun g => (l, g)
    let own := if me.mode = 2 then
        match s.planLayers.find? fun (_, l) => l.tag == f.tag.toNat with
        | some (i, l) => ((imageSegs P i l)[f.seg.toNat]?).map fun g => (l, g)
        | none => none
      else all[f.seg.toNat]?
    let key := if me.mode = 2 then f.tag.toNat * 2 ^ 32 + f.seg.toNat else f.seg.toNat
    match own with
    | none => s
    | some (l, g) =>
      if s.twn.rxGot.contains key then s.bump FAB_DUP
      else
        let s := s.engWrite l.die g.1 ((f.data.take g.2).map fun b => (b, f.flags.getLsbD 2))
        let s := s.engTraffic l.die (twinEp l.die) g.1 g.2 true
        let s := (s.modTwn fun t => { t with rxGot := t.rxGot ++ [key] }).bump TWN_MIR_RX
        if s.twn.rxGot.length < all.length then s
        else
          let s := s.wr UPD_COMMITTED (BitVec.ofNat 64 (if me.mode = 2 then you.committed else you.mepoch))
          let s := (s.modTwn fun t => { t with rxGot := [] }).twinSend 14 0 0 f.epoch.toNat 0 []
          if me.mode = 2 then s.bonded else s.fullMirrors

/-- A mirror segment written to the slot that does not hold the latest complete mirror; `off` is its image's offset in the
partner's layer-table order (R384); a segment outside the partner's image size is none of it. -/
def State.takeMirror (s : State) (f : Frame) (off : Nat) (you : BondRec) : State :=
  let i := match s.latestSlot with | some 0 => 1 | _ => 0
  let e := fullEpoch (max s.mepoch you.committed) f.epoch.toNat
  let s := if s.twn.rxEpoch = some e then s
    else (s.modTwn fun t => { t with rxEpoch := some e, rxGot := [] }).slotHeader i e 1 0 you.imglen
  let key := f.tag.toNat * 2 ^ 32 + f.seg.toNat
  if s.twn.rxGot.contains key then s.bump FAB_DUP
  else if you.imglen < off + 4096 * (f.seg.toNat + 1) then s
  else
    let a := s.slotBase i + 4096 + off + 4096 * f.seg.toNat
    let s := s.writeLines a (f.data.map fun b => (b, f.flags.getLsbD 2)) 0xFFFFFFFF
    let s := (s.modTwn fun t => { t with rxGot := t.rxGot ++ [key] }).bump TWN_MIR_RX
    let s := if f.flags.getLsbD 2 then s.bump TWN_MIR_POISON else s
    if s.twn.rxGot.length * 4096 < you.imglen then s
    else
      let layers := ((s.twn.rxGot.map (· / 2 ^ 32)).eraseDups).length
      let s := s.slotHeader i e 2 layers you.imglen
      let s := (s.modTwn fun t => { t with rxEpoch := none, rxGot := [], got := true }).twinSend 14 0 0 f.epoch.toNat 0 []
      s.mirrorsDone

/-- A received twin segment noted as an input of recording and replay (R501, R504). -/
def State.twinInput (s : State) (port : Nat) (f : Frame) : State :=
  s.input 2 (portDie port) 0 (f.tag.toNat + f.seg.toNat * 2 ^ 32) f.data

/-- R384: a MIRROR frame accepted. -/
def State.mirrorIn (s : State) (port : Nat) (f : Frame) (off : Nat) : State :=
  match s.twn.peer, s.twn.mine with
  | some you, some me =>
    let s := s.twinInput port f
    if s.twn.resync = 2 then s.takeState f you me else s.takeMirror f off you
  | _, _ => s

/-- R380: a MACK accepted: the step's mirror, a full mirror, or the state this module sent is there. -/
def State.mackIn (s : State) (f : Frame) : State :=
  if s.twn.resync = 1 then
    match s.twn.mine with
    | some me => if me.mode = 2 then s.bonded else s.fullMirrors
    | none => s
  else if s.twn.resync = 3 then (s.modTwn fun t => { t with acked := true }).mirrorsDone
  else if s.twn.owed ∧ f.epoch.toNat = s.epoch32 then s.modTwn fun t => { t with owed := false }
  else s

/-- R384: an MSKIP accepted: the complete slot takes the epoch. -/
def State.mskipIn (s : State) (f : Frame) : State :=
  let s := match s.latestSlot with
    | some i => s.wrMem (s.slotBase i) (toLe 8 (fullEpoch (s.slotEpoch i) f.epoch.toNat))
    | none => s
  s.twinSend 14 0 0 f.epoch.toNat 0 []

end Sys2Proof.Machine
end

