-- ==== Sys2Proof/Machine/Mbox.lean ====
section
/-!
DEFINITION. Sys2Proof/Machine/Mbox.lean: mailboxes and doorbells (R458 to R468).
-/
namespace Sys2Proof.Machine

/-- The send register of mailbox `n` of a direction: true host to firmware. -/
def mbxSend (h2f : Bool) (n : Nat) : Nat := if h2f then MBX_H2F_SEND n else MBX_F2H_SEND n

/-- Whether a mailbox is full (R459). -/
def State.mbxFull (s : State) (h2f : Bool) (n : Nat) : Bool := s.bit (mbxSend h2f n) MBX_H2F_SEND.OWNER

/-- Whether the receiver of a direction is in reset (R466). -/
def State.mbxDown (s : State) (h2f : Bool) : Bool :=
  s.bit MBX_STATUS (if h2f then MBX_STATUS.FW_RESET else MBX_STATUS.HOST_RESET)

/-- Doorbells rung for the receiver of a direction. -/
def State.ringFor (s : State) (h2f : Bool) (bits : Word) : State := if h2f then s.fwDb bits else s.hostDb bits

/-- RESULT of a mailbox set: 1 DELIVERED, 2 REJECTED, 3 ABORTED, 4 RELEASED. -/
def State.mbxResult (s : State) (h2f : Bool) (n r : Nat) : State := s.setFld (mbxSend h2f n) MBX_H2F_SEND.RESULT r

/-- How a rejection reaches its writer (R464): the host gets a Completer Abort classed Advisory Non-Fatal, a control core a
precise bus error. -/
def State.mbxReject (s : State) (host : Bool) (off : Nat) : State :=
  let s := s.bump MBX_REJECTS
  if host then (s.emit (.host 2 [off])).emit (.aer false) else s.emit (.dieInt 0 9)

/-- Doorbell DB of a send or release: 31 rings nothing and sets DBERR (R460, R461). -/
def State.mbxRing (s : State) (h2f : Bool) (db : Nat) : State :=
  if db = 31 then s.setFld MBX_STATUS MBX_STATUS.DBERR 1 else s.ringFor h2f (1 <<< db)

/-- A send (R460, R463). -/
def State.mbxSendOp (s : State) (h2f : Bool) (n : Nat) (v : Word) : State :=
  let a := mbxSend h2f n
  if s.mbxFull h2f n || s.mbxDown h2f then (s.mbxResult h2f n 2).mbxReject h2f (a - MBX_H2F_SEND 0 + 0x2000)
  else
    let len := MBX_H2F_SEND.LEN.get v
    let len' := max 1 (min 256 len)
    let s := if len' = len then s else s.setFld MBX_STATUS MBX_STATUS.LENCLAMP 1
    let db := MBX_H2F_SEND.DB.get v
    let s := (s.setFld a MBX_H2F_SEND.LEN len').setFld a MBX_H2F_SEND.DB db
    let s := (s.setFld a MBX_H2F_SEND.OWNER 1).mbxResult h2f n 1
    (s.setFld a MBX_H2F_SEND.SEQ (s.fld a MBX_H2F_SEND.SEQ + 1)).mbxRing h2f db

/-- A release (R461): each full mailbox of MASK returns to its sender; DBEN rings the sender once. -/
def State.mbxRelease (s : State) (h2f : Bool) (v : Word) : State :=
  let s := (List.range 16).foldl (fun s n =>
    if v.getLsbD n && s.mbxFull h2f n then (s.setFld (mbxSend h2f n) MBX_H2F_SEND.OWNER 0).mbxResult h2f n 4 else s) s
  if MBX_H2F_RELEASE.DBEN.get v = 1 then s.mbxRing (!h2f) (MBX_H2F_RELEASE.DB.get v) else s

/-- Bytes written into mailbox data by a side: all of them or none (R459, R463). -/
def State.mbxWrite (s : State) (host : Bool) (off : Nat) (bs : List Byte) : State :=
  let bs := bs.take (0x2000 - off)
  let boxes := ((List.range bs.length).map fun i => (off + i) / 256).eraseDups
  let bad := boxes.filter fun b =>
    let h2f := decide (b < 16)
    h2f != host || s.mbxFull h2f (b % 16) || s.mbxDown h2f
  if bad.isEmpty then { s with sys := { s.sys with mbox := s.sys.mbox.setRun memZero off bs } }
  else (bad.foldl (fun s b => s.mbxResult (decide (b < 16)) (b % 16) 2) s).mbxReject host off

/-- A reset of a side (R466): the survivor's full mailboxes are aborted, the others discarded, everything is empty and zero, the
resetting side's doorbells are gone, the survivor's doorbell 31 is set. -/
def State.mbxReset (s : State) (host : Bool) : State :=
  let lost := (List.range 16).filter fun n => s.mbxFull (!host) n
  let s := lost.foldl (fun s n => (s.mbxResult (!host) n 3).bump MBX_ABORTS) s
  let s := (List.range 16).foldl (fun s n =>
    (s.setFld (mbxSend true n) MBX_H2F_SEND.OWNER 0).setFld (mbxSend false n) MBX_H2F_SEND.OWNER 0) s
  let s := { s with sys := { s.sys with mbox := [] } }
  if host then ((s.wr MBX_HOST_DB 0).wr MBX_HOST_DB_MASK 0).setFld MBX_STATUS MBX_STATUS.HOST_RESET 1 |>.fwDb 0x80000000
  else ((s.wr MBX_FW_DB 0).wr MBX_FW_DB_MASK 0).setFld MBX_STATUS MBX_STATUS.FW_RESET 1 |>.hostDb 0x80000000

/-- A doorbell mask written: a pending bit that is unmasked signals its receiver (R465). -/
def State.dbMask (s : State) (fw : Bool) (v : Word) : State :=
  let (pend, mask) := if fw then (MBX_FW_DB, MBX_FW_DB_MASK) else (MBX_HOST_DB, MBX_HOST_DB_MASK)
  let old := s.rd mask
  let new := v &&& 0xFFFFFFFF
  let s := s.wr mask new
  if s.rd pend &&& old &&& ~~~new = 0 then s
  else if fw then s.emit (.dieInt 0 1) else s.msix 64

/-- FW_READY: the firmware reset of the mailboxes ends (R466). -/
def State.fwReady (s : State) : State := s.setFld MBX_STATUS MBX_STATUS.FW_RESET 0

/-- MBX_CTL written by firmware. -/
def State.mbxCtl (s : State) (v : Word) : State :=
  let s := if v.getLsbD 0 then s.fwReady else s
  if v.getLsbD 1 then s.clear [MBX_REJECTS, MBX_ABORTS] else s

/-- MBX_STATUS with the full bits of both directions. -/
def State.mbxStatus (s : State) : Word :=
  let bits (h2f : Bool) : Nat := (List.range 16).foldl (fun a n => if s.mbxFull h2f n then a + 2 ^ n else a) 0
  MBX_STATUS.F2H_FULL.put (MBX_STATUS.H2F_FULL.put (s.rd MBX_STATUS) (bits true)) (bits false)

/-- A register of the MBX_ block written by a side; writes from the wrong side are ignored (R464). -/
def State.mbxRegWrite (s : State) (host : Bool) (o : Nat) (v : Word) : State :=
  if o < 0x2000 then s.mbxWrite host o (toLe 8 v.toNat)
  else if o < 0x2080 then (if host then s.mbxSendOp true ((o - 0x2000) / 8) v else s)
  else if o < 0x2100 then (if host then s else s.mbxSendOp false ((o - 0x2080) / 8) v)
  else match o with
    | 0x2100 => if host then s else s.mbxRelease true v
    | 0x2108 => if host then s.mbxRelease false v else s
    | 0x2110 => s.wr MBX_STATUS (s.rd MBX_STATUS &&& ~~~(v &&& 0xC00000000))
    | 0x2118 => if host then s else s.mbxCtl v
    | 0x2200 => if host then s.wr MBX_HOST_DB (s.rd MBX_HOST_DB &&& ~~~v) else s
    | 0x2208 => if host then s.dbMask false v else s
    | 0x2210 => if host then s else s.hostDb (v &&& 0x7FFFFFFF)
    | 0x2300 => if host then s else s.wr MBX_FW_DB (s.rd MBX_FW_DB &&& ~~~v)
    | 0x2308 => if host then s else s.dbMask true v
    | 0x2310 => if host then s.fwDb (v &&& 0x7FFFFFFF) else s
    | _ => s

/-! ### The commands -/

/-- R463: bytes written into mailbox data by the host or by firmware. -/
def execMbxDataWrite (host : Bool) (off : BitVec 13) (data : List Byte) (s : State) : Host.Outcome State Fault Refusal :=
  .next (s.mbxWrite host off.toNat data)

/-- R460: MBX_H2F_SEND_n written. -/
def execMbxH2fSend (host : Bool) (n : BitVec 4) (v : Word) (s : State) : Host.Outcome State Fault Refusal :=
  .next (if host then s.mbxSendOp true n.toNat v else s)

/-- R460: MBX_F2H_SEND_n written. -/
def execMbxF2hSend (host : Bool) (n : BitVec 4) (v : Word) (s : State) : Host.Outcome State Fault Refusal :=
  .next (if host then s else s.mbxSendOp false n.toNat v)

/-- R461: MBX_H2F_RELEASE written. -/
def execMbxH2fRelease (host : Bool) (v : Word) (s : State) : Host.Outcome State Fault Refusal :=
  .next (if host then s else s.mbxRelease true v)

/-- R461: MBX_F2H_RELEASE written. -/
def execMbxF2hRelease (host : Bool) (v : Word) (s : State) : Host.Outcome State Fault Refusal :=
  .next (if host then s.mbxRelease false v else s)

/-- R466: MBX_CTL.FW_READY written 1. -/
def execFwReady (host : Bool) (s : State) : Host.Outcome State Fault Refusal := .next (if host then s else s.fwReady)

/-- R467: MBX_CTL.CNT_CLR written 1. -/
def execMbxCntClr (host : Bool) (s : State) : Host.Outcome State Fault Refusal :=
  .next (if host then s else s.clear [MBX_REJECTS, MBX_ABORTS])

/-- R465: MBX_HOST_DB_SET written; doorbell 31 is the block's alone. -/
def execMbxHostDbSet (host : Bool) (v : Word) (s : State) : Host.Outcome State Fault Refusal :=
  .next (if host then s else s.hostDb (v &&& 0x7FFFFFFF))

/-- R465: MBX_FW_DB_SET written. -/
def execMbxFwDbSet (host : Bool) (v : Word) (s : State) : Host.Outcome State Fault Refusal :=
  .next (if host then s.fwDb (v &&& 0x7FFFFFFF) else s)

/-- R465: a doorbell mask written by its receiver; `fw` picks MBX_FW_DB_MASK. -/
def execDbMaskWrite (host : Bool) (fw : Bool) (v : Word) (s : State) : Host.Outcome State Fault Refusal :=
  .next (if host = fw then s else s.dbMask fw v)

end Sys2Proof.Machine
end

