-- ==== Sys2Proof/Machine/Barriers.lean ====
section
/-!
DEFINITION. Sys2Proof/Machine/Barriers.lean: how barrier lines complete: die, module, system and twin (R304 to R310, R367, R382).
-/
namespace Sys2Proof.Machine

/-! ### Whether a line is complete -/

/-- The participant mask of a die's line. -/
def State.barMask (s : State) (d : DieId) (n : BitVec 6) : List CoreId :=
  (List.range 256).filterMap fun i =>
    let c : CoreId := BitVec.ofNat 10 (d.toNat * 256 + i)
    if s.inMask c n then some c else none

/-- Whether a participant has arrived, or is held as arrived because it is fenced (R309). -/
def State.barHere (s : State) (n : BitVec 6) (c : CoreId) : Bool :=
  (s.bar (dieOf c) n).arrived.getLsbD (c.toNat % 256) || s.fenced c

/-- Whether the control complex of a die participates. -/
def State.barCc (s : State) (d : DieId) (n : BitVec 6) : Bool := s.bit (SYN_BAR_CFG d.toNat n.toNat) SYN_BAR_CFG.CC

/-- Whether every participant of a die has arrived. -/
def State.barDie (s : State) (d : DieId) (n : BitVec 6) : Bool :=
  ((s.barMask d n).all fun c => s.barHere n c) && (!s.barCc d n || (s.bar d n).cc)

/-- Whether a die's line holds an arrival of its own. -/
def State.barReal (s : State) (d : DieId) (n : BitVec 6) : Bool := (s.bar d n).arrived != 0 || (s.bar d n).cc

/-- EPISODE of a die's line. -/
def State.barEpisode (s : State) (d : DieId) (n : BitVec 6) : Nat := s.fld (SYN_BAR_STATUS d.toNat n.toNat) SYN_BAR_STATUS.EPISODE

/-- The system record of a line. -/
def State.sysBar (s : State) (n : BitVec 6) : SysBar := s.sync.sys.get (fun _ => {}) n.toNat

/-- The system record of a line set. -/
def State.setSysBar (s : State) (n : BitVec 6) (x : SysBar) : State :=
  { s with sync := { s.sync with sys := s.sync.sys.set (fun _ => {}) n.toNat x } }

/-- Whether the line is complete at the module level (R305). -/
def State.barModule (s : State) (n : BitVec 6) : Bool :=
  let e := s.barEpisode 0 n
  (allDies.all fun d => s.barDie d n) &&
  ((allDies.any fun d => s.barReal d n) || (s.barScope 0 n == 2 && (s.sysBar n).got.any fun x => x.2.2 == e))

/-! ### Completion -/

/-- Waiting BARRs of a line that have not left a core's sync queue: they have not arrived. -/
def CoreSt.barQueued (C : CoreSt) (n : BitVec 6) : Nat :=
  (C.fl.filter fun f => iclass f.w == 9 && iop f.w == 8 && !ibit f.w 8 && f.w.extractLsb' 10 6 == n).length

/-- A line's completion latched for a core: its latest arrival is answered, and a BARR that waits for the line completes, where it has
arrived (R179, R306): of the core's wait and the one an interrupt has broken off, those that do not stand in the sync queue. -/
def State.barLatch (s : State) (c : CoreId) (n : BitVec 6) : State :=
  let C := s.core c
  let on (w : Option CoreWait) : Bool := match w with | some (.barr l _) => l == n | _ => false
  let q := C.barQueued n
  let now := on C.wait && q == 0
  let old := on C.waitSaved && decide (q < if on C.wait then 2 else 1)
  let C' := { C with arrived := C.arrived.set (fun _ => true) n.toNat true
                     wait := if now then none else C.wait, waitSaved := if old then none else C.waitSaved }
  let s := s.setCore c C'
  let s := if old then s.bump (COR_INSTRET c.toNat) else s
  let s := if now then s.bump (COR_INSTRET c.toNat) else s
  if now || old then s.unwait c else s

/-- A BAR_ARRIVE that waits for a line no more completes once no die holds it. -/
def State.barAnswer (s : State) (n : BitVec 6) (id : Nat) : State :=
  if allDies.any fun d => (s.bar d n).cmds.contains id then s else s.finish id stOk []

/-- A line completed on some dies (R305): completion is latched for every core, arrivals are cleared, EPISODE increments. -/
def State.barComplete (s : State) (ds : List DieId) (n : BitVec 6) : State :=
  let ids := ds.flatMap fun d => (s.bar d n).cmds
  let cores := (s.cores.map fun e => (BitVec.ofNat 10 e.1 : CoreId)).filter fun c => ds.contains (dieOf c)
  let s := cores.foldl (fun s c => s.barLatch c n) s
  let s := ds.foldl (fun s d =>
    (s.setBar d n {}).setFld (SYN_BAR_STATUS d.toNat n.toNat) SYN_BAR_STATUS.EPISODE (s.barEpisode d n + 1)) s
  let S := s.sysBar n
  let s := if ds.contains 0 then s.setSysBar n { sent := none, got := S.got.filter fun x => x.2.2 != (s.barEpisode 0 n + 2 ^ 32 - 1) % 2 ^ 32 } else s
  ids.foldl (fun s id => s.barAnswer n id) s

/-- GROUP of a system line. -/
def State.barGroup (s : State) (n : BitVec 6) : Nat := s.fld (SYN_BAR_CFG 0 n.toNat) SYN_BAR_CFG.GROUP

/-- A BARRIER frame: line, episode, group, rank. -/
def barFrame (n : BitVec 6) (e g rank : Nat) (alt : Bool) : Frame :=
  { frame0 with tag := n.zeroExtend 16, rsn := BitVec.ofNat 32 e, group := BitVec.ofNat 4 g, srank := BitVec.ofNat 16 rank
                flags := if alt then 2 else 0 }

/-- The arrival message sent to every other member of a fabric group, on the lowest live plane toward it (R310, R367). -/
def State.barSend (s : State) (n : BitVec 6) (e g : Nat) (G : GroupSt) : State :=
  (List.range G.members.length).foldl (fun s r =>
    if r = G.rank then s
    else (if G.mode r = 0 then [false] else [false, true]).foldl (fun s a =>
      let mac := G.mac r a
      let p := ((List.range 24).find? fun p => s.pathLive p (mac + p)).getD 0
      s.sendOn p (mac + p) 8 (barFrame n e g G.rank G.alt)) s) s

/-- Whether arrivals of an episode are held from every other member of a group. -/
def GroupSt.allHere (G : GroupSt) (S : SysBar) (g e : Nat) : Bool :=
  (List.range G.members.length).all fun r => r == G.rank || S.got.contains (g, r, e)

/-- A system line that is complete at the module level (R310, R382): alone where the twin is SOLO or the group has one member;
else the arrival message leaves once, and the line completes when every member's is here. -/
def State.barSystem (s : State) (n : BitVec 6) : State :=
  let e := s.barEpisode 0 n
  let g := s.barGroup n
  let S := s.sysBar n
  if g = 0xFF then
    match s.twin with
    | 0 => (s.bump TWN_BAR_SOLO).barComplete allDies n
    | 2 | 3 | 4 =>
      if S.sent = some e then (if S.got.contains (0xFF, 0, e) then s.barComplete allDies n else s)
      else (s.setSysBar n { S with sent := some e }).sendOn (s.twinPorts.headD 24) 0 8 (barFrame n e 0 0 false)
    | _ => s
  else match s.group g with
    | none => s
    | some G =>
      if G.members.length ≤ 1 then s.barComplete allDies n
      else if S.sent = some e then (if G.allHere S g e then s.barComplete allDies n else s)
      else (s.setSysBar n { S with sent := some e }).barSend n e g G

/-- A line looked at on die `d`: it completes, or a system line's arrival message leaves (R305, R310). -/
def State.barTry (s : State) (d : DieId) (n : BitVec 6) : State :=
  match s.barScope d n with
  | 0 => if s.barDie d n && s.barReal d n then s.barComplete [d] n else s
  | 1 => if s.barModule n then s.barComplete allDies n else s
  | _ => if s.barModule n then s.barSystem n else s

/-- An arrival message of another member for an episode not yet over (R310). -/
def State.barGot (s : State) (line g rank e : Nat) : State :=
  if 64 ≤ line then s
  else
    let n : BitVec 6 := BitVec.ofNat 6 line
    let S := s.sysBar n
    if 2 ^ 31 ≤ (e + 2 ^ 32 - s.barEpisode 0 n) % 2 ^ 32 ∨ S.got.contains (g, rank, e) then s
    else s.setSysBar n { S with got := S.got ++ [(g, rank, e)] }

/-! ### Masks and settings -/

/-- A word of a line's mask written (R304, R309): fused-off bits read 0; the line may complete in the write. -/
def State.barMaskWrite (s : State) (d : DieId) (n : BitVec 6) (w : Nat) (v : Word) : State :=
  let on := s.fuses.enabled.extractLsb' (d.toNat * 256 + w * 64) 64
  (s.wr (SYN_BAR_MASK d.toNat n.toNat w) (v &&& on)).barTry d n

/-- A line's settings written; GROUP 16 to 254 leaves GROUP unchanged (R310); the line may complete in the write, when the control complex
was the last participant missing (R309). -/
def State.barCfgWrite (s : State) (d : DieId) (n : BitVec 6) (v : Word) : State :=
  let a := SYN_BAR_CFG d.toNat n.toNat
  let g := SYN_BAR_CFG.GROUP.get v
  (s.plainWrite a (if 16 ≤ g ∧ g < 255 then SYN_BAR_CFG.GROUP.put v (s.fld a SYN_BAR_CFG.GROUP) else v)).barTry d n

/-- ARRIVED of a die's line: participants arrived or held as arrived. -/
def State.barCount (s : State) (d : DieId) (n : BitVec 6) : Nat :=
  ((s.barMask d n).filter fun c => s.barHere n c).length + (if (s.bar d n).cc then 1 else 0)

/-! ### The commands -/

/-- R309: SYN_BAR_MASK_n_w written. -/
def execBarMaskWrite (d : DieId) (n : BitVec 6) (w : BitVec 2) (v : Word) (s : State) : Host.Outcome State Fault Refusal :=
  .next (s.barMaskWrite d n w.toNat v)

/-- R310: SYN_BAR_CFG_n written. -/
def execSynBarCfgWrite (d : DieId) (n : BitVec 6) (v : Word) (s : State) : Host.Outcome State Fault Refusal :=
  .next (s.barCfgWrite d n v)

/-- R305: the line of die `d`, complete, latches its completion in every router concerned. -/
def execBarrierLineComplete (d : DieId) (n : BitVec 6) (s : State) : Host.Outcome State Fault Refusal := .next (s.barTry d n)

end Sys2Proof.Machine
end

