-- ==== Sys2Proof/Machine/FabCmds.lean ====
section
/-!
DEFINITION. Sys2Proof/Machine/FabCmds.lean: what the fabric and twin commands do when they apply (R356, R358, R360, R372, R373,
R382, R383, R387, R392, R394), and the training of ports (R346, R348, R376).
-/
namespace Sys2Proof.Machine

/-- A command answered at once, with no result words. -/
def State.reply (s : State) (x : CmdRec) (st : BitVec 8) : State := s.finish x.id st []

/-! ### Ports (R346, R348, R372) -/

/-- The ports of a mask of planes. -/
def planesOf (m : Nat) : List Nat := (List.range 24).filter fun p => decide (m / 2 ^ p % 2 = 1)

/-- The mask of planes whose port has a LINK. -/
def State.linkMask (s : State) (link : Nat) : Nat :=
  ((List.range 24).map fun p => if s.portLink p = link then 2 ^ p else 0).sum

/-- The frames a path holds unacknowledged wait for its direction to open again, and are then sent with new PSNs (R351). -/
def State.closePath (s : State) (p : PathSt) : State :=
  s.setPath { p with isOpen := false, opening := false, resent := 0, unacked := []
                     waiting := (p.unacked.map fun x => { x with retx := false }) ++ p.waiting }

/-- The paths of a port that has come UP are closed, to be opened afresh (R351). -/
def State.closePort (s : State) (port : Nat) : State :=
  (s.fab.paths.filter fun p => p.port == port).foldl (fun s p => s.closePath p) s

/-- Paths of a port that hold frames open again. -/
def State.pumpPort (s : State) (port : Nat) : State :=
  (s.fab.paths.filter fun p => p.port == port).foldl (fun s p => s.pumpPath port p.mac (p.waiting.length + 1)) s

/-- A FAB_PORT_SET with no port left to train completes with the planes trained among those it named. -/
def State.trainingDone (s : State) (id : Nat) : State :=
  if s.fab.training.any fun e => e.2 == id then s
  else match s.cmd id with
  | none => s
  | some x =>
    let ps := planesOf (pk x.pkt 8 4)
    s.finish id stOk [(ps.map fun p => if s.portLink p = 2 then 2 ^ p else 0).sum]

/-- R372: FAB_PORT_SET: the settings are written and the named ports train again; a port skipped at start-up stays so. -/
def State.opFabPortSet (s : State) (x : CmdRec) : State :=
  let p := x.pkt
  let (s, rate) := s.clampTo x.ring 0x70 12 (pk p 12 1) 0 2
  let (s, pmd) := s.clampTo x.ring 0x70 13 (pk p 13 1) 0 2
  let (s, pcp) := s.clampTo x.ring 0x70 15 (pk p 15 1) 0 7
  let (s, vid) := s.clampTo x.ring 0x70 16 (pk p 16 2) 0 4095
  let s := (planesOf (pk p 8 4)).foldl (fun s n =>
    let a := FAB_PORT_CFG (n / 6) (n % 6)
    let w := FAB_PORT_CFG.EN.put 0 1
    let w := FAB_PORT_CFG.ETYPE.put w (pk p 18 2)
    let w := FAB_PORT_CFG.VID.put w vid
    let w := FAB_PORT_CFG.PCP.put w pcp
    let w := FAB_PORT_CFG.VLAN.put w (pk p 14 1 % 2)
    let w := FAB_PORT_CFG.PFC.put w (pk p 14 1 / 2 % 2)
    let w := FAB_PORT_CFG.RATE.put (FAB_PORT_CFG.PMD.put w pmd) rate
    let s := s.wr a w
    if s.portLink n = 3 then s
    else
      let s := s.setLink n 1
      { s with fab := { s.fab with training := s.fab.training ++ [(n, x.id)] } }) s
  s.trainingDone x.id

/-- A port's link goes: a pause ends with it, and frames it held are lost. -/
def State.unpause (s : State) (port : Nat) : State :=
  { s with fab := { s.fab with paused := s.fab.paused.filter (· != port), txHeld := s.fab.txHeld.filter fun e => e.1 != port } }

/-- A port's training ends (R346, R348, R376): UP with the settings it has now, or down; frames that waited elsewhere for a live plane toward
their peers leave by it. -/
def State.portTrained (s : State) (port : Nat) (ok : Bool) : State :=
  let waits := s.fab.training.filter fun e => e.1 == port
  let s := { s with fab := { s.fab with training := s.fab.training.filter fun e => e.1 != port } }
  let s := s.setLink port (if ok then 2 else 0)
  let s := if ok ∧ port < 24 then
      let cfg := s.rd (FAB_PORT_CFG (port / 6) (port % 6))
      let s : State := { s with fab := { s.fab with portCfg := s.fab.portCfg.set (fun _ => 0) port cfg } }
      s.setFld (portStatus port) FAB_PORT_STATUS.RATE_NOW (FAB_PORT_CFG.RATE.get cfg)
    else s
  let s := s.unpause port
  let s := if ok then ((s.closePort port).pumpPort port).rescueAll port else s
  waits.foldl (fun s e => s.trainingDone e.2) s

/-- R372: FAB_PORT_STATUS. -/
def State.opFabPortStatus (s : State) (x : CmdRec) : State := s.finish x.id stOk [s.linkMask 2, s.linkMask 3]

/-! ### Groups and channels (R356, R358, R371, R373) -/

/-- A member-table entry. -/
def memberOf (bs : List Byte) : Member :=
  let f := fieldOf bs
  { mac := f 0 6, mode := f 6 1, amac := f 8 6, serial := f 16 8, aserial := f 24 8 }

/-- The sources that can send to this module on a channel of a group (R358). -/
def GroupSt.sources (G : GroupSt) : Nat := if G.members.any fun m => m.mode != 0 then 2 * G.fanin else G.fanin

/-- The credit a receive store of `len` bytes allows a group's sources: CINIT, reduced to fit. -/
def GroupSt.creditFor (G : GroupSt) (len : Nat) : Nat := min G.cinit (len / 4096 / G.sources)

/-- A channel of a group that is set: RSNs and counts from 0 (R371). -/
def ChanSt.fresh (C : ChanSt) (G : GroupSt) : ChanSt :=
  { C with rsn := 0, rsnOpen := 0, reds := [], early := [], credits := [], credit := max 1 (G.creditFor C.rblen) }

/-- DL_SOFT and DL_HARD of a packet, clamped (R373). -/
def State.deadlines (s : State) (x : CmdRec) (op off : Nat) : State × Nat × Nat :=
  let (s, soft) := s.clampTo x.ring op off (pk x.pkt off 4) 1 10000000
  let (s, hard) := s.clampTo x.ring op (off + 4) (pk x.pkt (off + 4) 4) soft 60000000
  (s, soft, hard)

/-- R356, R372: GROUP_SET. -/
def State.opGroupSet (s : State) (x : CmdRec) : State :=
  let p := x.pkt
  let g := pk p 8 1
  let n := max 1 (pk p 14 2)
  let rank := pk p 12 2
  let alt := pk p 10 1 % 2 == 1
  if 16 ≤ g ∨ n ≤ rank then s.reply x stUnsupported
  else match s.cmdRead (pkPhys p) (pk p 24 8) (32 * n) with
  | none => s.reply x stHwError
  | some bs =>
    let ms := (List.range n).map fun i => memberOf ((bs.drop (32 * i)).take 32)
    let mine := match ms[rank]? with
      | some m => (if alt then m.amac else m.mac) == s.fuses.macBase.toNat && !(alt && m.mode == 0)
      | none => false
    if !mine ∨ ms.any fun m => 2 < m.mode then s.reply x stUnsupported
    else
      let (s, fanin) := s.clampTo x.ring 0x72 9 (pk p 9 1) 1 16
      let (s, _) := s.clampTo x.ring 0x72 14 (pk p 14 2) 1 65535
      let (s, cinit) := s.clampTo x.ring 0x72 16 (pk p 16 4) 1 512
      let (s, soft, hard) := s.deadlines x 0x72 32
      let G : GroupSt := { fanin := fanin, alt := alt, rank := rank, members := ms, cinit := cinit, soft := soft, hard := hard }
      let chans := s.fab.chans.map fun e => (e.1, e.2.map fun C => if C.group = g then C.fresh G else C)
      let s := { s with fab := { s.fab with groups := s.fab.groups.set (fun _ => none) g (some G), chans := chans }
                        upd := { s.upd with attempt := 0 } }
      s.finish x.id stOk [cinit]

/-- Whether a store lies in SPILL bonded SRAM of a die: every page of it (R358). -/
def State.storeIn (s : State) (phys : Bool) (d : DieId) (a n : Nat) : Bool :=
  (pageCuts a n).all fun (lo, m) => match s.cmdAddr phys lo .write with
    | some pa => s.spillBonded d pa m && s.homeDie pa == d
    | none => false

/-- R358, R372: CHAN_SET. -/
def State.opChanSet (s : State) (x : CmdRec) : State :=
  let p := x.pkt
  let c := pk p 8 1
  let g := pk p 9 1
  if 64 ≤ c ∨ 16 ≤ g then s.reply x stUnsupported
  else match s.group g with
  | none => s.reply x stUnsupported
  | some G =>
    let d := chanDie c
    if !s.storeIn (pkPhys p) d (pk p 16 8) (pk p 24 4) ∨ !s.storeIn (pkPhys p) d (pk p 28 8) (pk p 36 4) then
      s.reply x stUnsupported
    else if G.creditFor (pk p 24 4) = 0 then s.reply x stNoResource
    else
      let credit := G.creditFor (pk p 24 4)
      let s := if credit = G.cinit then s else s.clamp x.ring 0x73 0 0 24 G.cinit credit
      let (s, cls) := s.clampTo x.ring 0x73 40 (pk p 40 1) 0 3
      let C : ChanSt := { group := g, planes := pk p 12 4 % 2 ^ 24, rbuf := pk p 16 8, rblen := pk p 24 4, bkbuf := pk p 28 8
                          bklen := pk p 36 4, cls := BitVec.ofNat 2 cls, credit := credit }
      (s.setChan c C).finish x.id stOk [credit]

/-- A shard entry (R360), GLEN rounded up to a multiple of 4. -/
def shardEntry (bs : List Byte) : Shard :=
  let f := fieldOf bs
  { tag := f 0 2, chan := f 2 1 % 64, gchan := f 3 1 % 64, owner := f 4 2, flags := f 6 1, group := f 7 1 % 16, gsrc := f 8 8
    glen := (f 16 4 + 3) / 4 * 4, lobj := BitVec.ofNat 18 (f 20 4), lstep := f 24 4, gadr := f 32 8, gathlen := f 40 4, bytes := bs }

/-- Whether the names of a shard entry are set: its channels, its group, its owner. -/
def State.shardOk (s : State) (e : Shard) : Bool :=
  (s.chan e.chan).isSome && (s.chan e.gchan).isSome &&
  match s.group e.group with
  | some G => decide (e.owner < G.members.length)
  | none => false

/-- R360, R372: SHARD_SET. -/
def State.opShardSet (s : State) (x : CmdRec) : State :=
  let p := x.pkt
  let n := max 1 (pk p 16 2)
  match s.cmdRead (pkPhys p) (pk p 8 8) (64 * n) with
  | none => s.reply x stHwError
  | some bs =>
    let raw := (List.range n).map fun i => (bs.drop (64 * i)).take 64
    let es := raw.map shardEntry
    if !es.all s.shardOk ∨ !noPair (fun (a b : Shard) => a.tag == b.tag) es then s.reply x stUnsupported
    else
      let (s, _) := s.clampTo x.ring 0x74 16 (pk p 16 2) 1 65535
      let s := s.clamps x.ring 0x74 (((List.range n).zip raw).map fun (i, b) =>
        (4, i, 16, fieldOf b 16 4, (fieldOf b 16 4 + 3) / 4 * 4))
      ({ s with fab := { s.fab with shards := es } }).reply x stOk

/-- R372: DEADLINE_SET; the values take effect at the next STEP_OPEN. -/
def State.opDeadlineSet (s : State) (x : CmdRec) : State :=
  let g := pk x.pkt 8 1
  match if g < 16 then s.group g else none with
  | none => s.reply x stUnsupported
  | some G =>
    let (s, soft, hard) := s.deadlines x 0x75 12
    let G := { G with next := some (soft, hard) }
    ({ s with fab := { s.fab with groups := s.fab.groups.set (fun _ => none) g (some G) } }).reply x stOk

/-- R372: GROUP_CLEAR unbinds the group's channels. -/
def State.opGroupClear (s : State) (x : CmdRec) : State :=
  let g := pk x.pkt 8 1
  if 16 ≤ g then s.reply x stUnsupported
  else
    let bound (o : Option ChanSt) : Bool := match o with | some C => C.group == g | none => false
    ({ s with fab := { s.fab with groups := s.fab.groups.set (fun _ => none) g none
                                  chans := s.fab.chans.filter fun e => !bound e.2 } }).reply x stOk

/-! ### The twin's commands (R383, R387, R392, R394) -/

/-- R394: TWN_BOND applied in IDLE: the bond begins; a bond that stands or is being made leaves no place for another. `mirdig`
is what firmware computes over its latest mirror slot. -/
def State.opTwnBond (s : State) (x : CmdRec) (mirdig : BitVec 256) : State :=
  let p := x.pkt
  let mode := pk p 8 1
  let source := pk p 9 1
  if mode = 0 ∨ 2 < mode ∨ 2 < source then s.reply x stUnsupported
  else match s.twin with
  | 0 | 5 =>
    let (s, t) := s.clampTo x.ring 0x78 24 (pk p 24 4) 1 60000
    s.startBond { mode := mode, source := source, peer := pk p 16 8, timeout := t, split := s.twin == 5 } (some x.id) mirdig
  | _ => s.reply x stBusy

/-- R390, R392: TWN_UNBOND: SPLIT ends at once; a bond drains its step first; with no bond there is nothing to end. A bond being
made is given up, and its TWN_BOND completes ABORTED. -/
def State.opTwnUnbond (s : State) (x : CmdRec) : State :=
  match s.twin with
  | 0 => s.reply x stOk
  | 1 => (s.endBond stAborted 0 0).reply x stOk
  | 5 =>
    let s := (s.setTwin 0).modTwn fun t => { t with set := none, peerMac := 0, peerNonce := none }
    s.reply x stOk
  | _ =>
    if s.twn.unbondCmd.isSome then s.reply x stBusy
    else
      let s := s.modTwn fun t => { t with unbondCmd := some x.id }
      if s.phase = 0 then s.unbondGo else (s.setTwin 4).defer x.id

/-- R383, R394: TWN_MIRROR_SET. -/
def State.opTwnMirrorSet (s : State) (x : CmdRec) : State :=
  let p := x.pkt
  match s.cmdAddr (pkPhys p) (pk p 8 8) .write with
  | none => s.reply x stHwError
  | some pa =>
    let base := pa / 4096 * 4096
    let len := (pk p 16 8 + 4095) / 4096 * 4096
    let ok (a : Nat) : Bool := match s.place a with
      | .lpddr | .bonded _ => true
      | _ => false
    let free := s.rangeAll 0 base (base + 2 * len) (· != .streamRo)
    if !ok base ∨ !ok (base + 2 * len - 1) then s.reply x stHwError
    else if !free then s.reply x stUnsupported
    else
      let (s, _) := s.alignTo x.ring 0x7A 8 (pk p 8 8) 4096
      let (s, _) := s.roundTo x.ring 0x7A 16 (pk p 16 8) 4096
      let s := s.setFld TWN_MIRROR_BASE TWN_MIRROR_BASE.BASE (base / 4096)
      (s.setFld TWN_MIRROR_SLOT TWN_MIRROR_SLOT.SLOTLEN (len / 4096)).reply x stOk

/-- R394: TWN_STATUS. -/
def State.opTwnStatus (s : State) (x : CmdRec) : State :=
  let me (i : Nat) : Nat := if s.slotFull i then s.slotEpoch i else 0
  s.finish x.id stOk [(s.rd TWN_STATUS).toNat, (s.rd TWN_PEER).toNat, me 0, me 1]

/-- R394: TWN_STORE stores the settings of the latest TWN_BOND for start-up step 12. -/
def State.opTwnStore (s : State) (x : CmdRec) : State :=
  (s.modTwn fun t => { t with stored := t.set }).reply x stOk

end Sys2Proof.Machine
end

