-- ==== Sys2Proof/Machine/StepCmds.lean ====
section
/-!
DEFINITION. Sys2Proof/Machine/StepCmds.lean: what the update and replay commands do when they apply (R320 to R327, R341, R449,
R501 to R507).
-/
namespace Sys2Proof.Machine

/-! ### Update commands (R323, R449) -/

/-- The COMMAND record of a consumed packet (R501, R503). -/
def State.cmdRecord (s : State) (r : RingId) (slot seq : Nat) (p : Packet) : State :=
  if s.records 0 then
    s.rplWrite 0x02 (toLe 2 r.toNat ++ toLe 2 slot ++ toLe 4 seq ++ toLe 64 p.toNat)
  else s

/-- R320, R323: STEP_OPEN in IDLE opens the next epoch; in OPEN it has no effect. The STEP_OPEN at which a recording begins is
the first command of its log (R501). -/
def State.opStepOpen (s : State) (x : CmdRec) : State :=
  if s.phase = 0 then
    let before := s.recording
    let (s, st) := s.stepOpen
    (if before then s else s.cmdRecord x.ring x.slot x.seq x.pkt).reply x st
  else s.reply x stOk

/-- R321, R323: STEP_CLOSE in OPEN closes the step and completes when it ends; in the other phases it has no effect. -/
def State.opStepClose (s : State) (x : CmdRec) : State := if s.phase = 1 then s.stepClose x.id else s.reply x stOk

/-- R324 to R327: PLAN_INSTALL. -/
def State.opPlanInstall (s : State) (x : CmdRec) : State :=
  let (s, st) := s.installPlan x.ring (pkPhys x.pkt) (pk x.pkt 8 8)
  s.reply x st

/-- R341: SCHED_SET. -/
def State.opSchedSet (s : State) (x : CmdRec) : State :=
  let (s, st) := s.installSched x.ring (pkPhys x.pkt) (pk x.pkt 8 8)
  s.reply x st

/-- R449: STEP_STATUS. -/
def State.opStepStatus (s : State) (x : CmdRec) : State :=
  s.finish x.id stOk [(s.rd UPD_EPOCH).toNat, (s.rd UPD_COMMITTED).toNat, (s.rd UPD_PHASE).toNat]

/-! ### Replay commands (R507) -/

/-- The object list of RPL_RECORD_START: up to `n` pairs of object IDs, to a zero entry; none where it cannot be read. -/
def State.objList (s : State) (phys : Bool) (a : Nat) : Nat → Option (List (ObjId × ObjId))
  | 0 => some []
  | n + 1 =>
    match s.cmdRead phys a 8 with
    | none => none
    | some bs =>
      if leNat bs = 0 then some []
      else (s.objList phys (a + 8) n).map fun l => (BitVec.ofNat 18 (fieldOf bs 0 4), BitVec.ofNat 18 (fieldOf bs 4 4)) :: l

/-- R501, R507: RPL_RECORD_START in IDLE arms the recorder. -/
def State.opRplRecordStart (s : State) (x : CmdRec) : State :=
  let p := x.pkt
  let mask := BitVec.ofNat 8 (pk p 24 1)
  if s.fld RPL_STATUS RPL_STATUS.RECORD ≠ 0 then s.reply x stBusy
  else match s.cmdAddr (pkPhys p) (pk p 8 8) .write,
      (if mask.getLsbD 3 ∧ pk p 32 8 ≠ 0 then s.objList (pkPhys p) (pk p 32 8) 16 else some []) with
  | some base, some objs =>
    let (s, len) := s.roundTo x.ring 0x90 16 (pk p 16 8) 4096
    let s := { s with rpl := { s.rpl with base := base, len := len, mask := mask, objs := objs, seq := 0, syncs := [], fabs := [] } }
    let s := s.wr RPL_PTR 0
    ((s.setFld RPL_STATUS RPL_STATUS.RECORD 1).setFld RPL_STATUS RPL_STATUS.FULL 0).reply x stOk
  | _, _ => s.reply x stHwError

/-- The words RPL_RECORD_STOP answers with. -/
def State.recordWords (s : State) : List Nat := [(s.rd RPL_PTR).toNat, s.fld RPL_STATUS RPL_STATUS.EPOCH]

/-- R501, R507: RPL_RECORD_STOP: an armed recorder is disarmed; in IDLE the recording ends at once; in a step it ends at the
step boundary. -/
def State.opRplRecordStop (s : State) (x : CmdRec) : State :=
  match s.fld RPL_STATUS RPL_STATUS.RECORD with
  | 0 => s.finish x.id stOk s.recordWords
  | 1 => let s := s.setFld RPL_STATUS RPL_STATUS.RECORD 0; s.finish x.id stOk s.recordWords
  | _ =>
    if s.phase = 0 then let s := s.rplEnd 0; s.finish x.id stOk s.recordWords
    else s.setFld RPL_STATUS RPL_STATUS.RECORD 3

/-- R507: RPL_STATUS. -/
def State.opRplStatus (s : State) (x : CmdRec) : State :=
  s.finish x.id stOk [(s.rd RPL_STATUS).toNat, (s.rd RPL_PTR).toNat, (s.rd RPL_DIVERGE).toNat]

/-- The mark of a running RPL_REPLAY_START in its command's data. -/
def playMark : Nat := 0x504C4159

/-- R504, R507: RPL_REPLAY_START in IDLE, with UPD_COMMITTED one below the epoch of the log's first STEP record. -/
def State.opRplReplayStart (s : State) (x : CmdRec) : State :=
  let p := x.pkt
  match s.cmdAddr (pkPhys p) (pk p 8 8) .read with
  | none => s.reply x stHwError
  | some base =>
    let old := s.rpl
    let s1 : State := { s with rpl := { s.rpl with rBase := base, rLen := pk p 16 8, rPos := 0, forced := [], free := [] } }
    let first := s1.replayRecords.find? fun r => r.head? == some 1
    let fits := match first with
      | some r => recNum r 24 8 == (s.rd UPD_COMMITTED).toNat + 1
      | none => false
    if s.replaying ∨ !fits then ({ s1 with rpl := old }).reply x stBusy
    else
      let s := s1.setFld RPL_STATUS RPL_STATUS.REPLAY 1
      let s := s.setFld RPL_STATUS RPL_STATUS.STRICT (pk p 24 1 % 2)
      let s := if s.recording then s else s.wr RPL_PTR 0
      s.modCmd x.id fun c => { c with data := [playMark, (s.rd RPL_DIVERGE).toNat] }

/-- The replay ends: the waiting commands complete, RPL_REPLAY_START with the divergences since its start and the last epoch. -/
def State.replayEnd (s : State) (st : BitVec 8) : State :=
  let s := (s.setFld RPL_STATUS RPL_STATUS.REPLAY 0).setFld RPL_STATUS RPL_STATUS.STRICT 0
  let s := { s with rpl := { s.rpl with forced := [], free := [] } }
  s.host.cmds.foldl (fun s c =>
    if c.data.head? = some playMark then
      s.finish c.id st [(s.rd RPL_DIVERGE).toNat - c.data.getD 1 0, s.fld RPL_STATUS RPL_STATUS.EPOCH]
    else if pkOp c.pkt = 0x94 then s.finish c.id stOk []
    else s) s

/-- R507: RPL_REPLAY_STOP: in IDLE the replay stops at once, in a step at its boundary. -/
def State.opRplReplayStop (s : State) (x : CmdRec) : State :=
  if !s.replaying then s.reply x stOk
  else if s.phase = 0 then s.replayEnd stAborted
  else s.setFld RPL_STATUS RPL_STATUS.REPLAY 2

/-- R507: RPL_MARK writes a NOTE while recording. -/
def State.opRplMark (s : State) (x : CmdRec) : State :=
  if s.recording then (s.rplWrite 0x0D (toLe 48 (pk x.pkt 16 48))).reply x stOk else s.reply x stNoResource

/-- What a commit does to recording and replay that are to stop at the step boundary (R501, R504, R505). -/
def State.rplBoundary (s : State) : State :=
  let s := if s.fld RPL_STATUS RPL_STATUS.RECORD = 3 then s.rplEnd 0 else s
  if s.fld RPL_STATUS RPL_STATUS.REPLAY = 2 then s.replayEnd stAborted else s

/-- The log's next COMMAND record at or after the bytes read, with its end. -/
def State.logNext (s : State) : Option (List Byte × Nat) :=
  let rec go : Nat → Nat → List (List Byte) → Option (List Byte × Nat)
    | 0, _, _ => none
    | _, _, [] => none
    | k + 1, o, r :: rest =>
      let e := o + r.length
      if s.rpl.rPos ≤ o ∧ r.head? = some 2 then some (r, e) else go k e rest
  let rs := s.replayRecords
  go rs.length 0 rs

/-- Recording and replay as they stand: a stop with nothing left to record completes; a replay whose commands are all consumed
and finished, in IDLE, ends. -/
def State.rplSettle (s : State) : State :=
  let s := if s.fld RPL_STATUS RPL_STATUS.RECORD = 3 then s
    else s.host.cmds.foldl (fun s c => if pkOp c.pkt = 0x91 then s.finish c.id stOk s.recordWords else s) s
  if s.replaying ∧ s.phase = 0 ∧ s.logNext.isNone ∧ !s.host.cmds.any (·.replayed) then
    s.replayEnd (if s.fld RPL_STATUS RPL_STATUS.REPLAY = 2 then stAborted else stOk)
  else s

end Sys2Proof.Machine
end

