-- ==== Sys2Proof/Machine/MemCmds.lean ====
section
/-!
DEFINITION. Sys2Proof/Machine/MemCmds.lean: what the identity, status and memory commands do (R446, R447), with the fence status
(R451).
-/
namespace Sys2Proof.Machine

/-! ### Identity and status (R446) -/

/-- Whether a core is fenced, a fused-off one apart. -/
def State.fencedCore (s : State) (c : CoreId) : Bool := s.enabled c && s.fenced c

/-- A mask of 1,024 cores as 128 bytes. -/
def coreMask (p : CoreId → Bool) : List Byte :=
  (List.range 128).map fun i => BitVec.ofNat 8
    ((List.range 8).map fun j => if p (BitVec.ofNat 10 (8 * i + j)) then 2 ^ j else 0).sum

/-- The 512-byte identity block. -/
def State.identity (s : State) : List Byte :=
  toLe 2 0x1024 ++ toLe 1 s.fuses.grade.toNat ++ toLe 1 (Config.maker 0x10001 % 16) ++ toLe 8 s.fuses.serial.toNat ++
  toLe 6 s.fuses.macBase.toNat ++ toLe 2 (allCores.filter s.enabled).length ++ toLe 4 s.sys.version ++
  toLe 4 (s.fld (MEM_CHMAP 0) MEM_CHMAP.DEV_ACTIVE) ++ toLe 1 (s.fld (MEM_CHMAP 0) MEM_CHMAP.C) ++
  toLe 1 (s.fld MOD_LINK_STATUS MOD_LINK_STATUS.MODE) ++ toLe 2 0 ++ coreMask s.enabled ++ coreMask s.fencedCore ++
  toLe 8 s.lpddrSize ++ toLe 8 (s.rd UPD_COMMITTED).toNat ++ List.replicate 208 0

/-- A core record of ENUMERATE. -/
def State.coreRecord (s : State) (c : CoreId) : Nat :=
  c.toNat + (if s.enabled c then 2 ^ 10 else 0) + (if s.fencedCore c then 2 ^ 11 else 0) + (if (s.core c).parked then 2 ^ 12 else 0) +
  (if s.runs c then 2 ^ 13 else 0) + meshX c * 2 ^ 16 + meshY c * 2 ^ 20

/-- Bytes written at OUT of a packet. -/
def State.writeOut (s : State) (x : CmdRec) (bs : List Byte) : State :=
  let (s, ok) := s.cmdWrite (pkPhys x.pkt) (pk x.pkt 8 8) bs
  s.reply x (if ok then stOk else stHwError)

/-- R446: NOP. -/
def State.opNop (s : State) (x : CmdRec) : State := s.reply x stOk

/-- R446: IDENTIFY; a forerunner packet's writes the first 32 bytes (R440). -/
def State.opIdentify (s : State) (x : CmdRec) : State :=
  s.writeOut x (if pkVersion x.pkt = 1 then s.identity.take 32 else s.identity)

/-- R446: ENUMERATE. -/
def State.opEnumerate (s : State) (x : CmdRec) : State := s.writeOut x (allCores.flatMap fun c => toLe 4 (s.coreRecord c))

/-- R446: HEALTH. -/
def State.opHealth (s : State) (x : CmdRec) : State :=
  s.finish x.id stOk [(s.rd UPD_COMMITTED).toNat, s.phase + s.twin * 256, (allCores.filter s.fencedCore).length]

/-! ### COPY and FILL -/

/-- The die whose DMA engines a memory command's selector names: the module's is die 0, a die selector's the lowest selected. -/
def dmaDie (sel : BitVec 32) : Except (BitVec 8) DieId :=
  match selLevel sel with
  | 0 => .ok 0
  | 1 => match allDies.find? (selDie sel) with
    | some d => .ok d
    | none => .error stNoResource
  | _ => .error stUnsupported

/-- A command's DMA joins those that wait for a tag on a die. -/
def State.queueDma (s : State) (d : DieId) (m : DmaSt) : State := s.modDie d fun D => { D with dmaWait := D.dmaWait ++ [m] }

/-- R447: COPY, as a COPY descriptor. -/
def State.opCopy (s : State) (x : CmdRec) : State :=
  let p := x.pkt
  let f := pk p
  match dmaDie (pkSel p) with
  | .error st => s.reply x st
  | .ok d =>
    let v1 := pkVersion p == 1
    let (s, cls) := if v1 then (s, 1) else s.clampTo x.ring 0x10 32 (f 32 1) 0 3
    let sync := if v1 then 0 else f 33 1 % 2
    s.queueDma d { tag := 0, gen := 0, owner := .cmd x.id, op := 1, flags := BitVec.ofNat 8 sync, cls := BitVec.ofNat 2 cls, len := f 24 8
                   src := f 8 8, dst := f 16 8, rows := 1, sstride := 0, dstride := 0, obj := BitVec.ofNat 18 (f 36 4)
                   amt := BitVec.ofNat 64 (f 40 8), phys := pkPhys p }

/-- R447: FILL, as a FILL descriptor of class 0; a forerunner packet's is of class 1 (R440). -/
def State.opFill (s : State) (x : CmdRec) : State :=
  let p := x.pkt
  let f := pk p
  match dmaDie (pkSel p) with
  | .error st => s.reply x st
  | .ok d =>
    s.queueDma d { tag := 0, gen := 0, owner := .cmd x.id, op := 2, flags := 0, cls := if pkVersion p = 1 then 1 else 0, len := f 24 8
                   src := f 8 8, dst := f 16 8, rows := 1, sstride := 0, dstride := 0, obj := 0, amt := 0, phys := pkPhys p }

/-! ### Mappings (R237, R238) -/

/-- `n` pages mapped from `va` to `pa`. -/
def State.mapPages (va pa size perm : Nat) : Nat → State → Option State
  | 0, s => some s
  | n + 1, s => match s.mapPage va pa size perm with
    | none => none
    | some s => State.mapPages (va + size) (pa + size) size perm n s

/-- A command whose old translations must fall out of use: its reply waits for the accesses that use them. -/
def State.awaitRanges (s : State) (x : CmdRec) (rs : List (Nat × Nat)) : State :=
  (s.modCmd x.id fun c => { c with data := mapMark :: rs.flatMap fun (a, n) => [a, n] }).mapsDone

/-- A range mapped page by page, or noted for mapping on demand (R447). -/
def State.mapOrNote (s : State) (demand : Bool) (va pa size perm len : Nat) : Option State :=
  if demand then some { s with host := { s.host with demand := s.host.demand ++ [⟨va, len, pa, perm, size⟩] } }
  else State.mapPages va pa size perm (len / size) s

/-- R447: MAP. -/
def State.opMap (s : State) (x : CmdRec) : State :=
  let p := x.pkt
  let perm := pk p 32 1 % 8
  let code := pk p 33 1
  let size := match code with | 0 => 4096 | 1 => 2 ^ 16 | _ => 2 ^ 21
  let va := pk p 8 8 / size * size
  let len := (pk p 24 8 + size - 1) / size * size
  if 2 < code ∨ 2 ^ 47 < va + len ∨ 2 ^ 47 ≤ pk p 8 8 ∨ perm = 0 then s.reply x stUnsupported
  else
    let (s, _) := s.alignTo x.ring 0x12 8 (pk p 8 8) size
    let (s, pa) := s.alignTo x.ring 0x12 16 (pk p 16 8) size
    let (s, _) := s.roundTo x.ring 0x12 24 (pk p 24 8) size
    match s.unmapRange va len with
    | none => s.reply x stNoResource
    | some (t, old) =>
      let t := t.dropDemand va len
      match t.mapOrNote (pk p 34 1 % 2 == 1) va pa size perm len with
      | none => s.reply x stNoResource
      | some u => (u.dropXlate va len).awaitRanges x old

/-- R447: UNMAP; of a host-shared range, what every cache of the module holds is dropped (R238). -/
def State.opUnmap (s : State) (x : CmdRec) : State :=
  let p := x.pkt
  let (s, va) := s.alignTo x.ring 0x13 8 (pk p 8 8) 4096
  let (s, len) := s.roundTo x.ring 0x13 16 (pk p 16 8) 4096
  let hi := min (va + len) (2 ^ 47)
  match s.unmapRange va (hi - va) with
  | none => s.reply x stNoResource
  | some (t, old) =>
    let host := allDies.flatMap fun d => ((s.die d).atc.filter fun e =>
      decide (e.va < va + len) && decide (va < e.va + 4096)).map fun e => (e.pa, 4096)
    ((t.dropDemand va len).dropXlate va len).awaitRanges x (old ++ host)

/-- R447: PT_POOL. -/
def State.opPtPool (s : State) (x : CmdRec) : State :=
  let p := x.pkt
  let (s, base) := s.alignTo x.ring 0x15 8 (pk p 8 8) 4096
  let (s, len) := s.roundTo x.ring 0x15 16 (pk p 16 8) 4096
  let there (a : Nat) : Bool := match s.place a with
    | .lpddr | .bonded _ => true
    | _ => false
  if len ≠ 0 ∧ !(there base && there (base + len - 1)) then s.reply x stHwError
  else
    let old := s.host.pools.filter fun q => !q.used.isEmpty
    let s : State := { s with host := { s.host with pools := { base := base, len := len } :: old } }
    s.finish x.id stOk [(old.map fun q => q.used.length).sum]

/-! ### Tables (R210, R211, R274, R280) -/

/-- R210, R211, R447: MARK applied with no step open: the entry of every die's table, and every core cache invalidated. -/
def State.opMark (s : State) (x : CmdRec) : State :=
  let p := x.pkt
  let n := pk p 8 1
  let m := pk p 9 1
  if 64 ≤ n ∨ (2 < m ∧ m ≠ 255) then s.reply x stUnsupported
  else
    let s :=
      if m = 255 then allDies.foldl (fun s d => s.rgnWrite d n false (MEM_RGN_BASE.V.put (s.rd (MEM_RGN_BASE d.toNat n)) 0)) s
      else
        let (s, base) := s.alignTo x.ring 0x14 16 (pk p 16 8) (2 ^ 16)
        let limit := pk p 24 8
        let (s, limit) := if limit < base then (s.clamp x.ring 0x14 0 0 24 limit base, base) else (s, limit)
        let w := MEM_RGN_BASE.MARK.put (MEM_RGN_BASE.BASE.put (MEM_RGN_BASE.V.put 0 1) (base / 2 ^ 16)) m
        allDies.foldl (fun s d =>
          (s.rgnWrite d n false w).rgnWrite d n true (MEM_RGN_LIMIT.LIMIT.put 0 (limit / 2 ^ 16))) s
    (allCores.foldl State.invalidate s).reply x stOk

/-- R274, R447: RED_SET writes the entry of every die's table. -/
def State.opRedSet (s : State) (x : CmdRec) : State :=
  let p := x.pkt
  let n := pk p 8 1
  if 64 ≤ n then s.reply x stUnsupported
  else
    let (s, addr) := s.alignTo x.ring 0x16 16 (pk p 16 8) 256
    let (s, lines) := s.clampTo x.ring 0x16 24 (pk p 24 2) 1 65535
    let (s, expect) := s.clampTo x.ring 0x16 26 (pk p 26 2) 1 4095
    let cfg := NOC_RED_CFG.LINES.put (NOC_RED_CFG.EXPECT.put (NOC_RED_CFG.OBJ.put 0 (pk p 28 4)) expect) lines
    let w := NOC_RED_ADDR.ADDR.put (NOC_RED_ADDR.V.put 0 (pk p 9 1 % 2)) (addr / 256)
    (allDies.foldl (fun s d => (s.redWrite d n true cfg).redWrite d n false w) s).reply x stOk

/-- R280, R447: MCG_SET writes the entry of every die's table. -/
def State.opMcgSet (s : State) (x : CmdRec) : State :=
  let p := x.pkt
  let n := pk p 8 1
  let root := pk p 10 2
  if 64 ≤ n ∨ 1024 ≤ root then s.reply x stUnsupported
  else
    let (s, len) := s.clampTo x.ring 0x17 12 (pk p 12 2) 1 4095
    let (s, off) := s.clampTo x.ring 0x17 14 (pk p 14 2) 0 4095
    let set := NOC_MCG_SET.DIES.put 0 (pk p 16 1)
    let set := NOC_MCG_SET.X1.put (NOC_MCG_SET.X0.put set (pk p 17 1 % 16)) (pk p 17 1 / 16)
    let set := NOC_MCG_SET.Y1.put (NOC_MCG_SET.Y0.put set (pk p 18 1 % 16)) (pk p 18 1 / 16)
    let w := NOC_MCG_ADDR.OFFSET.put (NOC_MCG_ADDR.LEN.put (NOC_MCG_ADDR.ROOT.put (NOC_MCG_ADDR.V.put 0 (pk p 9 1 % 2)) root) len) off
    (allDies.foldl (fun s d => (s.mcgWrite d n false w).mcgWrite d n true set) s).reply x stOk

/-- The LPDDR5X pages of a range a command names, none where some page is not one (R426, R442). -/
def State.lpddrPages (s : State) (phys : Bool) (base len : Nat) : Option (List Nat) :=
  let pages := (List.range (len / 4096)).map fun i => s.cmdAddr phys (base + i * 4096) .read
  let there (o : Option Nat) : Bool := match o with
    | some pa => match s.place pa with | .lpddr => true | _ => false
    | none => false
  if pages.all there then some (pages.filterMap id) else none

/-- The unit of bias: 2 MiB (R426). -/
def biasPage : Nat := 2 ^ 21

/-- Device or host bias set on pages. -/
def State.setBias (s : State) (pages : List Nat) (dev : Bool) : State :=
  { s with host := { s.host with bias := pages.foldl (fun t pa => t.set (fun _ => false) (pa / biasPage) dev) s.host.bias } }

/-- Bias set on a range, where every page is LPDDR5X. -/
def State.biasRange (s : State) (x : CmdRec) (base len : Nat) : State :=
  match s.lpddrPages (pkPhys x.pkt) base len with
  | none => s.reply x stHwError
  | some pages => (s.setBias pages (pk x.pkt 24 1 == 1)).reply x stOk

/-- R426, R447: BIAS, in the CXL 2.0 and 1.1 modes. -/
def State.opBias (s : State) (x : CmdRec) : State :=
  let mode := s.fld MOD_LINK_STATUS MOD_LINK_STATUS.MODE
  if (mode ≠ 1 ∧ mode ≠ 2) ∨ 1 < pk x.pkt 24 1 then s.reply x stUnsupported
  else
    let a := s.alignTo x.ring 0x18 8 (pk x.pkt 8 8) biasPage
    let b := a.1.roundTo x.ring 0x18 16 (pk x.pkt 16 8) biasPage
    b.1.biasRange x a.2 b.2

/-! ### Fence status (R451) -/

/-- Word `w` of NOC_FENCE_MAP of a die: the cores fenced or fused off. -/
def State.fenceMap (s : State) (d w : Nat) : Nat :=
  ((List.range 64).map fun j => if s.fenced (BitVec.ofNat 10 (d * 256 + w * 64 + j)) then 2 ^ j else 0).sum

/-- R451: FENCE_STATUS. -/
def State.opFenceStatus (s : State) (x : CmdRec) : State :=
  s.finish x.id stOk ((List.range 16).map fun i => s.fenceMap (i / 4) (i % 4))

end Sys2Proof.Machine
end

