-- ==== Sys2Proof/Machine/Requests.lean ====
section
/-!
DEFINITION. Sys2Proof/Machine/Requests.lean: the events of line requests, the request sorters and the arbiters (R241 to R260).
-/
namespace Sys2Proof.Machine

/-- R246: the core's next line request enters its cluster's sorter, and the draws of the clock run. -/
def execLineRequest (c : CoreId) (draws : List Draw) (s : State) : Host.Outcome State Fault Refusal :=
  .next (((s.lineRequest c).sendFree (clusterOf c)).runDraws draws)

/-- A request of a sorter that has waited AGE_MAX: it is its queue's next, at once where no lottery stands before its target (R248). -/
def State.ageEntry (s : State) (k : ClusterId) (line : Nat) : State :=
  let S := s.sorter k
  (s.setSorter k { S with entries := modFirst (fun e => e.line == line && !e.sent) (fun e => { e with aged := true }) S.entries }).sendFree k

/-- R248: a request that has waited AGE_MAX in its queue is sent next. -/
def execSorterAgeExpire (k : ClusterId) (line : BitVec 52) (s : State) : Host.Outcome State Fault Refusal :=
  .next (s.ageEntry k line.toNat)

/-- A line's response of five flits comes from its tier to the first core that asked; the sorter's router hands the other cores of the
read their copies (R247, R264). -/
def State.respond (s : State) (line : Nat) : List CoreId → State
  | [] => s
  | c :: cs => cs.foldl (fun s c => s.flitOut c 4 5) (s.send (s.tierEp line) (coreEp c) 5)

/-- Whether the response to a sorter's entry may come: its read has been admitted (R255), its port has the tokens (R271), and the crossings
of the cores it serves take it (R28). -/
def State.mayRespond (s : State) (e : SortEntry) (l : CacheLine) : Bool :=
  e.sent && e.adm && !s.paced (s.tierEp e.line) 5 && e.cores.all fun c => s.ejects c (.line l)

/-- R241, R244, R247: after the draws of the clocks before it, a line's data or poison arrives: every core the read serves gets it, its
miss register frees and takes the oldest parked request, and what waited goes on. -/
def execLineResponse (k : ClusterId) (line : BitVec 52) (draws : List Draw) (s : State) : Host.Outcome State Fault Refusal :=
  let s := (s.sendFree k).runDraws draws
  let l := s.lineAt line.toNat
  .next <| match (s.sorter k).entries.find? fun e => e.line == line.toNat && s.mayRespond e l with
  | none => s
  | some e =>
    let S := s.sorter k
    let s := (s.setSorter k { S with entries := S.entries.erase e }).respond line.toNat e.cores
    ((e.cores.foldl (fun s c => s.eject c (.line l)) s).sendFree k).mapsDone

/-- R260: CLU_SORT_CTL.CNT_CLR. -/
def execCluSortCntClr (k : ClusterId) (s : State) : Host.Outcome State Fault Refusal :=
  .next (s.clear [CLU_SORT_REQ k.toNat, CLU_SORT_MERGED k.toNat, CLU_SORT_ROWHIT k.toNat])

/-- MEM_DMA_CTL.CNT_CLR: the counters are cleared, and LOW starts again from the tags free now (R260). -/
def State.dmaClear (s : State) (d : DieId) : State :=
  (s.clear [MEM_TAG_WAIT d.toNat, MEM_CHQ_HELD d.toNat]).setFld (MEM_TAG_STATUS d.toNat) MEM_TAG_STATUS.LOW (s.tagsFree d)

/-- R260: MEM_DMA_CTL.CNT_CLR. -/
def execMemDmaCntClr (d : DieId) (s : State) : Host.Outcome State Fault Refusal := .next (s.dmaClear d)

/-- R260: ARB_CTL.CNT_CLR. -/
def execArbCntClr (d : DieId) (s : State) : Host.Outcome State Fault Refusal := .next (s.clear [ARB_STARVE_CNT d.toNat])

/-- R258: a ticket or class write is in force at the next draw. -/
def execArbTicketWrite (d : DieId) (t : BitVec 3) (slot : BitVec 9) (v : Word) (s : State) : Host.Outcome State Fault Refusal :=
  .next (if t.toNat < 5 then s.plainWrite (ARB_TKT d.toNat t.toNat slot.toNat) v else s)

/-- An arbiter's LFSR set; 0 stores 1 (R258). -/
def State.arbSeed (s : State) (d : DieId) (i : Nat) (v : BitVec 32) : State :=
  (s.wr (ARB_SEED d.toNat i) ((seedStore v).zeroExtend 64)).rplSeed 4 1 (i + d.toNat * 512) (seedStore v)

/-- R258: a seed write sets the instance's LFSR; there are 277 instances. -/
def execArbSeedWrite (d : DieId) (i : BitVec 9) (v : BitVec 32) (s : State) : Host.Outcome State Fault Refusal :=
  .next (if i.toNat < 277 then s.arbSeed d i.toNat v else s)

end Sys2Proof.Machine
end

