-- ==== Sys2Proof/Machine/SyncCmds.lean ====
section
/-!
DEFINITION. Sys2Proof/Machine/SyncCmds.lean: what the sync commands (R450) and the configuration commands (R452 to R455) do.
-/
namespace Sys2Proof.Machine

/-! ### Sync commands (R450) -/

/-- The object a packet names at byte 8. -/
def pkObj (p : Packet) : ObjId := BitVec.ofNat 18 (pk p 8 4)

/-- The 64-bit parameter at byte 16. -/
def pkVal (p : Packet) : Word := BitVec.ofNat 64 (pk p 16 8)

/-- R296, R450: SYNC_ADV sends an advance; its reply comes with the slice's answer. -/
def State.opSyncAdv (s : State) (x : CmdRec) : State := s.sendAdv ⟨.cmd x.id, pkObj x.pkt, pkVal x.pkt⟩

/-- R450: SYNC_READ. -/
def State.opSyncRead (s : State) (x : CmdRec) : State := s.finish x.id stOk [(s.objVal (pkObj x.pkt)).toNat]

/-- R295, R450: SYNC_SET. -/
def State.opSyncSet (s : State) (x : CmdRec) : State := (s.valWrite (pkObj x.pkt) (pkVal x.pkt)).reply x stOk

/-- R297, R450: SYNC_ATTR. -/
def State.opSyncAttr (s : State) (x : CmdRec) : State := (s.attrWrite (pkObj x.pkt) (pkVal x.pkt)).reply x stOk

/-- A control-complex watch slot of a die. -/
def State.ccSlot (s : State) (d : DieId) (i : Nat) : CcWatch := s.sync.cc.get (fun _ => {}) (d.toNat * 64 + i)

/-- A control-complex watch slot set. -/
def State.setCcSlot (s : State) (d : DieId) (i : Nat) (w : CcWatch) : State :=
  { s with sync := { s.sync with cc := s.sync.cc.set (fun _ => {}) (d.toNat * 64 + i) w } }

/-- R300, R450: SYNC_WAIT registers a watch in the lowest free control-complex slot of the object's die, under the slot's next 4-bit
generation. -/
def State.opSyncWait (s : State) (x : CmdRec) : State :=
  let o := pkObj x.pkt
  let d := dieOfCluster (homeOf o).1
  if 3 < pk x.pkt 12 1 then s.reply x stUnsupported
  else match (List.range 64).find? fun i => (s.ccSlot d i).cmd.isNone with
  | none => s.reply x stNoResource
  | some i =>
    let g := ((s.ccSlot d i).gen + 1) % 16
    (s.setCcSlot d i { gen := g, cmd := some x.id }).sendReg
      { who := .cc d (BitVec.ofNat 6 i), gen := g, obj := o, cmp := BitVec.ofNat 2 (pk x.pkt 12 1), val := pkVal x.pkt }

/-- R300, R450: a SYNC_WAIT whose time passes: its watch is cancelled, which counts the slot's generation on, and the command completes
TIMEOUT. -/
def State.syncTimeout (s : State) (d : DieId) (i : BitVec 6) : State :=
  match (s.ccSlot d i.toNat).cmd with
  | none => s
  | some id => match s.cmd id with
    | none => s
    | some x =>
      if pk x.pkt 24 4 = 0 then s
      else
        let w := s.ccSlot d i.toNat
        ((s.cancelWatch (.cc d i)).setCcSlot d i.toNat { w with gen := (w.gen + 1) % 16, cmd := none }).finish id stTimeout []

/-- R310, R450: BAR_CFG applied, the line being used by no running work-group: scope, group and participation on every die. -/
def State.opBarCfg (s : State) (x : CmdRec) : State :=
  let p := x.pkt
  let n := pk p 8 1
  let g := pk p 10 1
  if 64 ≤ n ∨ (16 ≤ g ∧ g < 255) then s.reply x stUnsupported
  else
    let (s, scope) := s.clampTo x.ring 0x35 9 (pk p 9 1) 0 2
    let w := SYN_BAR_CFG.SCOPE.put (SYN_BAR_CFG.GROUP.put (SYN_BAR_CFG.CC.put 0 (pk p 11 1 % 2)) g) scope
    let s := { s with host := { s.host with barCfg := s.host.barCfg.set (fun _ => none) n (some w) } }
    (allDies.foldl (fun s d => s.barCfgWrite d (BitVec.ofNat 6 n) w) s).reply x stOk

/-- The dies a selector of module or die level names. -/
def selDies (sel : BitVec 32) : List DieId := allDies.filter (selDie sel)

/-- R305, R450: BAR_ARRIVE: the control complexes of the selected dies arrive; the reply comes when the line completes. -/
def State.opBarArrive (s : State) (x : CmdRec) : State :=
  let n : BitVec 6 := BitVec.ofNat 6 (pk x.pkt 8 1)
  let ds := selDies (pkSel x.pkt)
  if 64 ≤ pk x.pkt 8 1 ∨ 1 < selLevel (pkSel x.pkt) then s.reply x stUnsupported
  else if ds.isEmpty ∨ ds.any fun d => !s.barCc d n then s.reply x stNoResource
  else
    let s := ds.foldl (fun s d => let B := s.bar d n; s.setBar d n { B with cc := true, cmds := B.cmds ++ [x.id] }) s
    ds.foldl (fun s d => if (s.bar d n).cc then s.barTry d n else s) s

/-- A command that selects a fenced core: each such core's router answers FENCED and counts it, and the command completes FENCED (R285). -/
def State.refuseFenced (s : State) (x : CmdRec) (cs : List CoreId) : State :=
  ((cs.filter s.fenced).foldl (fun s c => (s.countFenced c).ctrl (coreEp c) (ccEp 0)) s).reply x stFenced

/-! ### Configuration settings (R453) -/

/-- The scope of a staged setting as a selector level. -/
def settingScope (n : Nat) : Option Nat :=
  match n with
  | 0x01 | 0x02 => some 3
  | 0x03 | 0x04 | 0x05 => some 4
  | 0x06 => some 2
  | 0x10 | 0x11 | 0x12 | 0x13 | 0x14 => some 1
  | 0x20 => some 0
  | _ => none

/-- The numbers of a setting, in byte order: offset in VALUE, bytes, least and greatest value; a greatest value below the least marks an address
that is a multiple of it (R100, R453). -/
def settingNums (n : Nat) : List (Nat × Nat × Nat × Nat) :=
  match n with
  | 0x01 => [(0, 1, 4, 48)]
  | 0x02 => [(0, 2, 1, 4095), (2, 1, 1, 15), (3, 1, 0, 1)]
  | 0x04 => [(0, 1, 0, 8)]
  | 0x05 => [(0, 1, 0, 3)]
  | 0x06 => [(0, 2, 1, 10000), (2, 1, 0, 1)]
  | 0x10 => [(0, 2, 64, 2048)]
  | 0x11 => [(0, 1, 1, 63)]
  | 0x12 => [(0, 1, 0, 1), (1, 1, 1, 255)]
  | 0x13 => [(0, 4, 1, 2 ^ 32 - 1), (4, 1, 0, 1)]
  | 0x14 => [(0, 2, 1, 65535), (2, 1, 0, 1)]
  | 0x20 => [(0, 1, 1, 64), (1, 1, 0, 4), (2, 1, 0, 24), (3, 1, 0, 24), (4, 1, 1, 16), (5, 1, 0, 2), (6, 1, 0, 1), (8, 6, 8, 0), (14, 2, 1, 4095)]
  | _ => []

/-- Bytes with `n` of them from byte `o` replaced. -/
def putBytes (bs : List Byte) (o n v : Nat) : List Byte := bs.take o ++ toLe n v ++ bs.drop (o + n)

/-- VALUE of a packet with its numbers clamped, each clamp recorded; TABLE of the chameleon block is 8-byte aligned. -/
def State.settingValue (s : State) (x : CmdRec) (n : Nat) : State × List Byte :=
  let src := if n = 0x20 then 5 else 0
  let off := if n = 0x20 then 0 else 16
  let bs := toLe 48 (pk x.pkt 16 48)
  (settingNums n).foldl (fun (s, bs) (o, k, lo, hi) =>
    let v := fieldOf bs o k
    let u := if lo ≤ hi then max lo (min hi v) else v / lo * lo
    (s.clampIn x.ring 0x40 src 0 (off + o) v u, putBytes bs o k u)) (s, bs)

/-- A field of VALUE. -/
def Gen.num (g : Gen) (o n : Nat) : Nat := fieldOf g.value o n

/-- A generation's core-scope values written into a core. -/
def State.genCore (s : State) (g : Gen) (c : CoreId) : State :=
  if !selCore g.sel c ∨ !s.enabled c ∨ s.fenced c then s
  else match g.setting with
  | 0x03 =>
    let a := COR_MTX_CTL c.toNat
    let v := g.num 0 1
    ((s.setFld a COR_MTX_CTL.ROWSKIP_EN (v % 2)).setFld a COR_MTX_CTL.TILESKIP_EN (v / 2 % 2)).setFld a COR_MTX_CTL.PRED_EN (v / 4 % 2)
  | 0x04 => (s.setFld (COR_HST_CTL c.toNat) COR_HST_CTL.SAMPLE (g.num 0 1)).setFld (COR_HST_CTL c.toNat) COR_HST_CTL.EBASE (g.num 1 1)
  | 0x05 => s.setFld (COR_MEM_CTL c.toNat) COR_MEM_CTL.SPLIT (g.num 0 1)
  | _ => s

/-- A generation's cluster-scope values written into a cluster. -/
def State.genCluster (s : State) (g : Gen) (k : ClusterId) : State :=
  let a := CLU_SORT_CTL k.toNat
  if !selCluster g.sel k then s
  else match g.setting with
  | 0x01 => s.setFld a CLU_SORT_CTL.QUOTA (g.num 0 1)
  | 0x02 => ((s.setFld a CLU_SORT_CTL.AGE_MAX (g.num 0 2)).setFld a CLU_SORT_CTL.ROW_BURST (g.num 2 1)).setFld a CLU_SORT_CTL.MERGE_EN (g.num 3 1)
  | _ => s

/-- R454: a generation's cluster-, core- and region-scope values written into a region. -/
def State.genRegion (s : State) (g : Gen) (r : RegionId) : State :=
  let s := (List.range 4).foldl (fun s i => s.genCluster g (BitVec.ofNat 6 (r.toNat * 4 + i))) s
  let s := (regionCores r).foldl (fun s c => s.genCore g c) s
  let a := SYN_LEND_CTL (r.toNat / 4) (r.toNat % 4)
  if g.setting = 0x06 ∧ selRegion g.sel r then (s.setFld a SYN_LEND_CTL.LEND_THR (g.num 0 2)).setFld a SYN_LEND_CTL.EN (g.num 2 1)
  else s

/-- R253, R454: a generation's die- and module-scope values written. -/
def State.genDies (s : State) (g : Gen) : State :=
  let s := (selDies g.sel).foldl (fun s d =>
    let n := d.toNat
    match g.setting with
    | 0x10 => s.setFld (MEM_DMA_CTL n) MEM_DMA_CTL.CH_QUOTA (g.num 0 2)
    | 0x11 => s.setFld (MEM_DMA_CTL n) MEM_DMA_CTL.BLOCKS (g.num 0 1)
    | 0x12 => (s.setFld (NOC_CTL n) NOC_CTL.COMB_EN (g.num 0 1)).setFld (NOC_CTL n) NOC_CTL.HOLD (g.num 1 1)
    | 0x13 => (s.setFld (SYN_DIE_CTL n) SYN_DIE_CTL.LATE_THR (g.num 0 4)).setFld (SYN_DIE_CTL n) SYN_DIE_CTL.LATE_IEN (g.num 4 1)
    | 0x14 => (s.setFld (ARB_STARVE_THR n) ARB_STARVE_THR.THR (g.num 0 2)).setFld (ARB_CTL n) ARB_CTL.STARVE_IEN (g.num 2 1)
    | _ => s) s
  if g.setting = 0x20 then { s with upd := { s.upd with chmNext := some (g.value.take 16) } } else s

/-! ### Generations (R454, R455) -/

/-- The regions a launch occupies (R407, R448). -/
def Launch.regions (L : Launch) : List RegionId := (L.cores.map regionOf).eraseDups

/-- Whether a work-group occupies a region. -/
def State.busyRegion (s : State) (r : RegionId) : Bool :=
  s.host.launches.any fun L => L.ph != LaunchPh.queued && L.regions.contains r

/-- A region's generation. -/
def State.genOf (s : State) (r : RegionId) : Nat := s.host.regionGen.get (fun _ => 0) r.toNat

/-- R454: a region applies every pending generation in order; with its rail off they count as applied (R455). -/
def State.applyRegion (s : State) (r : RegionId) : State :=
  let gs := s.host.gens.filter fun g => decide (s.genOf r < g.n)
  let off := s.railOff r
  let s := gs.foldl (fun s g => if off then s else s.genRegion g r) s
  { s with host := { s.host with regionGen := s.host.regionGen.set (fun _ => 0) r.toNat s.host.staged } }

/-- The mark of a CONFIG_COMMIT that waits, with its generation. -/
def commitMark : Nat := 0x434F4D4D

/-- R454: the commit points that have come: die- and module-scope values written, CONFIG_COMMITs completed. -/
def State.commitGens (s : State) : Nat → State
  | 0 => s
  | k + 1 =>
    let n := s.host.committed + 1
    if s.host.staged < n ∨ (List.range 16).any fun r => decide (s.genOf (BitVec.ofNat 4 r) < n) then s
    else
      let s := match s.host.gens.find? fun g => g.n == n with
        | some g => s.genDies g
        | none => s
      let s : State := { s with host := { s.host with committed := n } }
      let s := s.host.cmds.foldl (fun s c =>
        if c.data.head? = some commitMark ∧ c.data.getD 1 0 ≤ n then s.finish c.id stOk [] else s) s
      s.commitGens k

/-- Regions that run nothing apply what is pending, and generations that every region has reached are committed. -/
def State.rollGens (s : State) : State :=
  let s := (List.range 16).foldl (fun s r =>
    let r : RegionId := BitVec.ofNat 4 r
    if s.busyRegion r then s else s.applyRegion r) s
  s.commitGens 16

/-- The newest generation's values written again into a region whose rail comes on, or into one core that is unfenced (R286,
R455). -/
def State.regainRegion (s : State) (r : RegionId) : State :=
  (s.host.gens.filter fun g => decide (g.n ≤ s.genOf r)).foldl (fun s g => s.genRegion g r) s

/-- Its region's generation given to a core (R286). -/
def State.regainCore (s : State) (c : CoreId) : State :=
  (s.host.gens.filter fun g => decide (g.n ≤ s.genOf (regionOf c))).foldl (fun s g => s.genCore g c) s

/-- Whether a selector leaves nothing selected at a scope (R439). -/
def State.noneSelected (s : State) (sel : BitVec 32) (scope : Nat) : Bool :=
  match scope with
  | 0 => false
  | 1 => (selDies sel).isEmpty
  | 2 => !(List.range 16).any fun r => selRegion sel (BitVec.ofNat 4 r)
  | 3 => !(List.range 64).any fun k => selCluster sel (BitVec.ofNat 6 k)
  | _ => (s.selected sel).isEmpty

/-- R452 to R455: CONFIG_STAGE. -/
def State.opConfigStage (s : State) (x : CmdRec) : State :=
  let n := pk x.pkt 8 2
  let sel := pkSel x.pkt
  match settingScope n with
  | none => s.reply x stUnsupported
  | some scope =>
    if scope < selLevel sel then s.reply x stUnsupported
    else if s.noneSelected sel scope then s.reply x stNoResource
    else if 16 ≤ s.host.staged - s.host.committed then s.reply x stBusy
    else
      let (s, v) := s.settingValue x n
      let g := s.host.staged + 1
      let s : State := { s with host := { s.host with staged := g, gens := s.host.gens ++ [⟨g, n, v, sel⟩] } }
      let s := s.setFld CMD_STATUS CMD_STATUS.STAGED g
      (s.finish x.id stAccepted [g]).rollGens

/-- R452, R454: CONFIG_COMMIT. -/
def State.opConfigCommit (s : State) (x : CmdRec) : State :=
  let g := pk x.pkt 8 4
  let (s, g) := if g = 0 then (s, s.host.staged) else s.clampTo x.ring 0x41 8 g 0 s.host.staged
  if g ≤ s.host.committed then s.reply x stOk else s.modCmd x.id fun c => { c with data := [commitMark, g] }

/-- R452: CONFIG_STATUS. -/
def State.opConfigStatus (s : State) (x : CmdRec) : State :=
  s.finish x.id stOk ([s.host.staged, s.host.committed] ++ (List.range 16).map fun r => s.genOf (BitVec.ofNat 4 r))

/-- R452, R453: SET_IMMEDIATE. -/
def State.opSetImmediate (s : State) (x : CmdRec) : State :=
  let p := x.pkt
  let sel := pkSel p
  let n := pk p 8 2
  if n < 0x80 ∨ 0x82 < n ∨ (if n = 0x82 then 4 else 1) < selLevel sel then s.reply x stUnsupported
  else if s.noneSelected sel (if n = 0x82 then 4 else 1) then s.reply x stNoResource
  else match n with
  | 0x80 =>
    let (s, t) := s.clampTo x.ring 0x43 16 (pk p 16 1) 0 4
    let (s, slot) := s.clampTo x.ring 0x43 18 (pk p 18 2) 0 511
    let (s, cls) := s.clampTo x.ring 0x43 21 (pk p 21 1) 0 3
    let w := ARB_TKT.TICKETS.put (ARB_TKT.CLASS.put 0 cls) (pk p 20 1)
    ((selDies sel).foldl (fun s d => s.plainWrite (ARB_TKT d.toNat t slot) w) s).reply x stOk
  | 0x81 =>
    let (s, i) := s.clampTo x.ring 0x43 16 (pk p 16 2) 0 276
    ((selDies sel).foldl (fun s d => s.arbSeed d i (BitVec.ofNat 32 (pk p 20 4))) s).reply x stOk
  | _ =>
    let cs := s.selected sel
    if cs.any s.fenced then s.refuseFenced x cs
    else (cs.foldl (fun s c =>
      let a := COR_VEC_CTL c.toNat
      (s.setFld a COR_VEC_CTL.FLAG_ALL (pk p 16 1 % 2)).setFld a COR_VEC_CTL.MMNUM (pk p 16 1 / 2 % 2)) s).reply x stOk

end Sys2Proof.Machine
end

