-- ==== Sys2Proof/Machine/Pacing.lean ====
section
/-!
DEFINITION. Sys2Proof/Machine/Pacing.lean: firmware's pacing of declared traffic at launches and ticks (R272, R273, R448).
-/
namespace Sys2Proof.Machine

/-- An injector firmware paces: its number (die × 1,024 + pacer of R271), RATE, BURST, and the links its packets cross, as router
× 8 + port. -/
structure Pacer where
  key : Nat
  rate : Nat
  burst : Nat
  links : List Nat
  deriving DecidableEq, Repr

/-- A set of pacers with one more; the same injector named twice adds its rates and keeps the larger burst. -/
def addPacer (ps : List Pacer) (p : Pacer) : List Pacer :=
  if ps.any fun q => q.key == p.key then
    ps.map fun q => if q.key = p.key then
      { q with rate := min 256 (q.rate + p.rate), burst := max q.burst p.burst, links := (q.links ++ p.links).eraseDups } else q
  else ps ++ [p]

/-- The tokens of a rate in MB/s: 128,000 MB/s are the 256 tokens of a full link. -/
def rateTokens (mb : Nat) : Nat := max 1 (min 256 ((mb + 499) / 500))

/-- The pacers an entry of a traffic descriptor asks for (R448): source cores' local ports, or the memory-controller stops of
their dies, which share what those cores draw. -/
def State.entryPacers (s : State) (bs : List Byte) : List Pacer :=
  let f := fieldOf bs
  let src := s.selected (BitVec.ofNat 32 (f 0 4))
  let dst := s.selected (BitVec.ofNat 32 (f 4 4))
  let out := if f 14 1 = 1 then 5 else 4
  let ways (c : CoreId) : List Nat := (dst.flatMap fun e => routeLinks c e ++ [e.toNat * 8 + out]).eraseDups
  if f 14 1 = 2 then
    allDies.flatMap fun d =>
      let n := (src.filter fun c => dieOf c == d).length
      if n = 0 then []
      else (List.range 8).map fun m => ⟨d.toNat * 1024 + 512 + 3 + m, rateTokens ((n * f 8 4 + 7) / 8), f 12 2, ways (mcEp d m).r⟩
  else src.map fun c => ⟨dieOf c |>.toNat |> fun d => d * 1024 + 2 * (c.toNat % 256), rateTokens (f 8 4), f 12 2, ways c⟩

/-- The pacers of a list of traffic descriptors. -/
def State.pacersOf (s : State) (tpats : List (List Byte)) : List Pacer :=
  let es := tpats.flatMap fun t => (List.range (t.length / 16)).map fun i => (t.drop (16 * i)).take 16
  (es.flatMap s.entryPacers).foldl addPacer []

/-- The router of an injector, numbered as `pacerReg` numbers it (R25, R271). -/
def pacerRouter (d p : Nat) : CoreId :=
  let D : DieId := BitVec.ofNat 2 d
  if p < 512 then BitVec.ofNat 10 (d * 256 + p / 2)
  else if p < 513 then (ccEp D).r
  else if p < 514 then (twinEp D).r
  else if p < 515 then cxlEp.r
  else if p < 523 then (mcEp D (p - 515)).r
  else if p < 529 then (portEp D (p - 523)).r
  else (updEp (BitVec.ofNat 4 (d * 4 + (p - 529)))).r

/-- The links from a router to every router of its die. -/
def dieLinks (c : CoreId) : List Nat :=
  ((List.range 256).flatMap fun i => routeLinks c (BitVec.ofNat 10 (c.toNat / 256 * 256 + i))).eraseDups

/-- The enabled pacers (R272): what no traffic descriptor declares is taken to cross every link to a router of its die (a DESIGN CHOICE, in
the log). -/
def State.enabledPacers (s : State) (declared : List Pacer) : List Pacer :=
  (List.range 4).flatMap fun d => (List.range 533).filterMap fun p =>
    let k := d * 1024 + p
    let a := pacerReg d p
    if s.bit a NOC_RT_PACE_L.EN && !(declared.any fun q => q.key == k) then
      some ⟨k, s.fld a NOC_RT_PACE_L.RATE, s.fld a NOC_RT_PACE_L.BURST, dieLinks (pacerRouter d p)⟩
    else none

/-- The work-groups that hold their regions. -/
def State.onRegions (s : State) : List Launch := s.host.launches.filter fun L => L.ph != LaunchPh.queued

/-- Declared and other enabled pacers: every pacer that R272 counts. -/
def State.allPacers (s : State) : List Pacer :=
  let ps := s.pacersOf (s.onRegions.map (·.tpat))
  ps ++ s.enabledPacers ps

/-- The sum of RATE over the pacers that cross a link. -/
def linkRate (ps : List Pacer) (l : Nat) : Nat := ((ps.filter fun p => p.links.contains l).map (·.rate)).sum

/-- R273: on a link whose U is above 0.75 the RATE of every pacer crossing it is lowered in proportion. -/
def fitRates (ps : List Pacer) : List Pacer :=
  (ps.flatMap (·.links)).eraseDups.foldl (fun ps l =>
    let n := linkRate ps l
    if n ≤ 176 then ps
    else ps.map fun p => if p.links.contains l then { p with rate := max 1 (p.rate * 176 / n) } else p) ps

/-- The router at the far end of a link. -/
def linkEnd (l : Nat) : Option CoreId :=
  let c : CoreId := BitVec.ofNat 10 (l / 8)
  let (x, y) := (gX c, gY c)
  ([routerAt (x + 1) y, routerAt (x - 1) y, routerAt x (y + 1), routerAt x (y - 1)] : List CoreId).find? fun e => nextHop c e == some (l % 8, e)

/-- Whether packets from a router can cross a link: its way to the link's far end ends with the link (R269). -/
def crosses (l : Nat) (c : CoreId) : Bool :=
  match linkEnd l with
  | some e => (routeLinks c e).getLast? == some l
  | none => false

/-- B of a link (R272): bursts, and the sources of control messages that can cross it: the cores of running work-groups and the control
complexes, on every die. -/
def linkBurst (ps : List Pacer) (srcs : List CoreId) (l : Nat) : Nat :=
  ((ps.filter fun p => p.links.contains l).map (·.burst)).sum +
  ((srcs ++ allDies.map fun d => (ccEp d).r).filter (crosses l)).length

/-- T of a path (R272): none where U of a link is above 0.75. -/
def pathTime (ps : List Pacer) (srcs : List CoreId) (c c' : CoreId) : Option Nat :=
  (routeLinks c c').foldl (fun t l =>
    let n := linkRate ps l
    let die := match linkEnd l with | some e => if dieOf e = BitVec.ofNat 2 (l / 8 / 256) then 0 else 5 | none => 0
    match t with
    | some t => if 176 < n then none
      else some (t + 2 + ((linkBurst ps srcs l + 5) * 256 + (240 - n) - 1) / (240 - n) + die)
    | none => none) (some 0)

/-- The greatest T between any two routers of a die; none where one has no bound. -/
def greatestTime (ps : List Pacer) (srcs : List CoreId) (d : DieId) : Option Nat :=
  let cs := (List.range 256).map fun i => (BitVec.ofNat 10 (d.toNat * 256 + i) : CoreId)
  (cs.flatMap fun c => cs.map fun c' => (c, c')).foldl (fun m (c, c') =>
    match m, pathTime ps srcs c c' with
    | some m, some t => some (max m t)
    | _, _ => none) (some 0)

/-- R273: BURST values lowered, largest first, until the greatest T of a die meets the target or none is above 5. -/
def fitBursts (srcs : List CoreId) (d : DieId) (target : Nat) : Nat → List Pacer → List Pacer
  | 0, ps => ps
  | k + 1, ps =>
    let top := ps.foldl (fun m p => max m p.burst) 0
    match greatestTime ps srcs d with
    | none => ps
    | some t =>
      if t ≤ target ∨ top ≤ 5 then ps
      else match ps.findIdx? fun p => p.burst == top with
        | none => ps
        | some i => fitBursts srcs d target k (ps.set i { ps.getD i ⟨0, 0, 0, []⟩ with burst := top - 1 })

/-- R273, R448: the pacing computed at a launch and written; with no traffic declared NOC_BOUND is 0. -/
def State.pace (s : State) (L : Launch) : State :=
  let dies := allDies.filter fun d => L.cores.any fun c => dieOf c == d
  if L.tpat.isEmpty then dies.foldl (fun s d => s.setFld (NOC_BOUND d.toNat) NOC_BOUND.T 0) s
  else
    let srcs := (s.onRegions.flatMap (·.cores)).eraseDups
    let ps := fitRates s.allPacers
    let ps := dies.foldl (fun ps d => fitBursts srcs d s.pwr.latency (64 * ps.length) ps) ps
    let s := ps.foldl (fun s p =>
      let w := NOC_RT_PACE_L.RATE.put (NOC_RT_PACE_L.BURST.put (NOC_RT_PACE_L.EN.put 0 1) p.burst) p.rate
      s.wr (pacerReg (p.key / 1024) (p.key % 1024)) w) s
    dies.foldl (fun s d => s.setFld (NOC_BOUND d.toNat) NOC_BOUND.T ((greatestTime ps srcs d).getD 0)) s

/-- The flit counter of a link. -/
def linkReg (l : Nat) : Nat := NOC_RT_FLITS (l / 8 / 256) (l / 8 % 256) (l % 8)

/-- The links of the mesh that have carried a flit. -/
def State.usedLinks (s : State) : List Nat :=
  s.regs.filterMap fun e =>
    let o := (e.1 - NOC_RT_FLITS 0 0 0)
    let l := (o / 0x100000 * 256 + o % 0x100000 / 256) * 8 + o % 256 / 8
    if NOC_RT_FLITS 0 0 0 ≤ e.1 ∧ o % 256 < 48 ∧ l / 8 < 1024 ∧ linkReg l = e.1 then some l else none

/-- A pacer put into a list that falls in a measure. -/
def putByRate (f : Pacer → Nat) (p : Pacer) : List Pacer → List Pacer
  | [] => [p]
  | q :: t => if f q ≤ f p then p :: q :: t else q :: putByRate f p t

/-- R273 at a tick: an overloaded link lowers its three heaviest injectors, those of highest RATE among the enabled pacers that cross it, by
a quarter; one that stays below half a tick gives them their rates back. A tick is 200,000 MCLK; a vertical port sends two flits in each
(R266). -/
def State.paceTick (s : State) : State :=
  let links := (s.usedLinks ++ s.pwr.lowered.map (·.1)).eraseDups
  let ps := s.allPacers
  links.foldl (fun s l =>
    let full := if l % 8 = 5 then 400000 else 200000
    let now := (s.rd (linkReg l)).toNat
    let used := (now + 2 ^ 48 - s.pwr.flits.get (fun _ => 0) l) % 2 ^ 48
    let s := { s with pwr := { s.pwr with flits := s.pwr.flits.set (fun _ => 0) l now } }
    if full * 3 / 4 < used then
      let rate (p : Pacer) : Nat := s.fld (pacerReg (p.key / 1024) (p.key % 1024)) NOC_RT_PACE_L.RATE
      let on (p : Pacer) : Bool := s.bit (pacerReg (p.key / 1024) (p.key % 1024)) NOC_RT_PACE_L.EN
      let heavy := ((ps.filter fun p => on p && p.links.contains l).foldr (putByRate rate) []).take 3
      heavy.foldl (fun s p =>
        let r := rate p
        let s := s.setFld (pacerReg (p.key / 1024) (p.key % 1024)) NOC_RT_PACE_L.RATE (max 1 (r * 3 / 4))
        if s.pwr.lowered.any fun e => e.1 == l && e.2.1 == p.key then s
        else { s with pwr := { s.pwr with lowered := s.pwr.lowered ++ [(l, p.key, r)] } }) s
    else if used < full / 2 then
      let mine := s.pwr.lowered.filter fun e => e.1 == l
      let s := mine.foldl (fun s e => s.setFld (pacerReg (e.2.1 / 1024) (e.2.1 % 1024)) NOC_RT_PACE_L.RATE e.2.2) s
      { s with pwr := { s.pwr with lowered := s.pwr.lowered.filter fun e => e.1 != l } }
    else s) s

end Sys2Proof.Machine
end

