-- ==== Sys2Proof/Machine/Launch.lean ====
section
/-!
DEFINITION. Sys2Proof/Machine/Launch.lean: launches from their command to their reply (R184, R185, R407, R410, R448), RAISE, and
the fence commands (R284, R286, R451).
-/
namespace Sys2Proof.Machine

/-! ### LAUNCH consumed (R407, R439, R448) -/

/-- An entry of a traffic descriptor with its numbers clamped. -/
def trafficEntry (bs : List Byte) : List Byte :=
  putBytes (putBytes bs 8 4 (min 128000 (fieldOf bs 8 4))) 12 2 (max 5 (min 64 (fieldOf bs 12 2)))

/-- Whether an entry's names are ones the module knows: selector levels and KIND. -/
def trafficOk (bs : List Byte) : Bool :=
  let lv (o : Nat) := selLevel (BitVec.ofNat 32 (fieldOf bs o 4))
  decide (lv 0 ≤ 4) && decide (lv 4 ≤ 4) && decide (fieldOf bs 14 1 ≤ 2)

/-- The traffic descriptor of a LAUNCH: its count as given and the entries it has. -/
def State.readTraffic (s : State) (x : CmdRec) : Except (BitVec 8) (Nat × List (List Byte)) :=
  let a := pk x.pkt 40 8
  if a = 0 then .ok (0, [])
  else match s.cmdRead (pkPhys x.pkt) a 2 with
  | none => .error stHwError
  | some h =>
    let n := min 64 (leNat h)
    match s.cmdRead (pkPhys x.pkt) (a + 8) (16 * n) with
    | none => .error stHwError
    | some bs =>
      let es := (List.range n).map fun i => (bs.drop (16 * i)).take 16
      if es.all trafficOk then .ok (leNat h, es) else .error stUnsupported

/-- The clamps of a traffic descriptor recorded (R444). -/
def State.trafficClamps (s : State) (x : CmdRec) (t : Nat × List (List Byte)) : State :=
  let s := s.clampIn x.ring 0x20 7 0 0 t.1 (min 64 t.1)
  s.clamps x.ring 0x20 (((List.range t.2.length).zip t.2).flatMap fun (i, e) =>
    [(7, i, 8, fieldOf e 8 4, fieldOf (trafficEntry e) 8 4), (7, i, 12, fieldOf e 12 2, fieldOf (trafficEntry e) 12 2)])

/-- R448: a LAUNCH puts its work-group into the ready queue. A forerunner packet's has the settings of R440. -/
def State.opLaunch (s : State) (x : CmdRec) : State :=
  let p := x.pkt
  let sel := pkSel p
  let lv := selLevel sel
  let v1 := pkVersion p == 1
  let cs := s.selected sel
  if 4 < lv ∨ lv = 1 then s.reply x stUnsupported
  else if cs.isEmpty then s.reply x stNoResource
  else if cs.any s.fenced then s.refuseFenced x cs
  else
    let per := pk p 27 1 % 2 == 1 && !v1
    match s.cmdRead (pkPhys p) (pk p 16 8) (if per then 256 * cs.length else 248), (if v1 then .ok (0, []) else s.readTraffic x) with
    | none, _ => s.reply x stHwError
    | _, .error st => s.reply x st
    | some args, .ok tpat =>
      let (s, entry) := s.alignTo x.ring 0x20 8 (pk p 8 8) 8
      let (s, prio) := if v1 then (s, 0) else s.clampTo x.ring 0x20 24 (pk p 24 1) 0 7
      let minpt := if v1 then 7 else pk p 26 1 % 8
      let maxpt := if v1 then 0 else pk p 26 1 / 16 % 8
      let s := s.clampIn x.ring 0x20 0 0 26 maxpt (min maxpt minpt)
      let s := s.trafficClamps x tpat
      let L : Launch := {
        id := s.host.next, cmd := some x.id, entry := entry, argv := args, perCore := per, cores := cs, prio := prio
        profile := if v1 then 0 else pk p 25 1, minpt := minpt, maxpt := min maxpt minpt
        lines := if v1 then 0 else BitVec.ofNat 64 (pk p 32 8), tpat := tpat.2.flatMap trafficEntry }
      { s with host := { s.host with next := s.host.next + 1, launches := s.host.launches ++ [L] } }

/-! ### The start of the programs (R119, R185, R195, R304, R448) -/

/-- A launch changed. -/
def State.modLaunch (s : State) (id : Nat) (f : Launch → Launch) : State :=
  { s with host := { s.host with launches := s.host.launches.map fun L => if L.id = id then f L else L } }

/-- Bytes of scratch under a SPLIT code (R195). -/
def scratchOf (split : Nat) : Nat := 786432 - 262144 * split

/-- A change of split at a launch (R195): the cache is invalidated and what passes from cache to scratch is zeroed. -/
def State.newSplit (s : State) (c : CoreId) : State :=
  let old := (s.core c).split.toNat
  let new := s.fld (COR_MEM_CTL c.toNat) COR_MEM_CTL.SPLIT
  if old = new then s
  else
    let s := (s.invalidate c).modCore c fun C => { C with split := BitVec.ofNat 2 new }
    if new < old then
      s.wrMem (0x110000000000 + c.toNat * 2 ^ 20 + scratchOf old) (List.replicate (scratchOf new - scratchOf old) 0)
    else s

/-- g1 to g31 from 248 bytes; g0 is 0. -/
def argRegs (bs : List Byte) : Vector Word 32 :=
  Vector.ofFn fun i => if i.val = 0 then 0 else BitVec.ofNat 64 (fieldOf bs (8 * (i.val - 1)) 8)

/-- A core of the newt state woken by the packets that reach it: what waited in its crossing enters (R288). -/
def State.wakeCore (s : State) (c : CoreId) : State :=
  if (s.core c).parked then ((s.modCore c fun C => { C with parked := false }).bumpRt NOC_RT_WAKE c).drainIn c (s.core c).inq.length else s

/-- A program launch on one core (R49, R63, R75, R91, R119, R154, R185, R303), which a packet ungates if it is parked (R288). -/
def State.startCore (s : State) (c : CoreId) (id entry : Nat) (args : List Byte) : State :=
  let n := c.toNat
  let s := (s.wakeCore c).unwait c
  let s := s.clear [COR_CYCLE n, COR_INSTRET n, COR_ISTALL n, COR_EXC n, COR_EXC_PC n]
  let s := (List.range 4).foldl (fun s i => s.clear [COR_TFAULT_INFO n i, COR_TFAULT_VA n i, COR_TFAULT_PC n i]) s
  let s := s.setFld (COR_IPEND n) COR_IPEND.INHANDLER 0
  let s := allSlots.foldl (fun s i => s.cancelSlot c i) s
  let s := s.newSplit c
  let s := s.modCore c fun C => { C with
    run := .running, launch := some id, pc := entry, ibuf := none, fetchHeld := false, fetchWant := none, fetchGot := none
    g := argRegs args, masks := Vector.replicate 8 (BitVec.allOnes 4096), scale := ({} : CoreSt).scale, tiles := []
    zmask := Vector.replicate 32 {}, arr := C.arr.map fun A => { A with act := none, shd := none, load := none, swapStall := false }
    pred := [], fl := [], heldFaults := [], stopTiles := none, wait := none, waitSaved := none, arrived := [], histCount := 0 }
  { s with host := { s.host with stops := s.host.stops.filter (· != c) } }

/-- The barrier lines of a launch: their participants on every die, with the scope and group of the last BAR_CFG (R304). -/
def State.startLines (s : State) (L : Launch) : State :=
  (List.range 64).foldl (fun s i =>
    if !L.lines.getLsbD i then s
    else
      let n : BitVec 6 := BitVec.ofNat 6 i
      allDies.foldl (fun s d =>
        let s := match s.host.barCfg.get (fun _ => none) i with
          | some w => s.barCfgWrite d n w
          | none => s
        (List.range 4).foldl (fun s w =>
          let m := ((List.range 64).map fun j =>
            if L.cores.contains (BitVec.ofNat 10 (d.toNat * 256 + w * 64 + j)) then 2 ^ j else 0).sum
          s.barMaskWrite d n w (BitVec.ofNat 64 m)) s) s) s

/-- The 248 argument bytes of the `i`-th core of a launch. -/
def Launch.args (L : Launch) (i : Nat) : List Byte := if L.perCore then (L.argv.drop (256 * i)).take 248 else L.argv

/-- R410: the last region of a work-group has reached its starting point: its programs launch; the regions' other cores are idle
in the newt state (R448). -/
def State.startPrograms (s : State) (L : Launch) : State :=
  let s := s.startLines L
  let rest := (L.regions.flatMap regionCores).filter fun c => !L.cores.contains c && s.enabled c && !s.fenced c
  let s := rest.foldl (fun s c => s.modCore c fun C => { C with parked := true }) s
  let regs (i : Nat) : List Byte := match L.rule0 with
    | some (r, l) => (s.rule0Regs (BitVec.ofNat 4 r) l i L.cores.length).flatMap fun w => toLe 8 w.toNat
    | none => L.args i
  let s := ((List.range L.cores.length).zip L.cores).foldl (fun s (i, c) =>
    if s.fenced c then s else s.startCore c L.id L.entry (regs i)) s
  s.modLaunch L.id fun L => { L with ph := .running, start := s.now + 1 }

/-! ### The end of a launch (R130, R284, R448) -/

/-- Whether a core of a launch has halted, stopped, been fenced, or never started. -/
def State.coreOver (s : State) (L : Launch) (c : CoreId) : Bool :=
  s.fenced c || (s.core c).launch != some L.id || !s.runs c

/-- Whether every core of a launch that has been started, or stopped before, is over. -/
def State.launchOver (s : State) (L : Launch) : Bool :=
  (L.ph == LaunchPh.running || L.ph == LaunchPh.ending) && L.cores.all (s.coreOver L)

/-- A launch's cores stopped under R130. -/
def State.stopCores (s : State) (L : Launch) : State :=
  L.cores.foldl (fun s c => if (s.core c).launch = some L.id ∧ s.runs c ∧ !s.fenced c then s.stopProgram c else s) s

/-- A launch that has its regions is being stopped, and will end with a status. -/
def State.endLaunch (s : State) (L : Launch) (st : BitVec 8) : State :=
  (s.stopCores L).modLaunch L.id fun L => { L with ph := .ending, status := if L.status = 0 then st else L.status }

/-- Firmware ends the launches of fenced cores (R284, R448). -/
def State.fenceLaunches (s : State) : State :=
  (s.onRegions.filter fun L => L.ph != LaunchPh.ending && L.cores.any s.fenced).foldl (fun s L => s.endLaunch L stFenced) s

/-- The status a launch ends with. -/
def State.launchStatus (s : State) (L : Launch) : BitVec 8 :=
  if L.status ≠ 0 then L.status
  else if L.cores.any s.fenced then stFenced
  else if L.cores.any fun c => (s.core c).run == .stopped then stAborted
  else stOk

/-- The words of a launch's reply (R448). -/
def State.launchWords (s : State) (L : Launch) : List Nat :=
  let halted := (L.cores.filter fun c => !s.fenced c && (s.core c).run == .halted && (s.core c).launch == some L.id).length
  let first := match s.host.stops.find? L.cores.contains with
    | some c => c.toNat * 2 ^ 16 + s.fld (COR_EXC c.toNat) COR_EXC.CAUSE * 2 ^ 28
    | none => 0
  [halted + first, if L.start = 0 then 0 else (s.now + 1 - L.start) / 1000, L.gen]

/-- The mark of a STOP that waits for its launch's reply, with the launch. -/
def stopMark : Nat := 0x53544F50

/-- A launch leaves the machine: its reply, and that of the STOPs that wait for it; its cores are idle in the newt state and its
regions apply pending generations (R399, R448, R454). -/
def State.launchGone (s : State) (L : Launch) : State :=
  let st := s.launchStatus L
  let words := s.launchWords L
  let s := L.cores.foldl (fun s c =>
    if (s.core c).launch = some L.id ∧ !s.fenced c then
      s.modCore c fun C => { C with run := if C.run = .stopped then .stopped else .halted, launch := none, parked := true }
    else s) s
  let s := { s with host := { s.host with launches := s.host.launches.filter fun M => M.id != L.id
                                          stops := s.host.stops.filter fun c => !L.cores.contains c } }
  let s := match L.cmd with
    | some id => s.finish id st words
    | none => s
  let s := s.host.cmds.foldl (fun s c => if c.data = [stopMark, L.id] then s.finish c.id stOk [] else s) s
  s.rollGens

/-- The `n`-th launch ends when all its cores are over. -/
def State.launchEnd (s : State) (n : Nat) : State :=
  match s.host.launches[n]? with
  | some L => if L.rule0.isNone && s.launchOver L then s.launchGone L else s
  | none => s

/-! ### STOP, LAUNCH_STATUS, RAISE (R448) -/

/-- The launch of a ring's TAG. -/
def State.launchOf (s : State) (ring tag : Nat) : Option Launch :=
  s.host.launches.find? fun L => match L.cmd with
    | some id => match s.cmd id with
      | some x => x.ring.toNat == ring && (pkTag x.pkt).toNat == tag
      | none => false
    | none => false

/-- R448: STOP. -/
def State.opStop (s : State) (x : CmdRec) : State :=
  if 64 ≤ pk x.pkt 8 1 then s.reply x stUnsupported
  else match s.launchOf (pk x.pkt 8 1) (pk x.pkt 10 2) with
  | none => s.reply x stNoResource
  | some L =>
    if L.ph = .queued then
      (s.modLaunch L.id fun L => { L with status := stAborted }).launchGone { L with status := stAborted } |>.reply x stOk
    else (s.endLaunch L stAborted).modCmd x.id fun c => { c with data := [stopMark, L.id] }

/-- R448: LAUNCH_STATUS. -/
def State.opLaunchStatus (s : State) (x : CmdRec) : State :=
  if 64 ≤ pk x.pkt 8 1 then s.reply x stUnsupported
  else s.finish x.id stOk [match s.launchOf (pk x.pkt 8 1) (pk x.pkt 10 2) with
    | none => 3
    | some L => match L.ph with
      | .queued => 0
      | .starting => 1
      | _ => 2]

/-- What a command that changes core state does over its selector (R439). -/
def State.onCores (s : State) (x : CmdRec) (f : State → List CoreId → State) : State :=
  let cs := s.selected (pkSel x.pkt)
  if 4 < selLevel (pkSel x.pkt) then s.reply x stUnsupported
  else if cs.isEmpty then s.reply x stNoResource
  else if cs.any s.fenced then s.refuseFenced x cs
  else f s cs

/-- R186, R448: RAISE. -/
def State.opRaise (s : State) (x : CmdRec) : State :=
  s.onCores x fun s cs => (cs.foldl (fun s c => if s.runs c then s.regIn (ccEp (dieOf c)) c (COR_IRAISE c.toNat) 2 else s) s).reply x stOk

/-! ### FENCE and UNFENCE (R284, R286, R451) -/

/-- The cores a fence command selects, fused-off ones kept apart (R439, R451). -/
def fenceSel (sel : BitVec 32) : List CoreId := allCores.filter (selCore sel)

/-- Whether the level of a fence command's selector is one it accepts. -/
def fenceLevel (sel : BitVec 32) : Bool := decide (2 ≤ selLevel sel) && decide (selLevel sel ≤ 4)

/-- A core fenced by firmware, with its CORE_FENCED record: cause 0 a command, 1 step 8, 2 an HW_ERROR of its engines (R284, R496). -/
def State.fenceFor (s : State) (c : CoreId) (cause : Byte) : State :=
  if s.fenced c then s else (s.fence c).event 0x0017 3 (srcOf 0 c.toNat) 0 0 [cause]

/-- R284, R451: FENCE: its selected cores are fenced, with a CORE_FENCED record each, their launches end with FENCED, and it
completes. -/
def State.opFence (s : State) (x : CmdRec) : State :=
  let sel := pkSel x.pkt
  let cs := fenceSel sel
  if !fenceLevel sel then s.reply x stUnsupported
  else if cs.isEmpty then s.reply x stNoResource
  else
    let s := cs.foldl (fun s c => s.fenceFor c 0) s
    s.fenceLaunches.reply x stOk

/-- The mark of an UNFENCE whose cores are in their self-test, with the cores left and 1 after a failure. -/
def testMark : Nat := 0x54455354

/-- An UNFENCE with no self-test left completes. -/
def State.unfenceDone (s : State) (id : Nat) : State :=
  match s.cmd id with
  | none => s
  | some x =>
    if x.data.length ≤ 2 then s.finish id (if x.data.getD 1 0 = 0 then stOk else stHwError) [] else s

/-- R286, R451: UNFENCE: the self-test of every selected core that is fenced begins; fused-off cores are dropped (R439). -/
def State.opUnfence (s : State) (x : CmdRec) : State :=
  let sel := pkSel x.pkt
  let cs := fenceSel sel
  if !fenceLevel sel then s.reply x stUnsupported
  else if (s.selected sel).isEmpty then s.reply x stNoResource
  else (s.modCmd x.id fun c => { c with data := testMark :: 0 :: (cs.filter s.fencedCore).map (·.toNat) }).unfenceDone x.id

/-- A core that passes leaves the mask of cores fenced by step 8 (R477). -/
def State.passedTest (s : State) (c : CoreId) : State :=
  let v := s.sys.nvm
  { s with sys := { s.sys with nvm := { v with blk := { v.blk with fenced := v.blk.fenced.set (fun _ => false) c.toNat false } } } }

/-- R286: the self-test of a core ends: released with its region's generation, or left fenced. -/
def State.selfTest (s : State) (c : CoreId) (ok : Bool) : State :=
  match s.host.cmds.find? fun x => x.data.head? == some testMark && (x.data.drop 2).contains c.toNat with
  | none => s
  | some x =>
    let s := s.modCmd x.id fun y => { y with
      data := testMark :: (if ok then y.data.getD 1 0 else 1) :: (y.data.drop 2).filter (· != c.toNat) }
    let s := if ok then ((s.release c).modCore c fun C => { C with parked := false }).regainCore c else s
    let s := if ok then s.passedTest c else s
    s.unfenceDone x.id

/-- The cores whose self-test runs. -/
def State.testing (s : State) : List Nat :=
  s.host.cmds.flatMap fun x => if x.data.head? = some testMark then x.data.drop 2 else []

end Sys2Proof.Machine
end

