-- ==== Sys2Proof/Machine/Power.lean ====
section
/-!
DEFINITION. Sys2Proof/Machine/Power.lean: the power manager: budgets, thermal adjustment, starts, points, lending (R397 to R414),
functions (R415, R416), the host's power commands (R417), and the limiters and trips of the hardware (R401, R403).
-/
namespace Sys2Proof.Machine

/-! ### Regions -/

/-- A region's power record changed. -/
def State.modRp (s : State) (r : RegionId) (f : RgnPwr → RgnPwr) : State :=
  { s with pwr := { s.pwr with rgns := s.pwr.rgns.set (fun _ => {}) r.toNat (f (s.rp r)) } }

/-- A bit of PWR_RGN_STATE. -/
def State.rbit (s : State) (r : RegionId) (f : Fld) : Bool := s.bit (PWR_RGN_STATE r.toNat) f

/-- A field of PWR_RGN_STATE set. -/
def State.rset (s : State) (r : RegionId) (f : Fld) (v : Nat) : State := s.setFld (PWR_RGN_STATE r.toNat) f v

/-- A region's point. -/
def State.point (s : State) (r : RegionId) : Nat := s.fld (PWR_RGN_STATE r.toNat) PWR_RGN_STATE.POINT

/-- The launch that holds a region. -/
def State.holder (s : State) (r : RegionId) : Option Launch := s.onRegions.find? fun L => L.regions.contains r

/-- Typical power of the points (R404). -/
def typical (k : Nat) : Nat := [155, 123, 103, 87, 68, 51, 33, 19].getD k 19

/-- A profile. -/
def State.prof (s : State) (p : Nat) : ProfSt := s.pwr.profs.get (fun _ => {}) p

/-- The prediction of a profile at a point (R408), rounded up. -/
def State.predict (s : State) (p k : Nat) : Nat := ((s.prof p).w0 * typical k + 155 * 2 ^ 32 - 1) / (155 * 2 ^ 32)

/-! ### Changes of point (R405, R406) -/

/-- BUSY of a region shown. -/
def State.showBusy (s : State) (r : RegionId) : State := s.rset r PWR_RGN_STATE.BUSY (if (s.rp r).moves.isEmpty then 0 else 1)

/-- A region's frequency and voltage lowered to a point: relock, then slew; its point is the new one from the relock on. -/
def State.lowerTo (s : State) (r : RegionId) (k : Nat) : State :=
  if s.point r = k then s
  else
    let s := (s.modRp r fun P => { P with moves := [⟨true, k, false⟩, ⟨false, k, false⟩] }).rset r PWR_RGN_STATE.POINT k
    (s.bump (PWR_DVFS_CNT r.toNat)).showBusy r

/-- A region raised to a point: slew, then relock; its point is the new one once the voltage is there. -/
def State.raiseTo (s : State) (r : RegionId) (k : Nat) : State :=
  if s.point r = k then s
  else
    ((s.modRp r fun P => { P with moves := [⟨false, k, true⟩, ⟨true, k, true⟩] }).bump (PWR_DVFS_CNT r.toNat)).showBusy r

/-- A region moved to a point. -/
def State.moveTo (s : State) (r : RegionId) (k : Nat) : State := if s.point r ≤ k then s.lowerTo r k else s.raiseTo r k

/-- A relock alone: into a lend point, or out of it (R406). -/
def State.relockOnly (s : State) (r : RegionId) (up : Bool) : State :=
  ((s.modRp r fun P => { P with moves := [⟨true, s.point r, up⟩] }).bump (PWR_DVFS_CNT r.toNat)).showBusy r

/-- A launch whose regions have all reached their starting point launches its programs (R410). -/
def State.tryStart (s : State) (L : Launch) : State :=
  if L.ph = .starting ∧ L.regions.all fun r => (s.rp r).moves.isEmpty then s.startPrograms L else s

/-- The first step of a region's change ends; after a relock its clock runs again (R32). -/
def State.moveDone (s : State) (r : RegionId) : State :=
  match (s.rp r).moves with
  | [] => s
  | m :: rest =>
    let s := (s.modRp r fun P => { P with moves := rest }).showBusy r
    let s := if !m.relock ∧ m.up then s.rset r PWR_RGN_STATE.POINT m.point else s
    let s := if m.relock then s.wakeRegion r else s
    match s.holder r with
    | some L => s.tryStart L
    | none => s

/-- Changes still running run to their end: every change completes within its tick. -/
def State.settleMoves (s : State) : State := allRegions.foldl (fun s r => (s.moveDone r).moveDone r) s

/-- R32, R405: a region's relock ends. -/
def State.relockDone (s : State) (r : RegionId) : State :=
  match (s.rp r).moves with
  | m :: _ => if m.relock then s.moveDone r else s
  | [] => s

/-- R405: a region's rail reaches its voltage; a raise waits for the relocks of the lowerings. -/
def State.slewDone (s : State) (r : RegionId) : State :=
  let lowering := allRegions.any fun q => match (s.rp q).moves with
    | m :: _ => m.relock && !m.up
    | [] => false
  match (s.rp r).moves with
  | m :: _ => if m.relock ∨ (m.up ∧ lowering) then s else s.moveDone r
  | [] => s

/-! ### The hardware limiters and trips (R401, R403) -/

/-- The fast limiter engages. -/
def State.engage (s : State) : State :=
  if s.bit PWR_STATUS PWR_STATUS.FASTLIM then s
  else ((s.setFld PWR_STATUS PWR_STATUS.FASTLIM 1).setFld PWR_STATUS PWR_STATUS.FASTLIM_SEEN 1).bump PWR_FASTLIM_CNT

/-- R401, R524: an input sample: voltage in mV, current in 10 mA, and the board's temperatures. -/
def State.inputSample (s : State) (volts amps : Nat) (board : BitVec 32) : State :=
  let s : State := { s with sys := { s.sys with samples := ((volts, amps) :: s.sys.samples).take 1000, board := board } }
  -- the power in units of 10 µW
  let w := volts * amps
  let x := s.fld PWR_STATUS PWR_STATUS.EXCURSION
  let x := if 3400 * 100000 < w then x + 1 else x - 1
  let below := if w < s.fld PWR_CTL PWR_CTL.CAP * 100000 then s.pwr.below + 1 else 0
  if !s.sys.rails then s
  else
    let s : State := { s.setFld PWR_STATUS PWR_STATUS.EXCURSION x with pwr := { s.pwr with below := below } }
    if 3600 * 100000 < w ∨ 10000 ≤ x then s.engage
    else if 100 ≤ below ∧ x = 0 then s.setFld PWR_STATUS PWR_STATUS.FASTLIM 0
    else s

/-- A trip of a region (R403): it relocks to 0.40 GHz and its voltage falls to that of P7. -/
def State.tripRegion (s : State) (d : DieId) (r : RegionId) (sensor temp : Nat) : State :=
  if s.rbit r PWR_RGN_STATE.TRIPPED then s
  else
    let s := s.lowerTo r 7
    let s := ((s.rset r PWR_RGN_STATE.TRIPPED 1).rset r PWR_RGN_STATE.LENDING 0).rset r PWR_RGN_STATE.BORROWING 0
    let s := (s.rset r PWR_RGN_STATE.RECALL 0).modRp r fun P => { P with borrowFrom := none, lent := 0 }
    let s := s.bump (PWR_TRIP_CNT d.toNat)
    s.event 0x0012 3 (srcOf 5 r.toNat) 0 0 (toLe 2 sensor ++ toLe 2 temp)

/-- A temperature reading as a signed number of 1/16 °C. -/
def tempOf (v : BitVec 16) : Int := v.toInt

/-- R403: a sensor reads LIMIT or more: its region trips, or every region of the die for a stack or I/O-ring sensor. -/
def State.thermalTrip (s : State) (d : DieId) (i : Nat) (v : BitVec 16) : State :=
  if tempOf v < 105 * 16 then s
  else
    let s := s.setFld (PWR_TEMP d.toNat i) PWR_TEMP.TEMP v.toNat
    let rs : List RegionId := if i < 48 then [BitVec.ofNat 4 (d.toNat * 4 + i / 12)] else
      (List.range 4).map fun k => BitVec.ofNat 4 (d.toNat * 4 + k)
    let s := if rs.any fun r => !s.rbit r PWR_RGN_STATE.TRIPPED then s.emit (.dieInt d 5) else s
    rs.foldl (fun s r => s.tripRegion d r i v.toNat) s

/-! ### The tick: telemetry, settings, recalls, refill (R397 to R399, R408, R413, R417) -/

/-- Readings of the tick at or above LIMIT trip as they do in hardware, where no trip has come before them (R403). -/
def State.tickTrips (s : State) (t : Telemetry) : State :=
  ((List.range 256).zip t.temps).foldl (fun s (i, v) => s.thermalTrip (BitVec.ofNat 2 (i / 64)) (i % 64) v) s

/-- A sensor's latest reading in 1/16 °C. -/
def State.temp (s : State) (d i : Nat) : Int := tempOf (BitVec.ofNat 16 (s.fld (PWR_TEMP d i) PWR_TEMP.TEMP))

/-- Telemetry put into the registers. -/
def State.readTelemetry (s : State) (t : Telemetry) : State :=
  let s := (s.bump PWR_TICKS).bump PWR_ENERGY t.energy.toNat
  let w := PWR_IN.VOLTAGE.put (PWR_IN.CURRENT.put (PWR_IN.POWER.put 0 t.watts.toNat) t.amps.toNat) t.volts.toNat
  let s := s.wr PWR_IN w
  let s := ((List.range 256).zip t.temps).foldl (fun s (i, v) => s.setFld (PWR_TEMP (i / 64) (i % 64)) PWR_TEMP.TEMP v.toNat) s
  (allRegions.zip t.regions).foldl (fun s (r, v) => s.setFld (PWR_RGN_BUDGET r.toNat) PWR_RGN_BUDGET.MEASURED v.toNat) s

/-- A region's measured energy in tokens. -/
def State.measured (s : State) (r : RegionId) : Nat := s.fld (PWR_RGN_BUDGET r.toNat) PWR_RGN_BUDGET.MEASURED

/-- R408: profiles updated from regions that ran one profile the whole tick, at one point, at no lend point, throttled or
tripped. -/
def State.learn (s : State) : State :=
  allRegions.foldl (fun s r =>
    match (s.rp r).base, s.holder r with
    | some (id, p, k), some L =>
      if L.id = id ∧ s.point r = k ∧ !s.rbit r PWR_RGN_STATE.TRIPPED then
        let x := s.prof p
        let m0 : Int := ((s.measured r * 155 * 2 ^ 32 / typical k : Nat) : Int)
        let w : Int := x.w0 + (m0 - x.w0) / 8
        { s with pwr := { s.pwr with profs := s.pwr.profs.set (fun _ => {}) p { w0 := w.toNat, count := x.count + 1 } } }
      else s
    | _, _ => s) s

/-- R400: a region whose measured energy passed its account by more than 5 % is to be lowered one point in this tick. -/
def State.overspends (s : State) : State :=
  allRegions.foldl (fun s r =>
    let past := (s.holder r).isSome && decide (s.fld (PWR_RGN_BUDGET r.toNat) PWR_RGN_BUDGET.ACCOUNT * 105 < s.measured r * 100)
    let s := s.modRp r fun P => { P with lower := if past then 1 else 0 }
    if past then s.bump (PWR_OVER r.toNat) else s) s

/-- A setting of R417 put in force. -/
def State.applyPower (s : State) (x : CmdRec) : State :=
  let p := x.pkt
  let lim (v lo hi : Nat) : Nat := max lo (min hi v)
  match pkOp p with
  | 0x50 => s.setFld PWR_CTL PWR_CTL.CAP (lim (pk p 8 4) 1500 3400)
  | 0x52 => allRegions.foldl (fun s r =>
      if pk p 8 2 / 2 ^ r.toNat % 2 = 1 then s.rset r PWR_RGN_STATE.MAXPT (lim (pk p 10 1) 0 7) else s) s
  | 0x57 => { s with pwr := { s.pwr with
      throt := lim (pk p 8 2) 85 100, guard := lim (pk p 10 2) 0 200, reserve := lim (pk p 12 2) 1 10000
      lendFreq := lim (pk p 14 2) 400 1200, latency := lim (pk p 16 4) 256 65535 } }
  | _ =>
    let profs := if pk p 9 1 % 2 = 1 then [] else s.pwr.profs.set (fun _ => {}) (pk p 8 1) {}
    { s with pwr := { s.pwr with profs := profs } }

/-- The settings that waited for the tick put in force, in the order of consumption. -/
def State.applySettings (s : State) : State :=
  s.pwr.after.foldl (fun s id => match s.cmd id with
    | some x => s.applyPower x
    | none => s) s

/-- Their commands completed, after the tick (R417). -/
def State.finishSettings (s : State) : State :=
  let ids := s.pwr.after
  ids.foldl (fun s id => match s.cmd id with
    | some x => s.finish id stOk (if pkOp x.pkt = 0x50 then [s.fld PWR_CTL PWR_CTL.CAP] else [])
    | none => s) { s with pwr := { s.pwr with after := [] } }

/-- The tokens of a region at the lend point (R412). -/
def State.lendTokens (s : State) (r : RegionId) (L : Launch) : Nat :=
  min (s.predict L.profile (s.point r)) (Config.lendTokens (s.prof L.profile).w0 (s.point r) s.pwr.lendFreq)

/-- The tokens a loan of a region gives: nothing when its launch is gone. -/
def State.loanOf (s : State) (r : RegionId) : Nat := if s.rbit r PWR_RGN_STATE.LENDING then (s.rp r).lent else 0

/-- The tokens a borrower's raise takes. -/
def State.borrowOf (s : State) (r : RegionId) : Nat :=
  match (s.rp r).borrowFrom, s.holder r with
  | some k, some L => s.predict L.profile L.point - s.predict L.profile k
  | _, _ => 0

/-- The sum of a measure over the regions. -/
def overRegions (f : RegionId → Nat) : Nat := (allRegions.map f).sum

/-- R413: recalls at the tick edge: lenders with RECALL, and lenders that lost their launch, return to the frequency of their
point; the loans are pooled, and with any recall every borrower returns to the point it held before. -/
def State.recalls (s : State) : State :=
  let back := allRegions.filter fun r => s.rbit r PWR_RGN_STATE.LENDING && (s.rbit r PWR_RGN_STATE.RECALL || (s.holder r).isNone)
  let s := back.foldl (fun s r =>
    ((((s.relockOnly r true).rset r PWR_RGN_STATE.LENDING 0).rset r PWR_RGN_STATE.RECALL 0).modRp r fun P => { P with lent := 0 })) s
  if back.isEmpty ∧ overRegions s.borrowOf ≤ overRegions s.loanOf then s
  else
    allRegions.foldl (fun s r => match (s.rp r).borrowFrom with
      | none => s
      | some k =>
        let s := match s.holder r with
          | some L => (s.modLaunch L.id fun L => { L with point := k }).lowerTo r (max k (s.point r))
          | none => s
        (s.modRp r fun P => { P with borrowFrom := none }).rset r PWR_RGN_STATE.BORROWING 0) s

/-- R398: the module's compute allowance. -/
def State.refillBudget (s : State) (t : Telemetry) : State :=
  let s := if t.watts = 0 ∨ t.out = 0 then s else { s with pwr := { s.pwr with effOut := t.out.toNat, effIn := t.watts.toNat } }
  let pin := min (s.fld PWR_CTL PWR_CTL.CAP) s.pwr.thermalIn
  { s with pwr := { s.pwr with amod := ((pin * s.pwr.effOut / s.pwr.effIn : Nat) : Int) - (t.other.toNat + s.pwr.guard : Nat) } }

/-! ### Thermal adjustment (R402, R403) -/

/-- Tr of a region. -/
def State.regionTemp (s : State) (r : RegionId) : Int :=
  let d := r.toNat / 4
  let q := r.toNat % 4
  (((List.range 12).map fun i => 12 * q + i) ++ [48 + 2 * q, 49 + 2 * q]).foldl (fun m i => max m (s.temp d i)) (-32768)

/-- Whole degrees of a reading above THROT. -/
def State.above (s : State) (t : Int) : Nat := ((t - 16 * (s.pwr.throt : Int)) / 16).toNat

/-- Whether a region may rise again: Tr at or below THROT - 3 °C. -/
def State.cool (s : State) (r : RegionId) : Bool := decide (s.regionTemp r ≤ 16 * ((s.pwr.throt : Int) - 3))

/-- R402: thermal adjustment. A region at or above THROT is lowered; TRIPPED ends once the region is cool. -/
def State.thermal (s : State) : State :=
  let s := allRegions.foldl (fun s r =>
    let t := s.regionTemp r
    let s := if s.rbit r PWR_RGN_STATE.TRIPPED && s.cool r then s.rset r PWR_RGN_STATE.TRIPPED 0 else s
    let s := if 16 * (s.pwr.throt : Int) ≤ t then
        (s.rset r PWR_RGN_STATE.THROTTLED 1).lowerTo r (min 7 (s.point r + max 1 (s.above t)))
      else s
    if s.rbit r PWR_RGN_STATE.THROTTLED then s.bump (PWR_THROT_CNT r.toNat) else s) s
  let ring := allDies.flatMap fun d => (List.range 8).map fun i => s.temp d.toNat (56 + i)
  let cut := ring.foldl (fun m t => max m (s.above t)) 0
  let hot := (allDies.flatMap fun d => (List.range 64).map fun i => s.temp d.toNat i).foldl max (-32768)
  let s := { s with pwr := { s.pwr with thermalIn := 3400 - 100 * cut, hottest := hot } }
  s.setFld PWR_STATUS PWR_STATUS.THERMAL_IN (if cut = 0 then 0 else 1)

/-! ### Starts and point choice (R407, R410, R411) -/

/-- Whether a region keeps its own point in a group: THROTTLED, TRIPPED or at a lend point (R411). -/
def State.apart (s : State) (r : RegionId) : Bool :=
  s.rbit r PWR_RGN_STATE.THROTTLED || s.rbit r PWR_RGN_STATE.TRIPPED || s.rbit r PWR_RGN_STATE.LENDING

/-- The tokens of a region of a running work-group, a lender's and a borrower's as they were before the loan. -/
def State.tokens (s : State) (r : RegionId) : Nat :=
  match s.holder r with
  | none => 0
  | some L =>
    match (s.rp r).borrowFrom with
    | some k => s.predict L.profile k
    | none => s.predict L.profile (if s.rbit r PWR_RGN_STATE.LENDING then s.point r else if s.apart r then max (s.point r) L.point else L.point)

/-- The tokens of a region with loans counted: its account (R399). -/
def State.account (s : State) (r : RegionId) : Nat :=
  if (s.holder r).isNone then s.measured r else s.tokens r + s.borrowOf r - s.loanOf r

/-- Region power of a die with `add` more on some regions stays within its rail limit (R398). -/
def State.dieFits (s : State) (add : RegionId → Nat) : Bool :=
  allDies.all fun d => decide ((((List.range 4).map fun i =>
    let r : RegionId := BitVec.ofNat 4 (d.toNat * 4 + i)
    s.account r + add r).sum) ≤ 680)

/-- The highest point a work-group may run at: its MAXPT and the limits of its regions. -/
def State.bound (s : State) (L : Launch) : Nat :=
  L.regions.foldl (fun m r => max m (s.fld (PWR_RGN_STATE r.toNat) PWR_RGN_STATE.MAXPT)) L.maxpt

/-- The point a work-group starts at: MINPT, or lower where a limit demands it. -/
def State.startPoint (s : State) (L : Launch) : Nat := max L.minpt (s.bound L)

/-- Whether every region of a queued work-group is idle, enabled and not TRIPPED, and none of its lines is in use (R410,
R448). -/
def State.regionsFree (s : State) (L : Launch) : Bool :=
  (L.regions.all fun r => !s.busyRegion r && !s.railOff r && !s.rbit r PWR_RGN_STATE.TRIPPED) &&
  (s.onRegions.all fun M => M.lines &&& L.lines == 0)

/-- A work-group started on all its regions. -/
def State.startGroup (s : State) (L : Launch) : State :=
  let k := s.startPoint L
  let s := L.regions.foldl (fun s r => s.applyRegion r) s
  let s := s.commitGens 16
  let g := (L.regions.map s.genOf).foldl max 0
  let s := s.modLaunch L.id fun L => { L with ph := .starting, point := k, gen := g }
  let s := L.regions.foldl (fun s r =>
    let s := s.rset r PWR_RGN_STATE.PROFILE L.profile
    if s.rbit r PWR_RGN_STATE.THROTTLED then s.lowerTo r (max k (s.point r)) else s.moveTo r k) s
  match s.host.launches.find? fun M => M.id == L.id with
  | some M => (s.pace M).tryStart M
  | none => s

/-- R343: a rule-0 launch runs on the cores that are not fenced as it starts. -/
def State.rule0Cores (s : State) (id : Nat) : State :=
  s.modLaunch id fun L => if L.rule0.isSome then { L with cores := L.cores.filter fun c => !s.fenced c } else L

/-- R410: one queued work-group looked at: started, or waiting and perhaps reserving its regions; free tokens and regions reserved
go on to the next. -/
def State.startOne (acc : State × Int × List RegionId) (id : Nat) : State × Int × List RegionId :=
  let (s, free, held) := acc
  let s := s.rule0Cores id
  match s.host.launches.find? fun M => M.id == id with
  | none => (s, free, held)
  | some L =>
    if L.cores.any s.fenced then ((s.modLaunch id fun L => { L with status := stFenced }).launchGone { L with status := stFenced }, free, held)
    else
      let s := s.modLaunch id fun L => { L with waited := L.waited + 1 }
      if L.regions.any held.contains then (s, free, held)
      else
        let one := s.predict L.profile (s.startPoint L)
        let need := one * L.regions.length
        if s.regionsFree L && decide ((need : Int) ≤ free) &&
            s.dieFits (fun r => if L.regions.contains r then one - s.account r else 0) then
          (s.startGroup L, free - need, held)
        else if s.pwr.reserve ≤ L.waited then
          (L.regions.foldl (fun s r => s.modRp r fun P => { P with resFor := some id }) s, free - need, held ++ L.regions)
        else (s, free, held)

/-- Launches in the order of R410: PRIO descending, then arrival. -/
def byPrio (ls : List Launch) : List Launch := (List.range 8).reverse.flatMap fun p => ls.filter fun L => L.prio == p

/-- R410: starts; what is left free. -/
def State.starts (s : State) : State × Int :=
  let s := allRegions.foldl (fun s r => s.modRp r fun P => { P with resFor := none }) s
  let free := s.pwr.amod - (overRegions s.tokens : Int)
  let q := byPrio (s.host.launches.filter fun L => L.ph == LaunchPh.queued)
  let (s, free, held) := (q.map (·.id)).foldl State.startOne (s, free, [])
  (allRegions.foldl (fun s r => s.rset r PWR_RGN_STATE.RESERVED (if held.contains r then 1 else 0)) s, free)

/-- The regions of a group that move with it. -/
def State.movers (s : State) (L : Launch) : List RegionId := L.regions.filter fun r => !s.apart r

/-- A group raised one point when the raise fits what is left; `loan` marks its regions as borrowers. -/
def State.raiseOne (s : State) (free : Int) (id : Nat) (loan : Bool) : State × Int × Bool :=
  match s.host.launches.find? fun M => M.id == id with
  | none => (s, free, false)
  | some L =>
    let rs := s.movers L
    let up := s.predict L.profile (L.point - 1) - s.predict L.profile L.point
    let cost : Int := ((up * rs.length : Nat) : Int)
    if L.point ≤ s.bound L ∨ rs.isEmpty ∨ free < cost ∨ !s.dieFits (fun r => if rs.contains r then up else 0) then (s, free, false)
    else
      let s := if loan then rs.foldl (fun s r =>
          (s.modRp r fun P => { P with borrowFrom := some (P.borrowFrom.getD L.point) }).rset r PWR_RGN_STATE.BORROWING 1) s else s
      (s.modLaunch id fun L => { L with point := L.point - 1 }, free - cost, true)

/-- Passes over the groups, one point each, until no raise fits (R411). -/
def State.raises (ids : List Nat) (loan : Bool) : Nat → State → Int → State × Int
  | 0, s, free => (s, free)
  | k + 1, s, free =>
    let (s, free, any) := ids.foldl (fun (s, free, any) id =>
      let (s, free, up) := s.raiseOne free id loan
      (s, free, any || up)) (s, free, false)
    if any then State.raises ids loan k s free else (s, free)

/-- The running groups in PRIO order. -/
def State.groupsByPrio (s : State) : List Nat := (byPrio (s.onRegions.filter fun L => L.ph != LaunchPh.ending)).map (·.id)

/-- R411, R417: groups above their bound come down to it, then groups are raised while a raise fits; borrowers keep their loan's
point. -/
def State.choose (s : State) (free : Int) : State × Int :=
  let ids := s.groupsByPrio
  let (s, free) := ids.foldl (fun (s, free) id =>
    match s.host.launches.find? fun M => M.id == id with
    | none => (s, free)
    | some L =>
      let b := s.bound L
      if b ≤ L.point then (s, free)
      else
        let n := (s.movers L).length
        let gain := (s.predict L.profile L.point - s.predict L.profile b) * n
        let s := L.regions.foldl (fun s r => (s.modRp r fun P => { P with borrowFrom := none }).rset r PWR_RGN_STATE.BORROWING 0) s
        (s.modLaunch id fun L => { L with point := b }, free + gain)) (s, free)
  let own := ids.filter fun id => match s.host.launches.find? fun M => M.id == id with
    | some L => !L.regions.any fun r => (s.rp r).borrowFrom.isSome
    | none => false
  State.raises own false 8 s free

/-! ### Lending (R412) -/

/-- A region whose LENDABLE bit is set begins to lend (R412), a THROTTLED one too; a TRIPPED one is held at P7 (R403). -/
def State.lend (s : State) (r : RegionId) : State :=
  let on := s.fld (SYN_WAIT_STATUS (r.toNat / 4)) SYN_WAIT_STATUS.LENDABLE / 2 ^ (r.toNat % 4) % 2 = 1
  match s.holder r with
  | none => s
  | some L =>
    if !on ∨ s.rbit r PWR_RGN_STATE.LENDING ∨ s.rbit r PWR_RGN_STATE.TRIPPED ∨ L.ph ≠ .running then s
    else
      let give := s.predict L.profile (s.point r) - s.lendTokens r L
      let s := (s.modRp r fun P => { P with lent := give, borrowFrom := none }).rset r PWR_RGN_STATE.BORROWING 0
      ((s.rset r PWR_RGN_STATE.LENDING 1).bump PWR_LEND_CNT).relockOnly r false

/-- R412: lending, and raises paid by the loan pool. -/
def State.lending (s : State) (free : Int) : State :=
  let s := allRegions.foldl State.lend s
  let pool : Int := (overRegions s.loanOf : Int) - overRegions s.borrowOf
  let s : State := { s with pwr := { s.pwr with free := free } }
  if overRegions s.loanOf = 0 then { s with pwr := { s.pwr with loan := 0 } }
  else
    let (s, left) := State.raises s.groupsByPrio true 8 s (max free 0 + max pool 0)
    { s with pwr := { s.pwr with loan := (min left (max pool 0)).toNat } }

/-! ### Points put in force -/

/-- The point a region is to run at: its group's, one lower for this tick after an overspend; a THROTTLED region rises one point
a tick when it is cool, and a TRIPPED one stays at P7; an idle region is at P7 (R399, R400, R402, R403). -/
def State.target (s : State) (r : RegionId) : Nat :=
  match s.holder r with
  | none => 7
  | some L =>
    let want := min 7 (L.point + (s.rp r).lower)
    if s.rbit r PWR_RGN_STATE.TRIPPED then 7
    else if s.rbit r PWR_RGN_STATE.THROTTLED then
      (if s.point r ≤ want then want else if s.cool r then max want (s.point r - 1) else s.point r)
    else want

/-- A region moved to its point; a THROTTLED one that has reached it and is cool is THROTTLED no more. -/
def State.place1 (s : State) (r : RegionId) : State :=
  let k := s.target r
  let s := if s.rbit r PWR_RGN_STATE.LENDING then s else s.moveTo r k
  if s.rbit r PWR_RGN_STATE.THROTTLED ∧ k ≤ s.point r ∧ s.cool r ∧ (match s.holder r with | some L => decide (k ≤ L.point) | none => true) = true then
    s.rset r PWR_RGN_STATE.THROTTLED 0
  else s

/-- Every region at its point, accounts shown, and what the next tick learns from noted. -/
def State.placeAll (s : State) : State :=
  allRegions.foldl (fun s r =>
    let s := s.place1 r
    let w := PWR_RGN_BUDGET.ACCOUNT.put (PWR_RGN_BUDGET.LENT.put (s.rd (PWR_RGN_BUDGET r.toNat)) (s.loanOf r + s.borrowOf r)) (s.account r)
    let s := s.wr (PWR_RGN_BUDGET r.toNat) w
    let base := match s.holder r with
      | some L => if L.ph = .running ∧ (s.rp r).moves.isEmpty ∧ !s.apart r then some (L.id, L.profile, s.point r) else none
      | none => none
    s.modRp r fun P => { P with base := base }) s

/-- R397 to R413: the 100 µs tick; cores whose engines reported HW_ERROR are fenced (R284). -/
def State.tick (s : State) (t : Telemetry) : State :=
  let s := (s.settleMoves.applySettings.readTelemetry t).tickTrips t
  let s := (t.hwErr.foldl (fun s c => s.fenceFor c 2) s.learn.overspends).fenceLaunches
  let s := (s.recalls.refillBudget t).thermal
  let (s, free) := s.starts
  let (s, free) := s.choose free
  let s := (s.lending free).placeAll
  let s := s.paceTick.logTick
  s.finishSettings.mapsDone

/-! ### Functions (R415, R416) -/

/-- A function's record. -/
def State.func (s : State) (f : Nat) : FuncSt := s.pwr.funcs.get (fun _ => {}) f

/-- A function's record set. -/
def State.setFunc (s : State) (f : Nat) (x : FuncSt) : State :=
  { s with pwr := { s.pwr with funcs := s.pwr.funcs.set (fun _ => {}) f x } }

/-- RAIL of a region shown. -/
def State.setRail (s : State) (f v : Nat) : State := if f < 16 then s.rset (BitVec.ofNat 4 f) PWR_RGN_STATE.RAIL v else s

/-- The port of a plane's or twin port's function. -/
def funcPort (f : Nat) : Nat := if f < 40 then f - 16 else f - 40 + 24

/-- Whether a region may not be shut down now (R415). -/
def State.shutBusy (s : State) (f : Nat) : Bool :=
  decide (f < 16) && (s.busyRegion (BitVec.ofNat 4 f) || (s.phase != 0 && !(s.layersOf (BitVec.ofNat 4 f)).isEmpty))

/-- A function's transition begun. -/
def State.beginFunc (s : State) (f : Nat) (on : Bool) : State :=
  let s := (s.setFunc f { s.func f with st := if on then 3 else 2 }).setRail f (if on then 3 else 2)
  -- a port skipped at start-up stays so (R348)
  if f < 16 ∨ s.portLink (funcPort f) = 3 then s else (s.setLink (funcPort f) (if on then 1 else 0)).unpause (funcPort f)

/-- The commands of a function that can run now run, in order (R416). -/
def State.runFunc (s : State) (f : Nat) : Nat → State
  | 0 => s
  | k + 1 =>
    let F := s.func f
    if 2 ≤ F.st then s
    else match F.queue with
      | [] => s
      | (id, on) :: rest =>
        if (F.st = 0) = on then ((s.setFunc f { F with queue := rest }).finish id stOk []).runFunc f k
        else if !on ∧ s.shutBusy f then ((s.setFunc f { F with queue := rest }).finish id stBusy []).runFunc f k
        else s.beginFunc f on

/-- R415, R416: FUNC_ENABLE and FUNC_DISABLE. -/
def State.opFunc (s : State) (x : CmdRec) (on : Bool) : State :=
  let f := pk x.pkt 8 1
  if 43 < f then s.reply x stUnsupported
  else
    let F := s.func f
    let s1 := s.setFunc f { F with queue := F.queue ++ [(x.id, on)] }
    if F.queue.isEmpty then s1.runFunc f 1 else s1.defer x.id

/-- A core of a region whose rail is off has lost its state: registers and all at their reset values; its fence stays. What waited to
enter it is discarded and counted (R33). -/
def State.coreLost (s : State) (c : CoreId) : State :=
  let base := COR_ID c.toNat
  let s := ((s.discardIn c).freeMiss c).clearRange base (base + 0x4000) fun _ => true
  s.modCore c fun C => { coreGen := C.coreGen + 1 }

/-- R415: a function's transition ends; a plane or twin port that is enabled has trained or not. -/
def State.funcDone (s : State) (f : Nat) (ok : Bool) : State :=
  let F := s.func f
  match F.st, F.queue with
  | 2, (id, _) :: rest =>
    let s := (s.setFunc f { st := 1, queue := rest }).setRail f 0
    let s := if f < 16 then (regionCores (BitVec.ofNat 4 f)).foldl State.coreLost s else s
    (s.finish id stOk []).runFunc f rest.length
  | 3, (id, _) :: rest =>
    let s := (s.setFunc f { st := 0, queue := rest }).setRail f 1
    let s := if f < 16 then s.regainRegion (BitVec.ofNat 4 f) else if s.portLink (funcPort f) = 1 then s.portTrained (funcPort f) ok else s
    (s.finish id stOk []).runFunc f rest.length
  | _, _ => s

/-! ### The power commands (R417) -/

/-- A field of a power command clamped and recorded. -/
def State.clampPk (s : State) (x : CmdRec) (off n lo hi : Nat) : State := (s.clampTo x.ring (pkOp x.pkt) off (pk x.pkt off n) lo hi).1

/-- A setting that applies at the next tick; its clamps are recorded now. -/
def State.opPowerSetting (s : State) (x : CmdRec) : State :=
  let s := match pkOp x.pkt with
    | 0x50 => s.clampPk x 8 4 1500 3400
    | 0x52 => s.clampPk x 10 1 0 7
    | 0x57 => ((((s.clampPk x 8 2 85 100).clampPk x 10 2 0 200).clampPk x 12 2 1 10000).clampPk x 14 2 400 1200).clampPk x 16 4 256 65535
    | _ => s
  { s with pwr := { s.pwr with after := s.pwr.after ++ [x.id] } }

/-- A signed number as a 64-bit word. -/
def word64 (i : Int) : Nat := unint 64 i

/-- R417: POWER_STATUS. -/
def State.opPowerStatus (s : State) (x : CmdRec) : State :=
  s.finish x.id stOk [s.fld PWR_IN PWR_IN.POWER, word64 s.pwr.amod, word64 s.pwr.free, s.pwr.loan, (s.rd PWR_STATUS).toNat,
    word64 s.pwr.hottest, (s.rd PWR_TICKS).toNat]

/-- R287, R417: PARK. -/
def State.opPark (s : State) (x : CmdRec) : State :=
  s.onCores x fun s cs =>
    if cs.any s.runs then s.reply x stBusy
    else (cs.foldl (fun s c => s.modCore c fun C => { C with parked := true }) s).reply x stOk

/-- R417: WAKE. -/
def State.opWake (s : State) (x : CmdRec) : State :=
  s.onCores x fun s cs => (cs.foldl (fun s c =>
    if s.runs c then s else s.wakeCore c) s).reply x stOk

end Sys2Proof.Machine
end

