-- ==== Sys2Proof/Machine/Startup.lean ====
section
/-!
DEFINITION. Sys2Proof/Machine/Startup.lean: the SPI NOR, the axolotl journal and the state block (R473 to R476), starts, tries and
policies (R469 to R472, R477 to R479), resets and power events (R513 to R517), firmware slots (R480 to R484), the firmware and
journal commands (R482, R489), and FATAL events (R497).
-/
namespace Sys2Proof.Machine

/-! ### The SPI NOR and the journal (R473 to R476) -/

/-- What a byte of the SPI NOR that the module has never written holds: what the maker put there, which the spec does not give. -/
def flashReset (a : Nat) : Byte := BitVec.ofNat 8 (Config.maker (2 ^ 20 + a))

/-- Start-up and board state changed. -/
def State.modSys (s : State) (f : SysSt → SysSt) : State := { s with sys := f s.sys }

/-- Non-volatile state changed. -/
def State.modNvm (s : State) (f : Nvm → Nvm) : State := s.modSys fun y => { y with nvm := f y.nvm }

/-- The state block changed: a whole copy is written (R476). -/
def State.modBlk (s : State) (f : StateBlk → StateBlk) : State := s.modNvm fun v => { v with blk := f v.blk }

/-- Bytes of the SPI NOR outside the journal, the state block and the twin settings. -/
def State.flash (s : State) (a n : Nat) : List Byte := s.sys.nvm.flash.getRun flashReset a n

/-- Bytes written into the SPI NOR. -/
def State.wrFlash (s : State) (a : Nat) (bs : List Byte) : State := s.modNvm fun v => { v with flash := v.flash.setRun flashReset a bs }

/-- CRC-32C of bytes: the Castagnoli polynomial, reflected, ones in and out (PRESUMED, in the log). -/
def crc32c (bs : List Byte) : BitVec 32 :=
  let bit (c : BitVec 32) : BitVec 32 := if c.getLsbD 0 then (c >>> 1) ^^^ 0x82F63B78 else c >>> 1
  ~~~(bs.foldl (fun c b => (List.range 8).foldl (fun c _ => bit c) (c ^^^ b.zeroExtend 32)) 0xFFFFFFFF)

/-- A journal entry's 32 bytes (R474). -/
def JEntry.bytes (e : JEntry) : List Byte :=
  let b := toLe 4 e.seq ++ toLe 4 e.start ++ toLe 1 e.step ++ toLe 1 e.tryNo ++ toLe 1 e.outcome ++ toLe 1 e.slot ++ toLe 2 e.object ++
    toLe 2 e.detail ++ toLe 4 e.ms ++ List.replicate 8 0
  b ++ toLe 4 (crc32c b).toNat

/-- An entry appended: a full sector makes the other one, erased, current (R475). -/
def Nvm.append (v : Nvm) (e : JEntry) : Nvm :=
  let v := { v with seq := e.seq }
  if v.cur then
    if v.sector1.length < 128 then { v with sector1 := v.sector1 ++ [e] } else { v with sector0 := [e], cur := false }
  else if v.sector0.length < 128 then { v with sector0 := v.sector0 ++ [e] }
  else { v with sector1 := [e], cur := true }

/-- A journal entry written (R474): step, try, outcome, object, detail. -/
def State.jlog (s : State) (step tryNo outcome object detail : Nat) : State :=
  let y := s.sys
  s.modNvm fun v => v.append ⟨v.seq + 1, y.start, step, tryNo, outcome, y.slot, object, detail, (s.now - y.began) / 1000000⟩

/-- The journal: the 64 valid entries of highest SEQ, oldest first (R475). -/
def State.journal (s : State) : List JEntry :=
  let v := s.sys.nvm
  let es := if v.cur then v.sector0 ++ v.sector1 else v.sector1 ++ v.sector0
  es.drop (es.length - 64)

/-- Four bytes of the SPI NOR as the sideband reads them: journal sectors entry by entry, an erased entry as ones; the layouts of
the state block and of the twin settings are not given, and their bytes are free values (R473, R525). -/
def State.flashRead (s : State) (a : Nat) : List Byte × State :=
  let v := s.sys.nvm
  let sec (es : List JEntry) (o : Nat) : List Byte :=
    match es[o / 32]? with
    | some e => (e.bytes.drop (o % 32)).take 4
    | none => List.replicate 4 0xFF
  if 0x14000 ≤ a ∧ a < 0x15000 then (sec v.sector0 (a - 0x14000), s)
  else if 0x15000 ≤ a ∧ a < 0x16000 then (sec v.sector1 (a - 0x15000), s)
  else if 0x10000 ≤ a ∧ a < 0x18000 then s.takeBytes 4
  else (s.flash a 4, s)

/-! ### Firmware slots (R480, R481) -/

/-- Where a slot lies in the SPI NOR. -/
def fwBase (slot : Nat) : Nat := if slot = 0 then 0x100000 else 0x1100000

/-- A field of a slot's header. -/
def State.fwField (s : State) (slot o n : Nat) : Nat := leNat (s.flash (fwBase slot + o) n)

/-- R481: a slot verified: 0 pass, else the DETAIL code of step 3. -/
def State.verify (s : State) (slot : Nat) : Nat :=
  let f := s.fwField slot
  let b := fwBase slot
  let pub := s.flash (b + 64) 64
  let key := f 48 1
  if f 0 4 ≠ 0x4F584657 ∨ 16 * 2 ^ 20 - 256 < f 12 4 then 6
  else if 3 < key ∨ leNat (sm3 pub) ≠ Config.maker (0x10010 + key) ∨ s.fuses.keyRevoked.getLsbD key then 2
  else if !Config.verify (1 + leNat pub) (leNat (sm3 (s.flash b 128))) (leNat (s.flash (b + 128) 64)) then 3
  else if f 8 4 < s.fuses.svnMin.toNat then 5
  else if sm3 (s.flash (b + 256) (f 12 4)) ≠ s.flash (b + 16) 32 then 4
  else 0

/-! ### Losing state: rails off, resets, restarts (R469, R471, R513 to R517) -/

/-- Host memory, which no event of the module touches. -/
def State.hostPart (s : State) : Tab Byte × Tab Bool :=
  (s.mem.filter fun e => decide (0x200000000000 ≤ e.1), s.poison.filter fun e => decide (0x20000000000 ≤ e.1))

/-- Whether a register belongs to the always-on block: the sideband's, and MOD_LINK_CTL. -/
def alwaysOn (a : Nat) : Bool := a == MOD_LINK_CTL || (decide (2 ^ 52 ≤ a) && decide (a < 2 ^ 53))

/-- Whether a register outlives a restart: the always-on block's, the MOD_ and MBX_ blocks and the MSI-X table. -/
def pastRestart (a : Nat) : Bool :=
  alwaysOn a || decide (2 ^ 53 ≤ a) || (decide (0x120d00000000 ≤ a) && decide (a < 0x120f00000000))

/-- Everything on the dies at its reset value; registers that `keep` names stay, as do the always-on block, the SPI NOR, the fuses
and host memory. -/
def State.diesDown (s : State) (keep : Nat → Bool := alwaysOn) : State :=
  let y := s.sys
  let (mem, poison) := s.hostPart
  { (State.reset) with
    pending := s.pending, free := s.free, fuses := s.fuses, out := s.out, mem := mem, poison := poison
    regs := s.regs.filter fun e => keep e.1
    twn := { stored := s.twn.stored }
    sys := { vin := y.vin, ovp := y.ovp, shutdown := y.shutdown, hold := y.hold, resetWait := y.resetWait, rstLow := y.rstLow, perst := y.perst
             halted := y.halted, step := y.step, start := y.start, slot := y.slot, trialNow := y.trialNow, nvm := y.nvm, samples := y.samples, board := y.board } }

/-- A start begins at a step (R469). -/
def State.beginStart (s : State) (step : Nat) : State :=
  s.modSys fun y => { y with
    step := step, start := y.nvm.starts + 1, began := s.now, tries := [], lost := 0, railWait := false
    nvm := { y.nvm with starts := y.nvm.starts + 1 } }

/-- A bit of MOD_SB_CAUSE latched. -/
def State.cause (s : State) (f : Fld) : State := s.setFld MOD_SB_CAUSE f 1

/-- R513, R517: a module reset; within 10 s of a thermal shut-down it waits. -/
def State.moduleReset (s : State) : State :=
  if s.sys.hold then s.modSys fun y => { y with resetWait := true }
  else ((s.diesDown).modSys fun y => { y with shutdown := false, halted := false, resetWait := false, trialNow := false }).beginStart 1

/-- A restart the module makes itself (R469, R471): the rails, the always-on block, the MOD_ block and the MSI-X table stay,
the mailboxes are reset on the firmware side. -/
def State.restart2 (s : State) : State :=
  let log := s.log
  let s := (s.mbxReset false).diesDown pastRestart
  let s := ((s.wr MOD_LINK_STATUS 0).modSys fun y => { y with rails := true, trialNow := false })
  ({ s with log := log }).beginStart 2

/-- R513, R514: the die rails go down and stay down. -/
def State.shutDown (s : State) (hold : Bool) : State :=
  (s.diesDown).modSys fun y => { y with shutdown := true, hold := hold }

/-- R477, R479: a start halts. -/
def State.haltNow (s : State) (tryNo obj detail : Nat) : State :=
  let s := s.jlog s.sys.step tryNo 5 obj detail
  ((s.diesDown).modSys fun y => { y with halted := true }).cause MOD_SB_CAUSE.HALT

/-! ### The steps of a start (R469, R472, R478) -/

/-- Whether a start is going on. -/
def State.starting (s : State) : Bool :=
  let y := s.sys
  y.vin && !y.ovp && !y.rstLow && !y.shutdown && !y.halted && !y.railWait && !y.scanHeld && decide (y.step < 13)

/-- R478: step 3 begins: FAILSTARTS, INCOMPLETE, the trial, the slot, the START entry; the eighth failed start in a row halts. -/
def State.beginStep3 (s : State) : State :=
  let b := s.sys.nvm.blk
  let fs := if b.incomplete then b.failStarts + 1 else b.failStarts
  let back := b.incomplete && b.trial == 2
  let old := b.next
  let trial := if back then 0 else if b.trial = 1 then 2 else b.trial
  let next := if back then b.prevSlot else b.next
  let s := s.modBlk fun b => { b with failStarts := fs, incomplete := true, next := next, trial := trial, failedPrev := b.failedNow, failedNow := [] }
  let s := s.modSys fun y => { y with slot := next, trialNow := trial == 2, step := 3 }
  let s := s.jlog 0 0 6 0xFFFF fs
  let s := if back then s.jlog 3 1 7 old 0 else s
  if 8 ≤ fs then s.haltNow 1 0xFFFF 0 else s

/-- Step 11 begins: the fabric ports train, with EN set by the start, and so do the twin ports (R348, R374, R376). -/
def State.beginStep11 (s : State) : State :=
  let s := (List.range 24).foldl (fun s p => (s.setFld (FAB_PORT_CFG (p / 6) (p % 6)) FAB_PORT_CFG.EN 1).setLink p 1) s
  [24, 25, 26, 27].foldl (fun s p => s.setLink p 1) s

/-- Step 12 begins (R394, R522): the stored settings are bonded, unless there are none or no twin is installed. -/
def State.beginStep12 (s : State) (twin : Bool) (mirdig : BitVec 256) : State :=
  match s.twn.stored with
  | some b => if twin then s.startBond b none mirdig else s.modSys fun y => { y with noBond := true }
  | none => s.modSys fun y => { y with noBond := true }

/-- Step 13 (R472, R478): the module is ready. -/
def State.ready (s : State) : State :=
  let s := (s.modSys fun y => { y with step := 13 }).jlog 13 1 1 0xFFFF 0
  let s := s.modBlk fun b => { b with incomplete := false, failStarts := 0, trial := if b.trial = 2 then 0 else b.trial }
  let s := s.fwReady
  if s.host.linkUp then s.emit (.host 5 []) else s

/-- What a step must have reached to pass, where the state of the module says it. -/
def State.mayPass (s : State) : Bool :=
  match s.sys.step with
  | 3 => s.verify s.sys.slot == 0
  | 10 => s.host.linkUp || s.sys.linkRetry
  | 12 => s.sys.noBond || s.twin == 2 || s.twin == 3
  | _ => true

/-- The try at which a step passes: the try after the failures of any one object, or the last of an object given up. -/
def State.passTry (s : State) (limit : Nat) : Nat := s.sys.tries.foldl (fun m e => max m (min limit (e.2 + 1))) 1

/-- Tries per start (R477). -/
def triesOf (step : Nat) : Nat := [0, 3, 2, 2, 2, 3, 2, 3, 3, 2, 1, 3, 3].getD step 1

/-- R469: the step in progress passes and the next begins. -/
def State.stepPass (s : State) (twin : Bool) (mirdig : BitVec 256) : State :=
  let k := s.sys.step
  if !s.starting || !s.mayPass then s
  else
    let s := s.jlog k (s.passTry (triesOf k)) 1 0xFFFF s.sys.lost
    let s := (s.modSys fun y => { y with tries := [], lost := 0 }).modBlk fun b => { b with failedPrev := b.failedPrev.filter fun e => e.1 != k }
    match k with
    | 1 =>
      let s := s.modSys fun y => { y with rails := true, taps := [] }
      if s.bit MOD_SB_CTL MOD_SB_CTL.SCAN_HOLD then s.modSys fun y => { y with scanHeld := true } else s.modSys fun y => { y with step := 2 }
    | 2 =>
      let ok := chainOk chainBytes s.fuses.serial.toNat
      let s := if ok then s else (s.jlog 2 1 8 0xFFFF 3).setFld SEC_STATUS SEC_STATUS.CHAIN_BAD 1
      s.beginStep3
    | 3 =>
      let n := s.sys.slot
      s.modSys fun y => { y with step := 4, version := s.fwField n 4 4, svn := s.fwField n 8 4, digest := s.flash (fwBase n + 16) 32 }
    | 7 =>
      let t := s.sys.nvm.blk.timing
      let on := (List.range 32).filter fun i => t.get (fun _ => 0) i != 2
      let w := MEM_CHMAP.C.put (MEM_CHMAP.DEV_ACTIVE.put 0 ((on.map fun i => 2 ^ i).sum)) (4 * on.length)
      (allDies.foldl (fun s d => s.wr (MEM_CHMAP d.toNat) w) s).modSys fun y => { y with step := 8 }
    | 8 =>
      let old := s.sys.nvm.blk.fenced
      (allCores.foldl (fun s c => if old.get (fun _ => false) c.toNat ∧ s.enabled c then s.fence c else s) s).modSys fun y => { y with step := 9 }
    | 9 => s.modSys fun y => { y with step := 10, linkTry := !y.perst }
    | 10 => (s.modSys fun y => { y with step := 11 }).beginStep11
    | 11 => (s.modSys fun y => { y with step := 12 }).beginStep12 twin mirdig
    | 12 => s.ready
    | _ => s.modSys fun y => { y with step := k + 1 }

/-! ### Tries that fail, and policies (R477, R483) -/

/-- HALT, which in steps 4 to 9 of a trial start becomes RESTART (R483). -/
def State.haltOr (s : State) (tryNo obj detail : Nat) : State :=
  if s.sys.trialNow ∧ 4 ≤ s.sys.step ∧ s.sys.step ≤ 9 then (s.jlog s.sys.step tryNo 3 obj detail).restart2 else s.haltNow tryNo obj detail

/-- RESTART. -/
def State.policyRestart (s : State) (tryNo obj detail : Nat) : State := (s.jlog s.sys.step tryNo 3 obj detail).restart2

/-- REDUCE: the start goes on with one unit less. -/
def State.reduce (s : State) (tryNo obj detail : Nat) : State :=
  (s.jlog s.sys.step tryNo 4 obj detail).modSys fun y => { y with lost := y.lost + 1 }

/-- The policy of the step in progress for an object whose tries are used up (R477). -/
def State.policy (s : State) (n obj detail : Nat) : State :=
  let k := s.sys.step
  let again := s.sys.nvm.blk.failedPrev.contains (k, obj)
  let s := s.modBlk fun b => { b with failedNow := b.failedNow ++ [(k, obj)] }
  match k with
  | 1 | 2 => s.haltNow n obj detail
  | 3 =>
    let other := 1 - obj % 2
    let s := s.modBlk fun b => { b with bad := b.bad ||| (if obj = 0 then 1 else 2), next := other }
    if s.sys.nvm.blk.bad.getLsbD other then s.haltNow n obj detail else s.policyRestart n obj detail
  | 7 =>
    let t := s.sys.nvm.blk.timing
    if t.get (fun _ => 0) obj = 0 then
      (s.modBlk fun b => { b with timing := t.set (fun _ => 0) obj 1 }).policyRestart n obj detail
    else
      let gone := ((List.range 32).filter fun i => t.get (fun _ => 0) i == 2).length
      if 4 ≤ gone then s.haltOr n obj detail
      else (s.modBlk fun b => { b with timing := t.set (fun _ => 0) obj 2 }).reduce n obj detail
  | 8 =>
    let c : CoreId := BitVec.ofNat 10 obj
    let s := s.modBlk fun b => { b with fenced := b.fenced.set (fun _ => false) obj true }
    ((s.fence c).event 0x0017 3 (srcOf 0 obj) 0 0 [1]).reduce n obj detail
  | 10 => (s.jlog 10 n 8 obj detail).modSys fun y => { y with linkTry := false, linkRetry := true }
  | 11 => (s.setLink obj 3).reduce n obj detail
  | 12 =>
    let s := if s.twin = 1 then s.endBond stAborted 0 0 else s.setTwin 0
    (s.modSys fun y => { y with noBond := true }).reduce n obj detail
  | _ => if again then s.haltOr n obj detail else s.policyRestart n obj detail

/-- Whether an object is one that a try of the step in progress can fail on. -/
def State.canFail (s : State) (obj detail : Nat) : Bool :=
  match s.sys.step with
  | 3 => detail == 1 || s.verify s.sys.slot != 0
  | 7 => decide (obj < 32) && s.sys.nvm.blk.timing.get (fun _ => 0) obj != 2
  | 8 => decide (obj < 1024) && s.enabled (BitVec.ofNat 10 obj) && !s.sys.nvm.blk.fenced.get (fun _ => false) obj
  | 10 => !s.host.linkUp && !s.sys.linkRetry && !s.sys.perst
  | 11 => decide (obj < 28) && s.portLink obj == 1
  | 12 => !s.sys.noBond && s.twin != 2 && s.twin != 3
  | _ => true

/-- R477: a try fails; with the tries used up, the step's policy acts. -/
def State.tryFail (s : State) (obj detail : Nat) (mirdig : BitVec 256) : State :=
  let k := s.sys.step
  let obj := if k = 3 then s.sys.slot else obj
  let detail := match k with
    | 3 => if detail = 1 then 1 else s.verify s.sys.slot
    | 7 => 1 + min 1 (s.sys.nvm.blk.timing.get (fun _ => 0) obj)
    | 2 | 8 | 12 => detail
    | _ => 0
  if !s.starting || !s.canFail obj detail then s
  else
    let n := s.sys.tries.get (fun _ => 0) obj + 1
    let s := (s.jlog k n 2 obj detail).modSys fun y => { y with tries := y.tries.set (fun _ => 0) obj n }
    if n < triesOf k then
      match k, s.twn.stored with
      | 1, _ => s.modSys fun y => { y with railWait := true }
      | 12, some b => s.startBond b none mirdig
      | _, _ => s
    else s.policy n obj detail

/-! ### Power and reset events (R513 to R517) -/

/-- R515: the input rises through 38.5 V. -/
def State.vinRise (s : State) : State :=
  if s.sys.vin then s else (s.modSys fun y => { y with vin := true }).moduleReset

/-- R516, R525: the input falls through 37.0 V: everything but the SPI NOR, the fuses and host memory is gone. -/
def State.vinFall (s : State) : State :=
  if !s.sys.vin then s
  else
    let s := s.diesDown fun _ => false
    s.modSys fun y => { y with vin := false, ovp := false, shutdown := false, hold := false, resetWait := false, halted := false, step := 1
                               samples := [], board := 0 }

/-- R517: MOD_RST# low for 10 µs. -/
def State.rstAssert (s : State) : State :=
  if !s.sys.vin then s else ((s.modSys fun y => { y with rstLow := true }).cause MOD_SB_CAUSE.PIN_RESET).moduleReset

/-- R515: MOD_RST# deasserted. -/
def State.rstDeassert (s : State) : State := s.modSys fun y => { y with rstLow := false }

/-- R514: more than 100 A for 1 ms. -/
def State.overcurrent (s : State) : State := if !s.sys.vin then s else (s.shutDown false).cause MOD_SB_CAUSE.OCP

/-- R514: the input above 62.0 V. -/
def State.overvoltage (s : State) : State :=
  if !s.sys.vin then s else ((s.diesDown).modSys fun y => { y with ovp := true, halted := false, step := 1 }).cause MOD_SB_CAUSE.OVP

/-- R514: the input falls through 61.0 V: the rails come back through a module reset. -/
def State.overvoltageOff (s : State) : State := if s.sys.ovp then (s.modSys fun y => { y with ovp := false }).moduleReset else s

/-- R513: a comparator's threshold: 0 a die sensor, 1 the converter hotspot, 2 the coolant outlet. -/
def State.overtemp (s : State) (which : Nat) : State :=
  if !s.sys.vin then s
  else match which with
    | 0 => (s.shutDown true).cause MOD_SB_CAUSE.DIE_OT
    | 1 => (s.shutDown true).cause MOD_SB_CAUSE.CONV_OT
    | 2 => (s.shutDown true).cause MOD_SB_CAUSE.COOLANT
    | _ => s

/-- R513: the 10 s have passed. -/
def State.holdExpire (s : State) : State :=
  let wait := s.sys.resetWait
  let s := s.modSys fun y => { y with hold := false, resetWait := false }
  if wait then s.moduleReset else s

/-- R525: MOD_SB_CTL written: ALERT_EN and SCAN_HOLD; JNL_CLEAR and RESET_REQ with one reset. -/
def State.sbCtl (s : State) (v : Word) : State :=
  let s := s.plainWrite MOD_SB_CTL v
  if v.getLsbD 1 then
    ((s.modBlk fun b => { b with failStarts := 0, bad := 0 }).cause MOD_SB_CAUSE.SB_RESET).moduleReset
  else if v.getLsbD 0 then (s.cause MOD_SB_CAUSE.SB_RESET).moduleReset
  else s

/-- FAULT# (R519). -/
def State.faultPin (s : State) : Bool := s.sys.halted || s.sys.shutdown || s.sys.ovp || s.bit MOD_ERR_STATUS MOD_ERR_STATUS.FATAL

/-- SMBALERT# (R524). -/
def State.alertPin (s : State) : Bool :=
  s.bit MOD_SB_CTL MOD_SB_CTL.ALERT_EN && ((s.rd MOD_SB_CAUSE != 0) || s.bit MOD_ERR_STATUS MOD_ERR_STATUS.FATAL)

/-! ### FATAL events (R492, R497, R498) -/

/-- R497: a FATAL event: its record, FATAL, every program stopped, every command completed HW_ERROR. -/
def State.fatal (s : State) (type src : Nat) (data : List Byte) : State :=
  let s := ((s.event type 2 src 0 0 data).emit (.aer true)).emit (.ras 4)
  let s := s.setFld MOD_ERR_STATUS MOD_ERR_STATUS.FATAL 1
  let s := allCores.foldl (fun s c => if s.runs c then s.stopProgram c else s) s
  let s := (s.host.cmds.map (·.id)).foldl (fun s id => s.finish id stHwError []) s
  s.host.launches.foldl State.launchGone s

/-- The link of a die and its neighbour over it (R24). -/
def d2dLink (d : DieId) (vert : Bool) : Nat × DieId := if vert then (2 + d.toNat % 2, d ^^^ 2) else (d.toNat / 2, d ^^^ 1)

/-- R497: a flit of a die-to-die link is resent; the 256th resend within 1 ms makes the link retrain. -/
def State.d2dResend (s : State) (d : DieId) (vert : Bool) : State :=
  let (l, e) := d2dLink d vert
  let s := s.corrected MOD_D2D_RETRY 0x0005 (srcOf 3 d.toNat) 0 0 (toLe 1 e.toNat)
  let ts := ((s.log.d2d.get (fun _ => []) l).filter fun t => decide (s.now < t + 1000000)) ++ [s.now]
  let full := decide (256 ≤ ts.length)
  { s with log := { s.log with d2d := s.log.d2d.set (fun _ => []) l (if full then [] else ts)
                               d2dTrain := if full ∧ !s.log.d2dTrain.contains l then s.log.d2dTrain ++ [l] else s.log.d2dTrain } }

/-- R497: a retraining ends; a failed one is a D2D_FAIL. -/
def State.d2dTrained (s : State) (d : DieId) (vert ok : Bool) : State :=
  let (l, e) := d2dLink d vert
  if !s.log.d2dTrain.contains l then s
  else
    let s : State := { s with log := { s.log with d2dTrain := s.log.d2dTrain.filter (· != l) } }
    if ok then s else s.fatal 0x0021 (srcOf 3 d.toNat) (toLe 1 e.toNat)

/-! ### Firmware and journal commands (R482 to R484, R489) -/

/-- The slot not in use. -/
def State.otherSlot (s : State) : Nat := 1 - s.sys.slot % 2

/-- A bit of BAD or STAGED. -/
def slotBit (n : Nat) : BitVec 2 := if n = 0 then 1 else 2

/-- R482, R483: FW_STAGE begins: STAGED and BAD of the target clear, the body is written, the header last. -/
def State.opFwStage (s : State) (x : CmdRec) : State :=
  if s.sys.stage.isSome then s.reply x stBusy
  else
    let (s, n) := s.clampTo x.ring 0xA0 16 (pk x.pkt 16 4) 256 (16 * 2 ^ 20)
    match s.cmdRead (pkPhys x.pkt) (pk x.pkt 8 8) n with
    | none => s.reply x stHwError
    | some bs =>
      let t := s.otherSlot
      let s := s.modBlk fun b => { b with staged := b.staged &&& ~~~(slotBit t), bad := b.bad &&& ~~~(slotBit t) }
      let s := s.wrFlash (fwBase t) (List.replicate 256 0xFF ++ bs.drop 256)
      s.modSys fun y => { y with stage := some x.id, stageHead := bs.take 256 }

/-- R483: writing and verifying the staged slot ends. -/
def State.stageDone (s : State) (readErr : Bool) : State :=
  match s.sys.stage with
  | none => s
  | some id =>
    let t := s.otherSlot
    let s := (s.wrFlash (fwBase t) s.sys.stageHead).modSys fun y => { y with stage := none, stageHead := [] }
    let d := if readErr then 1 else s.verify t
    if d = 0 then
      (s.modBlk fun b => { b with staged := b.staged ||| slotBit t }).finish id stOk [s.fwField t 4 4]
    else s.finish id stAuthFail [d]

/-- R482, R483: FW_ACTIVATE without its restart: the staged slot is the next start's. -/
def State.opFwActivate (s : State) (x : CmdRec) : State × Bool :=
  let b := s.sys.nvm.blk
  let t := s.otherSlot
  let n := if b.staged.getLsbD t then some t else if b.staged.getLsbD (1 - t) then some (1 - t) else none
  match n with
  | none => (s.reply x stAuthFail, false)
  | some n =>
    let s := s.modBlk fun b => { b with next := n, prevSlot := s.sys.slot, staged := b.staged &&& ~~~(slotBit n)
                                        trial := if pk x.pkt 8 1 % 2 = 1 then 1 else 0 }
    if pk x.pkt 8 1 / 2 % 2 = 1 then (s, true) else (s.reply x stOk, false)

/-- VERSION of each slot that verifies, as SEC_FWVER shows it. -/
def State.fwVersions (s : State) : Nat :=
  let v (n : Nat) : Nat := if s.verify n = 0 then s.fwField n 4 4 else 0
  v 0 + v 1 * 2 ^ 32

/-- SEC_STATUS as it reads (R490). -/
def State.secStatus (s : State) : Word :=
  let b := s.sys.nvm.blk
  let w := SEC_STATUS.SVN_MIN.put (s.rd SEC_STATUS) s.fuses.svnMin.toNat
  let w := SEC_STATUS.BAD.put (SEC_STATUS.SVN_RUN.put w s.sys.svn) b.bad.toNat
  let w := SEC_STATUS.NEXT.put (SEC_STATUS.STAGED.put w b.staged.toNat) b.next
  SEC_STATUS.ACTIVE.put w s.sys.slot

/-- R482: FW_STATUS. -/
def State.opFwStatus (s : State) (x : CmdRec) : State :=
  s.finish x.id stOk [s.secStatus.toNat, s.fwVersions, s.fuses.keyRevoked.toNat % 16]

/-- R482, R484: SVN_COMMIT; a staged slot below the new minimum loses STAGED. -/
def State.opSvnCommit (s : State) (x : CmdRec) : State :=
  let m := max s.fuses.svnMin.toNat s.sys.svn
  let s : State := { s with fuses := { s.fuses with svnMin := BitVec.ofNat 8 m } }
  let keep := (List.range 2).foldl (fun w n => if s.fwField n 8 4 < m then w else w ||| slotBit n) (0 : BitVec 2)
  (s.modBlk fun b => { b with staged := b.staged &&& keep }).reply x stOk

/-- R489: JNL_READ. -/
def State.opJnlRead (s : State) (x : CmdRec) : State :=
  let es := s.journal
  let (s, ok) := s.cmdWrite (pkPhys x.pkt) (pk x.pkt 8 8) (es.flatMap JEntry.bytes)
  if ok then s.finish x.id stOk [es.length, s.sys.nvm.seq] else s.reply x stHwError

/-- R489: JNL_STATE; the layout of the state block is not given, and its 8 KiB are free values. -/
def State.opJnlState (s : State) (x : CmdRec) : State :=
  let (bs, s) := s.takeBytes 8192
  s.writeOut x bs

/-- R489: JNL_RESET_POLICY. -/
def State.opJnlPolicy (s : State) (x : CmdRec) : State :=
  let only (k : Nat) (b : StateBlk) : Tab Nat := b.timing.filter fun e => e.2 != k
  match pk x.pkt 8 1 with
  | 0 => (s.modBlk fun b => { b with timing := only 1 b }).reply x stOk
  | 1 => (s.modBlk fun b => { b with timing := only 2 b }).reply x stOk
  | 2 => (s.modBlk fun b => { b with fenced := [] }).reply x stOk
  | 3 => (s.modBlk fun b => { b with failedPrev := [], failedNow := [] }).reply x stOk
  | _ => s.reply x stUnsupported

end Sys2Proof.Machine
end

