-- ==== Sys2Proof/Machine/RegFile.lean ====
section
/-!
DEFINITION. Sys2Proof/Machine/RegFile.lean: what a read of a register returns and what a write does, whoever makes it: firmware, the
host through BAR0, the SMBus sideband, a command, or CCDBG (R10 to R12, R422, R423, R446, R524, R525, R527).
-/
namespace Sys2Proof.Machine

/-! ### Reading -/

/-- The state of a channel as FAB_CHAN_STATUS shows it: 0 UNSET, 1 IDLE, 2 WAIT_LOCAL, 3 SENDING, 4 WAIT_CONTRIB, 5 NO_PLANE
(R359, R374). -/
def State.chanState (s : State) (c : Nat) : Nat :=
  match s.chan c with
  | none => 0
  | some C =>
    match s.group C.group, C.reds.find? fun R => !R.done with
    | some G, some R =>
      let macs := (G.dests R).map fun e => G.mac e.1 e.2.1
      if macs.any fun m => (s.livePlanes C m).isEmpty then 5
      else if !R.begun then 2
      else if macs.isEmpty || decide (R.formed < R.nseg) then 4
      else 3
    | _, _ => 1

/-- FAB_CHAN_STATUS as it reads. -/
def State.chanView (s : State) (c : Nat) : Word :=
  match s.chan c with
  | none => 0
  | some C =>
    let rsn := match C.reds.find? fun R => !R.done with
      | some R => R.rsn
      | none => C.rsn
    FAB_CHAN_STATUS.STATE.put (FAB_CHAN_STATUS.GROUP.put (FAB_CHAN_STATUS.RSN.put 0 rsn) C.group) (s.chanState c)

/-- CLU_SORT_STATUS as it reads (R260). -/
def State.sorterView (s : State) (k : Nat) : Word :=
  let n := ((List.range 16).map fun i => (s.core (BitVec.ofNat 10 (k * 16 + i))).park.length).sum
  CLU_SORT_STATUS.PARKED.put (CLU_SORT_STATUS.LINES.put 0 (s.sorter (BitVec.ofNat 6 k)).entries.length) n

/-- JNL_STATUS as it reads (R490). -/
def State.jnlStatus (s : State) : Word :=
  let w := JNL_STATUS.START.put 0 s.sys.start
  let w := JNL_STATUS.FAILSTARTS.put w s.sys.nvm.blk.failStarts
  JNL_STATUS.STEP.put (JNL_STATUS.TRIAL.put w (if s.sys.trialNow then 1 else 0)) s.sys.step

/-- The mean of a measure of the input samples of the last millisecond (R524). -/
def State.sampleMean (s : State) (f : Nat × Nat → Nat) : Nat :=
  if s.sys.samples.isEmpty then 0 else (s.sys.samples.map f).sum / s.sys.samples.length

/-- MOD_SB_STATUS as it reads (R525). -/
def State.sbStatus (s : State) : Word :=
  let y := s.sys
  let b (f : Fld) (x : Bool) (w : Word) : Word := f.put w (if x then 1 else 0)
  let v := s.sampleMean (·.1)
  b MOD_SB_STATUS.SHUTDOWN y.shutdown <| b MOD_SB_STATUS.FATAL (s.bit MOD_ERR_STATUS MOD_ERR_STATUS.FATAL) <|
  b MOD_SB_STATUS.HALT y.halted <| b MOD_SB_STATUS.TRIAL y.trialNow <| b MOD_SB_STATUS.SCAN_HELD y.scanHeld <|
  b MOD_SB_STATUS.DIES_ON y.rails <| b MOD_SB_STATUS.VIN_OK (decide (40000 ≤ v) && decide (v ≤ 60000)) <|
  MOD_SB_STATUS.FAILSTARTS.put (MOD_SB_STATUS.STEP.put 0 y.step) y.nvm.blk.failStarts

/-- MOD_SB_TEMP as it reads: the highest die sensor, its die and number; 0x8000 with the rails off (R524, R525). -/
def State.sbTemp (s : State) : Word :=
  if !s.sys.rails then 0x8000
  else
    let (t, i) := (List.range 256).foldl (fun (t, k) i => let x := s.temp (i / 64) (i % 64); if t < x then (x, i) else (t, k)) ((-32768 : Int), 0)
    MOD_SB_TEMP.SENSOR.put (MOD_SB_TEMP.DIE.put (MOD_SB_TEMP.TEMP.put 0 (unint 16 t)) (i / 64)) (i % 64)

/-- A sideband register as it reads. -/
def State.sbRead (s : State) (a : Nat) : Word :=
  if a = MOD_SB_ID then
    MOD_SB_ID.STEPPING.put (MOD_SB_ID.GRADE.put (MOD_SB_ID.MEMBER.put 0 0x1024) s.fuses.grade.toNat) (Config.maker 0x10001 % 16)
  else if a = MOD_SB_SERIAL_LO then (s.fuses.serial.extractLsb' 0 32).zeroExtend 64
  else if a = MOD_SB_SERIAL_HI then (s.fuses.serial.extractLsb' 32 32).zeroExtend 64
  else if a = MOD_SB_STATUS then s.sbStatus
  else if a = MOD_SB_LINK then s.rd MOD_LINK_CTL &&& 0x3FF
  else if a = MOD_SB_VIN then MOD_SB_VIN.CURRENT.put (MOD_SB_VIN.VOLTAGE.put 0 (s.sampleMean (·.1))) (s.sampleMean (·.2))
  else if a = MOD_SB_PIN then
    MOD_SB_PIN.CAP.put (MOD_SB_PIN.POWER.put 0 (s.sampleMean (fun e => e.1 * e.2) / 100000)) (s.fld PWR_CTL PWR_CTL.CAP)
  else if a = MOD_SB_TEMP then s.sbTemp
  else if a = MOD_SB_BOARDT then s.sys.board.zeroExtend 64
  else s.rd a

/-- What a read of the register at an address returns; 0 where the address names none (R423). -/
def State.rdView (s : State) (a : Nat) : Word :=
  if a < 0x120100000000 then s.corRead (BitVec.ofNat 10 ((a - 0x120000000000) / 0x4000)) a
  else if a < 0x120200000000 then
    let o := (a - 0x120100000000) % 0x10000
    if 0x100 ≤ o ∧ o < 0x500 then s.rgnRead (BitVec.ofNat 2 ((a - 0x120100000000) / 0x10000)) a else s.rd a
  else if 0x120300000000 ≤ a ∧ a < 0x120400000000 then
    let k := (a - 0x120300000000) / 0x1000
    if a = CLU_SORT_STATUS k then s.sorterView k else s.rd a
  else if 0x120500000000 ≤ a ∧ a < 0x120600000000 then
    let d := (a - 0x120500000000) / 0x100000
    let o := (a - 0x120500000000) % 0x100000
    if 0x20 ≤ o ∧ o < 0x40 then BitVec.ofNat 64 (s.fenceMap d ((o - 0x20) / 8))
    else if 0x10000 ≤ o ∧ (o - 0x10000) % 256 = 0 then
      let c : CoreId := BitVec.ofNat 10 (d * 256 + (o - 0x10000) / 256)
      let w := NOC_RT_CTL.FENCE.put (s.rd a) (if s.fenced c then 1 else 0)
      NOC_RT_CTL.NEWT.put (NOC_RT_CTL.FUSED.put w (if s.enabled c then 0 else 1)) (if (s.core c).parked then 1 else 0)
    else s.rd a
  else if 0x120700000000 ≤ a ∧ a < 0x120800000000 then
    let d := (a - 0x120700000000) / 0x10000
    let o := (a - 0x120700000000) % 0x10000
    if o = 0x40 then
      SYN_WAIT_STATUS.WAITING.put (s.rd a) (((List.range 4).map fun i => if s.regionWaiting (BitVec.ofNat 4 (d * 4 + i)) then 2 ^ i else 0).sum)
    else if 0x108 ≤ o ∧ (o - 0x108) % 64 = 0 then
      SYN_BAR_STATUS.ARRIVED.put (s.rd a) (s.barCount (BitVec.ofNat 2 d) (BitVec.ofNat 6 ((o - 0x108) / 64)))
    else s.rd a
  else if 0x120900100100 ≤ a ∧ a < 0x120900100300 then s.chanView ((a - 0x120900100100) / 8)
  else if 0x120e00000000 ≤ a ∧ a < 0x120e00002000 then
    BitVec.ofNat 64 (leNat (s.sys.mbox.getRun memZero ((a - 0x120e00000000) / 8 * 8) 8))
  else if a = MBX_HOST_DB_SET then s.rd MBX_HOST_DB &&& 0x7FFFFFFF
  else if a = MBX_FW_DB_SET then s.rd MBX_FW_DB &&& 0x7FFFFFFF
  else if a = MBX_STATUS then s.mbxStatus
  else if a = JNL_STATUS then s.jnlStatus
  else if a = JNL_LASTSEQ then BitVec.ofNat 64 (s.sys.nvm.seq % 2 ^ 32)
  else if a = SEC_STATUS then s.secStatus
  else if a = SEC_FWVER then BitVec.ofNat 64 s.fwVersions
  else if a = SEC_SERIAL then s.fuses.serial
  else if a = SEC_KEYREV then BitVec.ofNat 64 (s.fuses.keyRevoked.toNat % 16)
  else if 2 ^ 52 ≤ a ∧ a < 2 ^ 53 then s.sbRead a
  else s.rd a

/-- A read of a register reaches a core over the mesh from `e`: a parked core wakes for it and parks again (R264, R288); a fenced one's
router answers with the frozen values (R285). -/
def State.regRead (s : State) (a : Nat) (e : Ep := ccEp 0) : State :=
  if 0x120000000000 ≤ a ∧ a < 0x120001000000 ∧ (regAt a).isSome then
    let c : CoreId := BitVec.ofNat 10 ((a - 0x120000000000) / 0x4000)
    let s := s.ctrl e (coreEp c)
    if (s.core c).parked ∧ !s.fenced c then s.bumpRt NOC_RT_WAKE c else s
  else s

/-! ### Counters that a CNT_CLR bit clears -/

/-- Every FAB_ counter (R374). -/
def fabCounters : List Nat :=
  [FAB_DUP, FAB_LATE, FAB_BACKUP, FAB_SHADOWLOSE, FAB_FOREIGN, FAB_TIMEOUT] ++
  (List.range 4).flatMap fun d => (List.range 6).flatMap fun p => [FAB_TXF d p, FAB_RXF d p, FAB_RETX d p, FAB_FCSERR d p, FAB_NAK d p]

/-- Every TWN_ counter (R395). -/
def twnCounters : List Nat :=
  [TWN_BONDS, TWN_LOSSES, TWN_MIR_TX, TWN_MIR_RX, TWN_MIR_POISON, TWN_BAR_SOLO, TWN_FOREIGN] ++
  (List.range 4).flatMap fun d => [TWN_TXF d, TWN_RXF d, TWN_RETX d]

/-- Every PWR_ counter (R418). -/
def pwrCounters : List Nat :=
  [PWR_ENERGY, PWR_FASTLIM_CNT, PWR_LEND_CNT, PWR_TICKS] ++ ((List.range 4).map PWR_TRIP_CNT) ++
  (List.range 16).flatMap fun r => [PWR_THROT_CNT r, PWR_OVER r, PWR_DVFS_CNT r]

/-- What CMD_CTL.CNT_CLR clears (R456). -/
def cmdCounters : List Nat := MOD_BIASFLIP :: (List.range 64).map CMD_CLAMP_CNT

/-- What MOD_ERR_CTL.CNT_CLR clears (R500). -/
def errCounters : List Nat :=
  [ MOD_CE_CSRAM, MOD_CE_BSRAM, MOD_CE_DRAM, MOD_UE_CSRAM, MOD_UE_BSRAM, MOD_UE_DRAM, MOD_D2D_RETRY, MOD_LINK_RETRY, MOD_LOG_LOST]

/-- What UPD_CTL.CNT_CLR of a region clears (R344). -/
def updCounters (r : Nat) : List Nat := [UPD_ELEMS_A r, UPD_ELEMS_B r, UPD_MASKED r, UPD_LAYERS r, UPD_NONFIN r]

/-! ### Rings, windows, the log (R423, R432, R435, R500) -/

/-- A submission ring's CMD_SQ_CFG written: EN from 0 to 1 sets head and tail to 0; the other fields hold while EN is 1. -/
def State.sqCfg (s : State) (n : Nat) (v : Word) : State :=
  let a := CMD_SQ_CFG n
  if s.bit a CMD_SQ_CFG.EN then s.setFld a CMD_SQ_CFG.EN (CMD_SQ_CFG.EN.get v)
  else
    let s := s.plainWrite a v
    if s.bit a CMD_SQ_CFG.EN then (s.wr (CMD_SQ_HEAD n) 0).wr (CMD_SQ_TAIL n) 0 else s

/-- A completion ring's CMD_CQ_CFG written: EN from 0 to 1 sets head and tail to 0 and the phase to 1, and replies held for the
ring are written. -/
def State.cqCfg (s : State) (n : Nat) (v : Word) : State :=
  let a := CMD_CQ_CFG n
  if s.bit a CMD_CQ_CFG.EN then s.setFld a CMD_CQ_CFG.EN (CMD_CQ_CFG.EN.get v)
  else
    let s := s.plainWrite a v
    if s.bit a CMD_CQ_CFG.EN then
      let s := (s.wr (CMD_CQ_TAIL n) (CMD_CQ_TAIL.PHASE.put 0 1)).wr (CMD_CQ_HEAD n) 0
      ({ s with host := { s.host with coal := s.host.coal.set (fun _ => 0) n 0 } }).flushReplies n
    else s

/-- A base register of a ring written: ignored while the ring is on. -/
def State.ringBaseWrite (s : State) (on : Bool) (a : Nat) (v : Word) : State := if on then s else s.plainWrite a v

/-- CMD_CQ_HEAD written: entries are freed and held replies written. -/
def State.cqHead (s : State) (n : Nat) (v : Word) : State := (s.plainWrite (CMD_CQ_HEAD n) v).flushReplies n

/-- A window base written: at least 0x1200_0000_0000, and aligned to the window's size. -/
def State.winWrite (s : State) (i : Nat) (v : Word) : State :=
  let unit := if i = 0 then 2 ^ 24 else 2 ^ 23
  s.wr (CMD_WIN i) (BitVec.ofNat 64 (max 0x120000000000 (v.toNat % 2 ^ 52) / unit * unit))

/-- MOD_LOG_BASE written: HEAD and TAIL are 0; with EN the records held go into the ring, oldest first (R493, R500). -/
def State.logBase (s : State) (v : Word) : State :=
  let s := ((s.plainWrite MOD_LOG_BASE v).wr MOD_LOG_HEAD 0).wr MOD_LOG_TAIL 0
  if s.bit MOD_LOG_BASE MOD_LOG_BASE.EN then
    let rs := s.log.held
    rs.foldl (fun s r => if s.logRoom then s.logPut r else (s.bump MOD_LOG_LOST).setFld MOD_ERR_STATUS MOD_ERR_STATUS.LOG_FULL 1)
      { s with log := { s.log with held := [] } }
  else s

/-- An MSI-X table word written: the mask bit is held complemented, and a pending vector that is unmasked is sent. -/
def State.msixWrite (s : State) (a : Nat) (v : Word) : State :=
  let o := a - 2 ^ 53
  if 72 * 16 ≤ o ∨ o % 8 ≠ 0 then s
  else if o % 16 = 0 then s.wr a v
  else
    let n := o / 16
    let s := s.wr a ((v &&& 0x1FFFFFFFF) ^^^ 0x100000000)
    let pend := (s.rd (msixPba n)).getLsbD (n % 64)
    if !v.getLsbD 32 ∧ pend then (s.wr (msixPba n) (s.rd (msixPba n) &&& ~~~((1 : Word) <<< (n % 64)))).msix n else s

/-! ### Writing -/

/-- A stream ring's register written: EN starts or stops it; while it runs the other fields are held (R217, R220, R225). -/
def State.stmWrite (s : State) (d : DieId) (a : Nat) (v : Word) : State :=
  let o := (a - 0x120200000000) % 0x10000
  if o < 0x100 then s.plainWrite a v
  else
    let n := (o - 0x100) / 128
    let r := s.ring d n
    let ctl := decide (a = STM_RING_CTL d.toNat n)
    if r.running then
      let s := s.setRing d n { r with held := r.held ++ [(a, if ctl then STM_RING_CTL.EN.put v 0 else v)] }
      if ctl ∧ STM_RING_CTL.EN.get v = 0 then s.ringDisable d n else s
    else
      let s := (s.plainWrite a (if ctl then STM_RING_CTL.EN.put v 0 else v)).ringFix d n
      if ctl ∧ STM_RING_CTL.EN.get v = 1 then s.ringEnable d n else s

/-- A register of a die's router block written (R271, R274, R280, R284, R286, R290). -/
def State.nocWrite (s : State) (d : DieId) (a : Nat) (v : Word) : State :=
  let o := (a - 0x120500000000) % 0x100000
  if o = 0 then (s.plainWrite a v).onBit v 16 fun s => s.nocClear d
  else if 0x400 ≤ o ∧ o < 0x800 then s.redWrite d ((o - 0x400) / 16) (o % 16 == 8) v
  else if 0x800 ≤ o ∧ o < 0xC00 then s.mcgWrite d ((o - 0x800) / 16) (o % 16 == 8) v
  else if 0x10000 ≤ o ∧ (o - 0x10000) % 256 = 0 then
    let c : CoreId := BitVec.ofNat 10 (d.toNat * 256 + (o - 0x10000) / 256)
    if v.getLsbD 0 then s.fence c else s.release c
  else s.plainWrite a v

/-- A register of a sync slice written (R294 to R298, R315). -/
def State.synWrite (s : State) (k : Nat) (a : Nat) (v : Word) : State :=
  let o := (a - 0x120600000000) % 0x40000
  let obj (b : Nat) : ObjId := BitVec.ofNat 18 (k * 4096 + (o - b) / 8)
  if o = 0 then s.onBit v 0 fun s => s.clear [SYN_ADV_CNT k, SYN_HELD_CNT k, SYN_FIRE_CNT k, SYN_RETRY_CNT k]
  else if 0x10000 ≤ o ∧ o < 0x18000 then s.valWrite (obj 0x10000) v
  else if 0x20000 ≤ o ∧ o < 0x28000 then s.advWrite (obj 0x20000) v
  else if 0x30000 ≤ o ∧ o < 0x38000 then s.attrWrite (obj 0x30000) v
  else s.plainWrite a v

/-- A register of a die's barrier block written (R304, R309, R310, R315). -/
def State.barWrite (s : State) (d : DieId) (a : Nat) (v : Word) : State :=
  let o := (a - 0x120700000000) % 0x10000
  if o < 0x100 then s.plainWrite a v
  else
    let n : BitVec 6 := BitVec.ofNat 6 ((o - 0x100) / 64)
    match (o - 0x100) % 64 with
    | 0 => s.barCfgWrite d n v
    | 8 => s.plainWrite a v
    | w => s.barMaskWrite d n ((w - 16) / 8) v

/-- A register of the CMD_ block written (R423, R432, R433, R435, R456). -/
def State.cmdWriteReg (s : State) (a : Nat) (v : Word) : State :=
  let o := a - 0x120c00000000
  if o = 0 then s.onBit v 0 fun s => s.clear cmdCounters
  else if o = 0x10 then s.winWrite 0 v
  else if o = 0x18 then s.winWrite 1 v
  else if 0x1000 ≤ o ∧ o < 0x2000 then
    let n := (o - 0x1000) / 64
    match o % 64 with
    | 0x00 => s.ringBaseWrite (s.bit (CMD_SQ_CFG n) CMD_SQ_CFG.EN) a v
    | 0x08 => s.sqCfg n v
    | 0x18 => s.ringBaseWrite (s.bit (CMD_CQ_CFG n) CMD_CQ_CFG.EN) a v
    | 0x20 => s.cqCfg n v
    | _ => s.plainWrite a v
  else if 0x10000 ≤ o ∧ o % 0x1000 = 8 then s.cqHead ((o - 0x10000) / 0x1000) v
  else s.plainWrite a v

/-- A write of the register at a device physical address, with all it does; an address of no register ignores it (R423). A core's registers
are reached over the mesh from `e` (R264). -/
def State.writeReg (s : State) (a : Nat) (v : Word) (e : Ep := ccEp 0) : State :=
  if 0x120e00000000 ≤ a ∧ a < 0x120f00000000 then s.mbxRegWrite false (a - 0x120e00000000) v
  else match regAt a with
  | none => s
  | some _ =>
    let at_ (base stride : Nat) : Nat := (a - base) / stride
    if a < 0x120100000000 then
      let c : CoreId := BitVec.ofNat 10 (at_ 0x120000000000 0x4000)
      s.regIn e c a v
    else if a < 0x120200000000 then
      let d : DieId := BitVec.ofNat 2 (at_ 0x120100000000 0x10000)
      let o := (a - 0x120100000000) % 0x10000
      if o = 0 then s.memStep d v
      else if 0x100 ≤ o ∧ o < 0x500 then s.rgnWrite d ((o - 0x100) / 16) (o % 16 == 8) v
      else if o = 0x600 then (s.plainWrite a v).onBit v 24 fun s => s.dmaClear d
      else s.plainWrite a v
    else if a < 0x120300000000 then s.stmWrite (BitVec.ofNat 2 (at_ 0x120200000000 0x10000)) a v
    else if a < 0x120400000000 then
      let k := at_ 0x120300000000 0x1000
      let s' := s.plainWrite a v
      if a = CLU_SORT_CTL k then s'.onBit v 32 fun s => s.clear [CLU_SORT_REQ k, CLU_SORT_MERGED k, CLU_SORT_ROWHIT k] else s'
    else if a < 0x120500000000 then
      let d : DieId := BitVec.ofNat 2 (at_ 0x120400000000 0x10000)
      let o := (a - 0x120400000000) % 0x10000
      if o = 0 then (s.plainWrite a v).onBit v 1 fun s => s.clear [ARB_STARVE_CNT d.toNat]
      else if 0x8000 ≤ o then s.arbSeed d ((o - 0x8000) / 8) (v.extractLsb' 0 32)
      else s.plainWrite a v
    else if a < 0x120600000000 then s.nocWrite (BitVec.ofNat 2 (at_ 0x120500000000 0x100000)) a v
    else if a < 0x120700000000 then s.synWrite (at_ 0x120600000000 0x40000) a v
    else if a < 0x120800000000 then s.barWrite (BitVec.ofNat 2 (at_ 0x120700000000 0x10000)) a v
    else if a < 0x120800010000 then
      let r := at_ 0x120800000000 0x1000
      if a = UPD_CTL r then (s.plainWrite a v).onBit v 16 fun s => s.clear (updCounters r)
      else if a = UPD_SEED r then
        let x := seedStore (v.extractLsb' 0 32)
        (s.wr a (x.zeroExtend 64)).rplSeed 5 1 r x
      else s.plainWrite a v
    else if a = FAB_CTL then s.onBit v 0 fun s => s.clear fabCounters
    else if a = TWN_CTL then (s.plainWrite a v).onBit v 32 fun s => s.clear twnCounters
    else if a = PWR_CTL then s.onBit v 16 fun s => s.clear pwrCounters
    else if 0x120c00000000 ≤ a ∧ a < 0x120d00000000 then s.cmdWriteReg a v
    else if a = MOD_ERR_CTL then (s.plainWrite a v).onBit v 16 fun s => s.clear errCounters
    else if a = MOD_LOG_BASE then s.logBase v
    else if 2 ^ 52 ≤ a then s
    else s.plainWrite a v

/-- Whether a BAR access of the host reaches a register: the CMD_ and MOD_ blocks, the mailboxes of BAR2, and the two windows
(R421 to R423). -/
def State.hostReach (s : State) (a : Nat) : Bool :=
  let win (i size : Nat) : Bool := let b := (s.rd (CMD_WIN i)).toNat; decide (b ≤ a) && decide (a < b + size)
  (decide (0x120c00000000 ≤ a) && decide (a < 0x120c00100000)) || (decide (0x120d00000000 ≤ a) && decide (a < 0x120d00000100)) ||
  (decide (0x120e00000000 ≤ a) && decide (a < 0x120e00010000)) || win 0 (2 ^ 24) || win 1 (2 ^ 23)

/-- A sideband register written by a board controller with a good packet error code (R524, R525). -/
def State.sbWrite (s : State) (a : Nat) (v : Word) : State :=
  if !s.sys.vin then s
  else if a = MOD_SB_CTL then s.sbCtl v
  else if a = MOD_SB_LINK then s.plainWrite MOD_LINK_CTL (v &&& 0x3FF)
  else if a = MOD_SB_CAUSE ∨ a = MOD_SB_FLASH_ADDR then s.plainWrite a v
  else s

/-- A register written by someone. -/
def State.writeBy (s : State) (a : Nat) (v : Word) (who : Writer) : State :=
  match who with
  | .firmware => s.writeReg a v
  | .host =>
    if !s.host.linkUp then s
    else if 2 ^ 53 ≤ a then s.msixWrite a v
    else if !s.hostReach a then s
    else if 0x120e00000000 ≤ a ∧ a < 0x120e00010000 then s.mbxRegWrite true (a - 0x120e00000000) v
    else s.writeReg a v cxlEp
  | .smbus pec => if pec && decide (2 ^ 52 ≤ a) && decide (a < 2 ^ 53) then s.sbWrite a v else s

/-! ### REG_READ and REG_WRITE (R446) -/

/-- R446: REG_READ. -/
def State.opRegRead (s : State) (x : CmdRec) : State :=
  let a := pk x.pkt 8 8
  let w := if a < 0x120000000000 ∨ 0x130000000000 ≤ a then 0 else if (regAt a).isSome ∨ (0x120e00000000 ≤ a ∧ a < 0x120e00002000) then s.rdView a else 0
  (s.regRead a).finish x.id stOk [w.toNat]

/-- R285, R446: REG_WRITE; a write to a fenced core's registers is refused with FENCED. -/
def State.opRegWrite (s : State) (x : CmdRec) : State :=
  let a := pk x.pkt 8 8
  if a < 0x120000000000 ∨ 0x130000000000 ≤ a then s.reply x stOk
  else
    let c : CoreId := BitVec.ofNat 10 ((a - 0x120000000000) / 0x4000)
    if a < 0x120000000000 + 1024 * 0x4000 ∧ (regAt a).isSome ∧ s.fenced c then (s.writeReg a (BitVec.ofNat 64 (pk x.pkt 16 8))).reply x stFenced
    else (s.writeReg a (BitVec.ofNat 64 (pk x.pkt 16 8))).reply x stOk

end Sys2Proof.Machine
end

