-- ==== Sys2Proof/Machine/Rings.lean ====
section
/-!
DEFINITION. Sys2Proof/Machine/Rings.lean: firmware consumes packets from the submission rings or from a replayed log and runs
their commands, at once or when what they wait for has come (R433, R434, R437, R440, R443, R445, R497, R504).
-/
namespace Sys2Proof.Machine

/-! ### What a command waits for (R211, R323, R373, R394, R450, R451, R483, R507) -/

/-- The mark of a command that waits, followed by the word its row carries. -/
def waitMark : Nat := 0x57414954

/-- The mark of a command whose restart waits for IDLE. -/
def restartMark : Nat := 0x52535452

/-- The commands consumed before a command and unfinished. -/
def State.before (s : State) (x : CmdRec) : List CmdRec := s.host.cmds.takeWhile (·.id != x.id)

/-- R451: whether an earlier fence command of a shared core is unfinished. -/
def State.fenceWait (s : State) (x : CmdRec) : Bool :=
  let mine := fenceSel (pkSel x.pkt)
  (s.before x).any fun c => (pkOp c.pkt == 0x60 || pkOp c.pkt == 0x61) && (fenceSel (pkSel c.pkt)).any mine.contains

/-- R310, R450: whether a running work-group uses a barrier line. -/
def State.lineUsed (s : State) (n : Nat) : Bool := s.host.launches.any fun L => L.ph != LaunchPh.queued && L.lines.getLsbD n

/-- Whether the reduction or multicast entry a command names is used by a running step or launch (R447). -/
def State.entryUsed (s : State) (x : CmdRec) : Bool :=
  let n := pk x.pkt 8 1
  let v := allDies.any fun d =>
    if pkOp x.pkt = 0x16 then s.bit (NOC_RED_ADDR d.toNat (n % 64)) NOC_RED_ADDR.V else s.bit (NOC_MCG_ADDR d.toNat (n % 64)) NOC_MCG_ADDR.V
  v && (allDies.any s.openOn || s.host.launches.any fun L => L.ph != LaunchPh.queued)

/-- Whether a command may take effect now. -/
def State.cmdReady (s : State) (x : CmdRec) : Bool :=
  match pkOp x.pkt with
  | 0x70 | 0x72 | 0x73 | 0x74 | 0x76 | 0x78 | 0x7A | 0x82 | 0x83 | 0x90 | 0x93 => s.phase == 0
  | 0x80 => s.phase != 2 && !(s.phase == 0 && s.twin == 1)
  | 0x14 => !allDies.any s.openOn
  | 0x16 | 0x17 => !s.entryUsed x
  | 0x35 => !s.lineUsed (pk x.pkt 8 1 % 64)
  | 0x60 | 0x61 => !s.fenceWait x
  | _ => true

/-! ### The opcodes (R445) -/

/-- A command whose restart follows its reply: now in IDLE, else DEFERRED until the phase is IDLE (R483). -/
def State.restartAfter (s : State) (x : CmdRec) : State :=
  if s.phase = 0 then (s.reply x stOk).restart2
  else (s.modCmd x.id fun c => { c with data := [restartMark] }).defer x.id

/-- R482, R483: FW_ACTIVATE, with the restart it may ask for. -/
def State.opActivate (s : State) (x : CmdRec) : State :=
  let (s, again) := s.opFwActivate x
  if again then s.restartAfter x else s

/-- A command's effect, by its opcode (R445); `ext` is the word its row carries. -/
def State.runOp (s : State) (x : CmdRec) (ext : Nat) : State :=
  match pkOp x.pkt with
  | 0x00 => s.opNop x
  | 0x01 => s.opIdentify x
  | 0x02 => s.opEnumerate x
  | 0x03 => s.opHealth x
  | 0x04 => s.opRegRead x
  | 0x05 => s.opRegWrite x
  | 0x10 => s.opCopy x
  | 0x11 => s.opFill x
  | 0x12 => s.opMap x
  | 0x13 => s.opUnmap x
  | 0x14 => s.opMark x
  | 0x15 => s.opPtPool x
  | 0x16 => s.opRedSet x
  | 0x17 => s.opMcgSet x
  | 0x18 => s.opBias x
  | 0x20 => s.opLaunch x
  | 0x21 => s.opStop x
  | 0x22 => s.opLaunchStatus x
  | 0x23 => s.opRaise x
  | 0x30 => s.opSyncAdv x
  | 0x31 => s.opSyncRead x
  | 0x32 => s.opSyncSet x
  | 0x33 => s.opSyncAttr x
  | 0x34 => s.opSyncWait x
  | 0x35 => s.opBarCfg x
  | 0x36 => s.opBarArrive x
  | 0x40 => s.opConfigStage x
  | 0x41 => s.opConfigCommit x
  | 0x42 => s.opConfigStatus x
  | 0x43 => s.opSetImmediate x
  | 0x50 | 0x52 | 0x57 | 0x58 => s.opPowerSetting x
  | 0x51 => s.opPowerStatus x
  | 0x53 => s.opFunc x true
  | 0x54 => s.opFunc x false
  | 0x55 => s.opPark x
  | 0x56 => s.opWake x
  | 0x60 => s.opFence x
  | 0x61 => s.opUnfence x
  | 0x62 => s.opFenceStatus x
  | 0x70 => s.opFabPortSet x
  | 0x71 => s.opFabPortStatus x
  | 0x72 => s.opGroupSet x
  | 0x73 => s.opChanSet x
  | 0x74 => s.opShardSet x
  | 0x75 => s.opDeadlineSet x
  | 0x76 => s.opGroupClear x
  | 0x78 => s.opTwnBond x (BitVec.ofNat 256 ext)
  | 0x79 => s.opTwnUnbond x
  | 0x7A => s.opTwnMirrorSet x
  | 0x7B => s.opTwnStatus x
  | 0x7C => s.opTwnStore x
  | 0x80 => s.opStepOpen x
  | 0x81 => s.opStepClose x
  | 0x82 => s.opPlanInstall x
  | 0x83 => s.opSchedSet x
  | 0x84 => s.opStepStatus x
  | 0x90 => s.opRplRecordStart x
  | 0x91 => s.opRplRecordStop x
  | 0x92 => s.opRplStatus x
  | 0x93 => s.opRplReplayStart x
  | 0x94 => s.opRplReplayStop x
  | 0x95 => s.opRplMark x
  | 0xA0 => s.opFwStage x
  | 0xA1 => s.opActivate x
  | 0xA2 => s.opFwStatus x
  | 0xA3 => s.restartAfter x
  | 0xA4 => s.opSvnCommit x
  | 0xB0 => s.opJnlRead x
  | 0xB1 => s.opJnlState x
  | 0xB2 => s.opJnlPolicy x
  | _ => s.reply x stUnsupported

/-- The opcodes a forerunner packet may name (R440). -/
def v1Ops : List Nat := [0x00, 0x01, 0x10, 0x11, 0x20, 0x30, 0x31, 0x60]

/-- The opcodes executed after a FATAL event (R497). -/
def fatalOps : List Nat := [0x00, 0x01, 0x02, 0x03, 0x04, 0x05, 0x90, 0x91, 0x92, 0xB0, 0xB1]

/-- The opcodes that complete SPLIT in the SPLIT state (R390). -/
def splitOp (op : Nat) : Bool := decide (0x10 ≤ op) && decide (op < 0x70) || decide (0x80 ≤ op) && decide (op < 0x90)

/-- A consumed command: refused for its version, in FATAL or in SPLIT; else it runs, or waits with a DEFERRED reply (R390, R437,
R440, R442, R497). -/
def State.runCmd (s : State) (x : CmdRec) (ext : Nat) : State :=
  let op := pkOp x.pkt
  let v := pkVersion x.pkt
  if (v ≠ 1 ∧ v ≠ 2) ∨ (v = 1 ∧ !v1Ops.contains op) then s.reply x stUnsupported
  else if s.bit MOD_ERR_STATUS MOD_ERR_STATUS.FATAL ∧ !fatalOps.contains op then s.reply x stHwError
  else if s.twin = 5 ∧ splitOp op then s.reply x stSplit
  else if s.cmdReady x then s.runOp x ext
  else (s.modCmd x.id fun c => { c with data := [waitMark, ext] }).defer x.id

/-- A waiting command that may take effect does. -/
def State.waitTry (s : State) (id : Nat) : State :=
  match s.cmd id with
  | none => s
  | some x =>
    if x.data.head? = some waitMark ∧ s.cmdReady x then
      let x' : CmdRec := { x with data := [] }
      (s.modCmd id fun _ => x').runOp x' (x.data.getD 1 0)
    else s

/-- The commands that wait take effect as they may: in the order of consumption, then a restart, and STEP_OPEN last. -/
def State.waitWork (s : State) : State :=
  let ids (p : CmdRec → Bool) : List Nat := (s.host.cmds.filter p).map (·.id)
  let s1 := (ids fun c => pkOp c.pkt != 0x80).foldl State.waitTry s
  match s1.host.cmds.find? fun c => c.data.head? == some restartMark with
  | some x =>
    if s1.phase = 0 then (s1.reply x stOk).restart2 else s1
  | none => (ids fun c => pkOp c.pkt == 0x80).foldl State.waitTry s1

/-- What firmware finds to do after an event: a format table still to be written, the fabric and the norm, mirrors, a planned unbond,
waiting commands, a replay or recording that ends. -/
def State.settle (s : State) : State :=
  let s := s.tableTry.fabSettle
  let s := if s.twinAllDown then s.partnerLost else s
  let s := s.mirrorStep.unbondGo
  let s := if s.phase = 0 then s.rplBoundary else s
  s.waitWork.rplSettle

/-! ### Forerunner packets (R440) -/

/-- A packet with another selector. -/
def pkSetSel (p : Packet) (sel : BitVec 32) : Packet := (p &&& ~~~((0xFFFFFFFF : Packet) <<< 32)) ||| (sel.setWidth 512 <<< 32)

/-- The selector of a forerunner packet, resolved on a die. A cluster number above 15, of which R440 says nothing, becomes a selector of no kind,
and the packet completes UNSUPPORTED (a DESIGN CHOICE, in the log). -/
def v1Sel (p : Packet) (d : Nat) : BitVec 32 :=
  let op := pkOp p
  if op = 0x10 ∨ op = 0x11 then BitVec.ofNat 32 (2 ^ 29 + 2 ^ d)
  else if pk p 5 1 = 0xFF then BitVec.ofNat 32 (2 * 2 ^ 29 + 0xF * 2 ^ (4 * d))
  else if 15 < pk p 4 1 then BitVec.ofNat 32 (7 * 2 ^ 29)
  else BitVec.ofNat 32 (4 * 2 ^ 29 + (d * 16 + pk p 4 1) * 2 ^ 16 + pk p 6 2)

/-- A packet as it is executed: a forerunner packet's flags are ignored and its selector is resolved. -/
def State.asV2 (s : State) (r : RingId) (p : Packet) : Packet :=
  if pkVersion p = 1 then
    pkSetSel (p &&& ~~~((0xF : Packet) <<< 12)) (v1Sel p (s.fld (CMD_SQ_CFG r.toNat) CMD_SQ_CFG.V1DIE))
  else p

/-! ### The rings (R432 to R435) -/

/-- A packet about to be consumed. -/
structure Head where
  /-- The packet; none where its slot reads poisoned or names no memory. -/
  pkt : Option Packet
  slot : Nat
  deriving DecidableEq, Repr

/-- Entries of a submission ring. -/
def State.sqSize (s : State) (r : RingId) : Nat := ringEntries (s.fld (CMD_SQ_CFG r.toNat) CMD_SQ_CFG.SIZE)

/-- The packet at a ring's head, if one waits. -/
def State.headOf (s : State) (r : RingId) : Option Head :=
  let n := s.sqSize r
  let h := s.fld (CMD_SQ_HEAD r.toNat) CMD_SQ_HEAD.INDEX
  if !s.bit (CMD_SQ_CFG r.toNat) CMD_SQ_CFG.EN ∨ s.fld (CMD_SQ_TAIL r.toNat) CMD_SQ_TAIL.INDEX % n = h % n then none
  else
    let a := CMD_SQ_BASE.ADDR.get (s.rd (CMD_SQ_BASE r.toNat)) * 64 + h * 64
    some ⟨(s.cmdRead true a 64).map packetOf, h⟩

/-- Whether firmware consumes packets at all (R431, R434, R469). -/
def State.consuming (s : State) : Bool :=
  s.sys.step == 13 && s.sys.rails && !s.host.flr && decide (s.host.cmds.length < 1024)

/-- The opcodes a host ring may still carry during a replay (R504). -/
def replayOps (op : Nat) : Bool :=
  decide (op ≤ 0x05) || decide (0x90 ≤ op) && decide (op ≤ 0x9F) || op == 0xA2 || op == 0xB0 || op == 0xB1

/-- Whether a packet holds its ring (R407, R434; a LAUNCH until the format table of the next step is written, R99; STEP_OPEN while a bond is
made, R387). -/
def State.holds (s : State) (r : RingId) (p : Packet) : Bool :=
  (pkFence p && pkVersion p != 1 && s.host.cmds.any fun c => c.ring == r) ||
  (pkOp p == 0x20 && s.upd.table.isSome) ||
  (pkOp p == 0x20 && decide (256 ≤ (s.host.launches.filter fun L => L.ph == LaunchPh.queued).length)) ||
  (pkOp p == 0x80 && s.twin == 1)

/-- The packet of a ring that can be consumed now. -/
def State.sqReady (s : State) (r : RingId) : Option Head :=
  let q := s.cqOf r
  if s.cqFull q ∨ !(s.host.held.get (fun _ => []) q).isEmpty then none
  else match s.headOf r with
  | none => none
  | some h => match h.pkt with
    | none => some h
    | some p => if s.holds r p ∨ (s.replaying ∧ !replayOps (pkOp p)) then none else some h

/-- The ring of a priority whose turn it is, among those with a packet that can be consumed (R434). -/
def State.sqTurn (s : State) (prio : Nat) : Option (RingId × Head) :=
  let first := s.host.rr.get (fun _ => 0) prio
  (List.range 64).findSome? fun i =>
    let r : RingId := BitVec.ofNat 6 (first + i)
    if s.fld (CMD_SQ_CFG r.toNat) CMD_SQ_CFG.PRIO = prio then (s.sqReady r).map fun h => (r, h) else none

/-- The ring firmware takes its next packet from: the highest priority first (R434). -/
def State.nextRing (s : State) : Option (RingId × Head) :=
  if s.consuming then [3, 2, 1, 0].findSome? s.sqTurn else none

/-- A ring's head moved past a packet, and its priority's turn past the ring. -/
def State.advance (s : State) (r : RingId) : State :=
  let h := s.fld (CMD_SQ_HEAD r.toNat) CMD_SQ_HEAD.INDEX
  let s := s.setFld (CMD_SQ_HEAD r.toNat) CMD_SQ_HEAD.INDEX ((h + 1) % s.sqSize r)
  let prio := s.fld (CMD_SQ_CFG r.toNat) CMD_SQ_CFG.PRIO
  { s with host := { s.host with rr := s.host.rr.set (fun _ => 0) prio ((r.toNat + 1) % 64), consumed := s.host.consumed + 1 } }

/-- The record of a packet consumed from a ring (R434). -/
def State.cmdOf (s : State) (r : RingId) (p : Packet) (slot seq : Nat) (replayed : Bool) : CmdRec :=
  { id := s.host.next, ring := r, pkt := s.asV2 r p, seq := seq, slot := slot, replayed := replayed }

/-- A consumed packet among the commands in flight, recorded (R434, R501). -/
def State.enlist (s : State) (x : CmdRec) (p : Packet) : State :=
  let s := s.cmdRecord x.ring x.slot x.seq p
  let s := s.setCmds (s.host.cmds ++ [x])
  { s with host := { s.host with next := x.id + 1 } }

/-- A packet consumed and run (R434). -/
def State.takePkt (s : State) (r : RingId) (p : Packet) (slot seq : Nat) (replayed : Bool) (ext : Nat) : State :=
  let x := s.cmdOf r p slot seq replayed
  ((s.enlist x p).runCmd x ext).settle

/-- The next packet of the log a replay consumes: its record's ring, slot, number, packet, and where the next record begins
(R504). -/
def State.logHead (s : State) : Option (RingId × Nat × Nat × Packet × Nat) :=
  if s.replaying ∧ s.consuming then
    match s.logNext with
    | some (bs, e) =>
      let r : RingId := BitVec.ofNat 6 (recNum bs 16 1)
      let p := packetOf ((bs.drop 24).take 64)
      if s.holds r p then none else some (r, recNum bs 18 2, recNum bs 20 4, p, e)
    | none => none
  else none

/-- Firmware consumes from ring `r` a packet that meets `want`: the log's next one in a replay, else the one whose turn it is. -/
def State.take1 (s : State) (r : RingId) (want : Packet → Bool) (ext : Nat := 0) : State :=
  let fromRing : State :=
    match s.nextRing with
    | some (q, h) => match h.pkt with
      | some p => if q = r ∧ want p then (s.advance r).takePkt r p h.slot s.host.consumed false ext else s
      | none => s
    | none => s
  match s.logHead with
  | some (q, slot, seq, p, e) =>
    if q = r ∧ want p then
      let s : State := { s with rpl := { s.rpl with rPos := e } }
      let s := if s.recording then s else s.wr RPL_PTR (BitVec.ofNat 64 e)
      s.takePkt r p slot seq true ext
    else fromRing
  | none => fromRing

/-- A packet of an opcode consumed from a ring. -/
def State.takeOp (s : State) (r : RingId) (op : Nat) (ext : Nat := 0) : State :=
  s.take1 r (fun p => pkOp p == op && pkVersion p != 1) ext

/-- A forerunner packet consumed from a ring (R440). -/
def State.takeV1 (s : State) (r : RingId) : State := s.take1 r fun p => pkVersion p == 1

/-- The opcodes R445 and the chapters assign. -/
def assigned : List Nat :=
  List.range 6 ++ (List.range 9).map (· + 0x10) ++ (List.range 4).map (· + 0x20) ++ (List.range 7).map (· + 0x30) ++
  (List.range 4).map (· + 0x40) ++ (List.range 9).map (· + 0x50) ++ (List.range 3).map (· + 0x60) ++
  (List.range 7).map (· + 0x70) ++ (List.range 5).map (· + 0x78) ++ (List.range 5).map (· + 0x80) ++ (List.range 6).map (· + 0x90) ++
  (List.range 5).map (· + 0xA0) ++ (List.range 3).map (· + 0xB0)

/-- R443, R445: a packet of an unassigned opcode consumed; R442: so is one whose slot cannot be read, answered with TAG 0xFFFF,
HW_ERROR and its slot index. -/
def State.takeOther (s : State) (r : RingId) : State :=
  match s.nextRing with
  | some (q, ⟨none, slot⟩) =>
    if q = r then ((s.advance r).post r ((0xFFFF : Packet) <<< 16 ||| (2 : Packet) <<< 8) stHwError [slot]).settle else s
  | _ => s.take1 r fun p => pkVersion p != 1 && !assigned.contains (pkOp p)

end Sys2Proof.Machine
end

