-- ==== Sys2Proof/Machine/UpdEvents.lean ====
section
/-!
DEFINITION. Sys2Proof/Machine/UpdEvents.lean: what the update engines do as their passes begin and end, and the commit (R321,
R330 to R332, R343).
-/
namespace Sys2Proof.Machine

/-- Whether the gradient of a layer is complete: GOBJ has reached its base plus GSTEP (R330). -/
def State.gradReady (s : State) (i : Nat) (l : Layer) : Bool := decide (l.gstep ≤ (s.objVal l.gobj - (s.lay i).base).toNat)

/-- STATE of a region's engine. -/
def State.engNow (s : State) (r : RegionId) : Nat := s.fld (UPD_STATUS r.toNat) UPD_STATUS.STATE

/-- R330: an engine that waits for the gradient of its next layer begins Pass A once it is there, unless its clock has stopped (R317). -/
def State.beginA (s : State) (r : RegionId) : State :=
  match s.nextA r with
  | some (i, l) => if s.phase ≠ 0 ∧ s.engNow r = 1 ∧ s.rclocked r ∧ s.gradReady i l then s.engState r 2 i else s
  | none => s

/-- The rule-0 launch of a region whose cores are all over, with its layer (R343). -/
def State.rule0Over (s : State) (r : RegionId) : Option (Launch × Nat) :=
  s.host.launches.findSome? fun L => match L.rule0 with
    | some (q, i) => if q = r.toNat ∧ s.launchOver L then some (L, i) else none
    | none => none

/-- R343: a rule-0 launch has completed OK: the engine writes the layer's state record, once it can reach it. -/
def State.rule0Rec (s : State) (r : RegionId) (L : Launch) (i : Nat) (l : Layer) (P : Plan) : State :=
  let d := dieOfRegion r
  let s := s.updMap d [P.record i]
  let ws := s.updWaits d [P.record i]
  if !s.rclocked r ∨ s.updHeld d [P.record i] then s
  else if !ws.isEmpty then s.updAsk d ws
  else match (s.launchGone L).writeRec r i P (s.recOf d P i l) with
    | (s, some c) => s.stopLayer r c i stAborted
    | (s, none) => ((s.endLayer i).bump (UPD_LAYERS r.toNat)).afterB r l

/-- R343: a rule-0 launch ends: its layer is done, with its state record written, or ends in error RULE0. A launch left from an
abandoned step only goes. -/
def State.rule0Done (s : State) (r : RegionId) : State :=
  match s.rule0Over r with
  | none => s
  | some (L, i) =>
    let newer := s.host.launches.any fun M => M.id != L.id && M.rule0 == L.rule0
    match s.inB r with
    | some (j, l, P) =>
      if i ≠ j ∨ l.rule ≠ 0 ∨ newer then s.launchGone L
      else if s.launchStatus L == stOk then s.rule0Rec r L i l P
      else ((s.launchGone L).lateErr r 7 i).startB r ((s.layersOf r).length + 1)
    | none => s.launchGone L

/-- R321, R322: the step ends once nothing is left of it: with a commit, or without one after a late error. -/
def State.stepDone (s : State) : State :=
  if s.canCommit then s.commit
  else if s.phase = 2 ∧ s.upd.late ∧ s.allB then s.lateEnd
  else s

/-! ### The commands -/

/-- R330: the engine of region `r` begins Pass A of its next layer. -/
def execPassAStart (r : RegionId) (s : State) : Host.Outcome State Fault Refusal := .next (s.beginA r)

/-- R330: the engine of region `r` finishes Pass A of its layer. -/
def execPassADone (r : RegionId) (s : State) : Host.Outcome State Fault Refusal :=
  .next (if s.phase ≠ 0 ∧ s.engNow r = 2 then (s.endA r).settle else s)

/-- R331: with every Pass A behind it and the phase UPDATE, firmware sends the module's sum on NCHAN. -/
def execNormContribute (s : State) : Host.Outcome State Fault Refusal :=
  .next (if s.phase = 2 ∧ s.allA ∧ !s.upd.sent then s.contributeNorm.settle else s)

/-- R332: the engine of region `r` finishes Pass B of its layer. -/
def execPassBLayerDone (r : RegionId) (s : State) : Host.Outcome State Fault Refusal := .next (s.endB r).settle

/-- R343: the rule-0 launch of region `r` completes. -/
def execRule0LaunchDone (r : RegionId) (s : State) : Host.Outcome State Fault Refusal := .next (s.rule0Done r).settle

/-- R321: the step commits once everything it waits for has happened. -/
def execStepCommit (s : State) : Host.Outcome State Fault Refusal := .next s.stepDone.settle

/-- R344: UPD_CTL.CNT_CLR of region `r`. -/
def execUpdCntClr (r : RegionId) (s : State) : Host.Outcome State Fault Refusal := .next (s.clear (updCounters r.toNat))

end Sys2Proof.Machine
end

