-- ==== Sys2Proof/Machine/FabEvents.lean ====
section
/-!
DEFINITION. Sys2Proof/Machine/FabEvents.lean: frames received on the fabric and twin ports, their timers, the reductions'
deadlines, and what happens to a link (R346 to R370).
-/
namespace Sys2Proof.Machine

/-! ### Frames of channels (R354, R355, R363 to R366) -/

/-- A segment frame received on a fabric port: accepted in order, its grant and its segment are taken. -/
def State.rxSegment (s : State) (port ty : Nat) (f : Frame) : State :=
  if 24 ≤ port then (if s.portLink port = 2 then s.foreign port else s)
  else
    let (s, ok) := s.receive port f true
    if ok then ((s.takeGrant f).segment port ty f).settle else s

/-- R355: a CREDIT frame. -/
def State.rxCredit (s : State) (port : Nat) (f : Frame) : State :=
  if 24 ≤ port then (if s.portLink port = 2 then s.foreign port else s)
  else
    let (s, ok) := s.receive port f true
    if ok then (s.takeGrant f).settle else s

/-- R370: an ABORT frame: the step attempt it names is abandoned; of any other, a committed one too, it is late. -/
def State.rxAbort (s : State) (port : Nat) (f : Frame) : State :=
  if 24 ≤ port then (if s.portLink port = 2 then s.foreign port else s)
  else
    let (s, ok) := s.receive port f true
    if !ok then s
    else if s.inAttempt f then (s.stepAbandon stAborted).settle
    else s.bump FAB_LATE

/-- R367, R382: a BARRIER frame, of a group's member on a fabric port or of the partner on a twin port. -/
def State.rxBarrier (s : State) (port : Nat) (f : Frame) : State :=
  let (s, ok) := s.receive port f true
  if !ok then s
  else
    let line := f.tag.toNat
    let s := if port < 24 then s.barGot line f.group.toNat f.srank.toNat f.rsn.toNat else s.barGot line 0xFF 0 f.rsn.toNat
    if line < 64 then (s.barTry 0 (BitVec.ofNat 6 line)).settle else s

/-! ### Frames of paths (R351, R352) -/

/-- R351: an ACK: of the opening PROBE, or of frames before APSN. -/
def State.rxAck (s : State) (port : Nat) (f : Frame) : State :=
  let (s, ok) := s.receive port f false
  if !ok then s
  else
    let mac := srcKey port f
    let p := s.path port mac
    (if p.opening ∧ f.apsn.toNat = p.psn then s.pathOpened port mac else s).settle

/-- R352: a NAK: everything from the PSN named is sent again. -/
def State.rxNak (s : State) (port : Nat) (f : Frame) : State :=
  let (s, ok) := s.receive port f false
  if ok then (s.retryPath port (srcKey port f) f.apsn.toNat).settle else s

/-- R351: a PROBE: the peer's direction is open at its PSN and the PROBE is acknowledged; had it been open before, this module's
own direction opens again too. -/
def State.rxProbe (s : State) (port : Nat) (f : Frame) : State :=
  let (s, ok) := s.receive port f false
  if !ok then s
  else
    let mac := srcKey port f
    let p := s.path port mac
    let s := s.setPath { p with rOpen := true, expect := f.psn.toNat, naked := false, since := 0 }
    let s := (s.portCount port 1).sendAck port mac
    let q := s.path port mac
    if p.rOpen ∧ !q.down ∧ (q.isOpen ∨ q.opening) then
      let s := s.closePath q
      s.sendProbe (s.path port mac)
    else s

/-- R347: a received priority flow control frame: the PCP the port trained with paused, or free again. -/
def State.rxPfc (s : State) (port pcp : Nat) (pause : Bool) : State :=
  let cfg := s.fab.portCfg.get (fun _ => 0) port
  if 24 ≤ port ∨ s.portLink port ≠ 2 ∨ FAB_PORT_CFG.PFC.get cfg = 0 ∨ FAB_PORT_CFG.PCP.get cfg ≠ pcp then s
  else
    let rest := s.fab.paused.filter (· != port)
    let s : State := { s with fab := { s.fab with paused := if pause then rest ++ [port] else rest } }
    if pause then s else ((s.releaseTx port).pumpPort port).settle

/-! ### Timers (R351 to R353) -/

/-- The path a timer of a port and MAC address belongs to. -/
def State.timerPath (s : State) (port : Nat) (mac : BitVec 48) : PathSt := s.path port (if port < 24 then mac.toNat else 0)

/-- R351: frames accepted and not acknowledged for 2 µs are. -/
def State.ackTimer (s : State) (p : PathSt) : State := if p.since = 0 ∨ !s.portUp p.port then s else s.sendAck p.port p.mac

/-- R352, R353: no acknowledgement for RTO: everything unacknowledged is sent again, an opening PROBE too, or the path is down. -/
def State.rtoExpire (s : State) (p : PathSt) : State :=
  if p.down then s
  else if p.opening then
    if s.fld FAB_RETRY FAB_RETRY.RETRY_MAX ≤ p.resent then s.pathDown p.port p.mac
    else if s.portUp p.port then s.sendProbe { p with resent := p.resent + 1 }
    else s.setPath { p with resent := p.resent + 1 }
  else match p.unacked with
  | x :: _ => s.retryPath p.port p.mac x.f.psn.toNat
  | [] => s

/-- R353: a PROBE on a path that is down. -/
def State.probeTimer (s : State) (p : PathSt) : State := if p.down ∧ s.portUp p.port then s.sendProbe p else s

/-! ### Reductions (R362, R369, R370) -/

/-- Whether a reduction has sent its last segment from this module. -/
def GroupSt.sentAll (G : GroupSt) (R : Red) : Bool :=
  R.done || G.aside R.root || (G.dests R).all fun (r, a, _) => decide (R.nseg ≤ R.queued.get (fun _ => 0) (copyKey r a))

/-- The first reduce-scatter of a channel that may begin: its contribution is ready, and every earlier reduction of the channel
has sent its last segment. -/
def State.rsReady (s : State) (G : GroupSt) : List Red → Option Red
  | [] => none
  | R :: rest =>
    if R.kind = 0 ∧ !R.begun ∧ s.contribReady R then some R
    else if G.sentAll R then s.rsReady G rest
    else none

/-- R362: a channel's next reduce-scatter begins to send. -/
def State.rsStart (s : State) (c : Nat) : State :=
  match s.chan c with
  | none => s
  | some C => match s.group C.group with
    | none => s
    | some G => match s.rsReady G C.reds with
      | some R => (s.modRed c R.rsn fun R => { R with begun := true }).settle
      | none => s

/-- R369: DL_SOFT passes for the oldest unended reduction of a channel. -/
def State.softExpire (s : State) (c : Nat) : State :=
  match s.chan c with
  | none => s
  | some C => match C.reds with
    | [] => s
    | R :: _ => if R.soft then s else ((s.modRed c R.rsn fun R => { R with soft := true }).softCheck c R.rsn).settle

/-- A failed reduce-scatter leaves its channel; segments it holds are discarded. -/
def State.dropRed (s : State) (c : Nat) (R : Red) : State :=
  match s.chan c with
  | none => s
  | some C =>
    let s := s.discardReds c { C with reds := [R], early := [] }
    match s.chan c with
    | some C => s.setChan c { C with reds := C.reds.filter fun Q => Q.rsn != R.rsn }
    | none => s

/-- R369, R370: DL_HARD passes for the oldest unended reduction of a channel: it fails with TIMEOUT. A reduce-scatter puts ABORT
into the norm; a norm or an all-gather ends the step and sends ABORT frames. -/
def State.hardExpire (s : State) (c : Nat) : State :=
  match s.chan c with
  | none => s
  | some C => match C.reds with
    | [] => s
    | R :: _ =>
      let s := s.bump FAB_TIMEOUT
      if R.kind = 0 then
        let s := s.dropRed c R
        ({ s with fab := { s.fab with failed := true, timedOut := true } }).settle
      else ((s.sendAborts c).stepAbandon stTimeout).settle

/-! ### Links (R348) -/

/-- R346, R348, R376: the training of a port ends. -/
def State.trainEnd (s : State) (port : Nat) (ok : Bool) : State :=
  if port < 28 ∧ s.portLink port = 1 then (s.portTrained port ok).settle else s

/-- R348, R378: a port loses its link; with the last twin path the partner is lost. -/
def State.linkLost (s : State) (port : Nat) : State :=
  if 28 ≤ port ∨ s.portLink port ≠ 2 then s
  else
    let s := (s.setLink port 0).unpause port
    let s := if 24 ≤ port then s.setFld (portStatus port) TWN_PORT_STATUS.CROSSED 0 else s
    (if 24 ≤ port ∧ s.twinAllDown then s.partnerLost else s).settle

/-! ### The commands -/

/-- R363: an RS frame. -/
def execRs (port : BitVec 5) (f : Frame) (s : State) : Host.Outcome State Fault Refusal := .next (s.rxSegment port.toNat 1 f)

/-- R365: an AG frame. -/
def execAg (port : BitVec 5) (f : Frame) (s : State) : Host.Outcome State Fault Refusal := .next (s.rxSegment port.toNat 2 f)

/-- R366: a NORM_UP frame. -/
def execNormUp (port : BitVec 5) (f : Frame) (s : State) : Host.Outcome State Fault Refusal := .next (s.rxSegment port.toNat 3 f)

/-- R366: a NORM_DOWN frame. -/
def execNormDown (port : BitVec 5) (f : Frame) (s : State) : Host.Outcome State Fault Refusal := .next (s.rxSegment port.toNat 4 f)

/-- R351: an ACK frame. -/
def execAck (port : BitVec 5) (f : Frame) (s : State) : Host.Outcome State Fault Refusal := .next (s.rxAck port.toNat f)

/-- R352: a NAK frame. -/
def execNak (port : BitVec 5) (f : Frame) (s : State) : Host.Outcome State Fault Refusal := .next (s.rxNak port.toNat f)

/-- R355: a CREDIT frame. -/
def execCredit (port : BitVec 5) (f : Frame) (s : State) : Host.Outcome State Fault Refusal := .next (s.rxCredit port.toNat f)

/-- R367: a BARRIER frame. -/
def execBarrier (port : BitVec 5) (f : Frame) (s : State) : Host.Outcome State Fault Refusal := .next (s.rxBarrier port.toNat f)

/-- R370: an ABORT frame. -/
def execAbort (port : BitVec 5) (f : Frame) (s : State) : Host.Outcome State Fault Refusal := .next (s.rxAbort port.toNat f)

/-- R351: a PROBE frame. -/
def execProbe (port : BitVec 5) (f : Frame) (s : State) : Host.Outcome State Fault Refusal := .next (s.rxProbe port.toNat f)

/-- R347: a priority flow control frame. -/
def execPfcFrame (port : BitVec 5) (pcp : BitVec 3) (pause : Bool) (s : State) : Host.Outcome State Fault Refusal :=
  .next (s.rxPfc port.toNat pcp.toNat pause)

/-- R351: the acknowledgement timer of a path. -/
def execAckTimer (port : BitVec 5) (mac : BitVec 48) (s : State) : Host.Outcome State Fault Refusal :=
  .next (s.ackTimer (s.timerPath port.toNat mac))

/-- R352: the retry timer of a path. -/
def execRtoExpire (port : BitVec 5) (mac : BitVec 48) (s : State) : Host.Outcome State Fault Refusal :=
  .next (s.rtoExpire (s.timerPath port.toNat mac)).settle

/-- R353: the probe timer of a path that is down. -/
def execProbeTimer (port : BitVec 5) (mac : BitVec 48) (s : State) : Host.Outcome State Fault Refusal :=
  .next (s.probeTimer (s.timerPath port.toNat mac))

/-- R362: a reduce-scatter of channel `c` begins to send. -/
def execRsSendStart (c : BitVec 6) (s : State) : Host.Outcome State Fault Refusal := .next (s.rsStart c.toNat)

/-- R369: the soft deadline of channel `c`'s oldest reduction passes. -/
def execDlSoftExpire (c : BitVec 6) (s : State) : Host.Outcome State Fault Refusal := .next (s.softExpire c.toNat)

/-- R369, R370: the hard deadline of channel `c`'s oldest reduction passes. -/
def execDlHardExpire (c : BitVec 6) (s : State) : Host.Outcome State Fault Refusal := .next (s.hardExpire c.toNat)

/-- R348: the training of a port ends. -/
def execPortTrained (port : BitVec 5) (ok : Bool) (s : State) : Host.Outcome State Fault Refusal := .next (s.trainEnd port.toNat ok)

/-- R348: a port loses its link. -/
def execLinkDown (port : BitVec 5) (s : State) : Host.Outcome State Fault Refusal := .next (s.linkLost port.toNat)

/-- R350: a frame nobody here expects. -/
def execForeignFrame (port : BitVec 5) (s : State) : Host.Outcome State Fault Refusal :=
  .next (if port.toNat < 28 ∧ s.portLink port.toNat = 2 then s.foreign port.toNat else s)

/-- R351: a frame whose FCS or FEC fails. -/
def execBadFcsFrame (port : BitVec 5) (s : State) : Host.Outcome State Fault Refusal :=
  .next (if port.toNat < 28 ∧ s.portLink port.toNat = 2 then s.portCount port.toNat 3 else s)

/-- R374: FAB_CTL.CNT_CLR. -/
def execFabCntClr (s : State) : Host.Outcome State Fault Refusal := .next (s.clear fabCounters)

end Sys2Proof.Machine
end

