-- ==== Sys2Proof/Machine/TwinEvents.lean ====
section
/-!
DEFINITION. Sys2Proof/Machine/TwinEvents.lean: the twin's frames and timers (R377, R378, R384, R387 to R393).
-/
namespace Sys2Proof.Machine

/-- A twin frame received and accepted in order, then acted on; on a fabric port its type is reserved (R350). -/
def State.rxTwin (s : State) (port : Nat) (f : Frame) (act : State → State) : State :=
  if port < 24 ∨ 28 ≤ port then (if port < 24 ∧ s.portLink port = 2 then s.foreign port else s)
  else
    let (s, ok) := s.receive port f true
    if ok then (act s).settle else s

/-- R387: the partner's HELLO: its nonce and its MAC base; in BONDING this module's BOND frames follow. -/
def State.helloIn (s : State) (port : Nat) (f : Frame) (mirdig : BitVec 256) : State :=
  let s := s.modTwn fun t => { t with peerNonce := some (f.data.take 32), peerMac := f.src.toNat - port }
  if s.twin = 1 ∧ s.twn.mine.isNone then s.sendBond mirdig else s

/-- R387, R389: a BOND frame; with the last of them the partner is judged. -/
def State.bondIn (s : State) (f : Frame) (rtt : Nat) : State :=
  let s := s.modTwn fun t => { t with rxBond := t.rxBond.set (fun _ => none) f.seg.toNat (some (f.data, f.flags.getLsbD 0)) }
  if s.twin = 1 then s.judge rtt else s

/-- R387: the partner's decision. -/
def State.decisionIn (s : State) (f : Frame) : State :=
  if s.twin = 1 then (s.modTwn fun t => { t with theirs := some (leNat (f.data.take 4)) }).decided else s

/-- R392: a partner's UNBOND: in a step the module drains first. -/
def State.unbondIn (s : State) : State :=
  match s.twin with
  | 2 | 3 | 4 =>
    let s := s.modTwn fun t => { t with peerUnbond := true }
    if s.phase = 0 then s else s.setTwin 4
  | _ => s

/-- R392: the partner's acknowledgement of an unbond. -/
def State.unbondAckIn (s : State) : State := if s.twn.unbondSent then s.solo else s

/-- R378: no frame of the partner for LOSS_TO; a bond being made has a partner once its HELLO is here. -/
def State.lossTimer (s : State) : State :=
  if s.twin = 1 ∧ s.twn.peerNonce.isNone then s else s.partnerLost.settle

/-- R389: no HELLO of a partner within the timeout. -/
def State.bondTimer (s : State) : State :=
  if s.twin = 1 ∧ s.twn.peerNonce.isNone then (s.endBond stTimeout 0 0).settle else s

/-! ### The commands -/

/-- R387: a HELLO frame; `mirdig` is the digest firmware computes over its latest mirror. -/
def execHello (port : BitVec 5) (f : Frame) (mirdig : BitVec 256) (s : State) : Host.Outcome State Fault Refusal :=
  .next (s.rxTwin port.toNat f fun s => s.helloIn port.toNat f mirdig)

/-- R389: a BOND frame; `rtt` is the measured round trip of the HELLOs in nanoseconds. -/
def execBond (port : BitVec 5) (f : Frame) (rtt : BitVec 32) (s : State) : Host.Outcome State Fault Refusal :=
  .next (s.rxTwin port.toNat f fun s => s.bondIn f rtt.toNat)

/-- R387: a DECISION frame. -/
def execDecision (port : BitVec 5) (f : Frame) (s : State) : Host.Outcome State Fault Refusal :=
  .next (s.rxTwin port.toNat f fun s => s.decisionIn f)

/-- R384: a MIRROR frame; `off` is the offset of its image in the partner's order. -/
def execMirror (port : BitVec 5) (f : Frame) (off : BitVec 48) (s : State) : Host.Outcome State Fault Refusal :=
  .next (s.rxTwin port.toNat f fun s => s.mirrorIn port.toNat f off.toNat)

/-- R380: a MACK frame. -/
def execMack (port : BitVec 5) (f : Frame) (s : State) : Host.Outcome State Fault Refusal :=
  .next (s.rxTwin port.toNat f fun s => s.mackIn f)

/-- R384: an MSKIP frame. -/
def execMskip (port : BitVec 5) (f : Frame) (s : State) : Host.Outcome State Fault Refusal :=
  .next (s.rxTwin port.toNat f fun s => s.mskipIn f)

/-- R378: a HEARTBEAT frame. -/
def execHeartbeat (port : BitVec 5) (f : Frame) (s : State) : Host.Outcome State Fault Refusal :=
  .next (s.rxTwin port.toNat f fun s => s)

/-- R392: an UNBOND frame. -/
def execUnbond (port : BitVec 5) (f : Frame) (s : State) : Host.Outcome State Fault Refusal :=
  .next (s.rxTwin port.toNat f State.unbondIn)

/-- R392: an UNBOND_ACK frame. -/
def execUnbondAck (port : BitVec 5) (f : Frame) (s : State) : Host.Outcome State Fault Refusal :=
  .next (s.rxTwin port.toNat f State.unbondAckIn)

/-- R378: a live twin port sends its heartbeat. -/
def execHeartbeatTimer (port : BitVec 5) (s : State) : Host.Outcome State Fault Refusal :=
  .next (if s.twinPorts.contains port.toNat then s.twinOn port.toNat 15 1 0 0 0 [] else s)

/-- R378, R393: the partner is lost. -/
def execPartnerLoss (s : State) : Host.Outcome State Fault Refusal := .next s.lossTimer

/-- R389: the time for the partner's HELLO has passed. -/
def execBondTimeout (s : State) : Host.Outcome State Fault Refusal := .next s.bondTimer

/-- R395: TWN_CTL.CNT_CLR. -/
def execTwnCntClr (s : State) : Host.Outcome State Fault Refusal := .next (s.clear twnCounters)

end Sys2Proof.Machine
end

