-- ==== Sys2Proof/Machine/FwEvents.lean ====
section
/-!
DEFINITION. Sys2Proof/Machine/FwEvents.lean: the firmware tick, power events, and the ends of launches, self-tests and waits
(R286, R397 to R415, R448, R450, R451, R483).
-/
namespace Sys2Proof.Machine

/-- Whether firmware runs. -/
def State.fwRuns (s : State) : Bool := s.sys.rails && s.sys.step == 13

/-- R397 to R413: the 100 µs tick of firmware; `t` is what it reads. -/
def execFirmwareTick (t : Telemetry) (s : State) : Host.Outcome State Fault Refusal :=
  .next (if s.fwRuns then (s.tick t).settle else s)

/-- R401, R524: the always-on block samples the input: voltage in mV, current in 10 mA, board temperatures. -/
def execInputSample (volts : BitVec 16) (amps : BitVec 16) (board : BitVec 32) (s : State) : Host.Outcome State Fault Refusal :=
  .next (if s.sys.vin then s.inputSample volts.toNat amps.toNat board else s)

/-- R403: sensor `i` of die `d` reads `v`, in 1/16 °C. -/
def execThermalTrip (d : DieId) (i : BitVec 6) (v : BitVec 16) (s : State) : Host.Outcome State Fault Refusal :=
  .next (if s.sys.rails then s.thermalTrip d i.toNat v else s)

/-- R405: the clock of region `r` has relocked. -/
def execPllRelockDone (r : RegionId) (s : State) : Host.Outcome State Fault Refusal := .next (s.relockDone r).settle

/-- R405: the rail of region `r` has reached its voltage. -/
def execRailSlewDone (r : RegionId) (s : State) : Host.Outcome State Fault Refusal := .next (s.slewDone r).settle

/-- R415: the transition of a function ends. -/
def execFuncTransitionDone (f : BitVec 6) (ok : Bool) (s : State) : Host.Outcome State Fault Refusal := .next (s.funcDone f.toNat ok).settle

/-- R418: PWR_CTL.CNT_CLR. -/
def execPwrCntClr (s : State) : Host.Outcome State Fault Refusal := .next (s.clear pwrCounters)

/-- R448: the `n`-th launch ends: every core has halted, stopped or been fenced. -/
def execLaunchComplete (n : BitVec 16) (s : State) : Host.Outcome State Fault Refusal := .next (s.launchEnd n.toNat).settle

/-- R286: the self-test of a core ends. -/
def execSelfTestDone (c : CoreId) (ok : Bool) (s : State) : Host.Outcome State Fault Refusal := .next (s.selfTest c ok).settle

/-- R450: the time of the SYNC_WAIT in a control-complex watch slot passes. -/
def execSyncWaitTimeout (d : DieId) (slot : BitVec 6) (s : State) : Host.Outcome State Fault Refusal := .next (s.syncTimeout d slot).settle

/-- R483: writing and verifying the staged slot ends. -/
def execFwStageDone (readErr : Bool) (s : State) : Host.Outcome State Fault Refusal := .next (s.stageDone readErr).settle

end Sys2Proof.Machine
end

