-- ==== Sys2Proof/Machine/HostLink.lean ====
section
/-!
DEFINITION. Sys2Proof/Machine/HostLink.lean: the host link, CXL.cache and CXL.mem, function level reset, ring and log registers
as the host writes them (R419 to R436, R456, R466, R472, R493, R498, R500).
-/
namespace Sys2Proof.Machine

/-! ### Training and resets of the link (R419, R431, R472) -/

/-- Host-side state changed. -/
def State.modHost (s : State) (f : HostSt → HostSt) : State := { s with host := f s.host }

/-- R419: the rate a mode runs at, coded as MAXRATE: the slower of the host's and the module's, in the mode's range. -/
def trainRate (mode want maxRate : Nat) : Nat :=
  let r := max want maxRate
  match mode with
  | 3 => r
  | 0 => min r 2
  | _ => max r 1

/-- R419, R472: the link trains. -/
def State.linkTrain (s : State) (mode rate width : Nat) : State :=
  let y := s.sys
  if !y.vin ∨ !y.rails ∨ !y.linkTry ∨ s.host.linkUp ∨ y.perst ∨ !(([1, 2, 4, 8] : List Nat).contains width) then s
  else
    let m := min mode (s.fld MOD_LINK_CTL MOD_LINK_CTL.MAXMODE)
    let r := trainRate m rate (s.fld MOD_LINK_CTL MOD_LINK_CTL.MAXRATE)
    let w := MOD_LINK_STATUS.MODE.put (MOD_LINK_STATUS.RATE.put (MOD_LINK_STATUS.WIDTH.put 0 width) r) m
    ((s.wr MOD_LINK_STATUS w).modHost fun h => { h with linkUp := true }).modSys fun y => { y with linkTry := false, linkRetry := false }

/-- R431: a function level reset: the host's launches are stopped and complete ABORTED; packets, replies and rings are gone, as
are clamp records, windows, the MSI-X table, the mailboxes and the sessions. What commands have begun goes on, without a
reply. -/
def State.flrBegin (s : State) : State :=
  let mine (L : Launch) : Bool := L.cmd.isSome
  let s := s.modHost fun h => { h with
    cmds := h.cmds.map fun c => if c.replayed then c else { c with mute := true }
    held := [], coal := [], flr := true }
  let s := (s.host.launches.filter mine).foldl (fun s L =>
    if L.ph = .queued then (s.modLaunch L.id fun L => { L with status := stAborted }).launchGone { L with status := stAborted }
    else s.endLaunch L stAborted) s
  let s := (List.range 64).foldl (fun s n =>
    let s := (s.setFld (CMD_SQ_CFG n) CMD_SQ_CFG.EN 0).setFld (CMD_CQ_CFG n) CMD_CQ_CFG.EN 0
    s.clear [CMD_CLAMP_REC n, CMD_CLAMP_GIVEN n, CMD_CLAMP_USED n]) s
  let s := (s.clear [CMD_WIN 0, CMD_WIN 1]).clearRange (2 ^ 53) (2 ^ 54) fun _ => true
  (s.mbxReset true).modSys fun y => { y with sessions := [] }

/-- R431: a function level reset that the host asks for, once the function answers requests. -/
def State.funcReset (s : State) : State := if s.host.linkUp ∧ s.fwRuns ∧ !s.host.flr then s.flrBegin.settle else s

/-- R466: the end of a function level reset. -/
def State.flrEnd (s : State) : State :=
  if s.host.flr then (s.modHost fun h => { h with flr := false }).setFld MBX_STATUS MBX_STATUS.HOST_RESET 0 else s

/-- R472: PERST# asserted: the link is reset, and from step 13 on it is a function level reset. -/
def State.perstLow (s : State) : State :=
  if s.sys.perst then s
  else
    let s := s.modSys fun y => { y with perst := true, linkTry := false }
    let s := if s.host.linkUp then ((s.modHost fun h => { h with linkUp := false }).wr MOD_LINK_STATUS 0).emit (.host 17 []) else s
    if s.fwRuns then s.flrBegin.settle else s

/-- R472: PERST# deasserted: from step 10 on the link trains. -/
def State.perstHigh (s : State) : State :=
  if !s.sys.perst then s
  else s.modSys fun y => { y with perst := false, linkTry := y.linkTry || (y.rails && decide (10 ≤ y.step)) }

/-- R477: after a failed step 10 the link tries again every second. -/
def State.linkAgain (s : State) : State :=
  if s.sys.linkRetry ∧ !s.host.linkUp ∧ !s.sys.perst then s.modSys fun y => { y with linkTry := true } else s

/-! ### Configuration space (R420, R421, R424, R425, R427, R428, R472) -/

/-- What the function's configuration space reports: 3 class code, device, vendor and subsystem; 4 the DVSEC for CXL devices
(cache, I/O and memory capable, HDM_Count, HDM size, cache size); 5 ATS, PRI and PASID (PASID width, ATS queue depth, smallest
translation, page request capacity); 6 the sizes of BAR0 and BAR2; 7 MSI-X vectors; 8 DOE instances and the largest object. -/
def State.configView (s : State) (kind : Nat) : List Nat :=
  let cxl := if s.fld MOD_LINK_STATUS MOD_LINK_STATUS.MODE = 0 then 0 else 1
  match kind with
  | 3 => [0x120000, 0x1024, Config.maker 0x10002 % 2 ^ 16, 0x000A + s.fuses.grade.toNat]
  | 4 => [cxl, 1, cxl, 1, s.lpddrSize, 65536]
  | 5 => [20, 32, 4096, 1024]
  | 6 => [32 * 2 ^ 20, 65536]
  | 7 => [72]
  | 8 => [2, 262144]
  | _ => []

/-- A configuration request: CRS before step 13 (R472); then 1 sets the page requests allocated to the function and 2 clears the
PRI Stopped state (R428), and other kinds read. -/
def State.configRequest (s : State) (kind : Nat) (v : Word) : State :=
  if !s.host.linkUp then s
  else if s.sys.step ≠ 13 then s.emit (.host 4 [])
  else
    let s := match kind with
      | 1 => (s.modHost fun h => { h with priAlloc := v.toNat }).priSend
      | 2 => (s.modHost fun h => { h with priStopped := false }).priSend
      | _ => s
    s.emit (.host 3 (s.configView kind))

/-! ### CXL.mem and CXL.cache (R424 to R426) -/

/-- Whether a host CXL.mem access reaches an address: in a CXL mode, in the LPDDR5X present. -/
def State.memReach (s : State) (a : Nat) : Bool :=
  s.host.linkUp && s.fwRuns && s.fld MOD_LINK_STATUS MOD_LINK_STATUS.MODE != 0 && decide (a < s.lpddrSize)

/-- R426: in the CXL 2.0 and 1.1 modes a device-bias page flips to host bias. -/
def State.biasFlip (s : State) (a : Nat) : State :=
  if s.fld MOD_LINK_STATUS MOD_LINK_STATUS.MODE ≠ 3 ∧ s.host.bias.get (fun _ => false) (a / 2 ^ 21) then
    (s.modHost fun h => { h with bias := h.bias.set (fun _ => false) (a / 2 ^ 21) false }).bump MOD_BIASFLIP
  else s

/-- R426: in the CXL 3.1 mode the snoop filter of the line's memory-controller stop records it; a full filter gives up an entry,
which one is not given. -/
def State.filterAdd (s : State) (a : Nat) : State :=
  let k := (s.chanOf a).1 / 4
  let ls := s.host.filter.get (fun _ => []) k
  if s.fld MOD_LINK_STATUS MOD_LINK_STATUS.MODE ≠ 3 ∨ ls.contains (a / 64) then s
  else if ls.length < 65536 then s.modHost fun h => { h with filter := h.filter.set (fun _ => []) k (ls ++ [a / 64]) }
  else
    let (x, s) := s.take
    let i := x % 65536
    (s.emit (.host 9 [ls.getD i 0 * 64])).modHost fun h => { h with filter := h.filter.set (fun _ => []) k (ls.eraseIdx i ++ [a / 64]) }

/-- R425, R230: a host read of a 64-byte line; `found` is what its ECC finds in the first codeword (0 nothing, 1 a corrected
symbol `sym`, 2 or 3 an error that poisons it). Poison is indicated (R232). It crosses the mesh as a line read (R264), once the CXL stop and
the line's port have the tokens (R271). -/
def State.hostRead (s : State) (addr found sym : Nat) : State :=
  let a := addr / 64 * 64
  let e := s.tierEp a
  if !s.memReach a ∨ s.paced cxlEp 1 ∨ s.paced e 5 then s
  else
    let (tier, ce, ue, src) := s.tierOf a
    let s := ((s.send cxlEp e 1).send e cxlEp 5).biasFlip a
    let s := match found with
      | 0 => s
      | 1 => (s.corrected ce 0x0001 src tier a (toLe 1 sym ++ [0])).emit (.ras 0)
      | _ => if s.poisoned a 16 then s else ((s.setPoison a 16 true).bump ue).event 0x0002 1 src tier a [0]
    let bad := s.poisoned a 64
    let s := if bad then s.poisonUse a 5 0 else s
    (s.filterAdd a).emit (.host 6 ((if bad then 1 else 0) :: (s.rdMem a 64).map (·.toNat)))

/-- R425, R221: a host write within a 64-byte line; a write to a page that is read in one piece waits (R222), and so does one
without tokens at the CXL stop (R271). -/
def State.hostWrite (s : State) (a : Nat) (bs : List Byte) : State :=
  let n := bs.length
  let e := s.tierEp a
  if n = 0 ∨ 64 < a % 64 + n ∨ !s.memReach a ∨ s.heldForRead (a / 4096 * 4096) ∨ s.paced cxlEp (writeFlits n) then s
  else ((((((s.send cxlEp e (writeFlits n)).biasFlip a).putMem a bs).received a 0xFFFFFFFF).ctrl e cxlEp).emit (.host 7 [a]))

/-- R424: an H2D snoop: the module holds no line. -/
def State.snoop (s : State) (a : Nat) : State :=
  if s.host.linkUp ∧ s.fld MOD_LINK_STATUS MOD_LINK_STATUS.MODE ≠ 0 then s.emit (.host 8 [a]) else s

/-! ### Rings (R432 to R436) -/

/-- A register written by the host once the link is up. -/
def State.byHost (s : State) (a : Nat) (v : Word) : State := s.writeBy a v .host

/-- R436: COAL_US after the first unsignalled reply. -/
def State.coalTimer (s : State) (q : Nat) : State :=
  if s.host.coal.get (fun _ => 0) q = 0 ∨ s.fld (CMD_CQ_CFG q) CMD_CQ_CFG.COAL_US = 0 then s
  else (s.modHost fun h => { h with coal := h.coal.set (fun _ => 0) q 0 }).msix q

/-- R497, R498: a flit or LCRC error on the host link, replayed; `crc` and `retry` say which thresholds it crosses. -/
def State.linkReplay (s : State) (crc retry : Bool) : State :=
  if !s.host.linkUp then s
  else
    let s := s.corrected MOD_LINK_RETRY 0x0006 (srcOf 6 0) 0 0 []
    let s := if crc then s.emit (.ras 1) else s
    if retry then s.emit (.ras 2) else s

/-! ### The commands -/

/-- R419: the host link trains: the mode, rate and width that the host's side and the lanes allow. -/
def execLinkTrain (mode : BitVec 2) (rate : BitVec 2) (width : BitVec 4) (s : State) : Host.Outcome State Fault Refusal :=
  .next (s.linkTrain mode.toNat rate.toNat width.toNat)

/-- R472: PERST# is asserted. -/
def execPerstAssert (s : State) : Host.Outcome State Fault Refusal := .next s.perstLow

/-- R472: PERST# is deasserted. -/
def execPerstDeassert (s : State) : Host.Outcome State Fault Refusal := .next s.perstHigh

/-- R431: a function level reset. -/
def execFunctionLevelReset (s : State) : Host.Outcome State Fault Refusal := .next s.funcReset

/-- R466: the function level reset ends. -/
def execFlrDone (s : State) : Host.Outcome State Fault Refusal := .next s.flrEnd

/-- R472: a configuration request. -/
def execConfigRequest (kind : BitVec 4) (v : Word) (s : State) : Host.Outcome State Fault Refusal := .next (s.configRequest kind.toNat v)

/-- R477: the second between link trainings after a failed step 10 has passed. -/
def execLinkRetrainTimer (s : State) : Host.Outcome State Fault Refusal := .next s.linkAgain

/-- R425: a host CXL.mem read. -/
def execHostMemRead (a : BitVec 52) (found : BitVec 2) (sym : BitVec 6) (s : State) : Host.Outcome State Fault Refusal :=
  .next (s.hostRead a.toNat found.toNat sym.toNat)

/-- R425: a host CXL.mem write. -/
def execHostMemWrite (a : BitVec 52) (data : List Byte) (s : State) : Host.Outcome State Fault Refusal := .next (s.hostWrite a.toNat data)

/-- R424: an H2D snoop. -/
def execH2dSnoop (a : BitVec 52) (s : State) : Host.Outcome State Fault Refusal := .next (s.snoop a.toNat)

/-- R432: the host writes CMD_SQ_CFG_r, or CMD_CQ_CFG_r. -/
def execCmdRingEnable (cq : Bool) (r : RingId) (v : Word) (s : State) : Host.Outcome State Fault Refusal :=
  .next (s.byHost (if cq then CMD_CQ_CFG r.toNat else CMD_SQ_CFG r.toNat) v)

/-- R433: the host writes CMD_SQ_TAIL_r. -/
def execSqTailWrite (r : RingId) (v : Word) (s : State) : Host.Outcome State Fault Refusal := .next (s.byHost (CMD_SQ_TAIL r.toNat) v)

/-- R435: the host writes CMD_CQ_HEAD_r. -/
def execCqHeadWrite (r : RingId) (v : Word) (s : State) : Host.Outcome State Fault Refusal := .next (s.byHost (CMD_CQ_HEAD r.toNat) v)

/-- R436: the time condition of completion ring `r`. -/
def execCoalTimer (r : RingId) (s : State) : Host.Outcome State Fault Refusal := .next (s.coalTimer r.toNat)

/-- R423: the host writes CMD_WIN0 or CMD_WIN1. -/
def execWindowBaseWrite (w1 : Bool) (v : Word) (s : State) : Host.Outcome State Fault Refusal :=
  .next (s.byHost (CMD_WIN (if w1 then 1 else 0)) v)

/-- R456: CMD_CTL.CNT_CLR. -/
def execCmdCntClr (s : State) : Host.Outcome State Fault Refusal := .next (s.clear cmdCounters)

/-- R10: a register without a row of its own is written, under its access types. -/
def execRegisterWrite (a : BitVec 54) (v : Word) (who : Writer) (s : State) : Host.Outcome State Fault Refusal :=
  .next (s.writeBy a.toNat v who)

/-- R498: a replay on the host link. -/
def execLinkRetry (crc : Bool) (retry : Bool) (s : State) : Host.Outcome State Fault Refusal := .next (s.linkReplay crc retry)

/-- R493: MOD_LOG_HEAD written: records are freed. -/
def execModLogHeadWrite (v : Word) (s : State) : Host.Outcome State Fault Refusal := .next (s.plainWrite MOD_LOG_HEAD v)

/-- R500: MOD_LOG_BASE written. -/
def execModLogBaseWrite (v : Word) (s : State) : Host.Outcome State Fault Refusal := .next (s.logBase v)

/-- R500: MOD_ERR_CTL.CNT_CLR. -/
def execModErrCntClr (s : State) : Host.Outcome State Fault Refusal := .next (s.clear errCounters)

end Sys2Proof.Machine
end

