-- ==== Sys2Proof/Machine/Board.lean ====
section
/-!
DEFINITION. Sys2Proof/Machine/Board.lean: power, resets, the steps of a start, die-to-die links, the sideband, and the test access
ports (R469, R477, R497, R513 to R517, R524 to R528).
-/
namespace Sys2Proof.Machine

/-! ### Boundary scan and debug (R526 to R529) -/

/-- A die's TAP. -/
def State.tap (s : State) (d : DieId) : TapSt := s.sys.taps.get (fun _ => {}) d.toNat

/-- A die's TAP changed; the chain exists only while the die rails are on (R526). -/
def State.onTap (s : State) (d : DieId) (f : TapSt → TapSt) (act : State → State) : State :=
  if s.sys.rails then act (s.modSys fun y => { y with taps := y.taps.upd (fun _ => {}) d.toNat f }) else s

/-- Cells of a die's boundary register (R529). -/
def scanLen (d : DieId) : Nat := if d = 0 then 116 else 91

/-- The bits a die's boundary register holds of a value. -/
def scanBits (d : DieId) (v : BitVec 116) : BitVec 116 := BitVec.ofNat 116 (v.toNat % 2 ^ scanLen d)

/-- The 1-bit bypass register shifted out: it captures 0. -/
def State.bypass (s : State) (d : DieId) : State := s.emit (.tdo d 1 0)

/-- A boundary-register instruction that drives pins: it captures `pins`, takes `cells`, and drives them in a mode; only while
SCAN_HELD is 1 (R527). -/
def State.extest (s : State) (d : DieId) (ir : BitVec 8) (mode : Nat) (cells pins : BitVec 116) : State :=
  if s.sys.scanHeld then
    s.onTap d (fun t => { t with ir := ir, cells := scanBits d cells }) fun s =>
      (s.emit (.tdo d (scanLen d) (scanBits d pins).toNat)).emit (.pins d mode (scanBits d cells).toNat)
  else s.onTap d (fun t => { t with ir := ir }) fun s => s.bypass d

/-- SAMPLE/PRELOAD: the pins are captured, the cells loaded, nothing is driven. -/
def State.preload (s : State) (d : DieId) (cells pins : BitVec 116) : State :=
  s.onTap d (fun t => { t with ir := 1, cells := scanBits d cells }) fun s => s.emit (.tdo d (scanLen d) (scanBits d pins).toNat)

/-- HIGHZ and CLAMP, which take effect only while SCAN_HELD is 1. -/
def State.holdPins (s : State) (d : DieId) (ir : BitVec 8) (high : Bool) : State :=
  s.onTap d (fun t => { t with ir := ir }) fun s =>
    let s := if s.sys.scanHeld then s.emit (.pins d (if high then 1 else 0) (if high then 0 else (s.tap d).cells.toNat)) else s
    s.bypass d

/-- IDCODE of a die (R528). -/
def idcode : Nat := 0x4F1ABBD + 2 ^ 28 * (Config.maker 0x10001 % 16)

/-- USERCODE of a die (R528). -/
def State.usercode (s : State) (d : DieId) : Nat := 0x1024 * 2 ^ 16 + s.fuses.grade.toNat * 2 ^ 12 + d.toNat * 2 ^ 8

/-- What firmware reads of 64 bits at a device physical address. -/
def State.fwRead (s : State) (a : Nat) : Nat :=
  match s.place a with
  | .nowhere => 0
  | .regs => (s.rdView a).toNat
  | _ => s.rdNum a 8

/-- What a control complex's write of 64 bits at a device physical address does. -/
def State.fwWrite (s : State) (d : DieId) (a : Nat) (v : Word) : State :=
  match s.place a with
  | .nowhere => s
  | .regs => s.writeReg a v (ccEp d)
  | _ => s.wrNum a 8 v.toNat

/-- R527: a CCDBG access of a die's control complex: the data of the last completed access comes out, then the access is made as
firmware's own would be; the SEC_ block reads 0 and ignores writes. -/
def State.ccdbg (s : State) (d : DieId) (w : Bool) (a : Nat) (v : Word) : State :=
  let sec := decide (0x121000000000 ≤ a) && decide (a < 0x121100000000)
  let old := (s.tap d).data
  let new : Word := if w || sec then 0 else BitVec.ofNat 64 (s.fwRead a)
  s.onTap d (fun t => { t with ir := 0x20, data := if w then t.data else new }) fun s =>
    let s := s.emit (.tdo d 117 old.toNat)
    if sec then s else if w then s.fwWrite d a v else s.regRead a (ccEp d)

/-- Codes of instructions the TAP has besides BYPASS. -/
def tapCodes : List Nat := [0, 1, 2, 3, 4, 5, 6, 7, 0x20]

/-! ### The sideband (R524, R525) -/

/-- R525: four bytes of the SPI NOR at FLASH_ADDR, which advances by 4. -/
def State.sbFlash (s : State) : State :=
  if !s.sys.vin then s
  else
    let a := MOD_SB_FLASH_ADDR.ADDR.get (s.rd MOD_SB_FLASH_ADDR) * 4
    let (bs, s) := s.flashRead a
    (s.setFld MOD_SB_FLASH_ADDR MOD_SB_FLASH_ADDR.ADDR (a / 4 + 1)).emit (.smb bs)

/-- R524: the Alert Response Address: while SMBALERT# is asserted the module answers with its own address. -/
def State.alertAnswer (s : State) (pins : Nat) : State :=
  if s.sys.vin ∧ s.alertPin then s.emit (.smb [BitVec.ofNat 8 (0x64 + pins)]) else s

/-- R477: the 100 ms before the next try of step 1 have passed. -/
def State.railAgain (s : State) : State := if s.sys.railWait then s.modSys fun y => { y with railWait := false } else s

/-! ### The commands: power, resets and starts -/

/-- R515: the input rises through 38.5 V. -/
def execVinRise (s : State) : Host.Outcome State Fault Refusal := .next s.vinRise

/-- R516: the input falls through 37.0 V. -/
def execVinFall (s : State) : Host.Outcome State Fault Refusal := .next s.vinFall

/-- R517: MOD_RST# has been low for 10 µs. -/
def execModRstAssert (s : State) : Host.Outcome State Fault Refusal := .next s.rstAssert

/-- R515: MOD_RST# is deasserted. -/
def execModRstDeassert (s : State) : Host.Outcome State Fault Refusal := .next s.rstDeassert

/-- R525: RESET_REQ written 1 over the sideband. -/
def execResetReq (v : BitVec 32) (s : State) : Host.Outcome State Fault Refusal :=
  .next (if s.sys.vin ∧ v.getLsbD 0 then s.sbCtl (v.zeroExtend 64) else s)

/-- R479, R525: JNL_CLEAR written 1 over the sideband. -/
def execJnlClear (v : BitVec 32) (s : State) : Host.Outcome State Fault Refusal :=
  .next (if s.sys.vin ∧ v.getLsbD 1 then s.sbCtl (v.zeroExtend 64) else s)

/-- R514: the over-current cut-off. -/
def execOvercurrent (s : State) : Host.Outcome State Fault Refusal := .next s.overcurrent

/-- R514: the overvoltage cut-off. -/
def execOvervoltage (s : State) : Host.Outcome State Fault Refusal := .next s.overvoltage

/-- R514: the input falls to 61.0 V after an overvoltage. -/
def execOvervoltageRelease (s : State) : Host.Outcome State Fault Refusal := .next s.overvoltageOff

/-- R513: a thermal threshold of the always-on block is crossed. -/
def execOvertempShutdown (cause : BitVec 2) (s : State) : Host.Outcome State Fault Refusal := .next (s.overtemp cause.toNat)

/-- R513: 10 s have passed since a thermal shut-down. -/
def execShutdownHoldExpire (s : State) : Host.Outcome State Fault Refusal := .next s.holdExpire

/-- R469: the step of the start in progress passes. -/
def execStartupStepPass (twin : Bool) (mirdig : BitVec 256) (s : State) : Host.Outcome State Fault Refusal :=
  .next (s.stepPass twin mirdig)

/-- R477: a try of the step in progress fails on an object. -/
def execStartupTryFail (obj : BitVec 16) (detail : BitVec 16) (mirdig : BitVec 256) (s : State) : Host.Outcome State Fault Refusal :=
  .next (s.tryFail obj.toNat detail.toNat mirdig)

/-- R477: step 1 is tried again. -/
def execStep1RetryTimer (s : State) : Host.Outcome State Fault Refusal := .next s.railAgain

/-- R497: a flit of a die-to-die link fails its CRC and is resent. -/
def execD2dFlitCrcFail (d : DieId) (vert : Bool) (s : State) : Host.Outcome State Fault Refusal :=
  .next (if s.sys.rails then s.d2dResend d vert else s)

/-- R497: a die-to-die link's retraining ends. -/
def execD2dRetrainDone (d : DieId) (vert : Bool) (ok : Bool) (s : State) : Host.Outcome State Fault Refusal := .next (s.d2dTrained d vert ok)

/-- R525: MOD_SB_FLASH_DATA read over the sideband. -/
def execSbFlashDataRead (s : State) : Host.Outcome State Fault Refusal := .next s.sbFlash

/-- R524: a controller reads the Alert Response Address; `pins` are SMB_ADDR1 and SMB_ADDR0. -/
def execAlertResponse (pins : BitVec 2) (s : State) : Host.Outcome State Fault Refusal := .next (s.alertAnswer pins.toNat)

/-! ### The commands: the test access ports -/

/-- R527: EXTEST on die `d`. -/
def execExtest (d : DieId) (cells : BitVec 116) (pins : BitVec 116) (s : State) : Host.Outcome State Fault Refusal :=
  .next (s.extest d 0x00 0 cells pins)

/-- R527: SAMPLE/PRELOAD on die `d`. -/
def execSamplePreload (d : DieId) (cells : BitVec 116) (pins : BitVec 116) (s : State) : Host.Outcome State Fault Refusal :=
  .next (s.preload d cells pins)

/-- R527: EXTEST_PULSE on die `d`. -/
def execExtestPulse (d : DieId) (cells : BitVec 116) (pins : BitVec 116) (s : State) : Host.Outcome State Fault Refusal :=
  .next (s.extest d 0x06 2 cells pins)

/-- R527: EXTEST_TRAIN on die `d`. -/
def execExtestTrain (d : DieId) (cells : BitVec 116) (pins : BitVec 116) (s : State) : Host.Outcome State Fault Refusal :=
  .next (s.extest d 0x07 3 cells pins)

/-- R528: IDCODE of die `d`. -/
def execIdcode (d : DieId) (s : State) : Host.Outcome State Fault Refusal :=
  .next (s.onTap d (fun t => { t with ir := 0x02 }) fun s => s.emit (.tdo d 32 idcode))

/-- R528: USERCODE of die `d`. -/
def execUsercode (d : DieId) (s : State) : Host.Outcome State Fault Refusal :=
  .next (s.onTap d (fun t => { t with ir := 0x03 }) fun s => s.emit (.tdo d 32 (s.usercode d)))

/-- R527: HIGHZ on die `d`. -/
def execHighz (d : DieId) (s : State) : Host.Outcome State Fault Refusal := .next (s.holdPins d 0x04 true)

/-- R527: CLAMP on die `d`. -/
def execClamp (d : DieId) (s : State) : Host.Outcome State Fault Refusal := .next (s.holdPins d 0x05 false)

/-- R527: BYPASS, and every code of no other instruction. -/
def execBypass (d : DieId) (code : BitVec 8) (s : State) : Host.Outcome State Fault Refusal :=
  .next (if tapCodes.contains code.toNat then s else s.onTap d (fun t => { t with ir := code }) fun s => s.bypass d)

/-- R527: CCDBG on die `d`. -/
def execCcdbg (d : DieId) (w : Bool) (a : BitVec 52) (v : Word) (s : State) : Host.Outcome State Fault Refusal :=
  .next (s.ccdbg d w a.toNat v)

/-- R526: the TAPs are reset: IDCODE is selected. -/
def execTapReset (s : State) : Host.Outcome State Fault Refusal :=
  .next (allDies.foldl (fun s d => s.onTap d (fun t => { t with ir := 0x02 }) fun s => s) s)

end Sys2Proof.Machine
end

