-- ==== Sys2Proof/Machine/Attest.lean ====
section
/-!
DEFINITION. Sys2Proof/Machine/Attest.lean: DOE, the CDAT, and the SPDM responder (R427, R486 to R488).
-/
namespace Sys2Proof.Machine

/-! ### Measurements (R488) -/

/-- The newest committed values of the staged settings, in setting-ID order. -/
def State.settingBytes (s : State) : List Byte :=
  (List.range 0x21).flatMap fun id =>
    match (s.host.gens.filter fun g => g.setting == id && decide (g.n ≤ s.host.committed)).getLast? with
    | some g => g.value
    | none => []

/-- SM3 of the configuration: settings, MOD_LINK_CTL, FAB_RETRY, the twin state byte. -/
def State.configDigest (s : State) : List Byte :=
  sm3 (s.settingBytes ++ toLe 8 (s.rd MOD_LINK_CTL).toNat ++ toLe 8 (s.rd FAB_RETRY).toNat ++ toLe 1 s.twin)

/-- SM3 of the hardware configuration: enabled cores, the step-8 fence mask, DEV_ACTIVE, skipped planes. -/
def State.hardwareDigest (s : State) : List Byte :=
  sm3 (coreMask s.enabled ++ coreMask (fun c => s.sys.nvm.blk.fenced.get (fun _ => false) c.toNat) ++
    toLe 4 (s.fld (MEM_CHMAP 0) MEM_CHMAP.DEV_ACTIVE) ++ toLe 4 (s.linkMask 3))

/-- DIGEST of the staged slot, or zero. -/
def State.stagedDigest (s : State) : List Byte :=
  let b := s.sys.nvm.blk.staged
  if b.getLsbD 0 then s.flash (fwBase 0 + 16) 32
  else if b.getLsbD 1 then s.flash (fwBase 1 + 16) 32
  else List.replicate 32 0

/-- A measurement block by its index. -/
def State.measurement (s : State) (i : Nat) : List Byte :=
  match i with
  | 1 => toLe 32 (Config.maker 0x10020)
  | 2 => s.sys.digest
  | 3 => toLe 4 s.sys.version
  | 4 => toLe 4 s.sys.svn ++ toLe 4 s.fuses.svnMin.toNat
  | 5 => s.configDigest
  | 6 => s.hardwareDigest
  | _ => s.stagedDigest

/-! ### The responder (R487) -/

/-- Whether the responder answers: from step 10, with the link up. -/
def State.responds (s : State) : Bool := s.host.linkUp && s.sys.rails && decide (10 ≤ s.sys.step) && !s.host.flr

/-- An answer of the responder: its response code and what it carries. -/
def State.spdmAnswer (s : State) (code : Nat) (words : List Nat) : State := s.emit (.host 15 (code :: words))

/-- An SPDM ERROR. -/
def State.spdmError (s : State) (code : Nat) : State := s.emit (.host 16 [code])

/-- A request that needs a negotiation at least so far along: UnexpectedRequest before. -/
def State.spdmAt (s : State) (need : Nat) (act : State → State) : State :=
  if !s.responds then s else if s.sys.spdm < need then s.spdmError 0x04 else act s

/-- A request that is signed with the identity key: AUTH_FAIL while the chain does not match it (R486). -/
def State.signing (s : State) (act : State → State) : State :=
  if s.bit SEC_STATUS SEC_STATUS.CHAIN_BAD then s.spdmError stAuthFail.toNat else act s

/-- Bytes as words of an answer. -/
def wordsOf (bs : List Byte) : List Nat := bs.map (·.toNat)

/-- GET_VERSION. -/
def State.spdmVersion (s : State) : State :=
  if s.responds then (s.modSys fun y => { y with spdm := 1 }).spdmAnswer 0x04 [0x12] else s

/-- The capabilities of R487, as SPDM 1.2 codes them. -/
def spdmCaps : Nat := 0x62D6

/-- GET_CAPABILITIES. -/
def State.spdmCapabilities (s : State) : State :=
  s.spdmAt 1 fun s => (s.modSys fun y => { y with spdm := 2 }).spdmAnswer 0x61 [spdmCaps]

/-- NEGOTIATE_ALGORITHMS: of what the requester offers, SM2 signing and SM3, and for sessions SM2 key exchange and SM4-GCM. -/
def State.spdmAlgorithms (s : State) (sign hash kex aead : Bool) : State :=
  s.spdmAt 2 fun s =>
    if !sign ∨ !hash then s.spdmError 0x01
    else (s.modSys fun y => { y with spdm := if kex ∧ aead then 4 else 3 }).spdmAnswer 0x63 [1, 1, if kex then 1 else 0, if aead then 1 else 0]

/-- GET_DIGESTS: slot 0's. -/
def State.spdmDigests (s : State) : State := s.spdmAt 3 fun s => s.spdmAnswer 0x01 (1 :: wordsOf (sm3 chainBytes))

/-- GET_CERTIFICATE: a portion of slot 0's chain, and what is left of it. -/
def State.spdmCertificate (s : State) (slot off len : Nat) : State :=
  s.spdmAt 3 fun s =>
    if slot ≠ 0 ∨ chainBytes.length ≤ off then s.spdmError 0x01
    else
      let part := (chainBytes.drop off).take len
      s.spdmAnswer 0x02 (part.length :: (chainBytes.length - off - part.length) :: wordsOf part)

/-- CHALLENGE: the chain's digest, a nonce, and a signature over both sides' nonces and the digest. -/
def State.spdmChallenge (s : State) (slot : Nat) (nonce : BitVec 256) : State :=
  s.spdmAt 3 fun s =>
    if slot ≠ 0 then s.spdmError 0x01
    else s.signing fun s =>
      let (mine, s) := s.takeBytes 32
      let body := sm3 chainBytes ++ mine
      s.spdmAnswer 0x03 (wordsOf (body ++ signed (toLe 32 nonce.toNat ++ body)))

/-- GET_MEASUREMENTS: 0 asks for their number, 0xFF for all, 1 to 7 for one; Busy before step 13. -/
def State.spdmMeasurements (s : State) (op : Nat) (sign : Bool) (nonce : BitVec 256) : State :=
  s.spdmAt 3 fun s =>
    if s.sys.step ≠ 13 then s.spdmError 0x03
    else if 7 < op ∧ op ≠ 0xFF then s.spdmError 0x01
    else
      let ixs := if op = 0 then [] else if op = 0xFF then [1, 2, 3, 4, 5, 6, 7] else [op]
      let blocks := ixs.flatMap fun i => toLe 1 i ++ s.measurement i
      let head := if op = 0 then 7 else ixs.length
      if sign then s.signing fun s =>
        let (mine, s) := s.takeBytes 32
        s.spdmAnswer 0x60 (head :: wordsOf (blocks ++ mine ++ signed (toLe 32 nonce.toNat ++ blocks ++ mine)))
      else s.spdmAnswer 0x60 (head :: wordsOf blocks)

/-- KEY_EXCHANGE: a session of at most four, with the responder's key and a signature. -/
def State.spdmKeyExchange (s : State) (slot : Nat) (key : BitVec 512) : State :=
  s.spdmAt 4 fun s =>
    if slot ≠ 0 then s.spdmError 0x01
    else if 4 ≤ s.sys.sessions.length then s.spdmError 0x0A
    else s.signing fun s =>
      let id := s.sys.nextSession
      let (mine, s) := s.takeBytes 64
      let s := s.modSys fun y => { y with sessions := y.sessions ++ [{ id := id }], nextSession := id + 1 }
      s.spdmAnswer 0x64 (id :: wordsOf (mine ++ signed (toLe 64 key.toNat ++ mine)))

/-- FINISH: the session is established, or ends where the requester's proof fails. -/
def State.spdmFinish (s : State) (id : Nat) (ok : Bool) : State :=
  s.spdmAt 4 fun s =>
    if !s.sys.sessions.any fun x => x.id == id && !x.established then s.spdmError 0x02
    else if ok then
      (s.modSys fun y => { y with sessions := y.sessions.map fun x => if x.id = id then { x with established := true } else x }).spdmAnswer 0x65 [id]
    else (s.modSys fun y => { y with sessions := y.sessions.filter fun x => x.id != id }).spdmError 0x06

/-- A request inside an established session. -/
def State.inSession (s : State) (id : Nat) (act : State → State) : State :=
  s.spdmAt 4 fun s => if s.sys.sessions.any fun x => x.id == id && x.established then act s else s.spdmError 0x02

/-! ### The commands -/

/-- R487: GET_VERSION. -/
def execGetVersion (s : State) : Host.Outcome State Fault Refusal := .next s.spdmVersion

/-- R487: GET_CAPABILITIES; the requester's flags change nothing. -/
def execGetCapabilities (_flags : BitVec 32) (s : State) : Host.Outcome State Fault Refusal := .next s.spdmCapabilities

/-- R487: NEGOTIATE_ALGORITHMS; whether the requester offers SM2 signing, SM3, SM2 key exchange, SM4-GCM. -/
def execNegotiateAlgorithms (sign : Bool) (hash : Bool) (kex : Bool) (aead : Bool) (s : State) : Host.Outcome State Fault Refusal :=
  .next (s.spdmAlgorithms sign hash kex aead)

/-- R487: GET_DIGESTS. -/
def execGetDigests (s : State) : Host.Outcome State Fault Refusal := .next s.spdmDigests

/-- R487: GET_CERTIFICATE. -/
def execGetCertificate (slot : BitVec 8) (off : BitVec 16) (len : BitVec 16) (s : State) : Host.Outcome State Fault Refusal :=
  .next (s.spdmCertificate slot.toNat off.toNat len.toNat)

/-- R487: CHALLENGE. -/
def execChallenge (slot : BitVec 8) (nonce : BitVec 256) (s : State) : Host.Outcome State Fault Refusal :=
  .next (s.spdmChallenge slot.toNat nonce)

/-- R488: GET_MEASUREMENTS. -/
def execGetMeasurements (op : BitVec 8) (sign : Bool) (nonce : BitVec 256) (s : State) : Host.Outcome State Fault Refusal :=
  .next (s.spdmMeasurements op.toNat sign nonce)

/-- R487: KEY_EXCHANGE. -/
def execKeyExchange (slot : BitVec 8) (key : BitVec 512) (s : State) : Host.Outcome State Fault Refusal :=
  .next (s.spdmKeyExchange slot.toNat key)

/-- R487: FINISH; whether the requester's proof verifies. -/
def execFinish (id : BitVec 32) (ok : Bool) (s : State) : Host.Outcome State Fault Refusal := .next (s.spdmFinish id.toNat ok)

/-- R487: HEARTBEAT of a session. -/
def execSpdmHeartbeat (id : BitVec 32) (s : State) : Host.Outcome State Fault Refusal :=
  .next (s.inSession id.toNat fun s => s.spdmAnswer 0x68 [id.toNat])

/-- R487: KEY_UPDATE of a session. -/
def execKeyUpdate (id : BitVec 32) (s : State) : Host.Outcome State Fault Refusal :=
  .next (s.inSession id.toNat fun s =>
    (s.modSys fun y => { y with sessions := y.sessions.map fun x => if x.id = id.toNat then { x with keys := x.keys + 1 } else x }).spdmAnswer
      0x69 [id.toNat])

/-- R487: END_SESSION. -/
def execEndSession (id : BitVec 32) (s : State) : Host.Outcome State Fault Refusal :=
  .next (s.inSession id.toNat fun s =>
    (s.modSys fun y => { y with sessions := y.sessions.filter fun x => x.id != id.toNat }).spdmAnswer 0x6C [id.toNat])

/-! ### DOE (R427) -/

/-- The protocols of a DOE instance: vendor and type. -/
def doeProtocols (one : Bool) : List (Nat × Nat) := if one then [(1, 0), (1, 1), (1, 2)] else [(1, 0), (0x1E98, 2)]

/-- R427: DOE Discovery on instance 0 or 1: the protocol of an index, and the next index. -/
def execDoeDiscovery (inst : Bool) (index : BitVec 8) (s : State) : Host.Outcome State Fault Refusal :=
  .next (if !s.responds then s
    else match (doeProtocols inst)[index.toNat]? with
    | some (v, t) => s.emit (.host 13 [v, t, if index.toNat + 1 < (doeProtocols inst).length then index.toNat + 1 else 0])
    | none => s.emit (.host 13 [0xFFFF, 0xFF, 0]))

/-- The structures of the CDAT (R427): DSMAS, DSLBIS latency in ns, DSLBIS bandwidth in MB/s, DSEMTS. -/
def State.cdat (s : State) : List (List Nat) :=
  [[0, 0, 0, 0, s.lpddrSize], [1, 0, 450, 450], [1, 0, 2430000, 2430000], [4, 0, 1, 1, 0, s.lpddrSize]]

/-- R427: a CDAT structure read, with the handle of the next one. -/
def execCdatRead (entry : BitVec 16) (s : State) : Host.Outcome State Fault Refusal :=
  .next (if !s.responds then s
    else match s.cdat[entry.toNat]? with
    | some w => s.emit (.host 14 ((if entry.toNat + 1 < s.cdat.length then entry.toNat + 1 else 0xFFFF) :: w))
    | none => s)

end Sys2Proof.Machine
end

