-- ==== Sys2Proof/Machine/Clock.lean ====
section
/-!
DEFINITION. Sys2Proof/Machine/Clock.lean: what a nanosecond does that no command asks for: module time and the cycle counters of
running cores (R185, R404 to R406, R456).
-/
namespace Sys2Proof.Machine

/-- ACLK of an operating point in MHz (R404). -/
def pointMhz (k : Nat) : Nat := [2500, 2200, 2000, 1800, 1500, 1200, 800, 400].getD k 400

/-- ACLK of a region in MHz: stopped during a relock and with the rail off, LEND_FREQ at a lend point (R14, R405, R406). -/
def State.aclk (s : State) (r : RegionId) : Nat :=
  if !s.rclocked r then 0
  else if s.rbit r PWR_RGN_STATE.LENDING then s.pwr.lendFreq
  else pointMhz (s.point r)

/-- Whether issue is stalled in this clock (R182): a BARR or SWAIT waits, a fetch has not returned, or the word at issue must wait. -/
def State.issueStalled (s : State) (c : CoreId) : Bool :=
  let C := s.core c
  C.run == .running && (C.wait.isSome || match C.ibuf with
    | none => true
    | some w => listed w && !illegalFields w (s.inHandler c) && s.stalls c w)

/-- Arrays whose swap is stalled: on a shadow load, or at the queue head behind a predicted skip (R59, R76). -/
def CoreSt.swapsStalled (C : CoreSt) : Nat :=
  ((List.range 3).filter fun a => (C.array a).swapStall ||
    C.fl.any fun f => iclass f.w == 7 && iop f.w == 1 && iarr f.w == a && f.ph == .queued && C.arrHead f &&
      (C.before f.seq).any fun g => isMtx g.w && iarr g.w == a && g.ph == .predicted).length

/-- A counter advanced unless by nothing. -/
def State.count (s : State) (a n : Nat) : State := if n = 0 then s else s.bump a n

/-- A nanosecond of a core: the whole ACLK clocks it brings count in COR_CYCLE while a program runs, and in the counters of stalled
issue, stalled swaps and a stalled load path (R59, R182, R185, R242); a parked core has no clock (R287). -/
def State.tickCore (s : State) (c : CoreId) : State :=
  let C := s.core c
  if C.parked then s
  else
    let t := C.clk + s.aclk (regionOf c)
    let n := t / 1000
    let s := s.modCore c fun C => { C with clk := t % 1000, faultNow := none }
    if n = 0 then s
    else
      let s := if C.run = .running ∨ C.run = .halting then s.wr (COR_CYCLE c.toNat) (s.rd (COR_CYCLE c.toNat) + BitVec.ofNat 64 n) else s
      let s := if s.issueStalled c then s.bump (COR_ISTALL c.toNat) n else s
      let s := s.count (COR_MTX_SWAPSTALL c.toNat) (n * C.swapsStalled)
      if s.lineStall c then s.bump (COR_MISS_STALL c.toNat) n else s

/-- A nanosecond passes; with the die rails off nothing counts it. -/
def State.idle (s : State) : State :=
  if s.sys.rails then
    let s := s.wr MOD_TIME (s.rd MOD_TIME + 1)
    (s.cores.map fun e => (BitVec.ofNat 10 e.1 : CoreId)).foldl State.tickCore s
  else s

end Sys2Proof.Machine
end

