-- ==== Sys2Proof/Machine/CoreCtl.lean ====
section
/-!
DEFINITION. Sys2Proof/Machine/CoreCtl.lean: the DMA, sync and system classes at issue (R178 to R181, R185, R188), instruction
fetch, interrupts and program end (R184 to R189), and the fault, histogram and cache events of a core.
-/
namespace Sys2Proof.Machine

/-! ### DMA and sync classes -/

/-- R178, R226: a DMAQ reads its descriptor at g[RA] through the load path, after every earlier store of the core has
completed; an unaligned address has its low bits cleared. -/
def execDmaq (c : CoreId) (w : Word) (s : State) : Host.Outcome State Fault Refusal :=
  .next (s.issue c w 0x8000 fun s =>
    let ea := (s.core c).rg (ireg w 46)
    let a := BitVec.ofNat 64 (ea.toNat / 64 * 64)
    let s := if a = ea then s else s.alignClamp c
    (s.enqueue c w a 0 0 (a != ea)).pump c)

/-- R178, R229: a DMAST enters the DMA queue with the tag in g[RA], and is answered at the queue's head. -/
def execDmast (c : CoreId) (w : Word) (s : State) : Host.Outcome State Fault Refusal :=
  .next (s.issue c w 0x8010 fun s => (s.enqueue c w ((s.core c).rg (ireg w 46)) 0 0).pump c)

/-- A sync instruction of row `key` enters the sync queue with g[RA] and g[RB] captured; a waiting BARR or SWAIT holds issue
from here on (R179, R182, R183). -/
def State.syncIssue (s : State) (c : CoreId) (w : Word) (key : Nat) (wait : Option CoreWait := none) : State :=
  s.issue c w key fun s =>
    let C := s.core c
    let s := s.enqueue c w (C.rg (ireg w 46)) (C.rg (ireg w 41)) 0
    (s.modCore c fun C => { C with wait := wait }).pump c

/-- R179, R296: advances object g[RA] by g[RB]. -/
def execSadv (c : CoreId) (w : Word) (s : State) : Host.Outcome State Fault Refusal := .next (s.syncIssue c w 0x9000)

/-- R179: g[RD] ← the value of object g[RA]. -/
def execSread (c : CoreId) (w : Word) (s : State) : Host.Outcome State Fault Refusal := .next (s.syncIssue c w 0x9010)

/-- R179, R300: registers a watch in SLOT. -/
def execSwatch (c : CoreId) (w : Word) (s : State) : Host.Outcome State Fault Refusal := .next (s.syncIssue c w 0x9020)

/-- R179: cancels the watches in SMASK. -/
def execScancel (c : CoreId) (w : Word) (s : State) : Host.Outcome State Fault Refusal := .next (s.syncIssue c w 0x9030)

/-- R179, R180, R287: waits until a watch in SMASK has fired. -/
def execSwait (c : CoreId) (w : Word) (s : State) : Host.Outcome State Fault Refusal :=
  .next (s.syncIssue c w 0x9040 (some (.swait (w.extractLsb' 16 16) (ireg w 51) (ibit w 33))))

/-- R179: g[RD] ← the 16 fired bits. -/
def execSfired (c : CoreId) (w : Word) (s : State) : Host.Outcome State Fault Refusal := .next (s.syncIssue c w 0x9050)

/-- R179, R180, R305: arrives on LINE; a second arrival waits at issue for the first to complete. -/
def execBarr (c : CoreId) (w : Word) (s : State) : Host.Outcome State Fault Refusal :=
  .next (s.syncIssue c w 0x9080 (if ibit w 8 then none else some (.barr (w.extractLsb' 10 6) (ibit w 9))))

/-- R179: g[RD] ← 1 unless the core's latest arrival on LINE has not completed. -/
def execBpoll (c : CoreId) (w : Word) (s : State) : Host.Outcome State Fault Refusal := .next (s.syncIssue c w 0x9090)

/-! ### System class -/

/-- R181: g[RD] ← COR_ register CSR. -/
def execCsrr (c : CoreId) (w : Word) (s : State) : Host.Outcome State Fault Refusal :=
  .next (s.issue c w 0xF000 fun s =>
    s.retire c fun C => C.setRg (ireg w 51) (s.corRead c (csrAddr c w)))

/-- R181: COR_ register CSR ← g[RA] under its access types. -/
def execCsrw (c : CoreId) (w : Word) (s : State) : Host.Outcome State Fault Refusal :=
  .next (s.issue c w 0xF010 fun s =>
    let v := (s.core c).rg (ireg w 46)
    (s.retire c id).corWrite c (csrAddr c w) v)

/-- R156: the access to COR_VFLAGS at issue reads or clears it once the earlier vector instructions have ended. -/
def execVflagsAccess (c : CoreId) (w : Word) (s : State) : Host.Outcome State Fault Refusal :=
  if csrAddr c w = COR_VFLAGS c.toNat then
    if iop w = 0 then execCsrr c w s else execCsrw c w s
  else .next s

/-- An abandoned instruction issued again (R133, R188): with its operands as captured, under the enable bits of COR_MTX_CTL as they
are now (R78). -/
def Flight.reissue (f : Flight) (ctl : BitVec 3) : Flight := if f.gone then { f with ph := .queued, ctl := ctl } else f

/-- R188: abandoned instructions issue again in program order, their sticky clamp bits set again (R133), INHANDLER clears, the program
goes on at COR_EPC with the wait it had. -/
def execEret (c : CoreId) (w : Word) (s : State) : Host.Outcome State Fault Refusal :=
  .next (s.issue c w 0xF080 fun s =>
    let s := ((s.core c).fl.filter Flight.gone).foldl (fun s f => s.reclamp c f) s
    let s := s.setFld (COR_IPEND c.toNat) COR_IPEND.INHANDLER 0
    let epc := (s.rd (COR_EPC c.toNat)).toNat
    let s := s.modCore c fun C =>
      ({ C with fl := C.fl.map fun f => f.reissue (s.mtxCtl c), wait := C.waitSaved, waitSaved := none } : CoreSt).goto epc
    (s.bump (COR_INSTRET c.toNat)).pump c)

/-- R185: HALT stops issue. -/
def execHalt (c : CoreId) (w : Word) (s : State) : Host.Outcome State Fault Refusal :=
  .next (s.issue c w 0xF090 fun s => s.retire c fun C => { C with run := .halting })

/-- R181: FENCE completes once every earlier instruction of the core has. -/
def execFence (c : CoreId) (w : Word) (s : State) : Host.Outcome State Fault Refusal :=
  .next (s.issue c w 0xF0A0 fun s => s.retire c id)

/-! ### Program end, fetch and interrupts -/

/-- R185: after HALT every earlier instruction has completed; the core reports completion. -/
def execProgramHalted (c : CoreId) (s : State) : Host.Outcome State Fault Refusal :=
  .next (if s.clocked c ∧ (s.core c).run = .halting ∧ (s.core c).fl.isEmpty then s.modCore c fun C => { C with run := .halted } else s)

/-- A fetch that is not present is held and recorded in COR_EXC (R184). -/
def State.holdFetch (s : State) (c : CoreId) (host : Bool) : State :=
  let pc := (s.core c).pc
  let e := COR_EXC.FCAUSE.put (COR_EXC.CAUSE.put (COR_EXC.VALID.put 0 1) 3) cNotPresent.toNat
  let s := (s.wr (COR_EXC c.toNat) e).wr (COR_EXC_PC c.toNat) (BitVec.ofNat 64 (pc % 2 ^ 48))
  let s := s.modCore c fun C => { C with fetchHeld := true }
  let page := pc / 4096 * 4096
  if host then s.modDie (dieOf c) fun D => if D.priWait.contains page then D else { D with priWait := D.priWait ++ [page] }
  else (s.modDie (dieOf c) fun D => { D with faults := D.faults ++ [(.coreFetch c, pc)] }).emit (.dieInt (dieOf c) 3)

/-- The instruction word of a line. -/
def lineWord (l : CacheLine) (pa : Nat) : Word := BitVec.ofNat 64 (leNat ((l.data.drop (pa % 256)).take 8))

/-- The word of a line goes to issue, or its poison stops the program (R184, R232). -/
def State.fetchFrom (s : State) (c : CoreId) (l : CacheLine) (pa : Nat) : State :=
  if linePoison l.poison (pa % 256) 8 then (s.poisonUse pa 1 c.toNat).exception c 3 0 cPoison.toNat (s.core c).pc
  else s.modCore c fun C => { C with ibuf := some (lineWord l pa), fetchGot := none }

/-- R184: the fetch at the program counter returns its word from the core's cache or from the line that came for it, asks
for its line, stops the program, or is held. -/
def execFetchResponse (c : CoreId) (s : State) : Host.Outcome State Fault Refusal :=
  let C := s.core c
  if !s.clocked c ∨ C.run ≠ .running ∨ C.ibuf.isSome ∨ C.fetchHeld ∨ C.parked then .next s
  else .next <| match s.xlateCore c C.pc .fetch with
  | (s, .error (.fault cause host entry)) =>
    if cause = cNotPresent then s.holdFetch c host
    else (s.walkPoison cause entry c.toNat).exception c 3 0 cause.toNat C.pc
  | (s, .error .ats) =>
    let page := C.pc / 4096 * 4096
    s.modDie (dieOf c) fun D => if D.atsWait.contains page then D else { D with atsWait := D.atsWait ++ [page] }
  | (s, .error _) => s.holdFetch c true
  | (s, .ok pa) =>
    if !s.fetchOk c pa then s.exception c 3 0 cPermission.toNat C.pc
    else
      let line := pa / 256 * 256
      match C.fetchGot with
      | some l => if l.addr = line then s.fetchFrom c l pa
          else s.modCore c fun C => { C with fetchGot := none, fetchWant := some line }
      | none => match C.cached line with
        | some l => ((s.modCore c fun C => C.touch l).bump (COR_CACHE_HIT c.toNat)).fetchFrom c l pa
        | none =>
          if C.fetchWant = some line then s
          else (s.bump (COR_CACHE_MISS c.toNat)).modCore c fun C => { C with fetchWant := some line }

/-- Whether an interrupt abandons a flight (R131): tile accesses that are not parked, and matrix, vector, mask, conversion
and queued stationary-control instructions. -/
def Flight.abandons (f : Flight) : Bool :=
  match f.ph with
  | .parked _ | .heldFault _ | .abandoned => false
  | _ => match iclass f.w with
    | 3 | 4 | 5 | 6 | 0xA => true
    | 7 => f.ph == .queued
    | _ => false

/-- A flight as an interrupt leaves it (R76, R117, R131): what it had begun is undone, so that it restarts from its beginning with
the operands it has read (R42); a load that had begun leaves its tile INVALID. -/
def Flight.abandon (f : Flight) : Flight :=
  { f with ph := .abandoned, segs := [], mfl := 0, pred := none, bank := none, unsent := 0, skipAll := false
           inval := f.inval || (isTileLoad f.w && f.ph != .queued) }

/-- Whether the flight `q` has parked or waits to park with a fault. -/
def CoreSt.faultParked (C : CoreSt) (q : Option Nat) : Bool :=
  match q.bind C.flight with
  | some f => f.parkedNow
  | none => false

/-- R131, R186: a pending enabled interrupt is accepted: COR_EPC, INHANDLER, the abandoned instructions, the handler's entry. A
tile access whose fault parked it with no clock of the core since has its one restart counted in COR_TILE_IRQRST too (R136). -/
def execInterruptAccept (c : CoreId) (s : State) : Host.Outcome State Fault Refusal :=
  let C := s.core c
  if !s.clocked c || !s.canInterrupt c || C.parked then .next s
  else
    let s := s.wr (COR_EPC c.toNat) (BitVec.ofNat 64 (C.pc % 2 ^ 48))
    let s := s.setFld (COR_IPEND c.toNat) COR_IPEND.INHANDLER 1
    let s := (s.finishStationary c).lostBeats c
    let n := ((s.core c).fl.filter Flight.abandons).length + (if C.faultParked C.faultNow then 1 else 0)
    let s := if n = 0 then s else s.bump (COR_TILE_IRQRST c.toNat) n
    let ivec := (s.rd (COR_IVEC c.toNat)).toNat
    .next (s.modCore c fun C =>
      ({ C with
          fl := C.fl.map fun f => if f.abandons then f.abandon else f
          wait := none, waitSaved := C.wait, fetchHeld := false, fetchWant := none, fetchGot := none } : CoreSt).goto ivec)

/-! ### Fault commands, firmware interrupt, histogram, cache and counter events -/

/-- R128: RESUME of a fault slot. -/
def execTfaultResume (c : CoreId) (slot : BitVec 2) (s : State) : Host.Outcome State Fault Refusal := .next (s.tfResume c slot)

/-- R130: ABORT of a fault slot. -/
def execTfaultAbort (c : CoreId) (slot : BitVec 2) (s : State) : Host.Outcome State Fault Refusal := .next (s.tfAbort c slot)

/-- R184: RESUME of a held fetch. -/
def execExcResume (c : CoreId) (s : State) : Host.Outcome State Fault Refusal := .next (s.excResume c)

/-- R130: ABORT of a held fetch. -/
def execExcAbort (c : CoreId) (s : State) : Host.Outcome State Fault Refusal := .next (s.excAbort c)

/-- R55: a write of COR_MTX_SEED of array `a` waits until the array is idle; there is no array 3. -/
def execMtxSeedWrite (c : CoreId) (a : BitVec 2) (v : BitVec 32) (s : State) : Host.Outcome State Fault Refusal :=
  .next (if a = 3 then s else s.seedWrite c a.toNat v)

/-- R177: a write of COR_CVT_SEED waits for the earlier conversions; while one is in flight nothing happens. -/
def execCvtSeedWrite (c : CoreId) (v : BitVec 32) (s : State) : Host.Outcome State Fault Refusal :=
  .next (if (s.core c).converting then s else s.cvtSeed c v)

/-- R78: COR_MTX_CTL.CNT_CLR. -/
def execCorMtxCntClr (c : CoreId) (s : State) : Host.Outcome State Fault Refusal := .next (s.clear (mtxCounters c.toNat))

/-- R75: COR_MTX_CTL.PRED_FLUSH sets every predictor counter to 0. -/
def execPredFlush (c : CoreId) (s : State) : Host.Outcome State Fault Refusal := .next (s.modCore c fun C => { C with pred := [] })

/-- R135: COR_TILE_CTL.CNT_CLR. -/
def execCorTileCntClr (c : CoreId) (s : State) : Host.Outcome State Fault Refusal := .next (s.clear (tileCounters c.toNat))

/-- R160: COR_VEC_CTL.CNT_CLR. -/
def execCorVecCntClr (c : CoreId) (s : State) : Host.Outcome State Fault Refusal := .next (s.clear (vecCounters c.toNat))

/-- R196: COR_MEM_CTL.INV. -/
def execCorMemInv (c : CoreId) (s : State) : Host.Outcome State Fault Refusal := .next (s.invalidate c)

/-- R196: COR_MEM_CTL.CNT_CLR. -/
def execCorMemCntClr (c : CoreId) (s : State) : Host.Outcome State Fault Refusal := .next (s.clear (memCounters c.toNat))

/-- R93: a write of COR_HST_TAG. -/
def execHstTagWrite (c : CoreId) (tag : BitVec 16) (s : State) : Host.Outcome State Fault Refusal := .next (s.foldReq c (some tag))

/-- R93: COR_HST_CTL.FLUSH. -/
def execHstFlush (c : CoreId) (s : State) : Host.Outcome State Fault Refusal := .next (s.foldReq c none)

/-- R93: the bank accepts the pending fold. -/
def execHstFoldAccepted (c : CoreId) (s : State) : Host.Outcome State Fault Refusal := .next (s.foldAccept c)

end Sys2Proof.Machine
end

