-- ==== Sys2Proof/Machine/HostCmds.lean ====
section
/-!
DEFINITION. Sys2Proof/Machine/HostCmds.lean: the host's commands, each consumed from a ring by firmware and run (R434, R445).
-/
namespace Sys2Proof.Machine

/-! ### Identity and status (R446) -/

/-- R446: NOP (opcode 0x00) consumed from ring `r`. -/
def execNop (r : RingId) (s : State) : Host.Outcome State Fault Refusal := .next (s.takeOp r 0x00)

/-- R446: IDENTIFY (opcode 0x01) consumed from ring `r`. -/
def execIdentify (r : RingId) (s : State) : Host.Outcome State Fault Refusal := .next (s.takeOp r 0x01)

/-- R446: ENUMERATE (opcode 0x02) consumed from ring `r`. -/
def execEnumerate (r : RingId) (s : State) : Host.Outcome State Fault Refusal := .next (s.takeOp r 0x02)

/-- R446: HEALTH (opcode 0x03) consumed from ring `r`. -/
def execHealth (r : RingId) (s : State) : Host.Outcome State Fault Refusal := .next (s.takeOp r 0x03)

/-- R446: REG_READ (opcode 0x04) consumed from ring `r`. -/
def execRegRead (r : RingId) (s : State) : Host.Outcome State Fault Refusal := .next (s.takeOp r 0x04)

/-- R446: REG_WRITE (opcode 0x05) consumed from ring `r`. -/
def execRegWrite (r : RingId) (s : State) : Host.Outcome State Fault Refusal := .next (s.takeOp r 0x05)

/-! ### Memory (R447) -/

/-- R447: COPY (opcode 0x10) consumed from ring `r`. -/
def execCopy (r : RingId) (s : State) : Host.Outcome State Fault Refusal := .next (s.takeOp r 0x10)

/-- R447: FILL (opcode 0x11) consumed from ring `r`. -/
def execFill (r : RingId) (s : State) : Host.Outcome State Fault Refusal := .next (s.takeOp r 0x11)

/-- R447: MAP (opcode 0x12) consumed from ring `r`. -/
def execMap (r : RingId) (s : State) : Host.Outcome State Fault Refusal := .next (s.takeOp r 0x12)

/-- R238: UNMAP (opcode 0x13) consumed from ring `r`. -/
def execUnmap (r : RingId) (s : State) : Host.Outcome State Fault Refusal := .next (s.takeOp r 0x13)

/-- R211: MARK (opcode 0x14) consumed from ring `r`. -/
def execMark (r : RingId) (s : State) : Host.Outcome State Fault Refusal := .next (s.takeOp r 0x14)

/-- R447: PT_POOL (opcode 0x15) consumed from ring `r`. -/
def execPtPool (r : RingId) (s : State) : Host.Outcome State Fault Refusal := .next (s.takeOp r 0x15)

/-- R274: RED_SET (opcode 0x16) consumed from ring `r`. -/
def execRedSet (r : RingId) (s : State) : Host.Outcome State Fault Refusal := .next (s.takeOp r 0x16)

/-- R280: MCG_SET (opcode 0x17) consumed from ring `r`. -/
def execMcgSet (r : RingId) (s : State) : Host.Outcome State Fault Refusal := .next (s.takeOp r 0x17)

/-- R426: BIAS (opcode 0x18) consumed from ring `r`. -/
def execBias (r : RingId) (s : State) : Host.Outcome State Fault Refusal := .next (s.takeOp r 0x18)

/-! ### Launches (R448) -/

/-- R448: LAUNCH (opcode 0x20) consumed from ring `r`. -/
def execLaunch (r : RingId) (s : State) : Host.Outcome State Fault Refusal := .next (s.takeOp r 0x20)

/-- R448: STOP (opcode 0x21) consumed from ring `r`. -/
def execStop (r : RingId) (s : State) : Host.Outcome State Fault Refusal := .next (s.takeOp r 0x21)

/-- R448: LAUNCH_STATUS (opcode 0x22) consumed from ring `r`. -/
def execLaunchStatus (r : RingId) (s : State) : Host.Outcome State Fault Refusal := .next (s.takeOp r 0x22)

/-- R448: RAISE (opcode 0x23) consumed from ring `r`. -/
def execRaise (r : RingId) (s : State) : Host.Outcome State Fault Refusal := .next (s.takeOp r 0x23)

/-! ### Sync objects and barriers (R450) -/

/-- R450: SYNC_ADV (opcode 0x30) consumed from ring `r`. -/
def execSyncAdv (r : RingId) (s : State) : Host.Outcome State Fault Refusal := .next (s.takeOp r 0x30)

/-- R450: SYNC_READ (opcode 0x31) consumed from ring `r`. -/
def execSyncRead (r : RingId) (s : State) : Host.Outcome State Fault Refusal := .next (s.takeOp r 0x31)

/-- R450: SYNC_SET (opcode 0x32) consumed from ring `r`. -/
def execSyncSet (r : RingId) (s : State) : Host.Outcome State Fault Refusal := .next (s.takeOp r 0x32)

/-- R450: SYNC_ATTR (opcode 0x33) consumed from ring `r`. -/
def execSyncAttr (r : RingId) (s : State) : Host.Outcome State Fault Refusal := .next (s.takeOp r 0x33)

/-- R450: SYNC_WAIT (opcode 0x34) consumed from ring `r`. -/
def execSyncWait (r : RingId) (s : State) : Host.Outcome State Fault Refusal := .next (s.takeOp r 0x34)

/-- R450: BAR_CFG (opcode 0x35) consumed from ring `r`. -/
def execBarCfg (r : RingId) (s : State) : Host.Outcome State Fault Refusal := .next (s.takeOp r 0x35)

/-- R450: BAR_ARRIVE (opcode 0x36) consumed from ring `r`. -/
def execBarArrive (r : RingId) (s : State) : Host.Outcome State Fault Refusal := .next (s.takeOp r 0x36)

/-! ### Configuration (R452) -/

/-- R452: CONFIG_STAGE (opcode 0x40) consumed from ring `r`. -/
def execConfigStage (r : RingId) (s : State) : Host.Outcome State Fault Refusal := .next (s.takeOp r 0x40)

/-- R454: CONFIG_COMMIT (opcode 0x41) consumed from ring `r`. -/
def execConfigCommit (r : RingId) (s : State) : Host.Outcome State Fault Refusal := .next (s.takeOp r 0x41)

/-- R452: CONFIG_STATUS (opcode 0x42) consumed from ring `r`. -/
def execConfigStatus (r : RingId) (s : State) : Host.Outcome State Fault Refusal := .next (s.takeOp r 0x42)

/-- R453: SET_IMMEDIATE (opcode 0x43) consumed from ring `r`. -/
def execSetImmediate (r : RingId) (s : State) : Host.Outcome State Fault Refusal := .next (s.takeOp r 0x43)

/-! ### Power (R415 to R417) -/

/-- R417: POWER_CAP_SET (opcode 0x50) consumed from ring `r`. -/
def execPowerCapSet (r : RingId) (s : State) : Host.Outcome State Fault Refusal := .next (s.takeOp r 0x50)

/-- R417: POWER_STATUS (opcode 0x51) consumed from ring `r`. -/
def execPowerStatus (r : RingId) (s : State) : Host.Outcome State Fault Refusal := .next (s.takeOp r 0x51)

/-- R417: POINT_LIMIT (opcode 0x52) consumed from ring `r`. -/
def execPointLimit (r : RingId) (s : State) : Host.Outcome State Fault Refusal := .next (s.takeOp r 0x52)

/-- R415: FUNC_ENABLE (opcode 0x53) consumed from ring `r`. -/
def execFuncEnable (r : RingId) (s : State) : Host.Outcome State Fault Refusal := .next (s.takeOp r 0x53)

/-- R415: FUNC_DISABLE (opcode 0x54) consumed from ring `r`. -/
def execFuncDisable (r : RingId) (s : State) : Host.Outcome State Fault Refusal := .next (s.takeOp r 0x54)

/-- R417: PARK (opcode 0x55) consumed from ring `r`. -/
def execPark (r : RingId) (s : State) : Host.Outcome State Fault Refusal := .next (s.takeOp r 0x55)

/-- R417: WAKE (opcode 0x56) consumed from ring `r`. -/
def execWake (r : RingId) (s : State) : Host.Outcome State Fault Refusal := .next (s.takeOp r 0x56)

/-- R417: POWER_SETTINGS (opcode 0x57) consumed from ring `r`. -/
def execPowerSettings (r : RingId) (s : State) : Host.Outcome State Fault Refusal := .next (s.takeOp r 0x57)

/-- R417: PROFILE_CLEAR (opcode 0x58) consumed from ring `r`. -/
def execProfileClear (r : RingId) (s : State) : Host.Outcome State Fault Refusal := .next (s.takeOp r 0x58)

/-! ### Fencing (R451) -/

/-- R451: FENCE (opcode 0x60) consumed from ring `r`. -/
def execFenceCmd (r : RingId) (s : State) : Host.Outcome State Fault Refusal := .next (s.takeOp r 0x60)

/-- R286: UNFENCE (opcode 0x61) consumed from ring `r`. -/
def execUnfence (r : RingId) (s : State) : Host.Outcome State Fault Refusal := .next (s.takeOp r 0x61)

/-- R451: FENCE_STATUS (opcode 0x62) consumed from ring `r`. -/
def execFenceStatus (r : RingId) (s : State) : Host.Outcome State Fault Refusal := .next (s.takeOp r 0x62)

/-! ### The fabric (R372) -/

/-- R372: FAB_PORT_SET (opcode 0x70) consumed from ring `r`. -/
def execFabPortSet (r : RingId) (s : State) : Host.Outcome State Fault Refusal := .next (s.takeOp r 0x70)

/-- R372: FAB_PORT_STATUS (opcode 0x71) consumed from ring `r`. -/
def execFabPortStatus (r : RingId) (s : State) : Host.Outcome State Fault Refusal := .next (s.takeOp r 0x71)

/-- R356: GROUP_SET (opcode 0x72) consumed from ring `r`. -/
def execGroupSet (r : RingId) (s : State) : Host.Outcome State Fault Refusal := .next (s.takeOp r 0x72)

/-- R358: CHAN_SET (opcode 0x73) consumed from ring `r`. -/
def execChanSet (r : RingId) (s : State) : Host.Outcome State Fault Refusal := .next (s.takeOp r 0x73)

/-- R360: SHARD_SET (opcode 0x74) consumed from ring `r`. -/
def execShardSet (r : RingId) (s : State) : Host.Outcome State Fault Refusal := .next (s.takeOp r 0x74)

/-- R372: DEADLINE_SET (opcode 0x75) consumed from ring `r`. -/
def execDeadlineSet (r : RingId) (s : State) : Host.Outcome State Fault Refusal := .next (s.takeOp r 0x75)

/-- R372: GROUP_CLEAR (opcode 0x76) consumed from ring `r`. -/
def execGroupClear (r : RingId) (s : State) : Host.Outcome State Fault Refusal := .next (s.takeOp r 0x76)

/-! ### The twin (R394) -/

/-- R387: TWN_BOND (opcode 0x78) consumed from ring `r`; `mirdig` is the digest firmware computes over its latest mirror. -/
def execTwnBond (r : RingId) (mirdig : BitVec 256) (s : State) : Host.Outcome State Fault Refusal :=
  .next (s.takeOp r 0x78 mirdig.toNat)

/-- R392: TWN_UNBOND (opcode 0x79) consumed from ring `r`. -/
def execTwnUnbond (r : RingId) (s : State) : Host.Outcome State Fault Refusal := .next (s.takeOp r 0x79)

/-- R383: TWN_MIRROR_SET (opcode 0x7A) consumed from ring `r`. -/
def execTwnMirrorSet (r : RingId) (s : State) : Host.Outcome State Fault Refusal := .next (s.takeOp r 0x7A)

/-- R394: TWN_STATUS (opcode 0x7B) consumed from ring `r`. -/
def execTwnStatus (r : RingId) (s : State) : Host.Outcome State Fault Refusal := .next (s.takeOp r 0x7B)

/-- R394: TWN_STORE (opcode 0x7C) consumed from ring `r`. -/
def execTwnStore (r : RingId) (s : State) : Host.Outcome State Fault Refusal := .next (s.takeOp r 0x7C)

/-! ### The update engine (R449) -/

/-- R320: STEP_OPEN (opcode 0x80) consumed from ring `r`. -/
def execStepOpen (r : RingId) (s : State) : Host.Outcome State Fault Refusal := .next (s.takeOp r 0x80)

/-- R321: STEP_CLOSE (opcode 0x81) consumed from ring `r`. -/
def execStepClose (r : RingId) (s : State) : Host.Outcome State Fault Refusal := .next (s.takeOp r 0x81)

/-- R327: PLAN_INSTALL (opcode 0x82) consumed from ring `r`. -/
def execPlanInstall (r : RingId) (s : State) : Host.Outcome State Fault Refusal := .next (s.takeOp r 0x82)

/-- R341: SCHED_SET (opcode 0x83) consumed from ring `r`. -/
def execSchedSet (r : RingId) (s : State) : Host.Outcome State Fault Refusal := .next (s.takeOp r 0x83)

/-- R449: STEP_STATUS (opcode 0x84) consumed from ring `r`. -/
def execStepStatus (r : RingId) (s : State) : Host.Outcome State Fault Refusal := .next (s.takeOp r 0x84)

/-! ### Record and replay (R507) -/

/-- R501: RPL_RECORD_START (opcode 0x90) consumed from ring `r`. -/
def execRplRecordStart (r : RingId) (s : State) : Host.Outcome State Fault Refusal := .next (s.takeOp r 0x90)

/-- R507: RPL_RECORD_STOP (opcode 0x91) consumed from ring `r`. -/
def execRplRecordStop (r : RingId) (s : State) : Host.Outcome State Fault Refusal := .next (s.takeOp r 0x91)

/-- R507: RPL_STATUS (opcode 0x92) consumed from ring `r`. -/
def execRplStatus (r : RingId) (s : State) : Host.Outcome State Fault Refusal := .next (s.takeOp r 0x92)

/-- R504: RPL_REPLAY_START (opcode 0x93) consumed from ring `r`. -/
def execRplReplayStart (r : RingId) (s : State) : Host.Outcome State Fault Refusal := .next (s.takeOp r 0x93)

/-- R507: RPL_REPLAY_STOP (opcode 0x94) consumed from ring `r`. -/
def execRplReplayStop (r : RingId) (s : State) : Host.Outcome State Fault Refusal := .next (s.takeOp r 0x94)

/-- R507: RPL_MARK (opcode 0x95) consumed from ring `r`. -/
def execRplMark (r : RingId) (s : State) : Host.Outcome State Fault Refusal := .next (s.takeOp r 0x95)

/-! ### Firmware (R482) -/

/-- R482: FW_STAGE (opcode 0xA0) consumed from ring `r`. -/
def execFwStage (r : RingId) (s : State) : Host.Outcome State Fault Refusal := .next (s.takeOp r 0xA0)

/-- R483: FW_ACTIVATE (opcode 0xA1) consumed from ring `r`. -/
def execFwActivate (r : RingId) (s : State) : Host.Outcome State Fault Refusal := .next (s.takeOp r 0xA1)

/-- R482: FW_STATUS (opcode 0xA2) consumed from ring `r`. -/
def execFwStatus (r : RingId) (s : State) : Host.Outcome State Fault Refusal := .next (s.takeOp r 0xA2)

/-- R483: FW_RESTART (opcode 0xA3) consumed from ring `r`. -/
def execFwRestart (r : RingId) (s : State) : Host.Outcome State Fault Refusal := .next (s.takeOp r 0xA3)

/-- R484: SVN_COMMIT (opcode 0xA4) consumed from ring `r`. -/
def execSvnCommit (r : RingId) (s : State) : Host.Outcome State Fault Refusal := .next (s.takeOp r 0xA4)

/-! ### The journal (R489) -/

/-- R489: JNL_READ (opcode 0xB0) consumed from ring `r`. -/
def execJnlRead (r : RingId) (s : State) : Host.Outcome State Fault Refusal := .next (s.takeOp r 0xB0)

/-- R489: JNL_STATE (opcode 0xB1) consumed from ring `r`. -/
def execJnlState (r : RingId) (s : State) : Host.Outcome State Fault Refusal := .next (s.takeOp r 0xB1)

/-- R489: JNL_RESET_POLICY (opcode 0xB2) consumed from ring `r`. -/
def execJnlResetPolicy (r : RingId) (s : State) : Host.Outcome State Fault Refusal := .next (s.takeOp r 0xB2)

/-! ### Other packets -/

/-- R440: a forerunner packet consumed from ring `r`. -/
def execV1Packet (r : RingId) (s : State) : Host.Outcome State Fault Refusal := .next (s.takeV1 r)

/-- R442, R443, R445: a packet of an unassigned opcode, or one whose slot cannot be read, consumed from ring `r`. -/
def execUnassignedOpcode (r : RingId) (s : State) : Host.Outcome State Fault Refusal := .next (s.takeOther r)

end Sys2Proof.Machine
end

