-- ==== Sys2Proof/Machine/LoadStore.lean ====
section
/-!
DEFINITION. Sys2Proof/Machine/LoadStore.lean: the scalar and tile load and store classes (R82, R120 to R124, R167 to R169),
and the end of tile accesses.
-/
namespace Sys2Proof.Machine

/-- A scalar load or store of row `key` (R167, R168): its address is g[RA] + IMM with the low bits the size asks cleared, its
operands are captured, and it begins as soon as the load/store path allows. -/
def State.scalarLs (s : State) (c : CoreId) (w : Word) (key : Nat) : State :=
  s.issue c w key fun s =>
    let C := s.core c
    let ea := C.rg (ireg w 46) + (w.extractLsb' 0 32).signExtend 64
    let a := BitVec.ofNat 64 (ea.toNat / accSize w * accSize w)
    let s := if a = ea then s else s.alignClamp c
    (s.enqueue c w a 0 (C.rg (ireg w 51)) (a != ea)).pump c

/-- The counter of completed tile loads or stores (R135). -/
def tileCount (c : CoreId) (w : Word) : Nat := if isStore w then COR_TILE_STORES c.toNat else COR_TILE_LOADS c.toNat

/-- A tile load or store of row `key` (R110, R113, R120, R121): base and stride are aligned to the element's storage size, the
effective shape decides what moves, an empty shape completes at once. -/
def State.tileLs (s : State) (c : CoreId) (w : Word) (key : Nat) : State :=
  s.issue c w key fun s =>
    let C := s.core c
    let ea := C.rg (ireg w 46) + (w.extractLsb' 29 12).signExtend 64
    let st := C.rg (ireg w 41)
    let fm := (Fmt.ofCode (shFmt w)).getD .fp32
    let u := max 1 (fm.bits / 8)
    let a := BitVec.ofNat 64 (ea.toNat / u * u)
    let b := BitVec.ofNat 64 (st.toNat / u * u)
    let al := a != ea || b != st
    let s := if al then s.alignClamp c else s
    let sh := effShape (shRows w) (shCols w) fm 256 256
    let s := if sh = (shRows w, shCols w) then s else s.shapeClamp c
    if sh.1 = 0 then (s.retire c id).bump (tileCount c w) else (s.enqueue c w a b 0 al).pump c

/-- The tile access of tile `t` whose data has all moved: a load's destination becomes VALID after its last row, with its
zero-row mask and the check of predictions; a store leaves (R71, R76, R124). -/
def State.tileEnd (s : State) (c : CoreId) (t : BitVec 5) (store : Bool) : State :=
  let fit (f : Flight) : Bool := iclass f.w == 3 && isStore f.w == store && ireg f.w 51 == t && f.ph == .run && f.complete
  match (s.core c).fl.find? fit with
  | none => s
  | some f =>
    if !s.clocked c then s
    else
      let s := s.bump (tileCount c f.w)
      if store then (s.completeLs c f.seq).pump c
      else
        let s := s.modCore c fun C => (if iop f.w = 1 then C.landTransposed f else C).maskLoaded f
        let s := s.completeLs c f.seq
        (s.predictionCheck c t).pump c

/-- R167: loads a zero-extended byte into g[RD]. -/
def execLd8u (c : CoreId) (w : Word) (s : State) : Host.Outcome State Fault Refusal := .next (s.scalarLs c w 0x2000)

/-- R167: loads a zero-extended halfword into g[RD]. -/
def execLd16u (c : CoreId) (w : Word) (s : State) : Host.Outcome State Fault Refusal := .next (s.scalarLs c w 0x2010)

/-- R167: loads a zero-extended word into g[RD]. -/
def execLd32u (c : CoreId) (w : Word) (s : State) : Host.Outcome State Fault Refusal := .next (s.scalarLs c w 0x2020)

/-- R167: loads a doubleword into g[RD]. -/
def execLd64 (c : CoreId) (w : Word) (s : State) : Host.Outcome State Fault Refusal := .next (s.scalarLs c w 0x2030)

/-- R167: loads a sign-extended byte into g[RD]. -/
def execLd8s (c : CoreId) (w : Word) (s : State) : Host.Outcome State Fault Refusal := .next (s.scalarLs c w 0x2040)

/-- R167: loads a sign-extended halfword into g[RD]. -/
def execLd16s (c : CoreId) (w : Word) (s : State) : Host.Outcome State Fault Refusal := .next (s.scalarLs c w 0x2050)

/-- R167: loads a sign-extended word into g[RD]. -/
def execLd32s (c : CoreId) (w : Word) (s : State) : Host.Outcome State Fault Refusal := .next (s.scalarLs c w 0x2060)

/-- R168: stores a byte of g[RD] to the core's own scratch. -/
def execSt8 (c : CoreId) (w : Word) (s : State) : Host.Outcome State Fault Refusal := .next (s.scalarLs c w 0x2080)

/-- R168: stores a halfword of g[RD] to the core's own scratch. -/
def execSt16 (c : CoreId) (w : Word) (s : State) : Host.Outcome State Fault Refusal := .next (s.scalarLs c w 0x2090)

/-- R168: stores a word of g[RD] to the core's own scratch. -/
def execSt32 (c : CoreId) (w : Word) (s : State) : Host.Outcome State Fault Refusal := .next (s.scalarLs c w 0x20A0)

/-- R168: stores a doubleword of g[RD] to the core's own scratch. -/
def execSt64 (c : CoreId) (w : Word) (s : State) : Host.Outcome State Fault Refusal := .next (s.scalarLs c w 0x20B0)

/-- R120: a plain tile load. -/
def execTld (c : CoreId) (w : Word) (s : State) : Host.Outcome State Fault Refusal := .next (s.tileLs c w 0x3000)

/-- R82: a transposing tile load. -/
def execTldt (c : CoreId) (w : Word) (s : State) : Host.Outcome State Fault Refusal := .next (s.tileLs c w 0x3010)

/-- R122: a tile store to the core's own scratch. -/
def execTst (c : CoreId) (w : Word) (s : State) : Host.Outcome State Fault Refusal := .next (s.tileLs c w 0x3020)

/-- R124: a tile load of tile `t` whose last row has arrived ends. -/
def execTileLoadComplete (c : CoreId) (t : BitVec 5) (s : State) : Host.Outcome State Fault Refusal := .next (s.tileEnd c t false)

/-- R124: a tile store of tile `t` ends. -/
def execTileStoreComplete (c : CoreId) (t : BitVec 5) (s : State) : Host.Outcome State Fault Refusal := .next (s.tileEnd c t true)

end Sys2Proof.Machine
end

