-- ==== Sys2Proof/Machine/Matrix.lean ====
section
/-!
DEFINITION. Sys2Proof/Machine/Matrix.lean: the matrix and stationary-control classes (R36 to R77, R170 to R172) and what
the arrays do when they end.
-/
namespace Sys2Proof.Machine

/-- An array instruction of row `key` issues into its array's queue (R36). -/
def State.arrIssue (s : State) (c : CoreId) (w : Word) (key : Nat) : State :=
  s.issue c w key fun s => (s.enqueue c w 0 0 0).pump c

/-- R170: TD ← TA × active set. -/
def execMmul (c : CoreId) (w : Word) (s : State) : Host.Outcome State Fault Refusal := .next (s.arrIssue c w 0x4000)

/-- R170, R43: TD ← TD + TA × active set. -/
def execMmac (c : CoreId) (w : Word) (s : State) : Host.Outcome State Fault Refusal := .next (s.arrIssue c w 0x4010)

/-- R56: a shadow load. -/
def execSload (c : CoreId) (w : Word) (s : State) : Host.Outcome State Fault Refusal := .next (s.arrIssue c w 0x7000)

/-- R57: a leapfrog swap. -/
def execSwap (c : CoreId) (w : Word) (s : State) : Host.Outcome State Fault Refusal := .next (s.arrIssue c w 0x7010)

/-- R66: a form switch. -/
def execForm (c : CoreId) (w : Word) (s : State) : Host.Outcome State Fault Refusal := .next (s.arrIssue c w 0x7020)

/-- R42, R183: the oldest matrix operation of array `a` whose sums are formed writes its destination, once earlier writers
and readers of the tile have ended. -/
def execMtxWritePhase (c : CoreId) (a : BitVec 2) (s : State) : Host.Outcome State Fault Refusal :=
  let C := s.core c
  .next <| match C.fl.find? fun f => isMtx f.w && iarr f.w == a.toNat with
  | some f =>
    if s.clocked c && f.ph == .summed && C.mayWrite f.seq (ireg f.w 49) then (s.mtxWrite c f).pump c else s
  | none => s

/-- The flight of a stationary-control opcode that runs on array `a`, while the core is clocked. -/
def State.running (s : State) (c : CoreId) (a op : Nat) : Option Flight :=
  (s.core c).fl.find? fun f => s.clocked c && iclass f.w == 7 && iop f.w == op && iarr f.w == a && f.ph == .run

/-- R56: the shadow load of array `a` writes its last cell row; the shadow set becomes valid. -/
def execShadowLoadDone (c : CoreId) (a : BitVec 2) (s : State) : Host.Outcome State Fault Refusal :=
  .next <| match s.running c a.toNat 0 with
  | some f =>
    ((s.modCore c fun C => C.setArray a.toNat (C.array a.toNat).loadDone).complete c f.seq).pump c
  | none => s

/-- R59: a stalled swap of array `a` takes effect, its shadow load having finished. -/
def execSwapTakesEffect (c : CoreId) (a : BitVec 2) (s : State) : Host.Outcome State Fault Refusal :=
  .next <| match s.running c a.toNat 1 with
  | some f =>
    if ((s.core c).array a.toNat).load.isSome then s
    else ((s.modCore c fun C => C.setArray a.toNat (C.array a.toNat).swap).complete c f.seq).pump c
  | none => s

/-- R66: the form switch of array `a` ends; its form changes and both sets are invalid. -/
def execFormSwitchDone (c : CoreId) (a : BitVec 2) (s : State) : Host.Outcome State Fault Refusal :=
  .next <| match s.running c a.toNat 2 with
  | some f =>
    (((s.modCore c fun C => C.setArray a.toNat (C.array a.toNat).switchDone).bump (COR_MTX_FORMSW c.toNat)).complete c f.seq).pump c
  | none => s

end Sys2Proof.Machine
end

