-- ==== Sys2Proof/Machine/ScalarAlu.lean ====
section
/-!
DEFINITION. Sys2Proof/Machine/ScalarAlu.lean: the scalar ALU and branch classes (R165, R166).
-/
namespace Sys2Proof.Machine

/-- The second source of a scalar ALU instruction (R165): IMM sign-extended when I = 1, else g[RB]. MOVHI always takes IMM,
whose place is the upper half. -/
def CoreSt.aluB (C : CoreSt) (w : Word) : Word :=
  if ibit w 38 || iop w == 0x18 then (w.extractLsb' 0 32).signExtend 64 else C.rg (ireg w 39)

/-- A scalar ALU instruction of row `key` with result function `f`: it issues, writes g[RD] and completes (R165, R182). -/
def State.alu (s : State) (c : CoreId) (w : Word) (key : Nat) (f : Word → Word → Word) : State :=
  s.issue c w key fun s =>
    s.retire c fun C => C.setRg (ireg w 49) (f (C.rg (ireg w 44)) (C.aluB w))

/-- The target of a branch: PC + OFF × 8 (R166). -/
def brTarget (pc : Nat) (w : Word) : Nat :=
  (BitVec.ofNat 64 pc + (w.extractLsb' 0 32).signExtend 64 * 8).toNat

/-- A conditional branch of row `key` with condition `p` (R166). -/
def State.branch (s : State) (c : CoreId) (w : Word) (key : Nat) (p : Word → Word → Bool) : State :=
  s.issue c w key fun s =>
    (s.modCore c fun C =>
      C.goto (if p (C.rg (ireg w 51)) (C.rg (ireg w 46)) then brTarget C.pc w else C.nextPc)).bump (COR_INSTRET c.toNat)

/-- R165, opcode 0x00: writes a + b to g[RD]. -/
def execAdd (c : CoreId) (w : Word) (s : State) : Host.Outcome State Fault Refusal :=
  .next (s.alu c w 0x0000 fun a b => a + b)

/-- R165, opcode 0x01: writes a − b to g[RD]. -/
def execSub (c : CoreId) (w : Word) (s : State) : Host.Outcome State Fault Refusal :=
  .next (s.alu c w 0x0010 fun a b => a - b)

/-- R165, opcode 0x02: writes a AND b to g[RD]. -/
def execAnd (c : CoreId) (w : Word) (s : State) : Host.Outcome State Fault Refusal :=
  .next (s.alu c w 0x0020 fun a b => a &&& b)

/-- R165, opcode 0x03: writes a OR b to g[RD]. -/
def execOr (c : CoreId) (w : Word) (s : State) : Host.Outcome State Fault Refusal :=
  .next (s.alu c w 0x0030 fun a b => a ||| b)

/-- R165, opcode 0x04: writes a XOR b to g[RD]. -/
def execXor (c : CoreId) (w : Word) (s : State) : Host.Outcome State Fault Refusal :=
  .next (s.alu c w 0x0040 fun a b => a ^^^ b)

/-- R165, opcode 0x05: writes a shifted left by bits 5:0 of b to g[RD]. -/
def execSll (c : CoreId) (w : Word) (s : State) : Host.Outcome State Fault Refusal :=
  .next (s.alu c w 0x0050 fun a b => a <<< (b.toNat % 64))

/-- R165, opcode 0x06: writes a shifted right by bits 5:0 of b with zero fill to g[RD]. -/
def execSrl (c : CoreId) (w : Word) (s : State) : Host.Outcome State Fault Refusal :=
  .next (s.alu c w 0x0060 fun a b => a >>> (b.toNat % 64))

/-- R165, opcode 0x07: writes a shifted right by bits 5:0 of b with sign fill to g[RD]. -/
def execSra (c : CoreId) (w : Word) (s : State) : Host.Outcome State Fault Refusal :=
  .next (s.alu c w 0x0070 fun a b => a.sshiftRight (b.toNat % 64))

/-- R165, opcode 0x08: writes 1 when a < b signed, else 0 to g[RD]. -/
def execSlt (c : CoreId) (w : Word) (s : State) : Host.Outcome State Fault Refusal :=
  .next (s.alu c w 0x0080 fun a b => if a.slt b then 1 else 0)

/-- R165, opcode 0x09: writes 1 when a < b unsigned, else 0 to g[RD]. -/
def execSltu (c : CoreId) (w : Word) (s : State) : Host.Outcome State Fault Refusal :=
  .next (s.alu c w 0x0090 fun a b => if a.ult b then 1 else 0)

/-- R165, opcode 0x0A: writes the signed minimum to g[RD]. -/
def execMin (c : CoreId) (w : Word) (s : State) : Host.Outcome State Fault Refusal :=
  .next (s.alu c w 0x00A0 fun a b => if a.slt b then a else b)

/-- R165, opcode 0x0B: writes the signed maximum to g[RD]. -/
def execMax (c : CoreId) (w : Word) (s : State) : Host.Outcome State Fault Refusal :=
  .next (s.alu c w 0x00B0 fun a b => if a.slt b then b else a)

/-- R165, opcode 0x0C: writes the unsigned minimum to g[RD]. -/
def execMinu (c : CoreId) (w : Word) (s : State) : Host.Outcome State Fault Refusal :=
  .next (s.alu c w 0x00C0 fun a b => if a.ult b then a else b)

/-- R165, opcode 0x0D: writes the unsigned maximum to g[RD]. -/
def execMaxu (c : CoreId) (w : Word) (s : State) : Host.Outcome State Fault Refusal :=
  .next (s.alu c w 0x00D0 fun a b => if a.ult b then b else a)

/-- R165, opcode 0x10: writes the low 64 bits of a × b to g[RD]. -/
def execMul (c : CoreId) (w : Word) (s : State) : Host.Outcome State Fault Refusal :=
  .next (s.alu c w 0x0100 fun a b => a * b)

/-- R165, opcode 0x11: writes the high 64 bits of unsigned a × b to g[RD]. -/
def execMulhu (c : CoreId) (w : Word) (s : State) : Host.Outcome State Fault Refusal :=
  .next (s.alu c w 0x0110 fun a b => BitVec.ofNat 64 (a.toNat * b.toNat / 2 ^ 64))

/-- R165, opcode 0x12: writes unsigned a ÷ b, all ones when b = 0 to g[RD]. -/
def execDivu (c : CoreId) (w : Word) (s : State) : Host.Outcome State Fault Refusal :=
  .next (s.alu c w 0x0120 fun a b => if b = 0 then BitVec.allOnes 64 else BitVec.ofNat 64 (a.toNat / b.toNat))

/-- R165, opcode 0x13: writes unsigned a mod b, a when b = 0 to g[RD]. -/
def execRemu (c : CoreId) (w : Word) (s : State) : Host.Outcome State Fault Refusal :=
  .next (s.alu c w 0x0130 fun a b => if b = 0 then a else BitVec.ofNat 64 (a.toNat % b.toNat))

/-- R165, opcode 0x18: writes the low half of a under the low half of the second source to g[RD]. -/
def execMovhi (c : CoreId) (w : Word) (s : State) : Host.Outcome State Fault Refusal :=
  .next (s.alu c w 0x0180 fun a b => (a &&& 0xFFFFFFFF) ||| (b <<< 32))

/-- R166: branches when g[RA] equals g[RB]. -/
def execBeq (c : CoreId) (w : Word) (s : State) : Host.Outcome State Fault Refusal :=
  .next (s.branch c w 0x1000 fun a b => a == b)

/-- R166: branches when g[RA] differs from g[RB]. -/
def execBne (c : CoreId) (w : Word) (s : State) : Host.Outcome State Fault Refusal :=
  .next (s.branch c w 0x1010 fun a b => a != b)

/-- R166: branches when g[RA] < g[RB] signed. -/
def execBlt (c : CoreId) (w : Word) (s : State) : Host.Outcome State Fault Refusal :=
  .next (s.branch c w 0x1020 fun a b => a.slt b)

/-- R166: branches when g[RA] ≥ g[RB] signed. -/
def execBge (c : CoreId) (w : Word) (s : State) : Host.Outcome State Fault Refusal :=
  .next (s.branch c w 0x1030 fun a b => !a.slt b)

/-- R166: branches when g[RA] < g[RB] unsigned. -/
def execBltu (c : CoreId) (w : Word) (s : State) : Host.Outcome State Fault Refusal :=
  .next (s.branch c w 0x1040 fun a b => a.ult b)

/-- R166: branches when g[RA] ≥ g[RB] unsigned. -/
def execBgeu (c : CoreId) (w : Word) (s : State) : Host.Outcome State Fault Refusal :=
  .next (s.branch c w 0x1050 fun a b => !a.ult b)

/-- R166: g[RD] ← PC + 8; PC ← PC + OFF × 8. -/
def execJal (c : CoreId) (w : Word) (s : State) : Host.Outcome State Fault Refusal :=
  .next (s.issue c w 0x1080 fun s =>
    (s.modCore c fun C =>
      (C.setRg (ireg w 41) (BitVec.ofNat 64 C.nextPc)).goto (brTarget C.pc w)).bump (COR_INSTRET c.toNat))

/-- R166: g[RD] ← PC + 8; PC ← (g[RA] + OFF × 8) with bits 2:0 cleared. -/
def execJalr (c : CoreId) (w : Word) (s : State) : Host.Outcome State Fault Refusal :=
  .next (s.issue c w 0x1090 fun s =>
    (s.modCore c fun C =>
      let t := (C.rg (ireg w 51) + (w.extractLsb' 0 32).signExtend 64 * 8).toNat
      (C.setRg (ireg w 41) (BitVec.ofNat 64 C.nextPc)).goto (t / 8 * 8)).bump (COR_INSTRET c.toNat))

end Sys2Proof.Machine
end

