-- ==== Sys2Proof/Machine/Vector.lean ====
section
/-!
DEFINITION. Sys2Proof/Machine/Vector.lean: the vector, cross-lane, mask and conversion classes (R144 to R153, R173 to R177),
and the end of their instructions.
-/
namespace Sys2Proof.Machine

/-- A SCALAR-mode operand's register of a class 0x5 instruction. -/
def CoreSt.scalarOf (C : CoreSt) (w : Word) (reg mode : Nat) : Word := if ibits w (mode + 1) mode = 3 then C.rg (ireg w reg) else 0

/-- A vector instruction of row `key` issues into the engine's queue with its SCALAR operands captured (R157, R182). -/
def State.vecIssue (s : State) (c : CoreId) (w : Word) (key : Nat) : State :=
  s.issue c w key fun s =>
    let C := s.core c
    s.enqueue c w (C.scalarOf w 45 43) (C.scalarOf w 38 36) (C.scalarOf w 31 29)

/-- A cross-lane, mask, conversion or scale-register instruction of row `key` issues with g[RS] captured from bit `g` (R182). -/
def State.gIssue (s : State) (c : CoreId) (w : Word) (key g : Nat) : State :=
  s.issue c w key fun s => s.enqueue c w ((s.core c).rg (ireg w g)) 0 0

/-- R144: a + b. -/
def execVecAdd (c : CoreId) (w : Word) (s : State) : Host.Outcome State Fault Refusal := .next (s.vecIssue c w 0x5000)

/-- R144: a − b. -/
def execVecSub (c : CoreId) (w : Word) (s : State) : Host.Outcome State Fault Refusal := .next (s.vecIssue c w 0x5010)

/-- R144: a × b. -/
def execVecMul (c : CoreId) (w : Word) (s : State) : Host.Outcome State Fault Refusal := .next (s.vecIssue c w 0x5020)

/-- R144: a × b + c with one rounding. -/
def execFma (c : CoreId) (w : Word) (s : State) : Host.Outcome State Fault Refusal := .next (s.vecIssue c w 0x5030)

/-- R144: a × b − c with one rounding. -/
def execFms (c : CoreId) (w : Word) (s : State) : Host.Outcome State Fault Refusal := .next (s.vecIssue c w 0x5040)

/-- R144: −(a × b) + c with one rounding. -/
def execFnma (c : CoreId) (w : Word) (s : State) : Host.Outcome State Fault Refusal := .next (s.vecIssue c w 0x5050)

/-- R146: minimum. -/
def execVecMin (c : CoreId) (w : Word) (s : State) : Host.Outcome State Fault Refusal := .next (s.vecIssue c w 0x5060)

/-- R146: maximum. -/
def execVecMax (c : CoreId) (w : Word) (s : State) : Host.Outcome State Fault Refusal := .next (s.vecIssue c w 0x5070)

/-- R152: compare into a mask register. -/
def execCmp (c : CoreId) (w : Word) (s : State) : Host.Outcome State Fault Refusal := .next (s.vecIssue c w 0x5080)

/-- R174: select b or c by the mask. -/
def execSel (c : CoreId) (w : Word) (s : State) : Host.Outcome State Fault Refusal := .next (s.vecIssue c w 0x5090)

/-- R144: copies or converts a. -/
def execMov (c : CoreId) (w : Word) (s : State) : Host.Outcome State Fault Refusal := .next (s.vecIssue c w 0x50A0)

/-- R144: absolute value. -/
def execAbs (c : CoreId) (w : Word) (s : State) : Host.Outcome State Fault Refusal := .next (s.vecIssue c w 0x50A1)

/-- R144: negation. -/
def execNeg (c : CoreId) (w : Word) (s : State) : Host.Outcome State Fault Refusal := .next (s.vecIssue c w 0x50A2)

/-- R145: reciprocal. -/
def execRcp (c : CoreId) (w : Word) (s : State) : Host.Outcome State Fault Refusal := .next (s.vecIssue c w 0x50B0)

/-- R145: reciprocal square root. -/
def execRsq (c : CoreId) (w : Word) (s : State) : Host.Outcome State Fault Refusal := .next (s.vecIssue c w 0x50B1)

/-- R145: square root. -/
def execSqrt (c : CoreId) (w : Word) (s : State) : Host.Outcome State Fault Refusal := .next (s.vecIssue c w 0x50B2)

/-- R145: 2^a. -/
def execExp2 (c : CoreId) (w : Word) (s : State) : Host.Outcome State Fault Refusal := .next (s.vecIssue c w 0x50B3)

/-- R145: log2 a. -/
def execLog2 (c : CoreId) (w : Word) (s : State) : Host.Outcome State Fault Refusal := .next (s.vecIssue c w 0x50B4)

/-- R148: reduces each row. -/
def execRedr (c : CoreId) (w : Word) (s : State) : Host.Outcome State Fault Refusal := .next (s.gIssue c w 0x6000 38)

/-- R148: reduces each column. -/
def execRedc (c : CoreId) (w : Word) (s : State) : Host.Outcome State Fault Refusal := .next (s.gIssue c w 0x6010 38)

/-- R148: reduces every element into a g register. -/
def execReda (c : CoreId) (w : Word) (s : State) : Host.Outcome State Fault Refusal := .next (s.gIssue c w 0x6020 38)

/-- R153: mask AND. -/
def execMand (c : CoreId) (w : Word) (s : State) : Host.Outcome State Fault Refusal := .next (s.gIssue c w 0x6080 38)

/-- R153: mask OR. -/
def execMor (c : CoreId) (w : Word) (s : State) : Host.Outcome State Fault Refusal := .next (s.gIssue c w 0x6090 38)

/-- R153: mask XOR. -/
def execMxor (c : CoreId) (w : Word) (s : State) : Host.Outcome State Fault Refusal := .next (s.gIssue c w 0x60A0 38)

/-- R153: ma AND NOT mb. -/
def execMandn (c : CoreId) (w : Word) (s : State) : Host.Outcome State Fault Refusal := .next (s.gIssue c w 0x60B0 38)

/-- R153: mask NOT. -/
def execMnot (c : CoreId) (w : Word) (s : State) : Host.Outcome State Fault Refusal := .next (s.gIssue c w 0x60C0 38)

/-- R153: sets mask bits 0 to n − 1. -/
def execMset (c : CoreId) (w : Word) (s : State) : Host.Outcome State Fault Refusal := .next (s.gIssue c w 0x60D0 38)

/-- R153: population count. -/
def execMpop (c : CoreId) (w : Word) (s : State) : Host.Outcome State Fault Refusal := .next (s.gIssue c w 0x60E0 38)

/-- R153: the lowest set index, or 4,096. -/
def execMfirst (c : CoreId) (w : Word) (s : State) : Host.Outcome State Fault Refusal := .next (s.gIssue c w 0x60F0 38)

/-- R176: converts a tile. -/
def execCvt (c : CoreId) (w : Word) (s : State) : Host.Outcome State Fault Refusal := .next (s.gIssue c w 0xA000 32)

/-- R176: quantises with block scales. -/
def execCvtmx (c : CoreId) (w : Word) (s : State) : Host.Outcome State Fault Refusal := .next (s.gIssue c w 0xA010 32)

/-- R176: loads a scale register from a tile row. -/
def execScld (c : CoreId) (w : Word) (s : State) : Host.Outcome State Fault Refusal := .next (s.gIssue c w 0xA020 32)

/-- R176: stores a scale register into a tile row. -/
def execScst (c : CoreId) (w : Word) (s : State) : Host.Outcome State Fault Refusal := .next (s.gIssue c w 0xA030 32)

/-- R176: sets every byte of a scale register. -/
def execScset (c : CoreId) (w : Word) (s : State) : Host.Outcome State Fault Refusal := .next (s.gIssue c w 0xA040 32)

/-- R154, R157, R183: the instruction at the head of the vector queue ends its write phase, once the tiles, masks and scale
registers it names allow it. -/
def execVecInsnComplete (c : CoreId) (s : State) : Host.Outcome State Fault Refusal :=
  .next <| match (s.core c).vecHead with
  | some f => if s.clocked c && (s.core c).vecReady f then (s.vecFinish c f).pump c else s
  | none => s

end Sys2Proof.Machine
end

