-- ==== Sys2Proof/Machine/Dispatch.lean ====
section
/-!
DEFINITION. Sys2Proof/Machine/Dispatch.lean: the meaning of every command, one arm per constructor.
-/
namespace Sys2Proof.Machine

def exec (i : Instr) (s : State) : Host.Outcome State Fault Refusal :=
  match i with
  | .add c w => Sys2Proof.Machine.execAdd c w s
  | .sub c w => Sys2Proof.Machine.execSub c w s
  | .and c w => Sys2Proof.Machine.execAnd c w s
  | .or c w => Sys2Proof.Machine.execOr c w s
  | .xor c w => Sys2Proof.Machine.execXor c w s
  | .sll c w => Sys2Proof.Machine.execSll c w s
  | .srl c w => Sys2Proof.Machine.execSrl c w s
  | .sra c w => Sys2Proof.Machine.execSra c w s
  | .slt c w => Sys2Proof.Machine.execSlt c w s
  | .sltu c w => Sys2Proof.Machine.execSltu c w s
  | .min c w => Sys2Proof.Machine.execMin c w s
  | .max c w => Sys2Proof.Machine.execMax c w s
  | .minu c w => Sys2Proof.Machine.execMinu c w s
  | .maxu c w => Sys2Proof.Machine.execMaxu c w s
  | .mul c w => Sys2Proof.Machine.execMul c w s
  | .mulhu c w => Sys2Proof.Machine.execMulhu c w s
  | .divu c w => Sys2Proof.Machine.execDivu c w s
  | .remu c w => Sys2Proof.Machine.execRemu c w s
  | .movhi c w => Sys2Proof.Machine.execMovhi c w s
  | .beq c w => Sys2Proof.Machine.execBeq c w s
  | .bne c w => Sys2Proof.Machine.execBne c w s
  | .blt c w => Sys2Proof.Machine.execBlt c w s
  | .bge c w => Sys2Proof.Machine.execBge c w s
  | .bltu c w => Sys2Proof.Machine.execBltu c w s
  | .bgeu c w => Sys2Proof.Machine.execBgeu c w s
  | .jal c w => Sys2Proof.Machine.execJal c w s
  | .jalr c w => Sys2Proof.Machine.execJalr c w s
  | .ld8u c w => Sys2Proof.Machine.execLd8u c w s
  | .ld16u c w => Sys2Proof.Machine.execLd16u c w s
  | .ld32u c w => Sys2Proof.Machine.execLd32u c w s
  | .ld64 c w => Sys2Proof.Machine.execLd64 c w s
  | .ld8s c w => Sys2Proof.Machine.execLd8s c w s
  | .ld16s c w => Sys2Proof.Machine.execLd16s c w s
  | .ld32s c w => Sys2Proof.Machine.execLd32s c w s
  | .st8 c w => Sys2Proof.Machine.execSt8 c w s
  | .st16 c w => Sys2Proof.Machine.execSt16 c w s
  | .st32 c w => Sys2Proof.Machine.execSt32 c w s
  | .st64 c w => Sys2Proof.Machine.execSt64 c w s
  | .tld c w => Sys2Proof.Machine.execTld c w s
  | .tldt c w => Sys2Proof.Machine.execTldt c w s
  | .tst c w => Sys2Proof.Machine.execTst c w s
  | .mmul c w => Sys2Proof.Machine.execMmul c w s
  | .mmac c w => Sys2Proof.Machine.execMmac c w s
  | .sload c w => Sys2Proof.Machine.execSload c w s
  | .swap c w => Sys2Proof.Machine.execSwap c w s
  | .form c w => Sys2Proof.Machine.execForm c w s
  | .mtxWritePhase c a => Sys2Proof.Machine.execMtxWritePhase c a s
  | .shadowLoadDone c a => Sys2Proof.Machine.execShadowLoadDone c a s
  | .swapTakesEffect c a => Sys2Proof.Machine.execSwapTakesEffect c a s
  | .formSwitchDone c a => Sys2Proof.Machine.execFormSwitchDone c a s
  | .tileLoadComplete c t => Sys2Proof.Machine.execTileLoadComplete c t s
  | .tileStoreComplete c t => Sys2Proof.Machine.execTileStoreComplete c t s
  | .vecAdd c w => Sys2Proof.Machine.execVecAdd c w s
  | .vecSub c w => Sys2Proof.Machine.execVecSub c w s
  | .vecMul c w => Sys2Proof.Machine.execVecMul c w s
  | .fma c w => Sys2Proof.Machine.execFma c w s
  | .fms c w => Sys2Proof.Machine.execFms c w s
  | .fnma c w => Sys2Proof.Machine.execFnma c w s
  | .vecMin c w => Sys2Proof.Machine.execVecMin c w s
  | .vecMax c w => Sys2Proof.Machine.execVecMax c w s
  | .cmp c w => Sys2Proof.Machine.execCmp c w s
  | .sel c w => Sys2Proof.Machine.execSel c w s
  | .mov c w => Sys2Proof.Machine.execMov c w s
  | .abs c w => Sys2Proof.Machine.execAbs c w s
  | .neg c w => Sys2Proof.Machine.execNeg c w s
  | .rcp c w => Sys2Proof.Machine.execRcp c w s
  | .rsq c w => Sys2Proof.Machine.execRsq c w s
  | .sqrt c w => Sys2Proof.Machine.execSqrt c w s
  | .exp2 c w => Sys2Proof.Machine.execExp2 c w s
  | .log2 c w => Sys2Proof.Machine.execLog2 c w s
  | .redr c w => Sys2Proof.Machine.execRedr c w s
  | .redc c w => Sys2Proof.Machine.execRedc c w s
  | .reda c w => Sys2Proof.Machine.execReda c w s
  | .mand c w => Sys2Proof.Machine.execMand c w s
  | .mor c w => Sys2Proof.Machine.execMor c w s
  | .mxor c w => Sys2Proof.Machine.execMxor c w s
  | .mandn c w => Sys2Proof.Machine.execMandn c w s
  | .mnot c w => Sys2Proof.Machine.execMnot c w s
  | .mset c w => Sys2Proof.Machine.execMset c w s
  | .mpop c w => Sys2Proof.Machine.execMpop c w s
  | .mfirst c w => Sys2Proof.Machine.execMfirst c w s
  | .cvt c w => Sys2Proof.Machine.execCvt c w s
  | .cvtmx c w => Sys2Proof.Machine.execCvtmx c w s
  | .scld c w => Sys2Proof.Machine.execScld c w s
  | .scst c w => Sys2Proof.Machine.execScst c w s
  | .scset c w => Sys2Proof.Machine.execScset c w s
  | .vecInsnComplete c => Sys2Proof.Machine.execVecInsnComplete c s
  | .dmaq c w => Sys2Proof.Machine.execDmaq c w s
  | .dmast c w => Sys2Proof.Machine.execDmast c w s
  | .sadv c w => Sys2Proof.Machine.execSadv c w s
  | .sread c w => Sys2Proof.Machine.execSread c w s
  | .swatch c w => Sys2Proof.Machine.execSwatch c w s
  | .scancel c w => Sys2Proof.Machine.execScancel c w s
  | .swait c w => Sys2Proof.Machine.execSwait c w s
  | .sfired c w => Sys2Proof.Machine.execSfired c w s
  | .barr c w => Sys2Proof.Machine.execBarr c w s
  | .bpoll c w => Sys2Proof.Machine.execBpoll c w s
  | .csrr c w => Sys2Proof.Machine.execCsrr c w s
  | .csrw c w => Sys2Proof.Machine.execCsrw c w s
  | .eret c w => Sys2Proof.Machine.execEret c w s
  | .halt c w => Sys2Proof.Machine.execHalt c w s
  | .fence c w => Sys2Proof.Machine.execFence c w s
  | .programHalted c => Sys2Proof.Machine.execProgramHalted c s
  | .fetchResponse c => Sys2Proof.Machine.execFetchResponse c s
  | .interruptAccept c => Sys2Proof.Machine.execInterruptAccept c s
  | .tfaultResume c slot => Sys2Proof.Machine.execTfaultResume c slot s
  | .tfaultAbort c slot => Sys2Proof.Machine.execTfaultAbort c slot s
  | .excResume c => Sys2Proof.Machine.execExcResume c s
  | .excAbort c => Sys2Proof.Machine.execExcAbort c s
  | .fwIrqRaise c => Sys2Proof.Machine.execFwIrqRaise c s
  | .mtxSeedWrite c a v => Sys2Proof.Machine.execMtxSeedWrite c a v s
  | .cvtSeedWrite c v => Sys2Proof.Machine.execCvtSeedWrite c v s
  | .corMtxCntClr c => Sys2Proof.Machine.execCorMtxCntClr c s
  | .predFlush c => Sys2Proof.Machine.execPredFlush c s
  | .corTileCntClr c => Sys2Proof.Machine.execCorTileCntClr c s
  | .corVecCntClr c => Sys2Proof.Machine.execCorVecCntClr c s
  | .vflagsAccess c w => Sys2Proof.Machine.execVflagsAccess c w s
  | .corMemInv c => Sys2Proof.Machine.execCorMemInv c s
  | .corMemCntClr c => Sys2Proof.Machine.execCorMemCntClr c s
  | .hstTagWrite c tag => Sys2Proof.Machine.execHstTagWrite c tag s
  | .hstFlush c => Sys2Proof.Machine.execHstFlush c s
  | .hstFoldAccepted c => Sys2Proof.Machine.execHstFoldAccepted c s
  | .lineRequest c draws => Sys2Proof.Machine.execLineRequest c draws s
  | .sorterAgeExpire k line => Sys2Proof.Machine.execSorterAgeExpire k line s
  | .lineResponse k line draws => Sys2Proof.Machine.execLineResponse k line draws s
  | .cluSortCntClr k => Sys2Proof.Machine.execCluSortCntClr k s
  | .memDmaCntClr d => Sys2Proof.Machine.execMemDmaCntClr d s
  | .arbCntClr d => Sys2Proof.Machine.execArbCntClr d s
  | .arbTicketWrite d t slot v => Sys2Proof.Machine.execArbTicketWrite d t slot v s
  | .arbSeedWrite d i' v => Sys2Proof.Machine.execArbSeedWrite d i' v s
  | .dmaAccept d tag => Sys2Proof.Machine.execDmaAccept d tag s
  | .dmaBlockDone d tag i' draws => Sys2Proof.Machine.execDmaBlockDone d tag i' draws s
  | .dmaComplete d tag => Sys2Proof.Machine.execDmaComplete d tag s
  | .faultReportService d => Sys2Proof.Machine.execFaultReportService d s
  | .patrolScrub a found sym => Sys2Proof.Machine.execPatrolScrub a found sym s
  | .memStepWrite d v => Sys2Proof.Machine.execMemStepWrite d v s
  | .rgnEntryWrite d n limit v => Sys2Proof.Machine.execRgnEntryWrite d n limit v s
  | .writePacket a data who => Sys2Proof.Machine.execWritePacket a data who s
  | .lateNoticeReceive n => Sys2Proof.Machine.execLateNoticeReceive n s
  | .ringEnable d n => Sys2Proof.Machine.execRingEnable d n s
  | .ringDisable d n => Sys2Proof.Machine.execRingDisable d n s
  | .streamBlockWritten d n b => Sys2Proof.Machine.execStreamBlockWritten d n b s
  | .priResponse d va code => Sys2Proof.Machine.execPriResponse d va code s
  | .atsInvalidate va len => Sys2Proof.Machine.execAtsInvalidate va len s
  | .reductionPacketArrive n => Sys2Proof.Machine.execReductionPacketArrive n s
  | .combineHoldExpire r n => Sys2Proof.Machine.execCombineHoldExpire r n s
  | .reductionEndpointWrite n => Sys2Proof.Machine.execReductionEndpointWrite n s
  | .roundDoneNotice n => Sys2Proof.Machine.execRoundDoneNotice n s
  | .multicastDeliver n c held => Sys2Proof.Machine.execMulticastDeliver n c held s
  | .multicastAck n => Sys2Proof.Machine.execMulticastAck n s
  | .pacerRefill d p => Sys2Proof.Machine.execPacerRefill d p s
  | .fenceWrite c v => Sys2Proof.Machine.execFenceWrite c v s
  | .fenceReleaseWrite c => Sys2Proof.Machine.execFenceReleaseWrite c s
  | .selfTestDone c ok => Sys2Proof.Machine.execSelfTestDone c ok s
  | .newtUngate c => Sys2Proof.Machine.execNewtUngate c s
  | .redEntryWrite d n cfg v => Sys2Proof.Machine.execRedEntryWrite d n cfg v s
  | .nocCntClr d => Sys2Proof.Machine.execNocCntClr d s
  | .syncAdvance n => Sys2Proof.Machine.execSyncAdvance n s
  | .advanceAck n => Sys2Proof.Machine.execAdvanceAck n s
  | .watchRegistration n => Sys2Proof.Machine.execWatchRegistration n s
  | .watchFire n => Sys2Proof.Machine.execWatchFire n s
  | .retryResend n => Sys2Proof.Machine.execRetryResend n s
  | .synValWrite o v => Sys2Proof.Machine.execSynValWrite o v s
  | .synAdvWrite o v => Sys2Proof.Machine.execSynAdvWrite o v s
  | .synAttrWrite o v => Sys2Proof.Machine.execSynAttrWrite o v s
  | .synCntClr k => Sys2Proof.Machine.execSynCntClr k s
  | .barMaskWrite d n w v => Sys2Proof.Machine.execBarMaskWrite d n w v s
  | .synBarCfgWrite d n v => Sys2Proof.Machine.execSynBarCfgWrite d n v s
  | .barrierLineComplete d n => Sys2Proof.Machine.execBarrierLineComplete d n s
  | .barrierLate d n => Sys2Proof.Machine.execBarrierLate d n s
  | .lendableSet r => Sys2Proof.Machine.execLendableSet r s
  | .stepOpen r => Sys2Proof.Machine.execStepOpen r s
  | .stepClose r => Sys2Proof.Machine.execStepClose r s
  | .planInstall r => Sys2Proof.Machine.execPlanInstall r s
  | .schedSet r => Sys2Proof.Machine.execSchedSet r s
  | .stepStatus r => Sys2Proof.Machine.execStepStatus r s
  | .passAStart r => Sys2Proof.Machine.execPassAStart r s
  | .passADone r => Sys2Proof.Machine.execPassADone r s
  | .normContribute => Sys2Proof.Machine.execNormContribute s
  | .passBLayerDone r => Sys2Proof.Machine.execPassBLayerDone r s
  | .rule0LaunchDone r => Sys2Proof.Machine.execRule0LaunchDone r s
  | .stepCommit => Sys2Proof.Machine.execStepCommit s
  | .updCntClr r => Sys2Proof.Machine.execUpdCntClr r s
  | .rs port f => Sys2Proof.Machine.execRs port f s
  | .ag port f => Sys2Proof.Machine.execAg port f s
  | .normUp port f => Sys2Proof.Machine.execNormUp port f s
  | .normDown port f => Sys2Proof.Machine.execNormDown port f s
  | .ack port f => Sys2Proof.Machine.execAck port f s
  | .nak port f => Sys2Proof.Machine.execNak port f s
  | .credit port f => Sys2Proof.Machine.execCredit port f s
  | .barrier port f => Sys2Proof.Machine.execBarrier port f s
  | .abort port f => Sys2Proof.Machine.execAbort port f s
  | .probe port f => Sys2Proof.Machine.execProbe port f s
  | .pfcFrame port pcp pause => Sys2Proof.Machine.execPfcFrame port pcp pause s
  | .ackTimer port mac => Sys2Proof.Machine.execAckTimer port mac s
  | .rtoExpire port mac => Sys2Proof.Machine.execRtoExpire port mac s
  | .probeTimer port mac => Sys2Proof.Machine.execProbeTimer port mac s
  | .rsSendStart c => Sys2Proof.Machine.execRsSendStart c s
  | .dlSoftExpire c => Sys2Proof.Machine.execDlSoftExpire c s
  | .dlHardExpire c => Sys2Proof.Machine.execDlHardExpire c s
  | .portTrained port ok => Sys2Proof.Machine.execPortTrained port ok s
  | .fabPortSet r => Sys2Proof.Machine.execFabPortSet r s
  | .fabPortStatus r => Sys2Proof.Machine.execFabPortStatus r s
  | .groupSet r => Sys2Proof.Machine.execGroupSet r s
  | .chanSet r => Sys2Proof.Machine.execChanSet r s
  | .shardSet r => Sys2Proof.Machine.execShardSet r s
  | .deadlineSet r => Sys2Proof.Machine.execDeadlineSet r s
  | .groupClear r => Sys2Proof.Machine.execGroupClear r s
  | .fabCntClr => Sys2Proof.Machine.execFabCntClr s
  | .hello port f mirdig => Sys2Proof.Machine.execHello port f mirdig s
  | .bond port f rtt => Sys2Proof.Machine.execBond port f rtt s
  | .decision port f => Sys2Proof.Machine.execDecision port f s
  | .mirror port f off => Sys2Proof.Machine.execMirror port f off s
  | .mack port f => Sys2Proof.Machine.execMack port f s
  | .mskip port f => Sys2Proof.Machine.execMskip port f s
  | .heartbeat port f => Sys2Proof.Machine.execHeartbeat port f s
  | .unbond port f => Sys2Proof.Machine.execUnbond port f s
  | .unbondAck port f => Sys2Proof.Machine.execUnbondAck port f s
  | .heartbeatTimer port => Sys2Proof.Machine.execHeartbeatTimer port s
  | .partnerLoss => Sys2Proof.Machine.execPartnerLoss s
  | .bondTimeout => Sys2Proof.Machine.execBondTimeout s
  | .twnBond r mirdig => Sys2Proof.Machine.execTwnBond r mirdig s
  | .twnUnbond r => Sys2Proof.Machine.execTwnUnbond r s
  | .twnMirrorSet r => Sys2Proof.Machine.execTwnMirrorSet r s
  | .twnStatus r => Sys2Proof.Machine.execTwnStatus r s
  | .twnStore r => Sys2Proof.Machine.execTwnStore r s
  | .twnCntClr => Sys2Proof.Machine.execTwnCntClr s
  | .firmwareTick t => Sys2Proof.Machine.execFirmwareTick t s
  | .inputSample volts amps board => Sys2Proof.Machine.execInputSample volts amps board s
  | .thermalTrip d i' v => Sys2Proof.Machine.execThermalTrip d i' v s
  | .pllRelockDone r => Sys2Proof.Machine.execPllRelockDone r s
  | .railSlewDone r => Sys2Proof.Machine.execRailSlewDone r s
  | .funcTransitionDone f ok => Sys2Proof.Machine.execFuncTransitionDone f ok s
  | .powerCapSet r => Sys2Proof.Machine.execPowerCapSet r s
  | .powerStatus r => Sys2Proof.Machine.execPowerStatus r s
  | .pointLimit r => Sys2Proof.Machine.execPointLimit r s
  | .funcEnable r => Sys2Proof.Machine.execFuncEnable r s
  | .funcDisable r => Sys2Proof.Machine.execFuncDisable r s
  | .park r => Sys2Proof.Machine.execPark r s
  | .wake r => Sys2Proof.Machine.execWake r s
  | .powerSettings r => Sys2Proof.Machine.execPowerSettings r s
  | .profileClear r => Sys2Proof.Machine.execProfileClear r s
  | .pwrCntClr => Sys2Proof.Machine.execPwrCntClr s
  | .linkTrain mode rate width => Sys2Proof.Machine.execLinkTrain mode rate width s
  | .perstAssert => Sys2Proof.Machine.execPerstAssert s
  | .perstDeassert => Sys2Proof.Machine.execPerstDeassert s
  | .functionLevelReset => Sys2Proof.Machine.execFunctionLevelReset s
  | .configRequest kind v => Sys2Proof.Machine.execConfigRequest kind v s
  | .hostMemRead a found sym => Sys2Proof.Machine.execHostMemRead a found sym s
  | .hostMemWrite a data => Sys2Proof.Machine.execHostMemWrite a data s
  | .h2dSnoop a => Sys2Proof.Machine.execH2dSnoop a s
  | .cmdRingEnable cq r v => Sys2Proof.Machine.execCmdRingEnable cq r v s
  | .sqTailWrite r v => Sys2Proof.Machine.execSqTailWrite r v s
  | .cqHeadWrite r v => Sys2Proof.Machine.execCqHeadWrite r v s
  | .coalTimer r => Sys2Proof.Machine.execCoalTimer r s
  | .windowBaseWrite w1 v => Sys2Proof.Machine.execWindowBaseWrite w1 v s
  | .cmdCntClr => Sys2Proof.Machine.execCmdCntClr s
  | .v1Packet r => Sys2Proof.Machine.execV1Packet r s
  | .unassignedOpcode r => Sys2Proof.Machine.execUnassignedOpcode r s
  | .nop r => Sys2Proof.Machine.execNop r s
  | .identify r => Sys2Proof.Machine.execIdentify r s
  | .enumerate r => Sys2Proof.Machine.execEnumerate r s
  | .health r => Sys2Proof.Machine.execHealth r s
  | .regRead r => Sys2Proof.Machine.execRegRead r s
  | .regWrite r => Sys2Proof.Machine.execRegWrite r s
  | .copy r => Sys2Proof.Machine.execCopy r s
  | .fill r => Sys2Proof.Machine.execFill r s
  | .map r => Sys2Proof.Machine.execMap r s
  | .unmap r => Sys2Proof.Machine.execUnmap r s
  | .mark r => Sys2Proof.Machine.execMark r s
  | .ptPool r => Sys2Proof.Machine.execPtPool r s
  | .redSet r => Sys2Proof.Machine.execRedSet r s
  | .mcgSet r => Sys2Proof.Machine.execMcgSet r s
  | .bias r => Sys2Proof.Machine.execBias r s
  | .launch r => Sys2Proof.Machine.execLaunch r s
  | .launchComplete n => Sys2Proof.Machine.execLaunchComplete n s
  | .stop r => Sys2Proof.Machine.execStop r s
  | .launchStatus r => Sys2Proof.Machine.execLaunchStatus r s
  | .raise r => Sys2Proof.Machine.execRaise r s
  | .syncAdv r => Sys2Proof.Machine.execSyncAdv r s
  | .syncRead r => Sys2Proof.Machine.execSyncRead r s
  | .syncSet r => Sys2Proof.Machine.execSyncSet r s
  | .syncAttr r => Sys2Proof.Machine.execSyncAttr r s
  | .syncWait r => Sys2Proof.Machine.execSyncWait r s
  | .syncWaitTimeout d slot => Sys2Proof.Machine.execSyncWaitTimeout d slot s
  | .barCfg r => Sys2Proof.Machine.execBarCfg r s
  | .barArrive r => Sys2Proof.Machine.execBarArrive r s
  | .configStage r => Sys2Proof.Machine.execConfigStage r s
  | .configCommit r => Sys2Proof.Machine.execConfigCommit r s
  | .configStatus r => Sys2Proof.Machine.execConfigStatus r s
  | .setImmediate r => Sys2Proof.Machine.execSetImmediate r s
  | .fenceCmd r => Sys2Proof.Machine.execFenceCmd r s
  | .unfence r => Sys2Proof.Machine.execUnfence r s
  | .fenceStatus r => Sys2Proof.Machine.execFenceStatus r s
  | .fwStage r => Sys2Proof.Machine.execFwStage r s
  | .fwActivate r => Sys2Proof.Machine.execFwActivate r s
  | .fwStatus r => Sys2Proof.Machine.execFwStatus r s
  | .fwRestart r => Sys2Proof.Machine.execFwRestart r s
  | .svnCommit r => Sys2Proof.Machine.execSvnCommit r s
  | .jnlRead r => Sys2Proof.Machine.execJnlRead r s
  | .jnlState r => Sys2Proof.Machine.execJnlState r s
  | .jnlResetPolicy r => Sys2Proof.Machine.execJnlResetPolicy r s
  | .rplRecordStart r => Sys2Proof.Machine.execRplRecordStart r s
  | .rplRecordStop r => Sys2Proof.Machine.execRplRecordStop r s
  | .rplStatus r => Sys2Proof.Machine.execRplStatus r s
  | .rplReplayStart r => Sys2Proof.Machine.execRplReplayStart r s
  | .rplReplayStop r => Sys2Proof.Machine.execRplReplayStop r s
  | .rplMark r => Sys2Proof.Machine.execRplMark r s
  | .getVersion => Sys2Proof.Machine.execGetVersion s
  | .getCapabilities flags => Sys2Proof.Machine.execGetCapabilities flags s
  | .negotiateAlgorithms sign hash kex aead => Sys2Proof.Machine.execNegotiateAlgorithms sign hash kex aead s
  | .getDigests => Sys2Proof.Machine.execGetDigests s
  | .getCertificate slot off len => Sys2Proof.Machine.execGetCertificate slot off len s
  | .challenge slot nonce => Sys2Proof.Machine.execChallenge slot nonce s
  | .getMeasurements op sign nonce => Sys2Proof.Machine.execGetMeasurements op sign nonce s
  | .keyExchange slot key => Sys2Proof.Machine.execKeyExchange slot key s
  | .finish id ok => Sys2Proof.Machine.execFinish id ok s
  | .spdmHeartbeat id => Sys2Proof.Machine.execSpdmHeartbeat id s
  | .keyUpdate id => Sys2Proof.Machine.execKeyUpdate id s
  | .endSession id => Sys2Proof.Machine.execEndSession id s
  | .doeDiscovery inst index => Sys2Proof.Machine.execDoeDiscovery inst index s
  | .cdatRead entry => Sys2Proof.Machine.execCdatRead entry s
  | .mbxDataWrite host off data => Sys2Proof.Machine.execMbxDataWrite host off data s
  | .mbxH2fSend host n v => Sys2Proof.Machine.execMbxH2fSend host n v s
  | .mbxF2hSend host n v => Sys2Proof.Machine.execMbxF2hSend host n v s
  | .mbxH2fRelease host v => Sys2Proof.Machine.execMbxH2fRelease host v s
  | .mbxF2hRelease host v => Sys2Proof.Machine.execMbxF2hRelease host v s
  | .fwReady host => Sys2Proof.Machine.execFwReady host s
  | .mbxCntClr host => Sys2Proof.Machine.execMbxCntClr host s
  | .mbxHostDbSet host v => Sys2Proof.Machine.execMbxHostDbSet host v s
  | .mbxFwDbSet host v => Sys2Proof.Machine.execMbxFwDbSet host v s
  | .dbMaskWrite host fw v => Sys2Proof.Machine.execDbMaskWrite host fw v s
  | .vinRise => Sys2Proof.Machine.execVinRise s
  | .vinFall => Sys2Proof.Machine.execVinFall s
  | .modRstAssert => Sys2Proof.Machine.execModRstAssert s
  | .overcurrent => Sys2Proof.Machine.execOvercurrent s
  | .overvoltage => Sys2Proof.Machine.execOvervoltage s
  | .overtempShutdown cause => Sys2Proof.Machine.execOvertempShutdown cause s
  | .shutdownHoldExpire => Sys2Proof.Machine.execShutdownHoldExpire s
  | .startupStepPass twin mirdig => Sys2Proof.Machine.execStartupStepPass twin mirdig s
  | .startupTryFail obj detail mirdig => Sys2Proof.Machine.execStartupTryFail obj detail mirdig s
  | .step1RetryTimer => Sys2Proof.Machine.execStep1RetryTimer s
  | .linkRetrainTimer => Sys2Proof.Machine.execLinkRetrainTimer s
  | .d2dFlitCrcFail d vert => Sys2Proof.Machine.execD2dFlitCrcFail d vert s
  | .d2dRetrainDone d vert ok => Sys2Proof.Machine.execD2dRetrainDone d vert ok s
  | .modLogHeadWrite v => Sys2Proof.Machine.execModLogHeadWrite v s
  | .modLogBaseWrite v => Sys2Proof.Machine.execModLogBaseWrite v s
  | .modErrCntClr => Sys2Proof.Machine.execModErrCntClr s
  | .resetReq v => Sys2Proof.Machine.execResetReq v s
  | .jnlClear v => Sys2Proof.Machine.execJnlClear v s
  | .sbFlashDataRead => Sys2Proof.Machine.execSbFlashDataRead s
  | .alertResponse pins => Sys2Proof.Machine.execAlertResponse pins s
  | .tapReset => Sys2Proof.Machine.execTapReset s
  | .extest d cells pins => Sys2Proof.Machine.execExtest d cells pins s
  | .samplePreload d cells pins => Sys2Proof.Machine.execSamplePreload d cells pins s
  | .idcode d => Sys2Proof.Machine.execIdcode d s
  | .usercode d => Sys2Proof.Machine.execUsercode d s
  | .highz d => Sys2Proof.Machine.execHighz d s
  | .clamp d => Sys2Proof.Machine.execClamp d s
  | .extestPulse d cells pins => Sys2Proof.Machine.execExtestPulse d cells pins s
  | .extestTrain d cells pins => Sys2Proof.Machine.execExtestTrain d cells pins s
  | .bypass d code => Sys2Proof.Machine.execBypass d code s
  | .ccdbg d w a v => Sys2Proof.Machine.execCcdbg d w a v s
  | .registerWrite a v who => Sys2Proof.Machine.execRegisterWrite a v who s
  | .modRstDeassert => Sys2Proof.Machine.execModRstDeassert s
  | .flrDone => Sys2Proof.Machine.execFlrDone s
  | .atsTranslationCompletion d va host perm => Sys2Proof.Machine.execAtsTranslationCompletion d va host perm s
  | .foreignFrame port => Sys2Proof.Machine.execForeignFrame port s
  | .badFcsFrame port => Sys2Proof.Machine.execBadFcsFrame port s
  | .linkRetry crc retry => Sys2Proof.Machine.execLinkRetry crc retry s
  | .linkDown port => Sys2Proof.Machine.execLinkDown port s
  | .overvoltageRelease => Sys2Proof.Machine.execOvervoltageRelease s
  | .fwStageDone readErr => Sys2Proof.Machine.execFwStageDone readErr s

end Sys2Proof.Machine
end

