-- ==== Sys2Proof/Safety.lean ====
section
/-!
DEFINITION. Sys2Proof/Safety.lean: what claims about the module's steps are stated in: the canonical form of its sparse tables, and
what no command may undo.
-/
namespace Sys2Proof.Machine

/-- Memory in its canonical form: addresses strictly rising, no entry equal to what an unlisted address reads as. -/
abbrev Memory.wf (m : Tab Byte) : Prop := Tab.Wf memZero m

/-- Every sparse table of the state is in its canonical form. -/
structure State.Canon (s : State) : Prop where
  mem : Memory.wf s.mem
  poison : Tab.Wf (fun _ => false) s.poison
  regs : Tab.Wf regReset s.regs
  cores : Tab.Wf (fun _ => ({} : CoreSt)) s.cores
  sorters : Tab.Wf (fun _ => ({} : SorterSt)) s.sorters
  dies : Tab.Wf (fun _ => ({} : DieSt)) s.dies

/-- What a command leaves of a state whatever it does: the queue, every fuse but SVN_MIN, the free values taken so far, what the
module has put out, and the canonical form. -/
structure Keeps (s t : State) : Prop where
  queue : t.pending = s.pending
  fuses : { t.fuses with svnMin := s.fuses.svnMin } = s.fuses
  free : s.free ≤ t.free
  out : s.out <+: t.out
  canon : s.Canon → t.Canon

/-! ### Instructions at issue -/

/-- Instruction `w` of row `key` issues on core `c`: it is the word at issue, listed and legal, of that row, and nothing it needs is
missing. -/
structure State.CanIssue (s : State) (c : CoreId) (w : Word) (key : Nat) : Prop where
  atIssue : s.atIssue c w = true
  listed : listed w = true
  row : ikey w = key
  legal : illegalFields w (s.inHandler c) = false
  ready : s.stalls c w = false

/-- Core `c` has no instruction in flight and no seed write that waits for an array. -/
structure State.Quiet (s : State) (c : CoreId) : Prop where
  flights : (s.core c).fl = []
  seeds : ∀ a : Nat, ((s.core c).array a).seedWait = []

/-- An instruction of core `c` that has completed with `v` for register `rd` and the next instruction at `pc`: g[rd] has `v` (g0
stays 0), every other g register, the rest of the core, every other core, every register but COR_INSTRET, which counts it, and
everything outside the core are as they were. `seq` is the model's own count of instructions issued. -/
structure ScalarDone (s t : State) (c : CoreId) (rd : BitVec 5) (v : Word) (pc : Nat) : Prop where
  greg : ∀ r, (t.core c).rg r = if r = rd ∧ r ≠ 0 then v else (s.core c).rg r
  core : t.core c = { s.core c with g := (t.core c).g, pc := pc % 2 ^ 64, ibuf := none, seq := (t.core c).seq }
  cores : ∀ d, d ≠ c → t.core d = s.core d
  count : t.rd (COR_INSTRET c.toNat) = BitVec.ofNat 64 (((s.rd (COR_INSTRET c.toNat)).toNat + 1) % 2 ^ 48)
  regs : ∀ a, a ≠ COR_INSTRET c.toNat → t.rd a = s.rd a
  rest : t = { s with cores := t.cores, regs := t.regs }

/-- What a core holds of an instruction just put into its unit's queue: its number, word and address, its operands, whether one was rounded
down, and the enables of the arrays it issued under. -/
def State.newFlight (s : State) (c : CoreId) (w a b x : Word) (al : Bool) : Flight :=
  { seq := (s.core c).seq, w := w, pc := (s.core c).pc, a := a, b := b, c := x, aligned := al, ctl := s.mtxCtl c }

/-- An instruction of core `c` put into its unit's queue with its operands, the next instruction to issue being the one after it;
nothing else changes. -/
structure Queued (s t : State) (c : CoreId) (w a b x : Word) (al : Bool := false) : Prop where
  core : t.core c = { s.core c with
    fl := (s.core c).fl ++ [s.newFlight c w a b x al]
    seq := (s.core c).seq + 1, pc := ((s.core c).pc + 8) % 2 ^ 64, ibuf := none }
  cores : ∀ d, d ≠ c → t.core d = s.core d
  rest : t = { s with cores := t.cores }

/-- A row of a core instruction: its command and the number its class, opcode and function make. -/
structure CoreRow where
  cmd : CoreId → Word → Instr
  key : Nat

/-- The rows of core instructions, class by class (R165 to R181). -/
def scalarRows : List CoreRow :=
  [⟨.add, 0x0000⟩, ⟨.sub, 0x0010⟩, ⟨.and, 0x0020⟩, ⟨.or, 0x0030⟩, ⟨.xor, 0x0040⟩, ⟨.sll, 0x0050⟩, ⟨.srl, 0x0060⟩, ⟨.sra, 0x0070⟩,
   ⟨.slt, 0x0080⟩, ⟨.sltu, 0x0090⟩, ⟨.min, 0x00A0⟩, ⟨.max, 0x00B0⟩, ⟨.minu, 0x00C0⟩, ⟨.maxu, 0x00D0⟩, ⟨.mul, 0x0100⟩,
   ⟨.mulhu, 0x0110⟩, ⟨.divu, 0x0120⟩, ⟨.remu, 0x0130⟩, ⟨.movhi, 0x0180⟩, ⟨.beq, 0x1000⟩, ⟨.bne, 0x1010⟩, ⟨.blt, 0x1020⟩,
   ⟨.bge, 0x1030⟩, ⟨.bltu, 0x1040⟩, ⟨.bgeu, 0x1050⟩, ⟨.jal, 0x1080⟩, ⟨.jalr, 0x1090⟩]
/-- The loads and stores of a scalar or a tile. -/
def accessRows : List CoreRow :=
  [⟨.ld8u, 0x2000⟩, ⟨.ld16u, 0x2010⟩, ⟨.ld32u, 0x2020⟩, ⟨.ld64, 0x2030⟩, ⟨.ld8s, 0x2040⟩, ⟨.ld16s, 0x2050⟩, ⟨.ld32s, 0x2060⟩,
   ⟨.st8, 0x2080⟩, ⟨.st16, 0x2090⟩, ⟨.st32, 0x20A0⟩, ⟨.st64, 0x20B0⟩, ⟨.tld, 0x3000⟩, ⟨.tldt, 0x3010⟩, ⟨.tst, 0x3020⟩]
/-- The instructions of the arrays. -/
def arrayRows : List CoreRow := [⟨.mmul, 0x4000⟩, ⟨.mmac, 0x4010⟩, ⟨.sload, 0x7000⟩, ⟨.swap, 0x7010⟩, ⟨.form, 0x7020⟩]
/-- The elementwise instructions of the vector engine. -/
def vectorRows : List CoreRow :=
  [⟨.vecAdd, 0x5000⟩, ⟨.vecSub, 0x5010⟩, ⟨.vecMul, 0x5020⟩, ⟨.fma, 0x5030⟩, ⟨.fms, 0x5040⟩, ⟨.fnma, 0x5050⟩, ⟨.vecMin, 0x5060⟩,
   ⟨.vecMax, 0x5070⟩, ⟨.cmp, 0x5080⟩, ⟨.sel, 0x5090⟩, ⟨.mov, 0x50A0⟩, ⟨.abs, 0x50A1⟩, ⟨.neg, 0x50A2⟩, ⟨.rcp, 0x50B0⟩,
   ⟨.rsq, 0x50B1⟩, ⟨.sqrt, 0x50B2⟩, ⟨.exp2, 0x50B3⟩, ⟨.log2, 0x50B4⟩]
/-- The cross-lane and mask instructions. -/
def laneRows : List CoreRow :=
  [⟨.redr, 0x6000⟩, ⟨.redc, 0x6010⟩, ⟨.reda, 0x6020⟩, ⟨.mand, 0x6080⟩, ⟨.mor, 0x6090⟩, ⟨.mxor, 0x60A0⟩, ⟨.mandn, 0x60B0⟩,
   ⟨.mnot, 0x60C0⟩, ⟨.mset, 0x60D0⟩, ⟨.mpop, 0x60E0⟩, ⟨.mfirst, 0x60F0⟩]
/-- The conversion and scale-register instructions. -/
def convertRows : List CoreRow := [⟨.cvt, 0xA000⟩, ⟨.cvtmx, 0xA010⟩, ⟨.scld, 0xA020⟩, ⟨.scst, 0xA030⟩, ⟨.scset, 0xA040⟩]
/-- The DMA, sync and system instructions. -/
def controlRows : List CoreRow :=
  [⟨.dmaq, 0x8000⟩, ⟨.dmast, 0x8010⟩, ⟨.sadv, 0x9000⟩, ⟨.sread, 0x9010⟩, ⟨.swatch, 0x9020⟩, ⟨.scancel, 0x9030⟩, ⟨.swait, 0x9040⟩,
   ⟨.sfired, 0x9050⟩, ⟨.barr, 0x9080⟩, ⟨.bpoll, 0x9090⟩, ⟨.csrr, 0xF000⟩, ⟨.csrw, 0xF010⟩, ⟨.eret, 0xF080⟩, ⟨.halt, 0xF090⟩,
   ⟨.fence, 0xF0A0⟩]
/-- Every core instruction. -/
def coreRows : List CoreRow := scalarRows ++ accessRows ++ arrayRows ++ vectorRows ++ laneRows ++ convertRows ++ controlRows

/-! ### Host commands -/

/-- A row of a host command: its command, its opcode, its effect on the state in which its packet has been consumed and recorded. -/
structure HostRow where
  cmd : RingId → Instr
  op : Nat
  eff : State → CmdRec → State

/-- The rows of host commands by opcode (R445). Memory, launches, sync and barriers. -/
def HostRow.isData (p : HostRow) : Prop := p ∈
  ([⟨.nop, 0x00, State.opNop⟩, ⟨.identify, 0x01, State.opIdentify⟩, ⟨.enumerate, 0x02, State.opEnumerate⟩,
   ⟨.health, 0x03, State.opHealth⟩, ⟨.regRead, 0x04, State.opRegRead⟩, ⟨.regWrite, 0x05, State.opRegWrite⟩,
   ⟨.copy, 0x10, State.opCopy⟩, ⟨.fill, 0x11, State.opFill⟩, ⟨.map, 0x12, State.opMap⟩, ⟨.unmap, 0x13, State.opUnmap⟩,
   ⟨.mark, 0x14, State.opMark⟩, ⟨.ptPool, 0x15, State.opPtPool⟩, ⟨.redSet, 0x16, State.opRedSet⟩, ⟨.mcgSet, 0x17, State.opMcgSet⟩,
   ⟨.bias, 0x18, State.opBias⟩, ⟨.launch, 0x20, State.opLaunch⟩, ⟨.stop, 0x21, State.opStop⟩,
   ⟨.launchStatus, 0x22, State.opLaunchStatus⟩, ⟨.raise, 0x23, State.opRaise⟩, ⟨.syncAdv, 0x30, State.opSyncAdv⟩,
   ⟨.syncRead, 0x31, State.opSyncRead⟩, ⟨.syncSet, 0x32, State.opSyncSet⟩, ⟨.syncAttr, 0x33, State.opSyncAttr⟩,
   ⟨.syncWait, 0x34, State.opSyncWait⟩, ⟨.barCfg, 0x35, State.opBarCfg⟩, ⟨.barArrive, 0x36, State.opBarArrive⟩] : List HostRow)
/-- Configuration, power, fencing, fabric and twin. -/
def HostRow.isModule (mirdig : BitVec 256) (p : HostRow) : Prop := p ∈
  ([⟨.configStage, 0x40, State.opConfigStage⟩, ⟨.configCommit, 0x41, State.opConfigCommit⟩,
   ⟨.configStatus, 0x42, State.opConfigStatus⟩, ⟨.setImmediate, 0x43, State.opSetImmediate⟩,
   ⟨.powerCapSet, 0x50, State.opPowerSetting⟩, ⟨.powerStatus, 0x51, State.opPowerStatus⟩, ⟨.pointLimit, 0x52, State.opPowerSetting⟩,
   ⟨.funcEnable, 0x53, fun s x => s.opFunc x true⟩, ⟨.funcDisable, 0x54, fun s x => s.opFunc x false⟩, ⟨.park, 0x55, State.opPark⟩,
   ⟨.wake, 0x56, State.opWake⟩, ⟨.powerSettings, 0x57, State.opPowerSetting⟩, ⟨.profileClear, 0x58, State.opPowerSetting⟩,
   ⟨.fenceCmd, 0x60, State.opFence⟩, ⟨.unfence, 0x61, State.opUnfence⟩, ⟨.fenceStatus, 0x62, State.opFenceStatus⟩,
   ⟨.fabPortSet, 0x70, State.opFabPortSet⟩, ⟨.fabPortStatus, 0x71, State.opFabPortStatus⟩, ⟨.groupSet, 0x72, State.opGroupSet⟩,
   ⟨.chanSet, 0x73, State.opChanSet⟩, ⟨.shardSet, 0x74, State.opShardSet⟩, ⟨.deadlineSet, 0x75, State.opDeadlineSet⟩,
   ⟨.groupClear, 0x76, State.opGroupClear⟩, ⟨fun r => .twnBond r mirdig, 0x78, fun s x => s.opTwnBond x mirdig⟩,
   ⟨.twnUnbond, 0x79, State.opTwnUnbond⟩, ⟨.twnMirrorSet, 0x7A, State.opTwnMirrorSet⟩, ⟨.twnStatus, 0x7B, State.opTwnStatus⟩,
   ⟨.twnStore, 0x7C, State.opTwnStore⟩] : List HostRow)
/-- Steps, replay, firmware and the journal. -/
def HostRow.isStep (p : HostRow) : Prop := p ∈
  ([⟨.stepOpen, 0x80, State.opStepOpen⟩, ⟨.stepClose, 0x81, State.opStepClose⟩, ⟨.planInstall, 0x82, State.opPlanInstall⟩,
   ⟨.schedSet, 0x83, State.opSchedSet⟩, ⟨.stepStatus, 0x84, State.opStepStatus⟩, ⟨.rplRecordStart, 0x90, State.opRplRecordStart⟩,
   ⟨.rplRecordStop, 0x91, State.opRplRecordStop⟩, ⟨.rplStatus, 0x92, State.opRplStatus⟩,
   ⟨.rplReplayStart, 0x93, State.opRplReplayStart⟩, ⟨.rplReplayStop, 0x94, State.opRplReplayStop⟩, ⟨.rplMark, 0x95, State.opRplMark⟩,
   ⟨.fwStage, 0xA0, State.opFwStage⟩, ⟨.fwActivate, 0xA1, State.opActivate⟩, ⟨.fwStatus, 0xA2, State.opFwStatus⟩,
   ⟨.fwRestart, 0xA3, State.restartAfter⟩, ⟨.svnCommit, 0xA4, State.opSvnCommit⟩, ⟨.jnlRead, 0xB0, State.opJnlRead⟩,
   ⟨.jnlState, 0xB1, State.opJnlState⟩, ⟨.jnlResetPolicy, 0xB2, State.opJnlPolicy⟩] : List HostRow)
/-- A host command with an opcode of its own; `mirdig` is the mirror digest that TWN_BOND's row carries. -/
def HostRow.listed (mirdig : BitVec 256) (p : HostRow) : Prop := p.isData ∨ p.isModule mirdig ∨ p.isStep

end Sys2Proof.Machine
end

