-- ==== Sys2Proof/Certificates/Slice0/Obligations.lean ====
section
/-!
DEFINITION. Sys2Proof/Certificates/Slice0/Obligations.lean: the statements about the module, family by family.
-/
open Sys2Proof Sys2Proof.Machine

/-! ### Core instructions -/

/-- R165: with `a` = g[RA] and `b` = g[RB], or IMM sign-extended where I is 1, a scalar ALU instruction that can issue writes its
result to g[RD] and completes; MOVHI takes IMM's place from the immediate whatever I is. -/
def Obligations.ScalarAluResults : Prop :=
  ∀ (c : CoreId) (w : Word) (s : State),
    let a := (s.core c).rg (w.extractLsb' 44 5)
    let imm : Word := (w.extractLsb' 0 32).signExtend 64
    let b := if w.getLsbD 38 then imm else (s.core c).rg (w.extractLsb' 39 5)
    let gives (i : Instr) (key : Nat) (v : Word) : Prop :=
      s.CanIssue c w key → ∃ t, exec i s = .next t ∧ ScalarDone s t c (w.extractLsb' 49 5) v ((s.core c).pc + 8)
    gives (.add c w) 0x0000 (a + b) ∧ gives (.sub c w) 0x0010 (a - b) ∧ gives (.and c w) 0x0020 (a &&& b) ∧
    gives (.or c w) 0x0030 (a ||| b) ∧ gives (.xor c w) 0x0040 (a ^^^ b) ∧ gives (.sll c w) 0x0050 (a <<< (b.toNat % 64)) ∧
    gives (.srl c w) 0x0060 (a >>> (b.toNat % 64)) ∧ gives (.sra c w) 0x0070 (a.sshiftRight (b.toNat % 64)) ∧
    gives (.slt c w) 0x0080 (if a.toInt < b.toInt then 1 else 0) ∧ gives (.sltu c w) 0x0090 (if a.toNat < b.toNat then 1 else 0) ∧
    gives (.min c w) 0x00A0 (if a.toInt < b.toInt then a else b) ∧ gives (.max c w) 0x00B0 (if a.toInt < b.toInt then b else a) ∧
    gives (.minu c w) 0x00C0 (if a.toNat < b.toNat then a else b) ∧ gives (.maxu c w) 0x00D0 (if a.toNat < b.toNat then b else a) ∧
    gives (.mul c w) 0x0100 (a * b) ∧ gives (.mulhu c w) 0x0110 (BitVec.ofNat 64 (a.toNat * b.toNat / 2 ^ 64)) ∧
    gives (.divu c w) 0x0120 (if b = 0 then BitVec.allOnes 64 else a / b) ∧ gives (.remu c w) 0x0130 (if b = 0 then a else a % b) ∧
    gives (.movhi c w) 0x0180 ((a &&& 0xFFFFFFFF) ||| (imm <<< 32))

/-- R166: a conditional branch goes to PC + OFF × 8 where its condition on g[RA] and g[RB] holds, else to the next instruction; JAL and
JALR write PC + 8 to g[RD] and go to their targets. -/
def Obligations.BranchResults : Prop :=
  ∀ (c : CoreId) (w : Word) (s : State),
    let C := s.core c
    let a := C.rg (w.extractLsb' 51 5)
    let b := C.rg (w.extractLsb' 46 5)
    let off : Word := (w.extractLsb' 0 32).signExtend 64 * 8
    let pc : Word := BitVec.ofNat 64 C.pc
    let link : Word := BitVec.ofNat 64 (C.pc + 8)
    let goes (i : Instr) (key : Nat) (p : Prop) [Decidable p] : Prop :=
      s.CanIssue c w key → ∃ t, exec i s = .next t ∧ ScalarDone s t c 0 0 (if p then (pc + off).toNat else C.pc + 8)
    goes (.beq c w) 0x1000 (a = b) ∧ goes (.bne c w) 0x1010 (a ≠ b) ∧ goes (.blt c w) 0x1020 (a.toInt < b.toInt) ∧
    goes (.bge c w) 0x1030 (b.toInt ≤ a.toInt) ∧ goes (.bltu c w) 0x1040 (a.toNat < b.toNat) ∧ goes (.bgeu c w) 0x1050 (b.toNat ≤ a.toNat) ∧
    (s.CanIssue c w 0x1080 → ∃ t, exec (.jal c w) s = .next t ∧ ScalarDone s t c (w.extractLsb' 41 5) link (pc + off).toNat) ∧
    (s.CanIssue c w 0x1090 → ∃ t, exec (.jalr c w) s = .next t ∧
      ScalarDone s t c (w.extractLsb' 41 5) link ((a + off).toNat / 8 * 8))

/-- R164: a word at issue whose class, opcode or function no chapter lists, or whose fields its row forbids, stops the program with the
ILLEGAL cause and its address, and touches no g register. -/
def Obligations.IllegalInstruction : Prop :=
  ∀ p ∈ coreRows, ∀ (c : CoreId) (w : Word) (s : State),
    s.atIssue c w = true → (listed w = false ∨ (ikey w = p.key ∧ illegalFields w (s.inHandler c) = true)) →
    ∃ t, exec (p.cmd c w) s = .next t ∧ (t.core c).run = .stopped ∧ (t.core c).fl = [] ∧ (∀ r, (t.core c).rg r = (s.core c).rg r) ∧
      COR_EXC.VALID.get (t.rd (COR_EXC c.toNat)) = 1 ∧ COR_EXC.CAUSE.get (t.rd (COR_EXC c.toNat)) = 1 ∧
      COR_EXC.FATAL.get (t.rd (COR_EXC c.toNat)) = 1 ∧
      t.rd (COR_EXC_PC c.toNat) = BitVec.ofNat 64 ((s.core c).pc % 2 ^ 48) ∧ t.mem = s.mem ∧ ∀ d, d ≠ c → t.core d = s.core d

/-- The model's event reading (log entry 1): an instruction row whose word is not the one at issue on its core, or is of another row,
changes nothing; so does one that is at issue and must wait for a g register or a full queue, whose stalled clocks COR_ISTALL counts as
CORE_CYCLE passes them (log entry 2). -/
def Obligations.InstructionsWait : Prop :=
  ∀ p ∈ coreRows, ∀ (c : CoreId) (w : Word) (s : State),
    (s.atIssue c w = false → exec (p.cmd c w) s = .next s) ∧
    (listed w = true → ikey w ≠ p.key → exec (p.cmd c w) s = .next s) ∧
    (s.atIssue c w = true → listed w = true → ikey w = p.key → illegalFields w (s.inHandler c) = false → s.stalls c w = true →
      exec (p.cmd c w) s = .next s)

/-- R173, R175, R176: a vector, cross-lane, mask, conversion or scale-register instruction that can issue enters the vector queue
with the g registers its fields name captured, and changes nothing else. -/
def Obligations.VectorIssue : Prop :=
  ∀ (c : CoreId) (w : Word) (s : State),
    let C := s.core c
    let sc (reg mode : Nat) : Word := if w.toNat / 2 ^ mode % 4 = 3 then C.rg (w.extractLsb' reg 5) else 0
    (∀ p ∈ vectorRows, s.CanIssue c w p.key → ∃ t, exec (p.cmd c w) s = .next t ∧ Queued s t c w (sc 45 43) (sc 38 36) (sc 31 29)) ∧
    (∀ p ∈ laneRows, s.CanIssue c w p.key → ∃ t, exec (p.cmd c w) s = .next t ∧ Queued s t c w (C.rg (w.extractLsb' 38 5)) 0 0) ∧
    (∀ p ∈ convertRows, s.CanIssue c w p.key → ∃ t, exec (p.cmd c w) s = .next t ∧ Queued s t c w (C.rg (w.extractLsb' 32 5)) 0 0)

/-- R167, R168, R120, R121, R113: a load or store that can issue enters the load/store queue with its address, aligned down to what its
size or element asks (ALIGN_CLAMP set where that changes it), and what may begin of the core's queues then does. A tile access
whose effective shape is empty completes at once. -/
def Obligations.AccessIssue : Prop :=
  ∀ (c : CoreId) (w : Word) (s : State),
    let C := s.core c
    let base := C.rg (w.extractLsb' 46 5)
    (∀ p ∈ accessRows.take 11, s.CanIssue c w p.key →
      let ea := base + (w.extractLsb' 0 32).signExtend 64
      let a := BitVec.ofNat 64 (ea.toNat / accSize w * accSize w)
      let s1 := if a = ea then s else s.setFld (COR_STATUS c.toNat) COR_STATUS.ALIGN_CLAMP 1
      ∃ u, exec (p.cmd c w) s = .next (u.pump c) ∧ Queued s1 u c w a 0 (C.rg (w.extractLsb' 51 5)) (a != ea)) ∧
    (∀ p ∈ accessRows.drop 11, s.CanIssue c w p.key →
      let ea := base + (w.extractLsb' 29 12).signExtend 64
      let st := C.rg (w.extractLsb' 41 5)
      let f := (Fmt.ofCode (shFmt w)).getD .fp32
      let k := max 1 (f.bits / 8)
      let a := BitVec.ofNat 64 (ea.toNat / k * k)
      let b := BitVec.ofNat 64 (st.toNat / k * k)
      let al := a != ea || b != st
      let s1 := if al then s.setFld (COR_STATUS c.toNat) COR_STATUS.ALIGN_CLAMP 1 else s
      let sh := effShape (shRows w) (shCols w) f 256 256
      let s2 := if sh = (shRows w, shCols w) then s1 else s1.shapeClamp c
      (sh.1 ≠ 0 → ∃ u, exec (p.cmd c w) s = .next (u.pump c) ∧ Queued s2 u c w a b 0 al) ∧
      (sh.1 = 0 → ∃ u, exec (p.cmd c w) s = .next (u.bump (if p.key = 0x3020 then COR_TILE_STORES c.toNat else COR_TILE_LOADS c.toNat)) ∧
        ScalarDone s2 u c 0 0 (C.pc + 8)))

/-- R168, R122: a scalar store of a core with nothing else in flight, to its own scratch through a page its translation buffer holds
with W, writes exactly its bytes of g[RD], little-endian, at the aligned address, and completes; every other byte of memory stays. -/
def Obligations.ScalarStoreResults : Prop :=
  ∀ p ∈ [((.st8 : CoreId → Word → Instr), 0x2080, 1), (.st16, 0x2090, 2), (.st32, 0x20A0, 4), (.st64, 0x20B0, 8)],
  ∀ (c : CoreId) (w : Word) (s : State) (e : TlbEnt),
    let C := s.core c
    let ea := (C.rg (w.extractLsb' 46 5) + (w.extractLsb' 0 32).signExtend 64).toNat
    let va := ea / p.2.2 * p.2.2
    let pa := e.pa + (va - e.va)
    let v := (C.rg (w.extractLsb' 51 5)).toNat
    s.CanIssue c w p.2.1 → s.Quiet c → C.tlb.find? (fun e => decide (e.va ≤ va) && decide (va < e.va + e.size)) = some e →
    e.w = true → s.storeOk c pa = true →
    ∃ t, exec (p.1 c w) s = .next t ∧
      (∀ x, t.mem.get memZero x = if pa ≤ x ∧ x < pa + p.2.2 then BitVec.ofNat 8 (v / 256 ^ (x - pa)) else s.mem.get memZero x) ∧
      ScalarDone { (if va = ea then s else s.setFld (COR_STATUS c.toNat) COR_STATUS.ALIGN_CLAMP 1) with
        mem := t.mem, poison := t.poison, out := t.out, host := t.host } t c 0 0 (C.pc + 8)

/-- R167: a scalar load of a core with nothing else in flight, from its own scratch through a page its translation buffer holds with R,
writes the bytes there to g[RD], zero- or sign-extended, and completes; memory stays. -/
def Obligations.ScalarLoadResults : Prop :=
  ∀ p ∈ [((.ld8u : CoreId → Word → Instr), 0x2000, 1, false), (.ld16u, 0x2010, 2, false), (.ld32u, 0x2020, 4, false),
      (.ld64, 0x2030, 8, false), (.ld8s, 0x2040, 1, true), (.ld16s, 0x2050, 2, true), (.ld32s, 0x2060, 4, true)],
  ∀ (c : CoreId) (w : Word) (s : State) (e : TlbEnt) (o : Nat),
    let C := s.core c
    let n := p.2.2.1
    let ea := (C.rg (w.extractLsb' 46 5) + (w.extractLsb' 0 32).signExtend 64).toNat
    let va := ea / n * n
    let pa := e.pa + (va - e.va)
    let v := leNat (s.rdMem pa n)
    s.CanIssue c w p.2.1 → s.Quiet c → C.tlb.find? (fun e => decide (e.va ≤ va) && decide (va < e.va + e.size)) = some e →
    e.r = true → s.place pa = .window c.toNat o → s.poisoned pa n = false →
    ∃ t, exec (p.1 c w) s = .next t ∧
      ScalarDone (if va = ea then s else s.setFld (COR_STATUS c.toNat) COR_STATUS.ALIGN_CLAMP 1) t c (w.extractLsb' 51 5)
        (if p.2.2.2 then (BitVec.ofNat (8 * n) v).signExtend 64 else BitVec.ofNat 64 v) (C.pc + 8)

/-- R170, R171: a matrix or stationary-control instruction that can issue enters its array's queue, and what may begin then does. With
nothing else of the core in flight it changes no memory and no other core. -/
def Obligations.ArrayIssue : Prop :=
  ∀ p ∈ arrayRows, ∀ (c : CoreId) (w : Word) (s : State), s.CanIssue c w p.key →
    ∃ u, exec (p.cmd c w) s = .next (u.pump c) ∧ Queued s u c w 0 0 0 ∧
      (s.Quiet c → (u.pump c).mem = s.mem ∧ ∀ d, d ≠ c → (u.pump c).core d = s.core d)

/-- R57, R60: a swap that leaves its queue, with nothing else of the core in flight and its array neither on loan, switching form nor taking a
shadow load, exchanges the active and the shadow set of the array its word names, and completes; no set is moved or copied. A second
swap of the array, with no shadow load since, makes the set active again that was active two swaps ago. -/
def Obligations.SwapResult : Prop :=
  ∀ (c : CoreId) (w : Word) (s : State),
    let a := w.toNat / 2 ^ 54 % 4
    let A := (s.core c).array a
    s.CanIssue c w 0x7010 → s.Quiet c → A.lent = false → A.switching = none → A.swapStall = false → A.load = none →
    ∃ t, exec (.swap c w) s = .next t ∧ ((t.core c).array a).act = A.shd ∧ ((t.core c).array a).shd = A.act ∧
      (∀ b, b < 3 → b ≠ a → (t.core c).array b = (s.core c).array b) ∧
      (t.core c).fl = [] ∧ (t.core c).pc = ((s.core c).pc + 8) % 2 ^ 64 ∧ (t.core c).g = (s.core c).g ∧ (t.core c).tiles = (s.core c).tiles ∧
      t.rd (COR_INSTRET c.toNat) = BitVec.ofNat 64 (((s.rd (COR_INSTRET c.toNat)).toNat + 1) % 2 ^ 48) ∧ t.mem = s.mem ∧
      (∀ v, t.CanIssue c v 0x7010 → v.toNat / 2 ^ 54 % 4 = a →
        ∃ u, exec (.swap c v) t = .next u ∧ ((u.core c).array a).act = A.act ∧ ((u.core c).array a).shd = A.shd)

/-- R178, R181, R185, R229: a DMAST that can issue enters the DMA queue with its tag, and with nothing else of the core in flight reads the
tag's status and completes. At issue CSRR reads a COR_ register; CSRW writes a COR_ register under its access types after it has completed;
HALT stops issue; FENCE, which issues once every earlier instruction has completed, does nothing else; each completes. A COR_VFLAGS access
is its CSRR or CSRW. -/
def Obligations.SystemResults : Prop :=
  ∀ (c : CoreId) (w : Word) (s : State),
    let C := s.core c
    let rd := w.extractLsb' 51 5
    let v := C.rg (w.extractLsb' 46 5)
    let csr := COR_ID c.toNat + w.toNat / 2 ^ 35 % 2 ^ 11 * 8
    (s.CanIssue c w 0x8010 →
      (∃ u : State, exec (.dmast c w) s = .next (u.pump c) ∧ Queued s u c w v 0 0) ∧
      (s.Quiet c → ∃ t : State, exec (.dmast c w) s = .next t ∧ ScalarDone s t c rd (s.dmaStatus v) (C.pc + 8))) ∧
    (s.CanIssue c w 0xF000 →
      ∃ t : State, exec (.csrr c w) s = .next t ∧ ScalarDone s t c rd (s.corRead c csr) (C.pc + 8)) ∧
    (s.CanIssue c w 0xF010 →
      ∃ u : State, exec (.csrw c w) s = .next (u.corWrite c csr v) ∧ ScalarDone s u c 0 0 (C.pc + 8)) ∧
    (csr = COR_VFLAGS c.toNat →
      (s.CanIssue c w 0xF000 → ∃ t : State, exec (.vflagsAccess c w) s = .next t ∧ ScalarDone s t c rd (s.rd csr) (C.pc + 8)) ∧
      (s.CanIssue c w 0xF010 → ∃ u : State, exec (.vflagsAccess c w) s = .next (u.plainWrite csr v) ∧ ScalarDone s u c 0 0 (C.pc + 8))) ∧
    (s.CanIssue c w 0xF090 → ∃ t : State, exec (.halt c w) s = .next t ∧
      ScalarDone (s.modCore c fun C => { C with run := .halting }) t c 0 0 (C.pc + 8)) ∧
    (s.CanIssue c w 0xF0A0 → ∃ t : State, exec (.fence c w) s = .next t ∧ ScalarDone s t c 0 0 (C.pc + 8))

/-- R131, R186, R188: an interrupt that a core whose clock runs accepts saves its program counter in COR_EPC, sets INHANDLER, saves
what the core waited for and goes to COR_IVEC; ERET goes back to COR_EPC, clears INHANDLER, takes up the saved wait and puts abandoned instructions back into their
queues, which then go on. Neither changes a g register or memory. -/
def Obligations.InterruptAndReturn : Prop :=
  ∀ (c : CoreId) (w : Word) (s : State),
    let C := s.core c
    (s.clocked c = true → s.canInterrupt c = true → C.parked = false →
      ∃ t : State, exec (.interruptAccept c) s = .next t ∧ t.rd (COR_EPC c.toNat) = BitVec.ofNat 64 (C.pc % 2 ^ 48) ∧ t.inHandler c = true ∧
        (t.core c).pc = (s.rd (COR_IVEC c.toNat)).toNat ∧ (t.core c).wait = none ∧ (t.core c).waitSaved = C.wait ∧
        (t.core c).ibuf = none ∧ (t.core c).g = C.g ∧ t.mem = s.mem ∧ ∀ d, d ≠ c → t.core d = s.core d) ∧
    (s.CanIssue c w 0xF080 →
      ∃ u : State, exec (.eret c w) s = .next (u.pump c) ∧ u.inHandler c = false ∧ (u.core c).pc = (s.rd (COR_EPC c.toNat)).toNat ∧
        (u.core c).wait = C.waitSaved ∧ (u.core c).waitSaved = none ∧
        (u.core c).fl = C.fl.map (fun f => if f.ph = .abandoned then { f with ph := .queued, ctl := s.mtxCtl c } else f) ∧
        (u.core c).g = C.g ∧ u.mem = s.mem ∧ ∀ d, d ≠ c → u.core d = s.core d)

/-- R178, R179, R180: a DMAQ whose earlier stores have completed, and a sync instruction, enter their queues with g[RA] and g[RB]
captured; from there on SWAIT waits for its slots and BARR, unless its N bit is 1, for its line; what may begin of the queues then
does. -/
def Obligations.SyncIssue : Prop :=
  ∀ (c : CoreId) (w : Word) (s : State),
    let C := s.core c
    let a := C.rg (w.extractLsb' 46 5)
    let b := C.rg (w.extractLsb' 41 5)
    let line : BitVec 6 := w.extractLsb' 10 6
    let enters (i : Instr) (key : Nat) (wait : Option CoreWait) : Prop :=
      s.CanIssue c w key → ∃ u : State, exec i s = .next (u.pump c) ∧ Queued (s.modCore c fun C => { C with wait := wait }) u c w a b 0
    (s.CanIssue c w 0x8000 →
      let al := BitVec.ofNat 64 (a.toNat / 64 * 64)
      ∃ u : State, exec (.dmaq c w) s = .next (u.pump c) ∧
        Queued (if al = a then s else s.setFld (COR_STATUS c.toNat) COR_STATUS.ALIGN_CLAMP 1) u c w al 0 0 (al != a)) ∧
    enters (.sadv c w) 0x9000 none ∧ enters (.sread c w) 0x9010 none ∧ enters (.swatch c w) 0x9020 none ∧
    enters (.scancel c w) 0x9030 none ∧ enters (.sfired c w) 0x9050 none ∧ enters (.bpoll c w) 0x9090 none ∧
    enters (.swait c w) 0x9040 (some (.swait (w.extractLsb' 16 16) (w.extractLsb' 51 5) (w.getLsbD 33))) ∧
    enters (.barr c w) 0x9080 (if w.getLsbD 8 then none else some (.barr line (w.getLsbD 9)))

/-- R179: with nothing else of the core in flight SREAD writes the value of object g[RA] to g[RD], SFIRED the 16 fired bits, and BPOLL
whether the core's latest arrival on its line has completed; SADV sends its advance of object g[RA] by g[RB] and moves on. -/
def Obligations.SyncResults : Prop :=
  ∀ (c : CoreId) (w : Word) (s : State),
    let C := s.core c
    let rd := w.extractLsb' 51 5
    let obj : ObjId := (C.rg (w.extractLsb' 46 5)).extractLsb' 0 18
    s.Quiet c →
    (s.CanIssue c w 0x9010 → ∃ t : State, exec (.sread c w) s = .next t ∧ ScalarDone s t c rd (s.objVal obj) (C.pc + 8)) ∧
    (s.CanIssue c w 0x9050 → ∃ t : State, exec (.sfired c w) s = .next t ∧ ScalarDone s t c rd (C.fired.zeroExtend 64) (C.pc + 8)) ∧
    (s.CanIssue c w 0x9090 → ∃ t : State, exec (.bpoll c w) s = .next t ∧
      ScalarDone s t c rd (if C.arrived.get (fun _ => true) (w.toNat / 2 ^ 10 % 64) then 1 else 0) (C.pc + 8)) ∧
    (s.CanIssue c w 0x9000 → ∃ t : State, exec (.sadv c w) s = .next t ∧
      t.sync = { s.sync with sent := s.sync.sent + 1, advs := s.sync.advs ++ [(s.sync.sent + 1, ⟨.core c, obj, C.rg (w.extractLsb' 41 5)⟩)] } ∧
      (t.core c).g = C.g ∧ (t.core c).pc = (C.pc + 8) % 2 ^ 64 ∧ t.mem = s.mem ∧ ∀ d, d ≠ c → t.core d = s.core d)

/-- R42, R56, R59, R66, R183: while the core's clock runs, the oldest operation of an array whose sums are formed writes its destination; a shadow load, a stalled swap
and a form switch in flight end, the shadow set becoming valid, the sets exchanging roles, the form changing with both sets invalid;
and what may begin of the core's queues then does. With no such instruction in flight each changes nothing. -/
def Obligations.ArrayEvents : Prop :=
  ∀ (c : CoreId) (a : BitVec 2) (s : State) (f : Flight),
    let C := s.core c
    let A := C.array a.toNat
    let ends (i : Instr) (X : ArrSt) : Prop :=
      ∃ u : State, exec i s = .next (u.pump c) ∧ (u.core c).array a.toNat = X ∧ (u.core c).fl = C.fl.filter (fun g => g.seq != f.seq) ∧
        (u.core c).g = C.g ∧ (u.core c).tiles = C.tiles ∧ u.mem = s.mem ∧ ∀ d, d ≠ c → u.core d = s.core d
    (s.clocked c = true → C.fl.find? (fun g => isMtx g.w && iarr g.w == a.toNat) = some f → f.ph = .summed → C.mayWrite f.seq (f.w.extractLsb' 49 5) = true →
      exec (.mtxWritePhase c a) s = .next ((s.mtxWrite c f).pump c)) ∧
    (s.running c a.toNat 0 = some f → ∀ x, A.load = some x → ends (.shadowLoadDone c a) { A with shd := some x, load := none }) ∧
    (s.running c a.toNat 1 = some f → A.load = none → ends (.swapTakesEffect c a) { A with act := A.shd, shd := A.act, swapStall := false }) ∧
    (s.running c a.toNat 2 = some f → ∀ m, A.switching = some m →
      ends (.formSwitchDone c a) { A with form := m, act := none, shd := none, switching := none }) ∧
    (C.fl = [] → ∀ i ∈ [Instr.mtxWritePhase c a, .shadowLoadDone c a, .swapTakesEffect c a, .formSwitchDone c a], exec i s = .next s)

/-- R42, R52, R71: the write phase of a matrix operation completes the instruction and counts it; its destination tile has the zero-row
mask of the shape written, every other tile keeps its own; no g register, no memory and no other core changes. -/
def Obligations.MatrixWrite : Prop :=
  ∀ (c : CoreId) (s : State) (f : Flight),
    let C := s.core c
    let sh := C.mtxShape f
    let td := f.w.extractLsb' 49 5
    let rb := (mtxDf f.w).rowBytes sh.N
    let t := s.mtxWrite c f
    (t.core c).fl = C.fl.filter (fun g => g.seq != f.seq) ∧ (t.core c).g = C.g ∧ t.mem = s.mem ∧ (∀ d, d ≠ c → t.core d = s.core d) ∧
    ((t.core c).zm td).rb = rb ∧ ((t.core c).zm td).rows = sh.m ∧
    (∀ r, r ≠ td → (t.core c).zm r = C.zm r) ∧
    t.rd (COR_INSTRET c.toNat) = BitVec.ofNat 64 (((s.rd (COR_INSTRET c.toNat)).toNat + 1) % 2 ^ 48)

/-- R71, R76, R82, R124: a tile access of tile `t` whose data has all moved ends: a store, or a load whose tile, for TLDT written now,
has its zero-row mask; the access is counted, its fault slot freed, and a load's predictions are checked. With none it changes
nothing. -/
def Obligations.TileAccessEnds : Prop :=
  ∀ (c : CoreId) (tl : BitVec 5) (s : State) (store : Bool),
    let C := s.core c
    let i : Instr := if store then .tileStoreComplete c tl else .tileLoadComplete c tl
    let fit (f : Flight) : Bool := iclass f.w == 3 && isStore f.w == store && f.w.extractLsb' 51 5 == tl && f.ph == .run && f.complete
    ((∀ f ∈ C.fl, fit f = false) → exec i s = .next s) ∧
    (∀ f, C.fl = [f] → fit f = true → f.slot = none → (∀ a : Nat, (C.array a).seedWait = []) → C.wait = none → s.clocked c = true →
      ∃ t, exec i s = .next t ∧
        t.core c = { (if store then C else (if iop f.w = 1 then C.landTransposed f else C).maskLoaded f) with fl := [] } ∧
        t.mem = s.mem ∧ (∀ d, d ≠ c → t.core d = s.core d) ∧
        (∀ n ∈ [COR_INSTRET c.toNat, if store then COR_TILE_STORES c.toNat else COR_TILE_LOADS c.toNat],
          t.rd n = BitVec.ofNat 64 (((s.rd n).toNat + 1) % 2 ^ 48)))

/-- R153, R154, R157: the instruction at the head of the vector queue ends its write phase and leaves the flights. A mask instruction's
result is the bitwise operation of its sources, the bits below g[RS], the count or the lowest index. -/
def Obligations.VectorEnds : Prop :=
  ∀ (c : CoreId) (s : State) (f : Flight),
    let C := s.core c
    let w := f.w
    let a := C.mask (w.extractLsb' 43 3)
    let b := C.mask (w.extractLsb' 38 3)
    let md : BitVec 3 := w.extractLsb' 48 3
    let rd : BitVec 5 := w.extractLsb' 48 5
    let u := s.vecFinish c f
    C.fl.find? (fun g => unitOf g.w == .vec && !g.gone) = some f →
    (tileReads w).all (C.mayRead f.seq) = true → (tileWrites w).all (C.mayWrite f.seq) = true →
    C.masksOk f.seq w = true → C.scalesOk f.seq w = true → s.clocked c = true →
    exec (.vecInsnComplete c) s = .next (u.pump c) ∧
    (u.core c).fl = C.fl.filter (fun g => g.seq != f.seq) ∧ u.mem = s.mem ∧ (∀ d, d ≠ c → u.core d = s.core d) ∧
    u.rd (COR_INSTRET c.toNat) = BitVec.ofNat 64 (((s.rd (COR_INSTRET c.toNat)).toNat + 1) % 2 ^ 48) ∧
    (ikey w = 0x6080 → (u.core c).mask md = a &&& b) ∧ (ikey w = 0x6090 → (u.core c).mask md = a ||| b) ∧
    (ikey w = 0x60A0 → (u.core c).mask md = a ^^^ b) ∧ (ikey w = 0x60B0 → (u.core c).mask md = a &&& ~~~b) ∧
    (ikey w = 0x60C0 → (u.core c).mask md = ~~~a) ∧
    (ikey w = 0x60D0 → ∀ i, i < 4096 → ((u.core c).mask md).getLsbD i = decide (i < f.a.toNat)) ∧
    (ikey w = 0x60E0 → rd ≠ 0 → (u.core c).rg rd = BitVec.ofNat 64 ((List.range 4096).countP fun i => a.getLsbD i)) ∧
    (ikey w = 0x60F0 → rd ≠ 0 → ∀ i, i < 4096 → a.getLsbD i = true → (∀ j, j < i → a.getLsbD j = false) →
      (u.core c).rg rd = BitVec.ofNat 64 i) ∧
    (ikey w = 0x60F0 → rd ≠ 0 → a = 0 → (u.core c).rg rd = 4096)

/-- R184, R185: a core whose HALT has issued and that has nothing in flight is halted. A running core that has no word at issue fetches
the doubleword at its program counter through a page its translation buffer holds with X: from its cache, else it asks for the
line, once. -/
def Obligations.FetchAndHalt : Prop :=
  ∀ (c : CoreId) (s : State),
    let C := s.core c
    (s.clocked c = true → C.run = .halting → C.fl = [] → exec (.programHalted c) s = .next (s.modCore c fun C => { C with run := .halted })) ∧
    (¬ (s.clocked c = true ∧ C.run = .halting ∧ C.fl = []) → exec (.programHalted c) s = .next s) ∧
    (∀ e : TlbEnt, s.clocked c = true → C.run = .running → C.ibuf = none → C.fetchHeld = false → C.parked = false → C.fetchGot = none →
      C.tlb.find? (fun e => decide (e.va ≤ C.pc) && decide (C.pc < e.va + e.size)) = some e → e.x = true →
      let pa := e.pa + (C.pc - e.va)
      s.fetchOk c pa = true →
      (∀ l, C.cached (pa / 256 * 256) = some l → linePoison l.poison (pa % 256) 8 = false →
        exec (.fetchResponse c) s = .next ((s.bump (COR_CACHE_HIT c.toNat)).modCore c fun C =>
          { C.touch l with ibuf := some (BitVec.ofNat 64 (leNat ((l.data.drop (pa % 256)).take 8))), fetchGot := none })) ∧
      (C.cached (pa / 256 * 256) = none → C.fetchWant ≠ some (pa / 256 * 256) →
        exec (.fetchResponse c) s = .next ((s.bump (COR_CACHE_MISS c.toNat)).modCore c fun C =>
          { C with fetchWant := some (pa / 256 * 256) })))

/-- R128, R130, R135, R184, R186, R189, R285: RESUME of a fault slot that holds a fault which is not fatal restarts its instruction; ABORT of one
stops the program with the FAULT cause and the slot; RESUME of a held fetch lets it go on and ABORT stops the program with the
FETCH cause; FW_IRQ_RAISE makes the firmware interrupt pending of a core that is clocked and not parked and whose crossing is empty, and at a
fenced core is only counted (R285). -/
def Obligations.FaultCommands : Prop :=
  ∀ (c : CoreId) (slot : BitVec 2) (s : State),
    let n := c.toNat
    let C := s.core c
    let info := s.rd (COR_TFAULT_INFO n slot.toNat)
    let stops (i : Instr) (cause sl fc pc : Nat) : Prop :=
      ∃ t, exec i s = .next t ∧ (t.core c).run = .stopped ∧ (t.core c).fl = [] ∧ (t.core c).g = C.g ∧ t.mem = s.mem ∧
        COR_EXC.VALID.get (t.rd (COR_EXC n)) = 1 ∧ COR_EXC.FATAL.get (t.rd (COR_EXC n)) = 1 ∧
        COR_EXC.CAUSE.get (t.rd (COR_EXC n)) = cause ∧ COR_EXC.SLOT.get (t.rd (COR_EXC n)) = sl ∧
        COR_EXC.FCAUSE.get (t.rd (COR_EXC n)) = fc % 16 ∧
        t.rd (COR_EXC_PC n) = BitVec.ofNat 64 (pc % 2 ^ 48)
    (COR_TFAULT_INFO.VALID.get info = 1 → COR_TFAULT_INFO.FATAL.get info = 0 →
      exec (.tfaultResume c slot) s = .next ((s.restart c slot).pump c) ∧
      (C.run = .running → stops (.tfaultAbort c slot) 2 slot.toNat 0 (s.rd (COR_TFAULT_PC n slot.toNat)).toNat)) ∧
    (¬ (COR_TFAULT_INFO.VALID.get info = 1 ∧ COR_TFAULT_INFO.FATAL.get info = 0) →
      exec (.tfaultResume c slot) s = .next s ∧ exec (.tfaultAbort c slot) s = .next s) ∧
    exec (.excResume c) s = .next (s.modCore c fun C => { C with fetchHeld := false }) ∧
    (C.fetchHeld = true → C.run = .running →
      stops (.excAbort c) 3 0 cNotPresent.toNat (s.rd (COR_EXC_PC n)).toNat) ∧
    (C.fetchHeld = false → exec (.excAbort c) s = .next s) ∧
    (s.fenced c = false → s.clocked c = true → C.parked = false → C.inq = [] → ∃ t, exec (.fwIrqRaise c) s = .next t ∧
      COR_IPEND.FW.get (t.rd (COR_IPEND n)) = 1 ∧ t.mem = s.mem ∧ ∀ d, t.core d = s.core d) ∧
    (s.fenced c = true → ∃ t, exec (.fwIrqRaise c) s = .next t ∧ t.rd (COR_IPEND n) = s.rd (COR_IPEND n) ∧ t.mem = s.mem ∧
      (∀ d, t.core d = s.core d) ∧ t.rd (NOC_RT_FENCED (n / 256) (n % 256)) =
        BitVec.ofNat 64 (((s.rd (NOC_RT_FENCED (n / 256) (n % 256))).toNat + 1) % 2 ^ 48))

/-- R55, R75, R93, R94, R177, R196: a write of an array's seed with nothing in flight sets its LFSR, 0 stored as 1; a write of the conversion
seed with no conversion in flight sets that LFSR; PRED_FLUSH clears every predictor counter; INV empties the cache; a write of
COR_HST_TAG and FLUSH fold the live histogram into the record of the tag in force and clear it, and stall, in order, while an earlier
fold waits for the bank, which accepts it. -/
def Obligations.CoreRegisterWrites : Prop :=
  ∀ (c : CoreId) (s : State),
    let n := c.toNat
    let C := s.core c
    let stored (v : BitVec 32) : Word := if v = 0 then 1 else v.zeroExtend 64
    (∀ (a : BitVec 2) (v : BitVec 32), a.toNat < 3 → C.fl = [] → (∀ b : Nat, (C.array b).seedWait = []) → (C.array a.toNat).lent = false →
      C.wait = none → s.clocked c = true → s.recording = false →
      ∃ t, exec (.mtxSeedWrite c a v) s = .next t ∧ t.rd (COR_MTX_SEED n a.toNat) = stored v ∧
        (∀ r, r ≠ COR_MTX_SEED n a.toNat → t.rd r = s.rd r) ∧ t.core c = C ∧ t.mem = s.mem ∧ ∀ d, d ≠ c → t.core d = s.core d) ∧
    (∀ v : BitVec 32, C.fl = [] → s.recording = false → exec (.cvtSeedWrite c v) s = .next (s.wr (COR_CVT_SEED n) (stored v))) ∧
    exec (.predFlush c) s = .next (s.modCore c fun C => { C with pred := [] }) ∧
    exec (.corMemInv c) s = .next (s.modCore c fun C => { C with cache := [] }) ∧
    (C.fold = none → ∀ tag : BitVec 16,
      (∃ t, exec (.hstTagWrite c tag) s = .next t ∧ (t.core c).hist = [] ∧ COR_HST_TAG.TAG.get (t.rd (COR_HST_TAG n)) = tag.toNat ∧
        t.mem = s.mem) ∧
      (∃ t, exec (.hstFlush c) s = .next t ∧ (t.core c).hist = [] ∧ t.rd (COR_HST_TAG n) = s.rd (COR_HST_TAG n) ∧ t.mem = s.mem)) ∧
    (C.fold ≠ none → ∀ tag : BitVec 16,
      exec (.hstTagWrite c tag) s = .next (s.modCore c fun C => { C with foldWait := C.foldWait ++ [some tag] }) ∧
      exec (.hstFlush c) s = .next (s.modCore c fun C => { C with foldWait := C.foldWait ++ [none] })) ∧
    (∀ tag h, C.fold = some (tag, h) → C.foldWait = [] →
      ∃ t, exec (.hstFoldAccepted c) s = .next t ∧ t.mem = (s.foldInto c tag h).mem ∧ (t.core c).fold = none ∧
        COR_HST_STATUS.FLUSH_BUSY.get (t.rd (COR_HST_STATUS n)) = 0) ∧
    (C.fold = none → exec (.hstFoldAccepted c) s = .next s)

/-- R78, R135, R160, R196, R260, R290, R315, R344, R374, R379, R395, R418, R456, R465, R500: a CNT_CLR sets the counters of its block to 0,
every other register and all else staying: of the matrix arrays, the tile path, the vector engine, the cache, the sorter, the DMA engine
(LOW of MEM_TAG_STATUS starting again at the tags free now), the arbiters, a sync slice, an update engine, the fabric, the twin, power, the
command interface, the mailboxes and the error counters. NOC_CTL.CNT_CLR clears NOC_RED_ROUNDS and puts every router counter of its die back
to its reset value. -/
def Obligations.CountersClear : Prop :=
  ∀ (c : CoreId) (k : ClusterId) (d : DieId) (r : RegionId) (s : State),
    let clears (i : Instr) (l : List Nat) : Prop :=
      ∃ t, exec i s = .next t ∧ (∀ a ∈ l, t.rd a = 0) ∧ (∀ a, a ∉ l → t.rd a = s.rd a) ∧ t = { s with regs := t.regs }
    let n := c.toNat
    clears (.corMtxCntClr c) [COR_MTX_OPS n 0, COR_MTX_OPS n 1, COR_MTX_OPS n 2, COR_MTX_SWAPSTALL n, COR_MTX_FORMSW n, COR_SPR_SKIP n,
      COR_SPR_REISSUE n, COR_SPR_MISSED n, COR_SPR_ROWSKIP n] ∧
    clears (.corTileCntClr c) [COR_TILE_LOADS n, COR_TILE_STORES n, COR_TILE_RESTARTS n, COR_TILE_IRQRST n, COR_TILE_CLAMPS n] ∧
    clears (.corVecCntClr c) [COR_VEC_OPS n, COR_VEC_BEATS n, COR_VEC_SLOTWAIT n] ∧
    clears (.corMemCntClr c) [COR_CACHE_HIT n, COR_CACHE_MISS n, COR_UNCACHED n] ∧
    clears (.cluSortCntClr k) [CLU_SORT_REQ k.toNat, CLU_SORT_MERGED k.toNat, CLU_SORT_ROWHIT k.toNat] ∧
    (∃ t, exec (.memDmaCntClr d) s = .next t ∧ t.rd (MEM_TAG_WAIT d.toNat) = 0 ∧ t.rd (MEM_CHQ_HELD d.toNat) = 0 ∧
      t.fld (MEM_TAG_STATUS d.toNat) MEM_TAG_STATUS.LOW = s.tagsFree d % 2 ^ MEM_TAG_STATUS.LOW.len ∧
      (∀ a, a ∉ [MEM_TAG_WAIT d.toNat, MEM_CHQ_HELD d.toNat, MEM_TAG_STATUS d.toNat] → t.rd a = s.rd a) ∧ t = { s with regs := t.regs }) ∧
    clears (.arbCntClr d) [ARB_STARVE_CNT d.toNat] ∧
    (∃ t, exec (.nocCntClr d) s = .next t ∧ t.rd (NOC_RED_ROUNDS d.toNat) = 0 ∧
      (∀ x, x < 0x10000 → 0x40 ≤ x % 0x100 → t.rd (NOC_RT_CTL d.toNat 0 + x) = regReset (NOC_RT_CTL d.toNat 0 + x)) ∧
      (∀ x, x < 0x10000 → x % 0x100 < 0x40 → t.rd (NOC_RT_CTL d.toNat 0 + x) = s.rd (NOC_RT_CTL d.toNat 0 + x)) ∧ t = { s with regs := t.regs }) ∧
    clears (.synCntClr k) [SYN_ADV_CNT k.toNat, SYN_HELD_CNT k.toNat, SYN_FIRE_CNT k.toNat, SYN_RETRY_CNT k.toNat] ∧
    clears (.updCntClr r) [UPD_ELEMS_A r.toNat, UPD_ELEMS_B r.toNat, UPD_MASKED r.toNat, UPD_LAYERS r.toNat, UPD_NONFIN r.toNat] ∧
    clears .fabCntClr ([FAB_DUP, FAB_LATE, FAB_BACKUP, FAB_SHADOWLOSE, FAB_FOREIGN, FAB_TIMEOUT] ++
      (List.range 4).flatMap fun d => (List.range 6).flatMap fun p => [FAB_TXF d p, FAB_RXF d p, FAB_RETX d p, FAB_FCSERR d p, FAB_NAK d p]) ∧
    clears .twnCntClr ([TWN_BONDS, TWN_LOSSES, TWN_MIR_TX, TWN_MIR_RX, TWN_MIR_POISON, TWN_BAR_SOLO, TWN_FOREIGN] ++
      (List.range 4).flatMap fun d => [TWN_TXF d, TWN_RXF d, TWN_RETX d]) ∧
    clears .pwrCntClr ([PWR_ENERGY, PWR_FASTLIM_CNT, PWR_LEND_CNT, PWR_TICKS] ++ (List.range 4).map PWR_TRIP_CNT ++
      (List.range 16).flatMap fun r => [PWR_THROT_CNT r, PWR_OVER r, PWR_DVFS_CNT r]) ∧
    clears .cmdCntClr (MOD_BIASFLIP :: (List.range 64).map CMD_CLAMP_CNT) ∧
    clears (.mbxCntClr false) [MBX_REJECTS, MBX_ABORTS] ∧ clears (.mbxCntClr true) [] ∧
    clears .modErrCntClr [ MOD_CE_CSRAM, MOD_CE_BSRAM, MOD_CE_DRAM, MOD_UE_CSRAM, MOD_UE_BSRAM, MOD_UE_DRAM, MOD_D2D_RETRY, MOD_LINK_RETRY,
      MOD_LOG_LOST]

/-! ### Lines, DMA, memory, stream rings -/

/-- R241 to R248, R258: the line a clocked core asks for next takes a miss register and joins or opens an entry of its cluster's sorter; at
the target's quota it is parked; with no parking entry or no miss register it stalls and asks for nothing. A request whose age has run
out is its queue's next. A response to an entry that was sent and let in, whose tier has the tokens and whose cores take it, reaches every
core the read serves. -/
def Obligations.LineRequests : Prop :=
  ∀ (c : CoreId) (k : ClusterId) (line : BitVec 52) (draws : List Draw) (s : State),
    let C := s.core c
    let kc := clusterOf c
    let quota := s.fld (CLU_SORT_CTL kc.toNat) CLU_SORT_CTL.QUOTA
    let l := line.toNat
    (exec (.lineRequest c draws) s = .next (((s.lineRequest c).sendFree kc).runDraws draws)) ∧
    ((C.wanted = none ∨ s.clocked c = false) → exec (.lineRequest c []) s = .next (s.sendFree kc)) ∧
    (∀ x, C.wanted = some x → s.clocked c = true →
      (quota ≤ s.heldAgainst c (s.targetOf x) → C.miss.length < 48 → C.park.length < 32 →
        exec (.lineRequest c []) s = .next ((((s.modCore c fun C => { C with park := C.park ++ [x] }).bump (COR_MISS_PARK c.toNat)).bump
          (CLU_SORT_REQ kc.toNat)).sendFree kc)) ∧
      (quota ≤ s.heldAgainst c (s.targetOf x) → 32 ≤ C.park.length → exec (.lineRequest c []) s = .next (s.sendFree kc)) ∧
      (48 ≤ C.miss.length → exec (.lineRequest c []) s = .next (s.sendFree kc)) ∧
      (s.heldAgainst c (s.targetOf x) < quota → C.miss.length < 48 →
        ∃ t : State, exec (.lineRequest c []) s = .next (t.sendFree kc) ∧ t.core c = { C with miss := C.miss ++ [x] } ∧ (∀ d, d ≠ c → t.core d = s.core d) ∧
          (∃ e ∈ (t.sorter kc).entries, e.line = x ∧ c ∈ e.cores) ∧ t.mem = s.mem ∧
          t.rd (CLU_SORT_REQ kc.toNat) = BitVec.ofNat 64 (((s.rd (CLU_SORT_REQ kc.toNat)).toNat + 1) % 2 ^ 48))) ∧
    (s.sendFree k).mem = s.mem ∧ (∀ d, (s.sendFree k).core d = s.core d) ∧
    ((∀ e ∈ (s.sorter k).entries, e.line = l → e.sent = true) →
      ∃ t : State, exec (.sorterAgeExpire k line) s = .next (t.sendFree k) ∧ t.sorter k = s.sorter k ∧ t = { s with sorters := t.sorters }) ∧
    (∀ a b e, (s.sorter k).entries = a ++ e :: b → e.line = l → e.sent = false → (∀ x ∈ a, x.line = l → x.sent = true) →
      ∃ t : State, exec (.sorterAgeExpire k line) s = .next (t.sendFree k) ∧ t = { s with sorters := t.sorters } ∧
        (t.sorter k).entries = a ++ { e with aged := true } :: b ∧
        ((∀ x ∈ a, x.target = e.target → x.sent = false → x.aged = false) → t.nextLine k e.target = some l)) ∧
    (let s0 := (s.sendFree k).runDraws draws
     let got := s0.lineAt l
     ((∀ e ∈ (s0.sorter k).entries, e.line = l → s0.mayRespond e got = false) → exec (.lineResponse k line draws) s = .next s0) ∧
     (∀ a b e, (s0.sorter k).entries = a ++ e :: b → e.line = l → s0.mayRespond e got = true →
       (∀ x ∈ a, x.line = l → s0.mayRespond x got = false) →
       let s1 := (s0.setSorter k { s0.sorter k with entries := a ++ b }).respond l e.cores
       exec (.lineResponse k line draws) s = .next ((e.cores.foldl (fun u d => u.eject d (.line got)) s1).sendFree k).mapsDone)) ∧
    (∀ got, s.clocked c = true → C.parked = false → C.inq = [] →
      s.eject c (.line got) = ((s.deliver c got).unpark c (s.targetOf got.addr)).pump c)

/-- R258: a ticket or class write sets its register under its access types; a seed write sets the instance's LFSR, 0 stored as 1; an index
past the tables or the 277 instances names nothing. -/
def Obligations.ArbiterWrites : Prop :=
  ∀ (d : DieId) (tb : BitVec 3) (slot : BitVec 9) (i : BitVec 9) (w : Word) (v : BitVec 32) (s : State),
    (tb.toNat < 5 → exec (.arbTicketWrite d tb slot w) s = .next (s.plainWrite (ARB_TKT d.toNat tb.toNat slot.toNat) w)) ∧
    (5 ≤ tb.toNat → exec (.arbTicketWrite d tb slot w) s = .next s) ∧
    (i.toNat < 277 → s.recording = false →
      exec (.arbSeedWrite d i v) s = .next (s.wr (ARB_SEED d.toNat i.toNat) (if v = 0 then 1 else v.zeroExtend 64))) ∧
    (277 ≤ i.toNat → exec (.arbSeedWrite d i v) s = .next s)

/-- R226 to R229, R250, R251: a command's DMA that alone asks is drawn, of several the first of the highest class, and takes the free tag as
its handle, its generation one on; with no tag free it waits, and each DMAQ that waits is counted once. A block in flight of a running
DMA moves, blocks of overlapping ranges and COPY2D rows only in order. A DMA whose blocks have all moved completes once no reduction round
and no multicast acknowledgement is outstanding. -/
def Obligations.DmaEvents : Prop :=
  ∀ (d : DieId) (tag : BitVec 13) (i : BitVec 8) (draws : List Draw) (m : DmaSt) (s : State),
    let D := s.die d
    let ready (j : Nat) := (s.core (BitVec.ofNat 10 (d.toNat * 256 + j))).dmaqReady
    let noCore := ∀ j, j < 256 → ready j = none
    (noCore → D.dmaWait = [] → exec (.dmaAccept d tag) s = .next s) ∧
    (noCore → D.dmaWait ≠ [] → s.tagsFree d = 0 → exec (.dmaAccept d tag) s = .next s) ∧
    (∀ j f, j < 256 → ready j = some f → (∀ x, x < 256 → x ≠ j → ready x = none) → s.tagsFree d = 0 →
      (f.tagWait = true → exec (.dmaAccept d tag) s = .next s) ∧
      (f.tagWait = false → exec (.dmaAccept d tag) s =
        .next ((s.modFlight (BitVec.ofNat 10 (d.toNat * 256 + j)) f.seq fun f => { f with tagWait := true }).bump (MEM_TAG_WAIT d.toNat)))) ∧
    (noCore → ∀ a b, D.dmaWait = a ++ m :: b → (∀ x ∈ a, x.cls < m.cls) → (∀ x ∈ b, x.cls ≤ m.cls) →
      s.tagsFree d ≠ 0 → D.dmas.any (fun x => x.tag == tag.toNat && x.busy) = false →
        exec (.dmaAccept d tag) s =
          .next ((((s.draw ⟨d, 272, [(256, m.cls)]⟩).1).modDie d fun D => { D with dmaWait := a ++ b }).acceptDma d tag.toNat m)) ∧
    (let s0 := s.runDraws draws
     (s0.dmaOf d tag.toNat = none → exec (.dmaBlockDone d tag i draws) s = .next s0) ∧
     (s0.dmaOf d tag.toNat = some m →
      (∀ b, m.blks[i.toNat]? = some b → m.ph = .running → (m.overlap = true ∨ m.op = 3 → i = 0) →
        exec (.dmaBlockDone d tag i draws) s = .next (s0.dmaBlock d m b).mapsDone) ∧
      (m.overlap = true ∨ m.op = 3 → i ≠ 0 → exec (.dmaBlockDone d tag i draws) s = .next s0))) ∧
    (s.dmaOf d tag.toNat = none → exec (.dmaComplete d tag) s = .next s) ∧
    (s.dmaOf d tag.toNat = some m →
      (m.ph = .settling → m.rounds = [] → m.mcWait = 0 → exec (.dmaComplete d tag) s = .next (s.dmaVisible d m)) ∧
      (m.ph ≠ .settling → exec (.dmaComplete d tag) s = .next s))

/-- R237: firmware services the oldest NOT_PRESENT fault of a die: an access whose page is mapped by now goes on; one in a range mapped
on demand is mapped and goes on; any other ends. -/
def Obligations.FaultService : Prop :=
  ∀ (d : DieId) (x : FaultOf) (va : Nat) (rest : List (FaultOf × Nat)) (s : State),
    let s1 := s.modDie d fun D => { D with faults := rest }
    ((s.die d).faults = [] → exec (.faultReportService d) s = .next s) ∧
    ((s.die d).faults = (x, va) :: rest →
      (s1.mapped d va = true → exec (.faultReportService d) s = .next (s1.retryFault d x)) ∧
      (s1.mapped d va = false → (∀ u, s1.demandMap va = some u →
        exec (.faultReportService d) s = .next ((u.dropXlate (va / 4096 * 4096) 4096).retryFault d x))) ∧
      (s1.mapped d va = false → s1.demandMap va = none → exec (.faultReportService d) s = .next (s1.abortFault d x)))

/-- R210, R213, R221, R230, R233: with no step open a region-table register takes its written word at once, LIMIT at least BASE; while one is
open the word is held and reads back, and the write of MEM_STEP that closes it applies what is held; overlapping valid entries then set OVERLAP. A
write packet within one line writes exactly its bytes and is acknowledged. With no log ring the patrol scrubber leaves memory as it is, and it
poisons a codeword with two symbols in error. -/
def Obligations.MemoryEvents : Prop :=
  ∀ (d : DieId) (n : BitVec 6) (limit : Bool) (v : Word) (a : BitVec 52) (data : List Byte) (who : BitVec 32) (sym : BitVec 6) (s : State),
    let r := if limit then MEM_RGN_LIMIT d.toNat n.toNat else MEM_RGN_BASE d.toNat n.toNat
    let clash (t : State) : Prop := spansOverlap (t.rgnSpans d) = true → MEM_RGN_STATUS.OVERLAP.get (t.rd (MEM_RGN_STATUS d.toNat)) = 1
    (s.openOn d = false → ∃ t, exec (.rgnEntryWrite d n limit v) s = .next t ∧ t.rd r = s.rgnWord r n.toNat limit d v ∧ clash t ∧
      (∀ x, x ≠ r → x ≠ MEM_RGN_STATUS d.toNat → t.rd x = s.rd x) ∧ t = { s with regs := t.regs }) ∧
    (s.openOn d = true → ∃ t, exec (.rgnEntryWrite d n limit v) s = .next t ∧
      (r, s.rgnWord r n.toNat limit d v) ∈ (t.die d).rgnHeld ∧ t.rgnRead d r = s.rgnWord r n.toNat limit d v ∧
      MEM_RGN_STATUS.HELD.get (t.rd (MEM_RGN_STATUS d.toNat)) = 1 ∧ ∀ x, x ≠ MEM_RGN_STATUS d.toNat → t.rd x = s.rd x) ∧
    (MEM_STEP.OPEN.get v = 1 → exec (.memStepWrite d v) s = .next (s.plainWrite (MEM_STEP d.toNat) v)) ∧
    (MEM_STEP.OPEN.get v = 0 → ∃ t, exec (.memStepWrite d v) s = .next t ∧ (t.die d).rgnHeld = [] ∧
      ((s.die d).rgnHeld ≠ [] → MEM_RGN_STATUS.HELD.get (t.rd (MEM_RGN_STATUS d.toNat)) = 0 ∧ clash t) ∧
      (∀ w, (s.die d).rgnHeld = [(r, w)] → t.rd r = w) ∧ t.mem = s.mem) ∧
    (let e := s.writerEp who.toNat a.toNat
     let e' := s.tierEp a.toNat
     let u := (s.send e e' (writeFlits data.length)).wrMem a.toNat data
     data ≠ [] → a.toNat % 256 + data.length ≤ 256 → s.dmaPlace a.toNat data.length = true → s.heldForRead a.toNat = false →
      (e.atStop e' = true ∨ s.paced e (writeFlits data.length) = false) →
      exec (.writePacket a data who) s = .next ((u.received a.toNat who.toNat).ctrl e' e) ∧ u.rdMem a.toNat data.length = data ∧
      ∀ x, x < a.toNat ∨ a.toNat + data.length ≤ x → u.mem.get memZero x = s.mem.get memZero x) ∧
    (data = [] ∨ 256 < a.toNat % 256 + data.length → exec (.writePacket a data who) s = .next s) ∧
    (let pa := a.toNat / 16 * 16
     let tier := (s.tierOf pa).1
     exec (.patrolScrub a 0 sym) s = .next s ∧
     (tier ≠ 0 → tier ≠ 5 → s.bit MOD_LOG_BASE MOD_LOG_BASE.EN = false → (∃ t, exec (.patrolScrub a 2 sym) s = .next t ∧ t.poisoned pa 16 = true ∧ t.mem = s.mem) ∧
       (∃ t, exec (.patrolScrub a 1 sym) s = .next t ∧ t.poison = s.poison ∧ t.mem = s.mem)))

/-- R217 to R224: enabling a ring that is off sets EN and POS and, where its slots lie in SPILL bonded SRAM, samples its two objects and
starts it; disabling one with no block in flight stops it, and one with blocks once they are written. A block in flight goes on: it is read
and written into its slot; between a begin notice and its end notice its read does not begin. A notice under way that no earlier one of its
DMA precedes reaches its stream engine. -/
def Obligations.StreamEvents : Prop :=
  ∀ (d : DieId) (n : BitVec 3) (x : BlockStep) (k : BitVec 16) (s : State),
    let r := s.ring d n.toNat
    let on := ((s.setFld (STM_RING_CTL d.toNat n.toNat) STM_RING_CTL.EN 1).ringFix d n.toNat).wr (STM_RING_POS d.toNat n.toNat) 0
    let fits := (on.ringDies d n.toNat).all fun e =>
      on.spillBonded d (on.ringBase d n.toNat e) (on.ringS d n.toNat * on.ringSize d n.toNat)
    (r.running = true → exec (.ringEnable d n) s = .next s) ∧
    (r.running = false → fits = false → exec (.ringEnable d n) s = .next (on.ringErr d n.toNat)) ∧
    (r.running = false → fits = true → exec (.ringEnable d n) s =
      .next (((on.setRing d n.toNat { running := true, p0 := on.objVal (on.ringP d n.toNat), r0 := on.objVal (on.ringR d n.toNat) }).modDie d
        fun D => { D with copies := D.copies.filter fun c => c.ring != n.toNat }).ringGo d n.toNat ringFuel)) ∧
    (r.running = false → exec (.ringDisable d n) s = .next s) ∧
    (r.running = true → r.blks = [] → exec (.ringDisable d n) s = .next (s.ringStopped d n.toNat)) ∧
    (r.running = true → r.blks ≠ [] → exec (.ringDisable d n) s = .next (s.setRing d n.toNat { r with stopping := true })) ∧
    (let s1 := (if r.blks = [] then s.ringGo d n.toNat ringFuel else s).runDraws x.draws
     ((s1.ring d n.toNat).blks[x.i.toNat]? = none → exec (.streamBlockWritten d n x) s = .next s1) ∧
     (∀ b, (s1.ring d n.toNat).blks[x.i.toNat]? = some b →
       exec (.streamBlockWritten d n x) s = .next (s1.ringStep d n.toNat b).mapsDone ∧
       ((s1.die d).begun.contains b.pa = true → b.read = false → (∀ l ∈ (s1.die d).lines, l.blk ≠ b.id) →
         exec (.streamBlockWritten d n x) s = .next (s1.pumpLines d).mapsDone))) ∧
    (s.noc.notices[k.toNat]? = none → exec (.lateNoticeReceive k) s = .next s) ∧
    (∀ x, s.noc.notices[k.toNat]? = some x →
      (s.noticeBehind k.toNat x = true → exec (.lateNoticeReceive k) s = .next s) ∧
      (s.noticeBehind k.toNat x = false → exec (.lateNoticeReceive k) s =
        .next ({ s with noc := { s.noc with notices := s.noc.notices.eraseIdx k.toNat } }.noticed x) ∧
        (x.kind = 0 → ∃ t, exec (.lateNoticeReceive k) s = .next t ∧ x.block ∈ (t.die x.d).begun ∧ t.mem = s.mem)))

/-! ### The mesh -/

/-- R276, R277, R278, R283, R285, R291: a packet, entry or notice under way leaves the mesh and is taken in: a reduction packet by its
router, a combining entry whose HOLD has passed by the next one, one of a sum at its endpoint by its line; a round-done notice takes the
round off the DMAs that settle. -/
def Obligations.ReductionEvents : Prop :=
  ∀ (n : BitVec 16) (r : CoreId) (i : BitVec 6) (s : State),
    let es := s.noc.comb.get (fun _ => []) r.toNat
    (∀ p, s.noc.reds[n.toNat]? = some p → exec (.reductionPacketArrive n) s =
      .next ({ s with noc := { s.noc with reds := s.noc.reds.eraseIdx n.toNat } }.redArrive p)) ∧
    (∀ e, es[i.toNat]? = some e → exec (.combineHoldExpire r i) s =
      .next ({ s with noc := { s.noc with comb := s.noc.comb.set (fun _ => []) r.toNat (es.eraseIdx i.toNat) } }.redForward e)) ∧
    (∀ p, s.noc.atEnd[n.toNat]? = some p →
      (p.kind = .sum → exec (.reductionEndpointWrite n) s =
        .next ({ s with noc := { s.noc with atEnd := s.noc.atEnd.eraseIdx n.toNat } }.redEnd p).mapsDone) ∧
      (p.kind ≠ .sum → exec (.reductionEndpointWrite n) s = .next s)) ∧
    (∀ d id, s.noc.done[n.toNat]? = some (d, id) → ∃ t, exec (.roundDoneNotice n) s = .next t ∧
      t.noc = { s.noc with done := s.noc.done.eraseIdx n.toNat } ∧
      (t.die d).dmas = (s.die d).dmas.map (fun m => if m.ph = .settling then { m with rounds := m.rounds.erase id } else m) ∧
      t.mem = s.mem ∧ ∀ c, t.core c = s.core c) ∧
    (s.noc.reds[n.toNat]? = none → exec (.reductionPacketArrive n) s = .next s) ∧
    (es[i.toNat]? = none → exec (.combineHoldExpire r i) s = .next s) ∧
    (s.noc.atEnd[n.toNat]? = none → exec (.reductionEndpointWrite n) s = .next s) ∧
    (s.noc.done[n.toNat]? = none → exec (.roundDoneNotice n) s = .next s)

/-- R267, R283, R285, R291: a multicast line that reaches a core, no earlier one from its router still to reach it, writes its bytes at its
offset of that core's scratch and is acknowledged; a fenced core's router acknowledges without a write, delivered-fenced; an offset past the
scratch is acknowledged NOMEM and writes nothing. An acknowledgement at its endpoint counts its deliveries at the DMA it is for. -/
def Obligations.MulticastEvents : Prop :=
  ∀ (n : BitVec 16) (c : CoreId) (p : McPkt) (s : State),
    let a := 0x110000000000 + c.toNat * 2 ^ 20 + p.off
    let p' := { p with left := p.left.erase c }
    let mcs := if p'.left.isEmpty then s.noc.mcs.eraseIdx n.toNat else s.noc.mcs.set n.toNat p'
    let u : State := { s with noc := { s.noc with mcs := mcs } }
    let ahead := ∃ q ∈ s.noc.mcs.take n.toNat, q.from_ = p.from_ ∧ c ∈ q.left
    (s.noc.mcs[n.toNat]? = some p →
      (c ∈ p.left → ¬ ahead →
        (s.fenced c = true → exec (.multicastDeliver n c 0) s = .next (u.mcAck c p true false).mapsDone) ∧
        (s.fenced c = false → s.scratch c < p.off + p.data.length →
          exec (.multicastDeliver n c 0) s = .next (u.mcAck c p false true).mapsDone) ∧
        (s.fenced c = false → p.off + p.data.length ≤ s.scratch c → ∃ t : State,
          exec (.multicastDeliver n c 0) s = .next (t.mcAck c p false false).mapsDone ∧ t.noc = u.noc ∧
          t.rdMem a p.data.length = p.data.map (·.1) ∧ ∀ x, x < a ∨ a + p.data.length ≤ x → t.mem.get memZero x = s.mem.get memZero x)) ∧
      (c ∉ p.left ∨ ahead → exec (.multicastDeliver n c 0) s = .next s)) ∧
    (s.noc.mcs[n.toNat]? = none → exec (.multicastDeliver n c 0) s = .next s) ∧
    (∀ f nomem, ∃ x, (s.mcAck c p f nomem) = { s with noc := { s.noc with reds := s.noc.reds ++ [x] } } ∧ x.id = p.tag ∧ x.count = 1 ∧
      x.pos = c ∧ x.kind = .ack p.die p.gen (if f then 1 else 0) nomem) ∧
    (∀ x die gen fw nomem, s.noc.atEnd[n.toNat]? = some x → x.kind = .ack die gen fw nomem →
      ∃ t, exec (.multicastAck n) s = .next t ∧ t.noc = { s.noc with atEnd := s.noc.atEnd.eraseIdx n.toNat } ∧
      (t.die die).dmas = (s.die die).dmas.map (fun m => if m.tag = x.id ∧ m.gen = gen ∧ m.busy then
        { m with mcWait := m.mcWait - x.count, redErr := m.redErr || nomem } else m) ∧ t.mem = s.mem) ∧
    ((∀ x, s.noc.atEnd[n.toNat]? = some x → x.kind = .sum) → exec (.multicastAck n) s = .next s)

/-- R271, R274, R290: a pacer's bucket gains RATE tokens, up to BURST; a write of a reduction entry sets its register under its access
types and, where it clears V, discards the round in progress. -/
def Obligations.PacerAndReductionWrites : Prop :=
  ∀ (d : DieId) (p : BitVec 10) (n : BitVec 6) (v : Word) (s : State),
    (p.toNat < 533 → ∃ t, exec (.pacerRefill d p) s = .next t ∧
      t.tokensOf d.toNat p.toNat = min (s.tokensOf d.toNat p.toNat + s.fld (pacerReg d.toNat p.toNat) NOC_RT_PACE_L.RATE)
        (s.fld (pacerReg d.toNat p.toNat) NOC_RT_PACE_L.BURST) ∧ t.regs = s.regs ∧ t.mem = s.mem) ∧
    (533 ≤ p.toNat → exec (.pacerRefill d p) s = .next s) ∧
    exec (.redEntryWrite d n true v) s = .next ((s.plainWrite (NOC_RED_CFG d.toNat n.toNat) v).redCheck d n.toNat) ∧
    (NOC_RED_ADDR.V.get v = 1 →
      exec (.redEntryWrite d n false v) s = .next ((s.plainWrite (NOC_RED_ADDR d.toNat n.toNat) v).redCheck d n.toNat)) ∧
    (NOC_RED_ADDR.V.get v = 0 → (∀ e, (s.die e).dmas = []) →
      ∃ t, exec (.redEntryWrite d n false v) s = .next t ∧ (t.round d n.toNat).count = 0 ∧ (t.round d n.toNat).held = [] ∧ t.mem = s.mem)

/-- R284, R285, R286, R288, R289, R316: a write of FENCE 1 sets FENCE and stops the program of a core that is not fenced; its miss registers
and parking entries free, what waits to enter it is discarded, and a core in the newt state stays gated. Releasing it clears FENCE and leaves
the core idle with nothing in flight. A packet that waits for a parked core ungates it. Once a core has been fenced, no instruction row of it
changes anything. -/
def Obligations.FenceEvents : Prop :=
  ∀ (c : CoreId) (v : Word) (s : State),
    let C := s.core c
    (v.getLsbD 0 = false ∨ s.fenced c = true → exec (.fenceWrite c v) s = .next s) ∧
    (s.fenced c = false → v.getLsbD 0 = true → ∃ t, exec (.fenceWrite c v) s = .next t ∧ t.fenced c = true ∧
      (t.core c).fl = [] ∧ (t.core c).miss = [] ∧ (t.core c).park = [] ∧ (t.core c).inq = [] ∧ (t.core c).fold = none ∧
      (t.core c).parked = C.parked ∧ (C.run = .running → (t.core c).run = .stopped) ∧
      (s.host.cmds = [] → s.recording = false → t.mem = s.mem)) ∧
    (s.enabled c = true → s.fenced c = true → ∃ t, exec (.fenceReleaseWrite c) s = .next t ∧ t.fenced c = false ∧
      t.core c = { split := C.split, coreGen := C.coreGen + 1 } ∧ t.mem = s.mem ∧ ∀ d, d ≠ c → t.core d = s.core d) ∧
    (s.enabled c = false ∨ s.fenced c = false → exec (.fenceReleaseWrite c) s = .next s) ∧
    (s.fenced c = true ∨ C.parked = false ∨ s.clocked c = false ∨ C.inq = [] → exec (.newtUngate c) s = .next s) ∧
    (s.fenced c = false → C.parked = true → s.clocked c = true → C.inq ≠ [] →
      let u := ((s.modCore c fun C => { C with parked := false }).bumpRt NOC_RT_WAKE c).drainIn c C.inq.length
      (u.runs c = true → exec (.newtUngate c) s = .next (u.pump c)) ∧
      (u.runs c = false → ∃ t, exec (.newtUngate c) s = .next t ∧ t.core c = { u.core c with parked := true } ∧ t.mem = u.mem ∧
        ∀ d, d ≠ c → t.core d = u.core d)) ∧
    (s.fenced c = false → v.getLsbD 0 = true → ∀ p ∈ coreRows, ∀ w, ∃ t, exec (.fenceWrite c v) s = .next t ∧ exec (p.cmd c w) t = .next t)

/-! ### Sync objects, watches, barriers -/

/-- R267, R285, R294, R296, R298, R299: an advance under way that no earlier one of its source to its object still awaits, and no earlier message on
its way, reaches its slice; one that fits its bound with nothing held of the object is applied: the value grows by the amount,
saturating at 2^64 − 1, and is answered. An answer lets the source's next advance of the object leave, and one that says applied reaches
the source, though not a fenced core. A RETRY is sent again. -/
def Obligations.AdvanceEvents : Prop :=
  ∀ (n : BitVec 16) (a : Adv) (o : ObjId) (v : Word) (k : Nat) (s : State),
    (s.advReady n.toNat = none → exec (.syncAdvance n) s = .next s) ∧
    (s.advReady n.toNat = some a → exec (.syncAdvance n) s =
      .next ({ s with sync := { s.sync with advs := s.sync.advs.eraseIdx n.toNat } }.sliceAdvance a)) ∧
    (s.advBehind s.sync.advs.length ⟨.reg, o, v⟩ = true → exec (.synAdvWrite o v) s = .next (s.sendAdv ⟨.reg, o, v⟩)) ∧
    (s.advBehind s.sync.advs.length ⟨.reg, o, v⟩ = false →
      SYN_ATTR.PV.get (s.rd (attrReg o)) = 0 → (s.slice (homeOf o).1).held = [] → s.replaying = false →
      ∃ t, exec (.synAdvWrite o v) s = .next t ∧ t.objVal o = BitVec.ofNat 64 (min ((s.objVal o).toNat + v.toNat) (2 ^ 64 - 1)) ∧
        t.mem = s.mem ∧ ∀ c, t.core c = s.core c) ∧
    (∀ r, s.sync.acks[n.toNat]? = some (k, a, r) →
      let u : State := { s with sync := { s.sync with acks := s.sync.acks.eraseIdx n.toNat } }
      let goes := s.rspBehind k a.obj (s.srcEp a.src) = false ∧ s.answerGoes a r = true
      (¬ goes → exec (.advanceAck n) s = .next s) ∧
      (goes → ∀ x, r = .applied x →
        (∀ c, a.src = .core c → exec (.advanceAck n) s = .next (if s.fenced c then u.sendWaiting a else (u.sendWaiting a).eject c (.ack a x))) ∧
        ((∀ c, a.src ≠ .core c) → exec (.advanceAck n) s = .next ((u.sendWaiting a).advApplied a x))) ∧
      (goes → r = .held → exec (.advanceAck n) s = .next (u.sendWaiting a)) ∧
      (goes → r = .retry → exec (.advanceAck n) s = .next { u with sync := { u.sync with retryAdv := u.sync.retryAdv ++ [a] } })) ∧
    (s.sync.acks[n.toNat]? = none → exec (.advanceAck n) s = .next s) ∧
    (s.sync.retryAdv[n.toNat]? = some a →
      let u := (s.ctrl (s.srcEp a.src) (objEp a.obj)).stamp
      exec (.retryResend n) s =
        .next { u with sync := { u.sync with retryAdv := u.sync.retryAdv.eraseIdx n.toNat, advs := (u.sync.sent, a) :: u.sync.advs } }) ∧
    (s.sync.retryAdv[n.toNat]? = none → s.sync.retryReg[n.toNat - s.sync.retryAdv.length]? = none → exec (.retryResend n) s = .next s)

/-- R267, R299, R300, R301, R302: a registration that reaches its slice fires at once where its comparison holds (0 GE, 1 GT, 2 EQ, 3 NE), is queued
where it does not and there is room, and else is answered RETRY. A fire message whose generation matches sets the fired bit of its core's
slot; it waits in the crossing of a core that is gated or whose clock has stopped; one for a fenced core is counted and dropped. -/
def Obligations.WatchEvents : Prop :=
  ∀ (n : BitVec 16) (w : WatchMsg) (m : Nat) (s : State),
    let k := (homeOf w.obj).1
    let x := s.objVal w.obj
    let holds : Bool := match w.cmp.toNat with
      | 0 => decide (w.val.toNat ≤ x.toNat)
      | 1 => decide (w.val.toNat < x.toNat)
      | 2 => decide (x = w.val)
      | _ => decide (x ≠ w.val)
    let behind := s.reqBehind m (watcherEp w.who) w.obj
    (s.sync.regs[n.toNat]? = none → exec (.watchRegistration n) s = .next s) ∧
    (s.sync.regs[n.toNat]? = some (m, w) →
      (behind = true → exec (.watchRegistration n) s = .next s) ∧
      (behind = false → holds = true → ∃ t, exec (.watchRegistration n) s = .next t ∧
        t.sync.fires = s.sync.fires ++ [(s.sync.sent + 1, w)] ∧ (t.slice k).wq = (s.slice k).wq) ∧
      (behind = false → holds = false → (s.slice k).wq.length < 1024 → ∃ t, exec (.watchRegistration n) s = .next t ∧ t.sync.fires = s.sync.fires ∧
        (t.slice k).wq = (s.slice k).wq ++ [w]) ∧
      (behind = false → holds = false → 1024 ≤ (s.slice k).wq.length → ∃ t, exec (.watchRegistration n) s = .next t ∧
        t.sync.retryReg = s.sync.retryReg ++ [w] ∧ SYN_STATUS.WQ_FULL.get (t.rd (SYN_STATUS k.toNat)) = 1)) ∧
    (s.sync.fires[n.toNat]? = none → exec (.watchFire n) s = .next s) ∧
    (s.sync.fires[n.toNat]? = some (m, w) →
      let goes := s.rspBehind m w.obj (watcherEp w.who) = false ∧ s.fireGoes w = true
      let u : State := { s with sync := { s.sync with fires := s.sync.fires.eraseIdx n.toNat } }
      (¬ goes → exec (.watchFire n) s = .next s) ∧
      (goes → ∀ (c : CoreId) (i : BitVec 4), w.who = .core c i →
        (s.fenced c = true → exec (.watchFire n) s = .next ((u.bump (NOC_RT_FENCED (c.toNat / 256) (c.toNat % 256))).ctrl (coreEp c) (objEp w.obj))) ∧
        (s.fenced c = false → s.railOff (regionOf c) = false → s.awake c = false ∨ (s.core c).inq ≠ [] →
          exec (.watchFire n) s = .next (u.modCore c fun C => { C with inq := C.inq ++ [.fire w] })) ∧
        (s.fenced c = false → s.awake c = true → (s.core c).inq = [] →
          ((s.core c).slotAt i).live = true → ((s.core c).slotAt i).gen = w.gen → s.Quiet c → (s.core c).wait = none →
          ∃ t, exec (.watchFire n) s = .next t ∧ t.core c = (s.core c).setSlot i { (s.core c).slotAt i with fired := true } ∧
            t.mem = s.mem ∧ ∀ d, d ≠ c → t.core d = s.core d)) ∧
      (goes → ∀ (d : DieId) (i : BitVec 6) (id : Nat), w.who = .cc d i →
        let key := d.toNat * 64 + i.toNat
        let y := s.sync.cc.get (fun _ => {}) key
        y.cmd = some id → y.gen = w.gen →
        exec (.watchFire n) s = .next ({ u with sync := { u.sync with cc := u.sync.cc.set (fun _ => {}) key { y with cmd := none } } }.finish id stOk [])))

/-- R295, R297: a write of SYN_VAL with nothing held sets the object's value; SYN_ATTR takes its written word, unless it names a partner
homed in another slice, which leaves PV 0 and sets ATTR_ERR. -/
def Obligations.SyncRegisterWrites : Prop :=
  ∀ (o : ObjId) (v : Word) (s : State),
    let k := (homeOf o).1
    (s.slice k).held = [] →
    (∃ t, exec (.synValWrite o v) s = .next t ∧ t.objVal o = v ∧ t.mem = s.mem ∧ ∀ c, t.core c = s.core c) ∧
    (SYN_ATTR.PV.get v = 1 → (homeOf (BitVec.ofNat 18 (SYN_ATTR.PARTNER.get v))).1 ≠ k →
      ∃ t, exec (.synAttrWrite o v) s = .next t ∧ SYN_ATTR.PV.get (t.rd (attrReg o)) = 0 ∧
        SYN_STATUS.ATTR_ERR.get (t.rd (SYN_STATUS k.toNat)) = 1 ∧ t = { s with regs := t.regs }) ∧
    (SYN_ATTR.PV.get v = 0 → exec (.synAttrWrite o v) s = .next (s.plainWrite (attrReg o) v))

/-- R304, R305, R308, R309, R310, R311, R312: a word of a line's mask takes the bits of enabled cores and the line is looked at again; a line's settings
take their word, an unassigned GROUP leaving GROUP as it was, and the line is looked at again. A die-scope line completes once every participant has arrived: its
arrivals go, EPISODE counts, and each core of the die sees its latest arrival completed; before that it does nothing. A line that
holds an arrival too long is reported. A region whose running cores all wait, and whose EN is 1, becomes lendable. -/
def Obligations.BarrierEvents : Prop :=
  ∀ (d : DieId) (n : BitVec 6) (w : BitVec 2) (v : Word) (r : RegionId) (s : State),
    exec (.barMaskWrite d n w v) s = .next ((s.wr (SYN_BAR_MASK d.toNat n.toNat w.toNat)
      (v &&& s.fuses.enabled.extractLsb' (d.toNat * 256 + w.toNat * 64) 64)).barTry d n) ∧
    (SYN_BAR_CFG.GROUP.get v < 16 ∨ SYN_BAR_CFG.GROUP.get v = 255 →
      exec (.synBarCfgWrite d n v) s = .next ((s.plainWrite (SYN_BAR_CFG d.toNat n.toNat) v).barTry d n)) ∧
    (16 ≤ SYN_BAR_CFG.GROUP.get v → SYN_BAR_CFG.GROUP.get v < 255 → exec (.synBarCfgWrite d n v) s = .next ((s.plainWrite
      (SYN_BAR_CFG d.toNat n.toNat) (SYN_BAR_CFG.GROUP.put v (SYN_BAR_CFG.GROUP.get (s.rd (SYN_BAR_CFG d.toNat n.toNat))))).barTry d n)) ∧
    (s.barScope d n = 0 → s.barDie d n = true → s.barReal d n = true → (s.bar d n).cmds = [] →
      ∃ t, exec (.barrierLineComplete d n) s = .next t ∧ t.bar d n = {} ∧ t.mem = s.mem ∧
        t.barEpisode d n = (s.barEpisode d n + 1) % 2 ^ 32 ∧
        (∀ c, dieOf c = d → (t.core c).arrived.get (fun _ => true) n.toNat = true) ∧ ∀ c, dieOf c ≠ d → t.core c = s.core c) ∧
    (s.barScope d n = 0 → s.barDie d n = false ∨ s.barReal d n = false → exec (.barrierLineComplete d n) s = .next s) ∧
    let remote := d = 0 ∧ s.barScope 0 n = 2 ∧ ∃ x ∈ (s.sysBar n).got, x.2.2 = s.barEpisode 0 n
    ((s.bar d n).arrived = 0 → (s.bar d n).cc = false → ¬ remote → exec (.barrierLate d n) s = .next s) ∧
    ((s.bar d n).arrived ≠ 0 ∨ (s.bar d n).cc = true ∨ remote → ∃ t, exec (.barrierLate d n) s = .next t ∧
      (t.rd (SYN_BAR_LATE_MAP d.toNat)).getLsbD n.toNat = true ∧ t = { s with regs := t.regs, out := t.out }) ∧
    (∀ k, k = (dieOfRegion r).toNat →
      let can := s.regionWaiting r && s.bit (SYN_LEND_CTL k (r.toNat % 4)) SYN_LEND_CTL.EN
      (can = true → ∃ t, exec (.lendableSet r) s = .next t ∧ t.fld (SYN_WAIT_STATUS k) SYN_WAIT_STATUS.LENDABLE =
        (s.fld (SYN_WAIT_STATUS k) SYN_WAIT_STATUS.LENDABLE ||| 2 ^ (r.toNat % 4)) % 16 ∧ t = { s with regs := t.regs }) ∧
      (can = false → exec (.lendableSet r) s = .next s))

/-! ### Address translation -/

/-- R236, R428, R429: the host's answer for a page a die asked for enters its ATS cache and the accesses that wait for the page go on; an answer nobody asked
for changes nothing. A page response takes the request off those sent. An Invalidate drops the range from every cache, once no
load uses it, and is answered. -/
def Obligations.HostTranslation : Prop :=
  ∀ (d : DieId) (va len : BitVec 48) (host : BitVec 52) (perm : BitVec 3) (code : BitVec 2) (s : State),
    let page := va.toNat / 4096 * 4096
    let e : AtcEnt := ⟨page, hostMem (host.toNat / 4096 * 4096), perm.getLsbD 0, perm.getLsbD 1, perm.getLsbD 2⟩
    let used := allDies.flatMap fun d => ((s.die d).atc.filter fun e =>
      decide (e.va < va.toNat + len.toNat) && decide (va.toNat < e.va + 4096)).map fun e => (e.pa, 4096)
    ((s.die d).atsWait.contains page = false → exec (.atsTranslationCompletion d va host perm) s = .next s) ∧
    ((s.die d).atsWait.contains page = true → exec (.atsTranslationCompletion d va host perm) s =
      .next (((s.modDie d fun D => { D with atsWait := D.atsWait.erase page
                                            atc := cacheAdd 2048 (D.atc.filter fun x => x.va != page) e }).wakeAtsCores d page).wakeAtsEngines d page)) ∧
    (s.priSend.host.priSent.contains (d.toNat * 2 ^ 48 + page) = false → exec (.priResponse d va code) s = .next s.priSend) ∧
    (s.priSend.host.priSent.contains (d.toNat * 2 ^ 48 + page) = true → code = 0 →
      let u : State := { s.priSend with host := { s.priSend.host with priSent := s.priSend.host.priSent.erase (d.toNat * 2 ^ 48 + page) } }
      let u := (u.modDie d fun D => { D with priWait := D.priWait.erase page, atc := D.atc.filter fun x => x.va != page }).dropPage d page
      exec (.priResponse d va code) s = .next
        ((((List.range 256).map fun i => (BitVec.ofNat 10 (d.toNat * 256 + i) : CoreId)).foldl (fun s c => s.priCore c page true) u).wakeAtsEngines
          d page) ∧ ∀ c, dieOf c = d → ∀ x ∈ (u.core c).tlb, x.va ≠ page) ∧
    (s.inUse used = true → exec (.atsInvalidate va len) s = .next s) ∧
    (s.inUse used = false → ∃ t, exec (.atsInvalidate va len) s = .next t ∧ t.out = s.out ++ [.host 1 [va.toNat, len.toNat]] ∧
      t.mem = s.mem ∧ (∀ g, ∀ x ∈ (t.die g).atc, x.va + 4096 ≤ va.toNat ∨ va.toNat + len.toNat ≤ x.va) ∧
      ∀ c, ∀ x ∈ (t.core c).tlb, x.va + x.size ≤ va.toNat ∨ va.toNat + len.toNat ≤ x.va)

/-! ### Host commands -/

/-- R434, R437, R442, R445: where a packet of the current version is the one whose turn it is and its opcode is a row's, the row takes it:
the ring's head moves past it, it joins the commands in flight, and it takes effect at once, the module not being FATAL and the
twin not SPLIT for its opcode; or, what it waits for not having come, it waits with a DEFERRED reply. -/
def Obligations.HostCommands : Prop :=
  ∀ (mirdig : BitVec 256) (p : HostRow) (r : RingId) (k : Packet) (slot : Nat) (s : State), p.listed mirdig →
    s.nextRing = some (r, ⟨some k, slot⟩) → s.logHead = none → pkOp k = p.op → pkVersion k = 2 →
    let x := (s.advance r).cmdOf r k slot s.host.consumed false
    let S := (s.advance r).enlist x k
    (S.bit MOD_ERR_STATUS MOD_ERR_STATUS.FATAL = false ∨ fatalOps.contains p.op = true) → (S.twin ≠ 5 ∨ splitOp p.op = false) →
    (S.cmdReady x = true → exec (p.cmd r) s = .next (p.eff S x).settle) ∧
    (S.cmdReady x = false → p.op ≠ 0x78 →
      exec (p.cmd r) s = .next (((S.modCmd x.id fun c => { c with data := [waitMark, 0] }).defer x.id).settle))

/-- R390, R443, R445, R497: a packet that may not run is answered and does nothing else: HW_ERROR in the FATAL state, SPLIT in the SPLIT state.
An unassigned opcode is answered UNSUPPORTED. A row that is not the packet's, or a ring whose turn it is not, changes nothing. -/
def Obligations.HostCommandsRefused : Prop :=
  ∀ (mirdig : BitVec 256) (p : HostRow) (r q : RingId) (k : Packet) (slot : Nat) (s : State), p.listed mirdig → s.logHead = none →
    (s.nextRing = none → exec (p.cmd r) s = .next s) ∧
    (s.nextRing = some (q, ⟨some k, slot⟩) → (q ≠ r ∨ pkOp k ≠ p.op) → exec (p.cmd r) s = .next s) ∧
    (s.nextRing = some (r, ⟨some k, slot⟩) → pkVersion k = 2 →
      let x := (s.advance r).cmdOf r k slot s.host.consumed false
      let S := (s.advance r).enlist x k
      let fatal := S.bit MOD_ERR_STATUS MOD_ERR_STATUS.FATAL && !fatalOps.contains (pkOp k)
      (pkOp k = p.op → fatal = true → exec (p.cmd r) s = .next (S.reply x stHwError).settle) ∧
      (pkOp k = p.op → fatal = false → S.twin = 5 → splitOp p.op = true → exec (p.cmd r) s = .next (S.reply x stSplit).settle) ∧
      (assigned.contains (pkOp k) = false → fatal = false → (S.twin ≠ 5 ∨ splitOp (pkOp k) = false) →
        exec (.unassignedOpcode r) s = .next (S.reply x stUnsupported).settle))

/-- R440: a forerunner packet takes effect as its opcode's command where the list of R440 has it, and is answered UNSUPPORTED where not. -/
def Obligations.ForerunnerPackets : Prop :=
  ∀ (r : RingId) (k : Packet) (slot : Nat) (s : State),
    s.nextRing = some (r, ⟨some k, slot⟩) → s.logHead = none → pkVersion k = 1 →
    let x := (s.advance r).cmdOf r k slot s.host.consumed false
    let S := (s.advance r).enlist x k
    exec (.v1Packet r) s = .next (S.runCmd x 0).settle ∧
    (v1Ops.contains (pkOp k) = false → exec (.v1Packet r) s = .next (S.reply x stUnsupported).settle)

/-- R435, R436, R441: a reply on a completion ring that is on, has room and holds nothing is written at its tail as 32 bytes: TAG, STATUS, the
submission ring with the phase in bit 7, the time in µs, three words; the tail moves on, its phase turning over at the ring's end,
and no other byte of memory changes. -/
def Obligations.ReplyWritten : Prop :=
  ∀ (r : RingId) (k : Packet) (status : BitVec 8) (a b c : Nat) (s : State),
    let q := s.cqOf r
    let ix := s.fld (CMD_CQ_TAIL q) CMD_CQ_TAIL.INDEX
    let ph := s.fld (CMD_CQ_TAIL q) CMD_CQ_TAIL.PHASE
    let n := 16 * 2 ^ min (s.fld (CMD_CQ_CFG q) CMD_CQ_CFG.SIZE) 8
    let at_ := CMD_CQ_BASE.ADDR.get (s.rd (CMD_CQ_BASE q)) * 32 + ix * 32
    let t := s.post r k status [a, b, c]
    s.cqFull q = false → s.host.held.get (fun _ => []) q = [] →
    t.rdMem at_ 32 = toLe 2 (pkTag k).toNat ++ toLe 1 status.toNat ++ toLe 1 (r.toNat + ph * 128) ++ toLe 4 (s.now / 1000) ++
      toLe 8 a ++ toLe 8 b ++ toLe 8 c ∧
    (∀ x, x < at_ ∨ at_ + 32 ≤ x → t.mem.get memZero x = s.mem.get memZero x) ∧
    t.fld (CMD_CQ_TAIL q) CMD_CQ_TAIL.INDEX = (if ix + 1 = n then 0 else ix + 1) % 4096 ∧
    t.fld (CMD_CQ_TAIL q) CMD_CQ_TAIL.PHASE = (if ix + 1 = n then (1 - ph) else ph) % 2

/-! ### The update engine -/

/-- R321, R322, R330, R331, R332, R343: an engine that waits for a layer's gradient begins Pass A of it once the gradient is there; a Pass
A in progress ends; with every Pass A behind it the module's sum is sent once; a Pass B in progress ends; a rule-0 launch that is
over ends its layer; and the step commits, or ends after a late error, once everything it waits for has happened. Before that
none of these does anything of its own, and an engine whose clock has stopped does none of it (R317). -/
def Obligations.UpdateEvents : Prop :=
  ∀ (r : RegionId) (s : State),
    (∀ i l, s.nextA r = some (i, l) → s.phase ≠ 0 → s.engNow r = 1 → s.rclocked r = true → s.gradReady i l = true →
      ∃ t, exec (.passAStart r) s = .next t ∧ UPD_STATUS.STATE.get (t.rd (UPD_STATUS r.toNat)) = 2 ∧
        UPD_STATUS.LAYER.get (t.rd (UPD_STATUS r.toNat)) = i % 2 ^ UPD_STATUS.LAYER.len ∧
        (∀ a, a ≠ UPD_STATUS r.toNat → t.rd a = s.rd a) ∧ t = { s with regs := t.regs }) ∧
    (s.nextA r = none ∨ s.phase = 0 ∨ s.engNow r ≠ 1 ∨ s.rclocked r = false → exec (.passAStart r) s = .next s) ∧
    (s.phase ≠ 0 → s.engNow r = 2 → exec (.passADone r) s = .next (s.endA r).settle) ∧
    (s.phase = 0 ∨ s.engNow r ≠ 2 → exec (.passADone r) s = .next s) ∧
    (s.phase = 2 → s.allA = true → s.upd.sent = false → exec .normContribute s = .next s.contributeNorm.settle) ∧
    (s.phase ≠ 2 ∨ s.upd.sent = true → exec .normContribute s = .next s) ∧
    (s.rclocked r = false → s.endA r = s ∧ s.endB r = s) ∧
    exec (.passBLayerDone r) s = .next (s.endB r).settle ∧ (s.inB r = none → s.endB r = s) ∧
    exec (.rule0LaunchDone r) s = .next (s.rule0Done r).settle ∧ (s.rule0Over r = none → s.rule0Done r = s) ∧
    (s.canCommit = true → exec .stepCommit s = .next s.commit.settle) ∧
    (s.canCommit = false → s.phase = 2 → s.upd.late = true → s.allB = true → exec .stepCommit s = .next s.lateEnd.settle) ∧
    (s.canCommit = false → s.phase ≠ 2 ∨ s.upd.late = false → exec .stepCommit s = .next s.settle)

/-! ### The fabric -/

/-- R348, R350, R351, R352, R355, R363 to R367, R370: a frame on a fabric port that is not UP is not received; one from a module that its
GROUP and SRANK do not name is counted foreign; one that is received, and in order where it is numbered, is taken: a segment or a
CREDIT with its grant, an ACK that opens a path, a NAK by sending again, an ABORT of the attempt, a barrier arrival. -/
def Obligations.FabricFrames : Prop :=
  ∀ (pt : BitVec 5) (f : Frame) (s u : State),
    let port := pt.toNat
    port < 24 →
    (s.portUp port = false →
      ∀ i ∈ [Instr.rs pt f, .ag pt f, .normUp pt f, .normDown pt f, .ack pt f, .nak pt f, .credit pt f, .barrier pt f, .abort pt f, .probe pt f],
        exec i s = .next s) ∧
    (s.portUp port = true → s.knownPeer port f = false →
      ∀ i ∈ [Instr.rs pt f, .ag pt f, .normUp pt f, .normDown pt f, .ack pt f, .nak pt f, .credit pt f, .barrier pt f, .abort pt f, .probe pt f],
        exec i s = .next (s.bump FAB_FOREIGN)) ∧
    (s.receive port f true = (u, true) →
      exec (.rs pt f) s = .next ((u.takeGrant f).segment port 1 f).settle ∧ exec (.ag pt f) s = .next ((u.takeGrant f).segment port 2 f).settle ∧
      exec (.normUp pt f) s = .next ((u.takeGrant f).segment port 3 f).settle ∧
      exec (.normDown pt f) s = .next ((u.takeGrant f).segment port 4 f).settle ∧
      exec (.credit pt f) s = .next (u.takeGrant f).settle ∧
      (u.inAttempt f = true → exec (.abort pt f) s = .next (u.stepAbandon stAborted).settle) ∧
      (u.inAttempt f = false → exec (.abort pt f) s = .next (u.bump FAB_LATE)) ∧
      (∀ n : BitVec 6, f.tag.toNat = n.toNat →
        exec (.barrier pt f) s = .next ((u.barGot n.toNat f.group.toNat f.srank.toNat f.rsn.toNat).barTry 0 n).settle)) ∧
    (s.receive port f false = (u, true) →
      ((u.path port f.src.toNat).opening = true → f.apsn.toNat = (u.path port f.src.toNat).psn →
        exec (.ack pt f) s = .next (u.pathOpened port f.src.toNat).settle) ∧
      exec (.nak pt f) s = .next (u.retryPath port f.src.toNat f.apsn.toNat).settle ∧
      ((u.path port f.src.toNat).rOpen = false → exec (.probe pt f) s =
        .next (((u.setPath { u.path port f.src.toNat with rOpen := true, expect := f.psn.toNat, naked := false, since := 0 }).portCount
          port 1).sendAck port f.src.toNat)))

/-- R351: of a known peer's frames on an open path that acknowledges nothing new, the one whose PSN is expected is accepted and the
next one expected; a PSN before it is counted a duplicate and not accepted; one after a gap is not accepted and asked for once; on a port that
a pause holds the NAK waits. -/
def Obligations.FramesInOrder : Prop :=
  ∀ (port : Nat) (f : Frame) (s : State),
    let p := s.path port f.src.toNat
    port < 24 → s.portUp port = true → s.knownPeer port f = true → p.unacked = [] → p.rOpen = true →
    (f.psn.toNat = p.expect → (s.receive port f true).2 = true ∧
      ((s.receive port f true).1.path port f.src.toNat).expect = (p.expect + 1) % 2 ^ 32) ∧
    (f.psn.toNat ≠ p.expect → (s.receive port f true).2 = false ∧ ((s.receive port f true).1.path port f.src.toNat).expect = p.expect) ∧
    (f.psn.toNat ≠ p.expect → psnBefore f.psn.toNat p.expect = false → p.naked = true → s.receive port f true = (s, false)) ∧
    (f.psn.toNat ≠ p.expect → psnBefore f.psn.toNat p.expect = false → p.naked = false →
      ((s.receive port f true).1.path port f.src.toNat).naked = true ∧
      (s.fab.paused.contains port = false → (s.receive port f true).1.out.length = s.out.length + 1) ∧
      (s.fab.paused.contains port = true → (s.receive port f true).1.fab.txHeld.length = s.fab.txHeld.length + 1))

/-- R347, R348, R350, R351, R353, R362, R369: the timers of a path acknowledge what is not acknowledged, send again what is not answered and
probe a path that is down; the next reduction that is ready begins to send; deadlines pass for the oldest reduction; a port trains,
loses its link, counts foreign and bad frames, and pauses. -/
def Obligations.FabricTimers : Prop :=
  ∀ (pt : BitVec 5) (mac : BitVec 48) (c : BitVec 6) (pcp : BitVec 3) (ok : Bool) (s : State),
    let port := pt.toNat
    let p := s.timerPath port mac
    (p.since = 0 ∨ s.portUp p.port = false → exec (.ackTimer pt mac) s = .next s) ∧
    (p.since ≠ 0 → s.portUp p.port = true → exec (.ackTimer pt mac) s = .next (s.sendAck p.port p.mac)) ∧
    (p.down = true → exec (.rtoExpire pt mac) s = .next s.settle) ∧
    (p.down = false → p.opening = false → ∀ x rest, p.unacked = x :: rest →
      exec (.rtoExpire pt mac) s = .next (s.retryPath p.port p.mac x.f.psn.toNat).settle) ∧
    (p.down = true → s.portUp p.port = true → exec (.probeTimer pt mac) s = .next (s.sendProbe p)) ∧
    (p.down = false → exec (.probeTimer pt mac) s = .next s) ∧
    (∀ C G R, s.chan c.toNat = some C → s.group C.group = some G → s.rsReady G C.reds = some R →
      exec (.rsSendStart c) s = .next (s.modRed c.toNat R.rsn fun R => { R with begun := true }).settle) ∧
    (s.chan c.toNat = none → ∀ i ∈ [Instr.rsSendStart c, .dlSoftExpire c, .dlHardExpire c], exec i s = .next s) ∧
    (∀ C R rest, s.chan c.toNat = some C → C.reds = R :: rest →
      (R.soft = false → exec (.dlSoftExpire c) s =
        .next ((s.modRed c.toNat R.rsn fun R => { R with soft := true }).softCheck c.toNat R.rsn).settle) ∧
      (R.kind ≠ 0 → exec (.dlHardExpire c) s = .next (((s.bump FAB_TIMEOUT).sendAborts c.toNat).stepAbandon stTimeout).settle) ∧
      (R.kind = 0 → ∃ u : State, exec (.dlHardExpire c) s = .next u.settle ∧ u.fab.failed = true ∧ u.fab.timedOut = true)) ∧
    (port < 28 → s.portLink port = 1 → exec (.portTrained pt ok) s = .next (s.portTrained port ok).settle) ∧
    (s.portLink port ≠ 1 → exec (.portTrained pt ok) s = .next s) ∧
    (port < 24 → s.portLink port = 2 → exec (.linkDown pt) s = .next ((s.setFld (FAB_PORT_STATUS (port / 6) (port % 6)) FAB_PORT_STATUS.LINK 0).unpause port).settle ∧
      exec (.foreignFrame pt) s = .next (s.bump FAB_FOREIGN) ∧ exec (.badFcsFrame pt) s = .next (s.bump (FAB_FCSERR (port / 6) (port % 6)))) ∧
    (port < 28 → s.portLink port ≠ 2 → ∀ i ∈ [Instr.linkDown pt, .foreignFrame pt, .badFcsFrame pt, .pfcFrame pt pcp true],
      exec i s = .next s) ∧
    (let cfg := s.fab.portCfg.get (fun _ => 0) port
     port < 24 → s.portLink port = 2 → FAB_PORT_CFG.PFC.get cfg = 1 → FAB_PORT_CFG.PCP.get cfg = pcp.toNat →
      ∃ t, exec (.pfcFrame pt pcp true) s = .next t ∧ port ∈ t.fab.paused ∧ t.regs = s.regs ∧ t.mem = s.mem)

/-! ### The twin -/

/-- R378, R384, R387, R389, R392: a twin frame accepted in order on a twin port takes effect: HELLO, BOND and DECISION make the bond, MIRROR,
MACK and MSKIP carry the mirrors, HEARTBEAT only shows life, UNBOND and UNBOND_ACK end the bond; on a port that is not UP it is
not received, and on a fabric port its type is foreign. -/
def Obligations.TwinFrames : Prop :=
  ∀ (pt : BitVec 5) (f : Frame) (dig : BitVec 256) (rtt : BitVec 32) (off : BitVec 48) (s u : State),
    let port := pt.toNat
    (24 ≤ port → port < 28 → s.receive port f true = (u, true) →
      exec (.hello pt f dig) s = .next (u.helloIn port f dig).settle ∧ exec (.bond pt f rtt) s = .next (u.bondIn f rtt.toNat).settle ∧
      exec (.decision pt f) s = .next (u.decisionIn f).settle ∧ exec (.mirror pt f off) s = .next (u.mirrorIn port f off.toNat).settle ∧
      exec (.mack pt f) s = .next (u.mackIn f).settle ∧ exec (.mskip pt f) s = .next (u.mskipIn f).settle ∧
      exec (.heartbeat pt f) s = .next u.settle ∧ exec (.unbond pt f) s = .next u.unbondIn.settle ∧
      exec (.unbondAck pt f) s = .next u.unbondAckIn.settle) ∧
    (∀ i ∈ [Instr.hello pt f dig, .bond pt f rtt, .decision pt f, .mirror pt f off, .mack pt f, .mskip pt f, .heartbeat pt f, .unbond pt f,
        .unbondAck pt f],
      (port < 24 → s.portLink port = 2 → exec i s = .next (s.bump FAB_FOREIGN)) ∧
      (28 ≤ port ∨ s.portLink port ≠ 2 → exec i s = .next s))

/-- R378, R387, R389, R392, R393: what the twin's frames and timers do to the bond: a HELLO's nonce and MAC base are kept; UNBOND in IDLE is
remembered, in a step the module drains; UNBOND_ACK of an unbond sent makes it SOLO; a heartbeat leaves a live port; the partner is lost unless a
bond is being made with no HELLO yet, which times out alone. -/
def Obligations.TwinEvents : Prop :=
  ∀ (pt : BitVec 5) (f : Frame) (dig : BitVec 256) (s : State),
    (s.twin ≠ 1 → s.helloIn pt.toNat f dig =
      { s with twn := { s.twn with peerNonce := some (f.data.take 32), peerMac := f.src.toNat - pt.toNat } }) ∧
    (s.twin = 2 → s.unbondIn.twn.peerUnbond = true ∧ (s.phase = 0 → s.unbondIn.twin = 2) ∧ (s.phase ≠ 0 → s.unbondIn.twin = 4)) ∧
    (s.twn.unbondSent = false → s.unbondAckIn = s) ∧ (s.twn.unbondSent = true → s.unbondAckIn = s.solo) ∧
    (s.twinPorts.contains pt.toNat = true → exec (.heartbeatTimer pt) s = .next (s.twinOn pt.toNat 15 1 0 0 0 [])) ∧
    (s.twinPorts.contains pt.toNat = false → exec (.heartbeatTimer pt) s = .next s) ∧
    (s.twin = 1 → s.twn.peerNonce = none → exec .partnerLoss s = .next s ∧ exec .bondTimeout s = .next (s.endBond stTimeout 0 0).settle) ∧
    (s.twin ≠ 1 ∨ s.twn.peerNonce ≠ none → exec .partnerLoss s = .next s.partnerLost.settle ∧ exec .bondTimeout s = .next s)

/-! ### Power, thermal and the ends of commands -/

/-- R397, R398, R401, R403, R405, R415: a tick does firmware's work where firmware runs, its telemetry going into PWR_IN first. An input sample moves EXCURSION up above
3400 W and down below, engages the fast limiter above 3600 W or at 10,000, and releases it after 100 samples below the cap with
EXCURSION 0. A sensor below 105 °C changes nothing; at 105 °C or more it is shown, and its region, or each region of its die, is
TRIPPED, the die's interrupt raised where one was not yet. A relock, a slew or a function's transition that is not pending ends nothing. -/
def Obligations.PowerEvents : Prop :=
  ∀ (t : Telemetry) (volts amps v : BitVec 16) (board : BitVec 32) (d : DieId) (i f : BitVec 6) (r : RegionId) (ok : Bool) (s : State),
    let y : State := { s with sys := { s.sys with samples := ((volts.toNat, amps.toNat) :: s.sys.samples).take 1000, board := board } }
    let w := volts.toNat * amps.toNat
    let x := s.fld PWR_STATUS PWR_STATUS.EXCURSION
    let x := if 3400 * 100000 < w then x + 1 else x - 1
    let below := if w < s.fld PWR_CTL PWR_CTL.CAP * 100000 then s.pwr.below + 1 else 0
    let own : List RegionId := if i.toNat < 48 then [BitVec.ofNat 4 (d.toNat * 4 + i.toNat / 12)] else
      (List.range 4).map fun k => BitVec.ofNat 4 (d.toNat * 4 + k)
    (s.fwRuns = false → exec (.firmwareTick t) s = .next s) ∧
    (s.fwRuns = true → exec (.firmwareTick t) s = .next (s.tick t).settle ∧
      PWR_IN.POWER.get ((s.readTelemetry t).rd PWR_IN) = t.watts.toNat ∧ PWR_IN.CURRENT.get ((s.readTelemetry t).rd PWR_IN) = t.amps.toNat ∧
      PWR_IN.VOLTAGE.get ((s.readTelemetry t).rd PWR_IN) = t.volts.toNat) ∧
    (s.sys.vin = false → exec (.inputSample volts amps board) s = .next s) ∧
    (s.sys.vin = true → s.sys.rails = false → exec (.inputSample volts amps board) s = .next y) ∧
    (s.sys.vin = true → s.sys.rails = true → ∃ u, exec (.inputSample volts amps board) s = .next u ∧
      u.fld PWR_STATUS PWR_STATUS.EXCURSION = x % 2 ^ 32 ∧
      u.bit PWR_STATUS PWR_STATUS.FASTLIM = (if 3600 * 100000 < w ∨ 10000 ≤ x then true
        else if 100 ≤ below ∧ x = 0 then false else s.bit PWR_STATUS PWR_STATUS.FASTLIM) ∧
      u = { y with regs := u.regs, pwr := { s.pwr with below := below } }) ∧
    (s.sys.rails = false ∨ v.toInt < 105 * 16 → exec (.thermalTrip d i v) s = .next s) ∧
    (s.sys.rails = true → 105 * 16 ≤ v.toInt → ∃ u, exec (.thermalTrip d i v) s = .next u ∧
      u.fld (PWR_TEMP d.toNat i.toNat) PWR_TEMP.TEMP = v.toNat ∧ (∀ q ∈ own, u.rbit q PWR_RGN_STATE.TRIPPED = true) ∧
      ((∃ q ∈ own, s.rbit q PWR_RGN_STATE.TRIPPED = false) → Out.dieInt d 5 ∈ u.out) ∧
      ((∀ q ∈ own, s.rbit q PWR_RGN_STATE.TRIPPED = true) → u = s.setFld (PWR_TEMP d.toNat i.toNat) PWR_TEMP.TEMP v.toNat)) ∧
    ((s.rp r).moves = [] → exec (.pllRelockDone r) s = .next s.settle ∧ exec (.railSlewDone r) s = .next s.settle) ∧
    (∀ m rest, (s.rp r).moves = m :: rest → m.relock = true → exec (.pllRelockDone r) s = .next (s.moveDone r).settle ∧
      exec (.railSlewDone r) s = .next s.settle) ∧
    (∀ m rest, (s.rp r).moves = m :: rest → m.relock = false → m.up = false → exec (.railSlewDone r) s = .next (s.moveDone r).settle ∧
      exec (.pllRelockDone r) s = .next s.settle) ∧
    ((s.func f.toNat).queue = [] ∨ (s.func f.toNat).st < 2 → exec (.funcTransitionDone f ok) s = .next s.settle) ∧
    (∀ id on rest, (s.func f.toNat).queue = (id, on) :: rest → 2 ≤ (s.func f.toNat).st → (s.func f.toNat).st < 4 →
      let up := decide ((s.func f.toNat).st = 3)
      let u := (s.setFunc f.toNat { st := if up then 0 else 1, queue := rest }).setRail f.toNat (if up then 1 else 0)
      let q : RegionId := BitVec.ofNat 4 f.toNat
      let u := if f.toNat < 16 then (if up then u.regainRegion q else (regionCores q).foldl State.coreLost u)
        else if up = true ∧ u.portLink (funcPort f.toNat) = 1 then u.portTrained (funcPort f.toNat) ok else u
      exec (.funcTransitionDone f ok) s = .next ((u.finish id stOk []).runFunc f.toNat rest.length).settle)

/-- R286, R448, R450, R483: a launch whose cores are all over leaves the machine with its reply, one whose cores are not stays. A
self-test that passes releases its core; a core not under test stays as it is. A SYNC_WAIT whose time passes is answered TIMEOUT,
its watch
cancelled and its slot's generation one on. A staged image's header is written last, and its slot is STAGED only where it verifies. -/
def Obligations.CommandEnds : Prop :=
  ∀ (n : BitVec 16) (L : Launch) (x : CmdRec) (c : CoreId) (d : DieId) (i : BitVec 6) (id : Nat) (s : State),
    (s.host.launches[n.toNat]? = none → exec (.launchComplete n) s = .next s.settle) ∧
    (s.host.launches[n.toNat]? = some L → s.launchOver L = false → exec (.launchComplete n) s = .next s.settle) ∧
    (s.host.launches[n.toNat]? = some L → s.launchOver L = true → L.rule0 = none → exec (.launchComplete n) s = .next (s.launchGone L).settle) ∧
    (c.toNat ∉ s.testing → exec (.selfTestDone c true) s = .next s.settle ∧ exec (.selfTestDone c false) s = .next s.settle) ∧
    (s.host.cmds.find? (fun x => x.data.head? == some testMark && (x.data.drop 2).contains c.toNat) = some x →
      exec (.selfTestDone c false) s = .next ((s.modCmd x.id fun y => { y with
        data := testMark :: 1 :: (y.data.drop 2).filter (· != c.toNat) }).unfenceDone x.id).settle ∧
      exec (.selfTestDone c true) s = .next ((((((s.modCmd x.id fun y => { y with
        data := testMark :: y.data.getD 1 0 :: (y.data.drop 2).filter (· != c.toNat) }).release c).modCore c fun C =>
          { C with parked := false }).regainCore c).passedTest c).unfenceDone x.id).settle) ∧
    ((s.ccSlot d i.toNat).cmd = none → exec (.syncWaitTimeout d i) s = .next s.settle) ∧
    ((s.ccSlot d i.toNat).cmd = some id → s.cmd id = some x → pk x.pkt 24 4 ≠ 0 → exec (.syncWaitTimeout d i) s =
      .next (((s.cancelWatch (.cc d i)).setCcSlot d i.toNat { s.ccSlot d i.toNat with gen := ((s.ccSlot d i.toNat).gen + 1) % 16, cmd := none }).finish id stTimeout []).settle) ∧
    (s.sys.stage = none → exec (.fwStageDone true) s = .next s.settle ∧ exec (.fwStageDone false) s = .next s.settle) ∧
    (s.sys.stage = some id →
      let t := s.otherSlot
      let u := (s.wrFlash (fwBase t) s.sys.stageHead).modSys fun y => { y with stage := none, stageHead := [] }
      exec (.fwStageDone true) s = .next (u.finish id stAuthFail [1]).settle ∧
      (u.verify t ≠ 0 → exec (.fwStageDone false) s = .next (u.finish id stAuthFail [u.verify t]).settle) ∧
      (u.verify t = 0 → exec (.fwStageDone false) s =
        .next ((u.modBlk fun b => { b with staged := b.staged ||| slotBit t }).finish id stOk [u.fwField t 4 4]).settle))

/-! ### The host link -/

/-- R419, R420, R424, R431, R466, R472, R477, R498: the link trains from a width of 1, 2, 4 or 8 lanes with PERST# high, at the lower of
the two modes, which MOD_LINK_STATUS shows. PERST# takes the link down and, once firmware runs, is a function level reset, as is one
the host asks for: its rings are off and empty, its sessions gone, no command it sent is replied to, and its side of the mailboxes
is in reset until the reset ends. Before step 13 a configuration request is answered CRS. A snoop in a CXL mode is answered that no line is held. -/
def Obligations.HostLinkEvents : Prop :=
  ∀ (mode rate : BitVec 2) (width kind : BitVec 4) (v : Word) (a : BitVec 52) (crc retry : Bool) (s : State),
    let u := s.modSys fun y => { y with perst := true, linkTry := false }
    (s.sys.vin = true → s.sys.rails = true → s.sys.linkTry = true → s.host.linkUp = false → s.sys.perst = false →
      width = 1 ∨ width = 2 ∨ width = 4 ∨ width = 8 →
      ∃ t, exec (.linkTrain mode rate width) s = .next t ∧ t.host = { s.host with linkUp := true } ∧
        t.sys = { s.sys with linkTry := false, linkRetry := false } ∧
        t.fld MOD_LINK_STATUS MOD_LINK_STATUS.MODE = min mode.toNat (s.fld MOD_LINK_CTL MOD_LINK_CTL.MAXMODE) ∧
        t.fld MOD_LINK_STATUS MOD_LINK_STATUS.WIDTH = width.toNat ∧
        t.fld MOD_LINK_STATUS MOD_LINK_STATUS.RATE =
          trainRate (min mode.toNat (s.fld MOD_LINK_CTL MOD_LINK_CTL.MAXMODE)) rate.toNat (s.fld MOD_LINK_CTL MOD_LINK_CTL.MAXRATE)) ∧
    (s.sys.linkTry = false ∨ s.host.linkUp = true ∨ s.sys.perst = true → exec (.linkTrain mode rate width) s = .next s) ∧
    (s.sys.perst = true → exec .perstAssert s = .next s) ∧
    (s.sys.perst = false → s.host.linkUp = false → s.fwRuns = false → exec .perstAssert s = .next u) ∧
    (s.sys.perst = false → s.host.linkUp = true → s.fwRuns = true → exec .perstAssert s =
      .next (((u.modHost fun h => { h with linkUp := false }).wr MOD_LINK_STATUS 0).emit (.host 17 [])).flrBegin.settle) ∧
    (s.sys.perst = true → exec .perstDeassert s =
      .next (s.modSys fun y => { y with perst := false, linkTry := y.linkTry || (y.rails && decide (10 ≤ y.step)) })) ∧
    (s.sys.perst = false → exec .perstDeassert s = .next s) ∧
    (s.host.linkUp = true → s.fwRuns = true → s.host.flr = false → exec .functionLevelReset s = .next s.flrBegin.settle) ∧
    (s.host.linkUp = false ∨ s.fwRuns = false ∨ s.host.flr = true → exec .functionLevelReset s = .next s) ∧
    (s.host.launches = [] → s.flrBegin.sys.sessions = [] ∧ s.flrBegin.sys.mbox = [] ∧
      s.flrBegin.bit MBX_STATUS MBX_STATUS.HOST_RESET = true ∧ s.flrBegin.host.flr = true ∧
      (∀ c ∈ s.flrBegin.host.cmds, c.replayed = true ∨ c.mute = true) ∧ (∀ n, n < 64 →
        s.flrBegin.bit (CMD_SQ_CFG n) CMD_SQ_CFG.EN = false ∧ s.flrBegin.bit (CMD_CQ_CFG n) CMD_CQ_CFG.EN = false ∧
        s.flrBegin.rd (CMD_SQ_TAIL n) = 0 ∧ s.flrBegin.rd (CMD_CLAMP_REC n) = 0) ∧ s.flrBegin.mem = s.mem) ∧
    (s.host.flr = true → ∃ t, exec .flrDone s = .next t ∧ t.host = { s.host with flr := false } ∧
      t.bit MBX_STATUS MBX_STATUS.HOST_RESET = false ∧ t.mem = s.mem ∧ t.cores = s.cores) ∧
    (s.host.flr = false → exec .flrDone s = .next s) ∧
    (s.host.linkUp = false → exec (.configRequest kind v) s = .next s ∧ exec (.h2dSnoop a) s = .next s ∧ exec (.linkRetry crc retry) s = .next s) ∧
    (s.host.linkUp = true → s.sys.step ≠ 13 → exec (.configRequest kind v) s = .next (s.emit (.host 4 []))) ∧
    (s.host.linkUp = true → s.sys.step = 13 → kind ≠ 1 → kind ≠ 2 →
      exec (.configRequest kind v) s = .next (s.emit (.host 3 (s.configView kind.toNat)))) ∧
    (s.host.linkUp = true → s.fld MOD_LINK_STATUS MOD_LINK_STATUS.MODE ≠ 0 → exec (.h2dSnoop a) s = .next (s.emit (.host 8 [a.toNat]))) ∧
    (s.sys.linkRetry = true → s.host.linkUp = false → s.sys.perst = false →
      exec .linkRetrainTimer s = .next (s.modSys fun y => { y with linkTry := true })) ∧
    (s.sys.linkRetry = false ∨ s.host.linkUp = true ∨ s.sys.perst = true → exec .linkRetrainTimer s = .next s) ∧
    (s.host.linkUp = true → ∃ t, exec (.linkRetry crc retry) s = .next t ∧
      t.rd MOD_LINK_RETRY = BitVec.ofNat 64 (((s.rd MOD_LINK_RETRY).toNat + 1) % 2 ^ 48) ∧ t.bit MOD_ERR_STATUS MOD_ERR_STATUS.CE_SEEN = true ∧
      t = { s with regs := t.regs, log := t.log, out := t.out })

/-! ### What the host reads and writes -/

/-- R10, R422, R425, R432, R433, R435, R436, R493: a line the host reads is returned as its 64 bytes, with poison indicated where a byte of it is
poisoned; a line out of reach changes nothing, and an access whose stop has no tokens waits (R271). Its write within a line sets exactly its
bytes, unless the page is being read in one piece. A
register of the host's rings, windows and log takes a write under its access types, once the link is up; the time condition of a ring
with unsignalled replies signals its vector and counts afresh. -/
def Obligations.HostAccess : Prop :=
  ∀ (a : BitVec 52) (data : List Byte) (found : BitVec 2) (sym : BitVec 6) (r : RingId) (cq w1 : Bool) (reg : BitVec 54) (v : Word) (s : State),
    let line := a.toNat / 64 * 64
    (s.memReach line = false → exec (.hostMemRead a found sym) s = .next s) ∧
    (s.paced cxlEp 1 = true ∨ s.paced (s.tierEp line) 5 = true → exec (.hostMemRead a found sym) s = .next s) ∧
    (s.memReach line = true → s.paced cxlEp 1 = false → s.paced (s.tierEp line) 5 = false →
      s.poisoned line 64 = false → ∃ t, exec (.hostMemRead a 0 sym) s = .next t ∧
      t.out.getLast? = some (.host 6 (0 :: (s.rdMem line 64).map (·.toNat))) ∧ t.mem = s.mem ∧ t.poison = s.poison ∧ t.cores = s.cores) ∧
    (s.memReach line = true → s.paced cxlEp 1 = false → s.paced (s.tierEp line) 5 = false → s.poisoned line 64 = true → ∃ t bs, exec (.hostMemRead a 0 sym) s = .next t ∧
      t.out.getLast? = some (.host 6 (1 :: bs))) ∧
    (data = [] ∨ 64 < a.toNat % 64 + data.length ∨ s.memReach a.toNat = false ∨ s.heldForRead (a.toNat / 4096 * 4096) = true ∨
      s.paced cxlEp (writeFlits data.length) = true → exec (.hostMemWrite a data) s = .next s) ∧
    (data ≠ [] → a.toNat % 64 + data.length ≤ 64 → s.memReach a.toNat = true → s.heldForRead (a.toNat / 4096 * 4096) = false →
      s.paced cxlEp (writeFlits data.length) = false → s.isLate a.toNat = false → ∃ t, exec (.hostMemWrite a data) s = .next t ∧ t.rdMem a.toNat data.length = data ∧
        (∀ x, x < a.toNat ∨ a.toNat + data.length ≤ x → t.mem.get memZero x = s.mem.get memZero x) ∧ ∀ c, t.core c = s.core c) ∧
    (s.host.linkUp = false → exec (.cmdRingEnable cq r v) s = .next s ∧ exec (.sqTailWrite r v) s = .next s ∧ exec (.cqHeadWrite r v) s = .next s ∧
      exec (.windowBaseWrite w1 v) s = .next s ∧ exec (.registerWrite reg v .host) s = .next s) ∧
    (s.host.linkUp = true → exec (.sqTailWrite r v) s = .next (s.writeReg (CMD_SQ_TAIL r.toNat) v) ∧
      exec (.cqHeadWrite r v) s = .next (s.writeReg (CMD_CQ_HEAD r.toNat) v) ∧
      exec (.cmdRingEnable true r v) s = .next (s.writeReg (CMD_CQ_CFG r.toNat) v) ∧
      exec (.cmdRingEnable false r v) s = .next (s.writeReg (CMD_SQ_CFG r.toNat) v) ∧
      exec (.windowBaseWrite w1 v) s = .next (s.writeReg (CMD_WIN (if w1 then 1 else 0)) v)) ∧
    exec (.registerWrite reg v .firmware) s = .next (s.writeReg reg.toNat v) ∧
    exec (.registerWrite reg v (.smbus false)) s = .next s ∧
    exec (.modLogHeadWrite v) s = .next (s.wr MOD_LOG_HEAD (v &&& 0xFFFFFFFF)) ∧
    (MOD_LOG_BASE.EN.get v = 0 → ∃ t, exec (.modLogBaseWrite v) s = .next t ∧ t.rd MOD_LOG_HEAD = 0 ∧ t.rd MOD_LOG_TAIL = 0 ∧
      t = { s with regs := t.regs }) ∧
    (s.host.coal.get (fun _ => 0) r.toNat = 0 ∨ s.fld (CMD_CQ_CFG r.toNat) CMD_CQ_CFG.COAL_US = 0 → exec (.coalTimer r) s = .next s) ∧
    (s.host.coal.get (fun _ => 0) r.toNat ≠ 0 → s.fld (CMD_CQ_CFG r.toNat) CMD_CQ_CFG.COAL_US ≠ 0 →
      exec (.coalTimer r) s = .next ((s.modHost fun h => { h with coal := h.coal.set (fun _ => 0) r.toNat 0 }).msix r.toNat))

/-! ### Power-up, resets and starts -/

/-- R469, R477, R497, R513, R514, R515, R516, R517, R524, R525: each supply, reset and over-temperature event latches its cause and leaves the rails
off; a module reset begins a start at step 1, except that within the hold it waits; over-current, overvoltage and heat keep the
module down until a reset, the release or the hold's end. The sideband's requests act only while the input is present. -/
def Obligations.BoardEvents : Prop :=
  ∀ (v : BitVec 32) (cause : BitVec 2) (pins : BitVec 2) (d : DieId) (vert ok : Bool) (s : State),
    let reset (s : State) : Prop := s.sys.rails = false ∧ s.sys.step = 1 ∧ s.sys.shutdown = false ∧ s.sys.halted = false ∧ s.cores = [] ∧
      s.host.cmds = []
    let down (s : State) (f : Fld) : Prop := s.sys.rails = false ∧ s.bit MOD_SB_CAUSE f = true ∧ s.starting = false ∧ s.cores = []
    (s.sys.vin = true → exec .vinRise s = .next s) ∧
    (s.sys.vin = false → s.sys.hold = false → ∃ t, exec .vinRise s = .next t ∧ reset t ∧ t.sys.vin = true ∧ t.sys.start = s.sys.nvm.starts + 1) ∧
    (s.sys.vin = false → exec .vinFall s = .next s ∧ exec .modRstAssert s = .next s ∧ exec (.resetReq v) s = .next s ∧
      exec (.jnlClear v) s = .next s ∧ exec .overcurrent s = .next s ∧ exec .overvoltage s = .next s ∧
      exec (.overtempShutdown cause) s = .next s ∧ exec .sbFlashDataRead s = .next s ∧ exec (.alertResponse pins) s = .next s) ∧
    (s.sys.vin = true → ∃ t, exec .vinFall s = .next t ∧ t.sys.vin = false ∧ t.sys.rails = false ∧ t.regs = [] ∧ t.cores = [] ∧
      t.sys.nvm = s.sys.nvm ∧ t.fuses = s.fuses ∧ t.mem = s.mem.filter fun e => decide (0x200000000000 ≤ e.1)) ∧
    (s.sys.vin = true → s.sys.hold = false → ∃ t, exec .modRstAssert s = .next t ∧ reset t ∧ t.sys.rstLow = true ∧
      t.bit MOD_SB_CAUSE MOD_SB_CAUSE.PIN_RESET = true) ∧
    (s.sys.vin = true → s.sys.hold = true → ∃ t, exec .modRstAssert s = .next t ∧ t.sys = { s.sys with rstLow := true, resetWait := true }) ∧
    exec .modRstDeassert s = .next (s.modSys fun y => { y with rstLow := false }) ∧
    (s.sys.vin = true → s.sys.hold = false → v.getLsbD 0 = true → ∃ t, exec (.resetReq v) s = .next t ∧ reset t ∧
      t.bit MOD_SB_CAUSE MOD_SB_CAUSE.SB_RESET = true) ∧
    (v.getLsbD 0 = false → exec (.resetReq v) s = .next s) ∧
    (s.sys.vin = true → s.sys.hold = false → v.getLsbD 1 = true → ∃ t, exec (.jnlClear v) s = .next t ∧ reset t ∧
      t.sys.nvm.blk = { s.sys.nvm.blk with failStarts := 0, bad := 0 } ∧ t.bit MOD_SB_CAUSE MOD_SB_CAUSE.SB_RESET = true) ∧
    (v.getLsbD 1 = false → exec (.jnlClear v) s = .next s) ∧
    (s.sys.vin = true →
      (∃ t, exec .overcurrent s = .next t ∧ down t MOD_SB_CAUSE.OCP) ∧
      (∃ t, exec .overvoltage s = .next t ∧ down t MOD_SB_CAUSE.OVP ∧ t.sys.ovp = true) ∧
      (∃ t, exec (.overtempShutdown 0) s = .next t ∧ down t MOD_SB_CAUSE.DIE_OT ∧ t.sys.hold = true) ∧
      (∃ t, exec (.overtempShutdown 1) s = .next t ∧ down t MOD_SB_CAUSE.CONV_OT ∧ t.sys.hold = true) ∧
      (∃ t, exec (.overtempShutdown 2) s = .next t ∧ down t MOD_SB_CAUSE.COOLANT ∧ t.sys.hold = true) ∧
      exec (.overtempShutdown 3) s = .next s) ∧
    (s.sys.ovp = true → s.sys.hold = false → ∃ t, exec .overvoltageRelease s = .next t ∧ reset t ∧ t.sys.ovp = false) ∧
    (s.sys.ovp = false → exec .overvoltageRelease s = .next s) ∧
    (s.sys.resetWait = true → ∃ t, exec .shutdownHoldExpire s = .next t ∧ reset t ∧ t.sys.hold = false) ∧
    (s.sys.resetWait = false → exec .shutdownHoldExpire s = .next (s.modSys fun y => { y with hold := false, resetWait := false })) ∧
    (s.sys.railWait = true → exec .step1RetryTimer s = .next (s.modSys fun y => { y with railWait := false })) ∧
    (s.sys.railWait = false → exec .step1RetryTimer s = .next s) ∧
    (∀ a, a = MOD_SB_FLASH_ADDR.ADDR.get (s.rd MOD_SB_FLASH_ADDR) * 4 → s.sys.vin = true → a < 0x10000 → ∃ t, exec .sbFlashDataRead s = .next t ∧ t.out = s.out ++ [.smb (s.flash a 4)] ∧
        t.fld MOD_SB_FLASH_ADDR MOD_SB_FLASH_ADDR.ADDR = a / 4 + 1 ∧ t = { s with regs := t.regs, out := t.out }) ∧
    (s.sys.vin = true → exec (.alertResponse pins) s =
      .next (if s.alertPin then s.emit (.smb [BitVec.ofNat 8 (0x64 + pins.toNat)]) else s)) ∧
    (s.sys.rails = false → exec (.d2dFlitCrcFail d vert) s = .next s) ∧
    (s.sys.rails = true → ∃ t, exec (.d2dFlitCrcFail d vert) s = .next t ∧
      t.rd MOD_D2D_RETRY = BitVec.ofNat 64 (((s.rd MOD_D2D_RETRY).toNat + 1) % 2 ^ 48) ∧ t = { s with regs := t.regs, log := t.log, out := t.out }) ∧
    (∀ l, l = (d2dLink d vert).1 →
      (l ∉ s.log.d2dTrain → exec (.d2dRetrainDone d vert ok) s = .next s) ∧
      (l ∈ s.log.d2dTrain → exec (.d2dRetrainDone d vert true) s =
        .next { s with log := { s.log with d2dTrain := s.log.d2dTrain.filter (· != l) } } ∧
        ∃ t, exec (.d2dRetrainDone d vert false) s = .next t ∧ t.bit MOD_ERR_STATUS MOD_ERR_STATUS.FATAL = true ∧
          t.host.launches = [] ∧ ∀ c, t.runs c = false))

/-- R348, R376, R469, R472, R474, R477, R478: while a start goes on, the step in progress that has what it must have passes with an entry in the
journal, step 10's pass training the fabric and twin ports, step 12's making the module ready; a try that fails is entered, and below the step's number of tries the step goes on,
at which step 1 waits first. A failed start's eighth in a row halts. Where no start goes on, nothing passes and nothing fails. -/
def Obligations.StartupSteps : Prop :=
  ∀ (twin : Bool) (m : BitVec 256) (obj detail : BitVec 16) (s : State),
    let k := s.sys.step
    let entry (tryNo outcome object detail : Nat) : Nvm := s.sys.nvm.append ⟨s.sys.nvm.seq + 1, s.sys.start, k, tryNo, outcome, s.sys.slot, object,
      detail, (s.now - s.sys.began) / 1000000⟩
    (s.starting = false → exec (.startupStepPass twin m) s = .next s ∧ exec (.startupTryFail obj detail m) s = .next s) ∧
    (s.mayPass = false → exec (.startupStepPass twin m) s = .next s) ∧
    (s.starting = true → k = 1 → s.bit MOD_SB_CTL MOD_SB_CTL.SCAN_HOLD = false → ∃ t, exec (.startupStepPass twin m) s = .next t ∧
      t.sys.rails = true ∧ t.sys.step = 2 ∧ t.mem = s.mem ∧ t.regs = s.regs) ∧
    (s.starting = true → k = 4 ∨ k = 5 ∨ k = 6 → ∃ t, exec (.startupStepPass twin m) s = .next t ∧ t.sys.step = k + 1 ∧
      t = { s with sys := t.sys } ∧ { t.sys.nvm with blk := s.sys.nvm.blk } = entry (s.passTry (triesOf k)) 1 0xFFFF s.sys.lost) ∧
    (s.starting = true → k = 9 → ∃ t, exec (.startupStepPass twin m) s = .next t ∧ t.sys.step = 10 ∧ t.sys.linkTry = !s.sys.perst) ∧
    (s.starting = true → k = 10 → s.mayPass = true → ∃ t, exec (.startupStepPass twin m) s = .next t ∧ t.sys.step = 11 ∧
      (∀ p, p < 28 → t.portLink p = 1) ∧ (∀ p, p < 24 → t.bit (FAB_PORT_CFG (p / 6) (p % 6)) FAB_PORT_CFG.EN = true) ∧ t.mem = s.mem) ∧
    (s.starting = true → k = 12 → s.mayPass = true → ∃ t, exec (.startupStepPass twin m) s = .next t ∧ t.fwRuns = s.sys.rails ∧
      t.sys.nvm.blk.incomplete = false ∧ t.sys.nvm.blk.failStarts = 0 ∧ t.bit MBX_STATUS MBX_STATUS.FW_RESET = false ∧
      t.out = s.out ++ [.host 5 []]) ∧
    (s.starting = true → k = 1 → s.sys.tries.get (fun _ => 0) obj.toNat < 2 → exec (.startupTryFail obj detail m) s =
      .next (s.modSys fun y => { y with nvm := entry (s.sys.tries.get (fun _ => 0) obj.toNat + 1) 2 obj.toNat 0, railWait := true,
                                        tries := y.tries.set (fun _ => 0) obj.toNat (s.sys.tries.get (fun _ => 0) obj.toNat + 1) })) ∧
    (s.starting = true → k = 4 ∨ k = 6 → s.sys.tries.get (fun _ => 0) obj.toNat = 0 → exec (.startupTryFail obj detail m) s =
      .next (s.modSys fun y => { y with nvm := entry 1 2 obj.toNat 0, tries := y.tries.set (fun _ => 0) obj.toNat 1 })) ∧
    (s.starting = true → k = 2 → s.sys.tries.get (fun _ => 0) obj.toNat = 1 → ∃ t, exec (.startupTryFail obj detail m) s = .next t ∧
      t.sys.halted = true ∧ t.sys.rails = false ∧ t.bit MOD_SB_CAUSE MOD_SB_CAUSE.HALT = true) ∧
    (7 ≤ s.sys.nvm.blk.failStarts → s.sys.nvm.blk.incomplete = true → s.beginStep3.sys.halted = true) ∧
    (s.sys.nvm.blk.incomplete = false → s.sys.nvm.blk.failStarts < 8 → s.beginStep3.sys.step = 3 ∧
      s.beginStep3.sys.nvm.blk.incomplete = true ∧ s.beginStep3.sys.slot = s.sys.nvm.blk.next)

/-- R526, R527, R528, R529: each instruction of a die's TAP captures its register, while the die rails are on, and changes nothing outside
the TAP; EXTEST, EXTEST_PULSE and EXTEST_TRAIN drive the cells, and HIGHZ and CLAMP the pins, only while SCAN_HELD is 1. CCDBG
shifts the last access's data out and reads or writes as firmware would, the SEC_ block reading 0 and ignoring writes. -/
def Obligations.TestAccess : Prop :=
  ∀ (d : DieId) (cells pins : BitVec 116) (code : BitVec 8) (a : BitVec 52) (v : Word) (w : Bool) (s : State),
    let len := if d = 0 then 116 else 91
    let held : BitVec 116 := BitVec.ofNat 116 (cells.toNat % 2 ^ len)
    let put (t : TapSt) (s : State) : State := s.modSys fun y => { y with taps := y.taps.set (fun _ => {}) d.toNat t }
    let T := s.tap d
    let sec := decide (0x121000000000 ≤ a.toNat ∧ a.toNat < 0x121100000000)
    (s.sys.rails = false → exec (.extest d cells pins) s = .next s ∧ exec (.samplePreload d cells pins) s = .next s ∧
      exec (.extestPulse d cells pins) s = .next s ∧ exec (.extestTrain d cells pins) s = .next s ∧ exec (.idcode d) s = .next s ∧
      exec (.usercode d) s = .next s ∧ exec (.highz d) s = .next s ∧ exec (.clamp d) s = .next s ∧ exec (.bypass d code) s = .next s ∧
      exec (.ccdbg d w a v) s = .next s ∧ exec .tapReset s = .next s) ∧
    (s.sys.rails = true →
      exec (.samplePreload d cells pins) s = .next ((put { T with ir := 1, cells := held } s).emit (.tdo d len (pins.toNat % 2 ^ len))) ∧
      exec (.idcode d) s = .next ((put { T with ir := 2 } s).emit (.tdo d 32 idcode)) ∧ idcode % 2 ^ 28 = 0x4F1ABBD ∧
      exec (.usercode d) s = .next ((put { T with ir := 3 } s).emit
        (.tdo d 32 (0x1024 * 2 ^ 16 + s.fuses.grade.toNat * 2 ^ 12 + d.toNat * 2 ^ 8))) ∧
      (code.toNat ∉ ([0, 1, 2, 3, 4, 5, 6, 7, 0x20] : List Nat) →
        exec (.bypass d code) s = .next ((put { T with ir := code } s).emit (.tdo d 1 0))) ∧
      (∃ t, exec .tapReset s = .next t ∧ (∀ e : DieId, (t.tap e).ir = 2) ∧ t = { s with sys := { s.sys with taps := t.sys.taps } })) ∧
    (s.sys.rails = true → s.sys.scanHeld = true →
      let scan (ir : BitVec 8) (mode : Nat) : State := ((put { T with ir := ir, cells := held } s).emit
        (.tdo d len (pins.toNat % 2 ^ len))).emit (.pins d mode (cells.toNat % 2 ^ len))
      exec (.extest d cells pins) s = .next (scan 0 0) ∧ exec (.extestPulse d cells pins) s = .next (scan 6 2) ∧
      exec (.extestTrain d cells pins) s = .next (scan 7 3) ∧
      exec (.highz d) s = .next (((put { T with ir := 4 } s).emit (.pins d 1 0)).emit (.tdo d 1 0)) ∧
      exec (.clamp d) s = .next (((put { T with ir := 5 } s).emit (.pins d 0 T.cells.toNat)).emit (.tdo d 1 0))) ∧
    (s.sys.rails = true → s.sys.scanHeld = false →
      let pass (ir : BitVec 8) : State := (put { T with ir := ir } s).emit (.tdo d 1 0)
      exec (.extest d cells pins) s = .next (pass 0) ∧ exec (.extestPulse d cells pins) s = .next (pass 6) ∧
      exec (.extestTrain d cells pins) s = .next (pass 7) ∧ exec (.highz d) s = .next (pass 4) ∧ exec (.clamp d) s = .next (pass 5)) ∧
    (s.sys.rails = true →
      let u (x : Word) : State := (put { T with ir := 0x20, data := x } s).emit (.tdo d 117 T.data.toNat)
      (sec = true → exec (.ccdbg d false a v) s = .next (u 0) ∧ exec (.ccdbg d true a v) s = .next (u T.data)) ∧
      (sec = false → exec (.ccdbg d false a v) s = .next ((u (BitVec.ofNat 64 (s.fwRead a.toNat))).regRead a.toNat (ccEp d)) ∧
        exec (.ccdbg d true a v) s = .next ((u T.data).fwWrite d a.toNat v)))

/-! ### Attestation -/

/-- R427, R486, R487, R488: the responder answers once the link is up at step 10, each request after those it follows, else
UnexpectedRequest; the negotiation advances; a certificate slot other than 0 is refused, as are the module's signature while its chain
is bad and measurements before step 13; a fifth session is refused; a session's requests need it established. A DOE answers
each index with its protocol, and the CDAT each entry. -/
def Obligations.Attestation : Prop :=
  ∀ (flags id : BitVec 32) (slot op index : BitVec 8) (off len entry : BitVec 16) (nonce : BitVec 256) (key : BitVec 512)
    (sign hash kex aead inst ok : Bool) (s : State),
    let bad := s.bit SEC_STATUS SEC_STATUS.CHAIN_BAD
    let deny (code : Nat) : State := s.emit (.host 16 [code])
    let at_ (n : Nat) : State := s.modSys fun y => { y with spdm := n }
    let open_ := s.sys.sessions.any fun x => x.id == id.toNat && x.established
    (s.responds = false → exec .getVersion s = .next s ∧ exec (.getCapabilities flags) s = .next s ∧
      exec (.negotiateAlgorithms sign hash kex aead) s = .next s ∧ exec .getDigests s = .next s ∧ exec (.getCertificate slot off len) s = .next s ∧
      exec (.challenge slot nonce) s = .next s ∧ exec (.getMeasurements op sign nonce) s = .next s ∧ exec (.keyExchange slot key) s = .next s ∧
      exec (.finish id ok) s = .next s ∧ exec (.spdmHeartbeat id) s = .next s ∧ exec (.keyUpdate id) s = .next s ∧ exec (.endSession id) s = .next s ∧
      exec (.doeDiscovery inst index) s = .next s ∧ exec (.cdatRead entry) s = .next s) ∧
    (s.responds = true →
      exec .getVersion s = .next ((at_ 1).emit (.host 15 [0x04, 0x12])) ∧
      (s.sys.spdm < 1 → exec (.getCapabilities flags) s = .next (deny 4)) ∧
      (1 ≤ s.sys.spdm → exec (.getCapabilities flags) s = .next ((at_ 2).emit (.host 15 [0x61, spdmCaps]))) ∧
      (s.sys.spdm < 2 → exec (.negotiateAlgorithms sign hash kex aead) s = .next (deny 4)) ∧
      (2 ≤ s.sys.spdm → sign = true → hash = true → exec (.negotiateAlgorithms sign hash kex aead) s =
        .next ((at_ (if kex ∧ aead then 4 else 3)).emit (.host 15 [0x63, 1, 1, if kex then 1 else 0, if aead then 1 else 0]))) ∧
      (2 ≤ s.sys.spdm → sign = false ∨ hash = false → exec (.negotiateAlgorithms sign hash kex aead) s = .next (deny 1)) ∧
      (s.sys.spdm < 3 → exec .getDigests s = .next (deny 4) ∧ exec (.getCertificate slot off len) s = .next (deny 4) ∧
        exec (.challenge slot nonce) s = .next (deny 4) ∧ exec (.getMeasurements op sign nonce) s = .next (deny 4)) ∧
      (s.sys.spdm < 4 → exec (.keyExchange slot key) s = .next (deny 4) ∧ exec (.finish id ok) s = .next (deny 4) ∧
        exec (.spdmHeartbeat id) s = .next (deny 4))) ∧
    (s.responds = true → 3 ≤ s.sys.spdm →
      exec .getDigests s = .next (s.emit (.host 15 (0x01 :: 1 :: (sm3 chainBytes).map (·.toNat)))) ∧
      (slot ≠ 0 → exec (.getCertificate slot off len) s = .next (deny 1) ∧ exec (.challenge slot nonce) s = .next (deny 1)) ∧
      (off.toNat < chainBytes.length → exec (.getCertificate 0 off len) s = .next (s.emit (.host 15 (0x02 ::
        ((chainBytes.drop off.toNat).take len.toNat).length :: (chainBytes.length - off.toNat - ((chainBytes.drop off.toNat).take len.toNat).length) ::
        ((chainBytes.drop off.toNat).take len.toNat).map (·.toNat))))) ∧
      (bad = true → exec (.challenge 0 nonce) s = .next (deny 0x60)) ∧
      (bad = false → ∃ t ws, exec (.challenge 0 nonce) s = .next t ∧ t.out = s.out ++ [.host 15 (0x03 :: ws)] ∧
        (ws.take 32 = (sm3 chainBytes).map (·.toNat)) ∧ t = { s with out := t.out, free := t.free }) ∧
      (s.sys.step ≠ 13 → exec (.getMeasurements op sign nonce) s = .next (deny 3)) ∧
      (s.sys.step = 13 → 1 ≤ op.toNat → op.toNat ≤ 7 → exec (.getMeasurements op false nonce) s =
        .next (s.emit (.host 15 (0x60 :: 1 :: (toLe 1 op.toNat ++ s.measurement op.toNat).map (·.toNat))))) ∧
      (s.sys.step = 13 → exec (.getMeasurements 0 false nonce) s = .next (s.emit (.host 15 [0x60, 7]))) ∧
      (s.sys.step = 13 → bad = true → op.toNat ≤ 7 → exec (.getMeasurements op true nonce) s = .next (deny 0x60))) ∧
    (s.responds = true → 4 ≤ s.sys.spdm →
      (slot ≠ 0 → exec (.keyExchange slot key) s = .next (deny 1)) ∧
      (4 ≤ s.sys.sessions.length → exec (.keyExchange 0 key) s = .next (deny 0x0A)) ∧
      (s.sys.sessions.length < 4 → bad = false → ∃ t, exec (.keyExchange 0 key) s = .next t ∧
        t.sys.sessions = s.sys.sessions ++ [{ id := s.sys.nextSession }] ∧ t.mem = s.mem ∧ t.regs = s.regs) ∧
      (s.sys.sessions.any (fun x => x.id == id.toNat && !x.established) = true → exec (.finish id true) s = .next ((s.modSys fun y =>
          { y with sessions := y.sessions.map fun x => if x.id = id.toNat then { x with established := true } else x }).emit (.host 15 [0x65, id.toNat])) ∧
        exec (.finish id false) s = .next ((s.modSys fun y =>
          { y with sessions := y.sessions.filter fun x => x.id != id.toNat }).emit (.host 16 [6]))) ∧
      (open_ = false → exec (.spdmHeartbeat id) s = .next (deny 2) ∧ exec (.keyUpdate id) s = .next (deny 2) ∧ exec (.endSession id) s = .next (deny 2)) ∧
      (open_ = true → exec (.spdmHeartbeat id) s = .next (s.emit (.host 15 [0x68, id.toNat])) ∧
        (∃ t, exec (.keyUpdate id) s = .next t ∧ t.out = s.out ++ [.host 15 [0x69, id.toNat]] ∧
          t.sys.sessions = s.sys.sessions.map (fun x => if x.id = id.toNat then { x with keys := x.keys + 1 } else x)) ∧
        ∃ t, exec (.endSession id) s = .next t ∧ t.out = s.out ++ [.host 15 [0x6C, id.toNat]] ∧
          t.sys.sessions = s.sys.sessions.filter fun x => x.id != id.toNat)) ∧
    (s.responds = true →
      (3 ≤ index.toNat → exec (.doeDiscovery inst index) s = .next (s.emit (.host 13 [0xFFFF, 0xFF, 0]))) ∧
      exec (.doeDiscovery false 0) s = .next (s.emit (.host 13 [1, 0, 1])) ∧ exec (.doeDiscovery false 1) s = .next (s.emit (.host 13 [0x1E98, 2, 0])) ∧
      exec (.doeDiscovery true 1) s = .next (s.emit (.host 13 [1, 1, 2])) ∧ exec (.doeDiscovery true 2) s = .next (s.emit (.host 13 [1, 2, 0])) ∧
      exec (.cdatRead 0) s = .next (s.emit (.host 14 [1, 0, 0, 0, 0, s.lpddrSize])) ∧
      exec (.cdatRead 1) s = .next (s.emit (.host 14 [2, 1, 0, 450, 450])) ∧
      exec (.cdatRead 2) s = .next (s.emit (.host 14 [3, 1, 0, 2430000, 2430000])) ∧
      exec (.cdatRead 3) s = .next (s.emit (.host 14 [0xFFFF, 4, 0, 1, 1, 0, s.lpddrSize])) ∧
      (4 ≤ entry.toNat → exec (.cdatRead entry) s = .next s))

/-! ### Mailboxes and doorbells -/

/-- R460, R461, R463, R464, R465, R466: a send fills an empty mailbox whose receiver is not in reset, with its length clamped to 1 to 256,
RESULT DELIVERED and SEQ one up, and rings the doorbell, but for doorbell 31, which sets DBERR. A release empties each full mailbox
that its mask names, with RESULT RELEASED, leaves the others and all data, and rings the sender once. Data is written where every byte's
mailbox is the writer's, empty and of a receiver not in reset. A rejected send or data write leaves data, OWNER, LEN and DB, sets
RESULT REJECTED and counts once. Doorbell sets make bits pending, doorbell 31 not among them. A write from the wrong side does nothing. -/
def Obligations.Mailboxes : Prop :=
  ∀ (n : BitVec 4) (v : Word) (off : BitVec 13) (data : List Byte) (s : State),
    let len := MBX_H2F_SEND.LEN.get v
    let db := MBX_H2F_SEND.DB.get v
    let rest (t : State) : Prop := t = { s with regs := t.regs, out := t.out }
    let counted (t : State) : Prop := t.rd MBX_REJECTS = BitVec.ofNat 64 (((s.rd MBX_REJECTS).toNat + 1) % 2 ^ 48)
    -- every mailbox register is as it was but for RESULT
    let kept (t : State) : Prop := ∀ (h2f : Bool) (k : Nat), k < 16 →
      MBX_H2F_SEND.RESULT.put (t.rd (mbxSend h2f k)) 0 = MBX_H2F_SEND.RESULT.put (s.rd (mbxSend h2f k)) 0
    (exec (.mbxH2fSend false n v) s = .next s ∧ exec (.mbxF2hSend true n v) s = .next s ∧ exec (.mbxH2fRelease true v) s = .next s ∧
      exec (.mbxF2hRelease false v) s = .next s ∧ exec (.fwReady true) s = .next s ∧ exec (.mbxHostDbSet true v) s = .next s ∧
      exec (.mbxFwDbSet false v) s = .next s ∧ exec (.dbMaskWrite true true v) s = .next s ∧ exec (.dbMaskWrite false false v) s = .next s) ∧
    (∀ (h2f : Bool) (c : Instr), (c = if h2f then .mbxH2fSend true n v else .mbxF2hSend false n v) →
      let a := mbxSend h2f n.toNat
      (s.mbxFull h2f n.toNat = false → s.mbxDown h2f = false → ∃ t, exec c s = .next t ∧ t.mbxFull h2f n.toNat = true ∧
        t.fld a MBX_H2F_SEND.LEN = max 1 (min 256 len) ∧ t.fld a MBX_H2F_SEND.DB = db ∧ t.fld a MBX_H2F_SEND.RESULT = 1 ∧
        t.fld a MBX_H2F_SEND.SEQ = (s.fld a MBX_H2F_SEND.SEQ + 1) % 256 ∧
        (len = 0 ∨ 256 < len → t.bit MBX_STATUS MBX_STATUS.LENCLAMP = true) ∧
        (db = 31 → t.bit MBX_STATUS MBX_STATUS.DBERR = true) ∧
        (db < 31 → (t.rd (if h2f then MBX_FW_DB else MBX_HOST_DB)).getLsbD db = true) ∧ rest t) ∧
      (s.mbxFull h2f n.toNat = true ∨ s.mbxDown h2f = true → ∃ t, exec c s = .next t ∧ t.fld a MBX_H2F_SEND.RESULT = 2 ∧
        counted t ∧ kept t ∧ rest t)) ∧
    (∀ (h2f : Bool) (c : Instr), (c = if h2f then .mbxH2fRelease false v else .mbxF2hRelease true v) →
      let pend := if h2f then MBX_HOST_DB else MBX_FW_DB
      let rdb := MBX_H2F_RELEASE.DB.get v
      ∃ t, exec c s = .next t ∧ rest t ∧
      (∀ k, k < 16 → v.getLsbD k = true → s.mbxFull h2f k = true → t.mbxFull h2f k = false ∧ t.fld (mbxSend h2f k) MBX_H2F_SEND.RESULT = 4) ∧
      (∀ k, k < 16 → v.getLsbD k = false ∨ s.mbxFull h2f k = false → t.rd (mbxSend h2f k) = s.rd (mbxSend h2f k)) ∧
      (∀ k, k < 16 → t.rd (mbxSend (!h2f) k) = s.rd (mbxSend (!h2f) k)) ∧
      t.rd pend = s.rd pend ||| (if MBX_H2F_RELEASE.DBEN.get v = 1 ∧ rdb < 31 then 1 <<< rdb else 0) ∧ t.out.length ≤ s.out.length + 1) ∧
    (∀ host : Bool, data ≠ [] → off.toNat + data.length ≤ 0x2000 →
      let box (i : Nat) : Nat := (off.toNat + i) / 256
      let bad (b : Nat) : Prop := decide (b < 16) ≠ host ∨ s.mbxFull (decide (b < 16)) (b % 16) = true ∨ s.mbxDown (decide (b < 16)) = true
      ((∀ i, i < data.length → ¬bad (box i)) →
        exec (.mbxDataWrite host off data) s = .next { s with sys := { s.sys with mbox := s.sys.mbox.setRun memZero off.toNat data } }) ∧
      (∀ i, i < data.length → bad (box i) → ∃ t, exec (.mbxDataWrite host off data) s = .next t ∧
        t.fld (mbxSend (decide (box i < 16)) (box i % 16)) MBX_H2F_SEND.RESULT = 2 ∧ counted t ∧ kept t ∧ rest t)) ∧
    exec (.fwReady false) s = .next (s.setFld MBX_STATUS MBX_STATUS.FW_RESET 0) ∧
    (∃ t, exec (.mbxHostDbSet false v) s = .next t ∧ t.rd MBX_HOST_DB = s.rd MBX_HOST_DB ||| (v &&& 0x7FFFFFFF) ∧
      t.rdView MBX_HOST_DB_SET = t.rd MBX_HOST_DB &&& 0x7FFFFFFF ∧ rest t) ∧
    (∃ t, exec (.mbxFwDbSet true v) s = .next t ∧ t.rd MBX_FW_DB = s.rd MBX_FW_DB ||| (v &&& 0x7FFFFFFF) ∧ rest t) ∧
    (∃ t, exec (.dbMaskWrite false true v) s = .next t ∧ t.rd MBX_FW_DB_MASK = v &&& 0xFFFFFFFF ∧ t.rd MBX_FW_DB = s.rd MBX_FW_DB ∧
      t.out = s.out ++ (if s.rd MBX_FW_DB &&& s.rd MBX_FW_DB_MASK &&& ~~~(v &&& 0xFFFFFFFF) = 0 then [] else [.dieInt 0 1])) ∧
    (∃ t, exec (.dbMaskWrite true false v) s = .next t ∧ t.rd MBX_HOST_DB_MASK = v &&& 0xFFFFFFFF ∧ t.rd MBX_HOST_DB = s.rd MBX_HOST_DB ∧ rest t)

/-! ### The module as a whole -/

/-- A step takes the command at the front of the queue and runs it on the rest. On an empty queue a nanosecond passes, which the
die rails off do not count and on which module time moves by one (log entry 2: the model's choice). -/
def Obligations.StepRunsFront : Prop :=
  ∀ (c : Instr) (rest : List Instr) (s : State),
    step { s with pending := c :: rest } = exec c { s with pending := rest } ∧
    (s.pending = [] → s.sys.rails = false → step s = .next s) ∧
    (s.pending = [] → s.sys.rails = true → s.cores = [] → step s = .next (s.wr MOD_TIME (s.rd MOD_TIME + 1)))

/-- R469, R515, R517: the state after reset has the input present, the rails off and step 1 in progress, no link, no bond, no step open, no
program running and nothing commanded; every register reads its reset value (the spec's, or where it gives none log entry 4's: the
model's choice), memory lists nothing, and every table is in its canonical form. -/
def Obligations.ResetState : Prop :=
  let s := State.reset
  s.pending = [] ∧ s.out = [] ∧ s.mem = [] ∧ s.sys.vin = true ∧ s.sys.rails = false ∧ s.sys.step = 1 ∧ s.starting = true ∧ s.host.linkUp = false ∧
    s.twin = 0 ∧ s.phase = 0 ∧ (∀ a, s.rd a = regReset a) ∧ (∀ c : CoreId, s.core c = {}) ∧ (∀ c : CoreId, s.runs c = false) ∧ s.Canon

/-- R10, R11, R423: a plain write of a register sets its RW fields to the written bits or the nearest value of their range, leaves its RO
fields, leaves 0 in its WO fields and its reserved bits, clears the W1C bits that are written 1 and sets the W1S bits written 1, and
touches no other register; where no register is, it changes nothing. -/
def Obligations.RegisterWrites : Prop :=
  ∀ (a : Nat) (v : Word) (s : State),
    (regAt a = none → s.plainWrite a v = s) ∧
    (∀ r, regAt a = some r → (∀ f ∈ r.flds, f.lo + f.len ≤ 64 ∧ f.cmin < 2 ^ f.len) →
      r.flds.Pairwise (fun f g => f.lo + f.len ≤ g.lo ∨ g.lo + g.len ≤ f.lo) →
      let t := s.plainWrite a v
      (∀ f ∈ r.flds,
        let F : Fld := ⟨f.lo, f.len⟩
        (f.acc = .rw → t.fld a F = max f.cmin (min f.cmax (F.get v))) ∧ (f.acc = .ro → t.fld a F = s.fld a F) ∧ (f.acc = .wo → t.fld a F = 0) ∧
        (f.acc = .w1c → ∀ i, i < f.len → (t.rd a).getLsbD (f.lo + i) = ((s.rd a).getLsbD (f.lo + i) && !v.getLsbD (f.lo + i))) ∧
        (f.acc = .w1s → ∀ i, i < f.len → (t.rd a).getLsbD (f.lo + i) = ((s.rd a).getLsbD (f.lo + i) || v.getLsbD (f.lo + i)))) ∧
      (∀ i, (∀ f ∈ r.flds, i < f.lo ∨ f.lo + f.len ≤ i) → (t.rd a).getLsbD i = false) ∧
      (∀ b, b ≠ a → t.rd b = s.rd b) ∧ t = { s with regs := t.regs })

/-- Every command answers a next state, whatever the state: no command faults, none is refused; and it leaves the queue, every fuse but
SVN_MIN, what has been put out, and the canonical form of every table. A step, of a command or of a nanosecond, from a state whose tables
are in their canonical form gives one whose tables are. -/
def Obligations.CommandsKeep : Prop :=
  (∀ (c : Instr) (s : State), ∃ t, exec c s = .next t ∧ Keeps s t) ∧ ∀ s t : State, s.Canon → step s = .next t → t.Canon
end

