-- ==== Sys2Proof/Laws/Tab.lean ====
section
/-!
SUPPORT. Sys2Proof/Laws/Tab.lean: a read after a write of a table, and that writes keep its canonical form.
-/
namespace Sys2Proof

theorem Tab.get_append {α : Type} (d : Nat → α) (a b : Tab α) (k : Nat) (h : ∀ e ∈ a, e.1 ≠ k) :
    Tab.get d (a ++ b) k = Tab.get d b k := by
  induction a with
  | nil => rfl
  | cons e a ih =>
    obtain ⟨j, v⟩ := e
    have hj : j ≠ k := h (j, v) (by simp)
    simp only [List.cons_append, Tab.get, if_neg hj]
    exact ih fun e he => h e (by simp [he])

theorem Tab.get_of_not_mem {α : Type} (d : Nat → α) (a : Tab α) (k : Nat) (h : ∀ e ∈ a, e.1 ≠ k) :
    Tab.get d a k = d k := by
  have := Tab.get_append d a [] k h
  simpa [Tab.get] using this

theorem Tab.get_append_right {α : Type} (d : Nat → α) (a b : Tab α) (k : Nat) (h : ∀ e ∈ b, e.1 ≠ k) :
    Tab.get d (a ++ b) k = Tab.get d a k := by
  induction a with
  | nil => simpa [Tab.get] using Tab.get_of_not_mem d b k h
  | cons e a ih =>
    obtain ⟨j, v⟩ := e
    simp only [List.cons_append, Tab.get]
    split
    · rfl
    · exact ih

theorem Tab.get_filter {α : Type} (d : Nat → α) (t : Tab α) (p : Nat → Bool) (k : Nat) (h : p k = true) :
    Tab.get d (t.filter fun e => p e.1) k = Tab.get d t k := by
  induction t with
  | nil => rfl
  | cons e t ih =>
    obtain ⟨j, v⟩ := e
    by_cases hj : j = k
    · subst hj
      simp [List.filter, h, Tab.get]
    · by_cases hp : p j
      · simp [List.filter, hp, Tab.get, hj, ih]
      · simp [List.filter, hp, Tab.get, hj, ih]

@[simp] theorem Tab.get_below {α : Type} (d : Nat → α) (t : Tab α) (k j : Nat) (h : j < k) :
    Tab.get d (t.below k) j = Tab.get d t j :=
  Tab.get_filter d t (fun x => decide (x < k)) j (by simpa using h)

@[simp] theorem Tab.get_above {α : Type} (d : Nat → α) (t : Tab α) (k j : Nat) (h : k ≤ j) :
    Tab.get d (t.above k) j = Tab.get d t j :=
  Tab.get_filter d t (fun x => decide (k ≤ x)) j (by simpa using h)

theorem Tab.key_below {α : Type} (t : Tab α) (k : Nat) : ∀ e ∈ t.below k, e.1 < k := by
  intro e he; simpa using (List.mem_filter.mp he).2

theorem Tab.key_above {α : Type} (t : Tab α) (k : Nat) : ∀ e ∈ t.above k, k ≤ e.1 := by
  intro e he; simpa using (List.mem_filter.mp he).2

theorem Tab.key_cells {α : Type} [DecidableEq α] (d : Nat → α) (vs : List α) (k : Nat) :
    ∀ e ∈ Tab.cells d k vs, k ≤ e.1 ∧ e.1 < k + vs.length := by
  induction vs generalizing k with
  | nil => intro e he; simp [Tab.cells] at he
  | cons v vs ih =>
    intro e he
    simp only [Tab.cells, List.mem_append] at he
    rcases he with he | he
    · unfold Tab.cell at he; split at he
      · simp at he
      · simp at he; subst he; simp
    · have := ih (k + 1) e he
      simp only [List.length_cons]; omega

theorem Tab.cells_single {α : Type} [DecidableEq α] (d : Nat → α) (k : Nat) (v : α) :
    Tab.cells d k [v] = Tab.cell d k v := by simp [Tab.cells]

/-- A single write is a run of one. -/
theorem Tab.set_eq_setRun {α : Type} [DecidableEq α] (d : Nat → α) (t : Tab α) (k : Nat) (v : α) :
    t.set d k v = t.setRun d k [v] := by
  simp [Tab.set, Tab.setRun, Tab.cells_single]

theorem Tab.get_cells {α : Type} [DecidableEq α] (d : Nat → α) (vs : List α) (k i : Nat) (h : i < vs.length) :
    Tab.get d (Tab.cells d k vs) (k + i) = vs[i] := by
  induction vs generalizing k i with
  | nil => simp at h
  | cons v vs ih =>
    simp only [Tab.cells]
    cases i with
    | zero =>
      simp only [Nat.add_zero, List.getElem_cons_zero]
      unfold Tab.cell
      split
      · next hv =>
        simp only [List.nil_append]
        rw [Tab.get_of_not_mem, hv]
        intro e he
        have := Tab.key_cells d vs (k + 1) e he
        omega
      · simp [Tab.get]
    | succ i =>
      have hi : i < vs.length := by simpa using h
      rw [Tab.get_append]
      · have := ih (k + 1) i hi
        rw [show k + (i + 1) = k + 1 + i by omega]
        simpa using this
      · intro e he
        unfold Tab.cell at he; split at he
        · simp at he
        · simp at he; subst he; simp

/-- Reading a key outside the run written. -/
theorem Tab.get_setRun_other {α : Type} [DecidableEq α] (d : Nat → α) (t : Tab α) (k j : Nat) (vs : List α)
    (h : j < k ∨ k + vs.length ≤ j) : Tab.get d (t.setRun d k vs) j = Tab.get d t j := by
  unfold Tab.setRun
  rcases h with h | h
  · rw [List.append_assoc, Tab.get_append_right, Tab.get_below d t k j h]
    intro e he
    rcases List.mem_append.mp he with he | he
    · have := Tab.key_cells d vs k e he; omega
    · have := Tab.key_above t _ e he; omega
  · rw [Tab.get_append, Tab.get_above d t _ j h]
    intro e he
    rcases List.mem_append.mp he with he | he
    · have := Tab.key_below t k e he; omega
    · have := Tab.key_cells d vs k e he; omega

/-- Reading a key inside the run written. -/
theorem Tab.get_setRun_same {α : Type} [DecidableEq α] (d : Nat → α) (t : Tab α) (k i : Nat) (vs : List α)
    (h : i < vs.length) : Tab.get d (t.setRun d k vs) (k + i) = vs[i] := by
  unfold Tab.setRun
  rw [Tab.get_append_right, Tab.get_append, Tab.get_cells d vs k i h]
  · intro e he; have := Tab.key_below t k e he; omega
  · intro e he; have := Tab.key_above t _ e he; omega

@[simp] theorem Tab.get_set_same {α : Type} [DecidableEq α] (d : Nat → α) (t : Tab α) (k : Nat) (v : α) :
    Tab.get d (t.set d k v) k = v := by
  rw [Tab.set_eq_setRun]
  simpa using Tab.get_setRun_same d t k 0 [v] (by simp)

theorem Tab.get_set_other {α : Type} [DecidableEq α] (d : Nat → α) (t : Tab α) (k j : Nat) (v : α) (h : j ≠ k) :
    Tab.get d (t.set d k v) j = Tab.get d t j := by
  rw [Tab.set_eq_setRun]
  exact Tab.get_setRun_other d t k j [v] (by simp; omega)

theorem Tab.get_set {α : Type} [DecidableEq α] (d : Nat → α) (t : Tab α) (k j : Nat) (v : α) :
    Tab.get d (t.set d k v) j = if j = k then v else Tab.get d t j := by
  split
  · next h => subst h; simp
  · next h => exact Tab.get_set_other d t k j v h

theorem Tab.cells_wf {α : Type} [DecidableEq α] (d : Nat → α) (vs : List α) (k : Nat) : Tab.Wf d (Tab.cells d k vs) := by
  induction vs generalizing k with
  | nil => simp [Tab.cells, Tab.Wf]
  | cons v vs ih =>
    obtain ⟨h1, h2⟩ := ih (k + 1)
    simp only [Tab.cells]
    unfold Tab.cell
    split
    · exact ⟨by simpa using h1, by simpa using h2⟩
    · next hv =>
      refine ⟨?_, ?_⟩
      · simp only [List.singleton_append, List.pairwise_cons]
        refine ⟨?_, h1⟩
        intro e he
        have := Tab.key_cells d vs (k + 1) e he
        omega
      · intro e he
        rcases List.mem_append.mp he with he | he
        · simp at he; subst he; exact hv
        · exact h2 e he

theorem Tab.setRun_wf {α : Type} [DecidableEq α] (d : Nat → α) (t : Tab α) (k : Nat) (vs : List α) (h : Tab.Wf d t) :
    Tab.Wf d (t.setRun d k vs) := by
  obtain ⟨hp, hd⟩ := h
  obtain ⟨cp, cd⟩ := Tab.cells_wf d vs k
  refine ⟨?_, ?_⟩
  · unfold Tab.setRun
    rw [List.pairwise_append, List.pairwise_append]
    refine ⟨⟨hp.filter _, cp, ?_⟩, hp.filter _, ?_⟩
    · intro a ha b hb
      have := Tab.key_below t k a ha
      have := Tab.key_cells d vs k b hb
      omega
    · intro a ha b hb
      have hb' := Tab.key_above t _ b hb
      rcases List.mem_append.mp ha with ha | ha
      · have := Tab.key_below t k a ha; omega
      · have := Tab.key_cells d vs k a ha; omega
  · intro e he
    unfold Tab.setRun at he
    rcases List.mem_append.mp he with he | he
    · rcases List.mem_append.mp he with he | he
      · exact hd e (List.mem_filter.mp he).1
      · exact cd e he
    · exact hd e (List.mem_filter.mp he).1

/-- Every write keeps the canonical form. -/
theorem Tab.set_wf {α : Type} [DecidableEq α] (d : Nat → α) (t : Tab α) (k : Nat) (v : α) (h : Tab.Wf d t) :
    Tab.Wf d (t.set d k v) := by
  rw [Tab.set_eq_setRun]; exact Tab.setRun_wf d t k [v] h

/-- A key set twice holds the second value, and nothing else is left of the first. -/
theorem Tab.set_set {α : Type} [DecidableEq α] (d : Nat → α) (t : Tab α) (k : Nat) (v w : α) : (t.set d k v).set d k w = t.set d k w := by
  have hb : Tab.below (t.set d k v) k = Tab.below t k := by
    unfold Tab.set Tab.below Tab.above Tab.cell
    rw [List.filter_append, List.filter_append, List.filter_filter, List.filter_filter]
    have h1 : (if v = d k then ([] : Tab α) else [(k, v)]).filter (fun e => decide (e.1 < k)) = [] := by split <;> simp
    rw [h1]
    have h2 : (t.filter fun e => decide (e.1 < k) && decide (k + 1 ≤ e.1)) = [] := by
      apply List.filter_eq_nil_iff.mpr; intro e _; simp; omega
    rw [h2]; simp
  have ha : Tab.above (t.set d k v) (k + 1) = Tab.above t (k + 1) := by
    unfold Tab.set Tab.below Tab.above Tab.cell
    rw [List.filter_append, List.filter_append, List.filter_filter, List.filter_filter]
    have h1 : (if v = d k then ([] : Tab α) else [(k, v)]).filter (fun e => decide (k + 1 ≤ e.1)) = [] := by split <;> simp
    rw [h1]
    have h2 : (t.filter fun e => decide (k + 1 ≤ e.1) && decide (e.1 < k)) = [] := by
      apply List.filter_eq_nil_iff.mpr; intro e _; simp; omega
    rw [h2]; simp
  show Tab.below (t.set d k v) k ++ Tab.cell d k w ++ Tab.above (t.set d k v) (k + 1) = _
  rw [hb, ha]; rfl

/-- A change at a key keeps the canonical form. -/
theorem Tab.upd_wf {α : Type} [DecidableEq α] (d : Nat → α) (t : Tab α) (k : Nat) (f : α → α) (h : Tab.Wf d t) :
    Tab.Wf d (t.upd d k f) := Tab.set_wf d t k _ h

theorem Tab.nil_wf {α : Type} (d : Nat → α) : Tab.Wf d ([] : Tab α) := by simp [Tab.Wf]

theorem Tab.get_upd {α : Type} [DecidableEq α] (d : Nat → α) (t : Tab α) (k j : Nat) (f : α → α) :
    Tab.get d (t.upd d k f) j = if j = k then f (Tab.get d t k) else Tab.get d t j := by
  simp [Tab.upd, Tab.get_set]

/-- Entries taken out. -/
theorem Tab.filter_wf {α : Type} {d : Nat → α} {t : Tab α} (h : Tab.Wf d t) (p : Nat × α → Bool) : Tab.Wf d (t.filter p) :=
  ⟨h.1.filter _, fun e he => h.2 e (List.mem_filter.mp he).1⟩

/-- Every entry changed, and those that are their key's default then taken out. -/
theorem Tab.mapFilter_wf {α : Type} {d : Nat → α} {t : Tab α} (h : Tab.Wf d t) (f : Nat × α → α) (p : Nat × α → Bool)
    (hp : ∀ e, p e = true → e.2 ≠ d e.1) : Tab.Wf d ((t.map fun e => (e.1, f e)).filter p) := by
  have q : (t.map fun e => (e.1, f e)).Pairwise (fun a b => a.1 < b.1) := List.pairwise_map.mpr h.1
  exact ⟨q.filter _, fun e he => hp e (List.mem_filter.mp he).2⟩

end Sys2Proof
end

