-- ==== Sys2Proof/Laws/State.lean ====
section
/-!
SUPPORT. Sys2Proof/Laws/State.lean: one lemma per field and update for the primitive operations, and what a read after a write gives.
-/
namespace Sys2Proof.Machine

@[simp] theorem State.wr_pending (s : State) (a : Nat) (v : Word) : (s.wr a v).pending = s.pending := rfl
@[simp] theorem State.wr_free (s : State) (a : Nat) (v : Word) : (s.wr a v).free = s.free := rfl
@[simp] theorem State.wr_mem (s : State) (a : Nat) (v : Word) : (s.wr a v).mem = s.mem := rfl
@[simp] theorem State.wr_poison (s : State) (a : Nat) (v : Word) : (s.wr a v).poison = s.poison := rfl
@[simp] theorem State.wr_fuses (s : State) (a : Nat) (v : Word) : (s.wr a v).fuses = s.fuses := rfl
@[simp] theorem State.wr_cores (s : State) (a : Nat) (v : Word) : (s.wr a v).cores = s.cores := rfl
@[simp] theorem State.wr_sorters (s : State) (a : Nat) (v : Word) : (s.wr a v).sorters = s.sorters := rfl
@[simp] theorem State.wr_dies (s : State) (a : Nat) (v : Word) : (s.wr a v).dies = s.dies := rfl
@[simp] theorem State.wr_out (s : State) (a : Nat) (v : Word) : (s.wr a v).out = s.out := rfl
@[simp] theorem State.wr_log (s : State) (a : Nat) (v : Word) : (s.wr a v).log = s.log := rfl
@[simp] theorem State.wr_rpl (s : State) (a : Nat) (v : Word) : (s.wr a v).rpl = s.rpl := rfl
@[simp] theorem State.wr_sync (s : State) (a : Nat) (v : Word) : (s.wr a v).sync = s.sync := rfl
@[simp] theorem State.wr_noc (s : State) (a : Nat) (v : Word) : (s.wr a v).noc = s.noc := rfl
@[simp] theorem State.wr_host (s : State) (a : Nat) (v : Word) : (s.wr a v).host = s.host := rfl
@[simp] theorem State.wr_upd (s : State) (a : Nat) (v : Word) : (s.wr a v).upd = s.upd := rfl
@[simp] theorem State.wr_fab (s : State) (a : Nat) (v : Word) : (s.wr a v).fab = s.fab := rfl
@[simp] theorem State.wr_twn (s : State) (a : Nat) (v : Word) : (s.wr a v).twn = s.twn := rfl
@[simp] theorem State.wr_pwr (s : State) (a : Nat) (v : Word) : (s.wr a v).pwr = s.pwr := rfl
@[simp] theorem State.wr_sys (s : State) (a : Nat) (v : Word) : (s.wr a v).sys = s.sys := rfl

@[simp] theorem State.bump_pending (s : State) (a n : Nat) : (s.bump a n).pending = s.pending := rfl
@[simp] theorem State.bump_free (s : State) (a n : Nat) : (s.bump a n).free = s.free := rfl
@[simp] theorem State.bump_mem (s : State) (a n : Nat) : (s.bump a n).mem = s.mem := rfl
@[simp] theorem State.bump_poison (s : State) (a n : Nat) : (s.bump a n).poison = s.poison := rfl
@[simp] theorem State.bump_fuses (s : State) (a n : Nat) : (s.bump a n).fuses = s.fuses := rfl
@[simp] theorem State.bump_cores (s : State) (a n : Nat) : (s.bump a n).cores = s.cores := rfl
@[simp] theorem State.bump_sorters (s : State) (a n : Nat) : (s.bump a n).sorters = s.sorters := rfl
@[simp] theorem State.bump_dies (s : State) (a n : Nat) : (s.bump a n).dies = s.dies := rfl
@[simp] theorem State.bump_out (s : State) (a n : Nat) : (s.bump a n).out = s.out := rfl
@[simp] theorem State.bump_log (s : State) (a n : Nat) : (s.bump a n).log = s.log := rfl
@[simp] theorem State.bump_rpl (s : State) (a n : Nat) : (s.bump a n).rpl = s.rpl := rfl
@[simp] theorem State.bump_sync (s : State) (a n : Nat) : (s.bump a n).sync = s.sync := rfl
@[simp] theorem State.bump_noc (s : State) (a n : Nat) : (s.bump a n).noc = s.noc := rfl
@[simp] theorem State.bump_host (s : State) (a n : Nat) : (s.bump a n).host = s.host := rfl
@[simp] theorem State.bump_upd (s : State) (a n : Nat) : (s.bump a n).upd = s.upd := rfl
@[simp] theorem State.bump_fab (s : State) (a n : Nat) : (s.bump a n).fab = s.fab := rfl
@[simp] theorem State.bump_twn (s : State) (a n : Nat) : (s.bump a n).twn = s.twn := rfl
@[simp] theorem State.bump_pwr (s : State) (a n : Nat) : (s.bump a n).pwr = s.pwr := rfl
@[simp] theorem State.bump_sys (s : State) (a n : Nat) : (s.bump a n).sys = s.sys := rfl

@[simp] theorem State.setFld_pending (s : State) (a : Nat) (f : Fld) (v : Nat) : (s.setFld a f v).pending = s.pending := rfl
@[simp] theorem State.setFld_free (s : State) (a : Nat) (f : Fld) (v : Nat) : (s.setFld a f v).free = s.free := rfl
@[simp] theorem State.setFld_mem (s : State) (a : Nat) (f : Fld) (v : Nat) : (s.setFld a f v).mem = s.mem := rfl
@[simp] theorem State.setFld_poison (s : State) (a : Nat) (f : Fld) (v : Nat) : (s.setFld a f v).poison = s.poison := rfl
@[simp] theorem State.setFld_fuses (s : State) (a : Nat) (f : Fld) (v : Nat) : (s.setFld a f v).fuses = s.fuses := rfl
@[simp] theorem State.setFld_cores (s : State) (a : Nat) (f : Fld) (v : Nat) : (s.setFld a f v).cores = s.cores := rfl
@[simp] theorem State.setFld_sorters (s : State) (a : Nat) (f : Fld) (v : Nat) : (s.setFld a f v).sorters = s.sorters := rfl
@[simp] theorem State.setFld_dies (s : State) (a : Nat) (f : Fld) (v : Nat) : (s.setFld a f v).dies = s.dies := rfl
@[simp] theorem State.setFld_out (s : State) (a : Nat) (f : Fld) (v : Nat) : (s.setFld a f v).out = s.out := rfl
@[simp] theorem State.setFld_log (s : State) (a : Nat) (f : Fld) (v : Nat) : (s.setFld a f v).log = s.log := rfl
@[simp] theorem State.setFld_rpl (s : State) (a : Nat) (f : Fld) (v : Nat) : (s.setFld a f v).rpl = s.rpl := rfl
@[simp] theorem State.setFld_sync (s : State) (a : Nat) (f : Fld) (v : Nat) : (s.setFld a f v).sync = s.sync := rfl
@[simp] theorem State.setFld_noc (s : State) (a : Nat) (f : Fld) (v : Nat) : (s.setFld a f v).noc = s.noc := rfl
@[simp] theorem State.setFld_host (s : State) (a : Nat) (f : Fld) (v : Nat) : (s.setFld a f v).host = s.host := rfl
@[simp] theorem State.setFld_upd (s : State) (a : Nat) (f : Fld) (v : Nat) : (s.setFld a f v).upd = s.upd := rfl
@[simp] theorem State.setFld_fab (s : State) (a : Nat) (f : Fld) (v : Nat) : (s.setFld a f v).fab = s.fab := rfl
@[simp] theorem State.setFld_twn (s : State) (a : Nat) (f : Fld) (v : Nat) : (s.setFld a f v).twn = s.twn := rfl
@[simp] theorem State.setFld_pwr (s : State) (a : Nat) (f : Fld) (v : Nat) : (s.setFld a f v).pwr = s.pwr := rfl
@[simp] theorem State.setFld_sys (s : State) (a : Nat) (f : Fld) (v : Nat) : (s.setFld a f v).sys = s.sys := rfl

@[simp] theorem State.setCore_pending (s : State) (c : CoreId) (x : CoreSt) : (s.setCore c x).pending = s.pending := rfl
@[simp] theorem State.setCore_free (s : State) (c : CoreId) (x : CoreSt) : (s.setCore c x).free = s.free := rfl
@[simp] theorem State.setCore_mem (s : State) (c : CoreId) (x : CoreSt) : (s.setCore c x).mem = s.mem := rfl
@[simp] theorem State.setCore_poison (s : State) (c : CoreId) (x : CoreSt) : (s.setCore c x).poison = s.poison := rfl
@[simp] theorem State.setCore_regs (s : State) (c : CoreId) (x : CoreSt) : (s.setCore c x).regs = s.regs := rfl
@[simp] theorem State.setCore_fuses (s : State) (c : CoreId) (x : CoreSt) : (s.setCore c x).fuses = s.fuses := rfl
@[simp] theorem State.setCore_sorters (s : State) (c : CoreId) (x : CoreSt) : (s.setCore c x).sorters = s.sorters := rfl
@[simp] theorem State.setCore_dies (s : State) (c : CoreId) (x : CoreSt) : (s.setCore c x).dies = s.dies := rfl
@[simp] theorem State.setCore_out (s : State) (c : CoreId) (x : CoreSt) : (s.setCore c x).out = s.out := rfl
@[simp] theorem State.setCore_log (s : State) (c : CoreId) (x : CoreSt) : (s.setCore c x).log = s.log := rfl
@[simp] theorem State.setCore_rpl (s : State) (c : CoreId) (x : CoreSt) : (s.setCore c x).rpl = s.rpl := rfl
@[simp] theorem State.setCore_sync (s : State) (c : CoreId) (x : CoreSt) : (s.setCore c x).sync = s.sync := rfl
@[simp] theorem State.setCore_noc (s : State) (c : CoreId) (x : CoreSt) : (s.setCore c x).noc = s.noc := rfl
@[simp] theorem State.setCore_host (s : State) (c : CoreId) (x : CoreSt) : (s.setCore c x).host = s.host := rfl
@[simp] theorem State.setCore_upd (s : State) (c : CoreId) (x : CoreSt) : (s.setCore c x).upd = s.upd := rfl
@[simp] theorem State.setCore_fab (s : State) (c : CoreId) (x : CoreSt) : (s.setCore c x).fab = s.fab := rfl
@[simp] theorem State.setCore_twn (s : State) (c : CoreId) (x : CoreSt) : (s.setCore c x).twn = s.twn := rfl
@[simp] theorem State.setCore_pwr (s : State) (c : CoreId) (x : CoreSt) : (s.setCore c x).pwr = s.pwr := rfl
@[simp] theorem State.setCore_sys (s : State) (c : CoreId) (x : CoreSt) : (s.setCore c x).sys = s.sys := rfl

@[simp] theorem State.modCore_pending (s : State) (c : CoreId) (f : CoreSt → CoreSt) : (s.modCore c f).pending = s.pending := rfl
@[simp] theorem State.modCore_free (s : State) (c : CoreId) (f : CoreSt → CoreSt) : (s.modCore c f).free = s.free := rfl
@[simp] theorem State.modCore_mem (s : State) (c : CoreId) (f : CoreSt → CoreSt) : (s.modCore c f).mem = s.mem := rfl
@[simp] theorem State.modCore_poison (s : State) (c : CoreId) (f : CoreSt → CoreSt) : (s.modCore c f).poison = s.poison := rfl
@[simp] theorem State.modCore_regs (s : State) (c : CoreId) (f : CoreSt → CoreSt) : (s.modCore c f).regs = s.regs := rfl
@[simp] theorem State.modCore_fuses (s : State) (c : CoreId) (f : CoreSt → CoreSt) : (s.modCore c f).fuses = s.fuses := rfl
@[simp] theorem State.modCore_sorters (s : State) (c : CoreId) (f : CoreSt → CoreSt) : (s.modCore c f).sorters = s.sorters := rfl
@[simp] theorem State.modCore_dies (s : State) (c : CoreId) (f : CoreSt → CoreSt) : (s.modCore c f).dies = s.dies := rfl
@[simp] theorem State.modCore_out (s : State) (c : CoreId) (f : CoreSt → CoreSt) : (s.modCore c f).out = s.out := rfl
@[simp] theorem State.modCore_log (s : State) (c : CoreId) (f : CoreSt → CoreSt) : (s.modCore c f).log = s.log := rfl
@[simp] theorem State.modCore_rpl (s : State) (c : CoreId) (f : CoreSt → CoreSt) : (s.modCore c f).rpl = s.rpl := rfl
@[simp] theorem State.modCore_sync (s : State) (c : CoreId) (f : CoreSt → CoreSt) : (s.modCore c f).sync = s.sync := rfl
@[simp] theorem State.modCore_noc (s : State) (c : CoreId) (f : CoreSt → CoreSt) : (s.modCore c f).noc = s.noc := rfl
@[simp] theorem State.modCore_host (s : State) (c : CoreId) (f : CoreSt → CoreSt) : (s.modCore c f).host = s.host := rfl
@[simp] theorem State.modCore_upd (s : State) (c : CoreId) (f : CoreSt → CoreSt) : (s.modCore c f).upd = s.upd := rfl
@[simp] theorem State.modCore_fab (s : State) (c : CoreId) (f : CoreSt → CoreSt) : (s.modCore c f).fab = s.fab := rfl
@[simp] theorem State.modCore_twn (s : State) (c : CoreId) (f : CoreSt → CoreSt) : (s.modCore c f).twn = s.twn := rfl
@[simp] theorem State.modCore_pwr (s : State) (c : CoreId) (f : CoreSt → CoreSt) : (s.modCore c f).pwr = s.pwr := rfl
@[simp] theorem State.modCore_sys (s : State) (c : CoreId) (f : CoreSt → CoreSt) : (s.modCore c f).sys = s.sys := rfl

@[simp] theorem State.setDie_pending (s : State) (d : DieId) (x : DieSt) : (s.setDie d x).pending = s.pending := rfl
@[simp] theorem State.setDie_free (s : State) (d : DieId) (x : DieSt) : (s.setDie d x).free = s.free := rfl
@[simp] theorem State.setDie_mem (s : State) (d : DieId) (x : DieSt) : (s.setDie d x).mem = s.mem := rfl
@[simp] theorem State.setDie_poison (s : State) (d : DieId) (x : DieSt) : (s.setDie d x).poison = s.poison := rfl
@[simp] theorem State.setDie_regs (s : State) (d : DieId) (x : DieSt) : (s.setDie d x).regs = s.regs := rfl
@[simp] theorem State.setDie_fuses (s : State) (d : DieId) (x : DieSt) : (s.setDie d x).fuses = s.fuses := rfl
@[simp] theorem State.setDie_cores (s : State) (d : DieId) (x : DieSt) : (s.setDie d x).cores = s.cores := rfl
@[simp] theorem State.setDie_sorters (s : State) (d : DieId) (x : DieSt) : (s.setDie d x).sorters = s.sorters := rfl
@[simp] theorem State.setDie_out (s : State) (d : DieId) (x : DieSt) : (s.setDie d x).out = s.out := rfl
@[simp] theorem State.setDie_log (s : State) (d : DieId) (x : DieSt) : (s.setDie d x).log = s.log := rfl
@[simp] theorem State.setDie_rpl (s : State) (d : DieId) (x : DieSt) : (s.setDie d x).rpl = s.rpl := rfl
@[simp] theorem State.setDie_sync (s : State) (d : DieId) (x : DieSt) : (s.setDie d x).sync = s.sync := rfl
@[simp] theorem State.setDie_noc (s : State) (d : DieId) (x : DieSt) : (s.setDie d x).noc = s.noc := rfl
@[simp] theorem State.setDie_host (s : State) (d : DieId) (x : DieSt) : (s.setDie d x).host = s.host := rfl
@[simp] theorem State.setDie_upd (s : State) (d : DieId) (x : DieSt) : (s.setDie d x).upd = s.upd := rfl
@[simp] theorem State.setDie_fab (s : State) (d : DieId) (x : DieSt) : (s.setDie d x).fab = s.fab := rfl
@[simp] theorem State.setDie_twn (s : State) (d : DieId) (x : DieSt) : (s.setDie d x).twn = s.twn := rfl
@[simp] theorem State.setDie_pwr (s : State) (d : DieId) (x : DieSt) : (s.setDie d x).pwr = s.pwr := rfl
@[simp] theorem State.setDie_sys (s : State) (d : DieId) (x : DieSt) : (s.setDie d x).sys = s.sys := rfl

@[simp] theorem State.modDie_pending (s : State) (d : DieId) (f : DieSt → DieSt) : (s.modDie d f).pending = s.pending := rfl
@[simp] theorem State.modDie_free (s : State) (d : DieId) (f : DieSt → DieSt) : (s.modDie d f).free = s.free := rfl
@[simp] theorem State.modDie_mem (s : State) (d : DieId) (f : DieSt → DieSt) : (s.modDie d f).mem = s.mem := rfl
@[simp] theorem State.modDie_poison (s : State) (d : DieId) (f : DieSt → DieSt) : (s.modDie d f).poison = s.poison := rfl
@[simp] theorem State.modDie_regs (s : State) (d : DieId) (f : DieSt → DieSt) : (s.modDie d f).regs = s.regs := rfl
@[simp] theorem State.modDie_fuses (s : State) (d : DieId) (f : DieSt → DieSt) : (s.modDie d f).fuses = s.fuses := rfl
@[simp] theorem State.modDie_cores (s : State) (d : DieId) (f : DieSt → DieSt) : (s.modDie d f).cores = s.cores := rfl
@[simp] theorem State.modDie_sorters (s : State) (d : DieId) (f : DieSt → DieSt) : (s.modDie d f).sorters = s.sorters := rfl
@[simp] theorem State.modDie_out (s : State) (d : DieId) (f : DieSt → DieSt) : (s.modDie d f).out = s.out := rfl
@[simp] theorem State.modDie_log (s : State) (d : DieId) (f : DieSt → DieSt) : (s.modDie d f).log = s.log := rfl
@[simp] theorem State.modDie_rpl (s : State) (d : DieId) (f : DieSt → DieSt) : (s.modDie d f).rpl = s.rpl := rfl
@[simp] theorem State.modDie_sync (s : State) (d : DieId) (f : DieSt → DieSt) : (s.modDie d f).sync = s.sync := rfl
@[simp] theorem State.modDie_noc (s : State) (d : DieId) (f : DieSt → DieSt) : (s.modDie d f).noc = s.noc := rfl
@[simp] theorem State.modDie_host (s : State) (d : DieId) (f : DieSt → DieSt) : (s.modDie d f).host = s.host := rfl
@[simp] theorem State.modDie_upd (s : State) (d : DieId) (f : DieSt → DieSt) : (s.modDie d f).upd = s.upd := rfl
@[simp] theorem State.modDie_fab (s : State) (d : DieId) (f : DieSt → DieSt) : (s.modDie d f).fab = s.fab := rfl
@[simp] theorem State.modDie_twn (s : State) (d : DieId) (f : DieSt → DieSt) : (s.modDie d f).twn = s.twn := rfl
@[simp] theorem State.modDie_pwr (s : State) (d : DieId) (f : DieSt → DieSt) : (s.modDie d f).pwr = s.pwr := rfl
@[simp] theorem State.modDie_sys (s : State) (d : DieId) (f : DieSt → DieSt) : (s.modDie d f).sys = s.sys := rfl

@[simp] theorem State.setSorter_pending (s : State) (k : ClusterId) (x : SorterSt) : (s.setSorter k x).pending = s.pending := rfl
@[simp] theorem State.setSorter_free (s : State) (k : ClusterId) (x : SorterSt) : (s.setSorter k x).free = s.free := rfl
@[simp] theorem State.setSorter_mem (s : State) (k : ClusterId) (x : SorterSt) : (s.setSorter k x).mem = s.mem := rfl
@[simp] theorem State.setSorter_poison (s : State) (k : ClusterId) (x : SorterSt) : (s.setSorter k x).poison = s.poison := rfl
@[simp] theorem State.setSorter_regs (s : State) (k : ClusterId) (x : SorterSt) : (s.setSorter k x).regs = s.regs := rfl
@[simp] theorem State.setSorter_fuses (s : State) (k : ClusterId) (x : SorterSt) : (s.setSorter k x).fuses = s.fuses := rfl
@[simp] theorem State.setSorter_cores (s : State) (k : ClusterId) (x : SorterSt) : (s.setSorter k x).cores = s.cores := rfl
@[simp] theorem State.setSorter_dies (s : State) (k : ClusterId) (x : SorterSt) : (s.setSorter k x).dies = s.dies := rfl
@[simp] theorem State.setSorter_out (s : State) (k : ClusterId) (x : SorterSt) : (s.setSorter k x).out = s.out := rfl
@[simp] theorem State.setSorter_log (s : State) (k : ClusterId) (x : SorterSt) : (s.setSorter k x).log = s.log := rfl
@[simp] theorem State.setSorter_rpl (s : State) (k : ClusterId) (x : SorterSt) : (s.setSorter k x).rpl = s.rpl := rfl
@[simp] theorem State.setSorter_sync (s : State) (k : ClusterId) (x : SorterSt) : (s.setSorter k x).sync = s.sync := rfl
@[simp] theorem State.setSorter_noc (s : State) (k : ClusterId) (x : SorterSt) : (s.setSorter k x).noc = s.noc := rfl
@[simp] theorem State.setSorter_host (s : State) (k : ClusterId) (x : SorterSt) : (s.setSorter k x).host = s.host := rfl
@[simp] theorem State.setSorter_upd (s : State) (k : ClusterId) (x : SorterSt) : (s.setSorter k x).upd = s.upd := rfl
@[simp] theorem State.setSorter_fab (s : State) (k : ClusterId) (x : SorterSt) : (s.setSorter k x).fab = s.fab := rfl
@[simp] theorem State.setSorter_twn (s : State) (k : ClusterId) (x : SorterSt) : (s.setSorter k x).twn = s.twn := rfl
@[simp] theorem State.setSorter_pwr (s : State) (k : ClusterId) (x : SorterSt) : (s.setSorter k x).pwr = s.pwr := rfl
@[simp] theorem State.setSorter_sys (s : State) (k : ClusterId) (x : SorterSt) : (s.setSorter k x).sys = s.sys := rfl

@[simp] theorem State.setPoison_pending (s : State) (a n : Nat) (p : Bool) : (s.setPoison a n p).pending = s.pending := rfl
@[simp] theorem State.setPoison_free (s : State) (a n : Nat) (p : Bool) : (s.setPoison a n p).free = s.free := rfl
@[simp] theorem State.setPoison_mem (s : State) (a n : Nat) (p : Bool) : (s.setPoison a n p).mem = s.mem := rfl
@[simp] theorem State.setPoison_regs (s : State) (a n : Nat) (p : Bool) : (s.setPoison a n p).regs = s.regs := rfl
@[simp] theorem State.setPoison_fuses (s : State) (a n : Nat) (p : Bool) : (s.setPoison a n p).fuses = s.fuses := rfl
@[simp] theorem State.setPoison_cores (s : State) (a n : Nat) (p : Bool) : (s.setPoison a n p).cores = s.cores := rfl
@[simp] theorem State.setPoison_sorters (s : State) (a n : Nat) (p : Bool) : (s.setPoison a n p).sorters = s.sorters := rfl
@[simp] theorem State.setPoison_dies (s : State) (a n : Nat) (p : Bool) : (s.setPoison a n p).dies = s.dies := rfl
@[simp] theorem State.setPoison_out (s : State) (a n : Nat) (p : Bool) : (s.setPoison a n p).out = s.out := rfl
@[simp] theorem State.setPoison_log (s : State) (a n : Nat) (p : Bool) : (s.setPoison a n p).log = s.log := rfl
@[simp] theorem State.setPoison_rpl (s : State) (a n : Nat) (p : Bool) : (s.setPoison a n p).rpl = s.rpl := rfl
@[simp] theorem State.setPoison_sync (s : State) (a n : Nat) (p : Bool) : (s.setPoison a n p).sync = s.sync := rfl
@[simp] theorem State.setPoison_noc (s : State) (a n : Nat) (p : Bool) : (s.setPoison a n p).noc = s.noc := rfl
@[simp] theorem State.setPoison_host (s : State) (a n : Nat) (p : Bool) : (s.setPoison a n p).host = s.host := rfl
@[simp] theorem State.setPoison_upd (s : State) (a n : Nat) (p : Bool) : (s.setPoison a n p).upd = s.upd := rfl
@[simp] theorem State.setPoison_fab (s : State) (a n : Nat) (p : Bool) : (s.setPoison a n p).fab = s.fab := rfl
@[simp] theorem State.setPoison_twn (s : State) (a n : Nat) (p : Bool) : (s.setPoison a n p).twn = s.twn := rfl
@[simp] theorem State.setPoison_pwr (s : State) (a n : Nat) (p : Bool) : (s.setPoison a n p).pwr = s.pwr := rfl
@[simp] theorem State.setPoison_sys (s : State) (a n : Nat) (p : Bool) : (s.setPoison a n p).sys = s.sys := rfl

@[simp] theorem State.putMem_pending (s : State) (a : Nat) (bs : List Byte) : (s.putMem a bs).pending = s.pending := rfl
@[simp] theorem State.putMem_free (s : State) (a : Nat) (bs : List Byte) : (s.putMem a bs).free = s.free := rfl
@[simp] theorem State.putMem_regs (s : State) (a : Nat) (bs : List Byte) : (s.putMem a bs).regs = s.regs := rfl
@[simp] theorem State.putMem_fuses (s : State) (a : Nat) (bs : List Byte) : (s.putMem a bs).fuses = s.fuses := rfl
@[simp] theorem State.putMem_cores (s : State) (a : Nat) (bs : List Byte) : (s.putMem a bs).cores = s.cores := rfl
@[simp] theorem State.putMem_sorters (s : State) (a : Nat) (bs : List Byte) : (s.putMem a bs).sorters = s.sorters := rfl
@[simp] theorem State.putMem_dies (s : State) (a : Nat) (bs : List Byte) : (s.putMem a bs).dies = s.dies := rfl
@[simp] theorem State.putMem_out (s : State) (a : Nat) (bs : List Byte) : (s.putMem a bs).out = s.out := rfl
@[simp] theorem State.putMem_log (s : State) (a : Nat) (bs : List Byte) : (s.putMem a bs).log = s.log := rfl
@[simp] theorem State.putMem_rpl (s : State) (a : Nat) (bs : List Byte) : (s.putMem a bs).rpl = s.rpl := rfl
@[simp] theorem State.putMem_sync (s : State) (a : Nat) (bs : List Byte) : (s.putMem a bs).sync = s.sync := rfl
@[simp] theorem State.putMem_noc (s : State) (a : Nat) (bs : List Byte) : (s.putMem a bs).noc = s.noc := rfl
@[simp] theorem State.putMem_host (s : State) (a : Nat) (bs : List Byte) : (s.putMem a bs).host = s.host := rfl
@[simp] theorem State.putMem_upd (s : State) (a : Nat) (bs : List Byte) : (s.putMem a bs).upd = s.upd := rfl
@[simp] theorem State.putMem_fab (s : State) (a : Nat) (bs : List Byte) : (s.putMem a bs).fab = s.fab := rfl
@[simp] theorem State.putMem_twn (s : State) (a : Nat) (bs : List Byte) : (s.putMem a bs).twn = s.twn := rfl
@[simp] theorem State.putMem_pwr (s : State) (a : Nat) (bs : List Byte) : (s.putMem a bs).pwr = s.pwr := rfl
@[simp] theorem State.putMem_sys (s : State) (a : Nat) (bs : List Byte) : (s.putMem a bs).sys = s.sys := rfl

@[simp] theorem State.emit_pending (s : State) (o : Out) : (s.emit o).pending = s.pending := rfl
@[simp] theorem State.emit_free (s : State) (o : Out) : (s.emit o).free = s.free := rfl
@[simp] theorem State.emit_mem (s : State) (o : Out) : (s.emit o).mem = s.mem := rfl
@[simp] theorem State.emit_poison (s : State) (o : Out) : (s.emit o).poison = s.poison := rfl
@[simp] theorem State.emit_regs (s : State) (o : Out) : (s.emit o).regs = s.regs := rfl
@[simp] theorem State.emit_fuses (s : State) (o : Out) : (s.emit o).fuses = s.fuses := rfl
@[simp] theorem State.emit_cores (s : State) (o : Out) : (s.emit o).cores = s.cores := rfl
@[simp] theorem State.emit_sorters (s : State) (o : Out) : (s.emit o).sorters = s.sorters := rfl
@[simp] theorem State.emit_dies (s : State) (o : Out) : (s.emit o).dies = s.dies := rfl
@[simp] theorem State.emit_log (s : State) (o : Out) : (s.emit o).log = s.log := rfl
@[simp] theorem State.emit_rpl (s : State) (o : Out) : (s.emit o).rpl = s.rpl := rfl
@[simp] theorem State.emit_sync (s : State) (o : Out) : (s.emit o).sync = s.sync := rfl
@[simp] theorem State.emit_noc (s : State) (o : Out) : (s.emit o).noc = s.noc := rfl
@[simp] theorem State.emit_host (s : State) (o : Out) : (s.emit o).host = s.host := rfl
@[simp] theorem State.emit_upd (s : State) (o : Out) : (s.emit o).upd = s.upd := rfl
@[simp] theorem State.emit_fab (s : State) (o : Out) : (s.emit o).fab = s.fab := rfl
@[simp] theorem State.emit_twn (s : State) (o : Out) : (s.emit o).twn = s.twn := rfl
@[simp] theorem State.emit_pwr (s : State) (o : Out) : (s.emit o).pwr = s.pwr := rfl
@[simp] theorem State.emit_sys (s : State) (o : Out) : (s.emit o).sys = s.sys := rfl

@[simp] theorem State.take_pending (s : State) : s.take.2.pending = s.pending := rfl
@[simp] theorem State.take_mem (s : State) : s.take.2.mem = s.mem := rfl
@[simp] theorem State.take_poison (s : State) : s.take.2.poison = s.poison := rfl
@[simp] theorem State.take_regs (s : State) : s.take.2.regs = s.regs := rfl
@[simp] theorem State.take_fuses (s : State) : s.take.2.fuses = s.fuses := rfl
@[simp] theorem State.take_cores (s : State) : s.take.2.cores = s.cores := rfl
@[simp] theorem State.take_sorters (s : State) : s.take.2.sorters = s.sorters := rfl
@[simp] theorem State.take_dies (s : State) : s.take.2.dies = s.dies := rfl
@[simp] theorem State.take_out (s : State) : s.take.2.out = s.out := rfl
@[simp] theorem State.take_log (s : State) : s.take.2.log = s.log := rfl
@[simp] theorem State.take_rpl (s : State) : s.take.2.rpl = s.rpl := rfl
@[simp] theorem State.take_sync (s : State) : s.take.2.sync = s.sync := rfl
@[simp] theorem State.take_noc (s : State) : s.take.2.noc = s.noc := rfl
@[simp] theorem State.take_host (s : State) : s.take.2.host = s.host := rfl
@[simp] theorem State.take_upd (s : State) : s.take.2.upd = s.upd := rfl
@[simp] theorem State.take_fab (s : State) : s.take.2.fab = s.fab := rfl
@[simp] theorem State.take_twn (s : State) : s.take.2.twn = s.twn := rfl
@[simp] theorem State.take_pwr (s : State) : s.take.2.pwr = s.pwr := rfl
@[simp] theorem State.take_sys (s : State) : s.take.2.sys = s.sys := rfl
@[simp] theorem State.take_free (s : State) : s.take.2.free = s.free + 1 := rfl
@[simp] theorem State.emit_out (s : State) (o : Out) : (s.emit o).out = s.out ++ [o] := rfl

/-! ### Reads that look at one field alone -/

@[simp] theorem State.core_wr (s : State) (a : Nat) (v : Word) (q : CoreId) : (s.wr a v).core q = s.core q := rfl
@[simp] theorem State.die_wr (s : State) (a : Nat) (v : Word) (q : DieId) : (s.wr a v).die q = s.die q := rfl
@[simp] theorem State.sorter_wr (s : State) (a : Nat) (v : Word) (q : ClusterId) : (s.wr a v).sorter q = s.sorter q := rfl
@[simp] theorem State.rdMem_wr (s : State) (a : Nat) (v : Word) (q m : Nat) : (s.wr a v).rdMem q m = s.rdMem q m := rfl
@[simp] theorem State.core_bump (s : State) (a n : Nat) (q : CoreId) : (s.bump a n).core q = s.core q := rfl
@[simp] theorem State.die_bump (s : State) (a n : Nat) (q : DieId) : (s.bump a n).die q = s.die q := rfl
@[simp] theorem State.sorter_bump (s : State) (a n : Nat) (q : ClusterId) : (s.bump a n).sorter q = s.sorter q := rfl
@[simp] theorem State.rdMem_bump (s : State) (a n : Nat) (q m : Nat) : (s.bump a n).rdMem q m = s.rdMem q m := rfl
@[simp] theorem State.core_setFld (s : State) (a : Nat) (f : Fld) (v : Nat) (q : CoreId) : (s.setFld a f v).core q = s.core q := rfl
@[simp] theorem State.die_setFld (s : State) (a : Nat) (f : Fld) (v : Nat) (q : DieId) : (s.setFld a f v).die q = s.die q := rfl
@[simp] theorem State.sorter_setFld (s : State) (a : Nat) (f : Fld) (v : Nat) (q : ClusterId) : (s.setFld a f v).sorter q = s.sorter q := rfl
@[simp] theorem State.rdMem_setFld (s : State) (a : Nat) (f : Fld) (v : Nat) (q m : Nat) : (s.setFld a f v).rdMem q m = s.rdMem q m := rfl
@[simp] theorem State.rd_setCore (s : State) (c : CoreId) (x : CoreSt) (q : Nat) : (s.setCore c x).rd q = s.rd q := rfl
@[simp] theorem State.die_setCore (s : State) (c : CoreId) (x : CoreSt) (q : DieId) : (s.setCore c x).die q = s.die q := rfl
@[simp] theorem State.sorter_setCore (s : State) (c : CoreId) (x : CoreSt) (q : ClusterId) : (s.setCore c x).sorter q = s.sorter q := rfl
@[simp] theorem State.rdMem_setCore (s : State) (c : CoreId) (x : CoreSt) (q m : Nat) : (s.setCore c x).rdMem q m = s.rdMem q m := rfl
@[simp] theorem State.rd_modCore (s : State) (c : CoreId) (f : CoreSt → CoreSt) (q : Nat) : (s.modCore c f).rd q = s.rd q := rfl
@[simp] theorem State.die_modCore (s : State) (c : CoreId) (f : CoreSt → CoreSt) (q : DieId) : (s.modCore c f).die q = s.die q := rfl
@[simp] theorem State.sorter_modCore (s : State) (c : CoreId) (f : CoreSt → CoreSt) (q : ClusterId) : (s.modCore c f).sorter q = s.sorter q := rfl
@[simp] theorem State.rdMem_modCore (s : State) (c : CoreId) (f : CoreSt → CoreSt) (q m : Nat) : (s.modCore c f).rdMem q m = s.rdMem q m := rfl
@[simp] theorem State.rd_setDie (s : State) (d : DieId) (x : DieSt) (q : Nat) : (s.setDie d x).rd q = s.rd q := rfl
@[simp] theorem State.core_setDie (s : State) (d : DieId) (x : DieSt) (q : CoreId) : (s.setDie d x).core q = s.core q := rfl
@[simp] theorem State.sorter_setDie (s : State) (d : DieId) (x : DieSt) (q : ClusterId) : (s.setDie d x).sorter q = s.sorter q := rfl
@[simp] theorem State.rdMem_setDie (s : State) (d : DieId) (x : DieSt) (q m : Nat) : (s.setDie d x).rdMem q m = s.rdMem q m := rfl
@[simp] theorem State.rd_modDie (s : State) (d : DieId) (f : DieSt → DieSt) (q : Nat) : (s.modDie d f).rd q = s.rd q := rfl
@[simp] theorem State.core_modDie (s : State) (d : DieId) (f : DieSt → DieSt) (q : CoreId) : (s.modDie d f).core q = s.core q := rfl
@[simp] theorem State.sorter_modDie (s : State) (d : DieId) (f : DieSt → DieSt) (q : ClusterId) : (s.modDie d f).sorter q = s.sorter q := rfl
@[simp] theorem State.rdMem_modDie (s : State) (d : DieId) (f : DieSt → DieSt) (q m : Nat) : (s.modDie d f).rdMem q m = s.rdMem q m := rfl
@[simp] theorem State.rd_setSorter (s : State) (k : ClusterId) (x : SorterSt) (q : Nat) : (s.setSorter k x).rd q = s.rd q := rfl
@[simp] theorem State.core_setSorter (s : State) (k : ClusterId) (x : SorterSt) (q : CoreId) : (s.setSorter k x).core q = s.core q := rfl
@[simp] theorem State.die_setSorter (s : State) (k : ClusterId) (x : SorterSt) (q : DieId) : (s.setSorter k x).die q = s.die q := rfl
@[simp] theorem State.rdMem_setSorter (s : State) (k : ClusterId) (x : SorterSt) (q m : Nat) : (s.setSorter k x).rdMem q m = s.rdMem q m := rfl
@[simp] theorem State.rd_setPoison (s : State) (a n : Nat) (p : Bool) (q : Nat) : (s.setPoison a n p).rd q = s.rd q := rfl
@[simp] theorem State.core_setPoison (s : State) (a n : Nat) (p : Bool) (q : CoreId) : (s.setPoison a n p).core q = s.core q := rfl
@[simp] theorem State.die_setPoison (s : State) (a n : Nat) (p : Bool) (q : DieId) : (s.setPoison a n p).die q = s.die q := rfl
@[simp] theorem State.sorter_setPoison (s : State) (a n : Nat) (p : Bool) (q : ClusterId) : (s.setPoison a n p).sorter q = s.sorter q := rfl
@[simp] theorem State.rdMem_setPoison (s : State) (a n : Nat) (p : Bool) (q m : Nat) : (s.setPoison a n p).rdMem q m = s.rdMem q m := rfl
@[simp] theorem State.rd_putMem (s : State) (a : Nat) (bs : List Byte) (q : Nat) : (s.putMem a bs).rd q = s.rd q := rfl
@[simp] theorem State.core_putMem (s : State) (a : Nat) (bs : List Byte) (q : CoreId) : (s.putMem a bs).core q = s.core q := rfl
@[simp] theorem State.die_putMem (s : State) (a : Nat) (bs : List Byte) (q : DieId) : (s.putMem a bs).die q = s.die q := rfl
@[simp] theorem State.sorter_putMem (s : State) (a : Nat) (bs : List Byte) (q : ClusterId) : (s.putMem a bs).sorter q = s.sorter q := rfl
@[simp] theorem State.rd_emit (s : State) (o : Out) (q : Nat) : (s.emit o).rd q = s.rd q := rfl
@[simp] theorem State.core_emit (s : State) (o : Out) (q : CoreId) : (s.emit o).core q = s.core q := rfl
@[simp] theorem State.die_emit (s : State) (o : Out) (q : DieId) : (s.emit o).die q = s.die q := rfl
@[simp] theorem State.sorter_emit (s : State) (o : Out) (q : ClusterId) : (s.emit o).sorter q = s.sorter q := rfl
@[simp] theorem State.rdMem_emit (s : State) (o : Out) (q m : Nat) : (s.emit o).rdMem q m = s.rdMem q m := rfl

/-! ### A read after a write -/

theorem State.rd_wr (s : State) (a x : Nat) (v : Word) : (s.wr a v).rd x = if x = a then v else s.rd x := Tab.get_set ..

@[simp] theorem State.rd_wr_same (s : State) (a : Nat) (v : Word) : (s.wr a v).rd a = v := by simp [State.rd_wr]

theorem State.rd_wr_other (s : State) {a x : Nat} (v : Word) (h : x ≠ a) : (s.wr a v).rd x = s.rd x := by simp [State.rd_wr, h]

@[simp] theorem State.rd_bump_same (s : State) (a n : Nat) :
    (s.bump a n).rd a = BitVec.ofNat 64 (((s.rd a).toNat + n) % 2 ^ 48) := State.rd_wr_same ..

theorem State.rd_bump_other (s : State) {a x : Nat} (n : Nat) (h : x ≠ a) : (s.bump a n).rd x = s.rd x := State.rd_wr_other _ _ h

@[simp] theorem State.rd_setFld_same (s : State) (a : Nat) (f : Fld) (v : Nat) : (s.setFld a f v).rd a = f.put (s.rd a) v := State.rd_wr_same ..

theorem State.rd_setFld_other (s : State) {a x : Nat} (f : Fld) (v : Nat) (h : x ≠ a) : (s.setFld a f v).rd x = s.rd x := State.rd_wr_other _ _ h

theorem State.core_setCore (s : State) (c d : CoreId) (x : CoreSt) : (s.setCore c x).core d = if d = c then x else s.core d := by
  unfold State.core State.setCore
  rw [Tab.get_set]
  simp only [BitVec.toNat_inj]

@[simp] theorem State.core_setCore_same (s : State) (c : CoreId) (x : CoreSt) : (s.setCore c x).core c = x := by simp [State.core_setCore]

theorem State.core_modCore (s : State) (c d : CoreId) (f : CoreSt → CoreSt) :
    (s.modCore c f).core d = if d = c then f (s.core c) else s.core d := State.core_setCore ..

@[simp] theorem State.core_modCore_same (s : State) (c : CoreId) (f : CoreSt → CoreSt) : (s.modCore c f).core c = f (s.core c) := by
  simp [State.core_modCore]

theorem State.core_modCore_other (s : State) {c d : CoreId} (f : CoreSt → CoreSt) (h : d ≠ c) : (s.modCore c f).core d = s.core d := by
  simp [State.core_modCore, h]

theorem State.die_setDie (s : State) (c d : DieId) (x : DieSt) : (s.setDie c x).die d = if d = c then x else s.die d := by
  unfold State.die State.setDie
  rw [Tab.get_set]
  simp only [BitVec.toNat_inj]

theorem State.die_modDie (s : State) (c d : DieId) (f : DieSt → DieSt) : (s.modDie c f).die d = if d = c then f (s.die c) else s.die d :=
  State.die_setDie ..

@[simp] theorem State.die_modDie_same (s : State) (d : DieId) (f : DieSt → DieSt) : (s.modDie d f).die d = f (s.die d) := by
  simp [State.die_modDie]

theorem State.sorter_setSorter (s : State) (c d : ClusterId) (x : SorterSt) :
    (s.setSorter c x).sorter d = if d = c then x else s.sorter d := by
  unfold State.sorter State.setSorter
  rw [Tab.get_set]
  simp only [BitVec.toNat_inj]

/-! ### Memory -/

theorem Tab.getRun_length {α : Type} (d : Nat → α) (t : Tab α) (k n : Nat) : (Tab.getRun d t k n).length = n := by
  induction n generalizing k with
  | zero => rfl
  | succ n ih => simp [Tab.getRun, ih]

theorem Tab.getRun_get {α : Type} (d : Nat → α) (t : Tab α) (k n i : Nat) (h : i < n) :
    (Tab.getRun d t k n)[i]'(by simpa [Tab.getRun_length] using h) = Tab.get d t (k + i) := by
  induction n generalizing k i with
  | zero => omega
  | succ n ih =>
    cases i with
    | zero => rfl
    | succ i =>
      simp only [Tab.getRun, List.getElem_cons_succ]
      rw [ih (k + 1) i (by omega)]
      congr 1
      omega

/-- A byte of memory. -/
theorem State.byte_putMem (s : State) (a x : Nat) (bs : List Byte) :
    (s.putMem a bs).mem.get memZero x = if h : a ≤ x ∧ x < a + bs.length then bs[x - a]'(by omega) else s.mem.get memZero x := by
  show Tab.get memZero (s.mem.setRun memZero a bs) x = _
  split
  next h =>
    have := Tab.get_setRun_same memZero s.mem a (x - a) bs (by omega)
    rw [show a + (x - a) = x by omega] at this
    exact this
  next h => exact Tab.get_setRun_other memZero s.mem a x bs (by omega)

/-- What has been put into memory is read back. -/
@[simp] theorem State.rdMem_putMem (s : State) (a : Nat) (bs : List Byte) : (s.putMem a bs).rdMem a bs.length = bs := by
  unfold State.rdMem
  apply List.ext_getElem
  · exact Tab.getRun_length ..
  · intro i h1 h2
    rw [Tab.getRun_get _ _ _ _ _ h2, State.byte_putMem]
    have : a ≤ a + i ∧ a + i < a + bs.length := by omega
    rw [dif_pos this]
    congr 1
    omega

/-- A write leaves what does not lie in it. -/
theorem State.rdMem_putMem_other (s : State) (a x n : Nat) (bs : List Byte) (h : x + n ≤ a ∨ a + bs.length ≤ x) :
    (s.putMem a bs).rdMem x n = s.rdMem x n := by
  unfold State.rdMem
  apply List.ext_getElem
  · simp [Tab.getRun_length]
  · intro i h1 h2
    have hi : i < n := by simpa [Tab.getRun_length] using h1
    rw [Tab.getRun_get _ _ _ _ _ hi, Tab.getRun_get _ _ _ _ _ hi, State.byte_putMem, dif_neg (by omega)]

theorem State.backInv_mem (s : State) (a n : Nat) : (s.backInv a n).mem = s.mem := by
  unfold State.backInv
  split <;> rfl

theorem State.wrMem_mem (s : State) (a : Nat) (bs : List Byte) : (s.wrMem a bs).mem = (s.putMem a bs).mem := by
  show (s.backInv a bs.length).mem.setRun memZero a bs = s.mem.setRun memZero a bs
  rw [State.backInv_mem]

/-- A device agent's write is read back. -/
theorem State.rdMem_wrMem (s : State) (a : Nat) (bs : List Byte) : (s.wrMem a bs).rdMem a bs.length = bs := by
  unfold State.rdMem
  rw [State.wrMem_mem]
  exact State.rdMem_putMem s a bs

end Sys2Proof.Machine
end

