-- ==== Sys2Proof/Laws/Core.lean ====
section
/-!
SUPPORT. Sys2Proof/Laws/Core.lean: what the issue step, a completion at issue, an entry into a queue and the pump of a core do.
-/
namespace Sys2Proof.Machine

variable {s : State} {c : CoreId} {w : Word} {key : Nat} {eff : State → State}

/-! ### Issue -/

/-- The issue step of an instruction that can issue is its effect. -/
theorem State.issue_ok (h : s.CanIssue c w key) : s.issue c w key eff = eff s := by
  simp [State.issue, h.atIssue, h.listed, h.row, h.legal, h.ready]

/-- A word that is not at issue does nothing. -/
theorem State.issue_not (h : s.atIssue c w = false) : s.issue c w key eff = s := by
  simp [State.issue, h]

/-- A word of no listed instruction takes the illegal-instruction exception. -/
theorem State.issue_illegal (h : s.atIssue c w = true) (hl : listed w = false) :
    s.issue c w key eff = s.exception c 1 0 0 (s.core c).pc := by
  simp [State.issue, h, hl]

/-- So does one of the row with illegal fields. -/
theorem State.issue_fields (h : s.atIssue c w = true) (hl : listed w = true) (hk : ikey w = key)
    (hf : illegalFields w (s.inHandler c) = true) : s.issue c w key eff = s.exception c 1 0 0 (s.core c).pc := by
  simp [State.issue, h, hl, hk, hf]

/-- An instruction that must wait leaves all as it is: its stalled clocks are counted as they pass. -/
theorem State.issue_stall (h : s.stalls c w = true) (hl : listed w = true) (hk : ikey w = key)
    (hf : illegalFields w (s.inHandler c) = false) : s.issue c w key eff = s := by
  simp only [State.issue, hl, hk, hf, h]; simp

/-- Everything the issue step can do. -/
theorem State.issue_cases (s : State) (c : CoreId) (w : Word) (key : Nat) (eff : State → State) :
    s.issue c w key eff = s ∨ s.issue c w key eff = s.exception c 1 0 0 (s.core c).pc ∨ s.issue c w key eff = eff s := by
  unfold State.issue
  split
  · exact .inl rfl
  split
  · exact .inr (.inl rfl)
  split
  · exact .inl rfl
  split
  · exact .inr (.inl rfl)
  split
  · exact .inl rfl
  · exact .inr (.inr rfl)

/-! ### Registers of a core -/

/-- Two changes of one core are one. -/
theorem State.modCore_modCore (s : State) (c : CoreId) (f g : CoreSt → CoreSt) : (s.modCore c f).modCore c g = s.modCore c fun C => g (f C) := by
  show (s.modCore c f).setCore c (g ((s.modCore c f).core c)) = _
  rw [State.core_modCore_same]
  unfold State.modCore State.setCore
  simp only [Tab.set_set]


@[simp] theorem CoreSt.rg_zero (C : CoreSt) : C.rg 0 = 0 := by simp [CoreSt.rg]

theorem CoreSt.rg_setRg (C : CoreSt) (r q : BitVec 5) (v : Word) : (C.setRg q v).rg r = if r = q ∧ r ≠ 0 then v else C.rg r := by
  unfold CoreSt.setRg CoreSt.rg
  by_cases h0 : r = 0
  · simp [h0]
  · by_cases hq : q = 0
    · simp [hq]
    · simp only [h0, hq, if_false, ne_eq, not_false_eq_true, and_true]
      show Vector.get _ _ = _
      by_cases h : r = q
      · subst h; simp [Vector.get_eq_getElem]
      · have : q.toNat ≠ r.toNat := fun e => h (BitVec.eq_of_toNat_eq e.symm)
        simp [Vector.get_eq_getElem, h, this]

theorem CoreSt.setRg_eq (C : CoreSt) (q : BitVec 5) (v : Word) : C.setRg q v = { C with g := (C.setRg q v).g } := by
  unfold CoreSt.setRg; split <;> rfl

/-- Completing at issue with a register written and the program counter moved. -/
theorem State.scalarDone (s : State) (c : CoreId) (rd : BitVec 5) (v : Word) (pc : Nat) :
    ScalarDone s ((s.modCore c fun C => (C.setRg rd v).goto pc).bump (COR_INSTRET c.toNat)) c rd v pc := by
  refine ⟨?_, ?_, ?_, ?_, ?_, rfl⟩
  · intro r
    simp only [State.core_bump, State.core_modCore_same]
    exact CoreSt.rg_setRg ..
  · simp only [State.core_bump, State.core_modCore_same]
    unfold CoreSt.goto
    rw [CoreSt.setRg_eq]
  · intro d hd
    simp [State.core_modCore_other, hd]
  · simp
  · intro a ha
    simp [State.rd_bump_other, ha]

/-- Completing at issue with no register written. -/
theorem State.scalarDone_none (s : State) (c : CoreId) (pc : Nat) :
    ScalarDone s ((s.modCore c fun C => C.goto pc).bump (COR_INSTRET c.toNat)) c 0 0 pc := by
  have h := State.scalarDone s c 0 0 pc
  simpa [CoreSt.setRg] using h

/-- An instruction put into its queue. -/
theorem State.queued (s : State) (c : CoreId) (w a b x : Word) (al : Bool := false) :
    Queued s (s.enqueue c w a b x al) c w a b x al := by
  refine ⟨?_, ?_, rfl⟩
  · simp [State.enqueue, CoreSt.goto, CoreSt.nextPc, State.newFlight]
  · intro d hd
    simp [State.enqueue, State.core_modCore_other, hd]

/-! ### The pump -/

theorem State.applySeed_none (s : State) (c : CoreId) (a : Nat) (h : ((s.core c).array a).seedWait = []) : s.applySeed c a = s := by
  simp [State.applySeed, h]

theorem State.trySwait_none (s : State) (c : CoreId) (h : (s.core c).wait = none) : s.trySwait c = s := by
  simp [State.trySwait, h]

/-- The pump leaves a core with nothing in flight and nothing waiting as it is. -/
theorem State.pump_quiet (s : State) (c : CoreId) (h : s.Quiet c) (hw : (s.core c).wait = none) : s.pump c = s := by
  have hs : s.pumpOnce c = s := by
    unfold State.pumpOnce
    simp only [List.foldl, State.applySeed_none s c _ (h.seeds _), h.flights]
    exact State.trySwait_none s c hw
  unfold State.pump
  split
  · rfl
  · rw [h.flights]
    simp [hs, List.range_succ]

/-- What the pump does for one flight: its unit's rule. -/
theorem State.pumpOnce_single (u : State) (c : CoreId) (f : Flight) (h : (u.core c).fl = [f])
    (hs : ∀ a : Nat, ((u.core c).array a).seedWait = []) :
    u.pumpOnce c = (match unitOf f.w with
      | .arr _ => u.tryArr c f
      | .lsu => u.tryLsu c f
      | .dma => if iop f.w = 1 then u.tryDmast c f else if f.onLsu then u.tryLsu c f else u
      | .sync => u.trySync c f
      | _ => u).trySwait c := by
  unfold State.pumpOnce
  simp only [List.foldl, State.applySeed_none u c _ (hs _), h, CoreSt.flight, List.find?, beq_self_eq_true]
  -- Where the two matches are one auxiliary the rewriting has closed the goal already.
  all_goals (cases unitOf f.w <;> rfl)

/-- A core that has put one instruction into an empty set of flights. -/
theorem Queued.single {s u : State} {a b x : Word} {al : Bool} (h : Queued s u c w a b x al) (hq : s.Quiet c) :
    (u.core c).fl = [s.newFlight c w a b x al] ∧ (∀ i : Nat, ((u.core c).array i).seedWait = []) ∧ (u.core c).wait = (s.core c).wait := by
  refine ⟨?_, ?_, ?_⟩
  · rw [h.core]; simp [hq.flights]
  · intro i
    rw [h.core]
    exact hq.seeds i
  · rw [h.core]

/-- A word at issue: the core runs and waits for nothing. -/
theorem State.atIssue_cases (h : s.atIssue c w = true) :
    s.clocked c = true ∧ (s.core c).run = .running ∧ (s.core c).wait = none ∧ (s.core c).ibuf = some w ∧ (s.core c).parked = false := by
  unfold State.atIssue at h
  simp only [Bool.and_eq_true, beq_iff_eq, Bool.not_eq_true'] at h
  exact ⟨h.1.1.1.1, h.1.1.1.2, h.1.1.2, h.1.2, h.2⟩

end Sys2Proof.Machine
end

