-- ==== Sys2Proof/Laws/Fields.lean ====
section
/-!
SUPPORT. Sys2Proof/Laws/Fields.lean: a field of a register read after a field has been put.
-/
namespace Sys2Proof

/-- The bits of a word with a field put. -/
theorem Fld.put_testBit (f : Fld) (w : Word) (v i : Nat) (hf : f.lo + f.len ≤ 64) :
    (f.put w v).toNat.testBit i =
      (if i < f.lo then w.toNat.testBit i else if i < f.lo + f.len then v.testBit (i - f.lo) else w.toNat.testBit i) := by
  have h1 : w.toNat % 2 ^ f.lo < 2 ^ f.lo := Nat.mod_lt _ (Nat.two_pow_pos _)
  have h2 : v % 2 ^ f.len < 2 ^ f.len := Nat.mod_lt _ (Nat.two_pow_pos _)
  have hX : w.toNat % 2 ^ f.lo + v % 2 ^ f.len * 2 ^ f.lo + w.toNat / 2 ^ (f.lo + f.len) * 2 ^ (f.lo + f.len)
      = 2 ^ f.lo * (2 ^ f.len * (w.toNat / 2 ^ (f.lo + f.len)) + v % 2 ^ f.len) + w.toNat % 2 ^ f.lo := by
    rw [pow_add]; ring
  have hbit : ∀ j, (2 ^ f.lo * (2 ^ f.len * (w.toNat / 2 ^ (f.lo + f.len)) + v % 2 ^ f.len) + w.toNat % 2 ^ f.lo).testBit j =
      (if j < f.lo then w.toNat.testBit j else if j < f.lo + f.len then v.testBit (j - f.lo) else w.toNat.testBit j) := by
    intro j
    rw [Nat.testBit_two_pow_mul_add _ h1]
    by_cases hj : j < f.lo
    · simp [hj, Nat.testBit_mod_two_pow]
    · rw [if_neg hj, if_neg hj, Nat.testBit_two_pow_mul_add _ h2]
      by_cases hk : j < f.lo + f.len
      · have : j - f.lo < f.len := by omega
        simp [hk, this, Nat.testBit_mod_two_pow]
      · have h3 : ¬ j - f.lo < f.len := by omega
        rw [if_neg h3, if_neg hk, Nat.testBit_div_two_pow]
        congr 1; omega
  have hlt : 2 ^ f.lo * (2 ^ f.len * (w.toNat / 2 ^ (f.lo + f.len)) + v % 2 ^ f.len) + w.toNat % 2 ^ f.lo < 2 ^ 64 := by
    apply Nat.lt_pow_two_of_testBit
    intro j hj
    rw [hbit j, if_neg (by omega), if_neg (by omega)]
    exact Nat.testBit_lt_two_pow (Nat.lt_of_lt_of_le w.isLt (Nat.pow_le_pow_right (by omega) hj))
  unfold Fld.put
  rw [BitVec.toNat_ofNat, hX, Nat.mod_eq_of_lt hlt]
  exact hbit i

/-- The bits of a field. -/
theorem Fld.get_testBit (f : Fld) (w : Word) (i : Nat) : (f.get w).testBit i = (decide (i < f.len) && w.toNat.testBit (f.lo + i)) := by
  unfold Fld.get
  rw [Nat.testBit_mod_two_pow, Nat.testBit_div_two_pow, Nat.add_comm]

/-- A field put is read back, modulo its width. -/
theorem Fld.get_put (f : Fld) (w : Word) (v : Nat) (hf : f.lo + f.len ≤ 64) : f.get (f.put w v) = v % 2 ^ f.len := by
  apply Nat.eq_of_testBit_eq
  intro i
  rw [Fld.get_testBit, Fld.put_testBit _ _ _ _ hf, Nat.testBit_mod_two_pow]
  by_cases hi : i < f.len
  · have h1 : ¬ f.lo + i < f.lo := by omega
    have h2 : f.lo + i < f.lo + f.len := by omega
    simp [hi, h1]
  · simp [hi]

/-- A field put leaves the fields beside it. -/
theorem Fld.get_put_other (f g : Fld) (w : Word) (v : Nat) (hf : f.lo + f.len ≤ 64) (h : g.lo + g.len ≤ f.lo ∨ f.lo + f.len ≤ g.lo) :
    g.get (f.put w v) = g.get w := by
  apply Nat.eq_of_testBit_eq
  intro i
  rw [Fld.get_testBit, Fld.get_testBit, Fld.put_testBit _ _ _ _ hf]
  by_cases hi : i < g.len
  · rcases h with h | h
    · rw [if_pos (by omega)]
    · rw [if_neg (by omega), if_neg (by omega)]
  · simp [hi]
end Sys2Proof
end

