-- ==== Sys2Proof/Laws/KeepsBase.lean ====
section
/-!
SUPPORT. Sys2Proof/Laws/KeepsBase.lean: how `Keeps` is put together, and the primitive operations that every other one is made of.
-/
namespace Sys2Proof.Machine

theorem Keeps.refl (s : State) : Keeps s s := ⟨rfl, rfl, Nat.le_refl _, List.prefix_refl _, id⟩

theorem Keeps.trans {s t u : State} (h : Keeps s t) (k : Keeps t u) : Keeps s u :=
  ⟨k.queue.trans h.queue, by have a := h.fuses; have b := k.fuses; rw [← a, ← b], Nat.le_trans h.free k.free, h.out.trans k.out,
   fun c => k.canon (h.canon c)⟩

theorem Keeps.after {s Y t : State} (k : Keeps Y t) (h : Keeps s Y) : Keeps s t := h.trans k

/-- A let-bound state on the way. -/
theorem Keeps.cut {s t : State} (x : State) (hx : Keeps s x) (h : Keeps s x → Keeps s t) : Keeps s t := h hx

/-- Fields that no clause speaks of may change. -/
theorem Keeps.mk' {s Y : State} (h : Keeps s Y) (log : LogSt) (rpl : RplSt) (sync : SyncSt) (noc : NocSt) (host : HostSt) (upd : UpdSt)
    (fab : FabSt) (twn : TwnSt) (pwr : PwrSt) (sys : SysSt) :
    Keeps s ⟨Y.pending, Y.free, Y.mem, Y.poison, Y.regs, Y.fuses, Y.cores, Y.sorters, Y.dies, Y.out, log, rpl, sync, noc, host, upd, fab, twn,
      pwr, sys⟩ :=
  h.trans ⟨rfl, rfl, Nat.le_refl _, List.prefix_refl _, fun c => ⟨c.mem, c.poison, c.regs, c.cores, c.sorters, c.dies⟩⟩

theorem Keeps.foldl {α : Type} {s Y : State} {f : State → α → State} (l : List α) (h : Keeps s Y) (hf : ∀ t x, Keeps t (f t x)) :
    Keeps s (l.foldl f Y) := by
  induction l generalizing Y with
  | nil => exact h
  | cons a l ih => exact ih (h.trans (hf Y a))

theorem Keeps.foldl_fst {α β : Type} {s Y : State} {b : β} {f : State × β → α → State × β} (l : List α) (h : Keeps s Y)
    (hf : ∀ t y x, Keeps t (f (t, y) x).1) : Keeps s (l.foldl f (Y, b)).1 := by
  induction l generalizing Y b with
  | nil => exact h
  | cons a l ih => exact ih (h.trans (hf Y b a))

theorem Keeps.ite {s a b : State} {c : Prop} [Decidable c] (ha : Keeps s a) (hb : Keeps s b) : Keeps s (if c then a else b) := by
  split
  · exact ha
  · exact hb

theorem Keeps.fst {α : Type} {s a : State} {b : α} (h : Keeps s a) : Keeps s (a, b).1 := h
theorem Keeps.snd {α : Type} {s a : State} {b : α} (h : Keeps s a) : Keeps s (b, a).2 := h

theorem Keeps.ite_fst {α : Type} {s : State} {a b : State × α} {c : Prop} [Decidable c] (ha : Keeps s a.1) (hb : Keeps s b.1) :
    Keeps s (if c then a else b).1 := by
  split
  · exact ha
  · exact hb

theorem Keeps.ite_snd {α : Type} {s : State} {a b : α × State} {c : Prop} [Decidable c] (ha : Keeps s a.2) (hb : Keeps s b.2) :
    Keeps s (if c then a else b).2 := by
  split
  · exact ha
  · exact hb

theorem Keeps.foldl_of {α β : Type} {s Y t : State} {b r : β} {f : State × β → α → State × β} {l : List α}
    (h : l.foldl f (Y, b) = (t, r)) (hf : ∀ t y x, Keeps t (f (t, y) x).1) (hY : Keeps s Y) : Keeps s t := by
  have k := Keeps.foldl_fst l hY hf (b := b)
  rw [h] at k
  exact k

/-- An operation that may fail keeps what it should when it answers. -/
structure KeepsO (s : State) (o : Option State) : Prop where
  keeps : ∀ t, o = some t → Keeps s t

/-- The same, with a value beside the state. -/
structure KeepsP {α : Type} (s : State) (o : Option (State × α)) : Prop where
  keeps : ∀ t a, o = some (t, a) → Keeps s t

theorem KeepsO.none (s : State) : KeepsO s none := ⟨by intro t h; cases h⟩
theorem KeepsO.some {s t : State} (h : Keeps s t) : KeepsO s (some t) := ⟨by intro u e; cases e; exact h⟩
theorem KeepsO.ite {s : State} {a b : Option State} {c : Prop} [Decidable c] (ha : KeepsO s a) (hb : KeepsO s b) :
    KeepsO s (if c then a else b) := by
  split
  · exact ha
  · exact hb
theorem KeepsO.after {s Y : State} {o : Option State} (k : KeepsO Y o) (h : Keeps s Y) : KeepsO s o := ⟨fun t e => h.trans (k.keeps t e)⟩
theorem KeepsO.getD {s Y : State} {o : Option State} (k : KeepsO s o) (h : Keeps s Y) : Keeps s (o.getD Y) := by
  cases o with
  | none => exact h
  | some t => exact k.keeps t rfl
theorem KeepsO.cut {s : State} {o : Option State} (x : State) (hx : Keeps s x) (h : Keeps s x → KeepsO s o) : KeepsO s o := h hx
theorem KeepsP.cut {α : Type} {s : State} {o : Option (State × α)} (x : State) (hx : Keeps s x) (h : Keeps s x → KeepsP s o) : KeepsP s o := h hx
theorem KeepsP.none {α : Type} (s : State) : KeepsP s (none : Option (State × α)) := ⟨by intro t a h; cases h⟩
theorem KeepsP.some {α : Type} {s t : State} {a : α} (h : Keeps s t) : KeepsP s (some (t, a)) := ⟨by intro u b e; cases e; exact h⟩
theorem KeepsP.ite {α : Type} {s : State} {a b : Option (State × α)} {c : Prop} [Decidable c] (ha : KeepsP s a) (hb : KeepsP s b) :
    KeepsP s (if c then a else b) := by
  split
  · exact ha
  · exact hb
theorem KeepsP.after {α : Type} {s Y : State} {o : Option (State × α)} (k : KeepsP Y o) (h : Keeps s Y) : KeepsP s o :=
  ⟨fun t a e => h.trans (k.keeps t a e)⟩

/-- A command keeps what it should when it answers a next state. -/
structure KeepsX (s : State) (o : Host.Outcome State Fault Refusal) : Prop where
  keeps : ∀ t, o = .next t → Keeps s t

theorem KeepsX.next {s t : State} (h : Keeps s t) : KeepsX s (.next t) := ⟨by intro u e; cases e; exact h⟩
theorem KeepsX.cut {s : State} {o : Host.Outcome State Fault Refusal} (x : State) (hx : Keeps s x) (h : Keeps s x → KeepsX s o) : KeepsX s o :=
  h hx

/-! ### Primitives -/

theorem State.wr_keeps (s : State) (a : Nat) (v : Word) : Keeps s (s.wr a v) :=
  ⟨rfl, rfl, Nat.le_refl _, List.prefix_refl _, fun c => ⟨c.mem, c.poison, Tab.set_wf _ _ _ _ c.regs, c.cores, c.sorters, c.dies⟩⟩

theorem State.setCore_keeps (s : State) (c : CoreId) (x : CoreSt) : Keeps s (s.setCore c x) :=
  ⟨rfl, rfl, Nat.le_refl _, List.prefix_refl _, fun h => ⟨h.mem, h.poison, h.regs, Tab.set_wf _ _ _ _ h.cores, h.sorters, h.dies⟩⟩

theorem State.setDie_keeps (s : State) (d : DieId) (x : DieSt) : Keeps s (s.setDie d x) :=
  ⟨rfl, rfl, Nat.le_refl _, List.prefix_refl _, fun h => ⟨h.mem, h.poison, h.regs, h.cores, h.sorters, Tab.set_wf _ _ _ _ h.dies⟩⟩

theorem State.setSorter_keeps (s : State) (k : ClusterId) (x : SorterSt) : Keeps s (s.setSorter k x) :=
  ⟨rfl, rfl, Nat.le_refl _, List.prefix_refl _, fun h => ⟨h.mem, h.poison, h.regs, h.cores, Tab.set_wf _ _ _ _ h.sorters, h.dies⟩⟩

theorem State.take_keeps (s : State) : Keeps s s.take.2 :=
  ⟨rfl, rfl, Nat.le_succ _, List.prefix_refl _, fun h => ⟨h.mem, h.poison, h.regs, h.cores, h.sorters, h.dies⟩⟩

theorem State.setPoison_keeps (s : State) (a n : Nat) (p : Bool) : Keeps s (s.setPoison a n p) :=
  ⟨rfl, rfl, Nat.le_refl _, List.prefix_refl _, fun h => ⟨h.mem, Tab.setRun_wf _ _ _ _ h.poison, h.regs, h.cores, h.sorters, h.dies⟩⟩

theorem State.putMem_keeps (s : State) (a : Nat) (bs : List Byte) : Keeps s (s.putMem a bs) := by
  refine ⟨rfl, rfl, Nat.le_refl _, List.prefix_refl _, fun h => ⟨Tab.setRun_wf _ _ _ _ h.mem, ?_, h.regs, h.cores, h.sorters, h.dies⟩⟩
  unfold State.putMem
  dsimp only
  split
  · exact Tab.setRun_wf _ _ _ _ h.poison
  · exact h.poison

theorem State.backInv_keeps (s : State) (a n : Nat) : Keeps s (s.backInv a n) := by
  unfold State.backInv
  split
  · exact Keeps.refl s
  · exact ⟨rfl, rfl, Nat.le_refl _, List.prefix_append _ _, fun h => ⟨h.mem, h.poison, h.regs, h.cores, h.sorters, h.dies⟩⟩

theorem State.emit_keeps (s : State) (o : Out) : Keeps s (s.emit o) :=
  ⟨rfl, rfl, Nat.le_refl _, List.prefix_append _ _, fun h => ⟨h.mem, h.poison, h.regs, h.cores, h.sorters, h.dies⟩⟩

end Sys2Proof.Machine
end

