-- ==== Sys2Proof/Laws/KeepsState.lean ====
section
/-!
SUPPORT. Sys2Proof/Laws/KeepsState.lean: what the operations of Machine/State.lean keep of a state (`Keeps`).
-/
set_option linter.unusedTactic false
set_option linter.unreachableTactic false
namespace Sys2Proof.Machine

-- no law

end Sys2Proof.Machine
end

