-- ==== Sys2Proof/Laws/KeepsOps.lean ====
section
/-!
SUPPORT. Sys2Proof/Laws/KeepsOps.lean: what the operations of Machine/Ops.lean keep of a state (`Keeps`).
-/
set_option linter.unusedTactic false
set_option linter.unreachableTactic false
namespace Sys2Proof.Machine

theorem State.setFld_keeps (s : State) (a : Nat) (f : Fld) (v : Nat) : Keeps s (State.setFld s a f v) := by
  unfold State.setFld
  repeat' first
    | (with_reducible exact Keeps.refl _)
    | (with_reducible assumption)
    | (with_reducible apply Keeps.after (State.wr_keeps ..))
    | (dsimp only)

theorem State.bump_keeps (s : State) (a : Nat) (n : Nat) : Keeps s (State.bump s a n) := by
  unfold State.bump
  repeat' first
    | (with_reducible exact Keeps.refl _)
    | (with_reducible assumption)
    | (with_reducible apply Keeps.after (State.wr_keeps ..))
    | (dsimp only)

theorem State.clear_keeps (s : State) (as : List Nat) : Keeps s (State.clear s as) := by
  unfold State.clear
  repeat' first
    | (with_reducible exact Keeps.refl _)
    | (with_reducible assumption)
    | (with_reducible apply Keeps.after (State.wr_keeps ..))
    | (with_reducible apply Keeps.foldl)
    | (with_reducible apply Keeps.foldl_fst)
    | (with_reducible refine Keeps.foldl_of (by assumption) ?_ ?_)
    | (intro _ _; beta_reduce)
    | (intro _; beta_reduce)
    | (with_reducible apply Keeps.ite_fst)
    | (with_reducible apply Keeps.ite)
    | split
    | (fail_if_no_progress simp only [Prod.mk.injEq] at *)
    | (fail_if_no_progress (with_reducible obtain ⟨rfl, -⟩ := (show (_ : State) = _ ∧ _ from by assumption)))
    | (fail_if_no_progress (with_reducible apply Keeps.fst))
    | (dsimp only)

theorem State.modCore_keeps (s : State) (c : CoreId) (f : CoreSt → CoreSt) : Keeps s (State.modCore s c f) := by
  unfold State.modCore
  repeat' first
    | (with_reducible exact Keeps.refl _)
    | (with_reducible assumption)
    | (with_reducible apply Keeps.after (State.setCore_keeps ..))
    | (dsimp only)

theorem State.modDie_keeps (s : State) (d : DieId) (f : DieSt → DieSt) : Keeps s (State.modDie s d f) := by
  unfold State.modDie
  repeat' first
    | (with_reducible exact Keeps.refl _)
    | (with_reducible assumption)
    | (with_reducible apply Keeps.after (State.setDie_keeps ..))
    | (dsimp only)

theorem State.wrMem_keeps (s : State) (a : Nat) (bs : List Byte) : Keeps s (State.wrMem s a bs) := by
  unfold State.wrMem
  repeat' first
    | (with_reducible exact Keeps.refl _)
    | (with_reducible assumption)
    | (with_reducible apply Keeps.after (State.backInv_keeps ..))
    | (with_reducible apply Keeps.after (State.putMem_keeps ..))
    | (dsimp only)

theorem State.copyMem_keeps (s : State) (src dst n : Nat) : Keeps s (State.copyMem s src dst n) := by
  unfold State.copyMem
  repeat' first
    | (with_reducible exact Keeps.refl _)
    | (with_reducible assumption)
    | (with_reducible apply Keeps.after (State.wrMem_keeps ..))
    | (with_reducible apply Keeps.after (State.setPoison_keeps ..))
    | (with_reducible apply Keeps.foldl)
    | (with_reducible apply Keeps.foldl_fst)
    | (with_reducible refine Keeps.foldl_of (by assumption) ?_ ?_)
    | (intro _ _; beta_reduce)
    | (intro _; beta_reduce)
    | (with_reducible apply Keeps.ite_fst)
    | ((fail_if_no_progress extract_lets +onlyGivenNames x); first | (refine Keeps.cut x ?_ ?_; (on_goal 1 => unfold x); (on_goal 2 => (intro hx; clear_value x))) | clear_value x)
    | (with_reducible apply Keeps.ite)
    | split
    | (fail_if_no_progress simp only [Prod.mk.injEq] at *)
    | (fail_if_no_progress (with_reducible obtain ⟨rfl, -⟩ := (show (_ : State) = _ ∧ _ from by assumption)))
    | (fail_if_no_progress (with_reducible apply Keeps.fst))
    | (dsimp only)

theorem State.wrNum_keeps (s : State) (a n v : Nat) : Keeps s (State.wrNum s a n v) := by
  unfold State.wrNum
  repeat' first
    | (with_reducible exact Keeps.refl _)
    | (with_reducible assumption)
    | (with_reducible apply Keeps.after (State.wrMem_keeps ..))
    | (dsimp only)

end Sys2Proof.Machine
end

