-- ==== Sys2Proof/Laws/KeepsLog.lean ====
section
/-!
SUPPORT. Sys2Proof/Laws/KeepsLog.lean: what the operations of Machine/Log.lean keep of a state (`Keeps`).
-/
set_option linter.unusedTactic false
set_option linter.unreachableTactic false
namespace Sys2Proof.Machine

theorem State.msix_keeps (s : State) (v : Nat) : Keeps s (State.msix s v) := by
  unfold State.msix
  repeat' first
    | (with_reducible exact Keeps.refl _)
    | (with_reducible assumption)
    | (with_reducible apply Keeps.after (State.emit_keeps ..))
    | (with_reducible apply Keeps.after (State.wr_keeps ..))
    | (with_reducible apply Keeps.ite)
    | split
    | (dsimp only)

theorem State.hostDb_keeps (s : State) (bits : Word) : Keeps s (State.hostDb s bits) := by
  unfold State.hostDb
  repeat' first
    | (with_reducible exact Keeps.refl _)
    | (with_reducible assumption)
    | (with_reducible apply Keeps.after (State.wr_keeps ..))
    | (with_reducible apply Keeps.after (State.msix_keeps ..))
    | ((fail_if_no_progress extract_lets +onlyGivenNames x); first | (refine Keeps.cut x ?_ ?_; (on_goal 1 => unfold x); (on_goal 2 => (intro hx; clear_value x))) | clear_value x)
    | (with_reducible apply Keeps.ite)
    | split
    | (dsimp only)

theorem State.fwDb_keeps (s : State) (bits : Word) : Keeps s (State.fwDb s bits) := by
  unfold State.fwDb
  repeat' first
    | (with_reducible exact Keeps.refl _)
    | (with_reducible assumption)
    | (with_reducible apply Keeps.after (State.wr_keeps ..))
    | (with_reducible apply Keeps.after (State.emit_keeps ..))
    | ((fail_if_no_progress extract_lets +onlyGivenNames x); first | (refine Keeps.cut x ?_ ?_; (on_goal 1 => unfold x); (on_goal 2 => (intro hx; clear_value x))) | clear_value x)
    | (with_reducible apply Keeps.ite)
    | split
    | (dsimp only)

theorem State.logPut_keeps (s : State) (rec : List Byte) : Keeps s (State.logPut s rec) := by
  unfold State.logPut
  repeat' first
    | (with_reducible exact Keeps.refl _)
    | (with_reducible assumption)
    | (with_reducible apply Keeps.after (State.wrMem_keeps ..))
    | (with_reducible apply Keeps.after (State.setFld_keeps ..))
    | (with_reducible apply Keeps.after (State.take_keeps ..))
    | (with_reducible refine State.take_keepsOf (by assumption) ?_)
    | (with_reducible apply Keeps.after (State.msix_keeps ..))
    | (with_reducible apply Keeps.after (State.hostDb_keeps ..))
    | ((fail_if_no_progress extract_lets +onlyGivenNames x); first | (refine Keeps.cut x ?_ ?_; (on_goal 1 => unfold x); (on_goal 2 => (intro hx; clear_value x))) | clear_value x)
    | (with_reducible apply Keeps.ite)
    | split
    | (dsimp only)

theorem State.logWrite_keeps (s : State) (type cls flags count time src tier addr : Nat) (data : List Byte) : Keeps s (State.logWrite s type cls flags count time src tier addr data) := by
  unfold State.logWrite
  repeat' first
    | (with_reducible exact Keeps.refl _)
    | (with_reducible assumption)
    | (with_reducible apply Keeps.after (State.logPut_keeps ..))
    | (with_reducible apply Keeps.after (State.bump_keeps ..))
    | (with_reducible apply Keeps.after (State.setFld_keeps ..))
    | ((fail_if_no_progress extract_lets +onlyGivenNames x); first | (refine Keeps.cut x ?_ ?_; (on_goal 1 => unfold x); (on_goal 2 => (intro hx; clear_value x))) | clear_value x)
    | (with_reducible apply Keeps.ite)
    | (fail_if_no_progress (with_reducible apply Keeps.mk'))
    | split
    | (dsimp only)

theorem State.event_keeps (s : State) (type cls src tier addr : Nat) (data : List Byte) : Keeps s (State.event s type cls src tier addr data) := by
  unfold State.event
  repeat' first
    | (with_reducible exact Keeps.refl _)
    | (with_reducible assumption)
    | (with_reducible apply Keeps.after (State.logWrite_keeps ..))
    | (dsimp only)

theorem State.corrected_keeps (s : State) (cnt type src tier addr : Nat) (data : List Byte) : Keeps s (State.corrected s cnt type src tier addr data) := by
  unfold State.corrected
  repeat' first
    | (with_reducible exact Keeps.refl _)
    | (with_reducible assumption)
    | (with_reducible apply Keeps.after (State.bump_keeps ..))
    | (with_reducible apply Keeps.after (State.setFld_keeps ..))
    | (with_reducible apply Keeps.after (State.emit_keeps ..))
    | ((fail_if_no_progress extract_lets +onlyGivenNames x); first | (refine Keeps.cut x ?_ ?_; (on_goal 1 => unfold x); (on_goal 2 => (intro hx; clear_value x))) | clear_value x)
    | (with_reducible apply Keeps.ite)
    | (fail_if_no_progress (with_reducible apply Keeps.mk'))
    | split
    | (dsimp only)

theorem State.logTick_keeps (s : State) : Keeps s (State.logTick s) := by
  unfold State.logTick
  repeat' first
    | (with_reducible exact Keeps.refl _)
    | (with_reducible assumption)
    | (with_reducible apply Keeps.after (State.take_keeps ..))
    | (with_reducible refine State.take_keepsOf (by assumption) ?_)
    | (with_reducible apply Keeps.after (State.logWrite_keeps ..))
    | (with_reducible apply Keeps.foldl)
    | (with_reducible apply Keeps.foldl_fst)
    | (with_reducible refine Keeps.foldl_of (by assumption) ?_ ?_)
    | (intro _ _; beta_reduce)
    | (intro _; beta_reduce)
    | (with_reducible apply Keeps.ite_fst)
    | ((fail_if_no_progress extract_lets +onlyGivenNames x); first | (refine Keeps.cut x ?_ ?_; (on_goal 1 => unfold x); (on_goal 2 => (intro hx; clear_value x))) | clear_value x)
    | (with_reducible apply Keeps.ite)
    | (fail_if_no_progress (with_reducible apply Keeps.mk'))
    | split
    | (fail_if_no_progress simp only [Prod.mk.injEq] at *)
    | (fail_if_no_progress (with_reducible obtain ⟨rfl, -⟩ := (show (_ : State) = _ ∧ _ from by assumption)))
    | (fail_if_no_progress (with_reducible apply Keeps.fst))
    | (dsimp only)

theorem State.hostPoison_keeps (s : State) (addr who : Nat) : Keeps s (State.hostPoison s addr who) := by
  unfold State.hostPoison
  repeat' first
    | (with_reducible exact Keeps.refl _)
    | (with_reducible assumption)
    | (with_reducible apply Keeps.after (State.event_keeps ..))
    | (with_reducible apply Keeps.after (State.emit_keeps ..))
    | ((fail_if_no_progress extract_lets +onlyGivenNames x); first | (refine Keeps.cut x ?_ ?_; (on_goal 1 => unfold x); (on_goal 2 => (intro hx; clear_value x))) | clear_value x)
    | (with_reducible apply Keeps.ite)
    | split
    | (fail_if_no_progress simp only [Prod.mk.injEq] at *)
    | (fail_if_no_progress (with_reducible obtain ⟨rfl, -⟩ := (show (_ : State) = _ ∧ _ from by assumption)))
    | (dsimp only)

theorem State.poisonUse_keeps (s : State) (addr consumer : Nat) (who : Nat) : Keeps s (State.poisonUse s addr consumer who) := by
  unfold State.poisonUse
  repeat' first
    | (with_reducible exact Keeps.refl _)
    | (with_reducible assumption)
    | (with_reducible apply Keeps.after (State.hostPoison_keeps ..))
    | (with_reducible apply Keeps.after (State.event_keeps ..))
    | ((fail_if_no_progress extract_lets +onlyGivenNames x); first | (refine Keeps.cut x ?_ ?_; (on_goal 1 => unfold x); (on_goal 2 => (intro hx; clear_value x))) | clear_value x)
    | (with_reducible apply Keeps.ite)
    | split
    | (fail_if_no_progress simp only [Prod.mk.injEq] at *)
    | (fail_if_no_progress (with_reducible obtain ⟨rfl, -⟩ := (show (_ : State) = _ ∧ _ from by assumption)))
    | (dsimp only)

theorem State.rplPut_keeps (s : State) (bs : List Byte) : Keeps s (State.rplPut s bs) := by
  unfold State.rplPut
  repeat' first
    | (with_reducible exact Keeps.refl _)
    | (with_reducible assumption)
    | (with_reducible apply Keeps.after (State.wrMem_keeps ..))
    | (with_reducible apply Keeps.after (State.wr_keeps ..))
    | ((fail_if_no_progress extract_lets +onlyGivenNames x); first | (refine Keeps.cut x ?_ ?_; (on_goal 1 => unfold x); (on_goal 2 => (intro hx; clear_value x))) | clear_value x)
    | (fail_if_no_progress (with_reducible apply Keeps.mk'))
    | (dsimp only)

theorem State.rplEnd_keeps (s : State) (reason : Nat) : Keeps s (State.rplEnd s reason) := by
  unfold State.rplEnd
  repeat' first
    | (with_reducible exact Keeps.refl _)
    | (with_reducible assumption)
    | (with_reducible apply Keeps.after (State.rplPut_keeps ..))
    | (with_reducible apply Keeps.after (State.setFld_keeps ..))
    | ((fail_if_no_progress extract_lets +onlyGivenNames x); first | (refine Keeps.cut x ?_ ?_; (on_goal 1 => unfold x); (on_goal 2 => (intro hx; clear_value x))) | clear_value x)
    | (with_reducible apply Keeps.ite)
    | split
    | (dsimp only)

theorem State.rplWrite_keeps (s : State) (type : Nat) (body : List Byte) (cont : Bool) : Keeps s (State.rplWrite s type body cont) := by
  unfold State.rplWrite
  repeat' first
    | (with_reducible exact Keeps.refl _)
    | (with_reducible assumption)
    | (with_reducible apply Keeps.after (State.rplEnd_keeps ..))
    | (with_reducible apply Keeps.after (State.rplPut_keeps ..))
    | (with_reducible apply Keeps.ite)
    | split
    | (dsimp only)

theorem State.rplSeed_keeps (s : State) (kind cause unit : Nat) (v : BitVec 32) : Keeps s (State.rplSeed s kind cause unit v) := by
  unfold State.rplSeed
  repeat' first
    | (with_reducible exact Keeps.refl _)
    | (with_reducible assumption)
    | (with_reducible apply Keeps.after (State.rplWrite_keeps ..))
    | (dsimp only)

theorem State.diverge_keeps (s : State) (what seq detail : Nat) : Keeps s (State.diverge s what seq detail) := by
  unfold State.diverge
  repeat' first
    | (with_reducible exact Keeps.refl _)
    | (with_reducible assumption)
    | (with_reducible apply Keeps.after (State.bump_keeps ..))
    | (with_reducible apply Keeps.after (State.setFld_keeps ..))
    | (with_reducible apply Keeps.after (State.rplWrite_keeps ..))
    | ((fail_if_no_progress extract_lets +onlyGivenNames x); first | (refine Keeps.cut x ?_ ?_; (on_goal 1 => unfold x); (on_goal 2 => (intro hx; clear_value x))) | clear_value x)
    | (with_reducible apply Keeps.ite)
    | split
    | (dsimp only)

end Sys2Proof.Machine
end

