-- ==== Sys2Proof/Laws/KeepsMmu.lean ====
section
/-!
SUPPORT. Sys2Proof/Laws/KeepsMmu.lean: what the operations of Machine/Mmu.lean keep of a state (`Keeps`).
-/
set_option linter.unusedTactic false
set_option linter.unreachableTactic false
namespace Sys2Proof.Machine

theorem State.walked_keeps (s : State) (d : DieId) (seen : List (Nat × Word)) : Keeps s (State.walked s d seen) := by
  unfold State.walked
  repeat' first
    | (with_reducible exact Keeps.refl _)
    | (with_reducible assumption)
    | (with_reducible apply Keeps.after (State.modDie_keeps ..))
    | (with_reducible apply Keeps.foldl)
    | (with_reducible apply Keeps.foldl_fst)
    | (with_reducible refine Keeps.foldl_of (by assumption) ?_ ?_)
    | (intro _ _; beta_reduce)
    | (intro _; beta_reduce)
    | (with_reducible apply Keeps.ite_fst)
    | (with_reducible apply Keeps.ite)
    | (fail_if_no_progress (with_reducible apply Keeps.mk'))
    | split
    | (fail_if_no_progress simp only [Prod.mk.injEq] at *)
    | (fail_if_no_progress (with_reducible obtain ⟨rfl, -⟩ := (show (_ : State) = _ ∧ _ from by assumption)))
    | (fail_if_no_progress (with_reducible apply Keeps.fst))
    | (dsimp only)

theorem State.xlate_keeps (s : State) (d : DieId) (va : Nat) (need : Need) : Keeps s (State.xlate s d va need).1 := by
  rw [State.xlate]
  repeat' first
    | (with_reducible exact Keeps.refl _)
    | (with_reducible assumption)
    | (with_reducible apply Keeps.after (State.walked_keeps ..))
    | (with_reducible apply Keeps.ite_fst)
    | ((fail_if_no_progress extract_lets +onlyGivenNames x); first | (refine Keeps.cut x ?_ ?_; (on_goal 1 => unfold x); (on_goal 2 => (intro hx; clear_value x))) | clear_value x)
    | (with_reducible apply Keeps.ite)
    | (fail_if_no_progress (with_reducible apply Keeps.mk'))
    | split
    | (fail_if_no_progress simp only [Prod.mk.injEq] at *)
    | (fail_if_no_progress (with_reducible obtain ⟨rfl, -⟩ := (show (_ : State) = _ ∧ _ from by assumption)))
    | (fail_if_no_progress (with_reducible apply Keeps.fst))
    | (dsimp only)


theorem State.xlate_keepsOf {s : State} {d : DieId} {va : Nat} {need : Need} {s0 st1 : State} {res1} (h0 : State.xlate s d va need = (st1, res1)) (k0 : Keeps s0 s) : Keeps s0 st1 := by
  have q := State.xlate_keeps s d va need
  rw [h0] at q
  exact k0.trans q

theorem State.xlateCore_keeps (s : State) (c : CoreId) (va : Nat) (need : Need) : Keeps s (State.xlateCore s c va need).1 := by
  rw [State.xlateCore]
  repeat' first
    | (with_reducible exact Keeps.refl _)
    | (with_reducible assumption)
    | (with_reducible apply Keeps.after (State.walked_keeps ..))
    | (with_reducible apply Keeps.after (State.modCore_keeps ..))
    | (with_reducible apply Keeps.ite_fst)
    | ((fail_if_no_progress extract_lets +onlyGivenNames x); first | (refine Keeps.cut x ?_ ?_; (on_goal 1 => unfold x); (on_goal 2 => (intro hx; clear_value x))) | clear_value x)
    | (with_reducible apply Keeps.ite)
    | (fail_if_no_progress (with_reducible apply Keeps.mk'))
    | split
    | (fail_if_no_progress simp only [Prod.mk.injEq] at *)
    | (fail_if_no_progress (with_reducible obtain ⟨rfl, -⟩ := (show (_ : State) = _ ∧ _ from by assumption)))
    | (fail_if_no_progress (with_reducible apply Keeps.fst))
    | (dsimp only)


theorem State.xlateCore_keepsOf {s : State} {c : CoreId} {va : Nat} {need : Need} {s0 st1 : State} {res1} (h0 : State.xlateCore s c va need = (st1, res1)) (k0 : Keeps s0 s) : Keeps s0 st1 := by
  have q := State.xlateCore_keeps s c va need
  rw [h0] at q
  exact k0.trans q

theorem State.walkPoison_keeps (s : State) (cause : Cause) (entry who : Nat) : Keeps s (State.walkPoison s cause entry who) := by
  unfold State.walkPoison
  repeat' first
    | (with_reducible exact Keeps.refl _)
    | (with_reducible assumption)
    | (with_reducible apply Keeps.after (State.poisonUse_keeps ..))
    | (with_reducible apply Keeps.ite)
    | split
    | (dsimp only)

end Sys2Proof.Machine
end

