-- ==== Sys2Proof/Laws/KeepsFlags.lean ====
section
/-!
SUPPORT. Sys2Proof/Laws/KeepsFlags.lean: what the operations of Machine/Flags.lean keep of a state (`Keeps`).
-/
set_option linter.unusedTactic false
set_option linter.unreachableTactic false
namespace Sys2Proof.Machine

theorem State.shapeClamp_keeps (s : State) (c : CoreId) : Keeps s (State.shapeClamp s c) := by
  unfold State.shapeClamp
  repeat' first
    | (with_reducible exact Keeps.refl _)
    | (with_reducible assumption)
    | (with_reducible apply Keeps.after (State.setFld_keeps ..))
    | (with_reducible apply Keeps.after (State.bump_keeps ..))
    | (dsimp only)

theorem State.alignClamp_keeps (s : State) (c : CoreId) : Keeps s (State.alignClamp s c) := by
  unfold State.alignClamp
  repeat' first
    | (with_reducible exact Keeps.refl _)
    | (with_reducible assumption)
    | (with_reducible apply Keeps.after (State.setFld_keeps ..))
    | (dsimp only)

theorem State.valClamp_keeps (s : State) (c : CoreId) : Keeps s (State.valClamp s c) := by
  unfold State.valClamp
  repeat' first
    | (with_reducible exact Keeps.refl _)
    | (with_reducible assumption)
    | (with_reducible apply Keeps.after (State.setFld_keeps ..))
    | (dsimp only)

theorem State.orVflags_keeps (s : State) (c : CoreId) (f : VFlags) : Keeps s (State.orVflags s c f) := by
  unfold State.orVflags
  repeat' first
    | (with_reducible exact Keeps.refl _)
    | (with_reducible assumption)
    | (with_reducible apply Keeps.after (State.wr_keeps ..))
    | (dsimp only)

theorem State.orMtx_keeps (s : State) (c : CoreId) (f : MFlags) : Keeps s (State.orMtx s c f) := by
  unfold State.orMtx
  repeat' first
    | (with_reducible exact Keeps.refl _)
    | (with_reducible assumption)
    | (with_reducible apply Keeps.after (State.wr_keeps ..))
    | (dsimp only)

end Sys2Proof.Machine
end

