-- ==== Sys2Proof/Laws/KeepsCoreOps.lean ====
section
/-!
SUPPORT. Sys2Proof/Laws/KeepsCoreOps.lean: what the operations of Machine/CoreOps.lean keep of a state (`Keeps`).
-/
set_option linter.unusedTactic false
set_option linter.unreachableTactic false
namespace Sys2Proof.Machine

theorem State.complete_keeps (s : State) (c : CoreId) (q : Nat) : Keeps s (State.complete s c q) := by
  unfold State.complete
  repeat' first
    | (with_reducible exact Keeps.refl _)
    | (with_reducible assumption)
    | (with_reducible apply Keeps.after (State.modCore_keeps ..))
    | (with_reducible apply Keeps.after (State.bump_keeps ..))
    | (fail_if_no_progress (with_reducible apply Keeps.mk'))
    | (dsimp only)

theorem State.finishStationary_keeps (s : State) (c : CoreId) : Keeps s (State.finishStationary s c) := by
  unfold State.finishStationary
  repeat' first
    | (with_reducible exact Keeps.refl _)
    | (with_reducible assumption)
    | (with_reducible apply Keeps.after (State.bump_keeps ..))
    | (with_reducible apply Keeps.after (State.modCore_keeps ..))
    | (with_reducible apply Keeps.foldl)
    | (with_reducible apply Keeps.foldl_fst)
    | (with_reducible refine Keeps.foldl_of (by assumption) ?_ ?_)
    | (intro _ _; beta_reduce)
    | (intro _; beta_reduce)
    | (with_reducible apply Keeps.ite_fst)
    | ((fail_if_no_progress extract_lets +onlyGivenNames x); first | (refine Keeps.cut x ?_ ?_; (on_goal 1 => unfold x); (on_goal 2 => (intro hx; clear_value x))) | clear_value x)
    | (with_reducible apply Keeps.ite)
    | (fail_if_no_progress (with_reducible apply Keeps.mk'))
    | split
    | (fail_if_no_progress simp only [Prod.mk.injEq] at *)
    | (fail_if_no_progress (with_reducible obtain ⟨rfl, -⟩ := (show (_ : State) = _ ∧ _ from by assumption)))
    | (fail_if_no_progress (with_reducible apply Keeps.fst))
    | (dsimp only)

theorem State.unlend_keeps (s : State) (c : CoreId) : Keeps s (State.unlend s c) := by
  unfold State.unlend
  repeat' first
    | (with_reducible exact Keeps.refl _)
    | (with_reducible assumption)
    | (with_reducible apply Keeps.after (State.setFld_keeps ..))
    | ((fail_if_no_progress extract_lets +onlyGivenNames x); first | (refine Keeps.cut x ?_ ?_; (on_goal 1 => unfold x); (on_goal 2 => (intro hx; clear_value x))) | clear_value x)
    | (with_reducible apply Keeps.ite)
    | split
    | (dsimp only)

theorem State.unwait_keeps (s : State) (c : CoreId) : Keeps s (State.unwait s c) := by
  unfold State.unwait
  repeat' first
    | (with_reducible exact Keeps.refl _)
    | (with_reducible assumption)
    | (with_reducible apply Keeps.after (State.modCore_keeps ..))
    | (with_reducible apply Keeps.after (State.unlend_keeps ..))
    | (with_reducible apply Keeps.ite)
    | (fail_if_no_progress (with_reducible apply Keeps.mk'))
    | split
    | (dsimp only)

theorem State.stopProgram_keeps (s : State) (c : CoreId) : Keeps s (State.stopProgram s c) := by
  unfold State.stopProgram
  repeat' first
    | (with_reducible exact Keeps.refl _)
    | (with_reducible assumption)
    | (with_reducible apply Keeps.after (State.finishStationary_keeps ..))
    | (with_reducible apply Keeps.after (State.unwait_keeps ..))
    | (with_reducible apply Keeps.after (State.modCore_keeps ..))
    | ((fail_if_no_progress extract_lets +onlyGivenNames x); first | (refine Keeps.cut x ?_ ?_; (on_goal 1 => unfold x); (on_goal 2 => (intro hx; clear_value x))) | clear_value x)
    | (with_reducible apply Keeps.ite)
    | (fail_if_no_progress (with_reducible apply Keeps.mk'))
    | split
    | (dsimp only)

theorem State.exception_keeps (s : State) (c : CoreId) (cause slot fcause pc : Nat) : Keeps s (State.exception s c cause slot fcause pc) := by
  unfold State.exception
  repeat' first
    | (with_reducible exact Keeps.refl _)
    | (with_reducible assumption)
    | (with_reducible apply Keeps.after (State.wr_keeps ..))
    | (with_reducible apply Keeps.after (State.stopProgram_keeps ..))
    | ((fail_if_no_progress extract_lets +onlyGivenNames x); first | (refine Keeps.cut x ?_ ?_; (on_goal 1 => unfold x); (on_goal 2 => (intro hx; clear_value x))) | clear_value x)
    | (dsimp only)

theorem State.issue_keeps (s : State) (c : CoreId) (w : Word) (key : Nat) (eff : State → State) (h : ∀ t, Keeps t (eff t)) :
    Keeps s (s.issue c w key eff) := by
  unfold State.issue
  repeat' first
    | (with_reducible exact Keeps.refl _)
    | (with_reducible exact State.exception_keeps ..)
    | (with_reducible exact h _)
    | (with_reducible apply Keeps.ite)

theorem State.issue_after {s Y : State} {c : CoreId} {w : Word} {key : Nat} {eff : State → State}
    (h : ∀ t, Keeps t (eff t)) (k : Keeps s Y) : Keeps s (Y.issue c w key eff) := k.trans (State.issue_keeps _ _ _ _ _ h)

theorem State.retire_keeps (s : State) (c : CoreId) (f : CoreSt → CoreSt) : Keeps s (State.retire s c f) := by
  unfold State.retire
  repeat' first
    | (with_reducible exact Keeps.refl _)
    | (with_reducible assumption)
    | (with_reducible apply Keeps.after (State.modCore_keeps ..))
    | (with_reducible apply Keeps.after (State.bump_keeps ..))
    | (dsimp only)

theorem State.enqueue_keeps (s : State) (c : CoreId) (w a b x : Word) (al : Bool) : Keeps s (State.enqueue s c w a b x al) := by
  unfold State.enqueue
  repeat' first
    | (with_reducible exact Keeps.refl _)
    | (with_reducible assumption)
    | (with_reducible apply Keeps.after (State.modCore_keeps ..))
    | (fail_if_no_progress (with_reducible apply Keeps.mk'))
    | (dsimp only)

end Sys2Proof.Machine
end

