-- ==== Sys2Proof/Laws/KeepsLsu.lean ====
section
/-!
SUPPORT. Sys2Proof/Laws/KeepsLsu.lean: what the operations of Machine/Lsu.lean keep of a state (`Keeps`).
-/
set_option linter.unusedTactic false
set_option linter.unreachableTactic false
namespace Sys2Proof.Machine

theorem State.modFlight_keeps (s : State) (c : CoreId) (q : Nat) (g : Flight → Flight) : Keeps s (State.modFlight s c q g) := by
  unfold State.modFlight
  repeat' first
    | (with_reducible exact Keeps.refl _)
    | (with_reducible assumption)
    | (with_reducible apply Keeps.after (State.modCore_keeps ..))
    | (dsimp only)

theorem State.parkAt_keeps (s : State) (c : CoreId) (f : Flight) (i : BitVec 2) (t : TFault) : Keeps s (State.parkAt s c f i t) := by
  unfold State.parkAt
  repeat' first
    | (with_reducible exact Keeps.refl _)
    | (with_reducible assumption)
    | (with_reducible apply Keeps.after (State.wr_keeps ..))
    | (with_reducible apply Keeps.after (State.modFlight_keeps ..))
    | (with_reducible apply Keeps.after (State.modDie_keeps ..))
    | (with_reducible apply Keeps.after (State.emit_keeps ..))
    | (with_reducible apply Keeps.after (State.exception_keeps ..))
    | ((fail_if_no_progress extract_lets +onlyGivenNames x); first | (refine Keeps.cut x ?_ ?_; (on_goal 1 => unfold x); (on_goal 2 => (intro hx; clear_value x))) | clear_value x)
    | (with_reducible apply Keeps.ite)
    | (fail_if_no_progress (with_reducible apply Keeps.mk'))
    | split
    | (dsimp only)

theorem State.tileFault_keeps (s : State) (c : CoreId) (q : Nat) (t : TFault) : Keeps s (State.tileFault s c q t) := by
  unfold State.tileFault
  repeat' first
    | (with_reducible exact Keeps.refl _)
    | (with_reducible assumption)
    | (with_reducible apply Keeps.after (State.modCore_keeps ..))
    | (with_reducible apply Keeps.after (State.parkAt_keeps ..))
    | ((fail_if_no_progress extract_lets +onlyGivenNames x); first | (refine Keeps.cut x ?_ ?_; (on_goal 1 => unfold x); (on_goal 2 => (intro hx; clear_value x))) | clear_value x)
    | (with_reducible apply Keeps.ite)
    | (fail_if_no_progress (with_reducible apply Keeps.mk'))
    | split
    | (dsimp only)

theorem State.placeHeld_keeps (s : State) (c : CoreId) : Keeps s (State.placeHeld s c) := by
  unfold State.placeHeld
  repeat' first
    | (with_reducible exact Keeps.refl _)
    | (with_reducible assumption)
    | (with_reducible apply Keeps.after (State.modCore_keeps ..))
    | (with_reducible apply Keeps.after (State.parkAt_keeps ..))
    | ((fail_if_no_progress extract_lets +onlyGivenNames x); first | (refine Keeps.cut x ?_ ?_; (on_goal 1 => unfold x); (on_goal 2 => (intro hx; clear_value x))) | clear_value x)
    | (with_reducible apply Keeps.ite)
    | (fail_if_no_progress (with_reducible apply Keeps.mk'))
    | split
    | (dsimp only)

theorem State.clearSlot_keeps (s : State) (c : CoreId) (i : BitVec 2) : Keeps s (State.clearSlot s c i) := by
  unfold State.clearSlot
  repeat' first
    | (with_reducible exact Keeps.refl _)
    | (with_reducible assumption)
    | (with_reducible apply Keeps.after (State.wr_keeps ..))
    | (dsimp only)

theorem State.completeLs_keeps (s : State) (c : CoreId) (q : Nat) : Keeps s (State.completeLs s c q) := by
  unfold State.completeLs
  repeat' first
    | (with_reducible exact Keeps.refl _)
    | (with_reducible assumption)
    | (with_reducible apply Keeps.after (State.complete_keeps ..))
    | (with_reducible apply Keeps.after (State.clearSlot_keeps ..))
    | (with_reducible apply Keeps.after (State.placeHeld_keeps ..))
    | (with_reducible apply Keeps.ite)
    | (fail_if_no_progress (with_reducible apply Keeps.mk'))
    | split
    | (dsimp only)

theorem State.askSeg_keeps (s : State) (c : CoreId) (row off va n : Nat) : Keeps s (State.askSeg s c row off va n).1 := by
  rw [State.askSeg]
  repeat' first
    | (with_reducible exact Keeps.refl _)
    | (with_reducible assumption)
    | (with_reducible apply Keeps.after (State.xlateCore_keeps ..))
    | (with_reducible refine State.xlateCore_keepsOf (by assumption) ?_)
    | (with_reducible apply Keeps.after (State.walkPoison_keeps ..))
    | (with_reducible apply Keeps.after (State.poisonUse_keeps ..))
    | (with_reducible apply Keeps.after (State.modCore_keeps ..))
    | (with_reducible apply Keeps.after (State.bump_keeps ..))
    | (with_reducible apply Keeps.after (State.take_keeps ..))
    | (with_reducible refine State.take_keepsOf (by assumption) ?_)
    | (with_reducible apply Keeps.ite_fst)
    | ((fail_if_no_progress extract_lets +onlyGivenNames x); first | (refine Keeps.cut x ?_ ?_; (on_goal 1 => unfold x); (on_goal 2 => (intro hx; clear_value x))) | clear_value x)
    | (with_reducible apply Keeps.ite)
    | (fail_if_no_progress (with_reducible apply Keeps.mk'))
    | split
    | (fail_if_no_progress (with_reducible apply Keeps.fst))
    | (dsimp only)


theorem State.askSeg_keepsOf {s : State} {c : CoreId} {row off va n : Nat} {s0 st1 : State} {res1} (h0 : State.askSeg s c row off va n = (st1, res1)) (k0 : Keeps s0 s) : Keeps s0 st1 := by
  have q := State.askSeg_keeps s c row off va n
  rw [h0] at q
  exact k0.trans q

theorem State.askRows_keeps (s : State) (c : CoreId) (l : List (Nat × Nat × Nat × Nat)) (acc : List Seg) : Keeps s (State.askRows s c l acc).1 := by
  induction l generalizing s c acc with
  | nil => exact Keeps.refl _
  | cons hd l ih =>
  unfold State.askRows
  repeat' first
    | (with_reducible exact Keeps.refl _)
    | (with_reducible assumption)
    | (with_reducible apply Keeps.after (ih ..))
    | (with_reducible apply Keeps.after (State.askSeg_keeps ..))
    | (with_reducible refine State.askSeg_keepsOf (by assumption) ?_)
    | (with_reducible apply Keeps.ite_fst)
    | (with_reducible apply Keeps.ite)
    | (fail_if_no_progress (with_reducible apply Keeps.mk'))
    | split
    | (fail_if_no_progress (with_reducible apply Keeps.fst))
    | (dsimp only)


theorem State.askRows_keepsOf {s : State} {c : CoreId} {l} {acc} {s0 st1 : State} {res1} (h0 : State.askRows s c l acc = (st1, res1)) (k0 : Keeps s0 s) : Keeps s0 st1 := by
  have q := State.askRows_keeps s c l acc
  rw [h0] at q
  exact k0.trans q

theorem State.landScalar_keeps (s : State) (c : CoreId) (f : Flight) : Keeps s (State.landScalar s c f) := by
  unfold State.landScalar
  repeat' first
    | (with_reducible exact Keeps.refl _)
    | (with_reducible assumption)
    | (with_reducible apply Keeps.after (State.complete_keeps ..))
    | (with_reducible apply Keeps.after (State.modCore_keeps ..))
    | (with_reducible apply Keeps.after (State.completeLs_keeps ..))
    | (with_reducible apply Keeps.ite)
    | (fail_if_no_progress (with_reducible apply Keeps.mk'))
    | split
    | (dsimp only)

theorem State.startLoad_keeps (s : State) (c : CoreId) (f : Flight) : Keeps s (State.startLoad s c f) := by
  unfold State.startLoad
  repeat' first
    | (with_reducible exact Keeps.refl _)
    | (with_reducible assumption)
    | (with_reducible apply Keeps.after (State.askRows_keeps ..))
    | (with_reducible refine State.askRows_keepsOf (by assumption) ?_)
    | (with_reducible apply Keeps.after (State.modCore_keeps ..))
    | (with_reducible apply Keeps.after (State.landScalar_keeps ..))
    | (with_reducible apply Keeps.after (State.modFlight_keeps ..))
    | (with_reducible apply Keeps.after (State.modDie_keeps ..))
    | (with_reducible apply Keeps.after (State.tileFault_keeps ..))
    | ((fail_if_no_progress extract_lets +onlyGivenNames x); first | (refine Keeps.cut x ?_ ?_; (on_goal 1 => unfold x); (on_goal 2 => (intro hx; clear_value x))) | clear_value x)
    | (with_reducible apply Keeps.ite)
    | (fail_if_no_progress (with_reducible apply Keeps.mk'))
    | split
    | (dsimp only)

theorem State.storeParts_keeps (s : State) (c : CoreId) (row : Nat) (bs : List Byte) (l : List (Nat × Nat × Nat)) : Keeps s (State.storeParts s c row bs l).1 := by
  induction l generalizing s c row bs with
  | nil => exact Keeps.refl _
  | cons hd l ih =>
  unfold State.storeParts
  repeat' first
    | (with_reducible exact Keeps.refl _)
    | (with_reducible assumption)
    | (with_reducible apply Keeps.after (ih ..))
    | (with_reducible apply Keeps.after (State.xlateCore_keeps ..))
    | (with_reducible refine State.xlateCore_keepsOf (by assumption) ?_)
    | (with_reducible apply Keeps.after (State.wrMem_keeps ..))
    | (with_reducible apply Keeps.after (State.take_keeps ..))
    | (with_reducible refine State.take_keepsOf (by assumption) ?_)
    | (with_reducible apply Keeps.after (State.walkPoison_keeps ..))
    | (with_reducible apply Keeps.ite_fst)
    | (with_reducible apply Keeps.ite)
    | (fail_if_no_progress (with_reducible apply Keeps.mk'))
    | split
    | (fail_if_no_progress (with_reducible apply Keeps.fst))
    | (dsimp only)


theorem State.storeParts_keepsOf {s : State} {c : CoreId} {row : Nat} {bs : List Byte} {l} {s0 st1 : State} {res1} (h0 : State.storeParts s c row bs l = (st1, res1)) (k0 : Keeps s0 s) : Keeps s0 st1 := by
  have q := State.storeParts_keeps s c row bs l
  rw [h0] at q
  exact k0.trans q

theorem State.storeRows_keeps (s : State) (c : CoreId) (f : Flight) (l : List (Nat × Nat × Nat)) : Keeps s (State.storeRows s c f l).1 := by
  induction l generalizing s c f with
  | nil => exact Keeps.refl _
  | cons hd l ih =>
  unfold State.storeRows
  repeat' first
    | (with_reducible exact Keeps.refl _)
    | (with_reducible assumption)
    | (with_reducible apply Keeps.after (ih ..))
    | (with_reducible apply Keeps.after (State.storeParts_keeps ..))
    | (with_reducible refine State.storeParts_keepsOf (by assumption) ?_)
    | (with_reducible apply Keeps.ite_fst)
    | (with_reducible apply Keeps.ite)
    | (fail_if_no_progress (with_reducible apply Keeps.mk'))
    | split
    | (fail_if_no_progress (with_reducible apply Keeps.fst))
    | (dsimp only)


theorem State.storeRows_keepsOf {s : State} {c : CoreId} {f : Flight} {l} {s0 st1 : State} {res1} (h0 : State.storeRows s c f l = (st1, res1)) (k0 : Keeps s0 s) : Keeps s0 st1 := by
  have q := State.storeRows_keeps s c f l
  rw [h0] at q
  exact k0.trans q

theorem State.startStore_keeps (s : State) (c : CoreId) (f : Flight) : Keeps s (State.startStore s c f) := by
  unfold State.startStore
  repeat' first
    | (with_reducible exact Keeps.refl _)
    | (with_reducible assumption)
    | (with_reducible apply Keeps.after (State.storeRows_keeps ..))
    | (with_reducible refine State.storeRows_keepsOf (by assumption) ?_)
    | (with_reducible apply Keeps.after (State.completeLs_keeps ..))
    | (with_reducible apply Keeps.after (State.modFlight_keeps ..))
    | (with_reducible apply Keeps.after (State.modDie_keeps ..))
    | (with_reducible apply Keeps.after (State.tileFault_keeps ..))
    | ((fail_if_no_progress extract_lets +onlyGivenNames x); first | (refine Keeps.cut x ?_ ?_; (on_goal 1 => unfold x); (on_goal 2 => (intro hx; clear_value x))) | clear_value x)
    | (with_reducible apply Keeps.ite)
    | (fail_if_no_progress (with_reducible apply Keeps.mk'))
    | split
    | (dsimp only)

theorem State.tryLsu_keeps (s : State) (c : CoreId) (f : Flight) : Keeps s (State.tryLsu s c f) := by
  unfold State.tryLsu
  repeat' first
    | (with_reducible exact Keeps.refl _)
    | (with_reducible assumption)
    | (with_reducible apply Keeps.after (State.startStore_keeps ..))
    | (with_reducible apply Keeps.after (State.startLoad_keeps ..))
    | (with_reducible apply Keeps.ite)
    | split
    | (dsimp only)

theorem State.reclamp_keeps (s : State) (c : CoreId) (f : Flight) : Keeps s (State.reclamp s c f) := by
  unfold State.reclamp
  repeat' first
    | (with_reducible exact Keeps.refl _)
    | (with_reducible assumption)
    | (with_reducible apply Keeps.after (State.setFld_keeps ..))
    | (with_reducible apply Keeps.after (State.alignClamp_keeps ..))
    | (with_reducible apply KeepsO.getD)
    | ((fail_if_no_progress extract_lets +onlyGivenNames x); first | (refine Keeps.cut x ?_ ?_; (on_goal 1 => unfold x); (on_goal 2 => (intro hx; clear_value x))) | clear_value x)
    | (with_reducible apply Keeps.ite)
    | split
    | (dsimp only)

theorem State.restart_keeps (s : State) (c : CoreId) (i : BitVec 2) : Keeps s (State.restart s c i) := by
  unfold State.restart
  repeat' first
    | (with_reducible exact Keeps.refl _)
    | (with_reducible assumption)
    | (with_reducible apply Keeps.after (State.parkAt_keeps ..))
    | (with_reducible apply Keeps.after (State.bump_keeps ..))
    | (with_reducible apply Keeps.after (State.setFld_keeps ..))
    | (with_reducible apply Keeps.after (State.reclamp_keeps ..))
    | (with_reducible apply Keeps.after (State.modFlight_keeps ..))
    | (with_reducible apply Keeps.after (State.startStore_keeps ..))
    | (with_reducible apply Keeps.after (State.startLoad_keeps ..))
    | ((fail_if_no_progress extract_lets +onlyGivenNames x); first | (refine Keeps.cut x ?_ ?_; (on_goal 1 => unfold x); (on_goal 2 => (intro hx; clear_value x))) | clear_value x)
    | (with_reducible apply Keeps.ite)
    | (fail_if_no_progress (with_reducible apply Keeps.mk'))
    | split
    | (dsimp only)

end Sys2Proof.Machine
end

