-- ==== Sys2Proof/Laws/KeepsMatrixOps.lean ====
section
/-!
SUPPORT. Sys2Proof/Laws/KeepsMatrixOps.lean: what the operations of Machine/MatrixOps.lean keep of a state (`Keeps`).
-/
set_option linter.unusedTactic false
set_option linter.unreachableTactic false
namespace Sys2Proof.Machine

theorem State.startMtx_keeps (s : State) (c : CoreId) (f : Flight) : Keeps s (State.startMtx s c f) := by
  unfold State.startMtx
  repeat' first
    | (with_reducible exact Keeps.refl _)
    | (with_reducible assumption)
    | (with_reducible apply Keeps.after (State.shapeClamp_keeps ..))
    | (with_reducible apply Keeps.after (State.complete_keeps ..))
    | (with_reducible apply Keeps.after (State.modFlight_keeps ..))
    | (with_reducible apply Keeps.after (State.modCore_keeps ..))
    | (with_reducible apply Keeps.foldl)
    | (with_reducible apply Keeps.foldl_fst)
    | (with_reducible refine Keeps.foldl_of (by assumption) ?_ ?_)
    | (intro _ _; beta_reduce)
    | (intro _; beta_reduce)
    | (with_reducible apply Keeps.ite_fst)
    | ((fail_if_no_progress extract_lets +onlyGivenNames x); first | (refine Keeps.cut x ?_ ?_; (on_goal 1 => unfold x); (on_goal 2 => (intro hx; clear_value x))) | clear_value x)
    | (with_reducible apply Keeps.ite)
    | (fail_if_no_progress (with_reducible apply Keeps.mk'))
    | split
    | (fail_if_no_progress simp only [Prod.mk.injEq] at *)
    | (fail_if_no_progress (with_reducible obtain ⟨rfl, -⟩ := (show (_ : State) = _ ∧ _ from by assumption)))
    | (fail_if_no_progress (with_reducible apply Keeps.fst))
    | (dsimp only)

theorem State.mtxWrite_keeps (s : State) (c : CoreId) (f : Flight) : Keeps s (State.mtxWrite s c f) := by
  unfold State.mtxWrite
  repeat' first
    | (with_reducible exact Keeps.refl _)
    | (with_reducible assumption)
    | (with_reducible apply Keeps.after (State.modCore_keeps ..))
    | (with_reducible apply Keeps.after (State.wr_keeps ..))
    | (with_reducible apply Keeps.after (State.orMtx_keeps ..))
    | (with_reducible apply Keeps.after (State.shapeClamp_keeps ..))
    | (with_reducible apply Keeps.after (State.bump_keeps ..))
    | (with_reducible apply Keeps.after (State.complete_keeps ..))
    | (with_reducible apply KeepsO.getD)
    | ((fail_if_no_progress extract_lets +onlyGivenNames x); first | (refine Keeps.cut x ?_ ?_; (on_goal 1 => unfold x); (on_goal 2 => (intro hx; clear_value x))) | clear_value x)
    | (with_reducible apply Keeps.ite)
    | split
    | (fail_if_no_progress simp only [Prod.mk.injEq] at *)
    | (fail_if_no_progress (with_reducible obtain ⟨rfl, -⟩ := (show (_ : State) = _ ∧ _ from by assumption)))
    | (dsimp only)

theorem State.startSload_keeps (s : State) (c : CoreId) (f : Flight) : Keeps s (State.startSload s c f) := by
  unfold State.startSload
  repeat' first
    | (with_reducible exact Keeps.refl _)
    | (with_reducible assumption)
    | (with_reducible apply Keeps.after (State.shapeClamp_keeps ..))
    | (with_reducible apply Keeps.after (State.complete_keeps ..))
    | (with_reducible apply Keeps.after (State.modCore_keeps ..))
    | ((fail_if_no_progress extract_lets +onlyGivenNames x); first | (refine Keeps.cut x ?_ ?_; (on_goal 1 => unfold x); (on_goal 2 => (intro hx; clear_value x))) | clear_value x)
    | (with_reducible apply Keeps.ite)
    | (fail_if_no_progress (with_reducible apply Keeps.mk'))
    | split
    | (fail_if_no_progress simp only [Prod.mk.injEq] at *)
    | (fail_if_no_progress (with_reducible obtain ⟨rfl, -⟩ := (show (_ : State) = _ ∧ _ from by assumption)))
    | (dsimp only)

theorem State.startSwap_keeps (s : State) (c : CoreId) (f : Flight) : Keeps s (State.startSwap s c f) := by
  unfold State.startSwap
  repeat' first
    | (with_reducible exact Keeps.refl _)
    | (with_reducible assumption)
    | (with_reducible apply Keeps.after (State.modCore_keeps ..))
    | (with_reducible apply Keeps.after (State.complete_keeps ..))
    | ((fail_if_no_progress extract_lets +onlyGivenNames x); first | (refine Keeps.cut x ?_ ?_; (on_goal 1 => unfold x); (on_goal 2 => (intro hx; clear_value x))) | clear_value x)
    | (with_reducible apply Keeps.ite)
    | (fail_if_no_progress (with_reducible apply Keeps.mk'))
    | split
    | (dsimp only)

theorem State.startForm_keeps (s : State) (c : CoreId) (f : Flight) : Keeps s (State.startForm s c f) := by
  unfold State.startForm
  repeat' first
    | (with_reducible exact Keeps.refl _)
    | (with_reducible assumption)
    | (with_reducible apply Keeps.after (State.complete_keeps ..))
    | (with_reducible apply Keeps.after (State.modCore_keeps ..))
    | ((fail_if_no_progress extract_lets +onlyGivenNames x); first | (refine Keeps.cut x ?_ ?_; (on_goal 1 => unfold x); (on_goal 2 => (intro hx; clear_value x))) | clear_value x)
    | (with_reducible apply Keeps.ite)
    | (fail_if_no_progress (with_reducible apply Keeps.mk'))
    | split
    | (dsimp only)

theorem State.tryArr_keeps (s : State) (c : CoreId) (f : Flight) : Keeps s (State.tryArr s c f) := by
  unfold State.tryArr
  repeat' first
    | (with_reducible exact Keeps.refl _)
    | (with_reducible assumption)
    | (with_reducible apply Keeps.after (State.startMtx_keeps ..))
    | (with_reducible apply Keeps.after (State.modFlight_keeps ..))
    | (with_reducible apply Keeps.after (State.startSload_keeps ..))
    | (with_reducible apply Keeps.after (State.startSwap_keeps ..))
    | (with_reducible apply Keeps.after (State.startForm_keeps ..))
    | ((fail_if_no_progress extract_lets +onlyGivenNames x); first | (refine Keeps.cut x ?_ ?_; (on_goal 1 => unfold x); (on_goal 2 => (intro hx; clear_value x))) | clear_value x)
    | (with_reducible apply Keeps.ite)
    | (fail_if_no_progress (with_reducible apply Keeps.mk'))
    | split
    | (dsimp only)

theorem State.predictionCheck_keeps (s : State) (c : CoreId) (t : BitVec 5) : Keeps s (State.predictionCheck s c t) := by
  unfold State.predictionCheck
  repeat' first
    | (with_reducible exact Keeps.refl _)
    | (with_reducible assumption)
    | (with_reducible apply Keeps.after (State.modCore_keeps ..))
    | (with_reducible apply Keeps.after (State.modFlight_keeps ..))
    | (with_reducible apply Keeps.after (State.bump_keeps ..))
    | (with_reducible apply Keeps.after (State.rplWrite_keeps ..))
    | (with_reducible apply Keeps.foldl)
    | (with_reducible apply Keeps.foldl_fst)
    | (with_reducible refine Keeps.foldl_of (by assumption) ?_ ?_)
    | (intro _ _; beta_reduce)
    | (intro _; beta_reduce)
    | (with_reducible apply Keeps.ite_fst)
    | ((fail_if_no_progress extract_lets +onlyGivenNames x); first | (refine Keeps.cut x ?_ ?_; (on_goal 1 => unfold x); (on_goal 2 => (intro hx; clear_value x))) | clear_value x)
    | (with_reducible apply Keeps.ite)
    | (fail_if_no_progress (with_reducible apply Keeps.mk'))
    | split
    | (fail_if_no_progress simp only [Prod.mk.injEq] at *)
    | (fail_if_no_progress (with_reducible obtain ⟨rfl, -⟩ := (show (_ : State) = _ ∧ _ from by assumption)))
    | (fail_if_no_progress (with_reducible apply Keeps.fst))
    | (dsimp only)

theorem State.applySeed_keeps (s : State) (c : CoreId) (a : Nat) : Keeps s (State.applySeed s c a) := by
  unfold State.applySeed
  repeat' first
    | (with_reducible exact Keeps.refl _)
    | (with_reducible assumption)
    | (with_reducible apply Keeps.after (State.modCore_keeps ..))
    | (with_reducible apply Keeps.after (State.wr_keeps ..))
    | (with_reducible apply Keeps.after (State.rplSeed_keeps ..))
    | ((fail_if_no_progress extract_lets +onlyGivenNames x); first | (refine Keeps.cut x ?_ ?_; (on_goal 1 => unfold x); (on_goal 2 => (intro hx; clear_value x))) | clear_value x)
    | (with_reducible apply Keeps.ite)
    | (fail_if_no_progress (with_reducible apply Keeps.mk'))
    | split
    | (dsimp only)

end Sys2Proof.Machine
end

