-- ==== Sys2Proof/Laws/KeepsVectorOps.lean ====
section
/-!
SUPPORT. Sys2Proof/Laws/KeepsVectorOps.lean: what the operations of Machine/VectorOps.lean keep of a state (`Keeps`).
-/
set_option linter.unusedTactic false
set_option linter.unreachableTactic false
namespace Sys2Proof.Machine

theorem State.histCheck_keeps (s : State) (c : CoreId) : Keeps s (State.histCheck s c) := by
  unfold State.histCheck
  repeat' first
    | (with_reducible exact Keeps.refl _)
    | (with_reducible assumption)
    | (with_reducible apply Keeps.after (State.setFld_keeps ..))
    | (with_reducible apply Keeps.ite)
    | split
    | (dsimp only)

theorem State.sample_keeps (s : State) (c : CoreId) (es : List Nat) : Keeps s (State.sample s c es) := by
  unfold State.sample
  repeat' first
    | (with_reducible exact Keeps.refl _)
    | (with_reducible assumption)
    | (with_reducible apply Keeps.after (State.setCore_keeps ..))
    | (with_reducible apply Keeps.after (State.setFld_keeps ..))
    | (with_reducible apply Keeps.after (State.bump_keeps ..))
    | (with_reducible apply Keeps.after (State.modCore_keeps ..))
    | (with_reducible apply Keeps.foldl)
    | (with_reducible apply Keeps.foldl_fst)
    | (with_reducible refine Keeps.foldl_of (by assumption) ?_ ?_)
    | (intro _ _; beta_reduce)
    | (intro _; beta_reduce)
    | (with_reducible apply Keeps.ite_fst)
    | ((fail_if_no_progress extract_lets +onlyGivenNames x); first | (refine Keeps.cut x ?_ ?_; (on_goal 1 => unfold x); (on_goal 2 => (intro hx; clear_value x))) | clear_value x)
    | (with_reducible apply Keeps.ite)
    | (fail_if_no_progress (with_reducible apply Keeps.mk'))
    | split
    | (fail_if_no_progress simp only [Prod.mk.injEq] at *)
    | (fail_if_no_progress (with_reducible obtain ⟨rfl, -⟩ := (show (_ : State) = _ ∧ _ from by assumption)))
    | (fail_if_no_progress (with_reducible apply Keeps.fst))
    | (dsimp only)

theorem State.slotWait_keeps (s : State) (c : CoreId) : Keeps s (State.slotWait s c) := by
  unfold State.slotWait
  repeat' first
    | (with_reducible exact Keeps.refl _)
    | (with_reducible assumption)
    | (with_reducible apply Keeps.after (State.take_keeps ..))
    | (with_reducible refine State.take_keepsOf (by assumption) ?_)
    | (with_reducible apply Keeps.after (State.bump_keeps ..))
    | ((fail_if_no_progress extract_lets +onlyGivenNames x); first | (refine Keeps.cut x ?_ ?_; (on_goal 1 => unfold x); (on_goal 2 => (intro hx; clear_value x))) | clear_value x)
    | (with_reducible apply Keeps.ite)
    | split
    | (fail_if_no_progress simp only [Prod.mk.injEq] at *)
    | (fail_if_no_progress (with_reducible obtain ⟨rfl, -⟩ := (show (_ : State) = _ ∧ _ from by assumption)))
    | (dsimp only)

theorem State.lostBeats_keeps (s : State) (c : CoreId) : Keeps s (State.lostBeats s c) := by
  unfold State.lostBeats
  repeat' first
    | (with_reducible exact Keeps.refl _)
    | (with_reducible assumption)
    | (with_reducible apply Keeps.after (State.take_keeps ..))
    | (with_reducible refine State.take_keepsOf (by assumption) ?_)
    | (with_reducible apply Keeps.after (State.bump_keeps ..))
    | ((fail_if_no_progress extract_lets +onlyGivenNames x); first | (refine Keeps.cut x ?_ ?_; (on_goal 1 => unfold x); (on_goal 2 => (intro hx; clear_value x))) | clear_value x)
    | (with_reducible apply Keeps.ite)
    | (fail_if_no_progress (with_reducible apply Keeps.mk'))
    | split
    | (fail_if_no_progress simp only [Prod.mk.injEq] at *)
    | (fail_if_no_progress (with_reducible obtain ⟨rfl, -⟩ := (show (_ : State) = _ ∧ _ from by assumption)))
    | (dsimp only)

theorem State.vecFinish_keeps (s : State) (c : CoreId) (f : Flight) : Keeps s (State.vecFinish s c f) := by
  unfold State.vecFinish
  repeat' first
    | (with_reducible exact Keeps.refl _)
    | (with_reducible assumption)
    | (with_reducible apply Keeps.after (State.modCore_keeps ..))
    | (with_reducible apply Keeps.after (State.wr_keeps ..))
    | (with_reducible apply Keeps.after (State.orVflags_keeps ..))
    | (with_reducible apply Keeps.after (State.shapeClamp_keeps ..))
    | (with_reducible apply Keeps.after (State.valClamp_keeps ..))
    | (with_reducible apply Keeps.after (State.sample_keeps ..))
    | (with_reducible apply Keeps.after (State.slotWait_keeps ..))
    | (with_reducible apply Keeps.after (State.bump_keeps ..))
    | (with_reducible apply Keeps.after (State.complete_keeps ..))
    | (with_reducible apply Keeps.foldl)
    | (with_reducible apply Keeps.foldl_fst)
    | (with_reducible refine Keeps.foldl_of (by assumption) ?_ ?_)
    | (intro _ _; beta_reduce)
    | (intro _; beta_reduce)
    | (with_reducible apply Keeps.ite_fst)
    | ((fail_if_no_progress extract_lets +onlyGivenNames x); first | (refine Keeps.cut x ?_ ?_; (on_goal 1 => unfold x); (on_goal 2 => (intro hx; clear_value x))) | clear_value x)
    | (with_reducible apply Keeps.ite)
    | (fail_if_no_progress (with_reducible apply Keeps.mk'))
    | split
    | (fail_if_no_progress simp only [Prod.mk.injEq] at *)
    | (fail_if_no_progress (with_reducible obtain ⟨rfl, -⟩ := (show (_ : State) = _ ∧ _ from by assumption)))
    | (fail_if_no_progress (with_reducible apply Keeps.fst))
    | (dsimp only)

end Sys2Proof.Machine
end

