-- ==== Sys2Proof/Laws/KeepsMesh.lean ====
section
/-!
SUPPORT. Sys2Proof/Laws/KeepsMesh.lean: what the operations of Machine/Mesh.lean keep of a state (`Keeps`).
-/
set_option linter.unusedTactic false
set_option linter.unreachableTactic false
namespace Sys2Proof.Machine

theorem State.bumpRt_keeps (s : State) (reg : Nat → Nat → Nat) (c : CoreId) (n : Nat) : Keeps s (State.bumpRt s reg c n) := by
  unfold State.bumpRt
  repeat' first
    | (with_reducible exact Keeps.refl _)
    | (with_reducible assumption)
    | (with_reducible apply Keeps.after (State.bump_keeps ..))
    | (dsimp only)

theorem State.flitOut_keeps (s : State) (c : CoreId) (p n : Nat) : Keeps s (State.flitOut s c p n) := by
  unfold State.flitOut
  repeat' first
    | (with_reducible exact Keeps.refl _)
    | (with_reducible assumption)
    | (with_reducible apply Keeps.after (State.bump_keeps ..))
    | (dsimp only)

theorem State.flits_go_keeps (d : CoreId) (out n k : Nat) (s : State) (c : CoreId) : Keeps s (State.flits.go d out n k s c) := by
  induction k generalizing s c with
  | zero => exact Keeps.refl _
  | succ k ih =>
    unfold State.flits.go
    split
    · exact (State.flitOut_keeps ..).trans (ih ..)
    · exact State.flitOut_keeps ..

theorem State.flits_keeps (s : State) (c d : CoreId) (out n : Nat) : Keeps s (s.flits c d out n) :=
  State.flits_go_keeps ..

theorem State.countFenced_keeps (s : State) (c : CoreId) : Keeps s (State.countFenced s c) := by
  unfold State.countFenced
  repeat' first
    | (with_reducible exact Keeps.refl _)
    | (with_reducible assumption)
    | (with_reducible apply Keeps.after (State.bumpRt_keeps ..))
    | (dsimp only)

theorem State.spend_keeps (s : State) (e : Ep) (n : Nat) : Keeps s (State.spend s e n) := by
  unfold State.spend
  repeat' first
    | (with_reducible exact Keeps.refl _)
    | (with_reducible assumption)
    | ((fail_if_no_progress extract_lets +onlyGivenNames x); first | (refine Keeps.cut x ?_ ?_; (on_goal 1 => unfold x); (on_goal 2 => (intro hx; clear_value x))) | clear_value x)
    | (with_reducible apply Keeps.ite)
    | (fail_if_no_progress (with_reducible apply Keeps.mk'))
    | split
    | (dsimp only)

theorem State.send_keeps (s : State) (e e' : Ep) (n : Nat) : Keeps s (State.send s e e' n) := by
  unfold State.send
  repeat' first
    | (with_reducible exact Keeps.refl _)
    | (with_reducible assumption)
    | (with_reducible apply Keeps.after (State.spend_keeps ..))
    | (with_reducible apply Keeps.after (State.flits_keeps ..))
    | (with_reducible apply Keeps.ite)
    | split
    | (dsimp only)

theorem State.ctrl_keeps (s : State) (e e' : Ep) : Keeps s (State.ctrl s e e') := by
  unfold State.ctrl
  repeat' first
    | (with_reducible exact Keeps.refl _)
    | (with_reducible assumption)
    | (with_reducible apply Keeps.after (State.flits_keeps ..))
    | (with_reducible apply Keeps.ite)
    | split
    | (dsimp only)

theorem State.refill_keeps (s : State) (d p : Nat) : Keeps s (State.refill s d p) := by
  unfold State.refill
  repeat' first
    | (with_reducible exact Keeps.refl _)
    | (with_reducible assumption)
    | ((fail_if_no_progress extract_lets +onlyGivenNames x); first | (refine Keeps.cut x ?_ ?_; (on_goal 1 => unfold x); (on_goal 2 => (intro hx; clear_value x))) | clear_value x)
    | (fail_if_no_progress (with_reducible apply Keeps.mk'))
    | (dsimp only)

end Sys2Proof.Machine
end

