-- ==== Sys2Proof/Laws/KeepsSync.lean ====
section
/-!
SUPPORT. Sys2Proof/Laws/KeepsSync.lean: what the operations of Machine/Sync.lean keep of a state (`Keeps`).
-/
set_option linter.unusedTactic false
set_option linter.unreachableTactic false
namespace Sys2Proof.Machine

theorem State.setSlice_keeps (s : State) (k : ClusterId) (x : SliceSt) : Keeps s (State.setSlice s k x) := by
  unfold State.setSlice
  repeat' first
    | (with_reducible exact Keeps.refl _)
    | (with_reducible assumption)
    | (with_reducible apply Keeps.after (State.setFld_keeps ..))
    | ((fail_if_no_progress extract_lets +onlyGivenNames x); first | (refine Keeps.cut x ?_ ?_; (on_goal 1 => unfold x); (on_goal 2 => (intro hx; clear_value x))) | clear_value x)
    | (fail_if_no_progress (with_reducible apply Keeps.mk'))
    | (dsimp only)

theorem State.stamp_keeps (s : State) : Keeps s (State.stamp s) := by
  unfold State.stamp
  repeat' first
    | (with_reducible exact Keeps.refl _)
    | (with_reducible assumption)
    | (fail_if_no_progress (with_reducible apply Keeps.mk'))
    | (dsimp only)

theorem State.fire_keeps (s : State) (k : ClusterId) (w : WatchMsg) : Keeps s (State.fire s k w) := by
  unfold State.fire
  repeat' first
    | (with_reducible exact Keeps.refl _)
    | (with_reducible assumption)
    | (with_reducible apply Keeps.after (State.ctrl_keeps ..))
    | (with_reducible apply Keeps.after (State.bump_keeps ..))
    | (with_reducible apply Keeps.after (State.stamp_keeps ..))
    | ((fail_if_no_progress extract_lets +onlyGivenNames x); first | (refine Keeps.cut x ?_ ?_; (on_goal 1 => unfold x); (on_goal 2 => (intro hx; clear_value x))) | clear_value x)
    | (fail_if_no_progress (with_reducible apply Keeps.mk'))
    | (dsimp only)

theorem State.evalWatches_keeps (s : State) (o : ObjId) : Keeps s (State.evalWatches s o) := by
  unfold State.evalWatches
  repeat' first
    | (with_reducible exact Keeps.refl _)
    | (with_reducible assumption)
    | (with_reducible apply Keeps.after (State.setSlice_keeps ..))
    | (with_reducible apply Keeps.after (State.fire_keeps ..))
    | (with_reducible apply Keeps.foldl)
    | (with_reducible apply Keeps.foldl_fst)
    | (with_reducible refine Keeps.foldl_of (by assumption) ?_ ?_)
    | (intro _ _; beta_reduce)
    | (intro _; beta_reduce)
    | (with_reducible apply Keeps.ite_fst)
    | ((fail_if_no_progress extract_lets +onlyGivenNames x); first | (refine Keeps.cut x ?_ ?_; (on_goal 1 => unfold x); (on_goal 2 => (intro hx; clear_value x))) | clear_value x)
    | (with_reducible apply Keeps.ite)
    | (fail_if_no_progress (with_reducible apply Keeps.mk'))
    | split
    | (fail_if_no_progress simp only [Prod.mk.injEq] at *)
    | (fail_if_no_progress (with_reducible obtain ⟨rfl, -⟩ := (show (_ : State) = _ ∧ _ from by assumption)))
    | (fail_if_no_progress (with_reducible apply Keeps.fst))
    | (dsimp only)

theorem State.noteAdv_keeps (s : State) (a : Adv) : Keeps s (State.noteAdv s a) := by
  unfold State.noteAdv
  repeat' first
    | (with_reducible exact Keeps.refl _)
    | (with_reducible assumption)
    | (with_reducible apply Keeps.ite)
    | (fail_if_no_progress (with_reducible apply Keeps.mk'))
    | split
    | (dsimp only)

theorem State.takeTurn_keeps (s : State) (key : Nat) : Keeps s (State.takeTurn s key) := by
  unfold State.takeTurn
  repeat' first
    | (with_reducible exact Keeps.refl _)
    | (with_reducible assumption)
    | (with_reducible apply Keeps.ite)
    | (fail_if_no_progress (with_reducible apply Keeps.mk'))
    | split
    | (dsimp only)

theorem State.freeOrder_keeps (s : State) (key : Nat) : Keeps s (State.freeOrder s key) := by
  unfold State.freeOrder
  repeat' first
    | (with_reducible exact Keeps.refl _)
    | (with_reducible assumption)
    | (fail_if_no_progress (with_reducible apply Keeps.mk'))
    | (dsimp only)

theorem State.answer_keeps (s : State) (a : Adv) (r : AdvAns) : Keeps s (State.answer s a r) := by
  unfold State.answer
  repeat' first
    | (with_reducible exact Keeps.refl _)
    | (with_reducible assumption)
    | (with_reducible apply Keeps.after (State.ctrl_keeps ..))
    | (with_reducible apply Keeps.after (State.stamp_keeps ..))
    | ((fail_if_no_progress extract_lets +onlyGivenNames x); first | (refine Keeps.cut x ?_ ?_; (on_goal 1 => unfold x); (on_goal 2 => (intro hx; clear_value x))) | clear_value x)
    | (with_reducible apply Keeps.ite)
    | (fail_if_no_progress (with_reducible apply Keeps.mk'))
    | split
    | (dsimp only)

theorem State.applyAdv_keeps (s : State) (a : Adv) : Keeps s (State.applyAdv s a) := by
  unfold State.applyAdv
  repeat' first
    | (with_reducible exact Keeps.refl _)
    | (with_reducible assumption)
    | (with_reducible apply Keeps.after (State.setFld_keeps ..))
    | (with_reducible apply Keeps.after (State.wr_keeps ..))
    | (with_reducible apply Keeps.after (State.bump_keeps ..))
    | (with_reducible apply Keeps.after (State.noteAdv_keeps ..))
    | (with_reducible apply Keeps.after (State.takeTurn_keeps ..))
    | (with_reducible apply Keeps.after (State.answer_keeps ..))
    | (with_reducible apply Keeps.after (State.evalWatches_keeps ..))
    | ((fail_if_no_progress extract_lets +onlyGivenNames x); first | (refine Keeps.cut x ?_ ?_; (on_goal 1 => unfold x); (on_goal 2 => (intro hx; clear_value x))) | clear_value x)
    | (with_reducible apply Keeps.ite)
    | split
    | (dsimp only)

theorem State.drainHeld_keeps (s : State) (k : ClusterId) (fuel : Nat) : Keeps s (State.drainHeld s k fuel) := by
  induction fuel generalizing s k with
  | zero => exact Keeps.refl _
  | succ fuel ih =>
  unfold State.drainHeld
  repeat' first
    | (with_reducible exact Keeps.refl _)
    | (with_reducible assumption)
    | (with_reducible apply Keeps.after (ih ..))
    | (with_reducible apply Keeps.after (State.setSlice_keeps ..))
    | (with_reducible apply Keeps.after (State.applyAdv_keeps ..))
    | ((fail_if_no_progress extract_lets +onlyGivenNames x); first | (refine Keeps.cut x ?_ ?_; (on_goal 1 => unfold x); (on_goal 2 => (intro hx; clear_value x))) | clear_value x)
    | (with_reducible apply Keeps.ite)
    | (fail_if_no_progress (with_reducible apply Keeps.mk'))
    | split
    | (dsimp only)

theorem State.sliceAdvance_keeps (s : State) (a : Adv) : Keeps s (State.sliceAdvance s a) := by
  unfold State.sliceAdvance
  repeat' first
    | (with_reducible exact Keeps.refl _)
    | (with_reducible assumption)
    | (with_reducible apply Keeps.after (State.diverge_keeps ..))
    | (with_reducible apply Keeps.after (State.freeOrder_keeps ..))
    | (with_reducible apply Keeps.after (State.applyAdv_keeps ..))
    | (with_reducible apply Keeps.after (State.drainHeld_keeps ..))
    | (with_reducible apply Keeps.after (State.bump_keeps ..))
    | (with_reducible apply Keeps.after (State.setSlice_keeps ..))
    | (with_reducible apply Keeps.after (State.answer_keeps ..))
    | (with_reducible apply Keeps.after (State.setFld_keeps ..))
    | ((fail_if_no_progress extract_lets +onlyGivenNames x); first | (refine Keeps.cut x ?_ ?_; (on_goal 1 => unfold x); (on_goal 2 => (intro hx; clear_value x))) | clear_value x)
    | (with_reducible apply Keeps.ite)
    | (fail_if_no_progress (with_reducible apply Keeps.mk'))
    | split
    | (dsimp only)

theorem State.sendAdv_keeps (s : State) (a : Adv) : Keeps s (State.sendAdv s a) := by
  unfold State.sendAdv
  repeat' first
    | (with_reducible exact Keeps.refl _)
    | (with_reducible assumption)
    | (with_reducible apply Keeps.after (State.ctrl_keeps ..))
    | (with_reducible apply Keeps.after (State.stamp_keeps ..))
    | ((fail_if_no_progress extract_lets +onlyGivenNames x); first | (refine Keeps.cut x ?_ ?_; (on_goal 1 => unfold x); (on_goal 2 => (intro hx; clear_value x))) | clear_value x)
    | (fail_if_no_progress (with_reducible apply Keeps.mk'))
    | (dsimp only)

theorem State.sliceWatch_keeps (s : State) (w : WatchMsg) : Keeps s (State.sliceWatch s w) := by
  unfold State.sliceWatch
  repeat' first
    | (with_reducible exact Keeps.refl _)
    | (with_reducible assumption)
    | (with_reducible apply Keeps.after (State.fire_keeps ..))
    | (with_reducible apply Keeps.after (State.setSlice_keeps ..))
    | (with_reducible apply Keeps.after (State.setFld_keeps ..))
    | (with_reducible apply Keeps.after (State.bump_keeps ..))
    | ((fail_if_no_progress extract_lets +onlyGivenNames x); first | (refine Keeps.cut x ?_ ?_; (on_goal 1 => unfold x); (on_goal 2 => (intro hx; clear_value x))) | clear_value x)
    | (with_reducible apply Keeps.ite)
    | (fail_if_no_progress (with_reducible apply Keeps.mk'))
    | split
    | (dsimp only)

theorem State.sendReg_keeps (s : State) (w : WatchMsg) : Keeps s (State.sendReg s w) := by
  unfold State.sendReg
  repeat' first
    | (with_reducible exact Keeps.refl _)
    | (with_reducible assumption)
    | (with_reducible apply Keeps.after (State.ctrl_keeps ..))
    | (with_reducible apply Keeps.after (State.stamp_keeps ..))
    | ((fail_if_no_progress extract_lets +onlyGivenNames x); first | (refine Keeps.cut x ?_ ?_; (on_goal 1 => unfold x); (on_goal 2 => (intro hx; clear_value x))) | clear_value x)
    | (fail_if_no_progress (with_reducible apply Keeps.mk'))
    | (dsimp only)

theorem State.cancelWatch_keeps (s : State) (who : Watcher) : Keeps s (State.cancelWatch s who) := by
  unfold State.cancelWatch
  repeat' first
    | (with_reducible exact Keeps.refl _)
    | (with_reducible assumption)
    | (with_reducible apply Keeps.after (State.setSlice_keeps ..))
    | (with_reducible apply Keeps.foldl)
    | (with_reducible apply Keeps.foldl_fst)
    | (with_reducible refine Keeps.foldl_of (by assumption) ?_ ?_)
    | (intro _ _; beta_reduce)
    | (intro _; beta_reduce)
    | (with_reducible apply Keeps.ite_fst)
    | ((fail_if_no_progress extract_lets +onlyGivenNames x); first | (refine Keeps.cut x ?_ ?_; (on_goal 1 => unfold x); (on_goal 2 => (intro hx; clear_value x))) | clear_value x)
    | (with_reducible apply Keeps.ite)
    | (fail_if_no_progress (with_reducible apply Keeps.mk'))
    | split
    | (fail_if_no_progress simp only [Prod.mk.injEq] at *)
    | (fail_if_no_progress (with_reducible obtain ⟨rfl, -⟩ := (show (_ : State) = _ ∧ _ from by assumption)))
    | (fail_if_no_progress (with_reducible apply Keeps.fst))
    | (dsimp only)

theorem State.watchPend_keeps (s : State) (c : CoreId) : Keeps s (State.watchPend s c) := by
  unfold State.watchPend
  repeat' first
    | (with_reducible exact Keeps.refl _)
    | (with_reducible assumption)
    | (with_reducible apply Keeps.after (State.setFld_keeps ..))
    | ((fail_if_no_progress extract_lets +onlyGivenNames x); first | (refine Keeps.cut x ?_ ?_; (on_goal 1 => unfold x); (on_goal 2 => (intro hx; clear_value x))) | clear_value x)
    | (with_reducible apply Keeps.ite)
    | split
    | (dsimp only)

theorem State.cancelSlot_keeps (s : State) (c : CoreId) (i : BitVec 4) : Keeps s (State.cancelSlot s c i) := by
  unfold State.cancelSlot
  repeat' first
    | (with_reducible exact Keeps.refl _)
    | (with_reducible assumption)
    | (with_reducible apply Keeps.after (State.modCore_keeps ..))
    | (with_reducible apply Keeps.after (State.cancelWatch_keeps ..))
    | (with_reducible apply Keeps.after (State.watchPend_keeps ..))
    | ((fail_if_no_progress extract_lets +onlyGivenNames x); first | (refine Keeps.cut x ?_ ?_; (on_goal 1 => unfold x); (on_goal 2 => (intro hx; clear_value x))) | clear_value x)
    | (fail_if_no_progress (with_reducible apply Keeps.mk'))
    | (dsimp only)

theorem State.beginWait_keeps (s : State) (c : CoreId) : Keeps s (State.beginWait s c) := by
  unfold State.beginWait
  repeat' first
    | (with_reducible exact Keeps.refl _)
    | (with_reducible assumption)
    | (with_reducible apply Keeps.after (State.modCore_keeps ..))
    | (fail_if_no_progress (with_reducible apply Keeps.mk'))
    | (dsimp only)

theorem State.endSwait_keeps (s : State) (c : CoreId) (m : BitVec 16) (rd : BitVec 5) : Keeps s (State.endSwait s c m rd) := by
  unfold State.endSwait
  repeat' first
    | (with_reducible exact Keeps.refl _)
    | (with_reducible assumption)
    | (with_reducible apply Keeps.after (State.modCore_keeps ..))
    | (with_reducible apply Keeps.after (State.unwait_keeps ..))
    | (with_reducible apply Keeps.after (State.bump_keeps ..))
    | ((fail_if_no_progress extract_lets +onlyGivenNames x); first | (refine Keeps.cut x ?_ ?_; (on_goal 1 => unfold x); (on_goal 2 => (intro hx; clear_value x))) | clear_value x)
    | (fail_if_no_progress (with_reducible apply Keeps.mk'))
    | (dsimp only)

theorem State.trySwait_keeps (s : State) (c : CoreId) : Keeps s (State.trySwait s c) := by
  unfold State.trySwait
  repeat' first
    | (with_reducible exact Keeps.refl _)
    | (with_reducible assumption)
    | (with_reducible apply Keeps.after (State.endSwait_keeps ..))
    | (with_reducible apply Keeps.after (State.beginWait_keeps ..))
    | (with_reducible apply Keeps.after (State.modCore_keeps ..))
    | ((fail_if_no_progress extract_lets +onlyGivenNames x); first | (refine Keeps.cut x ?_ ?_; (on_goal 1 => unfold x); (on_goal 2 => (intro hx; clear_value x))) | clear_value x)
    | (with_reducible apply Keeps.ite)
    | (fail_if_no_progress (with_reducible apply Keeps.mk'))
    | split
    | (dsimp only)

theorem State.setBar_keeps (s : State) (d : DieId) (n : BitVec 6) (x : BarSt) : Keeps s (State.setBar s d n x) := by
  unfold State.setBar
  repeat' first
    | (with_reducible exact Keeps.refl _)
    | (with_reducible assumption)
    | (fail_if_no_progress (with_reducible apply Keeps.mk'))
    | (dsimp only)

theorem State.barArrive_keeps (s : State) (c : CoreId) (n : BitVec 6) (scope : Bool) : Keeps s (State.barArrive s c n scope) := by
  unfold State.barArrive
  repeat' first
    | (with_reducible exact Keeps.refl _)
    | (with_reducible assumption)
    | (with_reducible apply Keeps.after (State.wr_keeps ..))
    | (with_reducible apply Keeps.after (State.modCore_keeps ..))
    | (with_reducible apply Keeps.after (State.setBar_keeps ..))
    | ((fail_if_no_progress extract_lets +onlyGivenNames x); first | (refine Keeps.cut x ?_ ?_; (on_goal 1 => unfold x); (on_goal 2 => (intro hx; clear_value x))) | clear_value x)
    | (with_reducible apply Keeps.ite)
    | (fail_if_no_progress (with_reducible apply Keeps.mk'))
    | split
    | (dsimp only)

theorem State.tryDmast_keeps (s : State) (c : CoreId) (f : Flight) : Keeps s (State.tryDmast s c f) := by
  unfold State.tryDmast
  repeat' first
    | (with_reducible exact Keeps.refl _)
    | (with_reducible assumption)
    | (with_reducible apply Keeps.after (State.modCore_keeps ..))
    | (with_reducible apply Keeps.after (State.complete_keeps ..))
    | (with_reducible apply Keeps.ite)
    | split
    | (dsimp only)

theorem State.endSync_keeps (s : State) (c : CoreId) (f : Flight) (v : Word) : Keeps s (State.endSync s c f v) := by
  unfold State.endSync
  repeat' first
    | (with_reducible exact Keeps.refl _)
    | (with_reducible assumption)
    | (with_reducible apply Keeps.after (State.modCore_keeps ..))
    | (with_reducible apply Keeps.after (State.complete_keeps ..))
    | (dsimp only)

theorem State.trySync_keeps (s : State) (c : CoreId) (f : Flight) : Keeps s (State.trySync s c f) := by
  unfold State.trySync
  repeat' first
    | (with_reducible exact Keeps.refl _)
    | (with_reducible assumption)
    | (with_reducible apply Keeps.after (State.modFlight_keeps ..))
    | (with_reducible apply Keeps.after (State.sendAdv_keeps ..))
    | (with_reducible apply Keeps.after (State.endSync_keeps ..))
    | (with_reducible apply Keeps.after (State.cancelSlot_keeps ..))
    | (with_reducible apply Keeps.after (State.modCore_keeps ..))
    | (with_reducible apply Keeps.after (State.sendReg_keeps ..))
    | (with_reducible apply Keeps.after (State.complete_keeps ..))
    | (with_reducible apply Keeps.after (State.barArrive_keeps ..))
    | (with_reducible apply Keeps.after (State.beginWait_keeps ..))
    | (with_reducible apply Keeps.foldl)
    | (with_reducible apply Keeps.foldl_fst)
    | (with_reducible refine Keeps.foldl_of (by assumption) ?_ ?_)
    | (intro _ _; beta_reduce)
    | (intro _; beta_reduce)
    | (with_reducible apply Keeps.ite_fst)
    | ((fail_if_no_progress extract_lets +onlyGivenNames x); first | (refine Keeps.cut x ?_ ?_; (on_goal 1 => unfold x); (on_goal 2 => (intro hx; clear_value x))) | clear_value x)
    | (with_reducible apply Keeps.ite)
    | (fail_if_no_progress (with_reducible apply Keeps.mk'))
    | split
    | (fail_if_no_progress simp only [Prod.mk.injEq] at *)
    | (fail_if_no_progress (with_reducible obtain ⟨rfl, -⟩ := (show (_ : State) = _ ∧ _ from by assumption)))
    | (fail_if_no_progress (with_reducible apply Keeps.fst))
    | (dsimp only)

theorem State.pumpOnce_keeps (s : State) (c : CoreId) : Keeps s (State.pumpOnce s c) := by
  unfold State.pumpOnce
  repeat' first
    | (with_reducible exact Keeps.refl _)
    | (with_reducible assumption)
    | (with_reducible apply Keeps.after (State.applySeed_keeps ..))
    | (with_reducible apply Keeps.after (State.tryArr_keeps ..))
    | (with_reducible apply Keeps.after (State.tryLsu_keeps ..))
    | (with_reducible apply Keeps.after (State.tryDmast_keeps ..))
    | (with_reducible apply Keeps.after (State.trySync_keeps ..))
    | (with_reducible apply Keeps.after (State.trySwait_keeps ..))
    | (with_reducible apply Keeps.foldl)
    | (with_reducible apply Keeps.foldl_fst)
    | (with_reducible refine Keeps.foldl_of (by assumption) ?_ ?_)
    | (intro _ _; beta_reduce)
    | (intro _; beta_reduce)
    | (with_reducible apply Keeps.ite_fst)
    | ((fail_if_no_progress extract_lets +onlyGivenNames x); first | (refine Keeps.cut x ?_ ?_; (on_goal 1 => unfold x); (on_goal 2 => (intro hx; clear_value x))) | clear_value x)
    | (with_reducible apply Keeps.ite)
    | (fail_if_no_progress (with_reducible apply Keeps.mk'))
    | split
    | (fail_if_no_progress simp only [Prod.mk.injEq] at *)
    | (fail_if_no_progress (with_reducible obtain ⟨rfl, -⟩ := (show (_ : State) = _ ∧ _ from by assumption)))
    | (fail_if_no_progress (with_reducible apply Keeps.fst))
    | (dsimp only)

theorem State.pump_keeps (s : State) (c : CoreId) : Keeps s (State.pump s c) := by
  unfold State.pump
  repeat' first
    | (with_reducible exact Keeps.refl _)
    | (with_reducible assumption)
    | (with_reducible apply Keeps.after (State.pumpOnce_keeps ..))
    | (with_reducible apply Keeps.foldl)
    | (with_reducible apply Keeps.foldl_fst)
    | (with_reducible refine Keeps.foldl_of (by assumption) ?_ ?_)
    | (intro _ _; beta_reduce)
    | (intro _; beta_reduce)
    | (with_reducible apply Keeps.ite_fst)
    | (with_reducible apply Keeps.ite)
    | split
    | (fail_if_no_progress simp only [Prod.mk.injEq] at *)
    | (fail_if_no_progress (with_reducible obtain ⟨rfl, -⟩ := (show (_ : State) = _ ∧ _ from by assumption)))
    | (fail_if_no_progress (with_reducible apply Keeps.fst))
    | (dsimp only)

end Sys2Proof.Machine
end

