-- ==== Sys2Proof/Laws/KeepsCoreRegs.lean ====
section
/-!
SUPPORT. Sys2Proof/Laws/KeepsCoreRegs.lean: what the operations of Machine/CoreRegs.lean keep of a state (`Keeps`).
-/
set_option linter.unusedTactic false
set_option linter.unreachableTactic false
namespace Sys2Proof.Machine

theorem State.plainWrite_keeps (s : State) (a : Nat) (v : Word) : Keeps s (State.plainWrite s a v) := by
  unfold State.plainWrite
  repeat' first
    | (with_reducible exact Keeps.refl _)
    | (with_reducible assumption)
    | (with_reducible apply Keeps.after (State.wr_keeps ..))
    | (with_reducible apply Keeps.ite)
    | (fail_if_no_progress (with_reducible apply Keeps.mk'))
    | split
    | (dsimp only)

theorem State.foldNow_keeps (s : State) (c : CoreId) (next : Option (BitVec 16)) : Keeps s (State.foldNow s c next) := by
  unfold State.foldNow
  repeat' first
    | (with_reducible exact Keeps.refl _)
    | (with_reducible assumption)
    | (with_reducible apply Keeps.after (State.setCore_keeps ..))
    | (with_reducible apply Keeps.after (State.setFld_keeps ..))
    | ((fail_if_no_progress extract_lets +onlyGivenNames x); first | (refine Keeps.cut x ?_ ?_; (on_goal 1 => unfold x); (on_goal 2 => (intro hx; clear_value x))) | clear_value x)
    | (with_reducible apply Keeps.ite)
    | (fail_if_no_progress (with_reducible apply Keeps.mk'))
    | split
    | (dsimp only)

theorem State.foldReq_keeps (s : State) (c : CoreId) (next : Option (BitVec 16)) : Keeps s (State.foldReq s c next) := by
  unfold State.foldReq
  repeat' first
    | (with_reducible exact Keeps.refl _)
    | (with_reducible assumption)
    | (with_reducible apply Keeps.after (State.modCore_keeps ..))
    | (with_reducible apply Keeps.after (State.foldNow_keeps ..))
    | (with_reducible apply Keeps.ite)
    | (fail_if_no_progress (with_reducible apply Keeps.mk'))
    | split
    | (dsimp only)

theorem State.foldRun_keeps (s : State) (c : CoreId) (l : List (Option (BitVec 16))) : Keeps s (s.foldRun c l) := by
  induction l generalizing s with
  | nil => exact State.modCore_keeps ..
  | cons n rest ih =>
    unfold State.foldRun
    extract_lets t
    have k : Keeps s t := State.foldNow_keeps ..
    exact Keeps.ite (k.trans (State.modCore_keeps ..)) (k.trans (ih t))

theorem State.foldInto_keeps (s : State) (c : CoreId) (tag : BitVec 16) (h : Tab Nat) : Keeps s (State.foldInto s c tag h) := by
  unfold State.foldInto
  repeat' first
    | (with_reducible exact Keeps.refl _)
    | (with_reducible assumption)
    | (with_reducible apply Keeps.after (State.wrNum_keeps ..))
    | (with_reducible apply Keeps.foldl)
    | (with_reducible apply Keeps.foldl_fst)
    | (with_reducible refine Keeps.foldl_of (by assumption) ?_ ?_)
    | (intro _ _; beta_reduce)
    | (intro _; beta_reduce)
    | (with_reducible apply Keeps.ite_fst)
    | ((fail_if_no_progress extract_lets +onlyGivenNames x); first | (refine Keeps.cut x ?_ ?_; (on_goal 1 => unfold x); (on_goal 2 => (intro hx; clear_value x))) | clear_value x)
    | (with_reducible apply Keeps.ite)
    | split
    | (fail_if_no_progress simp only [Prod.mk.injEq] at *)
    | (fail_if_no_progress (with_reducible obtain ⟨rfl, -⟩ := (show (_ : State) = _ ∧ _ from by assumption)))
    | (fail_if_no_progress (with_reducible apply Keeps.fst))
    | (dsimp only)

theorem State.foldAccept_keeps (s : State) (c : CoreId) : Keeps s (State.foldAccept s c) := by
  unfold State.foldAccept
  repeat' first
    | (with_reducible exact Keeps.refl _)
    | (with_reducible assumption)
    | (with_reducible apply Keeps.after (State.foldInto_keeps ..))
    | (with_reducible apply Keeps.after (State.modCore_keeps ..))
    | (with_reducible apply Keeps.after (State.setFld_keeps ..))
    | (with_reducible apply Keeps.after (State.foldRun_keeps ..))
    | (with_reducible refine State.foldRun_keepsOf (by assumption) ?_)
    | ((fail_if_no_progress extract_lets +onlyGivenNames x); first | (refine Keeps.cut x ?_ ?_; (on_goal 1 => unfold x); (on_goal 2 => (intro hx; clear_value x))) | clear_value x)
    | (with_reducible apply Keeps.ite)
    | (fail_if_no_progress (with_reducible apply Keeps.mk'))
    | split
    | (dsimp only)

theorem State.tfResume_keeps (s : State) (c : CoreId) (i : BitVec 2) : Keeps s (State.tfResume s c i) := by
  unfold State.tfResume
  repeat' first
    | (with_reducible exact Keeps.refl _)
    | (with_reducible assumption)
    | (with_reducible apply Keeps.after (State.restart_keeps ..))
    | (with_reducible apply Keeps.after (State.pump_keeps ..))
    | ((fail_if_no_progress extract_lets +onlyGivenNames x); first | (refine Keeps.cut x ?_ ?_; (on_goal 1 => unfold x); (on_goal 2 => (intro hx; clear_value x))) | clear_value x)
    | (with_reducible apply Keeps.ite)
    | split
    | (dsimp only)

theorem State.tfAbort_keeps (s : State) (c : CoreId) (i : BitVec 2) : Keeps s (State.tfAbort s c i) := by
  unfold State.tfAbort
  repeat' first
    | (with_reducible exact Keeps.refl _)
    | (with_reducible assumption)
    | (with_reducible apply Keeps.after (State.exception_keeps ..))
    | ((fail_if_no_progress extract_lets +onlyGivenNames x); first | (refine Keeps.cut x ?_ ?_; (on_goal 1 => unfold x); (on_goal 2 => (intro hx; clear_value x))) | clear_value x)
    | (with_reducible apply Keeps.ite)
    | split
    | (dsimp only)

theorem State.excResume_keeps (s : State) (c : CoreId) : Keeps s (State.excResume s c) := by
  unfold State.excResume
  repeat' first
    | (with_reducible exact Keeps.refl _)
    | (with_reducible assumption)
    | (with_reducible apply Keeps.after (State.modCore_keeps ..))
    | (fail_if_no_progress (with_reducible apply Keeps.mk'))
    | (dsimp only)

theorem State.excAbort_keeps (s : State) (c : CoreId) : Keeps s (State.excAbort s c) := by
  unfold State.excAbort
  repeat' first
    | (with_reducible exact Keeps.refl _)
    | (with_reducible assumption)
    | (with_reducible apply Keeps.after (State.exception_keeps ..))
    | (with_reducible apply Keeps.ite)
    | split
    | (dsimp only)

theorem State.invalidate_keeps (s : State) (c : CoreId) : Keeps s (State.invalidate s c) := by
  unfold State.invalidate
  repeat' first
    | (with_reducible exact Keeps.refl _)
    | (with_reducible assumption)
    | (with_reducible apply Keeps.after (State.modCore_keeps ..))
    | (fail_if_no_progress (with_reducible apply Keeps.mk'))
    | (dsimp only)

theorem State.seedWrite_keeps (s : State) (c : CoreId) (a : Nat) (v : BitVec 32) : Keeps s (State.seedWrite s c a v) := by
  unfold State.seedWrite
  repeat' first
    | (with_reducible exact Keeps.refl _)
    | (with_reducible assumption)
    | (with_reducible apply Keeps.after (State.modCore_keeps ..))
    | (with_reducible apply Keeps.after (State.pump_keeps ..))
    | (with_reducible apply KeepsO.getD)
    | ((fail_if_no_progress extract_lets +onlyGivenNames x); first | (refine Keeps.cut x ?_ ?_; (on_goal 1 => unfold x); (on_goal 2 => (intro hx; clear_value x))) | clear_value x)
    | (fail_if_no_progress (with_reducible apply Keeps.mk'))
    | (dsimp only)

theorem State.cvtSeed_keeps (s : State) (c : CoreId) (v : BitVec 32) : Keeps s (State.cvtSeed s c v) := by
  unfold State.cvtSeed
  repeat' first
    | (with_reducible exact Keeps.refl _)
    | (with_reducible assumption)
    | (with_reducible apply Keeps.after (State.wr_keeps ..))
    | (with_reducible apply Keeps.after (State.rplSeed_keeps ..))
    | (dsimp only)

theorem State.raiseFw_keeps (s : State) (c : CoreId) : Keeps s (State.raiseFw s c) := by
  unfold State.raiseFw
  repeat' first
    | (with_reducible exact Keeps.refl _)
    | (with_reducible assumption)
    | (with_reducible apply Keeps.after (State.setFld_keeps ..))
    | (dsimp only)

theorem State.onBit_after {s Y : State} {v : Word} {b : Nat} {f : State → State} (h : ∀ t, Keeps t (f t)) (k : Keeps s Y) :
    Keeps s (Y.onBit v b f) := by
  unfold State.onBit
  apply Keeps.ite
  · exact k.trans (h _)
  · exact k

theorem State.corWrite_keeps (s : State) (c : CoreId) (a : Nat) (v : Word) : Keeps s (State.corWrite s c a v) := by
  unfold State.corWrite
  repeat' first
    | (with_reducible exact Keeps.refl _)
    | (with_reducible assumption)
    | (with_reducible apply Keeps.after (State.plainWrite_keeps ..))
    | (with_reducible apply State.onBit_after)
    | (intro _; beta_reduce)
    | (with_reducible apply Keeps.after (State.clear_keeps ..))
    | (with_reducible apply Keeps.after (State.modCore_keeps ..))
    | (with_reducible apply Keeps.after (State.seedWrite_keeps ..))
    | (with_reducible apply Keeps.after (State.histCheck_keeps ..))
    | (with_reducible apply Keeps.after (State.foldReq_keeps ..))
    | (with_reducible apply Keeps.after (State.tfAbort_keeps ..))
    | (with_reducible apply Keeps.after (State.tfResume_keeps ..))
    | (with_reducible apply Keeps.after (State.raiseFw_keeps ..))
    | (with_reducible apply Keeps.after (State.excAbort_keeps ..))
    | (with_reducible apply Keeps.after (State.excResume_keeps ..))
    | (with_reducible apply Keeps.after (State.cvtSeed_keeps ..))
    | (with_reducible apply Keeps.after (State.invalidate_keeps ..))
    | ((fail_if_no_progress extract_lets +onlyGivenNames x); first | (refine Keeps.cut x ?_ ?_; (on_goal 1 => unfold x); (on_goal 2 => (intro hx; clear_value x))) | clear_value x)
    | (with_reducible apply Keeps.ite)
    | (fail_if_no_progress (with_reducible apply Keeps.mk'))
    | split
    | (dsimp only)

end Sys2Proof.Machine
end

