-- ==== Sys2Proof/Laws/KeepsHost.lean ====
section
/-!
SUPPORT. Sys2Proof/Laws/KeepsHost.lean: what the operations of Machine/Host.lean keep of a state (`Keeps`).
-/
set_option linter.unusedTactic false
set_option linter.unreachableTactic false
namespace Sys2Proof.Machine

theorem State.cmdWrite_keeps (s : State) (phys : Bool) (a : Nat) (bs : List Byte) : Keeps s (State.cmdWrite s phys a bs).1 := by
  rw [State.cmdWrite]
  repeat' first
    | (with_reducible exact Keeps.refl _)
    | (with_reducible assumption)
    | (with_reducible apply Keeps.after (State.wrMem_keeps ..))
    | (with_reducible apply Keeps.after (State.take_keeps ..))
    | (with_reducible refine State.take_keepsOf (by assumption) ?_)
    | (with_reducible apply Keeps.foldl)
    | (with_reducible apply Keeps.foldl_fst)
    | (with_reducible refine Keeps.foldl_of (by assumption) ?_ ?_)
    | (intro _ _; beta_reduce)
    | (intro _; beta_reduce)
    | (with_reducible apply Keeps.ite_fst)
    | ((fail_if_no_progress extract_lets +onlyGivenNames x); first | (refine Keeps.cut x ?_ ?_; (on_goal 1 => unfold x); (on_goal 2 => (intro hx; clear_value x))) | clear_value x)
    | (with_reducible apply Keeps.ite)
    | (fail_if_no_progress (with_reducible apply Keeps.mk'))
    | split
    | (fail_if_no_progress simp only [Prod.mk.injEq] at *)
    | (fail_if_no_progress (with_reducible obtain ⟨rfl, -⟩ := (show (_ : State) = _ ∧ _ from by assumption)))
    | (fail_if_no_progress (with_reducible apply Keeps.fst))
    | (dsimp only)


theorem State.cmdWrite_keepsOf {s : State} {phys : Bool} {a : Nat} {bs : List Byte} {s0 st1 : State} {res1} (h0 : State.cmdWrite s phys a bs = (st1, res1)) (k0 : Keeps s0 s) : Keeps s0 st1 := by
  have q := State.cmdWrite_keeps s phys a bs
  rw [h0] at q
  exact k0.trans q

theorem State.clamp_keeps (s : State) (r : RingId) (op src ix off given used : Nat) : Keeps s (State.clamp s r op src ix off given used) := by
  unfold State.clamp
  repeat' first
    | (with_reducible exact Keeps.refl _)
    | (with_reducible assumption)
    | (with_reducible apply Keeps.after (State.wr_keeps ..))
    | (with_reducible apply Keeps.after (State.bump_keeps ..))
    | ((fail_if_no_progress extract_lets +onlyGivenNames x); first | (refine Keeps.cut x ?_ ?_; (on_goal 1 => unfold x); (on_goal 2 => (intro hx; clear_value x))) | clear_value x)
    | (dsimp only)

theorem State.clampIn_keeps (s : State) (r : RingId) (op src ix off v u : Nat) : Keeps s (State.clampIn s r op src ix off v u) := by
  unfold State.clampIn
  repeat' first
    | (with_reducible exact Keeps.refl _)
    | (with_reducible assumption)
    | (with_reducible apply Keeps.after (State.clamp_keeps ..))
    | (with_reducible apply Keeps.ite)
    | split
    | (dsimp only)

theorem State.clampTo_keeps (s : State) (r : RingId) (op off v lo hi : Nat) : Keeps s (State.clampTo s r op off v lo hi).1 := by
  rw [State.clampTo]
  repeat' first
    | (with_reducible exact Keeps.refl _)
    | (with_reducible assumption)
    | (with_reducible apply Keeps.after (State.clampIn_keeps ..))
    | (with_reducible apply Keeps.ite_fst)
    | (fail_if_no_progress (with_reducible apply Keeps.fst))
    | (dsimp only)


theorem State.clampTo_keepsOf {s : State} {r : RingId} {op off v lo hi : Nat} {s0 st1 : State} {res1} (h0 : State.clampTo s r op off v lo hi = (st1, res1)) (k0 : Keeps s0 s) : Keeps s0 st1 := by
  have q := State.clampTo_keeps s r op off v lo hi
  rw [h0] at q
  exact k0.trans q

theorem State.alignTo_keeps (s : State) (r : RingId) (op off v m : Nat) : Keeps s (State.alignTo s r op off v m).1 := by
  rw [State.alignTo]
  repeat' first
    | (with_reducible exact Keeps.refl _)
    | (with_reducible assumption)
    | (with_reducible apply Keeps.after (State.clampIn_keeps ..))
    | (with_reducible apply Keeps.ite_fst)
    | (fail_if_no_progress (with_reducible apply Keeps.fst))
    | (dsimp only)


theorem State.alignTo_keepsOf {s : State} {r : RingId} {op off v m : Nat} {s0 st1 : State} {res1} (h0 : State.alignTo s r op off v m = (st1, res1)) (k0 : Keeps s0 s) : Keeps s0 st1 := by
  have q := State.alignTo_keeps s r op off v m
  rw [h0] at q
  exact k0.trans q

theorem State.roundTo_keeps (s : State) (r : RingId) (op off v m : Nat) : Keeps s (State.roundTo s r op off v m).1 := by
  rw [State.roundTo]
  repeat' first
    | (with_reducible exact Keeps.refl _)
    | (with_reducible assumption)
    | (with_reducible apply Keeps.after (State.clampIn_keeps ..))
    | (with_reducible apply Keeps.ite_fst)
    | (fail_if_no_progress (with_reducible apply Keeps.fst))
    | (dsimp only)


theorem State.roundTo_keepsOf {s : State} {r : RingId} {op off v m : Nat} {s0 st1 : State} {res1} (h0 : State.roundTo s r op off v m = (st1, res1)) (k0 : Keeps s0 s) : Keeps s0 st1 := by
  have q := State.roundTo_keeps s r op off v m
  rw [h0] at q
  exact k0.trans q

theorem State.coalesce_keeps (s : State) (q : Nat) (irq : Bool) : Keeps s (State.coalesce s q irq) := by
  unfold State.coalesce
  repeat' first
    | (with_reducible exact Keeps.refl _)
    | (with_reducible assumption)
    | (with_reducible apply Keeps.after (State.msix_keeps ..))
    | ((fail_if_no_progress extract_lets +onlyGivenNames x); first | (refine Keeps.cut x ?_ ?_; (on_goal 1 => unfold x); (on_goal 2 => (intro hx; clear_value x))) | clear_value x)
    | (with_reducible apply Keeps.ite)
    | (fail_if_no_progress (with_reducible apply Keeps.mk'))
    | split
    | (dsimp only)

theorem State.putReply_keeps (s : State) (q : Nat) (x : Reply) : Keeps s (State.putReply s q x) := by
  unfold State.putReply
  repeat' first
    | (with_reducible exact Keeps.refl _)
    | (with_reducible assumption)
    | (with_reducible apply Keeps.after (State.wrMem_keeps ..))
    | (with_reducible apply Keeps.after (State.wr_keeps ..))
    | (with_reducible apply Keeps.after (State.coalesce_keeps ..))
    | (with_reducible apply KeepsO.getD)
    | ((fail_if_no_progress extract_lets +onlyGivenNames x); first | (refine Keeps.cut x ?_ ?_; (on_goal 1 => unfold x); (on_goal 2 => (intro hx; clear_value x))) | clear_value x)
    | (with_reducible apply Keeps.ite)
    | split
    | (dsimp only)

theorem State.flushReplies_keeps (s : State) (q : Nat) : Keeps s (State.flushReplies s q) := by
  unfold State.flushReplies
  repeat' first
    | (with_reducible exact Keeps.refl _)
    | (with_reducible assumption)
    | (with_reducible apply Keeps.after (State.putReply_keeps ..))
    | (with_reducible apply Keeps.foldl)
    | (with_reducible apply Keeps.foldl_fst)
    | (with_reducible refine Keeps.foldl_of (by assumption) ?_ ?_)
    | (intro _ _; beta_reduce)
    | (intro _; beta_reduce)
    | (with_reducible apply Keeps.ite_fst)
    | ((fail_if_no_progress extract_lets +onlyGivenNames x); first | (refine Keeps.cut x ?_ ?_; (on_goal 1 => unfold x); (on_goal 2 => (intro hx; clear_value x))) | clear_value x)
    | (with_reducible apply Keeps.ite)
    | (fail_if_no_progress (with_reducible apply Keeps.mk'))
    | split
    | (fail_if_no_progress simp only [Prod.mk.injEq] at *)
    | (fail_if_no_progress (with_reducible obtain ⟨rfl, -⟩ := (show (_ : State) = _ ∧ _ from by assumption)))
    | (fail_if_no_progress (with_reducible apply Keeps.fst))
    | (dsimp only)

theorem State.post_keeps (s : State) (r : RingId) (p : Packet) (status : BitVec 8) (words : List Nat) : Keeps s (State.post s r p status words) := by
  unfold State.post
  repeat' first
    | (with_reducible exact Keeps.refl _)
    | (with_reducible assumption)
    | (with_reducible apply Keeps.after (State.flushReplies_keeps ..))
    | ((fail_if_no_progress extract_lets +onlyGivenNames x); first | (refine Keeps.cut x ?_ ?_; (on_goal 1 => unfold x); (on_goal 2 => (intro hx; clear_value x))) | clear_value x)
    | (fail_if_no_progress (with_reducible apply Keeps.mk'))
    | (dsimp only)

theorem State.setCmds_keeps (s : State) (cs : List CmdRec) : Keeps s (State.setCmds s cs) := by
  unfold State.setCmds
  repeat' first
    | (with_reducible exact Keeps.refl _)
    | (with_reducible assumption)
    | (with_reducible apply Keeps.after (State.setFld_keeps ..))
    | (fail_if_no_progress (with_reducible apply Keeps.mk'))
    | (dsimp only)

theorem State.modCmd_keeps (s : State) (id : Nat) (f : CmdRec → CmdRec) : Keeps s (State.modCmd s id f) := by
  unfold State.modCmd
  repeat' first
    | (with_reducible exact Keeps.refl _)
    | (with_reducible assumption)
    | (with_reducible apply Keeps.ite)
    | (fail_if_no_progress (with_reducible apply Keeps.mk'))
    | split
    | (dsimp only)

theorem State.finish_keeps (s : State) (id : Nat) (status : BitVec 8) (words : List Nat) : Keeps s (State.finish s id status words) := by
  unfold State.finish
  repeat' first
    | (with_reducible exact Keeps.refl _)
    | (with_reducible assumption)
    | (with_reducible apply Keeps.after (State.setCmds_keeps ..))
    | (with_reducible apply Keeps.after (State.rplWrite_keeps ..))
    | (with_reducible apply Keeps.after (State.diverge_keeps ..))
    | (with_reducible apply Keeps.after (State.post_keeps ..))
    | (with_reducible apply KeepsO.getD)
    | ((fail_if_no_progress extract_lets +onlyGivenNames x); first | (refine Keeps.cut x ?_ ?_; (on_goal 1 => unfold x); (on_goal 2 => (intro hx; clear_value x))) | clear_value x)
    | (with_reducible apply Keeps.ite)
    | (fail_if_no_progress (with_reducible apply Keeps.mk'))
    | split
    | (dsimp only)

theorem State.defer_keeps (s : State) (id : Nat) : Keeps s (State.defer s id) := by
  unfold State.defer
  repeat' first
    | (with_reducible exact Keeps.refl _)
    | (with_reducible assumption)
    | (with_reducible apply Keeps.after (State.modCmd_keeps ..))
    | (with_reducible apply Keeps.after (State.post_keeps ..))
    | (with_reducible apply Keeps.ite)
    | (fail_if_no_progress (with_reducible apply Keeps.mk'))
    | split
    | (dsimp only)

end Sys2Proof.Machine
end

