-- ==== Sys2Proof/Laws/KeepsWrites.lean ====
section
/-!
SUPPORT. Sys2Proof/Laws/KeepsWrites.lean: what the operations of Machine/Writes.lean keep of a state (`Keeps`).
-/
set_option linter.unusedTactic false
set_option linter.unreachableTactic false
namespace Sys2Proof.Machine

theorem State.writeP_keeps (s : State) (a : Nat) (bs : List (Byte × Bool)) : Keeps s (State.writeP s a bs) := by
  unfold State.writeP
  repeat' first
    | (with_reducible exact Keeps.refl _)
    | (with_reducible assumption)
    | (with_reducible apply Keeps.after (State.wrMem_keeps ..))
    | (with_reducible apply Keeps.after (State.setPoison_keeps ..))
    | (with_reducible apply Keeps.foldl)
    | (with_reducible apply Keeps.foldl_fst)
    | (with_reducible refine Keeps.foldl_of (by assumption) ?_ ?_)
    | (intro _ _; beta_reduce)
    | (intro _; beta_reduce)
    | (with_reducible apply Keeps.ite_fst)
    | ((fail_if_no_progress extract_lets +onlyGivenNames x); first | (refine Keeps.cut x ?_ ?_; (on_goal 1 => unfold x); (on_goal 2 => (intro hx; clear_value x))) | clear_value x)
    | (with_reducible apply Keeps.ite)
    | split
    | (fail_if_no_progress simp only [Prod.mk.injEq] at *)
    | (fail_if_no_progress (with_reducible obtain ⟨rfl, -⟩ := (show (_ : State) = _ ∧ _ from by assumption)))
    | (fail_if_no_progress (with_reducible apply Keeps.fst))
    | (dsimp only)

theorem State.notify_keeps (s : State) (block : Nat) (kind : BitVec 2) (who : Nat) : Keeps s (State.notify s block kind who) := by
  unfold State.notify
  repeat' first
    | (with_reducible exact Keeps.refl _)
    | (with_reducible assumption)
    | (fail_if_no_progress (with_reducible apply Keeps.mk'))
    | (dsimp only)

theorem State.received_keeps (s : State) (a : Nat) (who : Nat) : Keeps s (State.received s a who) := by
  unfold State.received
  repeat' first
    | (with_reducible exact Keeps.refl _)
    | (with_reducible assumption)
    | (with_reducible apply Keeps.after (State.bump_keeps ..))
    | (with_reducible apply Keeps.after (State.notify_keeps ..))
    | (with_reducible apply Keeps.ite)
    | split
    | (dsimp only)

theorem State.writeLines_keeps (s : State) (a : Nat) (bs : List (Byte × Bool)) (who : Nat) : Keeps s (State.writeLines s a bs who) := by
  unfold State.writeLines
  repeat' first
    | (with_reducible exact Keeps.refl _)
    | (with_reducible assumption)
    | (with_reducible apply Keeps.after (State.writeP_keeps ..))
    | (with_reducible apply Keeps.after (State.take_keeps ..))
    | (with_reducible refine State.take_keepsOf (by assumption) ?_)
    | (with_reducible apply Keeps.after (State.received_keeps ..))
    | (with_reducible apply Keeps.foldl)
    | (with_reducible apply Keeps.foldl_fst)
    | (with_reducible refine Keeps.foldl_of (by assumption) ?_ ?_)
    | (intro _ _; beta_reduce)
    | (intro _; beta_reduce)
    | (with_reducible apply Keeps.ite_fst)
    | (with_reducible apply Keeps.ite)
    | split
    | (fail_if_no_progress simp only [Prod.mk.injEq] at *)
    | (fail_if_no_progress (with_reducible obtain ⟨rfl, -⟩ := (show (_ : State) = _ ∧ _ from by assumption)))
    | (fail_if_no_progress (with_reducible apply Keeps.fst))
    | (dsimp only)

-- `withTabs` is read, never stepped to.

theorem State.redCheck_keeps (s : State) (d : DieId) (n : Nat) : Keeps s (State.redCheck s d n) := by
  unfold State.redCheck
  repeat' first
    | (with_reducible exact Keeps.refl _)
    | (with_reducible assumption)
    | (with_reducible apply Keeps.after (State.wr_keeps ..))
    | ((fail_if_no_progress extract_lets +onlyGivenNames x); first | (refine Keeps.cut x ?_ ?_; (on_goal 1 => unfold x); (on_goal 2 => (intro hx; clear_value x))) | clear_value x)
    | (with_reducible apply Keeps.ite)
    | split
    | (dsimp only)

theorem State.mcgCheck_keeps (s : State) (d : DieId) (n : Nat) : Keeps s (State.mcgCheck s d n) := by
  unfold State.mcgCheck
  repeat' first
    | (with_reducible exact Keeps.refl _)
    | (with_reducible assumption)
    | (with_reducible apply Keeps.after (State.wr_keeps ..))
    | ((fail_if_no_progress extract_lets +onlyGivenNames x); first | (refine Keeps.cut x ?_ ?_; (on_goal 1 => unfold x); (on_goal 2 => (intro hx; clear_value x))) | clear_value x)
    | (with_reducible apply Keeps.ite)
    | split
    | (dsimp only)

theorem State.mcgClamp_keeps (s : State) (d : DieId) (n : Nat) : Keeps s (State.mcgClamp s d n) := by
  unfold State.mcgClamp
  repeat' first
    | (with_reducible exact Keeps.refl _)
    | (with_reducible assumption)
    | (with_reducible apply Keeps.after (State.wr_keeps ..))
    | ((fail_if_no_progress extract_lets +onlyGivenNames x); first | (refine Keeps.cut x ?_ ?_; (on_goal 1 => unfold x); (on_goal 2 => (intro hx; clear_value x))) | clear_value x)
    | (with_reducible apply Keeps.ite)
    | split
    | (dsimp only)

theorem State.mcgWrite_keeps (s : State) (d : DieId) (n : Nat) (set : Bool) (v : Word) : Keeps s (State.mcgWrite s d n set v) := by
  unfold State.mcgWrite
  repeat' first
    | (with_reducible exact Keeps.refl _)
    | (with_reducible assumption)
    | (with_reducible apply Keeps.after (State.plainWrite_keeps ..))
    | (with_reducible apply Keeps.after (State.mcgClamp_keeps ..))
    | (with_reducible apply Keeps.after (State.mcgCheck_keeps ..))
    | (with_reducible apply Keeps.ite)
    | split
    | (dsimp only)

theorem State.mcFlits_keeps (s : State) (src : CoreId) (set : List CoreId) (n : Nat) : Keeps s (State.mcFlits s src set n) := by
  unfold State.mcFlits
  repeat' first
    | (with_reducible exact Keeps.refl _)
    | (with_reducible assumption)
    | (with_reducible apply Keeps.after (State.flitOut_keeps ..))
    | (with_reducible apply Keeps.foldl)
    | (with_reducible apply Keeps.foldl_fst)
    | (with_reducible refine Keeps.foldl_of (by assumption) ?_ ?_)
    | (intro _ _; beta_reduce)
    | (intro _; beta_reduce)
    | (with_reducible apply Keeps.ite_fst)
    | ((fail_if_no_progress extract_lets +onlyGivenNames x); first | (refine Keeps.cut x ?_ ?_; (on_goal 1 => unfold x); (on_goal 2 => (intro hx; clear_value x))) | clear_value x)
    | (with_reducible apply Keeps.ite)
    | (fail_if_no_progress (with_reducible apply Keeps.mk'))
    | split
    | (fail_if_no_progress simp only [Prod.mk.injEq] at *)
    | (fail_if_no_progress (with_reducible obtain ⟨rfl, -⟩ := (show (_ : State) = _ ∧ _ from by assumption)))
    | (fail_if_no_progress (with_reducible apply Keeps.fst))
    | (dsimp only)

theorem State.redForward_keeps (s : State) (p : RedPkt) : Keeps s (State.redForward s p) := by
  unfold State.redForward
  repeat' first
    | (with_reducible exact Keeps.refl _)
    | (with_reducible assumption)
    | (with_reducible apply Keeps.after (State.flitOut_keeps ..))
    | (with_reducible apply Keeps.after (State.flits_keeps ..))
    | ((fail_if_no_progress extract_lets +onlyGivenNames x); first | (refine Keeps.cut x ?_ ?_; (on_goal 1 => unfold x); (on_goal 2 => (intro hx; clear_value x))) | clear_value x)
    | (with_reducible apply Keeps.ite)
    | (fail_if_no_progress (with_reducible apply Keeps.mk'))
    | split
    | (dsimp only)

theorem State.setComb_keeps (s : State) (c : CoreId) (es : List RedPkt) : Keeps s (State.setComb s c es) := by
  unfold State.setComb
  repeat' first
    | (with_reducible exact Keeps.refl _)
    | (with_reducible assumption)
    | (fail_if_no_progress (with_reducible apply Keeps.mk'))
    | (dsimp only)

theorem State.redArrive_keeps (s : State) (p : RedPkt) : Keeps s (State.redArrive s p) := by
  unfold State.redArrive
  repeat' first
    | (with_reducible exact Keeps.refl _)
    | (with_reducible assumption)
    | (with_reducible apply Keeps.after (State.redForward_keeps ..))
    | (with_reducible apply Keeps.after (State.bumpRt_keeps ..))
    | (with_reducible apply Keeps.after (State.setComb_keeps ..))
    | ((fail_if_no_progress extract_lets +onlyGivenNames x); first | (refine Keeps.cut x ?_ ?_; (on_goal 1 => unfold x); (on_goal 2 => (intro hx; clear_value x))) | clear_value x)
    | (with_reducible apply Keeps.ite)
    | (fail_if_no_progress (with_reducible apply Keeps.mk'))
    | split
    | (dsimp only)

theorem State.mcAck_keeps (s : State) (c : CoreId) (p : McPkt) (fenced nomem : Bool) : Keeps s (State.mcAck s c p fenced nomem) := by
  unfold State.mcAck
  repeat' first
    | (with_reducible exact Keeps.refl _)
    | (with_reducible assumption)
    | ((fail_if_no_progress extract_lets +onlyGivenNames x); first | (refine Keeps.cut x ?_ ?_; (on_goal 1 => unfold x); (on_goal 2 => (intro hx; clear_value x))) | clear_value x)
    | (with_reducible apply Keeps.ite)
    | (fail_if_no_progress (with_reducible apply Keeps.mk'))
    | split
    | (dsimp only)

theorem State.redOrderRec_keeps (s : State) (id : Nat) (d : DieId) (round line n : Nat) (srcs : List Nat) : Keeps s (State.redOrderRec s id d round line n srcs) := by
  unfold State.redOrderRec
  repeat' first
    | (with_reducible exact Keeps.refl _)
    | (with_reducible assumption)
    | (with_reducible apply Keeps.after (State.rplWrite_keeps ..))
    | (dsimp only)

theorem State.redOrders_go_keeps (id : Nat) (d : DieId) (R : RedRound) (k : Nat) (s : State) (l : Tab (List Nat)) :
    Keeps s (State.redOrders.go id d R k s l) := by
  induction k generalizing s l with
  | zero => exact Keeps.refl _
  | succ k ih =>
    cases l with
    | nil => exact Keeps.refl _
    | cons e t => exact (State.redOrderRec_keeps ..).trans (ih ..)

theorem State.redOrders_keeps (s : State) (id : Nat) (d : DieId) (R : RedRound) : Keeps s (s.redOrders id d R) :=
  State.redOrders_go_keeps ..

theorem State.setRound_keeps (s : State) (d : DieId) (id : Nat) (R : RedRound) : Keeps s (State.setRound s d id R) := by
  unfold State.setRound
  repeat' first
    | (with_reducible exact Keeps.refl _)
    | (with_reducible assumption)
    | (fail_if_no_progress (with_reducible apply Keeps.mk'))
    | (dsimp only)

theorem State.redApply_keeps (s : State) (p : RedPkt) : Keeps s (State.redApply s p) := by
  unfold State.redApply
  repeat' first
    | (with_reducible exact Keeps.refl _)
    | (with_reducible assumption)
    | (with_reducible apply Keeps.after (State.writeP_keeps ..))
    | (with_reducible apply Keeps.after (State.setRound_keeps ..))
    | (with_reducible apply Keeps.after (State.redOrders_keeps ..))
    | (with_reducible apply Keeps.after (State.bump_keeps ..))
    | (with_reducible apply Keeps.after (State.sendAdv_keeps ..))
    | (with_reducible apply Keeps.after (State.ctrl_keeps ..))
    | (with_reducible apply Keeps.foldl)
    | (with_reducible apply Keeps.foldl_fst)
    | (with_reducible refine Keeps.foldl_of (by assumption) ?_ ?_)
    | (intro _ _; beta_reduce)
    | (intro _; beta_reduce)
    | (with_reducible apply KeepsO.getD)
    | (with_reducible apply Keeps.ite_fst)
    | ((fail_if_no_progress extract_lets +onlyGivenNames x); first | (refine Keeps.cut x ?_ ?_; (on_goal 1 => unfold x); (on_goal 2 => (intro hx; clear_value x))) | clear_value x)
    | (with_reducible apply Keeps.ite)
    | (fail_if_no_progress (with_reducible apply Keeps.mk'))
    | split
    | (fail_if_no_progress simp only [Prod.mk.injEq] at *)
    | (fail_if_no_progress (with_reducible obtain ⟨rfl, -⟩ := (show (_ : State) = _ ∧ _ from by assumption)))
    | (fail_if_no_progress (with_reducible apply Keeps.fst))
    | (dsimp only)

theorem State.redDrain_keeps (s : State) (d : DieId) (id : Nat) (fuel : Nat) : Keeps s (State.redDrain s d id fuel) := by
  induction fuel generalizing s d id with
  | zero => exact Keeps.refl _
  | succ fuel ih =>
  unfold State.redDrain
  repeat' first
    | (with_reducible exact Keeps.refl _)
    | (with_reducible assumption)
    | (with_reducible apply Keeps.after (ih ..))
    | (with_reducible apply Keeps.after (State.setRound_keeps ..))
    | (with_reducible apply Keeps.after (State.takeTurn_keeps ..))
    | (with_reducible apply Keeps.after (State.redApply_keeps ..))
    | ((fail_if_no_progress extract_lets +onlyGivenNames x); first | (refine Keeps.cut x ?_ ?_; (on_goal 1 => unfold x); (on_goal 2 => (intro hx; clear_value x))) | clear_value x)
    | (with_reducible apply Keeps.ite)
    | (fail_if_no_progress (with_reducible apply Keeps.mk'))
    | split
    | (dsimp only)

theorem State.redEnd_keeps (s : State) (p : RedPkt) : Keeps s (State.redEnd s p) := by
  unfold State.redEnd
  repeat' first
    | (with_reducible exact Keeps.refl _)
    | (with_reducible assumption)
    | (with_reducible apply Keeps.after (State.bump_keeps ..))
    | (with_reducible apply Keeps.after (State.setRound_keeps ..))
    | (with_reducible apply Keeps.after (State.diverge_keeps ..))
    | (with_reducible apply Keeps.after (State.freeOrder_keeps ..))
    | (with_reducible apply Keeps.after (State.takeTurn_keeps ..))
    | (with_reducible apply Keeps.after (State.redApply_keeps ..))
    | (with_reducible apply Keeps.after (State.redDrain_keeps ..))
    | ((fail_if_no_progress extract_lets +onlyGivenNames x); first | (refine Keeps.cut x ?_ ?_; (on_goal 1 => unfold x); (on_goal 2 => (intro hx; clear_value x))) | clear_value x)
    | (with_reducible apply Keeps.ite)
    | (fail_if_no_progress (with_reducible apply Keeps.mk'))
    | split
    | (dsimp only)

end Sys2Proof.Machine
end

