-- ==== Sys2Proof/Laws/KeepsDma.lean ====
section
/-!
SUPPORT. Sys2Proof/Laws/KeepsDma.lean: what the operations of Machine/Dma.lean keep of a state (`Keeps`).
-/
set_option linter.unusedTactic false
set_option linter.unreachableTactic false
namespace Sys2Proof.Machine

theorem State.showTags_keeps (s : State) (d : DieId) : Keeps s (State.showTags s d) := by
  unfold State.showTags
  repeat' first
    | (with_reducible exact Keeps.refl _)
    | (with_reducible assumption)
    | (with_reducible apply Keeps.after (State.setFld_keeps ..))
    | ((fail_if_no_progress extract_lets +onlyGivenNames x); first | (refine Keeps.cut x ?_ ?_; (on_goal 1 => unfold x); (on_goal 2 => (intro hx; clear_value x))) | clear_value x)
    | (dsimp only)

theorem State.modDma_keeps (s : State) (d : DieId) (tag : Nat) (f : DmaSt → DmaSt) : Keeps s (State.modDma s d tag f) := by
  unfold State.modDma
  repeat' first
    | (with_reducible exact Keeps.refl _)
    | (with_reducible assumption)
    | (with_reducible apply Keeps.after (State.modDie_keeps ..))
    | (with_reducible apply Keeps.ite)
    | (fail_if_no_progress (with_reducible apply Keeps.mk'))
    | split
    | (dsimp only)

theorem State.dmaXl_keeps (s : State) (d : DieId) (m : DmaSt) (va : Nat) (need : Need) : Keeps s (State.dmaXl s d m va need).1 := by
  rw [State.dmaXl]
  repeat' first
    | (with_reducible exact Keeps.refl _)
    | (with_reducible assumption)
    | (with_reducible apply Keeps.after (State.xlate_keeps ..))
    | (with_reducible refine State.xlate_keepsOf (by assumption) ?_)
    | (with_reducible apply Keeps.ite_fst)
    | (with_reducible apply Keeps.ite)
    | split
    | (fail_if_no_progress (with_reducible apply Keeps.fst))
    | (dsimp only)


theorem State.dmaXl_keepsOf {s : State} {d : DieId} {m : DmaSt} {va : Nat} {need : Need} {s0 st1 : State} {res1} (h0 : State.dmaXl s d m va need = (st1, res1)) (k0 : Keeps s0 s) : Keeps s0 st1 := by
  have q := State.dmaXl_keeps s d m va need
  rw [h0] at q
  exact k0.trans q

theorem State.lineGo_keeps (s : State) (d : DieId) (l : LineReq) : Keeps s (State.lineGo s d l) := by
  unfold State.lineGo
  repeat' first
    | (with_reducible exact Keeps.refl _)
    | (with_reducible assumption)
    | (with_reducible apply Keeps.after (State.modLine_keeps ..))
    | (with_reducible apply Keeps.after (State.send_keeps ..))
    | ((fail_if_no_progress extract_lets +onlyGivenNames x); first | (refine Keeps.cut x ?_ ?_; (on_goal 1 => unfold x); (on_goal 2 => (intro hx; clear_value x))) | clear_value x)
    | (with_reducible apply Keeps.ite)
    | (fail_if_no_progress (with_reducible apply Keeps.mk'))
    | split
    | (dsimp only)

theorem State.pumpLines_keeps (s : State) (d : DieId) : Keeps s (State.pumpLines s d) := by
  unfold State.pumpLines
  repeat' first
    | (with_reducible exact Keeps.refl _)
    | (with_reducible assumption)
    | (with_reducible apply Keeps.after (State.lineGo_keeps ..))
    | (with_reducible apply Keeps.foldl)
    | (with_reducible apply Keeps.foldl_fst)
    | (with_reducible refine Keeps.foldl_of (by assumption) ?_ ?_)
    | (intro _ _; beta_reduce)
    | (intro _; beta_reduce)
    | (with_reducible apply Keeps.ite_fst)
    | (with_reducible apply Keeps.ite)
    | split
    | (fail_if_no_progress simp only [Prod.mk.injEq] at *)
    | (fail_if_no_progress (with_reducible obtain ⟨rfl, -⟩ := (show (_ : State) = _ ∧ _ from by assumption)))
    | (fail_if_no_progress (with_reducible apply Keeps.fst))
    | (dsimp only)

theorem State.addLine_keeps (s : State) (d : DieId) (l : LineReq) : Keeps s (State.addLine s d l) := by
  unfold State.addLine
  repeat' first
    | (with_reducible exact Keeps.refl _)
    | (with_reducible assumption)
    | (with_reducible apply Keeps.after (State.modDie_keeps ..))
    | (with_reducible apply Keeps.after (State.bump_keeps ..))
    | (with_reducible apply Keeps.after (State.lineGo_keeps ..))
    | ((fail_if_no_progress extract_lets +onlyGivenNames x); first | (refine Keeps.cut x ?_ ?_; (on_goal 1 => unfold x); (on_goal 2 => (intro hx; clear_value x))) | clear_value x)
    | (with_reducible apply Keeps.ite)
    | (fail_if_no_progress (with_reducible apply Keeps.mk'))
    | split
    | (dsimp only)

theorem State.addLines_keeps (s : State) (d : DieId) (blk : Nat) (stream : Bool) (cls : BitVec 2) (off pa n : Nat) : Keeps s (State.addLines s d blk stream cls off pa n) := by
  unfold State.addLines
  repeat' first
    | (with_reducible exact Keeps.refl _)
    | (with_reducible assumption)
    | (with_reducible apply Keeps.after (State.addLine_keeps ..))
    | (with_reducible apply Keeps.foldl)
    | (with_reducible apply Keeps.foldl_fst)
    | (with_reducible refine Keeps.foldl_of (by assumption) ?_ ?_)
    | (intro _ _; beta_reduce)
    | (intro _; beta_reduce)
    | (with_reducible apply Keeps.ite_fst)
    | (with_reducible apply Keeps.ite)
    | split
    | (fail_if_no_progress simp only [Prod.mk.injEq] at *)
    | (fail_if_no_progress (with_reducible obtain ⟨rfl, -⟩ := (show (_ : State) = _ ∧ _ from by assumption)))
    | (fail_if_no_progress (with_reducible apply Keeps.fst))
    | (dsimp only)

theorem State.fetchLines_keeps (s : State) (d : DieId) (blk : Nat) : Keeps s (State.fetchLines s d blk) := by
  unfold State.fetchLines
  repeat' first
    | (with_reducible exact Keeps.refl _)
    | (with_reducible assumption)
    | (with_reducible apply Keeps.after (State.send_keeps ..))
    | (with_reducible apply Keeps.after (State.modLine_keeps ..))
    | (with_reducible apply Keeps.foldl)
    | (with_reducible apply Keeps.foldl_fst)
    | (with_reducible refine Keeps.foldl_of (by assumption) ?_ ?_)
    | (intro _ _; beta_reduce)
    | (intro _; beta_reduce)
    | (with_reducible apply Keeps.ite_fst)
    | ((fail_if_no_progress extract_lets +onlyGivenNames x); first | (refine Keeps.cut x ?_ ?_; (on_goal 1 => unfold x); (on_goal 2 => (intro hx; clear_value x))) | clear_value x)
    | (with_reducible apply Keeps.ite)
    | (fail_if_no_progress (with_reducible apply Keeps.mk'))
    | split
    | (fail_if_no_progress simp only [Prod.mk.injEq] at *)
    | (fail_if_no_progress (with_reducible obtain ⟨rfl, -⟩ := (show (_ : State) = _ ∧ _ from by assumption)))
    | (fail_if_no_progress (with_reducible apply Keeps.fst))
    | (dsimp only)

theorem State.dropLines_keeps (s : State) (d : DieId) (blks : List Nat) : Keeps s (State.dropLines s d blks) := by
  unfold State.dropLines
  repeat' first
    | (with_reducible exact Keeps.refl _)
    | (with_reducible assumption)
    | (with_reducible apply Keeps.after (State.modDie_keeps ..))
    | (with_reducible apply Keeps.after (State.pumpLines_keeps ..))
    | (fail_if_no_progress (with_reducible apply Keeps.mk'))
    | (dsimp only)

theorem State.dmaPieces_keeps (s : State) (d : DieId) (m : DmaSt) (b : DmaBlk) : Keeps s (State.dmaPieces s d m b).1 := by
  rw [State.dmaPieces]
  repeat' first
    | (with_reducible exact Keeps.refl _)
    | (with_reducible assumption)
    | (with_reducible apply Keeps.after (State.dmaXl_keeps ..))
    | (with_reducible refine State.dmaXl_keepsOf (by assumption) ?_)
    | (with_reducible apply Keeps.ite_fst)
    | ((fail_if_no_progress extract_lets +onlyGivenNames x); first | (refine Keeps.cut x ?_ ?_; (on_goal 1 => unfold x); (on_goal 2 => (intro hx; clear_value x))) | clear_value x)
    | (with_reducible apply Keeps.ite)
    | (fail_if_no_progress (with_reducible apply Keeps.mk'))
    | split
    | (fail_if_no_progress (with_reducible apply Keeps.fst))
    | (dsimp only)


theorem State.dmaPieces_keepsOf {s : State} {d : DieId} {m : DmaSt} {b : DmaBlk} {s0 st1 : State} {res1} (h0 : State.dmaPieces s d m b = (st1, res1)) (k0 : Keeps s0 s) : Keeps s0 st1 := by
  have q := State.dmaPieces_keeps s d m b
  rw [h0] at q
  exact k0.trans q

theorem State.modDmaBlk_keeps (s : State) (d : DieId) (tag id : Nat) (f : DmaBlk → DmaBlk) : Keeps s (State.modDmaBlk s d tag id f) := by
  unfold State.modDmaBlk
  repeat' first
    | (with_reducible exact Keeps.refl _)
    | (with_reducible assumption)
    | (with_reducible apply Keeps.after (State.modDma_keeps ..))
    | (with_reducible apply Keeps.ite)
    | (fail_if_no_progress (with_reducible apply Keeps.mk'))
    | split
    | (dsimp only)

theorem State.askPieces_keeps (s : State) (d : DieId) (m : DmaSt) (b : DmaBlk) (ps : List (Nat × Nat × Nat)) : Keeps s (State.askPieces s d m b ps) := by
  unfold State.askPieces
  repeat' first
    | (with_reducible exact Keeps.refl _)
    | (with_reducible assumption)
    | (with_reducible apply Keeps.after (State.modDmaBlk_keeps ..))
    | (with_reducible apply Keeps.after (State.addLines_keeps ..))
    | (with_reducible apply Keeps.foldl)
    | (with_reducible apply Keeps.foldl_fst)
    | (with_reducible refine Keeps.foldl_of (by assumption) ?_ ?_)
    | (intro _ _; beta_reduce)
    | (intro _; beta_reduce)
    | (with_reducible apply Keeps.ite_fst)
    | ((fail_if_no_progress extract_lets +onlyGivenNames x); first | (refine Keeps.cut x ?_ ?_; (on_goal 1 => unfold x); (on_goal 2 => (intro hx; clear_value x))) | clear_value x)
    | (with_reducible apply Keeps.ite)
    | (fail_if_no_progress (with_reducible apply Keeps.mk'))
    | split
    | (fail_if_no_progress simp only [Prod.mk.injEq] at *)
    | (fail_if_no_progress (with_reducible obtain ⟨rfl, -⟩ := (show (_ : State) = _ ∧ _ from by assumption)))
    | (fail_if_no_progress (with_reducible apply Keeps.fst))
    | (dsimp only)

theorem State.askBlk_keeps (s : State) (d : DieId) (m : DmaSt) (b : DmaBlk) : Keeps s (State.askBlk s d m b) := by
  unfold State.askBlk
  repeat' first
    | (with_reducible exact Keeps.refl _)
    | (with_reducible assumption)
    | (with_reducible apply Keeps.after (State.dmaPieces_keeps ..))
    | (with_reducible refine State.dmaPieces_keepsOf (by assumption) ?_)
    | (with_reducible apply Keeps.after (State.askPieces_keeps ..))
    | (with_reducible apply Keeps.ite)
    | (fail_if_no_progress (with_reducible apply Keeps.mk'))
    | split
    | (dsimp only)

theorem State.startBlocks_keeps (s : State) (d : DieId) (tag : Nat) (fuel : Nat) : Keeps s (State.startBlocks s d tag fuel) := by
  induction fuel generalizing s d tag with
  | zero => exact Keeps.refl _
  | succ fuel ih =>
  unfold State.startBlocks
  repeat' first
    | (with_reducible exact Keeps.refl _)
    | (with_reducible assumption)
    | (with_reducible apply Keeps.after (ih ..))
    | (with_reducible apply Keeps.after (State.modDma_keeps ..))
    | (with_reducible apply Keeps.after (State.modDie_keeps ..))
    | (with_reducible apply Keeps.after (State.askBlk_keeps ..))
    | ((fail_if_no_progress extract_lets +onlyGivenNames x); first | (refine Keeps.cut x ?_ ?_; (on_goal 1 => unfold x); (on_goal 2 => (intro hx; clear_value x))) | clear_value x)
    | (with_reducible apply Keeps.ite)
    | (fail_if_no_progress (with_reducible apply Keeps.mk'))
    | split
    | (fail_if_no_progress simp only [Prod.mk.injEq] at *)
    | (fail_if_no_progress (with_reducible obtain ⟨rfl, -⟩ := (show (_ : State) = _ ∧ _ from by assumption)))
    | (dsimp only)

theorem State.pumpDmas_keeps (s : State) (d : DieId) : Keeps s (State.pumpDmas s d) := by
  unfold State.pumpDmas
  repeat' first
    | (with_reducible exact Keeps.refl _)
    | (with_reducible assumption)
    | (with_reducible apply Keeps.after (State.startBlocks_keeps ..))
    | (with_reducible apply Keeps.after (State.modDma_keeps ..))
    | (with_reducible apply Keeps.after (State.showTags_keeps ..))
    | (with_reducible apply Keeps.foldl)
    | (with_reducible apply Keeps.foldl_fst)
    | (with_reducible refine Keeps.foldl_of (by assumption) ?_ ?_)
    | (intro _ _; beta_reduce)
    | (intro _; beta_reduce)
    | (with_reducible apply Keeps.ite_fst)
    | ((fail_if_no_progress extract_lets +onlyGivenNames x); first | (refine Keeps.cut x ?_ ?_; (on_goal 1 => unfold x); (on_goal 2 => (intro hx; clear_value x))) | clear_value x)
    | (with_reducible apply Keeps.ite)
    | (fail_if_no_progress (with_reducible apply Keeps.mk'))
    | split
    | (fail_if_no_progress simp only [Prod.mk.injEq] at *)
    | (fail_if_no_progress (with_reducible obtain ⟨rfl, -⟩ := (show (_ : State) = _ ∧ _ from by assumption)))
    | (fail_if_no_progress (with_reducible apply Keeps.fst))
    | (dsimp only)

theorem State.dmaError_keeps (s : State) (d : DieId) (tag : Nat) (err : BitVec 8) : Keeps s (State.dmaError s d tag err) := by
  unfold State.dmaError
  repeat' first
    | (with_reducible exact Keeps.refl _)
    | (with_reducible assumption)
    | (with_reducible apply Keeps.after (State.notify_keeps ..))
    | (with_reducible apply Keeps.after (State.modDma_keeps ..))
    | (with_reducible apply Keeps.after (State.dropLines_keeps ..))
    | (with_reducible apply Keeps.after (State.stopProgram_keeps ..))
    | (with_reducible apply Keeps.after (State.finish_keeps ..))
    | (with_reducible apply Keeps.after (State.pumpDmas_keeps ..))
    | (with_reducible apply Keeps.foldl)
    | (with_reducible apply Keeps.foldl_fst)
    | (with_reducible refine Keeps.foldl_of (by assumption) ?_ ?_)
    | (intro _ _; beta_reduce)
    | (intro _; beta_reduce)
    | (with_reducible apply Keeps.ite_fst)
    | ((fail_if_no_progress extract_lets +onlyGivenNames x); first | (refine Keeps.cut x ?_ ?_; (on_goal 1 => unfold x); (on_goal 2 => (intro hx; clear_value x))) | clear_value x)
    | (with_reducible apply Keeps.ite)
    | (fail_if_no_progress (with_reducible apply Keeps.mk'))
    | split
    | (fail_if_no_progress simp only [Prod.mk.injEq] at *)
    | (fail_if_no_progress (with_reducible obtain ⟨rfl, -⟩ := (show (_ : State) = _ ∧ _ from by assumption)))
    | (fail_if_no_progress (with_reducible apply Keeps.fst))
    | (dsimp only)

theorem State.dmaXlFail_keeps (s : State) (d : DieId) (tag va : Nat) (x : Xl) : Keeps s (State.dmaXlFail s d tag va x) := by
  unfold State.dmaXlFail
  repeat' first
    | (with_reducible exact Keeps.refl _)
    | (with_reducible assumption)
    | (with_reducible apply Keeps.after (State.modDma_keeps ..))
    | (with_reducible apply Keeps.after (State.modDie_keeps ..))
    | (with_reducible apply Keeps.after (State.emit_keeps ..))
    | (with_reducible apply Keeps.after (State.poisonUse_keeps ..))
    | (with_reducible apply Keeps.after (State.dmaError_keeps ..))
    | (with_reducible apply Keeps.ite)
    | (fail_if_no_progress (with_reducible apply Keeps.mk'))
    | split
    | (dsimp only)

theorem State.dmaPart_keepsOf {s : State} {d : DieId} {m : DmaSt} {tab : Tab Word} {a : Nat} {bs : List (Byte × Bool)} {s0 st1 : State}
    (h0 : s.dmaPart d m tab a bs = .gone st1) (k : Keeps s0 s) : Keeps s0 st1 := by
  refine k.trans ?_
  unfold State.dmaPart at h0
  extract_lets old e n at h0
  split at h0
  · split at h0
    · cases h0
    · cases h0
      exact Keeps.mk' ((State.spend_keeps ..).trans ((State.mcFlits_keeps ..).trans (State.modDma_keeps ..))) ..
  · split at h0
    · split at h0
      · cases h0
      · split at h0
        · cases h0
        · cases h0
          exact Keeps.mk' ((State.spend_keeps ..).trans (State.modDma_keeps ..)) ..
    · split at h0
      · cases h0
      · cases h0
        exact (State.send_keeps ..).trans ((State.writeP_keeps ..).trans ((State.received_keeps ..).trans (State.ctrl_keeps ..)))

theorem State.dmaParts_keeps (s : State) (d : DieId) (m : DmaSt) (tab : Tab Word) (a : Nat) (bs : List (Byte × Bool)) (moved : Nat) (l : List (Nat × Nat)) : Keeps s (State.dmaParts s d m tab a bs moved l).1 := by
  induction l generalizing s d m tab a bs moved with
  | nil => exact Keeps.refl _
  | cons hd l ih =>
  unfold State.dmaParts
  repeat' first
    | (with_reducible exact Keeps.refl _)
    | (with_reducible assumption)
    | (with_reducible apply Keeps.after (ih ..))
    | (with_reducible refine State.dmaPart_keepsOf (by assumption) ?_)
    | (with_reducible apply Keeps.after (State.take_keeps ..))
    | (with_reducible refine State.take_keepsOf (by assumption) ?_)
    | (with_reducible apply Keeps.ite_fst)
    | (with_reducible apply Keeps.ite)
    | (fail_if_no_progress (with_reducible apply Keeps.mk'))
    | split
    | (fail_if_no_progress (with_reducible apply Keeps.fst))
    | (dsimp only)


theorem State.dmaParts_keepsOf {s : State} {d : DieId} {m : DmaSt} {tab : Tab Word} {a : Nat} {bs : List (Byte × Bool)} {moved : Nat} {l} {s0 st1 : State} {res1} (h0 : State.dmaParts s d m tab a bs moved l = (st1, res1)) (k0 : Keeps s0 s) : Keeps s0 st1 := by
  have q := State.dmaParts_keeps s d m tab a bs moved l
  rw [h0] at q
  exact k0.trans q

theorem State.dmaWrite_keeps (s : State) (d : DieId) (m : DmaSt) (b : DmaBlk) (bs : List (Byte × Bool)) : Keeps s (State.dmaWrite s d m b bs) := by
  unfold State.dmaWrite
  repeat' first
    | (with_reducible exact Keeps.refl _)
    | (with_reducible assumption)
    | (with_reducible apply Keeps.after (State.dmaXl_keeps ..))
    | (with_reducible refine State.dmaXl_keepsOf (by assumption) ?_)
    | (with_reducible apply Keeps.after (State.dmaXlFail_keeps ..))
    | (with_reducible apply Keeps.after (State.withTabs_keeps ..))
    | (with_reducible apply Keeps.after (State.dmaError_keeps ..))
    | (with_reducible apply Keeps.after (State.poisonUse_keeps ..))
    | (with_reducible apply Keeps.after (State.modDma_keeps ..))
    | (with_reducible apply Keeps.after (State.notify_keeps ..))
    | (with_reducible apply Keeps.after (State.modDmaBlk_keeps ..))
    | (with_reducible apply Keeps.after (State.dmaParts_keeps ..))
    | (with_reducible refine State.dmaParts_keepsOf (by assumption) ?_)
    | (with_reducible apply Keeps.after (State.dropLines_keeps ..))
    | (with_reducible apply Keeps.after (State.pumpDmas_keeps ..))
    | ((fail_if_no_progress extract_lets +onlyGivenNames x); first | (refine Keeps.cut x ?_ ?_; (on_goal 1 => unfold x); (on_goal 2 => (intro hx; clear_value x))) | clear_value x)
    | (with_reducible apply Keeps.ite)
    | (fail_if_no_progress (with_reducible apply Keeps.mk'))
    | split
    | (dsimp only)

theorem State.dmaBlock_keeps (s : State) (d : DieId) (m : DmaSt) (b : DmaBlk) : Keeps s (s.dmaBlock d m b) := by
  unfold State.dmaBlock
  have key : Keeps s (if b.asked then (s, .ok []) else s.dmaPieces d m b).1 := Keeps.ite_fst (.refl _) (State.dmaPieces_keeps ..)
  generalize (if b.asked then (s, .ok []) else s.dmaPieces d m b) = q at key ⊢
  obtain ⟨s1, r⟩ := q
  dsimp only at key ⊢
  repeat' first
    | (with_reducible exact Keeps.refl _)
    | (with_reducible assumption)
    | (with_reducible apply Keeps.after (State.dmaPieces_keeps ..))
    | (with_reducible refine State.dmaPieces_keepsOf (by assumption) ?_)
    | (with_reducible apply Keeps.after (State.dmaXlFail_keeps ..))
    | (with_reducible apply Keeps.after (State.dmaError_keeps ..))
    | (with_reducible apply Keeps.after (State.askPieces_keeps ..))
    | (with_reducible apply Keeps.after (State.dmaWrite_keeps ..))
    | (with_reducible apply Keeps.after (State.pumpLines_keeps ..))
    | (with_reducible apply Keeps.after (State.fetchLines_keeps ..))
    | ((fail_if_no_progress extract_lets +onlyGivenNames x); first | (refine Keeps.cut x ?_ ?_; (on_goal 1 => unfold x); (on_goal 2 => (intro hx; clear_value x))) | clear_value x)
    | (with_reducible apply Keeps.ite)
    | (fail_if_no_progress (with_reducible apply Keeps.mk'))
    | split
    | (fail_if_no_progress simp only [Prod.mk.injEq] at *)
    | (fail_if_no_progress (with_reducible obtain ⟨rfl, -⟩ := (show (_ : State) = _ ∧ _ from by assumption)))
    | (dsimp only)

theorem State.acceptDma_keeps (s : State) (d : DieId) (tag : Nat) (m : DmaSt) : Keeps s (State.acceptDma s d tag m) := by
  unfold State.acceptDma
  repeat' first
    | (with_reducible exact Keeps.refl _)
    | (with_reducible assumption)
    | (with_reducible apply Keeps.after (State.modDie_keeps ..))
    | (with_reducible apply Keeps.after (State.pumpDmas_keeps ..))
    | (with_reducible apply Keeps.after (State.dmaError_keeps ..))
    | ((fail_if_no_progress extract_lets +onlyGivenNames x); first | (refine Keeps.cut x ?_ ?_; (on_goal 1 => unfold x); (on_goal 2 => (intro hx; clear_value x))) | clear_value x)
    | (with_reducible apply Keeps.ite)
    | (fail_if_no_progress (with_reducible apply Keeps.mk'))
    | split
    | (dsimp only)

theorem State.input_keeps (s : State) (kind die tag : Nat) (src : Nat) (bs : List Byte) : Keeps s (State.input s kind die tag src bs) := by
  unfold State.input
  repeat' first
    | (with_reducible exact Keeps.refl _)
    | (with_reducible assumption)
    | (with_reducible apply Keeps.after (State.rplWrite_keeps ..))
    | (with_reducible apply Keeps.after (State.take_keeps ..))
    | (with_reducible refine State.take_keepsOf (by assumption) ?_)
    | (with_reducible apply Keeps.after (State.diverge_keeps ..))
    | (with_reducible apply Keeps.foldl)
    | (with_reducible apply Keeps.foldl_fst)
    | (with_reducible refine Keeps.foldl_of (by assumption) ?_ ?_)
    | (intro _ _; beta_reduce)
    | (intro _; beta_reduce)
    | (with_reducible apply Keeps.ite_fst)
    | ((fail_if_no_progress extract_lets +onlyGivenNames x); first | (refine Keeps.cut x ?_ ?_; (on_goal 1 => unfold x); (on_goal 2 => (intro hx; clear_value x))) | clear_value x)
    | (with_reducible apply Keeps.ite)
    | split
    | (fail_if_no_progress simp only [Prod.mk.injEq] at *)
    | (fail_if_no_progress (with_reducible obtain ⟨rfl, -⟩ := (show (_ : State) = _ ∧ _ from by assumption)))
    | (fail_if_no_progress (with_reducible apply Keeps.fst))
    | (dsimp only)

theorem State.dmaReplay_keeps (s : State) (d : DieId) (m : DmaSt) (bs : List Byte) : Keeps s (State.dmaReplay s d m bs) := by
  unfold State.dmaReplay
  repeat' first
    | (with_reducible exact Keeps.refl _)
    | (with_reducible assumption)
    | (with_reducible apply Keeps.after (State.wrMem_keeps ..))
    | (with_reducible apply Keeps.after (State.take_keeps ..))
    | (with_reducible refine State.take_keepsOf (by assumption) ?_)
    | (with_reducible apply Keeps.foldl)
    | (with_reducible apply Keeps.foldl_fst)
    | (with_reducible refine Keeps.foldl_of (by assumption) ?_ ?_)
    | (intro _ _; beta_reduce)
    | (intro _; beta_reduce)
    | (with_reducible apply Keeps.ite_fst)
    | ((fail_if_no_progress extract_lets +onlyGivenNames x); first | (refine Keeps.cut x ?_ ?_; (on_goal 1 => unfold x); (on_goal 2 => (intro hx; clear_value x))) | clear_value x)
    | (with_reducible apply Keeps.ite)
    | (fail_if_no_progress (with_reducible apply Keeps.mk'))
    | split
    | (fail_if_no_progress simp only [Prod.mk.injEq] at *)
    | (fail_if_no_progress (with_reducible obtain ⟨rfl, -⟩ := (show (_ : State) = _ ∧ _ from by assumption)))
    | (fail_if_no_progress (with_reducible apply Keeps.fst))
    | (dsimp only)

theorem State.dmaDone_keeps (s : State) (d : DieId) (m : DmaSt) : Keeps s (State.dmaDone s d m) := by
  unfold State.dmaDone
  repeat' first
    | (with_reducible exact Keeps.refl _)
    | (with_reducible assumption)
    | (with_reducible apply Keeps.after (State.modDma_keeps ..))
    | (with_reducible apply Keeps.after (State.finish_keeps ..))
    | (with_reducible apply Keeps.after (State.pumpDmas_keeps ..))
    | ((fail_if_no_progress extract_lets +onlyGivenNames x); first | (refine Keeps.cut x ?_ ?_; (on_goal 1 => unfold x); (on_goal 2 => (intro hx; clear_value x))) | clear_value x)
    | (with_reducible apply Keeps.ite)
    | (fail_if_no_progress (with_reducible apply Keeps.mk'))
    | split
    | (dsimp only)

theorem State.dmaVisible_keeps (s : State) (d : DieId) (m : DmaSt) : Keeps s (State.dmaVisible s d m) := by
  unfold State.dmaVisible
  repeat' first
    | (with_reducible exact Keeps.refl _)
    | (with_reducible assumption)
    | (with_reducible apply Keeps.after (State.dmaError_keeps ..))
    | (with_reducible apply Keeps.after (State.input_keeps ..))
    | (with_reducible apply Keeps.after (State.dmaReplay_keeps ..))
    | (with_reducible apply Keeps.after (State.modDma_keeps ..))
    | (with_reducible apply Keeps.after (State.sendAdv_keeps ..))
    | (with_reducible apply Keeps.after (State.dmaDone_keeps ..))
    | ((fail_if_no_progress extract_lets +onlyGivenNames x); first | (refine Keeps.cut x ?_ ?_; (on_goal 1 => unfold x); (on_goal 2 => (intro hx; clear_value x))) | clear_value x)
    | (with_reducible apply Keeps.ite)
    | (fail_if_no_progress (with_reducible apply Keeps.mk'))
    | split
    | (fail_if_no_progress simp only [Prod.mk.injEq] at *)
    | (fail_if_no_progress (with_reducible obtain ⟨rfl, -⟩ := (show (_ : State) = _ ∧ _ from by assumption)))
    | (dsimp only)

end Sys2Proof.Machine
end

