-- ==== Sys2Proof/Laws/KeepsStream.lean ====
section
/-!
SUPPORT. Sys2Proof/Laws/KeepsStream.lean: what the operations of Machine/Stream.lean keep of a state (`Keeps`).
-/
set_option linter.unusedTactic false
set_option linter.unreachableTactic false
namespace Sys2Proof.Machine

theorem State.setRing_keeps (s : State) (d : DieId) (n : Nat) (r : RingSt) : Keeps s (State.setRing s d n r) := by
  unfold State.setRing
  repeat' first
    | (with_reducible exact Keeps.refl _)
    | (with_reducible assumption)
    | (with_reducible apply Keeps.after (State.modDie_keeps ..))
    | (fail_if_no_progress (with_reducible apply Keeps.mk'))
    | (dsimp only)

theorem State.ringFix_keeps (s : State) (d : DieId) (n : Nat) : Keeps s (State.ringFix s d n) := by
  unfold State.ringFix
  repeat' first
    | (with_reducible exact Keeps.refl _)
    | (with_reducible assumption)
    | (with_reducible apply Keeps.after (State.wr_keeps ..))
    | ((fail_if_no_progress extract_lets +onlyGivenNames x); first | (refine Keeps.cut x ?_ ?_; (on_goal 1 => unfold x); (on_goal 2 => (intro hx; clear_value x))) | clear_value x)
    | (with_reducible apply Keeps.ite)
    | split
    | (dsimp only)

theorem State.ringStopped_keeps (s : State) (d : DieId) (n : Nat) : Keeps s (State.ringStopped s d n) := by
  unfold State.ringStopped
  repeat' first
    | (with_reducible exact Keeps.refl _)
    | (with_reducible assumption)
    | (with_reducible apply Keeps.after (State.setFld_keeps ..))
    | (with_reducible apply Keeps.after (State.setRing_keeps ..))
    | (with_reducible apply Keeps.after (State.dropLines_keeps ..))
    | (with_reducible apply Keeps.after (State.plainWrite_keeps ..))
    | (with_reducible apply Keeps.after (State.ringFix_keeps ..))
    | (with_reducible apply Keeps.after (State.showTags_keeps ..))
    | (with_reducible apply Keeps.foldl)
    | (with_reducible apply Keeps.foldl_fst)
    | (with_reducible refine Keeps.foldl_of (by assumption) ?_ ?_)
    | (intro _ _; beta_reduce)
    | (intro _; beta_reduce)
    | (with_reducible apply Keeps.ite_fst)
    | ((fail_if_no_progress extract_lets +onlyGivenNames x); first | (refine Keeps.cut x ?_ ?_; (on_goal 1 => unfold x); (on_goal 2 => (intro hx; clear_value x))) | clear_value x)
    | (with_reducible apply Keeps.ite)
    | (fail_if_no_progress (with_reducible apply Keeps.mk'))
    | split
    | (fail_if_no_progress simp only [Prod.mk.injEq] at *)
    | (fail_if_no_progress (with_reducible obtain ⟨rfl, -⟩ := (show (_ : State) = _ ∧ _ from by assumption)))
    | (fail_if_no_progress (with_reducible apply Keeps.fst))
    | (dsimp only)

theorem State.ringErr_keeps (s : State) (d : DieId) (n : Nat) : Keeps s (State.ringErr s d n) := by
  unfold State.ringErr
  repeat' first
    | (with_reducible exact Keeps.refl _)
    | (with_reducible assumption)
    | (with_reducible apply Keeps.after (State.setFld_keeps ..))
    | (with_reducible apply Keeps.after (State.ringStopped_keeps ..))
    | (dsimp only)

theorem State.ringXlFail_keeps (s : State) (d : DieId) (n va : Nat) (x : Xl) : Keeps s (State.ringXlFail s d n va x) := by
  unfold State.ringXlFail
  repeat' first
    | (with_reducible exact Keeps.refl _)
    | (with_reducible assumption)
    | (with_reducible apply Keeps.after (State.setRing_keeps ..))
    | (with_reducible apply Keeps.after (State.modDie_keeps ..))
    | (with_reducible apply Keeps.after (State.emit_keeps ..))
    | (with_reducible apply Keeps.after (State.walkPoison_keeps ..))
    | (with_reducible apply Keeps.after (State.ringErr_keeps ..))
    | ((fail_if_no_progress extract_lets +onlyGivenNames x); first | (refine Keeps.cut x ?_ ?_; (on_goal 1 => unfold x); (on_goal 2 => (intro hx; clear_value x))) | clear_value x)
    | (with_reducible apply Keeps.ite)
    | (fail_if_no_progress (with_reducible apply Keeps.mk'))
    | split
    | (dsimp only)

theorem State.ringEntryDone_keeps (s : State) (d : DieId) (n : Nat) : Keeps s (State.ringEntryDone s d n) := by
  unfold State.ringEntryDone
  repeat' first
    | (with_reducible exact Keeps.refl _)
    | (with_reducible assumption)
    | (with_reducible apply Keeps.after (State.sendAdv_keeps ..))
    | (with_reducible apply Keeps.after (State.setFld_keeps ..))
    | (with_reducible apply Keeps.after (State.setRing_keeps ..))
    | (with_reducible apply Keeps.after (State.ringStopped_keeps ..))
    | ((fail_if_no_progress extract_lets +onlyGivenNames x); first | (refine Keeps.cut x ?_ ?_; (on_goal 1 => unfold x); (on_goal 2 => (intro hx; clear_value x))) | clear_value x)
    | (with_reducible apply Keeps.ite)
    | (fail_if_no_progress (with_reducible apply Keeps.mk'))
    | split
    | (dsimp only)

theorem State.ringLoad_keeps (s : State) (d : DieId) (n : Nat) : Keeps s (State.ringLoad s d n) := by
  unfold State.ringLoad
  repeat' first
    | (with_reducible exact Keeps.refl _)
    | (with_reducible assumption)
    | (with_reducible apply Keeps.after (State.xlate_keeps ..))
    | (with_reducible refine State.xlate_keepsOf (by assumption) ?_)
    | (with_reducible apply Keeps.after (State.ringXlFail_keeps ..))
    | (with_reducible apply Keeps.after (State.ringErr_keeps ..))
    | (with_reducible apply Keeps.after (State.poisonUse_keeps ..))
    | (with_reducible apply Keeps.after (State.bump_keeps ..))
    | (with_reducible apply Keeps.after (State.setRing_keeps ..))
    | (with_reducible apply Keeps.after (State.modDie_keeps ..))
    | ((fail_if_no_progress extract_lets +onlyGivenNames x); first | (refine Keeps.cut x ?_ ?_; (on_goal 1 => unfold x); (on_goal 2 => (intro hx; clear_value x))) | clear_value x)
    | (with_reducible apply Keeps.ite)
    | (fail_if_no_progress (with_reducible apply Keeps.mk'))
    | split
    | (dsimp only)

theorem State.blkRead_keeps (s : State) (d : DieId) (n : Nat) (b : RingBlk) : Keeps s (State.blkRead s d n b) := by
  unfold State.blkRead
  repeat' first
    | (with_reducible exact Keeps.refl _)
    | (with_reducible assumption)
    | (with_reducible apply Keeps.after (State.addLines_keeps ..))
    | (with_reducible apply Keeps.ite)
    | split
    | (dsimp only)

theorem State.ringStart_keeps (s : State) (d : DieId) (n : Nat) : Keeps s (State.ringStart s d n) := by
  unfold State.ringStart
  repeat' first
    | (with_reducible exact Keeps.refl _)
    | (with_reducible assumption)
    | (with_reducible apply Keeps.after (State.xlate_keeps ..))
    | (with_reducible refine State.xlate_keepsOf (by assumption) ?_)
    | (with_reducible apply Keeps.after (State.ringXlFail_keeps ..))
    | (with_reducible apply Keeps.after (State.ringErr_keeps ..))
    | (with_reducible apply Keeps.after (State.modDie_keeps ..))
    | (with_reducible apply Keeps.after (State.setRing_keeps ..))
    | (with_reducible apply Keeps.after (State.blkRead_keeps ..))
    | (with_reducible apply Keeps.after (State.showTags_keeps ..))
    | ((fail_if_no_progress extract_lets +onlyGivenNames x); first | (refine Keeps.cut x ?_ ?_; (on_goal 1 => unfold x); (on_goal 2 => (intro hx; clear_value x))) | clear_value x)
    | (with_reducible apply Keeps.ite)
    | (fail_if_no_progress (with_reducible apply Keeps.mk'))
    | split
    | (dsimp only)

theorem State.ringGo_keeps (s : State) (d : DieId) (n : Nat) (fuel : Nat) : Keeps s (State.ringGo s d n fuel) := by
  induction fuel generalizing s d n with
  | zero => exact Keeps.refl _
  | succ fuel ih =>
  unfold State.ringGo
  repeat' first
    | (with_reducible exact Keeps.refl _)
    | (with_reducible assumption)
    | (with_reducible apply Keeps.after (ih ..))
    | (with_reducible apply Keeps.after (State.setFld_keeps ..))
    | (with_reducible apply Keeps.after (State.ringStopped_keeps ..))
    | (with_reducible apply Keeps.after (State.ringLoad_keeps ..))
    | (with_reducible apply Keeps.after (State.ringEntryDone_keeps ..))
    | (with_reducible apply Keeps.after (State.ringStart_keeps ..))
    | ((fail_if_no_progress extract_lets +onlyGivenNames x); first | (refine Keeps.cut x ?_ ?_; (on_goal 1 => unfold x); (on_goal 2 => (intro hx; clear_value x))) | clear_value x)
    | (with_reducible apply Keeps.ite)
    | split
    | (dsimp only)

theorem State.ringEnable_keeps (s : State) (d : DieId) (n : Nat) : Keeps s (State.ringEnable s d n) := by
  unfold State.ringEnable
  repeat' first
    | (with_reducible exact Keeps.refl _)
    | (with_reducible assumption)
    | (with_reducible apply Keeps.after (State.setFld_keeps ..))
    | (with_reducible apply Keeps.after (State.ringFix_keeps ..))
    | (with_reducible apply Keeps.after (State.wr_keeps ..))
    | (with_reducible apply Keeps.after (State.setRing_keeps ..))
    | (with_reducible apply Keeps.after (State.modDie_keeps ..))
    | (with_reducible apply Keeps.after (State.ringGo_keeps ..))
    | (with_reducible apply Keeps.after (State.ringErr_keeps ..))
    | ((fail_if_no_progress extract_lets +onlyGivenNames x); first | (refine Keeps.cut x ?_ ?_; (on_goal 1 => unfold x); (on_goal 2 => (intro hx; clear_value x))) | clear_value x)
    | (with_reducible apply Keeps.ite)
    | (fail_if_no_progress (with_reducible apply Keeps.mk'))
    | split
    | (dsimp only)

theorem State.ringDisable_keeps (s : State) (d : DieId) (n : Nat) : Keeps s (State.ringDisable s d n) := by
  unfold State.ringDisable
  repeat' first
    | (with_reducible exact Keeps.refl _)
    | (with_reducible assumption)
    | (with_reducible apply Keeps.after (State.ringStopped_keeps ..))
    | (with_reducible apply Keeps.after (State.setRing_keeps ..))
    | ((fail_if_no_progress extract_lets +onlyGivenNames x); first | (refine Keeps.cut x ?_ ?_; (on_goal 1 => unfold x); (on_goal 2 => (intro hx; clear_value x))) | clear_value x)
    | (with_reducible apply Keeps.ite)
    | (fail_if_no_progress (with_reducible apply Keeps.mk'))
    | split
    | (dsimp only)

theorem State.modRingBlk_keeps (s : State) (d : DieId) (n id : Nat) (f : RingBlk → RingBlk) : Keeps s (State.modRingBlk s d n id f) := by
  unfold State.modRingBlk
  repeat' first
    | (with_reducible exact Keeps.refl _)
    | (with_reducible assumption)
    | (with_reducible apply Keeps.after (State.setRing_keeps ..))
    | ((fail_if_no_progress extract_lets +onlyGivenNames x); first | (refine Keeps.cut x ?_ ?_; (on_goal 1 => unfold x); (on_goal 2 => (intro hx; clear_value x))) | clear_value x)
    | (with_reducible apply Keeps.ite)
    | (fail_if_no_progress (with_reducible apply Keeps.mk'))
    | split
    | (dsimp only)

theorem State.ringWritten_keeps (s : State) (d : DieId) (n : Nat) (b : RingBlk) : Keeps s (State.ringWritten s d n b) := by
  unfold State.ringWritten
  repeat' first
    | (with_reducible exact Keeps.refl _)
    | (with_reducible assumption)
    | (with_reducible apply Keeps.after (State.setRing_keeps ..))
    | (with_reducible apply Keeps.after (State.dropLines_keeps ..))
    | (with_reducible apply Keeps.after (State.modDie_keeps ..))
    | (with_reducible apply Keeps.after (State.ringEntryDone_keeps ..))
    | (with_reducible apply Keeps.after (State.ringStopped_keeps ..))
    | (with_reducible apply Keeps.after (State.ringGo_keeps ..))
    | (with_reducible apply Keeps.after (State.showTags_keeps ..))
    | ((fail_if_no_progress extract_lets +onlyGivenNames x); first | (refine Keeps.cut x ?_ ?_; (on_goal 1 => unfold x); (on_goal 2 => (intro hx; clear_value x))) | clear_value x)
    | (with_reducible apply Keeps.ite)
    | (fail_if_no_progress (with_reducible apply Keeps.mk'))
    | split
    | (dsimp only)

theorem State.ringSend_keeps (s : State) (d : DieId) (k : Nat) (l : List (Nat × List (Byte × Bool))) : Keeps s (State.ringSend s d k l).1 := by
  induction l generalizing s d k with
  | nil => exact Keeps.refl _
  | cons hd l ih =>
  unfold State.ringSend
  repeat' first
    | (with_reducible exact Keeps.refl _)
    | (with_reducible assumption)
    | (with_reducible apply Keeps.after (ih ..))
    | (with_reducible apply Keeps.after (State.send_keeps ..))
    | (with_reducible apply Keeps.after (State.writeP_keeps ..))
    | (with_reducible apply Keeps.after (State.ctrl_keeps ..))
    | (with_reducible apply Keeps.ite_fst)
    | ((fail_if_no_progress extract_lets +onlyGivenNames x); first | (refine Keeps.cut x ?_ ?_; (on_goal 1 => unfold x); (on_goal 2 => (intro hx; clear_value x))) | clear_value x)
    | (with_reducible apply Keeps.ite)
    | split
    | (fail_if_no_progress (with_reducible apply Keeps.fst))
    | (dsimp only)


theorem State.ringSend_keepsOf {s : State} {d : DieId} {k : Nat} {l} {s0 st1 : State} {res1} (h0 : State.ringSend s d k l = (st1, res1)) (k0 : Keeps s0 s) : Keeps s0 st1 := by
  have q := State.ringSend_keeps s d k l
  rw [h0] at q
  exact k0.trans q

theorem State.ringBlock_keeps (s : State) (d : DieId) (n : Nat) (b : RingBlk) (data : List (Byte × Bool)) : Keeps s (State.ringBlock s d n b data) := by
  unfold State.ringBlock
  repeat' first
    | (with_reducible exact Keeps.refl _)
    | (with_reducible assumption)
    | (with_reducible apply Keeps.after (State.poisonUse_keeps ..))
    | (with_reducible apply Keeps.after (State.ringSend_keeps ..))
    | (with_reducible refine State.ringSend_keepsOf (by assumption) ?_)
    | (with_reducible apply Keeps.after (State.modRingBlk_keeps ..))
    | (with_reducible apply Keeps.after (State.ringWritten_keeps ..))
    | ((fail_if_no_progress extract_lets +onlyGivenNames x); first | (refine Keeps.cut x ?_ ?_; (on_goal 1 => unfold x); (on_goal 2 => (intro hx; clear_value x))) | clear_value x)
    | (with_reducible apply Keeps.ite)
    | (fail_if_no_progress (with_reducible apply Keeps.mk'))
    | split
    | (fail_if_no_progress simp only [Prod.mk.injEq] at *)
    | (fail_if_no_progress (with_reducible obtain ⟨rfl, -⟩ := (show (_ : State) = _ ∧ _ from by assumption)))
    | (dsimp only)

theorem State.ringStep_keeps (s : State) (d : DieId) (n : Nat) (b : RingBlk) : Keeps s (State.ringStep s d n b) := by
  unfold State.ringStep
  repeat' first
    | (with_reducible exact Keeps.refl _)
    | (with_reducible assumption)
    | (with_reducible apply Keeps.after (State.blkRead_keeps ..))
    | (with_reducible apply Keeps.after (State.pumpLines_keeps ..))
    | (with_reducible apply Keeps.after (State.fetchLines_keeps ..))
    | (with_reducible apply Keeps.after (State.modRingBlk_keeps ..))
    | (with_reducible apply Keeps.after (State.ringBlock_keeps ..))
    | ((fail_if_no_progress extract_lets +onlyGivenNames x); first | (refine Keeps.cut x ?_ ?_; (on_goal 1 => unfold x); (on_goal 2 => (intro hx; clear_value x))) | clear_value x)
    | (with_reducible apply Keeps.ite)
    | (fail_if_no_progress (with_reducible apply Keeps.mk'))
    | split
    | (dsimp only)

theorem State.stale_keeps (s : State) (d : DieId) (block : Nat) (kind ring slot entry tag who : Nat) : Keeps s (State.stale s d block kind ring slot entry tag who) := by
  unfold State.stale
  repeat' first
    | (with_reducible exact Keeps.refl _)
    | (with_reducible assumption)
    | (with_reducible apply Keeps.after (State.bump_keeps ..))
    | (with_reducible apply Keeps.after (State.wr_keeps ..))
    | (with_reducible apply Keeps.after (State.event_keeps ..))
    | ((fail_if_no_progress extract_lets +onlyGivenNames x); first | (refine Keeps.cut x ?_ ?_; (on_goal 1 => unfold x); (on_goal 2 => (intro hx; clear_value x))) | clear_value x)
    | (with_reducible apply Keeps.ite)
    | split
    | (fail_if_no_progress simp only [Prod.mk.injEq] at *)
    | (fail_if_no_progress (with_reducible obtain ⟨rfl, -⟩ := (show (_ : State) = _ ∧ _ from by assumption)))
    | (dsimp only)

theorem State.discardReads_keeps (s : State) (d : DieId) (block : Nat) : Keeps s (State.discardReads s d block) := by
  unfold State.discardReads
  repeat' first
    | (with_reducible exact Keeps.refl _)
    | (with_reducible assumption)
    | (with_reducible apply Keeps.after (State.setRing_keeps ..))
    | (with_reducible apply Keeps.after (State.bump_keeps ..))
    | (with_reducible apply Keeps.after (State.dropLines_keeps ..))
    | (with_reducible apply Keeps.foldl)
    | (with_reducible apply Keeps.foldl_fst)
    | (with_reducible refine Keeps.foldl_of (by assumption) ?_ ?_)
    | (intro _ _; beta_reduce)
    | (intro _; beta_reduce)
    | (with_reducible apply Keeps.ite_fst)
    | ((fail_if_no_progress extract_lets +onlyGivenNames x); first | (refine Keeps.cut x ?_ ?_; (on_goal 1 => unfold x); (on_goal 2 => (intro hx; clear_value x))) | clear_value x)
    | (with_reducible apply Keeps.ite)
    | (fail_if_no_progress (with_reducible apply Keeps.mk'))
    | split
    | (fail_if_no_progress simp only [Prod.mk.injEq] at *)
    | (fail_if_no_progress (with_reducible obtain ⟨rfl, -⟩ := (show (_ : State) = _ ∧ _ from by assumption)))
    | (fail_if_no_progress (with_reducible apply Keeps.fst))
    | (dsimp only)

theorem State.noticed_keeps (s : State) (x : Notice) : Keeps s (State.noticed s x) := by
  unfold State.noticed
  repeat' first
    | (with_reducible exact Keeps.refl _)
    | (with_reducible assumption)
    | (with_reducible apply Keeps.after (State.discardReads_keeps ..))
    | (with_reducible apply Keeps.after (State.modDie_keeps ..))
    | (with_reducible apply Keeps.after (State.stale_keeps ..))
    | (with_reducible apply Keeps.foldl)
    | (with_reducible apply Keeps.foldl_fst)
    | (with_reducible refine Keeps.foldl_of (by assumption) ?_ ?_)
    | (intro _ _; beta_reduce)
    | (intro _; beta_reduce)
    | (with_reducible apply Keeps.ite_fst)
    | ((fail_if_no_progress extract_lets +onlyGivenNames x); first | (refine Keeps.cut x ?_ ?_; (on_goal 1 => unfold x); (on_goal 2 => (intro hx; clear_value x))) | clear_value x)
    | (with_reducible apply Keeps.ite)
    | (fail_if_no_progress (with_reducible apply Keeps.mk'))
    | split
    | (fail_if_no_progress simp only [Prod.mk.injEq] at *)
    | (fail_if_no_progress (with_reducible obtain ⟨rfl, -⟩ := (show (_ : State) = _ ∧ _ from by assumption)))
    | (fail_if_no_progress (with_reducible apply Keeps.fst))
    | (dsimp only)

theorem State.mapsDone_keeps (s : State) : Keeps s (State.mapsDone s) := by
  unfold State.mapsDone
  repeat' first
    | (with_reducible exact Keeps.refl _)
    | (with_reducible assumption)
    | (with_reducible apply Keeps.after (State.finish_keeps ..))
    | (with_reducible apply Keeps.foldl)
    | (with_reducible apply Keeps.foldl_fst)
    | (with_reducible refine Keeps.foldl_of (by assumption) ?_ ?_)
    | (intro _ _; beta_reduce)
    | (intro _; beta_reduce)
    | (with_reducible apply Keeps.ite_fst)
    | (with_reducible apply Keeps.ite)
    | (fail_if_no_progress (with_reducible apply Keeps.mk'))
    | split
    | (fail_if_no_progress simp only [Prod.mk.injEq] at *)
    | (fail_if_no_progress (with_reducible obtain ⟨rfl, -⟩ := (show (_ : State) = _ ∧ _ from by assumption)))
    | (fail_if_no_progress (with_reducible apply Keeps.fst))
    | (dsimp only)

end Sys2Proof.Machine
end

