-- ==== Sys2Proof/Laws/KeepsMemEvents.lean ====
section
/-!
SUPPORT. Sys2Proof/Laws/KeepsMemEvents.lean: what the operations of Machine/MemEvents.lean keep of a state (`Keeps`).
-/
set_option linter.unusedTactic false
set_option linter.unreachableTactic false
namespace Sys2Proof.Machine

theorem State.tagWaits_keeps (s : State) (d : DieId) (cores : List Nat) : Keeps s (State.tagWaits s d cores) := by
  unfold State.tagWaits
  repeat' first
    | (with_reducible exact Keeps.refl _)
    | (with_reducible assumption)
    | (with_reducible apply Keeps.after (State.modFlight_keeps ..))
    | (with_reducible apply Keeps.after (State.bump_keeps ..))
    | (with_reducible apply Keeps.foldl)
    | (with_reducible apply Keeps.foldl_fst)
    | (with_reducible refine Keeps.foldl_of (by assumption) ?_ ?_)
    | (intro _ _; beta_reduce)
    | (intro _; beta_reduce)
    | (with_reducible apply Keeps.ite_fst)
    | ((fail_if_no_progress extract_lets +onlyGivenNames x); first | (refine Keeps.cut x ?_ ?_; (on_goal 1 => unfold x); (on_goal 2 => (intro hx; clear_value x))) | clear_value x)
    | (with_reducible apply Keeps.ite)
    | (fail_if_no_progress (with_reducible apply Keeps.mk'))
    | split
    | (fail_if_no_progress simp only [Prod.mk.injEq] at *)
    | (fail_if_no_progress (with_reducible obtain ⟨rfl, -⟩ := (show (_ : State) = _ ∧ _ from by assumption)))
    | (fail_if_no_progress (with_reducible apply Keeps.fst))
    | (dsimp only)

theorem execDmaAccept_keeps (d : DieId) (tag : BitVec 13) (s : State) : KeepsX s (execDmaAccept d tag s) := by
  unfold execDmaAccept
  repeat' first
    | (with_reducible exact Keeps.refl _)
    | (with_reducible assumption)
    | (with_reducible apply Keeps.after (State.take_keeps ..))
    | (with_reducible refine State.take_keepsOf (by assumption) ?_)
    | (with_reducible apply Keeps.after (State.tagWaits_keeps ..))
    | (with_reducible apply Keeps.after (State.draw_keeps ..))
    | (with_reducible refine State.draw_keepsOf (by assumption) ?_)
    | (with_reducible apply Keeps.after (State.modDie_keeps ..))
    | (with_reducible apply Keeps.after (State.acceptDma_keeps ..))
    | (with_reducible apply Keeps.after (State.modCore_keeps ..))
    | (with_reducible apply Keeps.after (State.completeLs_keeps ..))
    | (with_reducible apply Keeps.after (State.pump_keeps ..))
    | (with_reducible apply KeepsX.next)
    | (with_reducible apply KeepsO.getD)
    | ((fail_if_no_progress extract_lets +onlyGivenNames x); first | (refine KeepsX.cut x ?_ ?_; (on_goal 1 => unfold x); (on_goal 2 => (intro hx; clear_value x))) | (refine Keeps.cut x ?_ ?_; (on_goal 1 => unfold x); (on_goal 2 => (intro hx; clear_value x))) | clear_value x)
    | (with_reducible apply Keeps.ite)
    | (fail_if_no_progress (with_reducible apply Keeps.mk'))
    | split
    | (dsimp only)

theorem execDmaBlockDone_keeps (d : DieId) (tag : BitVec 13) (i : BitVec 8) (draws : List Draw) (s : State) : KeepsX s (execDmaBlockDone d tag i draws s) := by
  unfold execDmaBlockDone
  repeat' first
    | (with_reducible exact Keeps.refl _)
    | (with_reducible assumption)
    | (with_reducible apply Keeps.after (State.runDraws_keeps ..))
    | (with_reducible apply Keeps.after (State.dmaBlock_keeps ..))
    | (with_reducible apply Keeps.after (State.mapsDone_keeps ..))
    | (with_reducible apply KeepsX.next)
    | ((fail_if_no_progress extract_lets +onlyGivenNames x); first | (refine KeepsX.cut x ?_ ?_; (on_goal 1 => unfold x); (on_goal 2 => (intro hx; clear_value x))) | (refine Keeps.cut x ?_ ?_; (on_goal 1 => unfold x); (on_goal 2 => (intro hx; clear_value x))) | clear_value x)
    | (with_reducible apply Keeps.ite)
    | (fail_if_no_progress (with_reducible apply Keeps.mk'))
    | split
    | (dsimp only)

theorem execDmaComplete_keeps (d : DieId) (tag : BitVec 13) (s : State) : KeepsX s (execDmaComplete d tag s) := by
  unfold execDmaComplete
  repeat' first
    | (with_reducible exact Keeps.refl _)
    | (with_reducible assumption)
    | (with_reducible apply Keeps.after (State.dmaVisible_keeps ..))
    | (with_reducible apply KeepsX.next)
    | (with_reducible apply Keeps.ite)
    | (fail_if_no_progress (with_reducible apply Keeps.mk'))
    | split
    | (dsimp only)

theorem execPatrolScrub_keeps (a : BitVec 52) (found : BitVec 2) (sym : BitVec 6) (s : State) : KeepsX s (execPatrolScrub a found sym s) := by
  unfold execPatrolScrub
  repeat' first
    | (with_reducible exact Keeps.refl _)
    | (with_reducible assumption)
    | (with_reducible apply Keeps.after (State.corrected_keeps ..))
    | (with_reducible apply Keeps.after (State.setPoison_keeps ..))
    | (with_reducible apply Keeps.after (State.bump_keeps ..))
    | (with_reducible apply Keeps.after (State.event_keeps ..))
    | (with_reducible apply KeepsX.next)
    | ((fail_if_no_progress extract_lets +onlyGivenNames x); first | (refine KeepsX.cut x ?_ ?_; (on_goal 1 => unfold x); (on_goal 2 => (intro hx; clear_value x))) | (refine Keeps.cut x ?_ ?_; (on_goal 1 => unfold x); (on_goal 2 => (intro hx; clear_value x))) | clear_value x)
    | (with_reducible apply Keeps.ite)
    | (fail_if_no_progress (with_reducible apply Keeps.mk'))
    | split
    | (fail_if_no_progress simp only [Prod.mk.injEq] at *)
    | (fail_if_no_progress (with_reducible obtain ⟨rfl, -⟩ := (show (_ : State) = _ ∧ _ from by assumption)))
    | (dsimp only)

theorem State.rgnOverlap_keeps (s : State) (d : DieId) : Keeps s (State.rgnOverlap s d) := by
  unfold State.rgnOverlap
  repeat' first
    | (with_reducible exact Keeps.refl _)
    | (with_reducible assumption)
    | (with_reducible apply Keeps.after (State.setFld_keeps ..))
    | (with_reducible apply Keeps.ite)
    | split
    | (dsimp only)

theorem State.rgnWrite_keeps (s : State) (d : DieId) (n : Nat) (limit : Bool) (v : Word) : Keeps s (State.rgnWrite s d n limit v) := by
  unfold State.rgnWrite
  repeat' first
    | (with_reducible exact Keeps.refl _)
    | (with_reducible assumption)
    | (with_reducible apply Keeps.after (State.modDie_keeps ..))
    | (with_reducible apply Keeps.after (State.setFld_keeps ..))
    | (with_reducible apply Keeps.after (State.wr_keeps ..))
    | (with_reducible apply Keeps.after (State.rgnOverlap_keeps ..))
    | ((fail_if_no_progress extract_lets +onlyGivenNames x); first | (refine Keeps.cut x ?_ ?_; (on_goal 1 => unfold x); (on_goal 2 => (intro hx; clear_value x))) | clear_value x)
    | (with_reducible apply Keeps.ite)
    | (fail_if_no_progress (with_reducible apply Keeps.mk'))
    | split
    | (dsimp only)

theorem State.memStep_keeps (s : State) (d : DieId) (v : Word) : Keeps s (State.memStep s d v) := by
  unfold State.memStep
  repeat' first
    | (with_reducible exact Keeps.refl _)
    | (with_reducible assumption)
    | (with_reducible apply Keeps.after (State.plainWrite_keeps ..))
    | (with_reducible apply Keeps.after (State.wr_keeps ..))
    | (with_reducible apply Keeps.after (State.modDie_keeps ..))
    | (with_reducible apply Keeps.after (State.setFld_keeps ..))
    | (with_reducible apply Keeps.after (State.rgnOverlap_keeps ..))
    | (with_reducible apply Keeps.foldl)
    | (with_reducible apply Keeps.foldl_fst)
    | (with_reducible refine Keeps.foldl_of (by assumption) ?_ ?_)
    | (intro _ _; beta_reduce)
    | (intro _; beta_reduce)
    | (with_reducible apply Keeps.ite_fst)
    | ((fail_if_no_progress extract_lets +onlyGivenNames x); first | (refine Keeps.cut x ?_ ?_; (on_goal 1 => unfold x); (on_goal 2 => (intro hx; clear_value x))) | clear_value x)
    | (with_reducible apply Keeps.ite)
    | (fail_if_no_progress (with_reducible apply Keeps.mk'))
    | split
    | (fail_if_no_progress simp only [Prod.mk.injEq] at *)
    | (fail_if_no_progress (with_reducible obtain ⟨rfl, -⟩ := (show (_ : State) = _ ∧ _ from by assumption)))
    | (fail_if_no_progress (with_reducible apply Keeps.fst))
    | (dsimp only)

theorem execMemStepWrite_keeps (d : DieId) (v : Word) (s : State) : KeepsX s (execMemStepWrite d v s) := by
  unfold execMemStepWrite
  repeat' first
    | (with_reducible exact Keeps.refl _)
    | (with_reducible assumption)
    | (with_reducible apply Keeps.after (State.memStep_keeps ..))
    | (with_reducible apply KeepsX.next)
    | (dsimp only)

theorem execRgnEntryWrite_keeps (d : DieId) (n : BitVec 6) (limit : Bool) (v : Word) (s : State) : KeepsX s (execRgnEntryWrite d n limit v s) := by
  unfold execRgnEntryWrite
  repeat' first
    | (with_reducible exact Keeps.refl _)
    | (with_reducible assumption)
    | (with_reducible apply Keeps.after (State.rgnWrite_keeps ..))
    | (with_reducible apply KeepsX.next)
    | (dsimp only)

theorem execWritePacket_keeps (a : BitVec 52) (data : List Byte) (who : BitVec 32) (s : State) : KeepsX s (execWritePacket a data who s) := by
  unfold execWritePacket
  repeat' first
    | (with_reducible exact Keeps.refl _)
    | (with_reducible assumption)
    | (with_reducible apply Keeps.after (State.send_keeps ..))
    | (with_reducible apply Keeps.after (State.wrMem_keeps ..))
    | (with_reducible apply Keeps.after (State.received_keeps ..))
    | (with_reducible apply Keeps.after (State.ctrl_keeps ..))
    | (with_reducible apply KeepsX.next)
    | ((fail_if_no_progress extract_lets +onlyGivenNames x); first | (refine KeepsX.cut x ?_ ?_; (on_goal 1 => unfold x); (on_goal 2 => (intro hx; clear_value x))) | (refine Keeps.cut x ?_ ?_; (on_goal 1 => unfold x); (on_goal 2 => (intro hx; clear_value x))) | clear_value x)
    | (with_reducible apply Keeps.ite)
    | split
    | (dsimp only)

theorem execLateNoticeReceive_keeps (n : BitVec 16) (s : State) : KeepsX s (execLateNoticeReceive n s) := by
  unfold execLateNoticeReceive
  repeat' first
    | (with_reducible exact Keeps.refl _)
    | (with_reducible assumption)
    | (with_reducible apply Keeps.after (State.noticed_keeps ..))
    | (with_reducible apply KeepsX.next)
    | (with_reducible apply Keeps.ite)
    | (fail_if_no_progress (with_reducible apply Keeps.mk'))
    | split
    | (dsimp only)

theorem execRingEnable_keeps (d : DieId) (n : BitVec 3) (s : State) : KeepsX s (execRingEnable d n s) := by
  unfold execRingEnable
  repeat' first
    | (with_reducible exact Keeps.refl _)
    | (with_reducible assumption)
    | (with_reducible apply Keeps.after (State.ringEnable_keeps ..))
    | (with_reducible apply KeepsX.next)
    | (dsimp only)

theorem execRingDisable_keeps (d : DieId) (n : BitVec 3) (s : State) : KeepsX s (execRingDisable d n s) := by
  unfold execRingDisable
  repeat' first
    | (with_reducible exact Keeps.refl _)
    | (with_reducible assumption)
    | (with_reducible apply Keeps.after (State.ringDisable_keeps ..))
    | (with_reducible apply KeepsX.next)
    | (dsimp only)

theorem execStreamBlockWritten_keeps (d : DieId) (n : BitVec 3) (b : BlockStep) (s : State) : KeepsX s (execStreamBlockWritten d n b s) := by
  unfold execStreamBlockWritten
  repeat' first
    | (with_reducible exact Keeps.refl _)
    | (with_reducible assumption)
    | (with_reducible apply Keeps.after (State.ringGo_keeps ..))
    | (with_reducible apply Keeps.after (State.runDraws_keeps ..))
    | (with_reducible apply Keeps.after (State.ringStep_keeps ..))
    | (with_reducible apply Keeps.after (State.mapsDone_keeps ..))
    | (with_reducible apply KeepsX.next)
    | ((fail_if_no_progress extract_lets +onlyGivenNames x); first | (refine KeepsX.cut x ?_ ?_; (on_goal 1 => unfold x); (on_goal 2 => (intro hx; clear_value x))) | (refine Keeps.cut x ?_ ?_; (on_goal 1 => unfold x); (on_goal 2 => (intro hx; clear_value x))) | clear_value x)
    | (with_reducible apply Keeps.ite)
    | (fail_if_no_progress (with_reducible apply Keeps.mk'))
    | split
    | (dsimp only)

theorem execReductionPacketArrive_keeps (n : BitVec 16) (s : State) : KeepsX s (execReductionPacketArrive n s) := by
  unfold execReductionPacketArrive
  repeat' first
    | (with_reducible exact Keeps.refl _)
    | (with_reducible assumption)
    | (with_reducible apply Keeps.after (State.redArrive_keeps ..))
    | (with_reducible apply KeepsX.next)
    | (with_reducible apply Keeps.ite)
    | (fail_if_no_progress (with_reducible apply Keeps.mk'))
    | split
    | (dsimp only)

theorem execCombineHoldExpire_keeps (r : CoreId) (n : BitVec 6) (s : State) : KeepsX s (execCombineHoldExpire r n s) := by
  unfold execCombineHoldExpire
  repeat' first
    | (with_reducible exact Keeps.refl _)
    | (with_reducible assumption)
    | (with_reducible apply Keeps.after (State.redForward_keeps ..))
    | (with_reducible apply KeepsX.next)
    | ((fail_if_no_progress extract_lets +onlyGivenNames x); first | (refine KeepsX.cut x ?_ ?_; (on_goal 1 => unfold x); (on_goal 2 => (intro hx; clear_value x))) | (refine Keeps.cut x ?_ ?_; (on_goal 1 => unfold x); (on_goal 2 => (intro hx; clear_value x))) | clear_value x)
    | (with_reducible apply Keeps.ite)
    | (fail_if_no_progress (with_reducible apply Keeps.mk'))
    | split
    | (dsimp only)

theorem execReductionEndpointWrite_keeps (n : BitVec 16) (s : State) : KeepsX s (execReductionEndpointWrite n s) := by
  unfold execReductionEndpointWrite
  repeat' first
    | (with_reducible exact Keeps.refl _)
    | (with_reducible assumption)
    | (with_reducible apply Keeps.after (State.redEnd_keeps ..))
    | (with_reducible apply Keeps.after (State.mapsDone_keeps ..))
    | (with_reducible apply KeepsX.next)
    | (with_reducible apply Keeps.ite)
    | (fail_if_no_progress (with_reducible apply Keeps.mk'))
    | split
    | (dsimp only)

theorem execRoundDoneNotice_keeps (n : BitVec 16) (s : State) : KeepsX s (execRoundDoneNotice n s) := by
  unfold execRoundDoneNotice
  repeat' first
    | (with_reducible exact Keeps.refl _)
    | (with_reducible assumption)
    | (with_reducible apply Keeps.after (State.modDie_keeps ..))
    | (with_reducible apply KeepsX.next)
    | ((fail_if_no_progress extract_lets +onlyGivenNames x); first | (refine KeepsX.cut x ?_ ?_; (on_goal 1 => unfold x); (on_goal 2 => (intro hx; clear_value x))) | (refine Keeps.cut x ?_ ?_; (on_goal 1 => unfold x); (on_goal 2 => (intro hx; clear_value x))) | clear_value x)
    | (with_reducible apply Keeps.ite)
    | (fail_if_no_progress (with_reducible apply Keeps.mk'))
    | split
    | (dsimp only)

theorem execMulticastDeliver_keeps (n : BitVec 16) (c : CoreId) (held : BitVec 16) (s : State) : KeepsX s (execMulticastDeliver n c held s) := by
  unfold execMulticastDeliver
  repeat' first
    | (with_reducible exact Keeps.refl _)
    | (with_reducible assumption)
    | (with_reducible apply Keeps.after (State.take_keeps ..))
    | (with_reducible refine State.take_keepsOf (by assumption) ?_)
    | (with_reducible apply Keeps.after (State.bumpRt_keeps ..))
    | (with_reducible apply Keeps.after (State.writeP_keeps ..))
    | (with_reducible apply Keeps.after (State.mcAck_keeps ..))
    | (with_reducible apply Keeps.after (State.mapsDone_keeps ..))
    | (with_reducible apply KeepsX.next)
    | ((fail_if_no_progress extract_lets +onlyGivenNames x); first | (refine KeepsX.cut x ?_ ?_; (on_goal 1 => unfold x); (on_goal 2 => (intro hx; clear_value x))) | (refine Keeps.cut x ?_ ?_; (on_goal 1 => unfold x); (on_goal 2 => (intro hx; clear_value x))) | clear_value x)
    | (with_reducible apply Keeps.ite)
    | (fail_if_no_progress (with_reducible apply Keeps.mk'))
    | split
    | (dsimp only)

theorem execMulticastAck_keeps (n : BitVec 16) (s : State) : KeepsX s (execMulticastAck n s) := by
  unfold execMulticastAck
  repeat' first
    | (with_reducible exact Keeps.refl _)
    | (with_reducible assumption)
    | (with_reducible apply Keeps.after (State.modDie_keeps ..))
    | (with_reducible apply KeepsX.next)
    | ((fail_if_no_progress extract_lets +onlyGivenNames x); first | (refine KeepsX.cut x ?_ ?_; (on_goal 1 => unfold x); (on_goal 2 => (intro hx; clear_value x))) | (refine Keeps.cut x ?_ ?_; (on_goal 1 => unfold x); (on_goal 2 => (intro hx; clear_value x))) | clear_value x)
    | (with_reducible apply Keeps.ite)
    | (fail_if_no_progress (with_reducible apply Keeps.mk'))
    | split
    | (dsimp only)

theorem execPacerRefill_keeps (d : DieId) (p : BitVec 10) (s : State) : KeepsX s (execPacerRefill d p s) := by
  unfold execPacerRefill
  repeat' first
    | (with_reducible exact Keeps.refl _)
    | (with_reducible assumption)
    | (with_reducible apply Keeps.after (State.refill_keeps ..))
    | (with_reducible apply KeepsX.next)
    | (with_reducible apply Keeps.ite)
    | split
    | (dsimp only)

theorem State.redWrite_keeps (s : State) (d : DieId) (n : Nat) (cfg : Bool) (v : Word) : Keeps s (State.redWrite s d n cfg v) := by
  unfold State.redWrite
  repeat' first
    | (with_reducible exact Keeps.refl _)
    | (with_reducible assumption)
    | (with_reducible apply Keeps.after (State.plainWrite_keeps ..))
    | (with_reducible apply Keeps.after (State.redCheck_keeps ..))
    | (with_reducible apply Keeps.after (State.setRound_keeps ..))
    | (with_reducible apply Keeps.after (State.dmaError_keeps ..))
    | (with_reducible apply Keeps.foldl)
    | (with_reducible apply Keeps.foldl_fst)
    | (with_reducible refine Keeps.foldl_of (by assumption) ?_ ?_)
    | (intro _ _; beta_reduce)
    | (intro _; beta_reduce)
    | (with_reducible apply Keeps.ite_fst)
    | ((fail_if_no_progress extract_lets +onlyGivenNames x); first | (refine Keeps.cut x ?_ ?_; (on_goal 1 => unfold x); (on_goal 2 => (intro hx; clear_value x))) | clear_value x)
    | (with_reducible apply Keeps.ite)
    | (fail_if_no_progress (with_reducible apply Keeps.mk'))
    | split
    | (fail_if_no_progress simp only [Prod.mk.injEq] at *)
    | (fail_if_no_progress (with_reducible obtain ⟨rfl, -⟩ := (show (_ : State) = _ ∧ _ from by assumption)))
    | (fail_if_no_progress (with_reducible apply Keeps.fst))
    | (dsimp only)

theorem execRedEntryWrite_keeps (d : DieId) (n : BitVec 6) (cfg : Bool) (v : Word) (s : State) : KeepsX s (execRedEntryWrite d n cfg v s) := by
  unfold execRedEntryWrite
  repeat' first
    | (with_reducible exact Keeps.refl _)
    | (with_reducible assumption)
    | (with_reducible apply Keeps.after (State.redWrite_keeps ..))
    | (with_reducible apply KeepsX.next)
    | (dsimp only)

theorem State.clearRange_keeps (s : State) (lo hi : Nat) (pick : Nat → Bool) : Keeps s (s.clearRange lo hi pick) :=
  ⟨rfl, rfl, Nat.le_refl _, List.prefix_refl _, fun h => ⟨h.mem, h.poison, Tab.filter_wf h.regs _, h.cores, h.sorters, h.dies⟩⟩

theorem State.nocClear_keeps (s : State) (d : DieId) : Keeps s (State.nocClear s d) := by
  unfold State.nocClear
  repeat' first
    | (with_reducible exact Keeps.refl _)
    | (with_reducible assumption)
    | (with_reducible apply Keeps.after (State.wr_keeps ..))
    | (with_reducible apply Keeps.after (State.clearRange_keeps ..))
    | ((fail_if_no_progress extract_lets +onlyGivenNames x); first | (refine Keeps.cut x ?_ ?_; (on_goal 1 => unfold x); (on_goal 2 => (intro hx; clear_value x))) | clear_value x)
    | (dsimp only)

theorem execNocCntClr_keeps (d : DieId) (s : State) : KeepsX s (execNocCntClr d s) := by
  unfold execNocCntClr
  repeat' first
    | (with_reducible exact Keeps.refl _)
    | (with_reducible assumption)
    | (with_reducible apply Keeps.after (State.nocClear_keeps ..))
    | (with_reducible apply KeepsX.next)
    | (dsimp only)

theorem State.discardIn_keeps (s : State) (c : CoreId) : Keeps s (State.discardIn s c) := by
  unfold State.discardIn
  repeat' first
    | (with_reducible exact Keeps.refl _)
    | (with_reducible assumption)
    | (with_reducible apply Keeps.after (State.modCore_keeps ..))
    | (with_reducible apply Keeps.after (State.bumpRt_keeps ..))
    | (with_reducible apply Keeps.after (State.countFenced_keeps ..))
    | (with_reducible apply Keeps.after (State.ctrl_keeps ..))
    | (with_reducible apply Keeps.foldl)
    | (with_reducible apply Keeps.foldl_fst)
    | (with_reducible refine Keeps.foldl_of (by assumption) ?_ ?_)
    | (intro _ _; beta_reduce)
    | (intro _; beta_reduce)
    | (with_reducible apply Keeps.ite_fst)
    | ((fail_if_no_progress extract_lets +onlyGivenNames x); first | (refine Keeps.cut x ?_ ?_; (on_goal 1 => unfold x); (on_goal 2 => (intro hx; clear_value x))) | clear_value x)
    | (with_reducible apply Keeps.ite)
    | (fail_if_no_progress (with_reducible apply Keeps.mk'))
    | split
    | (fail_if_no_progress simp only [Prod.mk.injEq] at *)
    | (fail_if_no_progress (with_reducible obtain ⟨rfl, -⟩ := (show (_ : State) = _ ∧ _ from by assumption)))
    | (fail_if_no_progress (with_reducible apply Keeps.fst))
    | (dsimp only)

theorem State.dropSync_keeps (s : State) (c : CoreId) : Keeps s (State.dropSync s c) := by
  unfold State.dropSync
  repeat' first
    | (with_reducible exact Keeps.refl _)
    | (with_reducible assumption)
    | (with_reducible apply Keeps.after (State.cancelSlot_keeps ..))
    | (with_reducible apply Keeps.after (State.setSlice_keeps ..))
    | (with_reducible apply Keeps.after (State.drainHeld_keeps ..))
    | (with_reducible apply Keeps.foldl)
    | (with_reducible apply Keeps.foldl_fst)
    | (with_reducible refine Keeps.foldl_of (by assumption) ?_ ?_)
    | (intro _ _; beta_reduce)
    | (intro _; beta_reduce)
    | (with_reducible apply Keeps.ite_fst)
    | ((fail_if_no_progress extract_lets +onlyGivenNames x); first | (refine Keeps.cut x ?_ ?_; (on_goal 1 => unfold x); (on_goal 2 => (intro hx; clear_value x))) | clear_value x)
    | (with_reducible apply Keeps.ite)
    | (fail_if_no_progress (with_reducible apply Keeps.mk'))
    | split
    | (fail_if_no_progress simp only [Prod.mk.injEq] at *)
    | (fail_if_no_progress (with_reducible obtain ⟨rfl, -⟩ := (show (_ : State) = _ ∧ _ from by assumption)))
    | (fail_if_no_progress (with_reducible apply Keeps.fst))
    | (dsimp only)

theorem State.freeMiss_keeps (s : State) (c : CoreId) : Keeps s (State.freeMiss s c) := by
  unfold State.freeMiss
  repeat' first
    | (with_reducible exact Keeps.refl _)
    | (with_reducible assumption)
    | (with_reducible apply Keeps.after (State.modCore_keeps ..))
    | (with_reducible apply Keeps.after (State.setSorter_keeps ..))
    | ((fail_if_no_progress extract_lets +onlyGivenNames x); first | (refine Keeps.cut x ?_ ?_; (on_goal 1 => unfold x); (on_goal 2 => (intro hx; clear_value x))) | clear_value x)
    | (fail_if_no_progress (with_reducible apply Keeps.mk'))
    | (dsimp only)

theorem State.fence_keeps (s : State) (c : CoreId) : Keeps s (State.fence s c) := by
  unfold State.fence
  repeat' first
    | (with_reducible exact Keeps.refl _)
    | (with_reducible assumption)
    | (with_reducible apply Keeps.after (State.setFld_keeps ..))
    | (with_reducible apply Keeps.after (State.stopProgram_keeps ..))
    | (with_reducible apply Keeps.after (State.discardIn_keeps ..))
    | (with_reducible apply Keeps.after (State.modCore_keeps ..))
    | (with_reducible apply Keeps.after (State.freeMiss_keeps ..))
    | (with_reducible apply Keeps.after (State.dropSync_keeps ..))
    | (with_reducible apply Keeps.after (State.mapsDone_keeps ..))
    | ((fail_if_no_progress extract_lets +onlyGivenNames x); first | (refine Keeps.cut x ?_ ?_; (on_goal 1 => unfold x); (on_goal 2 => (intro hx; clear_value x))) | clear_value x)
    | (with_reducible apply Keeps.ite)
    | (fail_if_no_progress (with_reducible apply Keeps.mk'))
    | split
    | (dsimp only)

theorem execFenceWrite_keeps (c : CoreId) (v : Word) (s : State) : KeepsX s (execFenceWrite c v s) := by
  unfold execFenceWrite
  repeat' first
    | (with_reducible exact Keeps.refl _)
    | (with_reducible assumption)
    | (with_reducible apply Keeps.after (State.fence_keeps ..))
    | (with_reducible apply KeepsX.next)
    | (with_reducible apply Keeps.ite)
    | split
    | (dsimp only)

theorem State.release_keeps (s : State) (c : CoreId) : Keeps s (State.release s c) := by
  unfold State.release
  repeat' first
    | (with_reducible exact Keeps.refl _)
    | (with_reducible assumption)
    | (with_reducible apply Keeps.after (State.setFld_keeps ..))
    | (with_reducible apply Keeps.after (State.modCore_keeps ..))
    | ((fail_if_no_progress extract_lets +onlyGivenNames x); first | (refine Keeps.cut x ?_ ?_; (on_goal 1 => unfold x); (on_goal 2 => (intro hx; clear_value x))) | clear_value x)
    | (with_reducible apply Keeps.ite)
    | split
    | (dsimp only)

theorem execFenceReleaseWrite_keeps (c : CoreId) (s : State) : KeepsX s (execFenceReleaseWrite c s) := by
  unfold execFenceReleaseWrite
  repeat' first
    | (with_reducible exact Keeps.refl _)
    | (with_reducible assumption)
    | (with_reducible apply Keeps.after (State.release_keeps ..))
    | (with_reducible apply KeepsX.next)
    | (dsimp only)

end Sys2Proof.Machine
end

