-- ==== Sys2Proof/Laws/KeepsSyncEvents.lean ====
section
/-!
SUPPORT. Sys2Proof/Laws/KeepsSyncEvents.lean: what the operations of Machine/SyncEvents.lean keep of a state (`Keeps`).
-/
set_option linter.unusedTactic false
set_option linter.unreachableTactic false
namespace Sys2Proof.Machine

theorem execSyncAdvance_keeps (n : BitVec 16) (s : State) : KeepsX s (execSyncAdvance n s) := by
  unfold execSyncAdvance
  repeat' first
    | (with_reducible exact Keeps.refl _)
    | (with_reducible assumption)
    | (with_reducible apply Keeps.after (State.sliceAdvance_keeps ..))
    | (with_reducible apply KeepsX.next)
    | (with_reducible apply Keeps.ite)
    | (fail_if_no_progress (with_reducible apply Keeps.mk'))
    | split
    | (dsimp only)

theorem State.coreIn_keeps (s : State) (c : CoreId) (x : InMsg) : Keeps s (State.coreIn s c x) := by
  cases x <;> unfold State.coreIn
  repeat' first
    | (with_reducible exact Keeps.refl _)
    | (with_reducible assumption)
    | (with_reducible apply Keeps.after (State.deliver_keeps ..))
    | (with_reducible apply Keeps.after (State.unpark_keeps ..))
    | (with_reducible apply Keeps.after (State.pump_keeps ..))
    | (with_reducible apply Keeps.after (State.endSync_keeps ..))
    | (with_reducible apply Keeps.after (State.fire_keeps ..))
    | (with_reducible apply Keeps.after (State.modCore_keeps ..))
    | (with_reducible apply Keeps.after (State.watchPend_keeps ..))
    | (with_reducible apply Keeps.after (State.corWrite_keeps ..))
    | ((fail_if_no_progress extract_lets +onlyGivenNames x); first | (refine Keeps.cut x ?_ ?_; (on_goal 1 => unfold x); (on_goal 2 => (intro hx; clear_value x))) | clear_value x)
    | (with_reducible apply Keeps.ite)
    | (fail_if_no_progress (with_reducible apply Keeps.mk'))
    | split
    | (dsimp only)

theorem State.eject_keeps (s : State) (c : CoreId) (m : InMsg) : Keeps s (State.eject s c m) := by
  unfold State.eject
  repeat' first
    | (with_reducible exact Keeps.refl _)
    | (with_reducible assumption)
    | (with_reducible apply Keeps.after (State.bumpRt_keeps ..))
    | (with_reducible apply Keeps.after (State.coreIn_keeps ..))
    | (with_reducible refine State.coreIn_keepsOf (by assumption) ?_)
    | (with_reducible apply Keeps.after (State.modCore_keeps ..))
    | (with_reducible apply Keeps.ite)
    | (fail_if_no_progress (with_reducible apply Keeps.mk'))
    | split
    | (dsimp only)

theorem State.drainIn_keeps (s : State) (c : CoreId) (fuel : Nat) : Keeps s (State.drainIn s c fuel) := by
  induction fuel generalizing s c with
  | zero => exact Keeps.refl _
  | succ fuel ih =>
  unfold State.drainIn
  repeat' first
    | (with_reducible exact Keeps.refl _)
    | (with_reducible assumption)
    | (with_reducible apply Keeps.after (ih ..))
    | (with_reducible apply Keeps.after (State.modCore_keeps ..))
    | (with_reducible apply Keeps.after (State.coreIn_keeps ..))
    | (with_reducible refine State.coreIn_keepsOf (by assumption) ?_)
    | (with_reducible apply Keeps.ite)
    | (fail_if_no_progress (with_reducible apply Keeps.mk'))
    | split
    | (dsimp only)

theorem State.wakeRegion_keeps (s : State) (r : RegionId) : Keeps s (State.wakeRegion s r) := by
  unfold State.wakeRegion
  repeat' first
    | (with_reducible exact Keeps.refl _)
    | (with_reducible assumption)
    | (with_reducible apply Keeps.after (State.drainIn_keeps ..))
    | (with_reducible apply Keeps.after (State.pump_keeps ..))
    | (with_reducible apply Keeps.foldl)
    | (with_reducible apply Keeps.foldl_fst)
    | (with_reducible refine Keeps.foldl_of (by assumption) ?_ ?_)
    | (intro _ _; beta_reduce)
    | (intro _; beta_reduce)
    | (with_reducible apply Keeps.ite_fst)
    | (with_reducible apply Keeps.ite)
    | split
    | (fail_if_no_progress simp only [Prod.mk.injEq] at *)
    | (fail_if_no_progress (with_reducible obtain ⟨rfl, -⟩ := (show (_ : State) = _ ∧ _ from by assumption)))
    | (fail_if_no_progress (with_reducible apply Keeps.fst))
    | (dsimp only)

theorem execNewtUngate_keeps (c : CoreId) (s : State) : KeepsX s (execNewtUngate c s) := by
  unfold execNewtUngate
  repeat' first
    | (with_reducible exact Keeps.refl _)
    | (with_reducible assumption)
    | (with_reducible apply Keeps.after (State.modCore_keeps ..))
    | (with_reducible apply Keeps.after (State.bumpRt_keeps ..))
    | (with_reducible apply Keeps.after (State.drainIn_keeps ..))
    | (with_reducible apply Keeps.after (State.pump_keeps ..))
    | (with_reducible apply KeepsX.next)
    | ((fail_if_no_progress extract_lets +onlyGivenNames x); first | (refine KeepsX.cut x ?_ ?_; (on_goal 1 => unfold x); (on_goal 2 => (intro hx; clear_value x))) | (refine Keeps.cut x ?_ ?_; (on_goal 1 => unfold x); (on_goal 2 => (intro hx; clear_value x))) | clear_value x)
    | (with_reducible apply Keeps.ite)
    | (fail_if_no_progress (with_reducible apply Keeps.mk'))
    | split
    | (dsimp only)

theorem State.regIn_keeps (s : State) (e : Ep) (c : CoreId) (a : Nat) (v : Word) : Keeps s (State.regIn s e c a v) := by
  unfold State.regIn
  repeat' first
    | (with_reducible exact Keeps.refl _)
    | (with_reducible assumption)
    | (with_reducible apply Keeps.after (State.ctrl_keeps ..))
    | (with_reducible apply Keeps.after (State.countFenced_keeps ..))
    | (with_reducible apply Keeps.after (State.eject_keeps ..))
    | ((fail_if_no_progress extract_lets +onlyGivenNames x); first | (refine Keeps.cut x ?_ ?_; (on_goal 1 => unfold x); (on_goal 2 => (intro hx; clear_value x))) | clear_value x)
    | (with_reducible apply Keeps.ite)
    | split
    | (dsimp only)

theorem execFwIrqRaise_keeps (c : CoreId) (s : State) : KeepsX s (execFwIrqRaise c s) := by
  unfold execFwIrqRaise
  repeat' first
    | (with_reducible exact Keeps.refl _)
    | (with_reducible assumption)
    | (with_reducible apply Keeps.after (State.regIn_keeps ..))
    | (with_reducible apply KeepsX.next)
    | (dsimp only)

theorem State.sendWaiting_keeps (s : State) (a : Adv) : Keeps s (State.sendWaiting s a) := by
  unfold State.sendWaiting
  repeat' first
    | (with_reducible exact Keeps.refl _)
    | (with_reducible assumption)
    | (with_reducible apply Keeps.after (State.stamp_keeps ..))
    | ((fail_if_no_progress extract_lets +onlyGivenNames x); first | (refine Keeps.cut x ?_ ?_; (on_goal 1 => unfold x); (on_goal 2 => (intro hx; clear_value x))) | clear_value x)
    | (fail_if_no_progress (with_reducible apply Keeps.mk'))
    | (dsimp only)

theorem State.advApplied_keeps (s : State) (a : Adv) (v : Word) : Keeps s (State.advApplied s a v) := by
  unfold State.advApplied
  repeat' first
    | (with_reducible exact Keeps.refl _)
    | (with_reducible assumption)
    | (with_reducible apply Keeps.after (State.dmaDone_keeps ..))
    | (with_reducible apply Keeps.after (State.finish_keeps ..))
    | (with_reducible apply Keeps.ite)
    | (fail_if_no_progress (with_reducible apply Keeps.mk'))
    | split
    | (dsimp only)

theorem execAdvanceAck_keeps (n : BitVec 16) (s : State) : KeepsX s (execAdvanceAck n s) := by
  unfold execAdvanceAck
  repeat' first
    | (with_reducible exact Keeps.refl _)
    | (with_reducible assumption)
    | (with_reducible apply Keeps.after (State.sendWaiting_keeps ..))
    | (with_reducible apply Keeps.after (State.eject_keeps ..))
    | (with_reducible apply Keeps.after (State.advApplied_keeps ..))
    | (with_reducible apply KeepsX.next)
    | ((fail_if_no_progress extract_lets +onlyGivenNames x); first | (refine KeepsX.cut x ?_ ?_; (on_goal 1 => unfold x); (on_goal 2 => (intro hx; clear_value x))) | (refine Keeps.cut x ?_ ?_; (on_goal 1 => unfold x); (on_goal 2 => (intro hx; clear_value x))) | clear_value x)
    | (with_reducible apply Keeps.ite)
    | (fail_if_no_progress (with_reducible apply Keeps.mk'))
    | split
    | (dsimp only)

theorem execWatchRegistration_keeps (n : BitVec 16) (s : State) : KeepsX s (execWatchRegistration n s) := by
  unfold execWatchRegistration
  repeat' first
    | (with_reducible exact Keeps.refl _)
    | (with_reducible assumption)
    | (with_reducible apply Keeps.after (State.sliceWatch_keeps ..))
    | (with_reducible apply KeepsX.next)
    | (with_reducible apply Keeps.ite)
    | (fail_if_no_progress (with_reducible apply Keeps.mk'))
    | split
    | (dsimp only)

theorem State.ccFire_keeps (s : State) (d : DieId) (i : BitVec 6) (w : WatchMsg) : Keeps s (State.ccFire s d i w) := by
  unfold State.ccFire
  repeat' first
    | (with_reducible exact Keeps.refl _)
    | (with_reducible assumption)
    | (with_reducible apply Keeps.after (State.finish_keeps ..))
    | ((fail_if_no_progress extract_lets +onlyGivenNames x); first | (refine Keeps.cut x ?_ ?_; (on_goal 1 => unfold x); (on_goal 2 => (intro hx; clear_value x))) | clear_value x)
    | (with_reducible apply Keeps.ite)
    | (fail_if_no_progress (with_reducible apply Keeps.mk'))
    | split
    | (dsimp only)

theorem execWatchFire_keeps (n : BitVec 16) (s : State) : KeepsX s (execWatchFire n s) := by
  unfold execWatchFire
  repeat' first
    | (with_reducible exact Keeps.refl _)
    | (with_reducible assumption)
    | (with_reducible apply Keeps.after (State.ccFire_keeps ..))
    | (with_reducible apply Keeps.after (State.countFenced_keeps ..))
    | (with_reducible apply Keeps.after (State.ctrl_keeps ..))
    | (with_reducible apply Keeps.after (State.eject_keeps ..))
    | (with_reducible apply Keeps.after (State.fire_keeps ..))
    | (with_reducible apply KeepsX.next)
    | ((fail_if_no_progress extract_lets +onlyGivenNames x); first | (refine KeepsX.cut x ?_ ?_; (on_goal 1 => unfold x); (on_goal 2 => (intro hx; clear_value x))) | (refine Keeps.cut x ?_ ?_; (on_goal 1 => unfold x); (on_goal 2 => (intro hx; clear_value x))) | clear_value x)
    | (with_reducible apply Keeps.ite)
    | (fail_if_no_progress (with_reducible apply Keeps.mk'))
    | split
    | (dsimp only)

theorem execRetryResend_keeps (n : BitVec 16) (s : State) : KeepsX s (execRetryResend n s) := by
  unfold execRetryResend
  repeat' first
    | (with_reducible exact Keeps.refl _)
    | (with_reducible assumption)
    | (with_reducible apply Keeps.after (State.ctrl_keeps ..))
    | (with_reducible apply Keeps.after (State.stamp_keeps ..))
    | (with_reducible apply Keeps.after (State.sendReg_keeps ..))
    | (with_reducible apply KeepsX.next)
    | ((fail_if_no_progress extract_lets +onlyGivenNames x); first | (refine KeepsX.cut x ?_ ?_; (on_goal 1 => unfold x); (on_goal 2 => (intro hx; clear_value x))) | (refine Keeps.cut x ?_ ?_; (on_goal 1 => unfold x); (on_goal 2 => (intro hx; clear_value x))) | clear_value x)
    | (with_reducible apply Keeps.ite)
    | (fail_if_no_progress (with_reducible apply Keeps.mk'))
    | split
    | (dsimp only)

theorem State.valWrite_keeps (s : State) (o : ObjId) (v : Word) : Keeps s (State.valWrite s o v) := by
  unfold State.valWrite
  repeat' first
    | (with_reducible exact Keeps.refl _)
    | (with_reducible assumption)
    | (with_reducible apply Keeps.after (State.wr_keeps ..))
    | (with_reducible apply Keeps.after (State.evalWatches_keeps ..))
    | (with_reducible apply Keeps.after (State.drainHeld_keeps ..))
    | (dsimp only)

theorem execSynValWrite_keeps (o : ObjId) (v : Word) (s : State) : KeepsX s (execSynValWrite o v s) := by
  unfold execSynValWrite
  repeat' first
    | (with_reducible exact Keeps.refl _)
    | (with_reducible assumption)
    | (with_reducible apply Keeps.after (State.valWrite_keeps ..))
    | (with_reducible apply KeepsX.next)
    | (dsimp only)

theorem State.advWrite_keeps (s : State) (o : ObjId) (v : Word) : Keeps s (State.advWrite s o v) := by
  unfold State.advWrite
  repeat' first
    | (with_reducible exact Keeps.refl _)
    | (with_reducible assumption)
    | (with_reducible apply Keeps.after (State.sendAdv_keeps ..))
    | (with_reducible apply Keeps.after (State.sliceAdvance_keeps ..))
    | ((fail_if_no_progress extract_lets +onlyGivenNames x); first | (refine Keeps.cut x ?_ ?_; (on_goal 1 => unfold x); (on_goal 2 => (intro hx; clear_value x))) | clear_value x)
    | (with_reducible apply Keeps.ite)
    | split
    | (dsimp only)

theorem execSynAdvWrite_keeps (o : ObjId) (v : Word) (s : State) : KeepsX s (execSynAdvWrite o v s) := by
  unfold execSynAdvWrite
  repeat' first
    | (with_reducible exact Keeps.refl _)
    | (with_reducible assumption)
    | (with_reducible apply Keeps.after (State.advWrite_keeps ..))
    | (with_reducible apply KeepsX.next)
    | (dsimp only)

theorem State.attrWrite_keeps (s : State) (o : ObjId) (v : Word) : Keeps s (State.attrWrite s o v) := by
  unfold State.attrWrite
  repeat' first
    | (with_reducible exact Keeps.refl _)
    | (with_reducible assumption)
    | (with_reducible apply Keeps.after (State.setFld_keeps ..))
    | (with_reducible apply Keeps.after (State.plainWrite_keeps ..))
    | (with_reducible apply Keeps.after (State.drainHeld_keeps ..))
    | ((fail_if_no_progress extract_lets +onlyGivenNames x); first | (refine Keeps.cut x ?_ ?_; (on_goal 1 => unfold x); (on_goal 2 => (intro hx; clear_value x))) | clear_value x)
    | (with_reducible apply Keeps.ite)
    | split
    | (dsimp only)

theorem execSynAttrWrite_keeps (o : ObjId) (v : Word) (s : State) : KeepsX s (execSynAttrWrite o v s) := by
  unfold execSynAttrWrite
  repeat' first
    | (with_reducible exact Keeps.refl _)
    | (with_reducible assumption)
    | (with_reducible apply Keeps.after (State.attrWrite_keeps ..))
    | (with_reducible apply KeepsX.next)
    | (dsimp only)

theorem execSynCntClr_keeps (k : ClusterId) (s : State) : KeepsX s (execSynCntClr k s) := by
  unfold execSynCntClr
  repeat' first
    | (with_reducible exact Keeps.refl _)
    | (with_reducible assumption)
    | (with_reducible apply Keeps.after (State.clear_keeps ..))
    | (with_reducible apply KeepsX.next)
    | ((fail_if_no_progress extract_lets +onlyGivenNames x); first | (refine KeepsX.cut x ?_ ?_; (on_goal 1 => unfold x); (on_goal 2 => (intro hx; clear_value x))) | (refine Keeps.cut x ?_ ?_; (on_goal 1 => unfold x); (on_goal 2 => (intro hx; clear_value x))) | clear_value x)
    | (dsimp only)

theorem execLendableSet_keeps (r : RegionId) (s : State) : KeepsX s (execLendableSet r s) := by
  unfold execLendableSet
  repeat' first
    | (with_reducible exact Keeps.refl _)
    | (with_reducible assumption)
    | (with_reducible apply Keeps.after (State.setFld_keeps ..))
    | (with_reducible apply KeepsX.next)
    | ((fail_if_no_progress extract_lets +onlyGivenNames x); first | (refine KeepsX.cut x ?_ ?_; (on_goal 1 => unfold x); (on_goal 2 => (intro hx; clear_value x))) | (refine Keeps.cut x ?_ ?_; (on_goal 1 => unfold x); (on_goal 2 => (intro hx; clear_value x))) | clear_value x)
    | (with_reducible apply Keeps.ite)
    | split
    | (dsimp only)

theorem execBarrierLate_keeps (d : DieId) (n : BitVec 6) (s : State) : KeepsX s (execBarrierLate d n s) := by
  unfold execBarrierLate
  exact .next (Keeps.ite (.refl _) (Keeps.ite ((State.wr_keeps ..).trans (State.emit_keeps ..)) (State.wr_keeps ..)))

end Sys2Proof.Machine
end

