-- ==== Sys2Proof/Laws/KeepsVm.lean ====
section
/-!
SUPPORT. Sys2Proof/Laws/KeepsVm.lean: what the operations of Machine/Vm.lean keep of a state (`Keeps`).
-/
set_option linter.unusedTactic false
set_option linter.unreachableTactic false
namespace Sys2Proof.Machine

theorem State.allocTable_keeps (s : State) : KeepsP s (State.allocTable s) := by
  unfold State.allocTable
  repeat' first
    | (with_reducible exact Keeps.refl _)
    | (with_reducible assumption)
    | (with_reducible apply Keeps.after (State.wrMem_keeps ..))
    | (with_reducible apply KeepsP.ite)
    | (with_reducible exact KeepsP.none _)
    | (with_reducible apply KeepsP.some)
    | ((fail_if_no_progress extract_lets +onlyGivenNames x); first | (refine KeepsP.cut x ?_ ?_; (on_goal 1 => unfold x); (on_goal 2 => (intro hx; clear_value x))) | (refine Keeps.cut x ?_ ?_; (on_goal 1 => unfold x); (on_goal 2 => (intro hx; clear_value x))) | clear_value x)
    | (with_reducible apply Keeps.ite)
    | (fail_if_no_progress (with_reducible apply Keeps.mk'))
    | split
    | (dsimp only)


theorem State.allocTable_keepsOf {s : State} {s0 st1 : State} {res1} (h0 : State.allocTable s = some (st1, res1)) (k0 : Keeps s0 s) : Keeps s0 st1 :=
  k0.trans ((State.allocTable_keeps s).keeps st1 res1 h0)

theorem State.freeTable_keeps (s : State) (a : Nat) : Keeps s (State.freeTable s a) := by
  unfold State.freeTable
  repeat' first
    | (with_reducible exact Keeps.refl _)
    | (with_reducible assumption)
    | (fail_if_no_progress (with_reducible apply Keeps.mk'))
    | (dsimp only)

theorem State.setPte_keeps (s : State) (a : Nat) (pa perm : Nat) (s64 : Bool) : Keeps s (State.setPte s a pa perm s64) := by
  unfold State.setPte
  repeat' first
    | (with_reducible exact Keeps.refl _)
    | (with_reducible assumption)
    | (with_reducible apply Keeps.after (State.wrNum_keeps ..))
    | (with_reducible apply Keeps.ite)
    | split
    | (dsimp only)

theorem State.rootTable_keeps (s : State) : KeepsP s (State.rootTable s) := by
  unfold State.rootTable
  repeat' first
    | (with_reducible exact Keeps.refl _)
    | (with_reducible assumption)
    | (with_reducible refine State.allocTable_keepsOf (by assumption) ?_)
    | (with_reducible apply KeepsP.after (State.allocTable_keeps ..))
    | (with_reducible apply Keeps.after (State.wr_keeps ..))
    | (with_reducible apply Keeps.foldl)
    | (with_reducible apply Keeps.foldl_fst)
    | (with_reducible refine Keeps.foldl_of (by assumption) ?_ ?_)
    | (intro _ _; beta_reduce)
    | (intro _; beta_reduce)
    | (with_reducible apply Keeps.ite_fst)
    | (with_reducible apply KeepsP.ite)
    | (with_reducible exact KeepsP.none _)
    | (with_reducible apply KeepsP.some)
    | ((fail_if_no_progress extract_lets +onlyGivenNames x); first | (refine KeepsP.cut x ?_ ?_; (on_goal 1 => unfold x); (on_goal 2 => (intro hx; clear_value x))) | (refine Keeps.cut x ?_ ?_; (on_goal 1 => unfold x); (on_goal 2 => (intro hx; clear_value x))) | clear_value x)
    | (with_reducible apply Keeps.ite)
    | (fail_if_no_progress (with_reducible apply Keeps.mk'))
    | split
    | (fail_if_no_progress simp only [Prod.mk.injEq] at *)
    | (fail_if_no_progress (with_reducible obtain ⟨rfl, -⟩ := (show (_ : State) = _ ∧ _ from by assumption)))
    | (fail_if_no_progress (with_reducible apply Keeps.fst))
    | (dsimp only)


theorem State.rootTable_keepsOf {s : State} {s0 st1 : State} {res1} (h0 : State.rootTable s = some (st1, res1)) (k0 : Keeps s0 s) : Keeps s0 st1 :=
  k0.trans ((State.rootTable_keeps s).keeps st1 res1 h0)

theorem State.split2M_keeps (s : State) (a : Nat) : KeepsO s (State.split2M s a) := by
  unfold State.split2M
  repeat' first
    | (with_reducible exact Keeps.refl _)
    | (with_reducible assumption)
    | (with_reducible refine State.allocTable_keepsOf (by assumption) ?_)
    | (with_reducible apply Keeps.after (State.setPte_keeps ..))
    | (with_reducible apply Keeps.after (State.wrNum_keeps ..))
    | (with_reducible apply Keeps.foldl)
    | (with_reducible apply Keeps.foldl_fst)
    | (with_reducible refine Keeps.foldl_of (by assumption) ?_ ?_)
    | (intro _ _; beta_reduce)
    | (intro _; beta_reduce)
    | (with_reducible apply Keeps.ite_fst)
    | (with_reducible apply KeepsO.ite)
    | (with_reducible exact KeepsO.none _)
    | (with_reducible apply KeepsO.some)
    | ((fail_if_no_progress extract_lets +onlyGivenNames x); first | (refine KeepsO.cut x ?_ ?_; (on_goal 1 => unfold x); (on_goal 2 => (intro hx; clear_value x))) | (refine Keeps.cut x ?_ ?_; (on_goal 1 => unfold x); (on_goal 2 => (intro hx; clear_value x))) | clear_value x)
    | (with_reducible apply Keeps.ite)
    | (fail_if_no_progress (with_reducible apply Keeps.mk'))
    | split
    | (fail_if_no_progress simp only [Prod.mk.injEq] at *)
    | (fail_if_no_progress (with_reducible obtain ⟨rfl, -⟩ := (show (_ : State) = _ ∧ _ from by assumption)))
    | (fail_if_no_progress (with_reducible apply Keeps.fst))
    | (dsimp only)


theorem State.split2M_keepsOf {s : State} {a : Nat} {s0 st1 : State} (h0 : State.split2M s a = some st1) (k0 : Keeps s0 s) : Keeps s0 st1 :=
  k0.trans ((State.split2M_keeps s a).keeps st1 h0)

theorem State.tableBelow_keeps (s : State) (t l va : Nat) : KeepsP s (State.tableBelow s t l va) := by
  unfold State.tableBelow
  repeat' first
    | (with_reducible exact Keeps.refl _)
    | (with_reducible assumption)
    | (with_reducible refine State.allocTable_keepsOf (by assumption) ?_)
    | (with_reducible apply KeepsP.after (State.allocTable_keeps ..))
    | (with_reducible apply Keeps.after (State.wrNum_keeps ..))
    | (with_reducible refine State.split2M_keepsOf (by assumption) ?_)
    | (with_reducible apply KeepsP.ite)
    | (with_reducible exact KeepsP.none _)
    | (with_reducible apply KeepsP.some)
    | ((fail_if_no_progress extract_lets +onlyGivenNames x); first | (refine KeepsP.cut x ?_ ?_; (on_goal 1 => unfold x); (on_goal 2 => (intro hx; clear_value x))) | (refine Keeps.cut x ?_ ?_; (on_goal 1 => unfold x); (on_goal 2 => (intro hx; clear_value x))) | clear_value x)
    | (with_reducible apply Keeps.ite)
    | (fail_if_no_progress (with_reducible apply Keeps.mk'))
    | split
    | (dsimp only)


theorem State.tableBelow_keepsOf {s : State} {t l va : Nat} {s0 st1 : State} {res1} (h0 : State.tableBelow s t l va = some (st1, res1)) (k0 : Keeps s0 s) : Keeps s0 st1 :=
  k0.trans ((State.tableBelow_keeps s t l va).keeps st1 res1 h0)

theorem State.table1_keeps (s : State) (va : Nat) : KeepsP s (State.table1 s va) := by
  unfold State.table1
  repeat' first
    | (with_reducible exact Keeps.refl _)
    | (with_reducible assumption)
    | (with_reducible refine State.rootTable_keepsOf (by assumption) ?_)
    | (with_reducible apply KeepsP.after (State.rootTable_keeps ..))
    | (with_reducible refine State.tableBelow_keepsOf (by assumption) ?_)
    | (with_reducible apply KeepsP.after (State.tableBelow_keeps ..))
    | (with_reducible apply KeepsP.ite)
    | (with_reducible exact KeepsP.none _)
    | (with_reducible apply KeepsP.some)
    | (with_reducible apply Keeps.ite)
    | (fail_if_no_progress (with_reducible apply Keeps.mk'))
    | split
    | (dsimp only)


theorem State.table1_keepsOf {s : State} {va : Nat} {s0 st1 : State} {res1} (h0 : State.table1 s va = some (st1, res1)) (k0 : Keeps s0 s) : Keeps s0 st1 :=
  k0.trans ((State.table1_keeps s va).keeps st1 res1 h0)

theorem State.breakGroup_keeps (s : State) (t0 va : Nat) : Keeps s (State.breakGroup s t0 va) := by
  unfold State.breakGroup
  repeat' first
    | (with_reducible exact Keeps.refl _)
    | (with_reducible assumption)
    | (with_reducible apply Keeps.after (State.wrNum_keeps ..))
    | (with_reducible apply Keeps.foldl)
    | (with_reducible apply Keeps.foldl_fst)
    | (with_reducible refine Keeps.foldl_of (by assumption) ?_ ?_)
    | (intro _ _; beta_reduce)
    | (intro _; beta_reduce)
    | (with_reducible apply Keeps.ite_fst)
    | ((fail_if_no_progress extract_lets +onlyGivenNames x); first | (refine Keeps.cut x ?_ ?_; (on_goal 1 => unfold x); (on_goal 2 => (intro hx; clear_value x))) | clear_value x)
    | (with_reducible apply Keeps.ite)
    | split
    | (fail_if_no_progress simp only [Prod.mk.injEq] at *)
    | (fail_if_no_progress (with_reducible obtain ⟨rfl, -⟩ := (show (_ : State) = _ ∧ _ from by assumption)))
    | (fail_if_no_progress (with_reducible apply Keeps.fst))
    | (dsimp only)

theorem State.mapPage_keeps (s : State) (va pa size perm : Nat) : KeepsO s (State.mapPage s va pa size perm) := by
  unfold State.mapPage
  repeat' first
    | (with_reducible exact Keeps.refl _)
    | (with_reducible assumption)
    | (with_reducible refine State.table1_keepsOf (by assumption) ?_)
    | (with_reducible apply Keeps.after (State.setPte_keeps ..))
    | (with_reducible refine State.tableBelow_keepsOf (by assumption) ?_)
    | (with_reducible apply Keeps.after (State.breakGroup_keeps ..))
    | (with_reducible apply Keeps.foldl)
    | (with_reducible apply Keeps.foldl_fst)
    | (with_reducible refine Keeps.foldl_of (by assumption) ?_ ?_)
    | (intro _ _; beta_reduce)
    | (intro _; beta_reduce)
    | (with_reducible apply Keeps.ite_fst)
    | (with_reducible apply KeepsO.ite)
    | (with_reducible exact KeepsO.none _)
    | (with_reducible apply KeepsO.some)
    | (with_reducible apply Keeps.ite)
    | (fail_if_no_progress (with_reducible apply Keeps.mk'))
    | split
    | (fail_if_no_progress simp only [Prod.mk.injEq] at *)
    | (fail_if_no_progress (with_reducible obtain ⟨rfl, -⟩ := (show (_ : State) = _ ∧ _ from by assumption)))
    | (fail_if_no_progress (with_reducible apply Keeps.fst))
    | (dsimp only)


theorem State.mapPage_keepsOf {s : State} {va pa size perm : Nat} {s0 st1 : State} (h0 : State.mapPage s va pa size perm = some st1) (k0 : Keeps s0 s) : Keeps s0 st1 :=
  k0.trans ((State.mapPage_keeps s va pa size perm).keeps st1 h0)

theorem State.reap_keeps (s : State) (a : Nat) : Keeps s (State.reap s a) := by
  unfold State.reap
  repeat' first
    | (with_reducible exact Keeps.refl _)
    | (with_reducible assumption)
    | (with_reducible apply Keeps.after (State.wrNum_keeps ..))
    | (with_reducible apply Keeps.after (State.freeTable_keeps ..))
    | ((fail_if_no_progress extract_lets +onlyGivenNames x); first | (refine Keeps.cut x ?_ ?_; (on_goal 1 => unfold x); (on_goal 2 => (intro hx; clear_value x))) | clear_value x)
    | (with_reducible apply Keeps.ite)
    | split
    | (dsimp only)

theorem State.clear4K_keeps (s : State) (t0 va hi : Nat) : Keeps s (State.clear4K s t0 va hi).1 := by
  rw [State.clear4K]
  repeat' first
    | (with_reducible exact Keeps.refl _)
    | (with_reducible assumption)
    | (with_reducible apply Keeps.after (State.breakGroup_keeps ..))
    | (with_reducible apply Keeps.after (State.wrNum_keeps ..))
    | (with_reducible apply Keeps.foldl)
    | (with_reducible apply Keeps.foldl_fst)
    | (with_reducible refine Keeps.foldl_of (by assumption) ?_ ?_)
    | (intro _ _; beta_reduce)
    | (intro _; beta_reduce)
    | (with_reducible apply Keeps.ite_fst)
    | ((fail_if_no_progress extract_lets +onlyGivenNames x); first | (refine Keeps.cut x ?_ ?_; (on_goal 1 => unfold x); (on_goal 2 => (intro hx; clear_value x))) | clear_value x)
    | (with_reducible apply Keeps.ite)
    | split
    | (fail_if_no_progress simp only [Prod.mk.injEq] at *)
    | (fail_if_no_progress (with_reducible obtain ⟨rfl, -⟩ := (show (_ : State) = _ ∧ _ from by assumption)))
    | (fail_if_no_progress (with_reducible apply Keeps.fst))
    | (dsimp only)


theorem State.clear4K_keepsOf {s : State} {t0 va hi : Nat} {s0 st1 : State} {res1} (h0 : State.clear4K s t0 va hi = (st1, res1)) (k0 : Keeps s0 s) : Keeps s0 st1 := by
  have q := State.clear4K_keeps s t0 va hi
  rw [h0] at q
  exact k0.trans q

theorem State.unmapGo_keeps (k : Nat) (s : State) (va hi : Nat) (l : List (Nat × Nat)) : KeepsP s (State.unmapGo k s va hi l) := by
  induction k generalizing s va l with
  | zero => exact .some (.refl _)
  | succ k ih =>
    unfold State.unmapGo
    refine KeepsP.ite (.some (.refl _)) ?_
    extract_lets next
    split
    · exact ih ..
    · extract_lets e
      refine KeepsP.ite ?_ ?_
      · refine (ih ..).after ?_
        exact ((State.wrNum_keeps ..).trans (State.reap_keeps ..)).trans (State.reap_keeps ..)
      · split
        · exact .none _
        · next t ht =>
          have hk : Keeps s t := by
            split at ht
            · exact (State.split2M_keeps ..).keeps _ ht
            · cases ht; exact .refl _
          split
          next u l' hu =>
          have hu' := State.clear4K_keepsOf hu hk
          refine (ih ..).after (hu'.trans ?_)
          exact ((State.reap_keeps ..).trans (State.reap_keeps ..)).trans (State.reap_keeps ..)

theorem State.unmapGo_keepsOf {k : Nat} {s : State} {va hi : Nat} {l : List (Nat × Nat)} {s0 t0 : State} {res0}
    (h : State.unmapGo k s va hi l = some (t0, res0)) (q : Keeps s0 s) : Keeps s0 t0 := q.trans ((State.unmapGo_keeps ..).keeps _ _ h)

theorem State.unmapRange_keeps (s : State) (va len : Nat) : KeepsP s (State.unmapRange s va len) := by
  unfold State.unmapRange
  repeat' first
    | (with_reducible exact Keeps.refl _)
    | (with_reducible assumption)
    | (with_reducible refine State.unmapGo_keepsOf (by assumption) ?_)
    | (with_reducible apply KeepsP.after (State.unmapGo_keeps ..))
    | (with_reducible apply KeepsP.ite)
    | (with_reducible exact KeepsP.none _)
    | (with_reducible apply KeepsP.some)
    | (dsimp only)


theorem State.unmapRange_keepsOf {s : State} {va len : Nat} {s0 st1 : State} {res1} (h0 : State.unmapRange s va len = some (st1, res1)) (k0 : Keeps s0 s) : Keeps s0 st1 :=
  k0.trans ((State.unmapRange_keeps s va len).keeps st1 res1 h0)

theorem State.dropXlate_keeps (s : State) (va len : Nat) : Keeps s (s.dropXlate va len) := by
  unfold State.dropXlate
  extract_lets hit t
  refine Keeps.foldl _ ?_ fun t d => State.modDie_keeps ..
  exact ⟨rfl, rfl, Nat.le_refl _, List.prefix_refl _, fun h => ⟨h.mem, h.poison, h.regs,
    Tab.mapFilter_wf h.cores _ _ (fun e he => by simpa using he), h.sorters, h.dies⟩⟩

theorem State.dropDemand_keeps (s : State) (va len : Nat) : Keeps s (State.dropDemand s va len) := by
  unfold State.dropDemand
  repeat' first
    | (with_reducible exact Keeps.refl _)
    | (with_reducible assumption)
    | (with_reducible apply Keeps.ite)
    | (fail_if_no_progress (with_reducible apply Keeps.mk'))
    | split
    | (dsimp only)

theorem State.demandMap_keeps (s : State) (va : Nat) : KeepsO s (State.demandMap s va) := by
  unfold State.demandMap
  repeat' first
    | (with_reducible exact Keeps.refl _)
    | (with_reducible assumption)
    | (with_reducible refine State.mapPage_keepsOf (by assumption) ?_)
    | (with_reducible apply KeepsO.after (State.mapPage_keeps ..))
    | (with_reducible apply KeepsO.ite)
    | (with_reducible exact KeepsO.none _)
    | (with_reducible apply KeepsO.some)
    | ((fail_if_no_progress extract_lets +onlyGivenNames x); first | (refine KeepsO.cut x ?_ ?_; (on_goal 1 => unfold x); (on_goal 2 => (intro hx; clear_value x))) | (refine Keeps.cut x ?_ ?_; (on_goal 1 => unfold x); (on_goal 2 => (intro hx; clear_value x))) | clear_value x)
    | (with_reducible apply Keeps.ite)
    | (fail_if_no_progress (with_reducible apply Keeps.mk'))
    | split
    | (dsimp only)


theorem State.demandMap_keepsOf {s : State} {va : Nat} {s0 st1 : State} (h0 : State.demandMap s va = some st1) (k0 : Keeps s0 s) : Keeps s0 st1 :=
  k0.trans ((State.demandMap_keeps s va).keeps st1 h0)

theorem State.retryFault_keeps (s : State) (d : DieId) (x : FaultOf) : Keeps s (State.retryFault s d x) := by
  cases x <;> unfold State.retryFault
  repeat' first
    | (with_reducible exact Keeps.refl _)
    | (with_reducible assumption)
    | (with_reducible apply Keeps.after (State.tfResume_keeps ..))
    | (with_reducible apply Keeps.after (State.excResume_keeps ..))
    | (with_reducible apply Keeps.after (State.modDma_keeps ..))
    | (with_reducible apply Keeps.after (State.pumpDmas_keeps ..))
    | (with_reducible apply Keeps.after (State.setRing_keeps ..))
    | (with_reducible apply Keeps.after (State.ringGo_keeps ..))
    | (with_reducible apply Keeps.ite)
    | (fail_if_no_progress (with_reducible apply Keeps.mk'))
    | split
    | (dsimp only)

theorem State.abortFault_keeps (s : State) (d : DieId) (x : FaultOf) : Keeps s (State.abortFault s d x) := by
  cases x <;> unfold State.abortFault
  repeat' first
    | (with_reducible exact Keeps.refl _)
    | (with_reducible assumption)
    | (with_reducible apply Keeps.after (State.tfAbort_keeps ..))
    | (with_reducible apply Keeps.after (State.excAbort_keeps ..))
    | (with_reducible apply Keeps.after (State.dmaError_keeps ..))
    | (with_reducible apply Keeps.after (State.ringErr_keeps ..))
    | (dsimp only)

theorem execFaultReportService_keeps (d : DieId) (s : State) : KeepsX s (execFaultReportService d s) := by
  unfold execFaultReportService
  refine .next ?_
  split
  · exact .refl _
  next x va rest e =>
  have ht := State.modDie_keeps s d fun D => { D with faults := rest }
  refine Keeps.ite (ht.trans (State.retryFault_keeps ..)) ?_
  split
  next t h => exact ((State.demandMap_keepsOf h ht).trans (State.dropXlate_keeps ..)).trans (State.retryFault_keeps ..)
  next => exact ht.trans (State.abortFault_keeps ..)

theorem State.wakeAtsCores_keeps (s : State) (d : DieId) (page : Nat) : Keeps s (State.wakeAtsCores s d page) := by
  unfold State.wakeAtsCores
  repeat' first
    | (with_reducible exact Keeps.refl _)
    | (with_reducible assumption)
    | (with_reducible apply Keeps.after (State.modCore_keeps ..))
    | (with_reducible apply Keeps.after (State.pump_keeps ..))
    | (with_reducible apply Keeps.foldl)
    | (with_reducible apply Keeps.foldl_fst)
    | (with_reducible refine Keeps.foldl_of (by assumption) ?_ ?_)
    | (intro _ _; beta_reduce)
    | (intro _; beta_reduce)
    | (with_reducible apply Keeps.ite_fst)
    | ((fail_if_no_progress extract_lets +onlyGivenNames x); first | (refine Keeps.cut x ?_ ?_; (on_goal 1 => unfold x); (on_goal 2 => (intro hx; clear_value x))) | clear_value x)
    | (with_reducible apply Keeps.ite)
    | (fail_if_no_progress (with_reducible apply Keeps.mk'))
    | split
    | (fail_if_no_progress simp only [Prod.mk.injEq] at *)
    | (fail_if_no_progress (with_reducible obtain ⟨rfl, -⟩ := (show (_ : State) = _ ∧ _ from by assumption)))
    | (fail_if_no_progress (with_reducible apply Keeps.fst))
    | (dsimp only)

theorem State.wakeAtsEngines_keeps (s : State) (d : DieId) (page : Nat) : Keeps s (State.wakeAtsEngines s d page) := by
  unfold State.wakeAtsEngines
  repeat' first
    | (with_reducible exact Keeps.refl _)
    | (with_reducible assumption)
    | (with_reducible apply Keeps.after (State.modDie_keeps ..))
    | (with_reducible apply Keeps.after (State.ringGo_keeps ..))
    | (with_reducible apply Keeps.after (State.pumpDmas_keeps ..))
    | (with_reducible apply Keeps.foldl)
    | (with_reducible apply Keeps.foldl_fst)
    | (with_reducible refine Keeps.foldl_of (by assumption) ?_ ?_)
    | (intro _ _; beta_reduce)
    | (intro _; beta_reduce)
    | (with_reducible apply Keeps.ite_fst)
    | ((fail_if_no_progress extract_lets +onlyGivenNames x); first | (refine Keeps.cut x ?_ ?_; (on_goal 1 => unfold x); (on_goal 2 => (intro hx; clear_value x))) | clear_value x)
    | (with_reducible apply Keeps.ite)
    | (fail_if_no_progress (with_reducible apply Keeps.mk'))
    | split
    | (fail_if_no_progress simp only [Prod.mk.injEq] at *)
    | (fail_if_no_progress (with_reducible obtain ⟨rfl, -⟩ := (show (_ : State) = _ ∧ _ from by assumption)))
    | (fail_if_no_progress (with_reducible apply Keeps.fst))
    | (dsimp only)

theorem execAtsTranslationCompletion_keeps (d : DieId) (va : BitVec 48) (host : BitVec 52) (perm : BitVec 3) (s : State) :
    KeepsX s (execAtsTranslationCompletion d va host perm s) := by
  unfold execAtsTranslationCompletion
  refine .next (Keeps.ite (.refl _) ?_)
  exact ((State.modDie_keeps ..).trans (State.wakeAtsCores_keeps ..)).trans (State.wakeAtsEngines_keeps ..)

theorem State.priCore_keeps (s : State) (c : CoreId) (page : Nat) (ok : Bool) : Keeps s (State.priCore s c page ok) := by
  unfold State.priCore
  repeat' first
    | (with_reducible exact Keeps.refl _)
    | (with_reducible assumption)
    | (with_reducible apply Keeps.after (State.restart_keeps ..))
    | (with_reducible apply Keeps.after (State.pump_keeps ..))
    | (with_reducible apply Keeps.after (State.setFld_keeps ..))
    | (with_reducible apply Keeps.after (State.exception_keeps ..))
    | (with_reducible apply Keeps.after (State.excResume_keeps ..))
    | (with_reducible apply Keeps.foldl)
    | (with_reducible apply Keeps.foldl_fst)
    | (with_reducible refine Keeps.foldl_of (by assumption) ?_ ?_)
    | (intro _ _; beta_reduce)
    | (intro _; beta_reduce)
    | (with_reducible apply Keeps.ite_fst)
    | ((fail_if_no_progress extract_lets +onlyGivenNames x); first | (refine Keeps.cut x ?_ ?_; (on_goal 1 => unfold x); (on_goal 2 => (intro hx; clear_value x))) | clear_value x)
    | (with_reducible apply Keeps.ite)
    | split
    | (fail_if_no_progress simp only [Prod.mk.injEq] at *)
    | (fail_if_no_progress (with_reducible obtain ⟨rfl, -⟩ := (show (_ : State) = _ ∧ _ from by assumption)))
    | (fail_if_no_progress (with_reducible apply Keeps.fst))
    | (dsimp only)

theorem State.priEngines_keeps (s : State) (d : DieId) (page : Nat) (ok : Bool) : Keeps s (State.priEngines s d page ok) := by
  unfold State.priEngines
  repeat' first
    | (with_reducible exact Keeps.refl _)
    | (with_reducible assumption)
    | (with_reducible apply Keeps.after (State.wakeAtsEngines_keeps ..))
    | (with_reducible apply Keeps.after (State.dmaError_keeps ..))
    | (with_reducible apply Keeps.after (State.ringErr_keeps ..))
    | (with_reducible apply Keeps.foldl)
    | (with_reducible apply Keeps.foldl_fst)
    | (with_reducible refine Keeps.foldl_of (by assumption) ?_ ?_)
    | (intro _ _; beta_reduce)
    | (intro _; beta_reduce)
    | (with_reducible apply Keeps.ite_fst)
    | ((fail_if_no_progress extract_lets +onlyGivenNames x); first | (refine Keeps.cut x ?_ ?_; (on_goal 1 => unfold x); (on_goal 2 => (intro hx; clear_value x))) | clear_value x)
    | (with_reducible apply Keeps.ite)
    | (fail_if_no_progress (with_reducible apply Keeps.mk'))
    | split
    | (fail_if_no_progress simp only [Prod.mk.injEq] at *)
    | (fail_if_no_progress (with_reducible obtain ⟨rfl, -⟩ := (show (_ : State) = _ ∧ _ from by assumption)))
    | (fail_if_no_progress (with_reducible apply Keeps.fst))
    | (dsimp only)

theorem State.priSend_keeps (s : State) : Keeps s (State.priSend s) := by
  unfold State.priSend
  repeat' first
    | (with_reducible exact Keeps.refl _)
    | (with_reducible assumption)
    | (with_reducible apply Keeps.after (State.take_keeps ..))
    | (with_reducible refine State.take_keepsOf (by assumption) ?_)
    | ((fail_if_no_progress extract_lets +onlyGivenNames x); first | (refine Keeps.cut x ?_ ?_; (on_goal 1 => unfold x); (on_goal 2 => (intro hx; clear_value x))) | clear_value x)
    | (with_reducible apply Keeps.ite)
    | (fail_if_no_progress (with_reducible apply Keeps.mk'))
    | split
    | (dsimp only)

theorem State.dropPage_keeps (s : State) (d : DieId) (page : Nat) : Keeps s (s.dropPage d page) := by
  unfold State.dropPage
  exact ⟨rfl, rfl, Nat.le_refl _, List.prefix_refl _, fun h => ⟨h.mem, h.poison, h.regs,
    Tab.mapFilter_wf h.cores _ _ (fun e he => by simpa using he), h.sorters, h.dies⟩⟩

theorem execPriResponse_keeps (d : DieId) (va : BitVec 48) (code : BitVec 2) (s : State) : KeepsX s (execPriResponse d va code s) := by
  unfold execPriResponse
  repeat' first
    | (with_reducible exact Keeps.refl _)
    | (with_reducible assumption)
    | (with_reducible apply Keeps.after (State.priSend_keeps ..))
    | (with_reducible apply Keeps.after (State.modDie_keeps ..))
    | (with_reducible apply Keeps.after (State.dropPage_keeps ..))
    | (with_reducible apply Keeps.after (State.priCore_keeps ..))
    | (with_reducible apply Keeps.after (State.priEngines_keeps ..))
    | (with_reducible apply Keeps.foldl)
    | (with_reducible apply Keeps.foldl_fst)
    | (with_reducible refine Keeps.foldl_of (by assumption) ?_ ?_)
    | (intro _ _; beta_reduce)
    | (intro _; beta_reduce)
    | (with_reducible apply KeepsX.next)
    | (with_reducible apply Keeps.ite_fst)
    | ((fail_if_no_progress extract_lets +onlyGivenNames x); first | (refine KeepsX.cut x ?_ ?_; (on_goal 1 => unfold x); (on_goal 2 => (intro hx; clear_value x))) | (refine Keeps.cut x ?_ ?_; (on_goal 1 => unfold x); (on_goal 2 => (intro hx; clear_value x))) | clear_value x)
    | (with_reducible apply Keeps.ite)
    | (fail_if_no_progress (with_reducible apply Keeps.mk'))
    | split
    | (fail_if_no_progress simp only [Prod.mk.injEq] at *)
    | (fail_if_no_progress (with_reducible obtain ⟨rfl, -⟩ := (show (_ : State) = _ ∧ _ from by assumption)))
    | (fail_if_no_progress (with_reducible apply Keeps.fst))
    | (dsimp only)

theorem execAtsInvalidate_keeps (va : BitVec 48) (len : BitVec 48) (s : State) : KeepsX s (execAtsInvalidate va len s) := by
  unfold execAtsInvalidate
  repeat' first
    | (with_reducible exact Keeps.refl _)
    | (with_reducible assumption)
    | (with_reducible apply Keeps.after (State.dropXlate_keeps ..))
    | (with_reducible apply Keeps.after (State.emit_keeps ..))
    | (with_reducible apply KeepsX.next)
    | ((fail_if_no_progress extract_lets +onlyGivenNames x); first | (refine KeepsX.cut x ?_ ?_; (on_goal 1 => unfold x); (on_goal 2 => (intro hx; clear_value x))) | (refine Keeps.cut x ?_ ?_; (on_goal 1 => unfold x); (on_goal 2 => (intro hx; clear_value x))) | clear_value x)
    | (with_reducible apply Keeps.ite)
    | split
    | (dsimp only)

end Sys2Proof.Machine
end

