-- ==== Sys2Proof/Laws/KeepsUpdate.lean ====
section
/-!
SUPPORT. Sys2Proof/Laws/KeepsUpdate.lean: what the operations of Machine/Update.lean keep of a state (`Keeps`).
-/
set_option linter.unusedTactic false
set_option linter.unreachableTactic false
namespace Sys2Proof.Machine

theorem State.updMap_keeps (s : State) (d : DieId) (rs : List Rng) : Keeps s (State.updMap s d rs) := by
  unfold State.updMap
  repeat' first
    | (with_reducible exact Keeps.refl _)
    | (with_reducible assumption)
    | (with_reducible refine State.demandMap_keepsOf (by assumption) ?_)
    | (with_reducible apply KeepsO.after (State.demandMap_keeps ..))
    | (with_reducible apply Keeps.foldl)
    | (with_reducible apply Keeps.foldl_fst)
    | (with_reducible refine Keeps.foldl_of (by assumption) ?_ ?_)
    | (intro _ _; beta_reduce)
    | (intro _; beta_reduce)
    | (with_reducible apply KeepsO.getD)
    | (with_reducible apply Keeps.ite_fst)
    | (with_reducible apply Keeps.ite)
    | (fail_if_no_progress (with_reducible apply Keeps.mk'))
    | split
    | (fail_if_no_progress simp only [Prod.mk.injEq] at *)
    | (fail_if_no_progress (with_reducible obtain ⟨rfl, -⟩ := (show (_ : State) = _ ∧ _ from by assumption)))
    | (fail_if_no_progress (with_reducible apply Keeps.fst))
    | (dsimp only)

theorem State.updAsk_keeps (s : State) (d : DieId) (ws : List (Nat × Bool)) : Keeps s (State.updAsk s d ws) := by
  unfold State.updAsk
  repeat' first
    | (with_reducible exact Keeps.refl _)
    | (with_reducible assumption)
    | (with_reducible apply Keeps.after (State.modDie_keeps ..))
    | (with_reducible apply Keeps.foldl)
    | (with_reducible apply Keeps.foldl_fst)
    | (with_reducible refine Keeps.foldl_of (by assumption) ?_ ?_)
    | (intro _ _; beta_reduce)
    | (intro _; beta_reduce)
    | (with_reducible apply Keeps.ite_fst)
    | (with_reducible apply Keeps.ite)
    | (fail_if_no_progress (with_reducible apply Keeps.mk'))
    | split
    | (fail_if_no_progress simp only [Prod.mk.injEq] at *)
    | (fail_if_no_progress (with_reducible obtain ⟨rfl, -⟩ := (show (_ : State) = _ ∧ _ from by assumption)))
    | (fail_if_no_progress (with_reducible apply Keeps.fst))
    | (dsimp only)

theorem State.updTraffic_keeps (s : State) (r : RegionId) (rs : List Rng) : Keeps s (State.updTraffic s r rs) := by
  unfold State.updTraffic
  repeat' first
    | (with_reducible exact Keeps.refl _)
    | (with_reducible assumption)
    | (with_reducible apply Keeps.after (State.engTraffic_keeps ..))
    | (with_reducible apply Keeps.foldl)
    | (with_reducible apply Keeps.foldl_fst)
    | (with_reducible refine Keeps.foldl_of (by assumption) ?_ ?_)
    | (intro _ _; beta_reduce)
    | (intro _; beta_reduce)
    | (with_reducible apply Keeps.ite_fst)
    | ((fail_if_no_progress extract_lets +onlyGivenNames x); first | (refine Keeps.cut x ?_ ?_; (on_goal 1 => unfold x); (on_goal 2 => (intro hx; clear_value x))) | clear_value x)
    | (with_reducible apply Keeps.ite)
    | split
    | (fail_if_no_progress simp only [Prod.mk.injEq] at *)
    | (fail_if_no_progress (with_reducible obtain ⟨rfl, -⟩ := (show (_ : State) = _ ∧ _ from by assumption)))
    | (fail_if_no_progress (with_reducible apply Keeps.fst))
    | (dsimp only)

theorem State.updPut_keeps (s : State) (d : DieId) (va k : Nat) (vs : List (Nat × Bool)) : Keeps s (State.updPut s d va k vs) := by
  unfold State.updPut
  repeat' first
    | (with_reducible exact Keeps.refl _)
    | (with_reducible assumption)
    | (with_reducible apply Keeps.after (State.engWrite_keeps ..))
    | (dsimp only)

theorem State.modLay_keeps (s : State) (i : Nat) (f : LayerSt → LayerSt) : Keeps s (State.modLay s i f) := by
  unfold State.modLay
  repeat' first
    | (with_reducible exact Keeps.refl _)
    | (with_reducible assumption)
    | (fail_if_no_progress (with_reducible apply Keeps.mk'))
    | (dsimp only)

theorem State.engState_keeps (s : State) (r : RegionId) (st layer : Nat) : Keeps s (State.engState s r st layer) := by
  unfold State.engState
  repeat' first
    | (with_reducible exact Keeps.refl _)
    | (with_reducible assumption)
    | (with_reducible apply Keeps.after (State.setFld_keeps ..))
    | (dsimp only)

theorem State.engErr_keeps (s : State) (r : RegionId) (code layer : Nat) : Keeps s (State.engErr s r code layer) := by
  unfold State.engErr
  repeat' first
    | (with_reducible exact Keeps.refl _)
    | (with_reducible assumption)
    | (with_reducible apply Keeps.after (State.wr_keeps ..))
    | ((fail_if_no_progress extract_lets +onlyGivenNames x); first | (refine Keeps.cut x ?_ ?_; (on_goal 1 => unfold x); (on_goal 2 => (intro hx; clear_value x))) | clear_value x)
    | (dsimp only)

theorem State.passA_keeps (s : State) (r : RegionId) (i : Nat) (P : Plan) (l : Layer) : Keeps s (State.passA s r i P l) := by
  unfold State.passA
  repeat' first
    | (with_reducible exact Keeps.refl _)
    | (with_reducible assumption)
    | (with_reducible apply Keeps.after (State.modLay_keeps ..))
    | (with_reducible apply Keeps.after (State.updTraffic_keeps ..))
    | (with_reducible apply Keeps.after (State.poisonUse_keeps ..))
    | (with_reducible apply Keeps.after (State.bump_keeps ..))
    | (with_reducible apply KeepsO.getD)
    | ((fail_if_no_progress extract_lets +onlyGivenNames x); first | (refine Keeps.cut x ?_ ?_; (on_goal 1 => unfold x); (on_goal 2 => (intro hx; clear_value x))) | clear_value x)
    | (with_reducible apply Keeps.ite)
    | (fail_if_no_progress (with_reducible apply Keeps.mk'))
    | split
    | (fail_if_no_progress simp only [Prod.mk.injEq] at *)
    | (fail_if_no_progress (with_reducible obtain ⟨rfl, -⟩ := (show (_ : State) = _ ∧ _ from by assumption)))
    | (dsimp only)

theorem State.lendOne_keeps (s : State) (c : CoreId) (a : Nat) : Keeps s (State.lendOne s c a) := by
  unfold State.lendOne
  repeat' first
    | (with_reducible exact Keeps.refl _)
    | (with_reducible assumption)
    | (with_reducible apply Keeps.after (State.modCore_keeps ..))
    | ((fail_if_no_progress extract_lets +onlyGivenNames x); first | (refine Keeps.cut x ?_ ?_; (on_goal 1 => unfold x); (on_goal 2 => (intro hx; clear_value x))) | clear_value x)
    | (with_reducible apply Keeps.ite)
    | (fail_if_no_progress (with_reducible apply Keeps.mk'))
    | split
    | (dsimp only)

theorem State.lendTake_keeps (s : State) (r : RegionId) : Keeps s (State.lendTake s r) := by
  unfold State.lendTake
  repeat' first
    | (with_reducible exact Keeps.refl _)
    | (with_reducible assumption)
    | (with_reducible apply Keeps.after (State.lendOne_keeps ..))
    | (with_reducible apply Keeps.foldl)
    | (with_reducible apply Keeps.foldl_fst)
    | (with_reducible refine Keeps.foldl_of (by assumption) ?_ ?_)
    | (intro _ _; beta_reduce)
    | (intro _; beta_reduce)
    | (with_reducible apply Keeps.ite_fst)
    | (with_reducible apply Keeps.ite)
    | split
    | (fail_if_no_progress simp only [Prod.mk.injEq] at *)
    | (fail_if_no_progress (with_reducible obtain ⟨rfl, -⟩ := (show (_ : State) = _ ∧ _ from by assumption)))
    | (fail_if_no_progress (with_reducible apply Keeps.fst))
    | (dsimp only)

theorem State.lendArrays_keeps (s : State) (r : RegionId) : Keeps s (State.lendArrays s r) := by
  unfold State.lendArrays
  repeat' first
    | (with_reducible exact Keeps.refl _)
    | (with_reducible assumption)
    | (with_reducible apply Keeps.after (State.modCore_keeps ..))
    | (with_reducible apply Keeps.after (State.setFld_keeps ..))
    | (with_reducible apply Keeps.after (State.lendTake_keeps ..))
    | (with_reducible apply Keeps.foldl)
    | (with_reducible apply Keeps.foldl_fst)
    | (with_reducible refine Keeps.foldl_of (by assumption) ?_ ?_)
    | (intro _ _; beta_reduce)
    | (intro _; beta_reduce)
    | (with_reducible apply Keeps.ite_fst)
    | ((fail_if_no_progress extract_lets +onlyGivenNames x); first | (refine Keeps.cut x ?_ ?_; (on_goal 1 => unfold x); (on_goal 2 => (intro hx; clear_value x))) | clear_value x)
    | (with_reducible apply Keeps.ite)
    | (fail_if_no_progress (with_reducible apply Keeps.mk'))
    | split
    | (fail_if_no_progress simp only [Prod.mk.injEq] at *)
    | (fail_if_no_progress (with_reducible obtain ⟨rfl, -⟩ := (show (_ : State) = _ ∧ _ from by assumption)))
    | (fail_if_no_progress (with_reducible apply Keeps.fst))
    | (dsimp only)

theorem State.returnArrays_keeps (s : State) (r : RegionId) : Keeps s (State.returnArrays s r) := by
  unfold State.returnArrays
  repeat' first
    | (with_reducible exact Keeps.refl _)
    | (with_reducible assumption)
    | (with_reducible apply Keeps.after (State.setFld_keeps ..))
    | (with_reducible apply Keeps.after (State.modCore_keeps ..))
    | (with_reducible apply Keeps.after (State.pump_keeps ..))
    | (with_reducible apply Keeps.foldl)
    | (with_reducible apply Keeps.foldl_fst)
    | (with_reducible refine Keeps.foldl_of (by assumption) ?_ ?_)
    | (intro _ _; beta_reduce)
    | (intro _; beta_reduce)
    | (with_reducible apply Keeps.ite_fst)
    | ((fail_if_no_progress extract_lets +onlyGivenNames x); first | (refine Keeps.cut x ?_ ?_; (on_goal 1 => unfold x); (on_goal 2 => (intro hx; clear_value x))) | clear_value x)
    | (with_reducible apply Keeps.ite)
    | (fail_if_no_progress (with_reducible apply Keeps.mk'))
    | split
    | (fail_if_no_progress simp only [Prod.mk.injEq] at *)
    | (fail_if_no_progress (with_reducible obtain ⟨rfl, -⟩ := (show (_ : State) = _ ∧ _ from by assumption)))
    | (fail_if_no_progress (with_reducible apply Keeps.fst))
    | (dsimp only)

theorem State.scribble_keeps (s : State) (d : DieId) (va n : Nat) : Keeps s (s.scribble d va n) := by
  unfold State.scribble
  refine Keeps.trans ?_ (State.engWrite_keeps ..)
  exact ⟨rfl, rfl, Nat.le_add_right _ _, List.prefix_refl _, fun h => ⟨h.mem, h.poison, h.regs, h.cores, h.sorters, h.dies⟩⟩

theorem State.putRec_keeps (s : State) (d : DieId) (P : Plan) (i : Nat) (x : URec) : Keeps s (State.putRec s d P i x) := by
  unfold State.putRec
  repeat' first
    | (with_reducible exact Keeps.refl _)
    | (with_reducible assumption)
    | (with_reducible apply Keeps.after (State.engWrite_keeps ..))
    | ((fail_if_no_progress extract_lets +onlyGivenNames x); first | (refine Keeps.cut x ?_ ?_; (on_goal 1 => unfold x); (on_goal 2 => (intro hx; clear_value x))) | clear_value x)
    | (dsimp only)

theorem State.putUpTo_keeps (s : State) (r : RegionId) (va : Nat) (bs : List (Byte × Bool)) : Keeps s (State.putUpTo s r va bs).1 := by
  rw [State.putUpTo]
  repeat' first
    | (with_reducible exact Keeps.refl _)
    | (with_reducible assumption)
    | (with_reducible apply Keeps.after (State.engWrite_keeps ..))
    | (with_reducible apply Keeps.after (State.take_keeps ..))
    | (with_reducible refine State.take_keepsOf (by assumption) ?_)
    | (with_reducible apply Keeps.after (State.engTraffic_keeps ..))
    | (with_reducible apply Keeps.ite_fst)
    | ((fail_if_no_progress extract_lets +onlyGivenNames x); first | (refine Keeps.cut x ?_ ?_; (on_goal 1 => unfold x); (on_goal 2 => (intro hx; clear_value x))) | clear_value x)
    | (with_reducible apply Keeps.ite)
    | (fail_if_no_progress (with_reducible apply Keeps.mk'))
    | split
    | (fail_if_no_progress simp only [Prod.mk.injEq] at *)
    | (fail_if_no_progress (with_reducible obtain ⟨rfl, -⟩ := (show (_ : State) = _ ∧ _ from by assumption)))
    | (fail_if_no_progress (with_reducible apply Keeps.fst))
    | (dsimp only)


theorem State.putUpTo_keepsOf {s : State} {r : RegionId} {va : Nat} {bs : List (Byte × Bool)} {s0 st1 : State} {res1} (h0 : State.putUpTo s r va bs = (st1, res1)) (k0 : Keeps s0 s) : Keeps s0 st1 := by
  have q := State.putUpTo_keeps s r va bs
  rw [h0] at q
  exact k0.trans q

theorem State.putCopy_keeps (s : State) (r : RegionId) (l : Layer) (ca sa : Nat) (m : List (List (Nat × Bool))) (seed : BitVec 32) : Keeps s (State.putCopy s r l ca sa m seed).1 := by
  rw [State.putCopy]
  repeat' first
    | (with_reducible exact Keeps.refl _)
    | (with_reducible assumption)
    | (with_reducible apply Keeps.after (State.putUpTo_keeps ..))
    | (with_reducible refine State.putUpTo_keepsOf (by assumption) ?_)
    | (with_reducible apply KeepsO.getD)
    | (with_reducible apply Keeps.ite_fst)
    | ((fail_if_no_progress extract_lets +onlyGivenNames x); first | (refine Keeps.cut x ?_ ?_; (on_goal 1 => unfold x); (on_goal 2 => (intro hx; clear_value x))) | clear_value x)
    | (with_reducible apply Keeps.ite)
    | (fail_if_no_progress (with_reducible apply Keeps.mk'))
    | split
    | (fail_if_no_progress simp only [Prod.mk.injEq] at *)
    | (fail_if_no_progress (with_reducible obtain ⟨rfl, -⟩ := (show (_ : State) = _ ∧ _ from by assumption)))
    | (fail_if_no_progress (with_reducible apply Keeps.fst))
    | (dsimp only)


theorem State.putCopy_keepsOf {s : State} {r : RegionId} {l : Layer} {ca sa : Nat} {m : List (List (Nat × Bool))} {seed : BitVec 32} {s0 st1 : State} {res1} (h0 : State.putCopy s r l ca sa m seed = (st1, res1)) (k0 : Keeps s0 s) : Keeps s0 st1 := by
  have q := State.putCopy_keeps s r l ca sa m seed
  rw [h0] at q
  exact k0.trans q

theorem State.putCopies_keeps (s : State) (r : RegionId) (l : Layer) : Keeps s (State.putCopies s r l).1 := by
  rw [State.putCopies]
  repeat' first
    | (with_reducible exact Keeps.refl _)
    | (with_reducible assumption)
    | (with_reducible apply Keeps.after (State.take_keeps ..))
    | (with_reducible refine State.take_keepsOf (by assumption) ?_)
    | (with_reducible apply Keeps.after (State.putCopy_keeps ..))
    | (with_reducible refine State.putCopy_keepsOf (by assumption) ?_)
    | (with_reducible apply Keeps.after (State.setFld_keeps ..))
    | (with_reducible apply KeepsO.getD)
    | (with_reducible apply Keeps.ite_fst)
    | ((fail_if_no_progress extract_lets +onlyGivenNames x); first | (refine Keeps.cut x ?_ ?_; (on_goal 1 => unfold x); (on_goal 2 => (intro hx; clear_value x))) | clear_value x)
    | (with_reducible apply Keeps.ite)
    | split
    | (fail_if_no_progress simp only [Prod.mk.injEq] at *)
    | (fail_if_no_progress (with_reducible obtain ⟨rfl, -⟩ := (show (_ : State) = _ ∧ _ from by assumption)))
    | (fail_if_no_progress (with_reducible apply Keeps.fst))
    | (dsimp only)


theorem State.putCopies_keepsOf {s : State} {r : RegionId} {l : Layer} {s0 st1 : State} {res1} (h0 : State.putCopies s r l = (st1, res1)) (k0 : Keeps s0 s) : Keeps s0 st1 := by
  have q := State.putCopies_keeps s r l
  rw [h0] at q
  exact k0.trans q

theorem State.putElems_keeps (s : State) (d : DieId) (l : Layer) (es : List (Nat × Nat × Nat × Nat × Bool × Bool)) (out : List (Nat × Nat × Nat)) : Keeps s (State.putElems s d l es out) := by
  unfold State.putElems
  repeat' first
    | (with_reducible exact Keeps.refl _)
    | (with_reducible assumption)
    | (with_reducible apply Keeps.after (State.updPut_keeps ..))
    | (with_reducible apply Keeps.foldl)
    | (with_reducible apply Keeps.foldl_fst)
    | (with_reducible refine Keeps.foldl_of (by assumption) ?_ ?_)
    | (intro _ _; beta_reduce)
    | (intro _; beta_reduce)
    | (with_reducible apply Keeps.ite_fst)
    | ((fail_if_no_progress extract_lets +onlyGivenNames x); first | (refine Keeps.cut x ?_ ?_; (on_goal 1 => unfold x); (on_goal 2 => (intro hx; clear_value x))) | clear_value x)
    | (with_reducible apply Keeps.ite)
    | split
    | (fail_if_no_progress simp only [Prod.mk.injEq] at *)
    | (fail_if_no_progress (with_reducible obtain ⟨rfl, -⟩ := (show (_ : State) = _ ∧ _ from by assumption)))
    | (fail_if_no_progress (with_reducible apply Keeps.fst))
    | (dsimp only)

theorem State.passBElems_keeps (s : State) (r : RegionId) (P : Plan) (l : Layer) (x : RuleEnv) (n : Nat) : Keeps s (State.passBElems s r P l x n) := by
  unfold State.passBElems
  repeat' first
    | (with_reducible exact Keeps.refl _)
    | (with_reducible assumption)
    | (with_reducible apply Keeps.after (State.poisonUse_keeps ..))
    | (with_reducible apply Keeps.after (State.putElems_keeps ..))
    | (with_reducible apply Keeps.after (State.updTraffic_keeps ..))
    | (with_reducible apply Keeps.after (State.bump_keeps ..))
    | ((fail_if_no_progress extract_lets +onlyGivenNames x); first | (refine Keeps.cut x ?_ ?_; (on_goal 1 => unfold x); (on_goal 2 => (intro hx; clear_value x))) | clear_value x)
    | (with_reducible apply Keeps.ite)
    | (fail_if_no_progress (with_reducible apply Keeps.mk'))
    | split
    | (dsimp only)

theorem State.writeRec_keeps (s : State) (r : RegionId) (i : Nat) (P : Plan) (x : URec) : Keeps s (s.writeRec r i P x).1 := by
  rw [State.writeRec]
  generalize s.updBad (dieOfRegion r) [P.record i] = o
  cases o with
  | some e => exact .refl _
  | none =>
    have h := (State.putRec_keeps s (dieOfRegion r) P i x).trans (State.updTraffic_keeps _ r [P.record i])
    generalize (s.putRec (dieOfRegion r) P i x).updTraffic r [P.record i] = t at h ⊢
    exact Keeps.mk' h ..

theorem State.writeRec_keepsOf {s : State} {r : RegionId} {i : Nat} {P : Plan} {x : URec} {s0 t0 : State} {res0}
    (h : s.writeRec r i P x = (t0, res0)) (k : Keeps s0 s) : Keeps s0 t0 := by
  have q := State.writeRec_keeps s r i P x
  rw [h] at q
  exact k.trans q

theorem State.passBBody_keeps (s : State) (r : RegionId) (i : Nat) (P : Plan) (l : Layer) (x : URec) : Keeps s (State.passBBody s r i P l x) := by
  unfold State.passBBody
  repeat' first
    | (with_reducible exact Keeps.refl _)
    | (with_reducible assumption)
    | (with_reducible apply Keeps.after (State.passBElems_keeps ..))
    | (with_reducible apply Keeps.after (State.engErr_keeps ..))
    | (with_reducible apply Keeps.after (State.scribble_keeps ..))
    | ((fail_if_no_progress extract_lets +onlyGivenNames x); first | (refine Keeps.cut x ?_ ?_; (on_goal 1 => unfold x); (on_goal 2 => (intro hx; clear_value x))) | clear_value x)
    | (with_reducible apply Keeps.ite)
    | split
    | (dsimp only)

theorem State.layerDone_keeps (s : State) (r : RegionId) (i : Nat) : Keeps s (State.layerDone s r i) := by
  unfold State.layerDone
  repeat' first
    | (with_reducible exact Keeps.refl _)
    | (with_reducible assumption)
    | (with_reducible apply Keeps.after (State.modLay_keeps ..))
    | (with_reducible apply Keeps.after (State.bump_keeps ..))
    | (fail_if_no_progress (with_reducible apply Keeps.mk'))
    | (dsimp only)

/-- What the state of a result beside an error code keeps. -/
structure Keeps1 (s : State) (p : State × Option Nat) : Prop where
  keeps : Keeps s p.1

theorem unlessErr_keeps {s : State} {p : State × Option Nat} {f : State → State × Option Nat} (h : Keeps1 s p)
    (hf : ∀ t, Keeps1 t (f t)) : Keeps1 s (unlessErr p f) := by
  unfold unlessErr
  split
  · exact ⟨h.keeps⟩
  · exact ⟨h.keeps.trans (hf _).keeps⟩

theorem State.passBTail_keeps (s : State) (r : RegionId) (i : Nat) (P : Plan) (x : URec) :
    Keeps1 s (unlessErr (s.writeRec r i P x) fun s => (s.layerDone r i, none)) :=
  unlessErr_keeps ⟨State.writeRec_keeps ..⟩ fun _ => ⟨Keeps.fst (State.layerDone_keeps ..)⟩

theorem State.passBWith_keeps (s : State) (r : RegionId) (i : Nat) (P : Plan) (l : Layer) (x : URec) :
    Keeps s (s.passBWith r i P l x).1 := by
  rw [State.passBWith]
  exact Keeps1.keeps (unlessErr_keeps ⟨(State.passBBody_keeps ..).trans (State.putCopies_keeps ..)⟩ fun t => State.passBTail_keeps t r i P x)

theorem State.passB_keeps (s : State) (r : RegionId) (i : Nat) (P : Plan) (l : Layer) : Keeps s (s.passB r i P l).1 := by
  rw [State.passB]
  exact State.passBWith_keeps ..

theorem State.passB_keepsOf {s : State} {r : RegionId} {i : Nat} {P : Plan} {l : Layer} {s0 t0 : State} {res0}
    (h : s.passB r i P l = (t0, res0)) (k : Keeps s0 s) : Keeps s0 t0 := by
  have q := State.passB_keeps s r i P l
  rw [h] at q
  exact k.trans q

theorem State.endLayer_keeps (s : State) (i : Nat) : Keeps s (State.endLayer s i) := by
  unfold State.endLayer
  repeat' first
    | (with_reducible exact Keeps.refl _)
    | (with_reducible assumption)
    | (with_reducible apply Keeps.after (State.modLay_keeps ..))
    | (fail_if_no_progress (with_reducible apply Keeps.mk'))
    | (dsimp only)

theorem State.lateErr_keeps (s : State) (r : RegionId) (code i : Nat) : Keeps s (State.lateErr s r code i) := by
  unfold State.lateErr
  repeat' first
    | (with_reducible exact Keeps.refl _)
    | (with_reducible assumption)
    | (with_reducible apply Keeps.after (State.engErr_keeps ..))
    | (with_reducible apply Keeps.after (State.engState_keeps ..))
    | (with_reducible apply Keeps.after (State.endLayer_keeps ..))
    | ((fail_if_no_progress extract_lets +onlyGivenNames x); first | (refine Keeps.cut x ?_ ?_; (on_goal 1 => unfold x); (on_goal 2 => (intro hx; clear_value x))) | clear_value x)
    | (fail_if_no_progress (with_reducible apply Keeps.mk'))
    | (dsimp only)

theorem State.rule0Launch_keeps (s : State) (r : RegionId) (i : Nat) (P : Plan) (l : Layer) : Keeps s (State.rule0Launch s r i P l) := by
  unfold State.rule0Launch
  repeat' first
    | (with_reducible exact Keeps.refl _)
    | (with_reducible assumption)
    | ((fail_if_no_progress extract_lets +onlyGivenNames x); first | (refine Keeps.cut x ?_ ?_; (on_goal 1 => unfold x); (on_goal 2 => (intro hx; clear_value x))) | clear_value x)
    | (fail_if_no_progress (with_reducible apply Keeps.mk'))
    | (dsimp only)

end Sys2Proof.Machine
end

