-- ==== Sys2Proof/Laws/KeepsSteps.lean ====
section
/-!
SUPPORT. Sys2Proof/Laws/KeepsSteps.lean: what the operations of Machine/Steps.lean keep of a state (`Keeps`).
-/
set_option linter.unusedTactic false
set_option linter.unreachableTactic false
namespace Sys2Proof.Machine

theorem State.clamps_keeps (s : State) (r : RingId) (op : Nat) (cs : List (Nat × Nat × Nat × Nat × Nat)) : Keeps s (State.clamps s r op cs) := by
  unfold State.clamps
  repeat' first
    | (with_reducible exact Keeps.refl _)
    | (with_reducible assumption)
    | (with_reducible apply Keeps.after (State.clampIn_keeps ..))
    | (with_reducible apply Keeps.foldl)
    | (with_reducible apply Keeps.foldl_fst)
    | (with_reducible refine Keeps.foldl_of (by assumption) ?_ ?_)
    | (intro _ _; beta_reduce)
    | (intro _; beta_reduce)
    | (with_reducible apply Keeps.ite_fst)
    | (with_reducible apply Keeps.ite)
    | split
    | (fail_if_no_progress simp only [Prod.mk.injEq] at *)
    | (fail_if_no_progress (with_reducible obtain ⟨rfl, -⟩ := (show (_ : State) = _ ∧ _ from by assumption)))
    | (fail_if_no_progress (with_reducible apply Keeps.fst))
    | (dsimp only)

theorem State.installPlan_keeps (s : State) (r : RingId) (phys : Bool) (h : Nat) : Keeps s (State.installPlan s r phys h).1 := by
  rw [State.installPlan]
  repeat' first
    | (with_reducible exact Keeps.refl _)
    | (with_reducible assumption)
    | (with_reducible apply Keeps.after (State.clamps_keeps ..))
    | (with_reducible apply Keeps.ite_fst)
    | ((fail_if_no_progress extract_lets +onlyGivenNames x); first | (refine Keeps.cut x ?_ ?_; (on_goal 1 => unfold x); (on_goal 2 => (intro hx; clear_value x))) | clear_value x)
    | (with_reducible apply Keeps.ite)
    | (fail_if_no_progress (with_reducible apply Keeps.mk'))
    | split
    | (fail_if_no_progress (with_reducible apply Keeps.fst))
    | (dsimp only)


theorem State.installPlan_keepsOf {s : State} {r : RingId} {phys : Bool} {h : Nat} {s0 st1 : State} {res1} (h0 : State.installPlan s r phys h = (st1, res1)) (k0 : Keeps s0 s) : Keeps s0 st1 := by
  have q := State.installPlan_keeps s r phys h
  rw [h0] at q
  exact k0.trans q

theorem State.installSched_keeps (s : State) (r : RingId) (phys : Bool) (a : Nat) : Keeps s (State.installSched s r phys a).1 := by
  rw [State.installSched]
  repeat' first
    | (with_reducible exact Keeps.refl _)
    | (with_reducible assumption)
    | (with_reducible apply Keeps.after (State.clamps_keeps ..))
    | (with_reducible apply Keeps.ite_fst)
    | ((fail_if_no_progress extract_lets +onlyGivenNames x); first | (refine Keeps.cut x ?_ ?_; (on_goal 1 => unfold x); (on_goal 2 => (intro hx; clear_value x))) | clear_value x)
    | (with_reducible apply Keeps.ite)
    | (fail_if_no_progress (with_reducible apply Keeps.mk'))
    | split
    | (fail_if_no_progress (with_reducible apply Keeps.fst))
    | (dsimp only)


theorem State.installSched_keepsOf {s : State} {r : RingId} {phys : Bool} {a : Nat} {s0 st1 : State} {res1} (h0 : State.installSched s r phys a = (st1, res1)) (k0 : Keeps s0 s) : Keeps s0 st1 := by
  have q := State.installSched_keeps s r phys a
  rw [h0] at q
  exact k0.trans q

theorem State.setPhase_keeps (s : State) (p : Nat) : Keeps s (State.setPhase s p) := by
  unfold State.setPhase
  repeat' first
    | (with_reducible exact Keeps.refl _)
    | (with_reducible assumption)
    | (with_reducible apply Keeps.after (State.setFld_keeps ..))
    | (dsimp only)

theorem State.openEpoch_keeps (s : State) (e : Nat) : Keeps s (State.openEpoch s e) := by
  unfold State.openEpoch
  repeat' first
    | (with_reducible exact Keeps.refl _)
    | (with_reducible assumption)
    | (with_reducible apply Keeps.after (State.wr_keeps ..))
    | (with_reducible apply Keeps.after (State.setFld_keeps ..))
    | (with_reducible apply Keeps.foldl)
    | (with_reducible apply Keeps.foldl_fst)
    | (with_reducible refine Keeps.foldl_of (by assumption) ?_ ?_)
    | (intro _ _; beta_reduce)
    | (intro _; beta_reduce)
    | (with_reducible apply Keeps.ite_fst)
    | ((fail_if_no_progress extract_lets +onlyGivenNames x); first | (refine Keeps.cut x ?_ ?_; (on_goal 1 => unfold x); (on_goal 2 => (intro hx; clear_value x))) | clear_value x)
    | (with_reducible apply Keeps.ite)
    | (fail_if_no_progress (with_reducible apply Keeps.mk'))
    | split
    | (fail_if_no_progress simp only [Prod.mk.injEq] at *)
    | (fail_if_no_progress (with_reducible obtain ⟨rfl, -⟩ := (show (_ : State) = _ ∧ _ from by assumption)))
    | (fail_if_no_progress (with_reducible apply Keeps.fst))
    | (dsimp only)

theorem State.dropCaches_keeps (s : State) : Keeps s (State.dropCaches s) := by
  unfold State.dropCaches
  repeat' first
    | (with_reducible exact Keeps.refl _)
    | (with_reducible assumption)
    | (with_reducible apply Keeps.after (State.invalidate_keeps ..))
    | (with_reducible apply Keeps.foldl)
    | (with_reducible apply Keeps.foldl_fst)
    | (with_reducible refine Keeps.foldl_of (by assumption) ?_ ?_)
    | (intro _ _; beta_reduce)
    | (intro _; beta_reduce)
    | (with_reducible apply Keeps.ite_fst)
    | (with_reducible apply Keeps.ite)
    | split
    | (fail_if_no_progress simp only [Prod.mk.injEq] at *)
    | (fail_if_no_progress (with_reducible obtain ⟨rfl, -⟩ := (show (_ : State) = _ ∧ _ from by assumption)))
    | (fail_if_no_progress (with_reducible apply Keeps.fst))
    | (dsimp only)

theorem State.openLayers_keeps (s : State) : Keeps s (State.openLayers s) := by
  unfold State.openLayers
  repeat' first
    | (with_reducible exact Keeps.refl _)
    | (with_reducible assumption)
    | (with_reducible apply Keeps.foldl)
    | (with_reducible apply Keeps.foldl_fst)
    | (with_reducible refine Keeps.foldl_of (by assumption) ?_ ?_)
    | (intro _ _; beta_reduce)
    | (intro _; beta_reduce)
    | (with_reducible apply Keeps.ite_fst)
    | ((fail_if_no_progress extract_lets +onlyGivenNames x); first | (refine Keeps.cut x ?_ ?_; (on_goal 1 => unfold x); (on_goal 2 => (intro hx; clear_value x))) | clear_value x)
    | (with_reducible apply Keeps.ite)
    | (fail_if_no_progress (with_reducible apply Keeps.mk'))
    | split
    | (fail_if_no_progress simp only [Prod.mk.injEq] at *)
    | (fail_if_no_progress (with_reducible obtain ⟨rfl, -⟩ := (show (_ : State) = _ ∧ _ from by assumption)))
    | (fail_if_no_progress (with_reducible apply Keeps.fst))
    | (dsimp only)

theorem State.openEngines_keeps (s : State) : Keeps s (State.openEngines s) := by
  unfold State.openEngines
  repeat' first
    | (with_reducible exact Keeps.refl _)
    | (with_reducible assumption)
    | (with_reducible apply Keeps.after (State.setFld_keeps ..))
    | (with_reducible apply Keeps.after (State.setPhase_keeps ..))
    | (with_reducible apply Keeps.after (State.engState_keeps ..))
    | (with_reducible apply Keeps.foldl)
    | (with_reducible apply Keeps.foldl_fst)
    | (with_reducible refine Keeps.foldl_of (by assumption) ?_ ?_)
    | (intro _ _; beta_reduce)
    | (intro _; beta_reduce)
    | (with_reducible apply Keeps.ite_fst)
    | ((fail_if_no_progress extract_lets +onlyGivenNames x); first | (refine Keeps.cut x ?_ ?_; (on_goal 1 => unfold x); (on_goal 2 => (intro hx; clear_value x))) | clear_value x)
    | (with_reducible apply Keeps.ite)
    | (fail_if_no_progress (with_reducible apply Keeps.mk'))
    | split
    | (fail_if_no_progress simp only [Prod.mk.injEq] at *)
    | (fail_if_no_progress (with_reducible obtain ⟨rfl, -⟩ := (show (_ : State) = _ ∧ _ from by assumption)))
    | (fail_if_no_progress (with_reducible apply Keeps.fst))
    | (dsimp only)

theorem State.openDeadlines_keeps (s : State) : Keeps s (State.openDeadlines s) := by
  unfold State.openDeadlines
  repeat' first
    | (with_reducible exact Keeps.refl _)
    | (with_reducible assumption)
    | ((fail_if_no_progress extract_lets +onlyGivenNames x); first | (refine Keeps.cut x ?_ ?_; (on_goal 1 => unfold x); (on_goal 2 => (intro hx; clear_value x))) | clear_value x)
    | (with_reducible apply Keeps.ite)
    | (fail_if_no_progress (with_reducible apply Keeps.mk'))
    | split
    | (dsimp only)

theorem State.openRecord_keeps (s : State) (e : Nat) : Keeps s (State.openRecord s e) := by
  unfold State.openRecord
  repeat' first
    | (with_reducible exact Keeps.refl _)
    | (with_reducible assumption)
    | (with_reducible apply Keeps.after (State.setFld_keeps ..))
    | (with_reducible apply Keeps.after (State.rplStep_keeps ..))
    | (with_reducible apply Keeps.after (State.rplSeeds_keeps ..))
    | (with_reducible apply Keeps.after (State.replayOpen_keeps ..))
    | ((fail_if_no_progress extract_lets +onlyGivenNames x); first | (refine Keeps.cut x ?_ ?_; (on_goal 1 => unfold x); (on_goal 2 => (intro hx; clear_value x))) | clear_value x)
    | (with_reducible apply Keeps.ite)
    | split
    | (dsimp only)

theorem State.stepOpen_keeps (s : State) : Keeps s (State.stepOpen s).1 := by
  rw [State.stepOpen]
  repeat' first
    | (with_reducible exact Keeps.refl _)
    | (with_reducible assumption)
    | (with_reducible apply Keeps.after (State.openEpoch_keeps ..))
    | (with_reducible apply Keeps.after (State.dropCaches_keeps ..))
    | (with_reducible apply Keeps.after (State.openLayers_keeps ..))
    | (with_reducible apply Keeps.after (State.openEngines_keeps ..))
    | (with_reducible apply Keeps.after (State.openDeadlines_keeps ..))
    | (with_reducible apply Keeps.after (State.openRecord_keeps ..))
    | (with_reducible apply Keeps.after (State.issueRs_keeps ..))
    | (with_reducible apply Keeps.after (State.fabGo_keeps ..))
    | (with_reducible apply Keeps.ite_fst)
    | ((fail_if_no_progress extract_lets +onlyGivenNames x); first | (refine Keeps.cut x ?_ ?_; (on_goal 1 => unfold x); (on_goal 2 => intro hx)) | skip)
    | (with_reducible apply Keeps.ite)
    | split
    | (fail_if_no_progress (with_reducible apply Keeps.fst))
    | (dsimp only)


theorem State.stepOpen_keepsOf {s : State} {s0 st1 : State} {res1} (h0 : State.stepOpen s = (st1, res1)) (k0 : Keeps s0 s) : Keeps s0 st1 := by
  have q := State.stepOpen_keeps s
  rw [h0] at q
  exact k0.trans q

theorem State.rateNow_keeps (s : State) : Keeps s (State.rateNow s).1 := by
  rw [State.rateNow]
  repeat' first
    | (with_reducible exact Keeps.refl _)
    | (with_reducible assumption)
    | (with_reducible apply Keeps.after (State.take_keeps ..))
    | (with_reducible refine State.take_keepsOf (by assumption) ?_)
    | (with_reducible apply Keeps.ite_fst)
    | ((fail_if_no_progress extract_lets +onlyGivenNames x); first | (refine Keeps.cut x ?_ ?_; (on_goal 1 => unfold x); (on_goal 2 => (intro hx; clear_value x))) | clear_value x)
    | (with_reducible apply Keeps.ite)
    | (fail_if_no_progress (with_reducible apply Keeps.mk'))
    | split
    | (fail_if_no_progress simp only [Prod.mk.injEq] at *)
    | (fail_if_no_progress (with_reducible obtain ⟨rfl, -⟩ := (show (_ : State) = _ ∧ _ from by assumption)))
    | (fail_if_no_progress (with_reducible apply Keeps.fst))
    | (dsimp only)


theorem State.rateNow_keepsOf {s : State} {s0 st1 : State} {res1} (h0 : State.rateNow s = (st1, res1)) (k0 : Keeps s0 s) : Keeps s0 st1 := by
  have q := State.rateNow_keeps s
  rw [h0] at q
  exact k0.trans q

theorem State.closeDies_keeps (s : State) : Keeps s (State.closeDies s) := by
  unfold State.closeDies
  repeat' first
    | (with_reducible exact Keeps.refl _)
    | (with_reducible assumption)
    | (with_reducible apply Keeps.after (State.memStep_keeps ..))
    | (with_reducible apply Keeps.foldl)
    | (with_reducible apply Keeps.foldl_fst)
    | (with_reducible refine Keeps.foldl_of (by assumption) ?_ ?_)
    | (intro _ _; beta_reduce)
    | (intro _; beta_reduce)
    | (with_reducible apply Keeps.ite_fst)
    | (with_reducible apply Keeps.ite)
    | split
    | (fail_if_no_progress simp only [Prod.mk.injEq] at *)
    | (fail_if_no_progress (with_reducible obtain ⟨rfl, -⟩ := (show (_ : State) = _ ∧ _ from by assumption)))
    | (fail_if_no_progress (with_reducible apply Keeps.fst))
    | (dsimp only)

theorem State.takeRate_keeps (s : State) : Keeps s (State.takeRate s) := by
  unfold State.takeRate
  repeat' first
    | (with_reducible exact Keeps.refl _)
    | (with_reducible assumption)
    | (with_reducible apply Keeps.after (State.rateNow_keeps ..))
    | (with_reducible refine State.rateNow_keepsOf (by assumption) ?_)
    | (with_reducible apply Keeps.after (State.setFld_keeps ..))
    | (dsimp only)

theorem State.stepClose_keeps (s : State) (id : Nat) : Keeps s (State.stepClose s id) := by
  unfold State.stepClose
  repeat' first
    | (with_reducible exact Keeps.refl _)
    | (with_reducible assumption)
    | (with_reducible apply Keeps.after (State.closeDies_keeps ..))
    | (with_reducible apply Keeps.after (State.setPhase_keeps ..))
    | (with_reducible apply Keeps.after (State.takeRate_keeps ..))
    | (with_reducible apply Keeps.after (State.rplStep_keeps ..))
    | (with_reducible apply Keeps.after (State.issueUpdate_keeps ..))
    | (with_reducible apply Keeps.after (State.fabGo_keeps ..))
    | ((fail_if_no_progress extract_lets +onlyGivenNames x); first | (refine Keeps.cut x ?_ ?_; (on_goal 1 => unfold x); (on_goal 2 => (intro hx; clear_value x))) | clear_value x)
    | (with_reducible apply Keeps.ite)
    | (fail_if_no_progress (with_reducible apply Keeps.mk'))
    | split
    | (dsimp only)

theorem State.stepEnd_keeps (s : State) (st : BitVec 8) : Keeps s (State.stepEnd s st) := by
  unfold State.stepEnd
  repeat' first
    | (with_reducible exact Keeps.refl _)
    | (with_reducible assumption)
    | (with_reducible apply Keeps.after (State.returnArrays_keeps ..))
    | (with_reducible apply Keeps.after (State.engState_keeps ..))
    | (with_reducible apply Keeps.after (State.memStep_keeps ..))
    | (with_reducible apply Keeps.after (State.setPhase_keeps ..))
    | (with_reducible apply Keeps.after (State.finish_keeps ..))
    | (with_reducible apply Keeps.foldl)
    | (with_reducible apply Keeps.foldl_fst)
    | (with_reducible refine Keeps.foldl_of (by assumption) ?_ ?_)
    | (intro _ _; beta_reduce)
    | (intro _; beta_reduce)
    | (with_reducible apply Keeps.ite_fst)
    | ((fail_if_no_progress extract_lets +onlyGivenNames x); first | (refine Keeps.cut x ?_ ?_; (on_goal 1 => unfold x); (on_goal 2 => (intro hx; clear_value x))) | clear_value x)
    | (with_reducible apply Keeps.ite)
    | (fail_if_no_progress (with_reducible apply Keeps.mk'))
    | split
    | (fail_if_no_progress simp only [Prod.mk.injEq] at *)
    | (fail_if_no_progress (with_reducible obtain ⟨rfl, -⟩ := (show (_ : State) = _ ∧ _ from by assumption)))
    | (fail_if_no_progress (with_reducible apply Keeps.fst))
    | (dsimp only)

theorem State.stepAbandon_keeps (s : State) (st : BitVec 8) : Keeps s (State.stepAbandon s st) := by
  unfold State.stepAbandon
  repeat' first
    | (with_reducible exact Keeps.refl _)
    | (with_reducible assumption)
    | (with_reducible apply Keeps.after (State.rplOrders_keeps ..))
    | (with_reducible apply Keeps.after (State.rplStep_keeps ..))
    | (with_reducible apply Keeps.after (State.abandonReds_keeps ..))
    | (with_reducible apply Keeps.after (State.stepEnd_keeps ..))
    | ((fail_if_no_progress extract_lets +onlyGivenNames x); first | (refine Keeps.cut x ?_ ?_; (on_goal 1 => unfold x); (on_goal 2 => (intro hx; clear_value x))) | clear_value x)
    | (with_reducible apply Keeps.ite)
    | (fail_if_no_progress (with_reducible apply Keeps.mk'))
    | split
    | (dsimp only)

theorem State.engineError_keeps (s : State) (r : RegionId) (code i : Nat) (st : BitVec 8) : Keeps s (State.engineError s r code i st) := by
  unfold State.engineError
  repeat' first
    | (with_reducible exact Keeps.refl _)
    | (with_reducible assumption)
    | (with_reducible apply Keeps.after (State.lateErr_keeps ..))
    | (with_reducible apply Keeps.after (State.engErr_keeps ..))
    | (with_reducible apply Keeps.after (State.engState_keeps ..))
    | (with_reducible apply Keeps.after (State.stepAbandon_keeps ..))
    | (with_reducible apply Keeps.ite)
    | split
    | (dsimp only)

theorem State.startB_keeps (s : State) (r : RegionId) (fuel : Nat) : Keeps s (State.startB s r fuel) := by
  induction fuel generalizing s r with
  | zero => exact Keeps.refl _
  | succ fuel ih =>
  unfold State.startB
  repeat' first
    | (with_reducible exact Keeps.refl _)
    | (with_reducible assumption)
    | (with_reducible apply Keeps.after (ih ..))
    | (with_reducible apply Keeps.after (State.endLayer_keeps ..))
    | (with_reducible apply Keeps.after (State.gatherReady_keeps ..))
    | (with_reducible apply Keeps.after (State.engineError_keeps ..))
    | (with_reducible apply Keeps.after (State.engState_keeps ..))
    | (with_reducible apply Keeps.after (State.lendArrays_keeps ..))
    | (with_reducible apply Keeps.after (State.rule0Launch_keeps ..))
    | (with_reducible apply Keeps.ite)
    | (fail_if_no_progress (with_reducible apply Keeps.mk'))
    | split
    | (dsimp only)

theorem State.startAllB_keeps (s : State) : Keeps s (State.startAllB s) := by
  unfold State.startAllB
  repeat' first
    | (with_reducible exact Keeps.refl _)
    | (with_reducible assumption)
    | (with_reducible apply Keeps.after (State.startB_keeps ..))
    | (with_reducible apply Keeps.foldl)
    | (with_reducible apply Keeps.foldl_fst)
    | (with_reducible refine Keeps.foldl_of (by assumption) ?_ ?_)
    | (intro _ _; beta_reduce)
    | (intro _; beta_reduce)
    | (with_reducible apply Keeps.ite_fst)
    | ((fail_if_no_progress extract_lets +onlyGivenNames x); first | (refine Keeps.cut x ?_ ?_; (on_goal 1 => unfold x); (on_goal 2 => (intro hx; clear_value x))) | clear_value x)
    | (with_reducible apply Keeps.ite)
    | split
    | (fail_if_no_progress simp only [Prod.mk.injEq] at *)
    | (fail_if_no_progress (with_reducible obtain ⟨rfl, -⟩ := (show (_ : State) = _ ∧ _ from by assumption)))
    | (fail_if_no_progress (with_reducible apply Keeps.fst))
    | (dsimp only)

theorem State.normSettle_keeps (s : State) : Keeps s (State.normSettle s) := by
  unfold State.normSettle
  repeat' first
    | (with_reducible exact Keeps.refl _)
    | (with_reducible assumption)
    | (with_reducible apply Keeps.after (State.stepAbandon_keeps ..))
    | (with_reducible apply Keeps.after (State.setFld_keeps ..))
    | (with_reducible apply Keeps.after (State.fabGo_keeps ..))
    | (with_reducible apply Keeps.after (State.endLayer_keeps ..))
    | (with_reducible apply Keeps.after (State.engState_keeps ..))
    | (with_reducible apply Keeps.after (State.gatherSkip_keeps ..))
    | (with_reducible apply Keeps.after (State.startAllB_keeps ..))
    | (with_reducible apply Keeps.foldl)
    | (with_reducible apply Keeps.foldl_fst)
    | (with_reducible refine Keeps.foldl_of (by assumption) ?_ ?_)
    | (intro _ _; beta_reduce)
    | (intro _; beta_reduce)
    | (with_reducible apply Keeps.ite_fst)
    | ((fail_if_no_progress extract_lets +onlyGivenNames x); first | (refine Keeps.cut x ?_ ?_; (on_goal 1 => unfold x); (on_goal 2 => (intro hx; clear_value x))) | clear_value x)
    | (with_reducible apply Keeps.ite)
    | (fail_if_no_progress (with_reducible apply Keeps.mk'))
    | split
    | (fail_if_no_progress simp only [Prod.mk.injEq] at *)
    | (fail_if_no_progress (with_reducible obtain ⟨rfl, -⟩ := (show (_ : State) = _ ∧ _ from by assumption)))
    | (fail_if_no_progress (with_reducible apply Keeps.fst))
    | (dsimp only)

theorem State.fabSettle_keeps (s : State) : Keeps s (State.fabSettle s) := by
  unfold State.fabSettle
  repeat' first
    | (with_reducible exact Keeps.refl _)
    | (with_reducible assumption)
    | (with_reducible apply Keeps.after (State.fabGo_keeps ..))
    | (with_reducible apply Keeps.after (State.normSettle_keeps ..))
    | (dsimp only)

theorem State.contributeNorm_keeps (s : State) : Keeps s (State.contributeNorm s) := by
  unfold State.contributeNorm
  repeat' first
    | (with_reducible exact Keeps.refl _)
    | (with_reducible assumption)
    | (with_reducible apply Keeps.after (State.normSettle_keeps ..))
    | (with_reducible apply Keeps.after (State.setChan_keeps ..))
    | (with_reducible apply Keeps.after (State.fabSettle_keeps ..))
    | ((fail_if_no_progress extract_lets +onlyGivenNames x); first | (refine Keeps.cut x ?_ ?_; (on_goal 1 => unfold x); (on_goal 2 => (intro hx; clear_value x))) | clear_value x)
    | (with_reducible apply Keeps.ite)
    | (fail_if_no_progress (with_reducible apply Keeps.mk'))
    | split
    | (dsimp only)

theorem State.endA_keeps (s : State) (r : RegionId) : Keeps s (State.endA s r) := by
  unfold State.endA
  repeat' first
    | (with_reducible exact Keeps.refl _)
    | (with_reducible assumption)
    | (with_reducible apply Keeps.after (State.updMap_keeps ..))
    | (with_reducible apply Keeps.after (State.updAsk_keeps ..))
    | (with_reducible apply Keeps.after (State.engineError_keeps ..))
    | (with_reducible apply Keeps.after (State.passA_keeps ..))
    | (with_reducible apply Keeps.after (State.engState_keeps ..))
    | ((fail_if_no_progress extract_lets +onlyGivenNames x); first | (refine Keeps.cut x ?_ ?_; (on_goal 1 => unfold x); (on_goal 2 => (intro hx; clear_value x))) | clear_value x)
    | (with_reducible apply Keeps.ite)
    | (fail_if_no_progress (with_reducible apply Keeps.mk'))
    | split
    | (dsimp only)

theorem State.afterB_keeps (s : State) (r : RegionId) (l : Layer) : Keeps s (State.afterB s r l) := by
  unfold State.afterB
  repeat' first
    | (with_reducible exact Keeps.refl _)
    | (with_reducible assumption)
    | (with_reducible apply Keeps.after (State.returnArrays_keeps ..))
    | (with_reducible apply Keeps.after (State.gatherReady_keeps ..))
    | (with_reducible apply Keeps.after (State.startB_keeps ..))
    | (with_reducible apply Keeps.after (State.fabSettle_keeps ..))
    | ((fail_if_no_progress extract_lets +onlyGivenNames x); first | (refine Keeps.cut x ?_ ?_; (on_goal 1 => unfold x); (on_goal 2 => (intro hx; clear_value x))) | clear_value x)
    | (with_reducible apply Keeps.ite)
    | split
    | (dsimp only)

theorem State.stopLayer_keeps (s : State) (r : RegionId) (code i : Nat) (st : BitVec 8) : Keeps s (State.stopLayer s r code i st) := by
  unfold State.stopLayer
  repeat' first
    | (with_reducible exact Keeps.refl _)
    | (with_reducible assumption)
    | (with_reducible apply Keeps.after (State.engineError_keeps ..))
    | (with_reducible apply Keeps.after (State.returnArrays_keeps ..))
    | (with_reducible apply Keeps.after (State.startB_keeps ..))
    | ((fail_if_no_progress extract_lets +onlyGivenNames x); first | (refine Keeps.cut x ?_ ?_; (on_goal 1 => unfold x); (on_goal 2 => (intro hx; clear_value x))) | clear_value x)
    | (with_reducible apply Keeps.ite)
    | split
    | (dsimp only)

theorem State.passDone_keeps {s : State} (r : RegionId) (i : Nat) (l : Layer) {p : State × Option Nat} (h : Keeps s p.1) :
    Keeps s (State.passDone r i l p) := by
  unfold State.passDone
  split
  · exact h.trans (State.stopLayer_keeps ..)
  · exact h.trans (State.afterB_keeps ..)

theorem State.runB_keeps (s : State) (r : RegionId) (i : Nat) (P : Plan) (l : Layer) (els : List Rng) : Keeps s (s.runB r i P l els) := by
  unfold State.runB
  dsimp only
  generalize s.updBad (dieOfRegion r) els = o
  cases o with
  | none => exact State.passDone_keeps r i l (State.passB_keeps ..)
  | some e => exact (Keeps.ite (.refl _) (State.passBElems_keeps ..)).trans (State.stopLayer_keeps ..)

theorem State.endB_keeps (s : State) (r : RegionId) : Keeps s (State.endB s r) := by
  unfold State.endB
  repeat' first
    | (with_reducible exact Keeps.refl _)
    | (with_reducible assumption)
    | (with_reducible apply Keeps.after (State.lendTake_keeps ..))
    | (with_reducible apply Keeps.after (State.updMap_keeps ..))
    | (with_reducible apply Keeps.after (State.stopLayer_keeps ..))
    | (with_reducible apply Keeps.after (State.updAsk_keeps ..))
    | (with_reducible apply Keeps.after (State.runB_keeps ..))
    | ((fail_if_no_progress extract_lets +onlyGivenNames x); first | (refine Keeps.cut x ?_ ?_; (on_goal 1 => unfold x); (on_goal 2 => (intro hx; clear_value x))) | clear_value x)
    | (with_reducible apply Keeps.ite)
    | (fail_if_no_progress (with_reducible apply Keeps.mk'))
    | split
    | (dsimp only)

theorem State.commit_keeps (s : State) : Keeps s (State.commit s) := by
  unfold State.commit
  repeat' first
    | (with_reducible exact Keeps.refl _)
    | (with_reducible assumption)
    | (with_reducible apply Keeps.after (State.wr_keeps ..))
    | (with_reducible apply Keeps.after (State.setFld_keeps ..))
    | (with_reducible apply Keeps.after (State.rplOrders_keeps ..))
    | (with_reducible apply Keeps.after (State.rplStep_keeps ..))
    | (with_reducible apply Keeps.after (State.boundary_keeps ..))
    | (with_reducible apply Keeps.after (State.stepEnd_keeps ..))
    | ((fail_if_no_progress extract_lets +onlyGivenNames x); first | (refine Keeps.cut x ?_ ?_; (on_goal 1 => unfold x); (on_goal 2 => (intro hx; clear_value x))) | clear_value x)
    | (with_reducible apply Keeps.ite)
    | split
    | (dsimp only)

theorem State.lateEnd_keeps (s : State) : Keeps s (State.lateEnd s) := by
  unfold State.lateEnd
  repeat' first
    | (with_reducible exact Keeps.refl _)
    | (with_reducible assumption)
    | (with_reducible apply Keeps.after (State.rplOrders_keeps ..))
    | (with_reducible apply Keeps.after (State.rplStep_keeps ..))
    | (with_reducible apply Keeps.after (State.abandonReds_keeps ..))
    | (with_reducible apply Keeps.after (State.stepEnd_keeps ..))
    | ((fail_if_no_progress extract_lets +onlyGivenNames x); first | (refine Keeps.cut x ?_ ?_; (on_goal 1 => unfold x); (on_goal 2 => (intro hx; clear_value x))) | clear_value x)
    | (dsimp only)

end Sys2Proof.Machine
end

