-- ==== Sys2Proof/Laws/KeepsTwin.lean ====
section
/-!
SUPPORT. Sys2Proof/Laws/KeepsTwin.lean: what the operations of Machine/Twin.lean keep of a state (`Keeps`).
-/
set_option linter.unusedTactic false
set_option linter.unreachableTactic false
namespace Sys2Proof.Machine

theorem State.setTwin_keeps (s : State) (v : Nat) : Keeps s (State.setTwin s v) := by
  unfold State.setTwin
  repeat' first
    | (with_reducible exact Keeps.refl _)
    | (with_reducible assumption)
    | (with_reducible apply Keeps.after (State.setFld_keeps ..))
    | (dsimp only)

theorem State.modTwn_keeps (s : State) (f : TwnSt → TwnSt) : Keeps s (State.modTwn s f) := by
  unfold State.modTwn
  repeat' first
    | (with_reducible exact Keeps.refl _)
    | (with_reducible assumption)
    | (fail_if_no_progress (with_reducible apply Keeps.mk'))
    | (dsimp only)

theorem State.twinOn_keeps (s : State) (port ty tag seg epoch flags : Nat) (data : List Byte) : Keeps s (State.twinOn s port ty tag seg epoch flags data) := by
  unfold State.twinOn
  repeat' first
    | (with_reducible exact Keeps.refl _)
    | (with_reducible assumption)
    | (with_reducible apply Keeps.after (State.sendOn_keeps ..))
    | (fail_if_no_progress (with_reducible apply Keeps.mk'))
    | (dsimp only)

theorem State.twinSend_keeps (s : State) (ty tag seg epoch flags : Nat) (data : List Byte) : Keeps s (State.twinSend s ty tag seg epoch flags data) := by
  unfold State.twinSend
  repeat' first
    | (with_reducible exact Keeps.refl _)
    | (with_reducible assumption)
    | (with_reducible apply Keeps.after (State.twinOn_keeps ..))
    | (dsimp only)

theorem State.twinCtrl_keeps (s : State) (tag epoch : Nat) (data : List Byte) : Keeps s (State.twinCtrl s tag epoch data) := by
  unfold State.twinCtrl
  repeat' first
    | (with_reducible exact Keeps.refl _)
    | (with_reducible assumption)
    | (with_reducible apply Keeps.after (State.twinSend_keeps ..))
    | (dsimp only)

theorem State.takeBytes_keeps (s : State) (n : Nat) : Keeps s (s.takeBytes n).2 :=
  ⟨rfl, rfl, Nat.le_add_right _ _, List.prefix_refl _, fun h => ⟨h.mem, h.poison, h.regs, h.cores, h.sorters, h.dies⟩⟩

theorem State.takeBytes_keepsOf {s : State} {n : Nat} {s0 t0 : State} {res0} (h : s.takeBytes n = (res0, t0)) (k : Keeps s0 s) :
    Keeps s0 t0 := by
  have q := State.takeBytes_keeps s n
  rw [h] at q
  exact k.trans q

theorem State.slotHeader_keeps (s : State) (i epoch st layers len : Nat) : Keeps s (State.slotHeader s i epoch st layers len) := by
  unfold State.slotHeader
  repeat' first
    | (with_reducible exact Keeps.refl _)
    | (with_reducible assumption)
    | (with_reducible apply Keeps.after (State.wrMem_keeps ..))
    | (dsimp only)

theorem State.sendImage_keeps (s : State) (i epoch : Nat) : Keeps s (State.sendImage s i epoch) := by
  unfold State.sendImage
  repeat' first
    | (with_reducible exact Keeps.refl _)
    | (with_reducible assumption)
    | (with_reducible apply Keeps.after (State.engTraffic_keeps ..))
    | (with_reducible apply Keeps.after (State.poisonUse_keeps ..))
    | (with_reducible apply Keeps.after (State.bump_keeps ..))
    | (with_reducible apply Keeps.after (State.twinOn_keeps ..))
    | (with_reducible apply Keeps.foldl)
    | (with_reducible apply Keeps.foldl_fst)
    | (with_reducible refine Keeps.foldl_of (by assumption) ?_ ?_)
    | (intro _ _; beta_reduce)
    | (intro _; beta_reduce)
    | (with_reducible apply KeepsO.getD)
    | (with_reducible apply Keeps.ite_fst)
    | ((fail_if_no_progress extract_lets +onlyGivenNames x); first | (refine Keeps.cut x ?_ ?_; (on_goal 1 => unfold x); (on_goal 2 => (intro hx; clear_value x))) | clear_value x)
    | (with_reducible apply Keeps.ite)
    | (fail_if_no_progress (with_reducible apply Keeps.mk'))
    | split
    | (fail_if_no_progress simp only [Prod.mk.injEq] at *)
    | (fail_if_no_progress (with_reducible obtain ⟨rfl, -⟩ := (show (_ : State) = _ ∧ _ from by assumption)))
    | (fail_if_no_progress (with_reducible apply Keeps.fst))
    | (dsimp only)

theorem State.mirrorGo_keeps (s : State) : Keeps s (State.mirrorGo s) := by
  unfold State.mirrorGo
  repeat' first
    | (with_reducible exact Keeps.refl _)
    | (with_reducible assumption)
    | (with_reducible apply Keeps.after (State.modTwn_keeps ..))
    | (with_reducible apply Keeps.after (State.sendImage_keeps ..))
    | (with_reducible apply Keeps.foldl)
    | (with_reducible apply Keeps.foldl_fst)
    | (with_reducible refine Keeps.foldl_of (by assumption) ?_ ?_)
    | (intro _ _; beta_reduce)
    | (intro _; beta_reduce)
    | (with_reducible apply Keeps.ite_fst)
    | ((fail_if_no_progress extract_lets +onlyGivenNames x); first | (refine Keeps.cut x ?_ ?_; (on_goal 1 => unfold x); (on_goal 2 => (intro hx; clear_value x))) | clear_value x)
    | (with_reducible apply Keeps.ite)
    | (fail_if_no_progress (with_reducible apply Keeps.mk'))
    | split
    | (fail_if_no_progress simp only [Prod.mk.injEq] at *)
    | (fail_if_no_progress (with_reducible obtain ⟨rfl, -⟩ := (show (_ : State) = _ ∧ _ from by assumption)))
    | (fail_if_no_progress (with_reducible apply Keeps.fst))
    | (dsimp only)

theorem State.mirrorStep_keeps (s : State) : Keeps s (State.mirrorStep s) := by
  unfold State.mirrorStep
  repeat' first
    | (with_reducible exact Keeps.refl _)
    | (with_reducible assumption)
    | (with_reducible apply Keeps.after (State.mirrorGo_keeps ..))
    | (with_reducible apply Keeps.after (State.modTwn_keeps ..))
    | (with_reducible apply Keeps.after (State.twinCtrl_keeps ..))
    | (with_reducible apply Keeps.ite)
    | (fail_if_no_progress (with_reducible apply Keeps.mk'))
    | split
    | (dsimp only)

theorem State.sendBond_keeps (s : State) (mirdig : BitVec 256) : Keeps s (State.sendBond s mirdig) := by
  unfold State.sendBond
  repeat' first
    | (with_reducible exact Keeps.refl _)
    | (with_reducible assumption)
    | (with_reducible apply Keeps.after (State.modTwn_keeps ..))
    | (with_reducible apply Keeps.after (State.twinSend_keeps ..))
    | (with_reducible apply Keeps.after (State.take_keeps ..))
    | (with_reducible refine State.take_keepsOf (by assumption) ?_)
    | (with_reducible apply Keeps.foldl)
    | (with_reducible apply Keeps.foldl_fst)
    | (with_reducible refine Keeps.foldl_of (by assumption) ?_ ?_)
    | (intro _ _; beta_reduce)
    | (intro _; beta_reduce)
    | (with_reducible apply Keeps.ite_fst)
    | ((fail_if_no_progress extract_lets +onlyGivenNames x); first | (refine Keeps.cut x ?_ ?_; (on_goal 1 => unfold x); (on_goal 2 => (intro hx; clear_value x))) | clear_value x)
    | (with_reducible apply Keeps.ite)
    | (fail_if_no_progress (with_reducible apply Keeps.mk'))
    | split
    | (fail_if_no_progress simp only [Prod.mk.injEq] at *)
    | (fail_if_no_progress (with_reducible obtain ⟨rfl, -⟩ := (show (_ : State) = _ ∧ _ from by assumption)))
    | (fail_if_no_progress (with_reducible apply Keeps.fst))
    | (dsimp only)

theorem State.endBond_keeps (s : State) (st : BitVec 8) (reason state : Nat) : Keeps s (State.endBond s st reason state) := by
  unfold State.endBond
  repeat' first
    | (with_reducible exact Keeps.refl _)
    | (with_reducible assumption)
    | (with_reducible apply Keeps.after (State.setFld_keeps ..))
    | (with_reducible apply Keeps.after (State.setTwin_keeps ..))
    | (with_reducible apply Keeps.after (State.modTwn_keeps ..))
    | (with_reducible apply Keeps.after (State.wr_keeps ..))
    | (with_reducible apply Keeps.after (State.finish_keeps ..))
    | ((fail_if_no_progress extract_lets +onlyGivenNames x); first | (refine Keeps.cut x ?_ ?_; (on_goal 1 => unfold x); (on_goal 2 => (intro hx; clear_value x))) | clear_value x)
    | (with_reducible apply Keeps.ite)
    | (fail_if_no_progress (with_reducible apply Keeps.mk'))
    | split
    | (dsimp only)

theorem State.bonded_keeps (s : State) : Keeps s (State.bonded s) := by
  unfold State.bonded
  repeat' first
    | (with_reducible exact Keeps.refl _)
    | (with_reducible assumption)
    | (with_reducible apply Keeps.after (State.setTwin_keeps ..))
    | (with_reducible apply Keeps.after (State.setFld_keeps ..))
    | (with_reducible apply Keeps.after (State.wr_keeps ..))
    | (with_reducible apply Keeps.after (State.bump_keeps ..))
    | (with_reducible apply Keeps.after (State.modTwn_keeps ..))
    | (with_reducible apply Keeps.after (State.finish_keeps ..))
    | ((fail_if_no_progress extract_lets +onlyGivenNames x); first | (refine Keeps.cut x ?_ ?_; (on_goal 1 => unfold x); (on_goal 2 => (intro hx; clear_value x))) | clear_value x)
    | (with_reducible apply Keeps.ite)
    | (fail_if_no_progress (with_reducible apply Keeps.mk'))
    | split
    | (dsimp only)

theorem State.fullMirrors_keeps (s : State) : Keeps s (State.fullMirrors s) := by
  unfold State.fullMirrors
  repeat' first
    | (with_reducible exact Keeps.refl _)
    | (with_reducible assumption)
    | (with_reducible apply Keeps.after (State.modTwn_keeps ..))
    | (with_reducible apply Keeps.after (State.mirrorGo_keeps ..))
    | ((fail_if_no_progress extract_lets +onlyGivenNames x); first | (refine Keeps.cut x ?_ ?_; (on_goal 1 => unfold x); (on_goal 2 => (intro hx; clear_value x))) | clear_value x)
    | (fail_if_no_progress (with_reducible apply Keeps.mk'))
    | (dsimp only)

theorem State.adoptTime_keeps (s : State) (me you : BondRec) (rtt : Nat) : Keeps s (State.adoptTime s me you rtt) := by
  unfold State.adoptTime
  repeat' first
    | (with_reducible exact Keeps.refl _)
    | (with_reducible assumption)
    | (with_reducible apply Keeps.after (State.wr_keeps ..))
    | (with_reducible apply Keeps.after (State.event_keeps ..))
    | ((fail_if_no_progress extract_lets +onlyGivenNames x); first | (refine Keeps.cut x ?_ ?_; (on_goal 1 => unfold x); (on_goal 2 => (intro hx; clear_value x))) | clear_value x)
    | (with_reducible apply Keeps.ite)
    | split
    | (dsimp only)

theorem State.sendState_keeps (s : State) (me you : BondRec) : Keeps s (State.sendState s me you) := by
  unfold State.sendState
  repeat' first
    | (with_reducible exact Keeps.refl _)
    | (with_reducible assumption)
    | (with_reducible apply Keeps.after (State.sendImage_keeps ..))
    | (with_reducible apply Keeps.after (State.bump_keeps ..))
    | (with_reducible apply Keeps.after (State.twinOn_keeps ..))
    | (with_reducible apply Keeps.foldl)
    | (with_reducible apply Keeps.foldl_fst)
    | (with_reducible refine Keeps.foldl_of (by assumption) ?_ ?_)
    | (intro _ _; beta_reduce)
    | (intro _; beta_reduce)
    | (with_reducible apply KeepsO.getD)
    | (with_reducible apply Keeps.ite_fst)
    | ((fail_if_no_progress extract_lets +onlyGivenNames x); first | (refine Keeps.cut x ?_ ?_; (on_goal 1 => unfold x); (on_goal 2 => (intro hx; clear_value x))) | clear_value x)
    | (with_reducible apply Keeps.ite)
    | (fail_if_no_progress (with_reducible apply Keeps.mk'))
    | split
    | (fail_if_no_progress simp only [Prod.mk.injEq] at *)
    | (fail_if_no_progress (with_reducible obtain ⟨rfl, -⟩ := (show (_ : State) = _ ∧ _ from by assumption)))
    | (fail_if_no_progress (with_reducible apply Keeps.fst))
    | (dsimp only)

theorem State.decided_keeps (s : State) : Keeps s (State.decided s) := by
  unfold State.decided
  repeat' first
    | (with_reducible exact Keeps.refl _)
    | (with_reducible assumption)
    | (with_reducible apply Keeps.after (State.endBond_keeps ..))
    | (with_reducible apply Keeps.after (State.bonded_keeps ..))
    | (with_reducible apply Keeps.after (State.fullMirrors_keeps ..))
    | (with_reducible apply Keeps.after (State.modTwn_keeps ..))
    | (with_reducible apply Keeps.after (State.sendState_keeps ..))
    | (with_reducible apply Keeps.after (State.wr_keeps ..))
    | ((fail_if_no_progress extract_lets +onlyGivenNames x); first | (refine Keeps.cut x ?_ ?_; (on_goal 1 => unfold x); (on_goal 2 => (intro hx; clear_value x))) | clear_value x)
    | (with_reducible apply Keeps.ite)
    | (fail_if_no_progress (with_reducible apply Keeps.mk'))
    | split
    | (dsimp only)

theorem State.judge_keeps (s : State) (rtt : Nat) : Keeps s (State.judge s rtt) := by
  unfold State.judge
  repeat' first
    | (with_reducible exact Keeps.refl _)
    | (with_reducible assumption)
    | (with_reducible apply Keeps.after (State.take_keeps ..))
    | (with_reducible refine State.take_keepsOf (by assumption) ?_)
    | (with_reducible apply Keeps.after (State.modTwn_keeps ..))
    | (with_reducible apply Keeps.after (State.twinCtrl_keeps ..))
    | (with_reducible apply Keeps.after (State.endBond_keeps ..))
    | (with_reducible apply Keeps.after (State.event_keeps ..))
    | (with_reducible apply Keeps.after (State.adoptTime_keeps ..))
    | (with_reducible apply Keeps.after (State.decided_keeps ..))
    | ((fail_if_no_progress extract_lets +onlyGivenNames x); first | (refine Keeps.cut x ?_ ?_; (on_goal 1 => unfold x); (on_goal 2 => (intro hx; clear_value x))) | clear_value x)
    | (with_reducible apply Keeps.ite)
    | (fail_if_no_progress (with_reducible apply Keeps.mk'))
    | split
    | (dsimp only)

theorem State.startBond_keeps (s : State) (b : BondSet) (id : Option Nat) (mirdig : BitVec 256) : Keeps s (State.startBond s b id mirdig) := by
  unfold State.startBond
  repeat' first
    | (with_reducible exact Keeps.refl _)
    | (with_reducible assumption)
    | (with_reducible apply Keeps.after (State.takeBytes_keeps ..))
    | (with_reducible refine State.takeBytes_keepsOf (by assumption) ?_)
    | (with_reducible apply Keeps.after (State.setLink_keeps ..))
    | (with_reducible apply Keeps.after (State.setTwin_keeps ..))
    | (with_reducible apply Keeps.after (State.modTwn_keeps ..))
    | (with_reducible apply Keeps.after (State.twinSend_keeps ..))
    | (with_reducible apply Keeps.after (State.sendBond_keeps ..))
    | (with_reducible apply Keeps.foldl)
    | (with_reducible apply Keeps.foldl_fst)
    | (with_reducible refine Keeps.foldl_of (by assumption) ?_ ?_)
    | (intro _ _; beta_reduce)
    | (intro _; beta_reduce)
    | (with_reducible apply Keeps.ite_fst)
    | ((fail_if_no_progress extract_lets +onlyGivenNames x); first | (refine Keeps.cut x ?_ ?_; (on_goal 1 => unfold x); (on_goal 2 => (intro hx; clear_value x))) | clear_value x)
    | (with_reducible apply Keeps.ite)
    | (fail_if_no_progress (with_reducible apply Keeps.mk'))
    | split
    | (fail_if_no_progress simp only [Prod.mk.injEq] at *)
    | (fail_if_no_progress (with_reducible obtain ⟨rfl, -⟩ := (show (_ : State) = _ ∧ _ from by assumption)))
    | (fail_if_no_progress (with_reducible apply Keeps.fst))
    | (dsimp only)

theorem State.solo_keeps (s : State) : Keeps s (State.solo s) := by
  unfold State.solo
  repeat' first
    | (with_reducible exact Keeps.refl _)
    | (with_reducible assumption)
    | (with_reducible apply Keeps.after (State.setTwin_keeps ..))
    | (with_reducible apply Keeps.after (State.wr_keeps ..))
    | (with_reducible apply Keeps.after (State.modTwn_keeps ..))
    | (with_reducible apply Keeps.after (State.finish_keeps ..))
    | ((fail_if_no_progress extract_lets +onlyGivenNames x); first | (refine Keeps.cut x ?_ ?_; (on_goal 1 => unfold x); (on_goal 2 => (intro hx; clear_value x))) | clear_value x)
    | (with_reducible apply Keeps.ite)
    | (fail_if_no_progress (with_reducible apply Keeps.mk'))
    | split
    | (dsimp only)

theorem State.partnerLost_keeps (s : State) : Keeps s (State.partnerLost s) := by
  unfold State.partnerLost
  repeat' first
    | (with_reducible exact Keeps.refl _)
    | (with_reducible assumption)
    | (with_reducible apply Keeps.after (State.solo_keeps ..))
    | (with_reducible apply Keeps.after (State.setFld_keeps ..))
    | (with_reducible apply Keeps.after (State.bump_keeps ..))
    | (with_reducible apply Keeps.after (State.event_keeps ..))
    | (with_reducible apply Keeps.after (State.endBond_keeps ..))
    | ((fail_if_no_progress extract_lets +onlyGivenNames x); first | (refine Keeps.cut x ?_ ?_; (on_goal 1 => unfold x); (on_goal 2 => (intro hx; clear_value x))) | clear_value x)
    | (with_reducible apply Keeps.ite)
    | (fail_if_no_progress (with_reducible apply Keeps.mk'))
    | split
    | (dsimp only)

theorem State.unbondGo_keeps (s : State) : Keeps s (State.unbondGo s) := by
  unfold State.unbondGo
  repeat' first
    | (with_reducible exact Keeps.refl _)
    | (with_reducible assumption)
    | (with_reducible apply Keeps.after (State.twinCtrl_keeps ..))
    | (with_reducible apply Keeps.after (State.solo_keeps ..))
    | (with_reducible apply Keeps.after (State.modTwn_keeps ..))
    | (with_reducible apply Keeps.ite)
    | (fail_if_no_progress (with_reducible apply Keeps.mk'))
    | split
    | (dsimp only)

theorem State.mirrorsDone_keeps (s : State) : Keeps s (State.mirrorsDone s) := by
  unfold State.mirrorsDone
  repeat' first
    | (with_reducible exact Keeps.refl _)
    | (with_reducible assumption)
    | (with_reducible apply Keeps.after (State.bonded_keeps ..))
    | (with_reducible apply Keeps.ite)
    | split
    | (dsimp only)

theorem State.takeState_keeps (s : State) (f : Frame) (you me : BondRec) : Keeps s (State.takeState s f you me) := by
  unfold State.takeState
  repeat' first
    | (with_reducible exact Keeps.refl _)
    | (with_reducible assumption)
    | (with_reducible apply Keeps.after (State.bump_keeps ..))
    | (with_reducible apply Keeps.after (State.engWrite_keeps ..))
    | (with_reducible apply Keeps.after (State.take_keeps ..))
    | (with_reducible refine State.take_keepsOf (by assumption) ?_)
    | (with_reducible apply Keeps.after (State.engTraffic_keeps ..))
    | (with_reducible apply Keeps.after (State.modTwn_keeps ..))
    | (with_reducible apply Keeps.after (State.wr_keeps ..))
    | (with_reducible apply Keeps.after (State.twinSend_keeps ..))
    | (with_reducible apply Keeps.after (State.bonded_keeps ..))
    | (with_reducible apply Keeps.after (State.fullMirrors_keeps ..))
    | ((fail_if_no_progress extract_lets +onlyGivenNames x); first | (refine Keeps.cut x ?_ ?_; (on_goal 1 => unfold x); (on_goal 2 => (intro hx; clear_value x))) | clear_value x)
    | (with_reducible apply Keeps.ite)
    | (fail_if_no_progress (with_reducible apply Keeps.mk'))
    | split
    | (dsimp only)

theorem State.takeMirror_keeps (s : State) (f : Frame) (off : Nat) (you : BondRec) : Keeps s (State.takeMirror s f off you) := by
  unfold State.takeMirror
  repeat' first
    | (with_reducible exact Keeps.refl _)
    | (with_reducible assumption)
    | (with_reducible apply Keeps.after (State.modTwn_keeps ..))
    | (with_reducible apply Keeps.after (State.slotHeader_keeps ..))
    | (with_reducible apply Keeps.after (State.bump_keeps ..))
    | (with_reducible apply Keeps.after (State.writeLines_keeps ..))
    | (with_reducible apply Keeps.after (State.twinSend_keeps ..))
    | (with_reducible apply Keeps.after (State.mirrorsDone_keeps ..))
    | ((fail_if_no_progress extract_lets +onlyGivenNames x); first | (refine Keeps.cut x ?_ ?_; (on_goal 1 => unfold x); (on_goal 2 => (intro hx; clear_value x))) | clear_value x)
    | (with_reducible apply Keeps.ite)
    | (fail_if_no_progress (with_reducible apply Keeps.mk'))
    | split
    | (dsimp only)

theorem State.twinInput_keeps (s : State) (port : Nat) (f : Frame) : Keeps s (State.twinInput s port f) := by
  unfold State.twinInput
  repeat' first
    | (with_reducible exact Keeps.refl _)
    | (with_reducible assumption)
    | (with_reducible apply Keeps.after (State.input_keeps ..))
    | (dsimp only)

theorem State.mirrorIn_keeps (s : State) (port : Nat) (f : Frame) (off : Nat) : Keeps s (State.mirrorIn s port f off) := by
  unfold State.mirrorIn
  repeat' first
    | (with_reducible exact Keeps.refl _)
    | (with_reducible assumption)
    | (with_reducible apply Keeps.after (State.twinInput_keeps ..))
    | (with_reducible apply Keeps.after (State.takeState_keeps ..))
    | (with_reducible apply Keeps.after (State.takeMirror_keeps ..))
    | ((fail_if_no_progress extract_lets +onlyGivenNames x); first | (refine Keeps.cut x ?_ ?_; (on_goal 1 => unfold x); (on_goal 2 => (intro hx; clear_value x))) | clear_value x)
    | (with_reducible apply Keeps.ite)
    | (fail_if_no_progress (with_reducible apply Keeps.mk'))
    | split
    | (dsimp only)

theorem State.mackIn_keeps (s : State) (f : Frame) : Keeps s (State.mackIn s f) := by
  unfold State.mackIn
  repeat' first
    | (with_reducible exact Keeps.refl _)
    | (with_reducible assumption)
    | (with_reducible apply Keeps.after (State.bonded_keeps ..))
    | (with_reducible apply Keeps.after (State.fullMirrors_keeps ..))
    | (with_reducible apply Keeps.after (State.modTwn_keeps ..))
    | (with_reducible apply Keeps.after (State.mirrorsDone_keeps ..))
    | (with_reducible apply Keeps.ite)
    | (fail_if_no_progress (with_reducible apply Keeps.mk'))
    | split
    | (dsimp only)

theorem State.mskipIn_keeps (s : State) (f : Frame) : Keeps s (State.mskipIn s f) := by
  unfold State.mskipIn
  repeat' first
    | (with_reducible exact Keeps.refl _)
    | (with_reducible assumption)
    | (with_reducible apply Keeps.after (State.wrMem_keeps ..))
    | (with_reducible apply Keeps.after (State.twinSend_keeps ..))
    | ((fail_if_no_progress extract_lets +onlyGivenNames x); first | (refine Keeps.cut x ?_ ?_; (on_goal 1 => unfold x); (on_goal 2 => (intro hx; clear_value x))) | clear_value x)
    | (with_reducible apply Keeps.ite)
    | (fail_if_no_progress (with_reducible apply Keeps.mk'))
    | split
    | (dsimp only)

end Sys2Proof.Machine
end

