-- ==== Sys2Proof/Laws/KeepsMbox.lean ====
section
/-!
SUPPORT. Sys2Proof/Laws/KeepsMbox.lean: what the operations of Machine/Mbox.lean keep of a state (`Keeps`).
-/
set_option linter.unusedTactic false
set_option linter.unreachableTactic false
namespace Sys2Proof.Machine

theorem State.ringFor_keeps (s : State) (h2f : Bool) (bits : Word) : Keeps s (State.ringFor s h2f bits) := by
  unfold State.ringFor
  repeat' first
    | (with_reducible exact Keeps.refl _)
    | (with_reducible assumption)
    | (with_reducible apply Keeps.after (State.fwDb_keeps ..))
    | (with_reducible apply Keeps.after (State.hostDb_keeps ..))
    | (with_reducible apply Keeps.ite)
    | split
    | (dsimp only)

theorem State.mbxResult_keeps (s : State) (h2f : Bool) (n r : Nat) : Keeps s (State.mbxResult s h2f n r) := by
  unfold State.mbxResult
  repeat' first
    | (with_reducible exact Keeps.refl _)
    | (with_reducible assumption)
    | (with_reducible apply Keeps.after (State.setFld_keeps ..))
    | (dsimp only)

theorem State.mbxReject_keeps (s : State) (host : Bool) (off : Nat) : Keeps s (State.mbxReject s host off) := by
  unfold State.mbxReject
  repeat' first
    | (with_reducible exact Keeps.refl _)
    | (with_reducible assumption)
    | (with_reducible apply Keeps.after (State.bump_keeps ..))
    | (with_reducible apply Keeps.after (State.emit_keeps ..))
    | ((fail_if_no_progress extract_lets +onlyGivenNames x); first | (refine Keeps.cut x ?_ ?_; (on_goal 1 => unfold x); (on_goal 2 => (intro hx; clear_value x))) | clear_value x)
    | (with_reducible apply Keeps.ite)
    | split
    | (dsimp only)

theorem State.mbxRing_keeps (s : State) (h2f : Bool) (db : Nat) : Keeps s (State.mbxRing s h2f db) := by
  unfold State.mbxRing
  repeat' first
    | (with_reducible exact Keeps.refl _)
    | (with_reducible assumption)
    | (with_reducible apply Keeps.after (State.setFld_keeps ..))
    | (with_reducible apply Keeps.after (State.ringFor_keeps ..))
    | (with_reducible apply Keeps.ite)
    | split
    | (dsimp only)

theorem State.mbxSendOp_keeps (s : State) (h2f : Bool) (n : Nat) (v : Word) : Keeps s (State.mbxSendOp s h2f n v) := by
  unfold State.mbxSendOp
  repeat' first
    | (with_reducible exact Keeps.refl _)
    | (with_reducible assumption)
    | (with_reducible apply Keeps.after (State.mbxResult_keeps ..))
    | (with_reducible apply Keeps.after (State.mbxReject_keeps ..))
    | (with_reducible apply Keeps.after (State.setFld_keeps ..))
    | (with_reducible apply Keeps.after (State.mbxRing_keeps ..))
    | ((fail_if_no_progress extract_lets +onlyGivenNames x); first | (refine Keeps.cut x ?_ ?_; (on_goal 1 => unfold x); (on_goal 2 => (intro hx; clear_value x))) | clear_value x)
    | (with_reducible apply Keeps.ite)
    | split
    | (dsimp only)

theorem State.mbxRelease_keeps (s : State) (h2f : Bool) (v : Word) : Keeps s (State.mbxRelease s h2f v) := by
  unfold State.mbxRelease
  repeat' first
    | (with_reducible exact Keeps.refl _)
    | (with_reducible assumption)
    | (with_reducible apply Keeps.after (State.setFld_keeps ..))
    | (with_reducible apply Keeps.after (State.mbxResult_keeps ..))
    | (with_reducible apply Keeps.after (State.mbxRing_keeps ..))
    | (with_reducible apply Keeps.foldl)
    | (with_reducible apply Keeps.foldl_fst)
    | (with_reducible refine Keeps.foldl_of (by assumption) ?_ ?_)
    | (intro _ _; beta_reduce)
    | (intro _; beta_reduce)
    | (with_reducible apply Keeps.ite_fst)
    | ((fail_if_no_progress extract_lets +onlyGivenNames x); first | (refine Keeps.cut x ?_ ?_; (on_goal 1 => unfold x); (on_goal 2 => (intro hx; clear_value x))) | clear_value x)
    | (with_reducible apply Keeps.ite)
    | split
    | (fail_if_no_progress simp only [Prod.mk.injEq] at *)
    | (fail_if_no_progress (with_reducible obtain ⟨rfl, -⟩ := (show (_ : State) = _ ∧ _ from by assumption)))
    | (fail_if_no_progress (with_reducible apply Keeps.fst))
    | (dsimp only)

theorem State.mbxWrite_keeps (s : State) (host : Bool) (off : Nat) (bs : List Byte) : Keeps s (State.mbxWrite s host off bs) := by
  unfold State.mbxWrite
  repeat' first
    | (with_reducible exact Keeps.refl _)
    | (with_reducible assumption)
    | (with_reducible apply Keeps.after (State.take_keeps ..))
    | (with_reducible refine State.take_keepsOf (by assumption) ?_)
    | (with_reducible apply Keeps.after (State.mbxResult_keeps ..))
    | (with_reducible apply Keeps.after (State.mbxReject_keeps ..))
    | (with_reducible apply Keeps.foldl)
    | (with_reducible apply Keeps.foldl_fst)
    | (with_reducible refine Keeps.foldl_of (by assumption) ?_ ?_)
    | (intro _ _; beta_reduce)
    | (intro _; beta_reduce)
    | (with_reducible apply Keeps.ite_fst)
    | ((fail_if_no_progress extract_lets +onlyGivenNames x); first | (refine Keeps.cut x ?_ ?_; (on_goal 1 => unfold x); (on_goal 2 => (intro hx; clear_value x))) | clear_value x)
    | (with_reducible apply Keeps.ite)
    | (fail_if_no_progress (with_reducible apply Keeps.mk'))
    | split
    | (fail_if_no_progress simp only [Prod.mk.injEq] at *)
    | (fail_if_no_progress (with_reducible obtain ⟨rfl, -⟩ := (show (_ : State) = _ ∧ _ from by assumption)))
    | (fail_if_no_progress (with_reducible apply Keeps.fst))
    | (dsimp only)

theorem State.mbxReset_keeps (s : State) (host : Bool) : Keeps s (State.mbxReset s host) := by
  unfold State.mbxReset
  repeat' first
    | (with_reducible exact Keeps.refl _)
    | (with_reducible assumption)
    | (with_reducible apply Keeps.after (State.mbxResult_keeps ..))
    | (with_reducible apply Keeps.after (State.bump_keeps ..))
    | (with_reducible apply Keeps.after (State.setFld_keeps ..))
    | (with_reducible apply Keeps.after (State.wr_keeps ..))
    | (with_reducible apply Keeps.after (State.fwDb_keeps ..))
    | (with_reducible apply Keeps.after (State.hostDb_keeps ..))
    | (with_reducible apply Keeps.foldl)
    | (with_reducible apply Keeps.foldl_fst)
    | (with_reducible refine Keeps.foldl_of (by assumption) ?_ ?_)
    | (intro _ _; beta_reduce)
    | (intro _; beta_reduce)
    | (with_reducible apply Keeps.ite_fst)
    | ((fail_if_no_progress extract_lets +onlyGivenNames x); first | (refine Keeps.cut x ?_ ?_; (on_goal 1 => unfold x); (on_goal 2 => (intro hx; clear_value x))) | clear_value x)
    | (with_reducible apply Keeps.ite)
    | (fail_if_no_progress (with_reducible apply Keeps.mk'))
    | split
    | (fail_if_no_progress simp only [Prod.mk.injEq] at *)
    | (fail_if_no_progress (with_reducible obtain ⟨rfl, -⟩ := (show (_ : State) = _ ∧ _ from by assumption)))
    | (fail_if_no_progress (with_reducible apply Keeps.fst))
    | (dsimp only)

theorem State.dbMask_keeps (s : State) (fw : Bool) (v : Word) : Keeps s (State.dbMask s fw v) := by
  unfold State.dbMask
  repeat' first
    | (with_reducible exact Keeps.refl _)
    | (with_reducible assumption)
    | (with_reducible apply Keeps.after (State.wr_keeps ..))
    | (with_reducible apply Keeps.after (State.emit_keeps ..))
    | (with_reducible apply Keeps.after (State.msix_keeps ..))
    | ((fail_if_no_progress extract_lets +onlyGivenNames x); first | (refine Keeps.cut x ?_ ?_; (on_goal 1 => unfold x); (on_goal 2 => (intro hx; clear_value x))) | clear_value x)
    | (with_reducible apply Keeps.ite)
    | split
    | (fail_if_no_progress simp only [Prod.mk.injEq] at *)
    | (fail_if_no_progress (with_reducible obtain ⟨rfl, -⟩ := (show (_ : State) = _ ∧ _ from by assumption)))
    | (dsimp only)

theorem State.fwReady_keeps (s : State) : Keeps s (State.fwReady s) := by
  unfold State.fwReady
  repeat' first
    | (with_reducible exact Keeps.refl _)
    | (with_reducible assumption)
    | (with_reducible apply Keeps.after (State.setFld_keeps ..))
    | (dsimp only)

theorem State.mbxCtl_keeps (s : State) (v : Word) : Keeps s (State.mbxCtl s v) := by
  unfold State.mbxCtl
  repeat' first
    | (with_reducible exact Keeps.refl _)
    | (with_reducible assumption)
    | (with_reducible apply Keeps.after (State.fwReady_keeps ..))
    | (with_reducible apply Keeps.after (State.clear_keeps ..))
    | ((fail_if_no_progress extract_lets +onlyGivenNames x); first | (refine Keeps.cut x ?_ ?_; (on_goal 1 => unfold x); (on_goal 2 => (intro hx; clear_value x))) | clear_value x)
    | (with_reducible apply Keeps.ite)
    | split
    | (dsimp only)

theorem State.mbxRegWrite_keeps (s : State) (host : Bool) (o : Nat) (v : Word) : Keeps s (State.mbxRegWrite s host o v) := by
  unfold State.mbxRegWrite
  repeat' first
    | (with_reducible exact Keeps.refl _)
    | (with_reducible assumption)
    | (with_reducible apply Keeps.after (State.mbxWrite_keeps ..))
    | (with_reducible apply Keeps.after (State.mbxSendOp_keeps ..))
    | (with_reducible apply Keeps.after (State.mbxRelease_keeps ..))
    | (with_reducible apply Keeps.after (State.wr_keeps ..))
    | (with_reducible apply Keeps.after (State.mbxCtl_keeps ..))
    | (with_reducible apply Keeps.after (State.dbMask_keeps ..))
    | (with_reducible apply Keeps.after (State.hostDb_keeps ..))
    | (with_reducible apply Keeps.after (State.fwDb_keeps ..))
    | (with_reducible apply Keeps.ite)
    | (fail_if_no_progress (with_reducible apply Keeps.mk'))
    | split
    | (dsimp only)

theorem execMbxDataWrite_keeps (host : Bool) (off : BitVec 13) (data : List Byte) (s : State) : KeepsX s (execMbxDataWrite host off data s) := by
  unfold execMbxDataWrite
  repeat' first
    | (with_reducible exact Keeps.refl _)
    | (with_reducible assumption)
    | (with_reducible apply Keeps.after (State.mbxWrite_keeps ..))
    | (with_reducible apply KeepsX.next)
    | (dsimp only)

theorem execMbxH2fSend_keeps (host : Bool) (n : BitVec 4) (v : Word) (s : State) : KeepsX s (execMbxH2fSend host n v s) := by
  unfold execMbxH2fSend
  repeat' first
    | (with_reducible exact Keeps.refl _)
    | (with_reducible assumption)
    | (with_reducible apply Keeps.after (State.mbxSendOp_keeps ..))
    | (with_reducible apply KeepsX.next)
    | (with_reducible apply Keeps.ite)
    | split
    | (dsimp only)

theorem execMbxF2hSend_keeps (host : Bool) (n : BitVec 4) (v : Word) (s : State) : KeepsX s (execMbxF2hSend host n v s) := by
  unfold execMbxF2hSend
  repeat' first
    | (with_reducible exact Keeps.refl _)
    | (with_reducible assumption)
    | (with_reducible apply Keeps.after (State.mbxSendOp_keeps ..))
    | (with_reducible apply KeepsX.next)
    | (with_reducible apply Keeps.ite)
    | split
    | (dsimp only)

theorem execMbxH2fRelease_keeps (host : Bool) (v : Word) (s : State) : KeepsX s (execMbxH2fRelease host v s) := by
  unfold execMbxH2fRelease
  repeat' first
    | (with_reducible exact Keeps.refl _)
    | (with_reducible assumption)
    | (with_reducible apply Keeps.after (State.mbxRelease_keeps ..))
    | (with_reducible apply KeepsX.next)
    | (with_reducible apply Keeps.ite)
    | split
    | (dsimp only)

theorem execMbxF2hRelease_keeps (host : Bool) (v : Word) (s : State) : KeepsX s (execMbxF2hRelease host v s) := by
  unfold execMbxF2hRelease
  repeat' first
    | (with_reducible exact Keeps.refl _)
    | (with_reducible assumption)
    | (with_reducible apply Keeps.after (State.mbxRelease_keeps ..))
    | (with_reducible apply KeepsX.next)
    | (with_reducible apply Keeps.ite)
    | split
    | (dsimp only)

theorem execFwReady_keeps (host : Bool) (s : State) : KeepsX s (execFwReady host s) := by
  unfold execFwReady
  repeat' first
    | (with_reducible exact Keeps.refl _)
    | (with_reducible assumption)
    | (with_reducible apply Keeps.after (State.fwReady_keeps ..))
    | (with_reducible apply KeepsX.next)
    | (with_reducible apply Keeps.ite)
    | split
    | (dsimp only)

theorem execMbxCntClr_keeps (host : Bool) (s : State) : KeepsX s (execMbxCntClr host s) := by
  unfold execMbxCntClr
  repeat' first
    | (with_reducible exact Keeps.refl _)
    | (with_reducible assumption)
    | (with_reducible apply Keeps.after (State.clear_keeps ..))
    | (with_reducible apply KeepsX.next)
    | (with_reducible apply Keeps.ite)
    | split
    | (dsimp only)

theorem execMbxHostDbSet_keeps (host : Bool) (v : Word) (s : State) : KeepsX s (execMbxHostDbSet host v s) := by
  unfold execMbxHostDbSet
  repeat' first
    | (with_reducible exact Keeps.refl _)
    | (with_reducible assumption)
    | (with_reducible apply Keeps.after (State.hostDb_keeps ..))
    | (with_reducible apply KeepsX.next)
    | (with_reducible apply Keeps.ite)
    | split
    | (dsimp only)

theorem execMbxFwDbSet_keeps (host : Bool) (v : Word) (s : State) : KeepsX s (execMbxFwDbSet host v s) := by
  unfold execMbxFwDbSet
  repeat' first
    | (with_reducible exact Keeps.refl _)
    | (with_reducible assumption)
    | (with_reducible apply Keeps.after (State.fwDb_keeps ..))
    | (with_reducible apply KeepsX.next)
    | (with_reducible apply Keeps.ite)
    | split
    | (dsimp only)

theorem execDbMaskWrite_keeps (host : Bool) (fw : Bool) (v : Word) (s : State) : KeepsX s (execDbMaskWrite host fw v s) := by
  unfold execDbMaskWrite
  repeat' first
    | (with_reducible exact Keeps.refl _)
    | (with_reducible assumption)
    | (with_reducible apply Keeps.after (State.dbMask_keeps ..))
    | (with_reducible apply KeepsX.next)
    | (with_reducible apply Keeps.ite)
    | split
    | (dsimp only)

end Sys2Proof.Machine
end

