-- ==== Sys2Proof/Laws/KeepsBarriers.lean ====
section
/-!
SUPPORT. Sys2Proof/Laws/KeepsBarriers.lean: what the operations of Machine/Barriers.lean keep of a state (`Keeps`).
-/
set_option linter.unusedTactic false
set_option linter.unreachableTactic false
namespace Sys2Proof.Machine

theorem State.setSysBar_keeps (s : State) (n : BitVec 6) (x : SysBar) : Keeps s (State.setSysBar s n x) := by
  unfold State.setSysBar
  repeat' first
    | (with_reducible exact Keeps.refl _)
    | (with_reducible assumption)
    | (fail_if_no_progress (with_reducible apply Keeps.mk'))
    | (dsimp only)

theorem State.barLatch_keeps (s : State) (c : CoreId) (n : BitVec 6) : Keeps s (State.barLatch s c n) := by
  unfold State.barLatch
  repeat' first
    | (with_reducible exact Keeps.refl _)
    | (with_reducible assumption)
    | (with_reducible apply Keeps.after (State.setCore_keeps ..))
    | (with_reducible apply Keeps.after (State.bump_keeps ..))
    | (with_reducible apply Keeps.after (State.unwait_keeps ..))
    | ((fail_if_no_progress extract_lets +onlyGivenNames x); first | (refine Keeps.cut x ?_ ?_; (on_goal 1 => unfold x); (on_goal 2 => (intro hx; clear_value x))) | clear_value x)
    | (with_reducible apply Keeps.ite)
    | (fail_if_no_progress (with_reducible apply Keeps.mk'))
    | split
    | (dsimp only)

theorem State.barAnswer_keeps (s : State) (n : BitVec 6) (id : Nat) : Keeps s (State.barAnswer s n id) := by
  unfold State.barAnswer
  repeat' first
    | (with_reducible exact Keeps.refl _)
    | (with_reducible assumption)
    | (with_reducible apply Keeps.after (State.finish_keeps ..))
    | (with_reducible apply Keeps.ite)
    | split
    | (dsimp only)

theorem State.barComplete_keeps (s : State) (ds : List DieId) (n : BitVec 6) : Keeps s (State.barComplete s ds n) := by
  unfold State.barComplete
  repeat' first
    | (with_reducible exact Keeps.refl _)
    | (with_reducible assumption)
    | (with_reducible apply Keeps.after (State.barLatch_keeps ..))
    | (with_reducible apply Keeps.after (State.setBar_keeps ..))
    | (with_reducible apply Keeps.after (State.setFld_keeps ..))
    | (with_reducible apply Keeps.after (State.setSysBar_keeps ..))
    | (with_reducible apply Keeps.after (State.barAnswer_keeps ..))
    | (with_reducible apply Keeps.foldl)
    | (with_reducible apply Keeps.foldl_fst)
    | (with_reducible refine Keeps.foldl_of (by assumption) ?_ ?_)
    | (intro _ _; beta_reduce)
    | (intro _; beta_reduce)
    | (with_reducible apply Keeps.ite_fst)
    | ((fail_if_no_progress extract_lets +onlyGivenNames x); first | (refine Keeps.cut x ?_ ?_; (on_goal 1 => unfold x); (on_goal 2 => (intro hx; clear_value x))) | clear_value x)
    | (with_reducible apply Keeps.ite)
    | split
    | (fail_if_no_progress simp only [Prod.mk.injEq] at *)
    | (fail_if_no_progress (with_reducible obtain ⟨rfl, -⟩ := (show (_ : State) = _ ∧ _ from by assumption)))
    | (fail_if_no_progress (with_reducible apply Keeps.fst))
    | (dsimp only)

theorem State.barSend_keeps (s : State) (n : BitVec 6) (e g : Nat) (G : GroupSt) : Keeps s (State.barSend s n e g G) := by
  unfold State.barSend
  repeat' first
    | (with_reducible exact Keeps.refl _)
    | (with_reducible assumption)
    | (with_reducible apply Keeps.after (State.sendOn_keeps ..))
    | (with_reducible apply Keeps.foldl)
    | (with_reducible apply Keeps.foldl_fst)
    | (with_reducible refine Keeps.foldl_of (by assumption) ?_ ?_)
    | (intro _ _; beta_reduce)
    | (intro _; beta_reduce)
    | (with_reducible apply KeepsO.getD)
    | (with_reducible apply Keeps.ite_fst)
    | ((fail_if_no_progress extract_lets +onlyGivenNames x); first | (refine Keeps.cut x ?_ ?_; (on_goal 1 => unfold x); (on_goal 2 => (intro hx; clear_value x))) | clear_value x)
    | (with_reducible apply Keeps.ite)
    | split
    | (fail_if_no_progress simp only [Prod.mk.injEq] at *)
    | (fail_if_no_progress (with_reducible obtain ⟨rfl, -⟩ := (show (_ : State) = _ ∧ _ from by assumption)))
    | (fail_if_no_progress (with_reducible apply Keeps.fst))
    | (dsimp only)

theorem State.barSystem_keeps (s : State) (n : BitVec 6) : Keeps s (State.barSystem s n) := by
  unfold State.barSystem
  repeat' first
    | (with_reducible exact Keeps.refl _)
    | (with_reducible assumption)
    | (with_reducible apply Keeps.after (State.bump_keeps ..))
    | (with_reducible apply Keeps.after (State.barComplete_keeps ..))
    | (with_reducible apply Keeps.after (State.setSysBar_keeps ..))
    | (with_reducible apply Keeps.after (State.sendOn_keeps ..))
    | (with_reducible apply Keeps.after (State.barSend_keeps ..))
    | ((fail_if_no_progress extract_lets +onlyGivenNames x); first | (refine Keeps.cut x ?_ ?_; (on_goal 1 => unfold x); (on_goal 2 => (intro hx; clear_value x))) | clear_value x)
    | (with_reducible apply Keeps.ite)
    | (fail_if_no_progress (with_reducible apply Keeps.mk'))
    | split
    | (dsimp only)

theorem State.barTry_keeps (s : State) (d : DieId) (n : BitVec 6) : Keeps s (State.barTry s d n) := by
  unfold State.barTry
  repeat' first
    | (with_reducible exact Keeps.refl _)
    | (with_reducible assumption)
    | (with_reducible apply Keeps.after (State.barComplete_keeps ..))
    | (with_reducible apply Keeps.after (State.barSystem_keeps ..))
    | (with_reducible apply Keeps.ite)
    | (fail_if_no_progress (with_reducible apply Keeps.mk'))
    | split
    | (dsimp only)

theorem State.barGot_keeps (s : State) (line g rank e : Nat) : Keeps s (State.barGot s line g rank e) := by
  unfold State.barGot
  repeat' first
    | (with_reducible exact Keeps.refl _)
    | (with_reducible assumption)
    | (with_reducible apply Keeps.after (State.setSysBar_keeps ..))
    | ((fail_if_no_progress extract_lets +onlyGivenNames x); first | (refine Keeps.cut x ?_ ?_; (on_goal 1 => unfold x); (on_goal 2 => (intro hx; clear_value x))) | clear_value x)
    | (with_reducible apply Keeps.ite)
    | (fail_if_no_progress (with_reducible apply Keeps.mk'))
    | split
    | (dsimp only)

theorem State.barMaskWrite_keeps (s : State) (d : DieId) (n : BitVec 6) (w : Nat) (v : Word) : Keeps s (State.barMaskWrite s d n w v) := by
  unfold State.barMaskWrite
  repeat' first
    | (with_reducible exact Keeps.refl _)
    | (with_reducible assumption)
    | (with_reducible apply Keeps.after (State.wr_keeps ..))
    | (with_reducible apply Keeps.after (State.barTry_keeps ..))
    | ((fail_if_no_progress extract_lets +onlyGivenNames x); first | (refine Keeps.cut x ?_ ?_; (on_goal 1 => unfold x); (on_goal 2 => (intro hx; clear_value x))) | clear_value x)
    | (dsimp only)

theorem State.barCfgWrite_keeps (s : State) (d : DieId) (n : BitVec 6) (v : Word) : Keeps s (State.barCfgWrite s d n v) := by
  unfold State.barCfgWrite
  repeat' first
    | (with_reducible exact Keeps.refl _)
    | (with_reducible assumption)
    | (with_reducible apply Keeps.after (State.plainWrite_keeps ..))
    | (with_reducible apply Keeps.after (State.barTry_keeps ..))
    | ((fail_if_no_progress extract_lets +onlyGivenNames x); first | (refine Keeps.cut x ?_ ?_; (on_goal 1 => unfold x); (on_goal 2 => (intro hx; clear_value x))) | clear_value x)
    | (with_reducible apply Keeps.ite)
    | split
    | (dsimp only)

theorem execBarMaskWrite_keeps (d : DieId) (n : BitVec 6) (w : BitVec 2) (v : Word) (s : State) : KeepsX s (execBarMaskWrite d n w v s) := by
  unfold execBarMaskWrite
  repeat' first
    | (with_reducible exact Keeps.refl _)
    | (with_reducible assumption)
    | (with_reducible apply Keeps.after (State.barMaskWrite_keeps ..))
    | (with_reducible apply KeepsX.next)
    | (dsimp only)

theorem execSynBarCfgWrite_keeps (d : DieId) (n : BitVec 6) (v : Word) (s : State) : KeepsX s (execSynBarCfgWrite d n v s) := by
  unfold execSynBarCfgWrite
  repeat' first
    | (with_reducible exact Keeps.refl _)
    | (with_reducible assumption)
    | (with_reducible apply Keeps.after (State.barCfgWrite_keeps ..))
    | (with_reducible apply KeepsX.next)
    | (dsimp only)

theorem execBarrierLineComplete_keeps (d : DieId) (n : BitVec 6) (s : State) : KeepsX s (execBarrierLineComplete d n s) := by
  unfold execBarrierLineComplete
  repeat' first
    | (with_reducible exact Keeps.refl _)
    | (with_reducible assumption)
    | (with_reducible apply Keeps.after (State.barTry_keeps ..))
    | (with_reducible apply KeepsX.next)
    | (dsimp only)

end Sys2Proof.Machine
end

