-- ==== Sys2Proof/Laws/KeepsFabCmds.lean ====
section
/-!
SUPPORT. Sys2Proof/Laws/KeepsFabCmds.lean: what the operations of Machine/FabCmds.lean keep of a state (`Keeps`).
-/
set_option linter.unusedTactic false
set_option linter.unreachableTactic false
namespace Sys2Proof.Machine

theorem State.reply_keeps (s : State) (x : CmdRec) (st : BitVec 8) : Keeps s (State.reply s x st) := by
  unfold State.reply
  repeat' first
    | (with_reducible exact Keeps.refl _)
    | (with_reducible assumption)
    | (with_reducible apply Keeps.after (State.finish_keeps ..))
    | (dsimp only)

theorem State.closePath_keeps (s : State) (p : PathSt) : Keeps s (State.closePath s p) := by
  unfold State.closePath
  repeat' first
    | (with_reducible exact Keeps.refl _)
    | (with_reducible assumption)
    | (with_reducible apply Keeps.after (State.setPath_keeps ..))
    | (fail_if_no_progress (with_reducible apply Keeps.mk'))
    | (dsimp only)

theorem State.closePort_keeps (s : State) (port : Nat) : Keeps s (State.closePort s port) := by
  unfold State.closePort
  repeat' first
    | (with_reducible exact Keeps.refl _)
    | (with_reducible assumption)
    | (with_reducible apply Keeps.after (State.closePath_keeps ..))
    | (with_reducible apply Keeps.foldl)
    | (with_reducible apply Keeps.foldl_fst)
    | (with_reducible refine Keeps.foldl_of (by assumption) ?_ ?_)
    | (intro _ _; beta_reduce)
    | (intro _; beta_reduce)
    | (with_reducible apply Keeps.ite_fst)
    | (with_reducible apply Keeps.ite)
    | split
    | (fail_if_no_progress simp only [Prod.mk.injEq] at *)
    | (fail_if_no_progress (with_reducible obtain ⟨rfl, -⟩ := (show (_ : State) = _ ∧ _ from by assumption)))
    | (fail_if_no_progress (with_reducible apply Keeps.fst))
    | (dsimp only)

theorem State.pumpPort_keeps (s : State) (port : Nat) : Keeps s (State.pumpPort s port) := by
  unfold State.pumpPort
  repeat' first
    | (with_reducible exact Keeps.refl _)
    | (with_reducible assumption)
    | (with_reducible apply Keeps.after (State.pumpPath_keeps ..))
    | (with_reducible apply Keeps.foldl)
    | (with_reducible apply Keeps.foldl_fst)
    | (with_reducible refine Keeps.foldl_of (by assumption) ?_ ?_)
    | (intro _ _; beta_reduce)
    | (intro _; beta_reduce)
    | (with_reducible apply Keeps.ite_fst)
    | (with_reducible apply Keeps.ite)
    | split
    | (fail_if_no_progress simp only [Prod.mk.injEq] at *)
    | (fail_if_no_progress (with_reducible obtain ⟨rfl, -⟩ := (show (_ : State) = _ ∧ _ from by assumption)))
    | (fail_if_no_progress (with_reducible apply Keeps.fst))
    | (dsimp only)

theorem State.trainingDone_keeps (s : State) (id : Nat) : Keeps s (State.trainingDone s id) := by
  unfold State.trainingDone
  repeat' first
    | (with_reducible exact Keeps.refl _)
    | (with_reducible assumption)
    | (with_reducible apply Keeps.after (State.finish_keeps ..))
    | ((fail_if_no_progress extract_lets +onlyGivenNames x); first | (refine Keeps.cut x ?_ ?_; (on_goal 1 => unfold x); (on_goal 2 => (intro hx; clear_value x))) | clear_value x)
    | (with_reducible apply Keeps.ite)
    | (fail_if_no_progress (with_reducible apply Keeps.mk'))
    | split
    | (dsimp only)

theorem State.opFabPortSet_keeps (s : State) (x : CmdRec) : Keeps s (State.opFabPortSet s x) := by
  unfold State.opFabPortSet
  repeat' first
    | (with_reducible exact Keeps.refl _)
    | (with_reducible assumption)
    | (with_reducible apply Keeps.after (State.clampTo_keeps ..))
    | (with_reducible refine State.clampTo_keepsOf (by assumption) ?_)
    | (with_reducible apply Keeps.after (State.wr_keeps ..))
    | (with_reducible apply Keeps.after (State.setLink_keeps ..))
    | (with_reducible apply Keeps.after (State.trainingDone_keeps ..))
    | (with_reducible apply Keeps.foldl)
    | (with_reducible apply Keeps.foldl_fst)
    | (with_reducible refine Keeps.foldl_of (by assumption) ?_ ?_)
    | (intro _ _; beta_reduce)
    | (intro _; beta_reduce)
    | (with_reducible apply Keeps.ite_fst)
    | ((fail_if_no_progress extract_lets +onlyGivenNames x); first | (refine Keeps.cut x ?_ ?_; (on_goal 1 => unfold x); (on_goal 2 => (intro hx; clear_value x))) | clear_value x)
    | (with_reducible apply Keeps.ite)
    | (fail_if_no_progress (with_reducible apply Keeps.mk'))
    | split
    | (fail_if_no_progress simp only [Prod.mk.injEq] at *)
    | (fail_if_no_progress (with_reducible obtain ⟨rfl, -⟩ := (show (_ : State) = _ ∧ _ from by assumption)))
    | (fail_if_no_progress (with_reducible apply Keeps.fst))
    | (dsimp only)

theorem State.unpause_keeps (s : State) (port : Nat) : Keeps s (State.unpause s port) := by
  unfold State.unpause
  repeat' first
    | (with_reducible exact Keeps.refl _)
    | (with_reducible assumption)
    | (fail_if_no_progress (with_reducible apply Keeps.mk'))
    | (dsimp only)

theorem State.portTrained_keeps (s : State) (port : Nat) (ok : Bool) : Keeps s (State.portTrained s port ok) := by
  unfold State.portTrained
  repeat' first
    | (with_reducible exact Keeps.refl _)
    | (with_reducible assumption)
    | (with_reducible apply Keeps.after (State.setLink_keeps ..))
    | (with_reducible apply Keeps.after (State.setFld_keeps ..))
    | (with_reducible apply Keeps.after (State.unpause_keeps ..))
    | (with_reducible apply Keeps.after (State.closePort_keeps ..))
    | (with_reducible apply Keeps.after (State.pumpPort_keeps ..))
    | (with_reducible apply Keeps.after (State.rescueAll_keeps ..))
    | (with_reducible apply Keeps.after (State.trainingDone_keeps ..))
    | (with_reducible apply Keeps.foldl)
    | (with_reducible apply Keeps.foldl_fst)
    | (with_reducible refine Keeps.foldl_of (by assumption) ?_ ?_)
    | (intro _ _; beta_reduce)
    | (intro _; beta_reduce)
    | (with_reducible apply Keeps.ite_fst)
    | ((fail_if_no_progress extract_lets +onlyGivenNames x); first | (refine Keeps.cut x ?_ ?_; (on_goal 1 => unfold x); (on_goal 2 => (intro hx; clear_value x))) | clear_value x)
    | (with_reducible apply Keeps.ite)
    | (fail_if_no_progress (with_reducible apply Keeps.mk'))
    | split
    | (fail_if_no_progress simp only [Prod.mk.injEq] at *)
    | (fail_if_no_progress (with_reducible obtain ⟨rfl, -⟩ := (show (_ : State) = _ ∧ _ from by assumption)))
    | (fail_if_no_progress (with_reducible apply Keeps.fst))
    | (dsimp only)

theorem State.opFabPortStatus_keeps (s : State) (x : CmdRec) : Keeps s (State.opFabPortStatus s x) := by
  unfold State.opFabPortStatus
  repeat' first
    | (with_reducible exact Keeps.refl _)
    | (with_reducible assumption)
    | (with_reducible apply Keeps.after (State.finish_keeps ..))
    | (dsimp only)

theorem State.deadlines_keeps (s : State) (x : CmdRec) (op off : Nat) : Keeps s (State.deadlines s x op off).1 := by
  rw [State.deadlines]
  repeat' first
    | (with_reducible exact Keeps.refl _)
    | (with_reducible assumption)
    | (with_reducible apply Keeps.after (State.clampTo_keeps ..))
    | (with_reducible refine State.clampTo_keepsOf (by assumption) ?_)
    | (with_reducible apply Keeps.ite_fst)
    | ((fail_if_no_progress extract_lets +onlyGivenNames x); first | (refine Keeps.cut x ?_ ?_; (on_goal 1 => unfold x); (on_goal 2 => (intro hx; clear_value x))) | clear_value x)
    | (with_reducible apply Keeps.ite)
    | split
    | (fail_if_no_progress simp only [Prod.mk.injEq] at *)
    | (fail_if_no_progress (with_reducible obtain ⟨rfl, -⟩ := (show (_ : State) = _ ∧ _ from by assumption)))
    | (fail_if_no_progress (with_reducible apply Keeps.fst))
    | (dsimp only)


theorem State.deadlines_keepsOf {s : State} {x : CmdRec} {op off : Nat} {s0 st1 : State} {res1} (h0 : State.deadlines s x op off = (st1, res1)) (k0 : Keeps s0 s) : Keeps s0 st1 := by
  have q := State.deadlines_keeps s x op off
  rw [h0] at q
  exact k0.trans q

theorem State.opGroupSet_keeps (s : State) (x : CmdRec) : Keeps s (State.opGroupSet s x) := by
  unfold State.opGroupSet
  repeat' first
    | (with_reducible exact Keeps.refl _)
    | (with_reducible assumption)
    | (with_reducible apply Keeps.after (State.reply_keeps ..))
    | (with_reducible apply Keeps.after (State.take_keeps ..))
    | (with_reducible refine State.take_keepsOf (by assumption) ?_)
    | (with_reducible apply Keeps.after (State.clampTo_keeps ..))
    | (with_reducible refine State.clampTo_keepsOf (by assumption) ?_)
    | (with_reducible apply Keeps.after (State.deadlines_keeps ..))
    | (with_reducible refine State.deadlines_keepsOf (by assumption) ?_)
    | (with_reducible apply Keeps.after (State.finish_keeps ..))
    | ((fail_if_no_progress extract_lets +onlyGivenNames x); first | (refine Keeps.cut x ?_ ?_; (on_goal 1 => unfold x); (on_goal 2 => (intro hx; clear_value x))) | clear_value x)
    | (with_reducible apply Keeps.ite)
    | (fail_if_no_progress (with_reducible apply Keeps.mk'))
    | split
    | (fail_if_no_progress simp only [Prod.mk.injEq] at *)
    | (fail_if_no_progress (with_reducible obtain ⟨rfl, -⟩ := (show (_ : State) = _ ∧ _ from by assumption)))
    | (dsimp only)

theorem State.opChanSet_keeps (s : State) (x : CmdRec) : Keeps s (State.opChanSet s x) := by
  unfold State.opChanSet
  repeat' first
    | (with_reducible exact Keeps.refl _)
    | (with_reducible assumption)
    | (with_reducible apply Keeps.after (State.reply_keeps ..))
    | (with_reducible apply Keeps.after (State.clamp_keeps ..))
    | (with_reducible apply Keeps.after (State.clampTo_keeps ..))
    | (with_reducible refine State.clampTo_keepsOf (by assumption) ?_)
    | (with_reducible apply Keeps.after (State.setChan_keeps ..))
    | (with_reducible apply Keeps.after (State.finish_keeps ..))
    | ((fail_if_no_progress extract_lets +onlyGivenNames x); first | (refine Keeps.cut x ?_ ?_; (on_goal 1 => unfold x); (on_goal 2 => (intro hx; clear_value x))) | clear_value x)
    | (with_reducible apply Keeps.ite)
    | (fail_if_no_progress (with_reducible apply Keeps.mk'))
    | split
    | (fail_if_no_progress simp only [Prod.mk.injEq] at *)
    | (fail_if_no_progress (with_reducible obtain ⟨rfl, -⟩ := (show (_ : State) = _ ∧ _ from by assumption)))
    | (dsimp only)

theorem State.opShardSet_keeps (s : State) (x : CmdRec) : Keeps s (State.opShardSet s x) := by
  unfold State.opShardSet
  repeat' first
    | (with_reducible exact Keeps.refl _)
    | (with_reducible assumption)
    | (with_reducible apply Keeps.after (State.reply_keeps ..))
    | (with_reducible apply Keeps.after (State.take_keeps ..))
    | (with_reducible refine State.take_keepsOf (by assumption) ?_)
    | (with_reducible apply Keeps.after (State.clampTo_keeps ..))
    | (with_reducible refine State.clampTo_keepsOf (by assumption) ?_)
    | (with_reducible apply Keeps.after (State.clamps_keeps ..))
    | ((fail_if_no_progress extract_lets +onlyGivenNames x); first | (refine Keeps.cut x ?_ ?_; (on_goal 1 => unfold x); (on_goal 2 => (intro hx; clear_value x))) | clear_value x)
    | (with_reducible apply Keeps.ite)
    | (fail_if_no_progress (with_reducible apply Keeps.mk'))
    | split
    | (fail_if_no_progress simp only [Prod.mk.injEq] at *)
    | (fail_if_no_progress (with_reducible obtain ⟨rfl, -⟩ := (show (_ : State) = _ ∧ _ from by assumption)))
    | (dsimp only)

theorem State.opDeadlineSet_keeps (s : State) (x : CmdRec) : Keeps s (State.opDeadlineSet s x) := by
  unfold State.opDeadlineSet
  repeat' first
    | (with_reducible exact Keeps.refl _)
    | (with_reducible assumption)
    | (with_reducible apply Keeps.after (State.reply_keeps ..))
    | (with_reducible apply Keeps.after (State.deadlines_keeps ..))
    | (with_reducible refine State.deadlines_keepsOf (by assumption) ?_)
    | ((fail_if_no_progress extract_lets +onlyGivenNames x); first | (refine Keeps.cut x ?_ ?_; (on_goal 1 => unfold x); (on_goal 2 => (intro hx; clear_value x))) | clear_value x)
    | (with_reducible apply Keeps.ite)
    | (fail_if_no_progress (with_reducible apply Keeps.mk'))
    | split
    | (fail_if_no_progress simp only [Prod.mk.injEq] at *)
    | (fail_if_no_progress (with_reducible obtain ⟨rfl, -⟩ := (show (_ : State) = _ ∧ _ from by assumption)))
    | (dsimp only)

theorem State.opGroupClear_keeps (s : State) (x : CmdRec) : Keeps s (State.opGroupClear s x) := by
  unfold State.opGroupClear
  repeat' first
    | (with_reducible exact Keeps.refl _)
    | (with_reducible assumption)
    | (with_reducible apply Keeps.after (State.reply_keeps ..))
    | ((fail_if_no_progress extract_lets +onlyGivenNames x); first | (refine Keeps.cut x ?_ ?_; (on_goal 1 => unfold x); (on_goal 2 => (intro hx; clear_value x))) | clear_value x)
    | (with_reducible apply Keeps.ite)
    | (fail_if_no_progress (with_reducible apply Keeps.mk'))
    | split
    | (dsimp only)

theorem State.opTwnBond_keeps (s : State) (x : CmdRec) (mirdig : BitVec 256) : Keeps s (State.opTwnBond s x mirdig) := by
  unfold State.opTwnBond
  repeat' first
    | (with_reducible exact Keeps.refl _)
    | (with_reducible assumption)
    | (with_reducible apply Keeps.after (State.reply_keeps ..))
    | (with_reducible apply Keeps.after (State.clampTo_keeps ..))
    | (with_reducible refine State.clampTo_keepsOf (by assumption) ?_)
    | (with_reducible apply Keeps.after (State.startBond_keeps ..))
    | ((fail_if_no_progress extract_lets +onlyGivenNames x); first | (refine Keeps.cut x ?_ ?_; (on_goal 1 => unfold x); (on_goal 2 => (intro hx; clear_value x))) | clear_value x)
    | (with_reducible apply Keeps.ite)
    | (fail_if_no_progress (with_reducible apply Keeps.mk'))
    | split
    | (fail_if_no_progress simp only [Prod.mk.injEq] at *)
    | (fail_if_no_progress (with_reducible obtain ⟨rfl, -⟩ := (show (_ : State) = _ ∧ _ from by assumption)))
    | (dsimp only)

theorem State.opTwnUnbond_keeps (s : State) (x : CmdRec) : Keeps s (State.opTwnUnbond s x) := by
  unfold State.opTwnUnbond
  repeat' first
    | (with_reducible exact Keeps.refl _)
    | (with_reducible assumption)
    | (with_reducible apply Keeps.after (State.reply_keeps ..))
    | (with_reducible apply Keeps.after (State.endBond_keeps ..))
    | (with_reducible apply Keeps.after (State.setTwin_keeps ..))
    | (with_reducible apply Keeps.after (State.modTwn_keeps ..))
    | (with_reducible apply Keeps.after (State.unbondGo_keeps ..))
    | (with_reducible apply Keeps.after (State.defer_keeps ..))
    | ((fail_if_no_progress extract_lets +onlyGivenNames x); first | (refine Keeps.cut x ?_ ?_; (on_goal 1 => unfold x); (on_goal 2 => (intro hx; clear_value x))) | clear_value x)
    | (with_reducible apply Keeps.ite)
    | (fail_if_no_progress (with_reducible apply Keeps.mk'))
    | split
    | (dsimp only)

theorem State.opTwnMirrorSet_keeps (s : State) (x : CmdRec) : Keeps s (State.opTwnMirrorSet s x) := by
  unfold State.opTwnMirrorSet
  repeat' first
    | (with_reducible exact Keeps.refl _)
    | (with_reducible assumption)
    | (with_reducible apply Keeps.after (State.reply_keeps ..))
    | (with_reducible apply Keeps.after (State.bonded_keeps ..))
    | (with_reducible apply Keeps.after (State.alignTo_keeps ..))
    | (with_reducible refine State.alignTo_keepsOf (by assumption) ?_)
    | (with_reducible apply Keeps.after (State.roundTo_keeps ..))
    | (with_reducible refine State.roundTo_keepsOf (by assumption) ?_)
    | (with_reducible apply Keeps.after (State.setFld_keeps ..))
    | ((fail_if_no_progress extract_lets +onlyGivenNames x); first | (refine Keeps.cut x ?_ ?_; (on_goal 1 => unfold x); (on_goal 2 => (intro hx; clear_value x))) | clear_value x)
    | (with_reducible apply Keeps.ite)
    | (fail_if_no_progress (with_reducible apply Keeps.mk'))
    | split
    | (fail_if_no_progress simp only [Prod.mk.injEq] at *)
    | (fail_if_no_progress (with_reducible obtain ⟨rfl, -⟩ := (show (_ : State) = _ ∧ _ from by assumption)))
    | (dsimp only)

theorem State.opTwnStatus_keeps (s : State) (x : CmdRec) : Keeps s (State.opTwnStatus s x) := by
  unfold State.opTwnStatus
  repeat' first
    | (with_reducible exact Keeps.refl _)
    | (with_reducible assumption)
    | (with_reducible apply Keeps.after (State.finish_keeps ..))
    | ((fail_if_no_progress extract_lets +onlyGivenNames x); first | (refine Keeps.cut x ?_ ?_; (on_goal 1 => unfold x); (on_goal 2 => (intro hx; clear_value x))) | clear_value x)
    | (with_reducible apply Keeps.ite)
    | split
    | (dsimp only)

theorem State.opTwnStore_keeps (s : State) (x : CmdRec) : Keeps s (State.opTwnStore s x) := by
  unfold State.opTwnStore
  repeat' first
    | (with_reducible exact Keeps.refl _)
    | (with_reducible assumption)
    | (with_reducible apply Keeps.after (State.modTwn_keeps ..))
    | (with_reducible apply Keeps.after (State.reply_keeps ..))
    | (fail_if_no_progress (with_reducible apply Keeps.mk'))
    | (dsimp only)

end Sys2Proof.Machine
end

