-- ==== Sys2Proof/Laws/KeepsStepCmds.lean ====
section
/-!
SUPPORT. Sys2Proof/Laws/KeepsStepCmds.lean: what the operations of Machine/StepCmds.lean keep of a state (`Keeps`).
-/
set_option linter.unusedTactic false
set_option linter.unreachableTactic false
namespace Sys2Proof.Machine

theorem State.cmdRecord_keeps (s : State) (r : RingId) (slot seq : Nat) (p : Packet) : Keeps s (State.cmdRecord s r slot seq p) := by
  unfold State.cmdRecord
  repeat' first
    | (with_reducible exact Keeps.refl _)
    | (with_reducible assumption)
    | (with_reducible apply Keeps.after (State.rplWrite_keeps ..))
    | (with_reducible apply Keeps.ite)
    | split
    | (dsimp only)

theorem State.opStepOpen_keeps (s : State) (x : CmdRec) : Keeps s (State.opStepOpen s x) := by
  unfold State.opStepOpen
  repeat' first
    | (with_reducible exact Keeps.refl _)
    | (with_reducible assumption)
    | (with_reducible apply Keeps.after (State.stepOpen_keeps ..))
    | (with_reducible refine State.stepOpen_keepsOf (by assumption) ?_)
    | (with_reducible apply Keeps.after (State.cmdRecord_keeps ..))
    | (with_reducible apply Keeps.after (State.reply_keeps ..))
    | ((fail_if_no_progress extract_lets +onlyGivenNames x); first | (refine Keeps.cut x ?_ ?_; (on_goal 1 => unfold x); (on_goal 2 => (intro hx; clear_value x))) | clear_value x)
    | (with_reducible apply Keeps.ite)
    | split
    | (fail_if_no_progress simp only [Prod.mk.injEq] at *)
    | (fail_if_no_progress (with_reducible obtain ⟨rfl, -⟩ := (show (_ : State) = _ ∧ _ from by assumption)))
    | (dsimp only)

theorem State.opStepClose_keeps (s : State) (x : CmdRec) : Keeps s (State.opStepClose s x) := by
  unfold State.opStepClose
  repeat' first
    | (with_reducible exact Keeps.refl _)
    | (with_reducible assumption)
    | (with_reducible apply Keeps.after (State.stepClose_keeps ..))
    | (with_reducible apply Keeps.after (State.reply_keeps ..))
    | (with_reducible apply Keeps.ite)
    | split
    | (dsimp only)

theorem State.opPlanInstall_keeps (s : State) (x : CmdRec) : Keeps s (State.opPlanInstall s x) := by
  rw [State.opPlanInstall]
  repeat' first
    | (with_reducible exact Keeps.refl _)
    | (with_reducible assumption)
    | split
    | (with_reducible apply Keeps.after (State.installPlan_keeps ..))
    | (with_reducible refine State.installPlan_keepsOf (by assumption) ?_)
    | (with_reducible apply Keeps.after (State.reply_keeps ..))
    | ((fail_if_no_progress extract_lets +onlyGivenNames x); first | (refine Keeps.cut x ?_ ?_; (on_goal 1 => unfold x); (on_goal 2 => (intro hx; clear_value x))) | clear_value x)
    | (with_reducible apply Keeps.ite)
    | split
    | (fail_if_no_progress simp only [Prod.mk.injEq] at *)
    | (fail_if_no_progress (with_reducible obtain ⟨rfl, -⟩ := (show (_ : State) = _ ∧ _ from by assumption)))
    | (dsimp only)

theorem State.opSchedSet_keeps (s : State) (x : CmdRec) : Keeps s (State.opSchedSet s x) := by
  rw [State.opSchedSet]
  repeat' first
    | (with_reducible exact Keeps.refl _)
    | (with_reducible assumption)
    | split
    | (with_reducible apply Keeps.after (State.installSched_keeps ..))
    | (with_reducible refine State.installSched_keepsOf (by assumption) ?_)
    | (with_reducible apply Keeps.after (State.reply_keeps ..))
    | ((fail_if_no_progress extract_lets +onlyGivenNames x); first | (refine Keeps.cut x ?_ ?_; (on_goal 1 => unfold x); (on_goal 2 => (intro hx; clear_value x))) | clear_value x)
    | (with_reducible apply Keeps.ite)
    | split
    | (fail_if_no_progress simp only [Prod.mk.injEq] at *)
    | (fail_if_no_progress (with_reducible obtain ⟨rfl, -⟩ := (show (_ : State) = _ ∧ _ from by assumption)))
    | (dsimp only)

theorem State.opStepStatus_keeps (s : State) (x : CmdRec) : Keeps s (State.opStepStatus s x) := by
  unfold State.opStepStatus
  repeat' first
    | (with_reducible exact Keeps.refl _)
    | (with_reducible assumption)
    | (with_reducible apply Keeps.after (State.finish_keeps ..))
    | (dsimp only)

theorem State.opRplRecordStart_keeps (s : State) (x : CmdRec) : Keeps s (State.opRplRecordStart s x) := by
  unfold State.opRplRecordStart
  repeat' first
    | (with_reducible exact Keeps.refl _)
    | (with_reducible assumption)
    | (with_reducible apply Keeps.after (State.reply_keeps ..))
    | (with_reducible apply Keeps.after (State.roundTo_keeps ..))
    | (with_reducible refine State.roundTo_keepsOf (by assumption) ?_)
    | (with_reducible apply Keeps.after (State.wr_keeps ..))
    | (with_reducible apply Keeps.after (State.setFld_keeps ..))
    | ((fail_if_no_progress extract_lets +onlyGivenNames x); first | (refine Keeps.cut x ?_ ?_; (on_goal 1 => unfold x); (on_goal 2 => (intro hx; clear_value x))) | clear_value x)
    | (with_reducible apply Keeps.ite)
    | (fail_if_no_progress (with_reducible apply Keeps.mk'))
    | split
    | (fail_if_no_progress simp only [Prod.mk.injEq] at *)
    | (fail_if_no_progress (with_reducible obtain ⟨rfl, -⟩ := (show (_ : State) = _ ∧ _ from by assumption)))
    | (dsimp only)

theorem State.opRplRecordStop_keeps (s : State) (x : CmdRec) : Keeps s (State.opRplRecordStop s x) := by
  unfold State.opRplRecordStop
  repeat' first
    | (with_reducible exact Keeps.refl _)
    | (with_reducible assumption)
    | (with_reducible apply Keeps.after (State.finish_keeps ..))
    | (with_reducible apply Keeps.after (State.setFld_keeps ..))
    | (with_reducible apply Keeps.after (State.rplEnd_keeps ..))
    | ((fail_if_no_progress extract_lets +onlyGivenNames x); first | (refine Keeps.cut x ?_ ?_; (on_goal 1 => unfold x); (on_goal 2 => (intro hx; clear_value x))) | clear_value x)
    | (with_reducible apply Keeps.ite)
    | (fail_if_no_progress (with_reducible apply Keeps.mk'))
    | split
    | (dsimp only)

theorem State.opRplStatus_keeps (s : State) (x : CmdRec) : Keeps s (State.opRplStatus s x) := by
  unfold State.opRplStatus
  repeat' first
    | (with_reducible exact Keeps.refl _)
    | (with_reducible assumption)
    | (with_reducible apply Keeps.after (State.finish_keeps ..))
    | (dsimp only)

theorem State.opRplReplayStart_keeps (s : State) (x : CmdRec) : Keeps s (State.opRplReplayStart s x) := by
  unfold State.opRplReplayStart
  repeat' first
    | (with_reducible exact Keeps.refl _)
    | (with_reducible assumption)
    | (with_reducible apply Keeps.after (State.reply_keeps ..))
    | (with_reducible apply Keeps.after (State.setFld_keeps ..))
    | (with_reducible apply Keeps.after (State.wr_keeps ..))
    | (with_reducible apply Keeps.after (State.modCmd_keeps ..))
    | ((fail_if_no_progress extract_lets +onlyGivenNames x); first | (refine Keeps.cut x ?_ ?_; (on_goal 1 => unfold x); (on_goal 2 => (intro hx; clear_value x))) | clear_value x)
    | (with_reducible apply Keeps.ite)
    | (fail_if_no_progress (with_reducible apply Keeps.mk'))
    | split
    | (dsimp only)

theorem State.replayEnd_keeps (s : State) (st : BitVec 8) : Keeps s (State.replayEnd s st) := by
  unfold State.replayEnd
  repeat' first
    | (with_reducible exact Keeps.refl _)
    | (with_reducible assumption)
    | (with_reducible apply Keeps.after (State.setFld_keeps ..))
    | (with_reducible apply Keeps.after (State.finish_keeps ..))
    | (with_reducible apply Keeps.foldl)
    | (with_reducible apply Keeps.foldl_fst)
    | (with_reducible refine Keeps.foldl_of (by assumption) ?_ ?_)
    | (intro _ _; beta_reduce)
    | (intro _; beta_reduce)
    | (with_reducible apply KeepsO.getD)
    | (with_reducible apply Keeps.ite_fst)
    | ((fail_if_no_progress extract_lets +onlyGivenNames x); first | (refine Keeps.cut x ?_ ?_; (on_goal 1 => unfold x); (on_goal 2 => (intro hx; clear_value x))) | clear_value x)
    | (with_reducible apply Keeps.ite)
    | (fail_if_no_progress (with_reducible apply Keeps.mk'))
    | split
    | (fail_if_no_progress simp only [Prod.mk.injEq] at *)
    | (fail_if_no_progress (with_reducible obtain ⟨rfl, -⟩ := (show (_ : State) = _ ∧ _ from by assumption)))
    | (fail_if_no_progress (with_reducible apply Keeps.fst))
    | (dsimp only)

theorem State.opRplReplayStop_keeps (s : State) (x : CmdRec) : Keeps s (State.opRplReplayStop s x) := by
  unfold State.opRplReplayStop
  repeat' first
    | (with_reducible exact Keeps.refl _)
    | (with_reducible assumption)
    | (with_reducible apply Keeps.after (State.reply_keeps ..))
    | (with_reducible apply Keeps.after (State.replayEnd_keeps ..))
    | (with_reducible apply Keeps.after (State.setFld_keeps ..))
    | (with_reducible apply Keeps.ite)
    | split
    | (dsimp only)

theorem State.opRplMark_keeps (s : State) (x : CmdRec) : Keeps s (State.opRplMark s x) := by
  unfold State.opRplMark
  repeat' first
    | (with_reducible exact Keeps.refl _)
    | (with_reducible assumption)
    | (with_reducible apply Keeps.after (State.rplWrite_keeps ..))
    | (with_reducible apply Keeps.after (State.reply_keeps ..))
    | (with_reducible apply Keeps.ite)
    | split
    | (dsimp only)

theorem State.rplBoundary_keeps (s : State) : Keeps s (State.rplBoundary s) := by
  unfold State.rplBoundary
  repeat' first
    | (with_reducible exact Keeps.refl _)
    | (with_reducible assumption)
    | (with_reducible apply Keeps.after (State.rplEnd_keeps ..))
    | (with_reducible apply Keeps.after (State.replayEnd_keeps ..))
    | ((fail_if_no_progress extract_lets +onlyGivenNames x); first | (refine Keeps.cut x ?_ ?_; (on_goal 1 => unfold x); (on_goal 2 => (intro hx; clear_value x))) | clear_value x)
    | (with_reducible apply Keeps.ite)
    | split
    | (dsimp only)

theorem State.rplSettle_keeps (s : State) : Keeps s (State.rplSettle s) := by
  unfold State.rplSettle
  repeat' first
    | (with_reducible exact Keeps.refl _)
    | (with_reducible assumption)
    | (with_reducible apply Keeps.after (State.finish_keeps ..))
    | (with_reducible apply Keeps.after (State.replayEnd_keeps ..))
    | (with_reducible apply Keeps.foldl)
    | (with_reducible apply Keeps.foldl_fst)
    | (with_reducible refine Keeps.foldl_of (by assumption) ?_ ?_)
    | (intro _ _; beta_reduce)
    | (intro _; beta_reduce)
    | (with_reducible apply Keeps.ite_fst)
    | ((fail_if_no_progress extract_lets +onlyGivenNames x); first | (refine Keeps.cut x ?_ ?_; (on_goal 1 => unfold x); (on_goal 2 => (intro hx; clear_value x))) | clear_value x)
    | (with_reducible apply Keeps.ite)
    | split
    | (fail_if_no_progress simp only [Prod.mk.injEq] at *)
    | (fail_if_no_progress (with_reducible obtain ⟨rfl, -⟩ := (show (_ : State) = _ ∧ _ from by assumption)))
    | (fail_if_no_progress (with_reducible apply Keeps.fst))
    | (dsimp only)

end Sys2Proof.Machine
end

