-- ==== Sys2Proof/Laws/KeepsMemCmds.lean ====
section
/-!
SUPPORT. Sys2Proof/Laws/KeepsMemCmds.lean: what the operations of Machine/MemCmds.lean keep of a state (`Keeps`).
-/
set_option linter.unusedTactic false
set_option linter.unreachableTactic false
namespace Sys2Proof.Machine

theorem State.writeOut_keeps (s : State) (x : CmdRec) (bs : List Byte) : Keeps s (State.writeOut s x bs) := by
  unfold State.writeOut
  repeat' first
    | (with_reducible exact Keeps.refl _)
    | (with_reducible assumption)
    | (with_reducible apply Keeps.after (State.cmdWrite_keeps ..))
    | (with_reducible refine State.cmdWrite_keepsOf (by assumption) ?_)
    | (with_reducible apply Keeps.after (State.reply_keeps ..))
    | ((fail_if_no_progress extract_lets +onlyGivenNames x); first | (refine Keeps.cut x ?_ ?_; (on_goal 1 => unfold x); (on_goal 2 => (intro hx; clear_value x))) | clear_value x)
    | (with_reducible apply Keeps.ite)
    | split
    | (fail_if_no_progress simp only [Prod.mk.injEq] at *)
    | (fail_if_no_progress (with_reducible obtain ⟨rfl, -⟩ := (show (_ : State) = _ ∧ _ from by assumption)))
    | (dsimp only)

theorem State.opNop_keeps (s : State) (x : CmdRec) : Keeps s (State.opNop s x) := by
  unfold State.opNop
  repeat' first
    | (with_reducible exact Keeps.refl _)
    | (with_reducible assumption)
    | (with_reducible apply Keeps.after (State.reply_keeps ..))
    | (dsimp only)

theorem State.opIdentify_keeps (s : State) (x : CmdRec) : Keeps s (State.opIdentify s x) := by
  unfold State.opIdentify
  repeat' first
    | (with_reducible exact Keeps.refl _)
    | (with_reducible assumption)
    | (with_reducible apply Keeps.after (State.writeOut_keeps ..))
    | (with_reducible apply Keeps.after (State.take_keeps ..))
    | (with_reducible refine State.take_keepsOf (by assumption) ?_)
    | (with_reducible apply Keeps.ite)
    | split
    | (dsimp only)

theorem State.opEnumerate_keeps (s : State) (x : CmdRec) : Keeps s (State.opEnumerate s x) := by
  unfold State.opEnumerate
  repeat' first
    | (with_reducible exact Keeps.refl _)
    | (with_reducible assumption)
    | (with_reducible apply Keeps.after (State.writeOut_keeps ..))
    | (dsimp only)

theorem State.opHealth_keeps (s : State) (x : CmdRec) : Keeps s (State.opHealth s x) := by
  unfold State.opHealth
  repeat' first
    | (with_reducible exact Keeps.refl _)
    | (with_reducible assumption)
    | (with_reducible apply Keeps.after (State.finish_keeps ..))
    | (dsimp only)

theorem State.queueDma_keeps (s : State) (d : DieId) (m : DmaSt) : Keeps s (State.queueDma s d m) := by
  unfold State.queueDma
  repeat' first
    | (with_reducible exact Keeps.refl _)
    | (with_reducible assumption)
    | (with_reducible apply Keeps.after (State.modDie_keeps ..))
    | (fail_if_no_progress (with_reducible apply Keeps.mk'))
    | (dsimp only)

theorem State.opCopy_keeps (s : State) (x : CmdRec) : Keeps s (State.opCopy s x) := by
  unfold State.opCopy
  repeat' first
    | (with_reducible exact Keeps.refl _)
    | (with_reducible assumption)
    | (with_reducible apply Keeps.after (State.reply_keeps ..))
    | (with_reducible apply Keeps.after (State.clampTo_keeps ..))
    | (with_reducible refine State.clampTo_keepsOf (by assumption) ?_)
    | (with_reducible apply Keeps.after (State.queueDma_keeps ..))
    | ((fail_if_no_progress extract_lets +onlyGivenNames x); first | (refine Keeps.cut x ?_ ?_; (on_goal 1 => unfold x); (on_goal 2 => (intro hx; clear_value x))) | clear_value x)
    | (with_reducible apply Keeps.ite)
    | (fail_if_no_progress (with_reducible apply Keeps.mk'))
    | split
    | (fail_if_no_progress simp only [Prod.mk.injEq] at *)
    | (fail_if_no_progress (with_reducible obtain ⟨rfl, -⟩ := (show (_ : State) = _ ∧ _ from by assumption)))
    | (dsimp only)

theorem State.opFill_keeps (s : State) (x : CmdRec) : Keeps s (State.opFill s x) := by
  unfold State.opFill
  repeat' first
    | (with_reducible exact Keeps.refl _)
    | (with_reducible assumption)
    | (with_reducible apply Keeps.after (State.reply_keeps ..))
    | (with_reducible apply Keeps.after (State.queueDma_keeps ..))
    | ((fail_if_no_progress extract_lets +onlyGivenNames x); first | (refine Keeps.cut x ?_ ?_; (on_goal 1 => unfold x); (on_goal 2 => (intro hx; clear_value x))) | clear_value x)
    | (with_reducible apply Keeps.ite)
    | (fail_if_no_progress (with_reducible apply Keeps.mk'))
    | split
    | (dsimp only)

theorem State.mapPages_keeps (va pa size perm n : Nat) (s : State) : KeepsO s (State.mapPages va pa size perm n s) := by
  induction n generalizing s va pa with
  | zero => exact .some (.refl _)
  | succ n ih =>
    unfold State.mapPages
    split
    · exact .none _
    · next t h => exact (ih ..).after ((State.mapPage_keeps ..).keeps _ h)

theorem State.mapPages_keepsOf {va pa size perm n : Nat} {s s0 t0 : State} (h : State.mapPages va pa size perm n s = some t0)
    (q : Keeps s0 s) : Keeps s0 t0 := q.trans ((State.mapPages_keeps ..).keeps _ h)

theorem State.awaitRanges_keeps (s : State) (x : CmdRec) (rs : List (Nat × Nat)) : Keeps s (State.awaitRanges s x rs) := by
  unfold State.awaitRanges
  repeat' first
    | (with_reducible exact Keeps.refl _)
    | (with_reducible assumption)
    | (with_reducible apply Keeps.after (State.modCmd_keeps ..))
    | (with_reducible apply Keeps.after (State.mapsDone_keeps ..))
    | (fail_if_no_progress (with_reducible apply Keeps.mk'))
    | (dsimp only)

theorem State.mapOrNote_keeps (s : State) (demand : Bool) (va pa size perm len : Nat) : KeepsO s (State.mapOrNote s demand va pa size perm len) := by
  unfold State.mapOrNote
  repeat' first
    | (with_reducible exact Keeps.refl _)
    | (with_reducible assumption)
    | (with_reducible refine State.mapPages_keepsOf (by assumption) ?_)
    | (with_reducible apply KeepsO.after (State.mapPages_keeps ..))
    | (with_reducible apply KeepsO.ite)
    | (with_reducible exact KeepsO.none _)
    | (with_reducible apply KeepsO.some)
    | (with_reducible apply Keeps.ite)
    | (fail_if_no_progress (with_reducible apply Keeps.mk'))
    | split
    | (dsimp only)


theorem State.mapOrNote_keepsOf {s : State} {demand : Bool} {va pa size perm len : Nat} {s0 st1 : State} (h0 : State.mapOrNote s demand va pa size perm len = some st1) (k0 : Keeps s0 s) : Keeps s0 st1 :=
  k0.trans ((State.mapOrNote_keeps s demand va pa size perm len).keeps st1 h0)

theorem State.opMap_keeps (s : State) (x : CmdRec) : Keeps s (State.opMap s x) := by
  unfold State.opMap
  repeat' first
    | (with_reducible exact Keeps.refl _)
    | (with_reducible assumption)
    | (with_reducible apply Keeps.after (State.reply_keeps ..))
    | (with_reducible apply Keeps.after (State.alignTo_keeps ..))
    | (with_reducible refine State.alignTo_keepsOf (by assumption) ?_)
    | (with_reducible apply Keeps.after (State.roundTo_keeps ..))
    | (with_reducible refine State.roundTo_keepsOf (by assumption) ?_)
    | (with_reducible refine State.unmapRange_keepsOf (by assumption) ?_)
    | (with_reducible apply Keeps.after (State.dropDemand_keeps ..))
    | (with_reducible refine State.mapOrNote_keepsOf (by assumption) ?_)
    | (with_reducible apply Keeps.after (State.dropXlate_keeps ..))
    | (with_reducible apply Keeps.after (State.awaitRanges_keeps ..))
    | ((fail_if_no_progress extract_lets +onlyGivenNames x); first | (refine Keeps.cut x ?_ ?_; (on_goal 1 => unfold x); (on_goal 2 => (intro hx; clear_value x))) | clear_value x)
    | (with_reducible apply Keeps.ite)
    | (fail_if_no_progress (with_reducible apply Keeps.mk'))
    | split
    | (fail_if_no_progress simp only [Prod.mk.injEq] at *)
    | (fail_if_no_progress (with_reducible obtain ⟨rfl, -⟩ := (show (_ : State) = _ ∧ _ from by assumption)))
    | (dsimp only)

theorem State.opUnmap_keeps (s : State) (x : CmdRec) : Keeps s (State.opUnmap s x) := by
  unfold State.opUnmap
  repeat' first
    | (with_reducible exact Keeps.refl _)
    | (with_reducible assumption)
    | (with_reducible apply Keeps.after (State.alignTo_keeps ..))
    | (with_reducible refine State.alignTo_keepsOf (by assumption) ?_)
    | (with_reducible apply Keeps.after (State.roundTo_keeps ..))
    | (with_reducible refine State.roundTo_keepsOf (by assumption) ?_)
    | (with_reducible refine State.unmapRange_keepsOf (by assumption) ?_)
    | (with_reducible apply Keeps.after (State.reply_keeps ..))
    | (with_reducible apply Keeps.after (State.dropDemand_keeps ..))
    | (with_reducible apply Keeps.after (State.dropXlate_keeps ..))
    | (with_reducible apply Keeps.after (State.awaitRanges_keeps ..))
    | ((fail_if_no_progress extract_lets +onlyGivenNames x); first | (refine Keeps.cut x ?_ ?_; (on_goal 1 => unfold x); (on_goal 2 => (intro hx; clear_value x))) | clear_value x)
    | (with_reducible apply Keeps.ite)
    | (fail_if_no_progress (with_reducible apply Keeps.mk'))
    | split
    | (fail_if_no_progress simp only [Prod.mk.injEq] at *)
    | (fail_if_no_progress (with_reducible obtain ⟨rfl, -⟩ := (show (_ : State) = _ ∧ _ from by assumption)))
    | (dsimp only)

theorem State.opPtPool_keeps (s : State) (x : CmdRec) : Keeps s (State.opPtPool s x) := by
  unfold State.opPtPool
  repeat' first
    | (with_reducible exact Keeps.refl _)
    | (with_reducible assumption)
    | (with_reducible apply Keeps.after (State.alignTo_keeps ..))
    | (with_reducible refine State.alignTo_keepsOf (by assumption) ?_)
    | (with_reducible apply Keeps.after (State.roundTo_keeps ..))
    | (with_reducible refine State.roundTo_keepsOf (by assumption) ?_)
    | (with_reducible apply Keeps.after (State.bonded_keeps ..))
    | (with_reducible apply Keeps.after (State.reply_keeps ..))
    | (with_reducible apply Keeps.after (State.finish_keeps ..))
    | ((fail_if_no_progress extract_lets +onlyGivenNames x); first | (refine Keeps.cut x ?_ ?_; (on_goal 1 => unfold x); (on_goal 2 => (intro hx; clear_value x))) | clear_value x)
    | (with_reducible apply Keeps.ite)
    | (fail_if_no_progress (with_reducible apply Keeps.mk'))
    | split
    | (fail_if_no_progress simp only [Prod.mk.injEq] at *)
    | (fail_if_no_progress (with_reducible obtain ⟨rfl, -⟩ := (show (_ : State) = _ ∧ _ from by assumption)))
    | (dsimp only)

theorem State.opMark_keeps (s : State) (x : CmdRec) : Keeps s (State.opMark s x) := by
  unfold State.opMark
  repeat' first
    | (with_reducible exact Keeps.refl _)
    | (with_reducible assumption)
    | (with_reducible apply Keeps.after (State.reply_keeps ..))
    | (with_reducible apply Keeps.after (State.rgnWrite_keeps ..))
    | (with_reducible apply Keeps.after (State.alignTo_keeps ..))
    | (with_reducible refine State.alignTo_keepsOf (by assumption) ?_)
    | (with_reducible apply Keeps.after (State.clamp_keeps ..))
    | (with_reducible apply Keeps.after (State.invalidate_keeps ..))
    | (with_reducible apply Keeps.foldl)
    | (with_reducible apply Keeps.foldl_fst)
    | (with_reducible refine Keeps.foldl_of (by assumption) ?_ ?_)
    | (intro _ _; beta_reduce)
    | (intro _; beta_reduce)
    | (with_reducible apply Keeps.ite_fst)
    | ((fail_if_no_progress extract_lets +onlyGivenNames x); first | (refine Keeps.cut x ?_ ?_; (on_goal 1 => unfold x); (on_goal 2 => (intro hx; clear_value x))) | clear_value x)
    | (with_reducible apply Keeps.ite)
    | split
    | (fail_if_no_progress simp only [Prod.mk.injEq] at *)
    | (fail_if_no_progress (with_reducible obtain ⟨rfl, -⟩ := (show (_ : State) = _ ∧ _ from by assumption)))
    | (fail_if_no_progress (with_reducible apply Keeps.fst))
    | (dsimp only)

theorem State.opRedSet_keeps (s : State) (x : CmdRec) : Keeps s (State.opRedSet s x) := by
  unfold State.opRedSet
  repeat' first
    | (with_reducible exact Keeps.refl _)
    | (with_reducible assumption)
    | (with_reducible apply Keeps.after (State.reply_keeps ..))
    | (with_reducible apply Keeps.after (State.alignTo_keeps ..))
    | (with_reducible refine State.alignTo_keepsOf (by assumption) ?_)
    | (with_reducible apply Keeps.after (State.clampTo_keeps ..))
    | (with_reducible refine State.clampTo_keepsOf (by assumption) ?_)
    | (with_reducible apply Keeps.after (State.redWrite_keeps ..))
    | (with_reducible apply Keeps.foldl)
    | (with_reducible apply Keeps.foldl_fst)
    | (with_reducible refine Keeps.foldl_of (by assumption) ?_ ?_)
    | (intro _ _; beta_reduce)
    | (intro _; beta_reduce)
    | (with_reducible apply Keeps.ite_fst)
    | ((fail_if_no_progress extract_lets +onlyGivenNames x); first | (refine Keeps.cut x ?_ ?_; (on_goal 1 => unfold x); (on_goal 2 => (intro hx; clear_value x))) | clear_value x)
    | (with_reducible apply Keeps.ite)
    | split
    | (fail_if_no_progress simp only [Prod.mk.injEq] at *)
    | (fail_if_no_progress (with_reducible obtain ⟨rfl, -⟩ := (show (_ : State) = _ ∧ _ from by assumption)))
    | (fail_if_no_progress (with_reducible apply Keeps.fst))
    | (dsimp only)

theorem State.opMcgSet_keeps (s : State) (x : CmdRec) : Keeps s (State.opMcgSet s x) := by
  unfold State.opMcgSet
  repeat' first
    | (with_reducible exact Keeps.refl _)
    | (with_reducible assumption)
    | (with_reducible apply Keeps.after (State.reply_keeps ..))
    | (with_reducible apply Keeps.after (State.clampTo_keeps ..))
    | (with_reducible refine State.clampTo_keepsOf (by assumption) ?_)
    | (with_reducible apply Keeps.after (State.mcgWrite_keeps ..))
    | (with_reducible apply Keeps.foldl)
    | (with_reducible apply Keeps.foldl_fst)
    | (with_reducible refine Keeps.foldl_of (by assumption) ?_ ?_)
    | (intro _ _; beta_reduce)
    | (intro _; beta_reduce)
    | (with_reducible apply Keeps.ite_fst)
    | ((fail_if_no_progress extract_lets +onlyGivenNames x); first | (refine Keeps.cut x ?_ ?_; (on_goal 1 => unfold x); (on_goal 2 => (intro hx; clear_value x))) | clear_value x)
    | (with_reducible apply Keeps.ite)
    | split
    | (fail_if_no_progress simp only [Prod.mk.injEq] at *)
    | (fail_if_no_progress (with_reducible obtain ⟨rfl, -⟩ := (show (_ : State) = _ ∧ _ from by assumption)))
    | (fail_if_no_progress (with_reducible apply Keeps.fst))
    | (dsimp only)

theorem State.setBias_keeps (s : State) (pages : List Nat) (dev : Bool) : Keeps s (State.setBias s pages dev) := by
  unfold State.setBias
  repeat' first
    | (with_reducible exact Keeps.refl _)
    | (with_reducible assumption)
    | (with_reducible apply Keeps.foldl)
    | (with_reducible apply Keeps.foldl_fst)
    | (with_reducible refine Keeps.foldl_of (by assumption) ?_ ?_)
    | (intro _ _; beta_reduce)
    | (intro _; beta_reduce)
    | (with_reducible apply Keeps.ite_fst)
    | (with_reducible apply Keeps.ite)
    | (fail_if_no_progress (with_reducible apply Keeps.mk'))
    | split
    | (fail_if_no_progress simp only [Prod.mk.injEq] at *)
    | (fail_if_no_progress (with_reducible obtain ⟨rfl, -⟩ := (show (_ : State) = _ ∧ _ from by assumption)))
    | (fail_if_no_progress (with_reducible apply Keeps.fst))
    | (dsimp only)

theorem State.biasRange_keeps (s : State) (x : CmdRec) (base len : Nat) : Keeps s (State.biasRange s x base len) := by
  unfold State.biasRange
  repeat' first
    | (with_reducible exact Keeps.refl _)
    | (with_reducible assumption)
    | (with_reducible apply Keeps.after (State.reply_keeps ..))
    | (with_reducible apply Keeps.after (State.setBias_keeps ..))
    | (with_reducible apply Keeps.ite)
    | (fail_if_no_progress (with_reducible apply Keeps.mk'))
    | split
    | (dsimp only)

theorem State.opBias_keeps (s : State) (x : CmdRec) : Keeps s (s.opBias x) := by
  rw [State.opBias]
  exact Keeps.ite (State.reply_keeps ..) (((State.alignTo_keeps ..).trans (State.roundTo_keeps ..)).trans (State.biasRange_keeps ..))

theorem State.opFenceStatus_keeps (s : State) (x : CmdRec) : Keeps s (State.opFenceStatus s x) := by
  unfold State.opFenceStatus
  repeat' first
    | (with_reducible exact Keeps.refl _)
    | (with_reducible assumption)
    | (with_reducible apply Keeps.after (State.finish_keeps ..))
    | (dsimp only)

end Sys2Proof.Machine
end

