-- ==== Sys2Proof/Laws/KeepsRequests.lean ====
section
/-!
SUPPORT. Sys2Proof/Laws/KeepsRequests.lean: what the operations of Machine/Requests.lean keep of a state (`Keeps`).
-/
set_option linter.unusedTactic false
set_option linter.unreachableTactic false
namespace Sys2Proof.Machine

theorem execLineRequest_keeps (c : CoreId) (draws : List Draw) (s : State) : KeepsX s (execLineRequest c draws s) := by
  unfold execLineRequest
  repeat' first
    | (with_reducible exact Keeps.refl _)
    | (with_reducible assumption)
    | (with_reducible apply Keeps.after (State.lineRequest_keeps ..))
    | (with_reducible apply Keeps.after (State.sendFree_keeps ..))
    | (with_reducible apply Keeps.after (State.runDraws_keeps ..))
    | (with_reducible apply KeepsX.next)
    | (dsimp only)

theorem State.ageEntry_keeps (s : State) (k : ClusterId) (line : Nat) : Keeps s (State.ageEntry s k line) := by
  unfold State.ageEntry
  repeat' first
    | (with_reducible exact Keeps.refl _)
    | (with_reducible assumption)
    | (with_reducible apply Keeps.after (State.setSorter_keeps ..))
    | (with_reducible apply Keeps.after (State.sendFree_keeps ..))
    | ((fail_if_no_progress extract_lets +onlyGivenNames x); first | (refine Keeps.cut x ?_ ?_; (on_goal 1 => unfold x); (on_goal 2 => (intro hx; clear_value x))) | clear_value x)
    | (fail_if_no_progress (with_reducible apply Keeps.mk'))
    | (dsimp only)

theorem execSorterAgeExpire_keeps (k : ClusterId) (line : BitVec 52) (s : State) : KeepsX s (execSorterAgeExpire k line s) := by
  unfold execSorterAgeExpire
  repeat' first
    | (with_reducible exact Keeps.refl _)
    | (with_reducible assumption)
    | (with_reducible apply Keeps.after (State.ageEntry_keeps ..))
    | (with_reducible apply KeepsX.next)
    | (dsimp only)

theorem State.respond_keeps (s : State) (line : Nat) (cs : List CoreId) : Keeps s (s.respond line cs) := by
  cases cs with
  | nil => exact .refl _
  | cons c cs => exact Keeps.foldl _ (State.send_keeps ..) fun t d => State.flitOut_keeps ..

theorem execLineResponse_keeps (k : ClusterId) (line : BitVec 52) (draws : List Draw) (s : State) :
    KeepsX s (execLineResponse k line draws s) := by
  unfold execLineResponse
  have ht := (State.sendFree_keeps s k).trans (State.runDraws_keeps _ draws)
  dsimp only
  generalize (s.sendFree k).runDraws draws = t at ht ⊢
  refine .next ?_
  split
  · exact ht
  next e h =>
    refine Keeps.trans ?_ (State.mapsDone_keeps ..)
    refine Keeps.trans ?_ (State.sendFree_keeps ..)
    refine Keeps.foldl _ ?_ fun t c => State.eject_keeps ..
    exact ht.trans ((State.setSorter_keeps ..).trans (State.respond_keeps ..))

theorem execCluSortCntClr_keeps (k : ClusterId) (s : State) : KeepsX s (execCluSortCntClr k s) := by
  unfold execCluSortCntClr
  repeat' first
    | (with_reducible exact Keeps.refl _)
    | (with_reducible assumption)
    | (with_reducible apply Keeps.after (State.clear_keeps ..))
    | (with_reducible apply KeepsX.next)
    | (dsimp only)

theorem State.dmaClear_keeps (s : State) (d : DieId) : Keeps s (State.dmaClear s d) := by
  unfold State.dmaClear
  repeat' first
    | (with_reducible exact Keeps.refl _)
    | (with_reducible assumption)
    | (with_reducible apply Keeps.after (State.clear_keeps ..))
    | (with_reducible apply Keeps.after (State.setFld_keeps ..))
    | (dsimp only)

theorem execMemDmaCntClr_keeps (d : DieId) (s : State) : KeepsX s (execMemDmaCntClr d s) := by
  unfold execMemDmaCntClr
  repeat' first
    | (with_reducible exact Keeps.refl _)
    | (with_reducible assumption)
    | (with_reducible apply Keeps.after (State.dmaClear_keeps ..))
    | (with_reducible apply KeepsX.next)
    | (dsimp only)

theorem execArbCntClr_keeps (d : DieId) (s : State) : KeepsX s (execArbCntClr d s) := by
  unfold execArbCntClr
  repeat' first
    | (with_reducible exact Keeps.refl _)
    | (with_reducible assumption)
    | (with_reducible apply Keeps.after (State.clear_keeps ..))
    | (with_reducible apply KeepsX.next)
    | (dsimp only)

theorem execArbTicketWrite_keeps (d : DieId) (t : BitVec 3) (slot : BitVec 9) (v : Word) (s : State) : KeepsX s (execArbTicketWrite d t slot v s) := by
  unfold execArbTicketWrite
  repeat' first
    | (with_reducible exact Keeps.refl _)
    | (with_reducible assumption)
    | (with_reducible apply Keeps.after (State.plainWrite_keeps ..))
    | (with_reducible apply KeepsX.next)
    | (with_reducible apply Keeps.ite)
    | split
    | (dsimp only)

theorem State.arbSeed_keeps (s : State) (d : DieId) (i : Nat) (v : BitVec 32) : Keeps s (State.arbSeed s d i v) := by
  unfold State.arbSeed
  repeat' first
    | (with_reducible exact Keeps.refl _)
    | (with_reducible assumption)
    | (with_reducible apply Keeps.after (State.wr_keeps ..))
    | (with_reducible apply Keeps.after (State.rplSeed_keeps ..))
    | (dsimp only)

theorem execArbSeedWrite_keeps (d : DieId) (i : BitVec 9) (v : BitVec 32) (s : State) : KeepsX s (execArbSeedWrite d i v s) := by
  unfold execArbSeedWrite
  repeat' first
    | (with_reducible exact Keeps.refl _)
    | (with_reducible assumption)
    | (with_reducible apply Keeps.after (State.arbSeed_keeps ..))
    | (with_reducible apply KeepsX.next)
    | (with_reducible apply Keeps.ite)
    | split
    | (dsimp only)

end Sys2Proof.Machine
end

