-- ==== Sys2Proof/Laws/KeepsStartup.lean ====
section
/-!
SUPPORT. Sys2Proof/Laws/KeepsStartup.lean: what the operations of Machine/Startup.lean keep of a state (`Keeps`).
-/
set_option linter.unusedTactic false
set_option linter.unreachableTactic false
namespace Sys2Proof.Machine

theorem State.modSys_keeps (s : State) (f : SysSt → SysSt) : Keeps s (State.modSys s f) := by
  unfold State.modSys
  repeat' first
    | (with_reducible exact Keeps.refl _)
    | (with_reducible assumption)
    | (fail_if_no_progress (with_reducible apply Keeps.mk'))
    | (dsimp only)

theorem State.modNvm_keeps (s : State) (f : Nvm → Nvm) : Keeps s (State.modNvm s f) := by
  unfold State.modNvm
  repeat' first
    | (with_reducible exact Keeps.refl _)
    | (with_reducible assumption)
    | (with_reducible apply Keeps.after (State.modSys_keeps ..))
    | (fail_if_no_progress (with_reducible apply Keeps.mk'))
    | (dsimp only)

theorem State.modBlk_keeps (s : State) (f : StateBlk → StateBlk) : Keeps s (State.modBlk s f) := by
  unfold State.modBlk
  repeat' first
    | (with_reducible exact Keeps.refl _)
    | (with_reducible assumption)
    | (with_reducible apply Keeps.after (State.modNvm_keeps ..))
    | (fail_if_no_progress (with_reducible apply Keeps.mk'))
    | (dsimp only)

theorem State.wrFlash_keeps (s : State) (a : Nat) (bs : List Byte) : Keeps s (State.wrFlash s a bs) := by
  unfold State.wrFlash
  repeat' first
    | (with_reducible exact Keeps.refl _)
    | (with_reducible assumption)
    | (with_reducible apply Keeps.after (State.modNvm_keeps ..))
    | (fail_if_no_progress (with_reducible apply Keeps.mk'))
    | (dsimp only)

theorem State.jlog_keeps (s : State) (step tryNo outcome object detail : Nat) : Keeps s (State.jlog s step tryNo outcome object detail) := by
  unfold State.jlog
  repeat' first
    | (with_reducible exact Keeps.refl _)
    | (with_reducible assumption)
    | (with_reducible apply Keeps.after (State.modNvm_keeps ..))
    | ((fail_if_no_progress extract_lets +onlyGivenNames x); first | (refine Keeps.cut x ?_ ?_; (on_goal 1 => unfold x); (on_goal 2 => (intro hx; clear_value x))) | clear_value x)
    | (dsimp only)

theorem State.flashRead_keeps (s : State) (a : Nat) : Keeps s (State.flashRead s a).2 := by
  rw [State.flashRead]
  repeat' first
    | (with_reducible exact Keeps.refl _)
    | (with_reducible assumption)
    | (with_reducible apply Keeps.after (State.take_keeps ..))
    | (with_reducible refine State.take_keepsOf (by assumption) ?_)
    | (with_reducible apply Keeps.after (State.takeBytes_keeps ..))
    | (with_reducible refine State.takeBytes_keepsOf (by assumption) ?_)
    | (with_reducible apply Keeps.ite_snd)
    | ((fail_if_no_progress extract_lets +onlyGivenNames x); first | (refine Keeps.cut x ?_ ?_; (on_goal 1 => unfold x); (on_goal 2 => (intro hx; clear_value x))) | clear_value x)
    | (with_reducible apply Keeps.ite)
    | (fail_if_no_progress (with_reducible apply Keeps.mk'))
    | split
    | (fail_if_no_progress (with_reducible apply Keeps.snd))
    | (dsimp only)


theorem State.flashRead_keepsOf {s : State} {a : Nat} {s0 st1 : State} {res1} (h0 : State.flashRead s a = (res1, st1)) (k0 : Keeps s0 s) : Keeps s0 st1 := by
  have q := State.flashRead_keeps s a
  rw [h0] at q
  exact k0.trans q

theorem State.diesDown_keeps (s : State) (keep : Nat → Bool) : Keeps s (s.diesDown keep) :=
  ⟨rfl, rfl, Nat.le_refl _, List.prefix_refl _, fun h => ⟨Tab.filter_wf h.mem _, Tab.filter_wf h.poison _, Tab.filter_wf h.regs _,
    Tab.nil_wf _, Tab.nil_wf _, Tab.nil_wf _⟩⟩

theorem State.beginStart_keeps (s : State) (step : Nat) : Keeps s (State.beginStart s step) := by
  unfold State.beginStart
  repeat' first
    | (with_reducible exact Keeps.refl _)
    | (with_reducible assumption)
    | (with_reducible apply Keeps.after (State.modSys_keeps ..))
    | (with_reducible apply Keeps.after (State.starts_keeps ..))
    | (with_reducible refine State.starts_keepsOf (by assumption) ?_)
    | (fail_if_no_progress (with_reducible apply Keeps.mk'))
    | (dsimp only)

theorem State.cause_keeps (s : State) (f : Fld) : Keeps s (State.cause s f) := by
  unfold State.cause
  repeat' first
    | (with_reducible exact Keeps.refl _)
    | (with_reducible assumption)
    | (with_reducible apply Keeps.after (State.setFld_keeps ..))
    | (dsimp only)

theorem State.moduleReset_keeps (s : State) : Keeps s (State.moduleReset s) := by
  unfold State.moduleReset
  repeat' first
    | (with_reducible exact Keeps.refl _)
    | (with_reducible assumption)
    | (with_reducible apply Keeps.after (State.modSys_keeps ..))
    | (with_reducible apply Keeps.after (State.diesDown_keeps ..))
    | (with_reducible apply Keeps.after (State.beginStart_keeps ..))
    | (with_reducible apply Keeps.ite)
    | (fail_if_no_progress (with_reducible apply Keeps.mk'))
    | split
    | (dsimp only)

theorem State.restart2_keeps (s : State) : Keeps s (State.restart2 s) := by
  unfold State.restart2
  repeat' first
    | (with_reducible exact Keeps.refl _)
    | (with_reducible assumption)
    | (with_reducible apply Keeps.after (State.mbxReset_keeps ..))
    | (with_reducible apply Keeps.after (State.diesDown_keeps ..))
    | (with_reducible apply Keeps.after (State.wr_keeps ..))
    | (with_reducible apply Keeps.after (State.modSys_keeps ..))
    | (with_reducible apply Keeps.after (State.beginStart_keeps ..))
    | ((fail_if_no_progress extract_lets +onlyGivenNames x); first | (refine Keeps.cut x ?_ ?_; (on_goal 1 => unfold x); (on_goal 2 => (intro hx; clear_value x))) | clear_value x)
    | (fail_if_no_progress (with_reducible apply Keeps.mk'))
    | (dsimp only)

theorem State.shutDown_keeps (s : State) (hold : Bool) : Keeps s (State.shutDown s hold) := by
  unfold State.shutDown
  repeat' first
    | (with_reducible exact Keeps.refl _)
    | (with_reducible assumption)
    | (with_reducible apply Keeps.after (State.diesDown_keeps ..))
    | (with_reducible apply Keeps.after (State.modSys_keeps ..))
    | (fail_if_no_progress (with_reducible apply Keeps.mk'))
    | (dsimp only)

theorem State.haltNow_keeps (s : State) (tryNo obj detail : Nat) : Keeps s (State.haltNow s tryNo obj detail) := by
  unfold State.haltNow
  repeat' first
    | (with_reducible exact Keeps.refl _)
    | (with_reducible assumption)
    | (with_reducible apply Keeps.after (State.jlog_keeps ..))
    | (with_reducible apply Keeps.after (State.diesDown_keeps ..))
    | (with_reducible apply Keeps.after (State.modSys_keeps ..))
    | (with_reducible apply Keeps.after (State.cause_keeps ..))
    | ((fail_if_no_progress extract_lets +onlyGivenNames x); first | (refine Keeps.cut x ?_ ?_; (on_goal 1 => unfold x); (on_goal 2 => (intro hx; clear_value x))) | clear_value x)
    | (fail_if_no_progress (with_reducible apply Keeps.mk'))
    | (dsimp only)

theorem State.beginStep3_keeps (s : State) : Keeps s (State.beginStep3 s) := by
  unfold State.beginStep3
  repeat' first
    | (with_reducible exact Keeps.refl _)
    | (with_reducible assumption)
    | (with_reducible apply Keeps.after (State.modBlk_keeps ..))
    | (with_reducible apply Keeps.after (State.modSys_keeps ..))
    | (with_reducible apply Keeps.after (State.jlog_keeps ..))
    | (with_reducible apply Keeps.after (State.haltNow_keeps ..))
    | ((fail_if_no_progress extract_lets +onlyGivenNames x); first | (refine Keeps.cut x ?_ ?_; (on_goal 1 => unfold x); (on_goal 2 => (intro hx; clear_value x))) | clear_value x)
    | (with_reducible apply Keeps.ite)
    | (fail_if_no_progress (with_reducible apply Keeps.mk'))
    | split
    | (dsimp only)

theorem State.beginStep11_keeps (s : State) : Keeps s (State.beginStep11 s) := by
  unfold State.beginStep11
  repeat' first
    | (with_reducible exact Keeps.refl _)
    | (with_reducible assumption)
    | (with_reducible apply Keeps.after (State.setFld_keeps ..))
    | (with_reducible apply Keeps.after (State.setLink_keeps ..))
    | (with_reducible apply Keeps.foldl)
    | (with_reducible apply Keeps.foldl_fst)
    | (with_reducible refine Keeps.foldl_of (by assumption) ?_ ?_)
    | (intro _ _; beta_reduce)
    | (intro _; beta_reduce)
    | (with_reducible apply Keeps.ite_fst)
    | ((fail_if_no_progress extract_lets +onlyGivenNames x); first | (refine Keeps.cut x ?_ ?_; (on_goal 1 => unfold x); (on_goal 2 => (intro hx; clear_value x))) | clear_value x)
    | (with_reducible apply Keeps.ite)
    | split
    | (fail_if_no_progress simp only [Prod.mk.injEq] at *)
    | (fail_if_no_progress (with_reducible obtain ⟨rfl, -⟩ := (show (_ : State) = _ ∧ _ from by assumption)))
    | (fail_if_no_progress (with_reducible apply Keeps.fst))
    | (dsimp only)

theorem State.beginStep12_keeps (s : State) (twin : Bool) (mirdig : BitVec 256) : Keeps s (State.beginStep12 s twin mirdig) := by
  unfold State.beginStep12
  repeat' first
    | (with_reducible exact Keeps.refl _)
    | (with_reducible assumption)
    | (with_reducible apply Keeps.after (State.startBond_keeps ..))
    | (with_reducible apply Keeps.after (State.modSys_keeps ..))
    | (with_reducible apply Keeps.ite)
    | (fail_if_no_progress (with_reducible apply Keeps.mk'))
    | split
    | (dsimp only)

theorem State.ready_keeps (s : State) : Keeps s (State.ready s) := by
  unfold State.ready
  repeat' first
    | (with_reducible exact Keeps.refl _)
    | (with_reducible assumption)
    | (with_reducible apply Keeps.after (State.modSys_keeps ..))
    | (with_reducible apply Keeps.after (State.jlog_keeps ..))
    | (with_reducible apply Keeps.after (State.modBlk_keeps ..))
    | (with_reducible apply Keeps.after (State.fwReady_keeps ..))
    | (with_reducible apply Keeps.after (State.emit_keeps ..))
    | ((fail_if_no_progress extract_lets +onlyGivenNames x); first | (refine Keeps.cut x ?_ ?_; (on_goal 1 => unfold x); (on_goal 2 => (intro hx; clear_value x))) | clear_value x)
    | (with_reducible apply Keeps.ite)
    | (fail_if_no_progress (with_reducible apply Keeps.mk'))
    | split
    | (dsimp only)

theorem State.stepPass_keeps (s : State) (twin : Bool) (mirdig : BitVec 256) : Keeps s (State.stepPass s twin mirdig) := by
  unfold State.stepPass
  repeat' first
    | (with_reducible exact Keeps.refl _)
    | (with_reducible assumption)
    | (with_reducible apply Keeps.after (State.jlog_keeps ..))
    | (with_reducible apply Keeps.after (State.modSys_keeps ..))
    | (with_reducible apply Keeps.after (State.modBlk_keeps ..))
    | (with_reducible apply Keeps.after (State.setFld_keeps ..))
    | (with_reducible apply Keeps.after (State.beginStep3_keeps ..))
    | (with_reducible apply Keeps.after (State.wr_keeps ..))
    | (with_reducible apply Keeps.after (State.fence_keeps ..))
    | (with_reducible apply Keeps.after (State.beginStep11_keeps ..))
    | (with_reducible apply Keeps.after (State.beginStep12_keeps ..))
    | (with_reducible apply Keeps.after (State.ready_keeps ..))
    | (with_reducible apply Keeps.foldl)
    | (with_reducible apply Keeps.foldl_fst)
    | (with_reducible refine Keeps.foldl_of (by assumption) ?_ ?_)
    | (intro _ _; beta_reduce)
    | (intro _; beta_reduce)
    | (with_reducible apply Keeps.ite_fst)
    | ((fail_if_no_progress extract_lets +onlyGivenNames x); first | (refine Keeps.cut x ?_ ?_; (on_goal 1 => unfold x); (on_goal 2 => (intro hx; clear_value x))) | clear_value x)
    | (with_reducible apply Keeps.ite)
    | (fail_if_no_progress (with_reducible apply Keeps.mk'))
    | split
    | (fail_if_no_progress simp only [Prod.mk.injEq] at *)
    | (fail_if_no_progress (with_reducible obtain ⟨rfl, -⟩ := (show (_ : State) = _ ∧ _ from by assumption)))
    | (fail_if_no_progress (with_reducible apply Keeps.fst))
    | (dsimp only)

theorem State.haltOr_keeps (s : State) (tryNo obj detail : Nat) : Keeps s (State.haltOr s tryNo obj detail) := by
  unfold State.haltOr
  repeat' first
    | (with_reducible exact Keeps.refl _)
    | (with_reducible assumption)
    | (with_reducible apply Keeps.after (State.jlog_keeps ..))
    | (with_reducible apply Keeps.after (State.restart2_keeps ..))
    | (with_reducible apply Keeps.after (State.haltNow_keeps ..))
    | (with_reducible apply Keeps.ite)
    | split
    | (dsimp only)

theorem State.policyRestart_keeps (s : State) (tryNo obj detail : Nat) : Keeps s (State.policyRestart s tryNo obj detail) := by
  unfold State.policyRestart
  repeat' first
    | (with_reducible exact Keeps.refl _)
    | (with_reducible assumption)
    | (with_reducible apply Keeps.after (State.jlog_keeps ..))
    | (with_reducible apply Keeps.after (State.restart2_keeps ..))
    | (dsimp only)

theorem State.reduce_keeps (s : State) (tryNo obj detail : Nat) : Keeps s (State.reduce s tryNo obj detail) := by
  unfold State.reduce
  repeat' first
    | (with_reducible exact Keeps.refl _)
    | (with_reducible assumption)
    | (with_reducible apply Keeps.after (State.jlog_keeps ..))
    | (with_reducible apply Keeps.after (State.modSys_keeps ..))
    | (fail_if_no_progress (with_reducible apply Keeps.mk'))
    | (dsimp only)

theorem State.policy_keeps (s : State) (n obj detail : Nat) : Keeps s (State.policy s n obj detail) := by
  unfold State.policy
  repeat' first
    | (with_reducible exact Keeps.refl _)
    | (with_reducible assumption)
    | (with_reducible apply Keeps.after (State.modBlk_keeps ..))
    | (with_reducible apply Keeps.after (State.haltNow_keeps ..))
    | (with_reducible apply Keeps.after (State.policyRestart_keeps ..))
    | (with_reducible apply Keeps.after (State.haltOr_keeps ..))
    | (with_reducible apply Keeps.after (State.reduce_keeps ..))
    | (with_reducible apply Keeps.after (State.fence_keeps ..))
    | (with_reducible apply Keeps.after (State.event_keeps ..))
    | (with_reducible apply Keeps.after (State.jlog_keeps ..))
    | (with_reducible apply Keeps.after (State.modSys_keeps ..))
    | (with_reducible apply Keeps.after (State.setLink_keeps ..))
    | (with_reducible apply Keeps.after (State.endBond_keeps ..))
    | (with_reducible apply Keeps.after (State.setTwin_keeps ..))
    | ((fail_if_no_progress extract_lets +onlyGivenNames x); first | (refine Keeps.cut x ?_ ?_; (on_goal 1 => unfold x); (on_goal 2 => (intro hx; clear_value x))) | clear_value x)
    | (with_reducible apply Keeps.ite)
    | (fail_if_no_progress (with_reducible apply Keeps.mk'))
    | split
    | (dsimp only)

theorem State.tryFail_keeps (s : State) (obj detail : Nat) (mirdig : BitVec 256) : Keeps s (State.tryFail s obj detail mirdig) := by
  unfold State.tryFail
  repeat' first
    | (with_reducible exact Keeps.refl _)
    | (with_reducible assumption)
    | (with_reducible apply Keeps.after (State.jlog_keeps ..))
    | (with_reducible apply Keeps.after (State.modSys_keeps ..))
    | (with_reducible apply Keeps.after (State.startBond_keeps ..))
    | (with_reducible apply Keeps.after (State.policy_keeps ..))
    | ((fail_if_no_progress extract_lets +onlyGivenNames x); first | (refine Keeps.cut x ?_ ?_; (on_goal 1 => unfold x); (on_goal 2 => (intro hx; clear_value x))) | clear_value x)
    | (with_reducible apply Keeps.ite)
    | (fail_if_no_progress (with_reducible apply Keeps.mk'))
    | split
    | (dsimp only)

theorem State.vinRise_keeps (s : State) : Keeps s (State.vinRise s) := by
  unfold State.vinRise
  repeat' first
    | (with_reducible exact Keeps.refl _)
    | (with_reducible assumption)
    | (with_reducible apply Keeps.after (State.modSys_keeps ..))
    | (with_reducible apply Keeps.after (State.moduleReset_keeps ..))
    | (with_reducible apply Keeps.ite)
    | (fail_if_no_progress (with_reducible apply Keeps.mk'))
    | split
    | (dsimp only)

theorem State.vinFall_keeps (s : State) : Keeps s (State.vinFall s) := by
  unfold State.vinFall
  repeat' first
    | (with_reducible exact Keeps.refl _)
    | (with_reducible assumption)
    | (with_reducible apply Keeps.after (State.diesDown_keeps ..))
    | (with_reducible apply Keeps.after (State.modSys_keeps ..))
    | ((fail_if_no_progress extract_lets +onlyGivenNames x); first | (refine Keeps.cut x ?_ ?_; (on_goal 1 => unfold x); (on_goal 2 => (intro hx; clear_value x))) | clear_value x)
    | (with_reducible apply Keeps.ite)
    | (fail_if_no_progress (with_reducible apply Keeps.mk'))
    | split
    | (dsimp only)

theorem State.rstAssert_keeps (s : State) : Keeps s (State.rstAssert s) := by
  unfold State.rstAssert
  repeat' first
    | (with_reducible exact Keeps.refl _)
    | (with_reducible assumption)
    | (with_reducible apply Keeps.after (State.modSys_keeps ..))
    | (with_reducible apply Keeps.after (State.cause_keeps ..))
    | (with_reducible apply Keeps.after (State.moduleReset_keeps ..))
    | (with_reducible apply Keeps.ite)
    | (fail_if_no_progress (with_reducible apply Keeps.mk'))
    | split
    | (dsimp only)

theorem State.rstDeassert_keeps (s : State) : Keeps s (State.rstDeassert s) := by
  unfold State.rstDeassert
  repeat' first
    | (with_reducible exact Keeps.refl _)
    | (with_reducible assumption)
    | (with_reducible apply Keeps.after (State.modSys_keeps ..))
    | (fail_if_no_progress (with_reducible apply Keeps.mk'))
    | (dsimp only)

theorem State.overcurrent_keeps (s : State) : Keeps s (State.overcurrent s) := by
  unfold State.overcurrent
  repeat' first
    | (with_reducible exact Keeps.refl _)
    | (with_reducible assumption)
    | (with_reducible apply Keeps.after (State.shutDown_keeps ..))
    | (with_reducible apply Keeps.after (State.cause_keeps ..))
    | (with_reducible apply Keeps.ite)
    | split
    | (dsimp only)

theorem State.overvoltage_keeps (s : State) : Keeps s (State.overvoltage s) := by
  unfold State.overvoltage
  repeat' first
    | (with_reducible exact Keeps.refl _)
    | (with_reducible assumption)
    | (with_reducible apply Keeps.after (State.diesDown_keeps ..))
    | (with_reducible apply Keeps.after (State.modSys_keeps ..))
    | (with_reducible apply Keeps.after (State.cause_keeps ..))
    | (with_reducible apply Keeps.ite)
    | (fail_if_no_progress (with_reducible apply Keeps.mk'))
    | split
    | (dsimp only)

theorem State.overvoltageOff_keeps (s : State) : Keeps s (State.overvoltageOff s) := by
  unfold State.overvoltageOff
  repeat' first
    | (with_reducible exact Keeps.refl _)
    | (with_reducible assumption)
    | (with_reducible apply Keeps.after (State.modSys_keeps ..))
    | (with_reducible apply Keeps.after (State.moduleReset_keeps ..))
    | (with_reducible apply Keeps.ite)
    | (fail_if_no_progress (with_reducible apply Keeps.mk'))
    | split
    | (dsimp only)

theorem State.overtemp_keeps (s : State) (which : Nat) : Keeps s (State.overtemp s which) := by
  unfold State.overtemp
  repeat' first
    | (with_reducible exact Keeps.refl _)
    | (with_reducible assumption)
    | (with_reducible apply Keeps.after (State.shutDown_keeps ..))
    | (with_reducible apply Keeps.after (State.cause_keeps ..))
    | (with_reducible apply Keeps.ite)
    | (fail_if_no_progress (with_reducible apply Keeps.mk'))
    | split
    | (dsimp only)

theorem State.holdExpire_keeps (s : State) : Keeps s (State.holdExpire s) := by
  unfold State.holdExpire
  repeat' first
    | (with_reducible exact Keeps.refl _)
    | (with_reducible assumption)
    | (with_reducible apply Keeps.after (State.modSys_keeps ..))
    | (with_reducible apply Keeps.after (State.moduleReset_keeps ..))
    | ((fail_if_no_progress extract_lets +onlyGivenNames x); first | (refine Keeps.cut x ?_ ?_; (on_goal 1 => unfold x); (on_goal 2 => (intro hx; clear_value x))) | clear_value x)
    | (with_reducible apply Keeps.ite)
    | (fail_if_no_progress (with_reducible apply Keeps.mk'))
    | split
    | (dsimp only)

theorem State.sbCtl_keeps (s : State) (v : Word) : Keeps s (State.sbCtl s v) := by
  unfold State.sbCtl
  repeat' first
    | (with_reducible exact Keeps.refl _)
    | (with_reducible assumption)
    | (with_reducible apply Keeps.after (State.plainWrite_keeps ..))
    | (with_reducible apply Keeps.after (State.modBlk_keeps ..))
    | (with_reducible apply Keeps.after (State.cause_keeps ..))
    | (with_reducible apply Keeps.after (State.moduleReset_keeps ..))
    | ((fail_if_no_progress extract_lets +onlyGivenNames x); first | (refine Keeps.cut x ?_ ?_; (on_goal 1 => unfold x); (on_goal 2 => (intro hx; clear_value x))) | clear_value x)
    | (with_reducible apply Keeps.ite)
    | (fail_if_no_progress (with_reducible apply Keeps.mk'))
    | split
    | (dsimp only)

theorem State.fatal_keeps (s : State) (type src : Nat) (data : List Byte) : Keeps s (State.fatal s type src data) := by
  unfold State.fatal
  repeat' first
    | (with_reducible exact Keeps.refl _)
    | (with_reducible assumption)
    | (with_reducible apply Keeps.after (State.event_keeps ..))
    | (with_reducible apply Keeps.after (State.emit_keeps ..))
    | (with_reducible apply Keeps.after (State.setFld_keeps ..))
    | (with_reducible apply Keeps.after (State.stopProgram_keeps ..))
    | (with_reducible apply Keeps.after (State.finish_keeps ..))
    | (with_reducible apply Keeps.after (State.launchGone_keeps ..))
    | (with_reducible apply Keeps.foldl)
    | (with_reducible apply Keeps.foldl_fst)
    | (with_reducible refine Keeps.foldl_of (by assumption) ?_ ?_)
    | (intro _ _; beta_reduce)
    | (intro _; beta_reduce)
    | (with_reducible apply Keeps.ite_fst)
    | ((fail_if_no_progress extract_lets +onlyGivenNames x); first | (refine Keeps.cut x ?_ ?_; (on_goal 1 => unfold x); (on_goal 2 => (intro hx; clear_value x))) | clear_value x)
    | (with_reducible apply Keeps.ite)
    | split
    | (fail_if_no_progress simp only [Prod.mk.injEq] at *)
    | (fail_if_no_progress (with_reducible obtain ⟨rfl, -⟩ := (show (_ : State) = _ ∧ _ from by assumption)))
    | (fail_if_no_progress (with_reducible apply Keeps.fst))
    | (dsimp only)

theorem State.d2dResend_keeps (s : State) (d : DieId) (vert : Bool) : Keeps s (State.d2dResend s d vert) := by
  unfold State.d2dResend
  repeat' first
    | (with_reducible exact Keeps.refl _)
    | (with_reducible assumption)
    | (with_reducible apply Keeps.after (State.corrected_keeps ..))
    | ((fail_if_no_progress extract_lets +onlyGivenNames x); first | (refine Keeps.cut x ?_ ?_; (on_goal 1 => unfold x); (on_goal 2 => (intro hx; clear_value x))) | clear_value x)
    | (with_reducible apply Keeps.ite)
    | (fail_if_no_progress (with_reducible apply Keeps.mk'))
    | split
    | (fail_if_no_progress simp only [Prod.mk.injEq] at *)
    | (fail_if_no_progress (with_reducible obtain ⟨rfl, -⟩ := (show (_ : State) = _ ∧ _ from by assumption)))
    | (dsimp only)

theorem State.d2dTrained_keeps (s : State) (d : DieId) (vert ok : Bool) : Keeps s (State.d2dTrained s d vert ok) := by
  unfold State.d2dTrained
  repeat' first
    | (with_reducible exact Keeps.refl _)
    | (with_reducible assumption)
    | (with_reducible apply Keeps.after (State.fatal_keeps ..))
    | ((fail_if_no_progress extract_lets +onlyGivenNames x); first | (refine Keeps.cut x ?_ ?_; (on_goal 1 => unfold x); (on_goal 2 => (intro hx; clear_value x))) | clear_value x)
    | (with_reducible apply Keeps.ite)
    | (fail_if_no_progress (with_reducible apply Keeps.mk'))
    | split
    | (fail_if_no_progress simp only [Prod.mk.injEq] at *)
    | (fail_if_no_progress (with_reducible obtain ⟨rfl, -⟩ := (show (_ : State) = _ ∧ _ from by assumption)))
    | (dsimp only)

theorem State.opFwStage_keeps (s : State) (x : CmdRec) : Keeps s (State.opFwStage s x) := by
  unfold State.opFwStage
  repeat' first
    | (with_reducible exact Keeps.refl _)
    | (with_reducible assumption)
    | (with_reducible apply Keeps.after (State.reply_keeps ..))
    | (with_reducible apply Keeps.after (State.clampTo_keeps ..))
    | (with_reducible refine State.clampTo_keepsOf (by assumption) ?_)
    | (with_reducible apply Keeps.after (State.modBlk_keeps ..))
    | (with_reducible apply Keeps.after (State.wrFlash_keeps ..))
    | (with_reducible apply Keeps.after (State.modSys_keeps ..))
    | (with_reducible apply Keeps.after (State.take_keeps ..))
    | (with_reducible refine State.take_keepsOf (by assumption) ?_)
    | ((fail_if_no_progress extract_lets +onlyGivenNames x); first | (refine Keeps.cut x ?_ ?_; (on_goal 1 => unfold x); (on_goal 2 => (intro hx; clear_value x))) | clear_value x)
    | (with_reducible apply Keeps.ite)
    | (fail_if_no_progress (with_reducible apply Keeps.mk'))
    | split
    | (fail_if_no_progress simp only [Prod.mk.injEq] at *)
    | (fail_if_no_progress (with_reducible obtain ⟨rfl, -⟩ := (show (_ : State) = _ ∧ _ from by assumption)))
    | (dsimp only)

theorem State.stageDone_keeps (s : State) (readErr : Bool) : Keeps s (State.stageDone s readErr) := by
  unfold State.stageDone
  repeat' first
    | (with_reducible exact Keeps.refl _)
    | (with_reducible assumption)
    | (with_reducible apply Keeps.after (State.wrFlash_keeps ..))
    | (with_reducible apply Keeps.after (State.modSys_keeps ..))
    | (with_reducible apply Keeps.after (State.modBlk_keeps ..))
    | (with_reducible apply Keeps.after (State.finish_keeps ..))
    | ((fail_if_no_progress extract_lets +onlyGivenNames x); first | (refine Keeps.cut x ?_ ?_; (on_goal 1 => unfold x); (on_goal 2 => (intro hx; clear_value x))) | clear_value x)
    | (with_reducible apply Keeps.ite)
    | (fail_if_no_progress (with_reducible apply Keeps.mk'))
    | split
    | (dsimp only)

theorem State.opFwActivate_keeps (s : State) (x : CmdRec) : Keeps s (State.opFwActivate s x).1 := by
  rw [State.opFwActivate]
  repeat' first
    | (with_reducible exact Keeps.refl _)
    | (with_reducible assumption)
    | (with_reducible apply Keeps.after (State.reply_keeps ..))
    | (with_reducible apply Keeps.after (State.modBlk_keeps ..))
    | (with_reducible apply Keeps.ite_fst)
    | ((fail_if_no_progress extract_lets +onlyGivenNames x); first | (refine Keeps.cut x ?_ ?_; (on_goal 1 => unfold x); (on_goal 2 => (intro hx; clear_value x))) | clear_value x)
    | (with_reducible apply Keeps.ite)
    | (fail_if_no_progress (with_reducible apply Keeps.mk'))
    | split
    | (fail_if_no_progress (with_reducible apply Keeps.fst))
    | (dsimp only)


theorem State.opFwActivate_keepsOf {s : State} {x : CmdRec} {s0 st1 : State} {res1} (h0 : State.opFwActivate s x = (st1, res1)) (k0 : Keeps s0 s) : Keeps s0 st1 := by
  have q := State.opFwActivate_keeps s x
  rw [h0] at q
  exact k0.trans q

theorem State.opFwStatus_keeps (s : State) (x : CmdRec) : Keeps s (State.opFwStatus s x) := by
  unfold State.opFwStatus
  repeat' first
    | (with_reducible exact Keeps.refl _)
    | (with_reducible assumption)
    | (with_reducible apply Keeps.after (State.finish_keeps ..))
    | (dsimp only)

theorem State.opSvnCommit_keeps (s : State) (x : CmdRec) : Keeps s (s.opSvnCommit x) := by
  unfold State.opSvnCommit
  extract_lets m t keep
  refine Keeps.trans ?_ ((State.modBlk_keeps ..).trans (State.reply_keeps ..))
  exact ⟨rfl, rfl, Nat.le_refl _, List.prefix_refl _, fun h => ⟨h.mem, h.poison, h.regs, h.cores, h.sorters, h.dies⟩⟩

theorem State.opJnlRead_keeps (s : State) (x : CmdRec) : Keeps s (State.opJnlRead s x) := by
  unfold State.opJnlRead
  repeat' first
    | (with_reducible exact Keeps.refl _)
    | (with_reducible assumption)
    | (with_reducible apply Keeps.after (State.cmdWrite_keeps ..))
    | (with_reducible refine State.cmdWrite_keepsOf (by assumption) ?_)
    | (with_reducible apply Keeps.after (State.finish_keeps ..))
    | (with_reducible apply Keeps.after (State.reply_keeps ..))
    | ((fail_if_no_progress extract_lets +onlyGivenNames x); first | (refine Keeps.cut x ?_ ?_; (on_goal 1 => unfold x); (on_goal 2 => (intro hx; clear_value x))) | clear_value x)
    | (with_reducible apply Keeps.ite)
    | split
    | (fail_if_no_progress simp only [Prod.mk.injEq] at *)
    | (fail_if_no_progress (with_reducible obtain ⟨rfl, -⟩ := (show (_ : State) = _ ∧ _ from by assumption)))
    | (dsimp only)

theorem State.opJnlState_keeps (s : State) (x : CmdRec) : Keeps s (State.opJnlState s x) := by
  unfold State.opJnlState
  repeat' first
    | (with_reducible exact Keeps.refl _)
    | (with_reducible assumption)
    | (with_reducible apply Keeps.after (State.takeBytes_keeps ..))
    | (with_reducible refine State.takeBytes_keepsOf (by assumption) ?_)
    | (with_reducible apply Keeps.after (State.writeOut_keeps ..))
    | ((fail_if_no_progress extract_lets +onlyGivenNames x); first | (refine Keeps.cut x ?_ ?_; (on_goal 1 => unfold x); (on_goal 2 => (intro hx; clear_value x))) | clear_value x)
    | (with_reducible apply Keeps.ite)
    | split
    | (fail_if_no_progress simp only [Prod.mk.injEq] at *)
    | (fail_if_no_progress (with_reducible obtain ⟨rfl, -⟩ := (show (_ : State) = _ ∧ _ from by assumption)))
    | (dsimp only)

theorem State.opJnlPolicy_keeps (s : State) (x : CmdRec) : Keeps s (State.opJnlPolicy s x) := by
  unfold State.opJnlPolicy
  repeat' first
    | (with_reducible exact Keeps.refl _)
    | (with_reducible assumption)
    | (with_reducible apply Keeps.after (State.modBlk_keeps ..))
    | (with_reducible apply Keeps.after (State.reply_keeps ..))
    | ((fail_if_no_progress extract_lets +onlyGivenNames x); first | (refine Keeps.cut x ?_ ?_; (on_goal 1 => unfold x); (on_goal 2 => (intro hx; clear_value x))) | clear_value x)
    | (with_reducible apply Keeps.ite)
    | (fail_if_no_progress (with_reducible apply Keeps.mk'))
    | split
    | (dsimp only)

end Sys2Proof.Machine
end

