-- ==== Sys2Proof/Laws/KeepsRegFile.lean ====
section
/-!
SUPPORT. Sys2Proof/Laws/KeepsRegFile.lean: what the operations of Machine/RegFile.lean keep of a state (`Keeps`).
-/
set_option linter.unusedTactic false
set_option linter.unreachableTactic false
namespace Sys2Proof.Machine

theorem State.regRead_keeps (s : State) (a : Nat) (e : Ep) : Keeps s (State.regRead s a e) := by
  unfold State.regRead
  repeat' first
    | (with_reducible exact Keeps.refl _)
    | (with_reducible assumption)
    | (with_reducible apply Keeps.after (State.ctrl_keeps ..))
    | (with_reducible apply Keeps.after (State.bumpRt_keeps ..))
    | ((fail_if_no_progress extract_lets +onlyGivenNames x); first | (refine Keeps.cut x ?_ ?_; (on_goal 1 => unfold x); (on_goal 2 => (intro hx; clear_value x))) | clear_value x)
    | (with_reducible apply Keeps.ite)
    | split
    | (dsimp only)

theorem State.sqCfg_keeps (s : State) (n : Nat) (v : Word) : Keeps s (State.sqCfg s n v) := by
  unfold State.sqCfg
  repeat' first
    | (with_reducible exact Keeps.refl _)
    | (with_reducible assumption)
    | (with_reducible apply Keeps.after (State.setFld_keeps ..))
    | (with_reducible apply Keeps.after (State.plainWrite_keeps ..))
    | (with_reducible apply Keeps.after (State.wr_keeps ..))
    | ((fail_if_no_progress extract_lets +onlyGivenNames x); first | (refine Keeps.cut x ?_ ?_; (on_goal 1 => unfold x); (on_goal 2 => (intro hx; clear_value x))) | clear_value x)
    | (with_reducible apply Keeps.ite)
    | split
    | (dsimp only)

theorem State.cqCfg_keeps (s : State) (n : Nat) (v : Word) : Keeps s (State.cqCfg s n v) := by
  unfold State.cqCfg
  repeat' first
    | (with_reducible exact Keeps.refl _)
    | (with_reducible assumption)
    | (with_reducible apply Keeps.after (State.setFld_keeps ..))
    | (with_reducible apply Keeps.after (State.plainWrite_keeps ..))
    | (with_reducible apply Keeps.after (State.wr_keeps ..))
    | (with_reducible apply Keeps.after (State.flushReplies_keeps ..))
    | ((fail_if_no_progress extract_lets +onlyGivenNames x); first | (refine Keeps.cut x ?_ ?_; (on_goal 1 => unfold x); (on_goal 2 => (intro hx; clear_value x))) | clear_value x)
    | (with_reducible apply Keeps.ite)
    | (fail_if_no_progress (with_reducible apply Keeps.mk'))
    | split
    | (dsimp only)

theorem State.ringBaseWrite_keeps (s : State) (on : Bool) (a : Nat) (v : Word) : Keeps s (State.ringBaseWrite s on a v) := by
  unfold State.ringBaseWrite
  repeat' first
    | (with_reducible exact Keeps.refl _)
    | (with_reducible assumption)
    | (with_reducible apply Keeps.after (State.plainWrite_keeps ..))
    | (with_reducible apply Keeps.ite)
    | split
    | (dsimp only)

theorem State.cqHead_keeps (s : State) (n : Nat) (v : Word) : Keeps s (State.cqHead s n v) := by
  unfold State.cqHead
  repeat' first
    | (with_reducible exact Keeps.refl _)
    | (with_reducible assumption)
    | (with_reducible apply Keeps.after (State.plainWrite_keeps ..))
    | (with_reducible apply Keeps.after (State.flushReplies_keeps ..))
    | (dsimp only)

theorem State.winWrite_keeps (s : State) (i : Nat) (v : Word) : Keeps s (State.winWrite s i v) := by
  unfold State.winWrite
  repeat' first
    | (with_reducible exact Keeps.refl _)
    | (with_reducible assumption)
    | (with_reducible apply Keeps.after (State.wr_keeps ..))
    | ((fail_if_no_progress extract_lets +onlyGivenNames x); first | (refine Keeps.cut x ?_ ?_; (on_goal 1 => unfold x); (on_goal 2 => (intro hx; clear_value x))) | clear_value x)
    | (with_reducible apply Keeps.ite)
    | split
    | (dsimp only)

theorem State.logBase_keeps (s : State) (v : Word) : Keeps s (State.logBase s v) := by
  unfold State.logBase
  repeat' first
    | (with_reducible exact Keeps.refl _)
    | (with_reducible assumption)
    | (with_reducible apply Keeps.after (State.plainWrite_keeps ..))
    | (with_reducible apply Keeps.after (State.wr_keeps ..))
    | (with_reducible apply Keeps.after (State.logPut_keeps ..))
    | (with_reducible apply Keeps.after (State.bump_keeps ..))
    | (with_reducible apply Keeps.after (State.setFld_keeps ..))
    | (with_reducible apply Keeps.foldl)
    | (with_reducible apply Keeps.foldl_fst)
    | (with_reducible refine Keeps.foldl_of (by assumption) ?_ ?_)
    | (intro _ _; beta_reduce)
    | (intro _; beta_reduce)
    | (with_reducible apply Keeps.ite_fst)
    | ((fail_if_no_progress extract_lets +onlyGivenNames x); first | (refine Keeps.cut x ?_ ?_; (on_goal 1 => unfold x); (on_goal 2 => (intro hx; clear_value x))) | clear_value x)
    | (with_reducible apply Keeps.ite)
    | (fail_if_no_progress (with_reducible apply Keeps.mk'))
    | split
    | (fail_if_no_progress simp only [Prod.mk.injEq] at *)
    | (fail_if_no_progress (with_reducible obtain ⟨rfl, -⟩ := (show (_ : State) = _ ∧ _ from by assumption)))
    | (fail_if_no_progress (with_reducible apply Keeps.fst))
    | (dsimp only)

theorem State.msixWrite_keeps (s : State) (a : Nat) (v : Word) : Keeps s (s.msixWrite a v) := by
  unfold State.msixWrite
  extract_lets o n t pend
  have ht : Keeps s t := State.wr_keeps ..
  exact Keeps.ite (.refl _) (Keeps.ite (State.wr_keeps ..) (Keeps.ite ((ht.trans (State.wr_keeps ..)).trans (State.msix_keeps ..)) ht))

theorem State.stmWrite_keeps (s : State) (d : DieId) (a : Nat) (v : Word) : Keeps s (State.stmWrite s d a v) := by
  unfold State.stmWrite
  repeat' first
    | (with_reducible exact Keeps.refl _)
    | (with_reducible assumption)
    | (with_reducible apply Keeps.after (State.plainWrite_keeps ..))
    | (with_reducible apply Keeps.after (State.setRing_keeps ..))
    | (with_reducible apply Keeps.after (State.ringDisable_keeps ..))
    | (with_reducible apply Keeps.after (State.ringFix_keeps ..))
    | (with_reducible apply Keeps.after (State.ringEnable_keeps ..))
    | ((fail_if_no_progress extract_lets +onlyGivenNames x); first | (refine Keeps.cut x ?_ ?_; (on_goal 1 => unfold x); (on_goal 2 => (intro hx; clear_value x))) | clear_value x)
    | (with_reducible apply Keeps.ite)
    | (fail_if_no_progress (with_reducible apply Keeps.mk'))
    | split
    | (dsimp only)

theorem State.nocWrite_keeps (s : State) (d : DieId) (a : Nat) (v : Word) : Keeps s (State.nocWrite s d a v) := by
  unfold State.nocWrite
  repeat' first
    | (with_reducible exact Keeps.refl _)
    | (with_reducible assumption)
    | (with_reducible apply Keeps.after (State.plainWrite_keeps ..))
    | (with_reducible apply State.onBit_after)
    | (intro _; beta_reduce)
    | (with_reducible apply Keeps.after (State.nocClear_keeps ..))
    | (with_reducible apply Keeps.after (State.redWrite_keeps ..))
    | (with_reducible apply Keeps.after (State.mcgWrite_keeps ..))
    | (with_reducible apply Keeps.after (State.fence_keeps ..))
    | (with_reducible apply Keeps.after (State.release_keeps ..))
    | ((fail_if_no_progress extract_lets +onlyGivenNames x); first | (refine Keeps.cut x ?_ ?_; (on_goal 1 => unfold x); (on_goal 2 => (intro hx; clear_value x))) | clear_value x)
    | (with_reducible apply Keeps.ite)
    | split
    | (dsimp only)

theorem State.synWrite_keeps (s : State) (k : Nat) (a : Nat) (v : Word) : Keeps s (State.synWrite s k a v) := by
  unfold State.synWrite
  repeat' first
    | (with_reducible exact Keeps.refl _)
    | (with_reducible assumption)
    | (with_reducible apply State.onBit_after)
    | (intro _; beta_reduce)
    | (with_reducible apply Keeps.after (State.clear_keeps ..))
    | (with_reducible apply Keeps.after (State.valWrite_keeps ..))
    | (with_reducible apply Keeps.after (State.advWrite_keeps ..))
    | (with_reducible apply Keeps.after (State.attrWrite_keeps ..))
    | (with_reducible apply Keeps.after (State.plainWrite_keeps ..))
    | ((fail_if_no_progress extract_lets +onlyGivenNames x); first | (refine Keeps.cut x ?_ ?_; (on_goal 1 => unfold x); (on_goal 2 => (intro hx; clear_value x))) | clear_value x)
    | (with_reducible apply Keeps.ite)
    | split
    | (dsimp only)

theorem State.barWrite_keeps (s : State) (d : DieId) (a : Nat) (v : Word) : Keeps s (State.barWrite s d a v) := by
  unfold State.barWrite
  repeat' first
    | (with_reducible exact Keeps.refl _)
    | (with_reducible assumption)
    | (with_reducible apply Keeps.after (State.plainWrite_keeps ..))
    | (with_reducible apply Keeps.after (State.barCfgWrite_keeps ..))
    | (with_reducible apply Keeps.after (State.barMaskWrite_keeps ..))
    | ((fail_if_no_progress extract_lets +onlyGivenNames x); first | (refine Keeps.cut x ?_ ?_; (on_goal 1 => unfold x); (on_goal 2 => (intro hx; clear_value x))) | clear_value x)
    | (with_reducible apply Keeps.ite)
    | (fail_if_no_progress (with_reducible apply Keeps.mk'))
    | split
    | (dsimp only)

theorem State.cmdWriteReg_keeps (s : State) (a : Nat) (v : Word) : Keeps s (State.cmdWriteReg s a v) := by
  unfold State.cmdWriteReg
  repeat' first
    | (with_reducible exact Keeps.refl _)
    | (with_reducible assumption)
    | (with_reducible apply State.onBit_after)
    | (intro _; beta_reduce)
    | (with_reducible apply Keeps.after (State.clear_keeps ..))
    | (with_reducible apply Keeps.after (State.winWrite_keeps ..))
    | (with_reducible apply Keeps.after (State.ringBaseWrite_keeps ..))
    | (with_reducible apply Keeps.after (State.sqCfg_keeps ..))
    | (with_reducible apply Keeps.after (State.cqCfg_keeps ..))
    | (with_reducible apply Keeps.after (State.plainWrite_keeps ..))
    | (with_reducible apply Keeps.after (State.cqHead_keeps ..))
    | ((fail_if_no_progress extract_lets +onlyGivenNames x); first | (refine Keeps.cut x ?_ ?_; (on_goal 1 => unfold x); (on_goal 2 => (intro hx; clear_value x))) | clear_value x)
    | (with_reducible apply Keeps.ite)
    | (fail_if_no_progress (with_reducible apply Keeps.mk'))
    | split
    | (dsimp only)

theorem State.writeReg_keeps (s : State) (a : Nat) (v : Word) (e : Ep) : Keeps s (State.writeReg s a v e) := by
  unfold State.writeReg
  repeat' first
    | (with_reducible exact Keeps.refl _)
    | (with_reducible assumption)
    | (with_reducible apply Keeps.after (State.mbxRegWrite_keeps ..))
    | (with_reducible apply Keeps.after (State.regIn_keeps ..))
    | (with_reducible apply Keeps.after (State.memStep_keeps ..))
    | (with_reducible apply Keeps.after (State.rgnWrite_keeps ..))
    | (with_reducible apply Keeps.after (State.plainWrite_keeps ..))
    | (with_reducible apply State.onBit_after)
    | (intro _; beta_reduce)
    | (with_reducible apply Keeps.after (State.dmaClear_keeps ..))
    | (with_reducible apply Keeps.after (State.stmWrite_keeps ..))
    | (with_reducible apply Keeps.after (State.clear_keeps ..))
    | (with_reducible apply Keeps.after (State.arbSeed_keeps ..))
    | (with_reducible apply Keeps.after (State.nocWrite_keeps ..))
    | (with_reducible apply Keeps.after (State.synWrite_keeps ..))
    | (with_reducible apply Keeps.after (State.barWrite_keeps ..))
    | (with_reducible apply Keeps.after (State.wr_keeps ..))
    | (with_reducible apply Keeps.after (State.rplSeed_keeps ..))
    | (with_reducible apply Keeps.after (State.cmdWriteReg_keeps ..))
    | (with_reducible apply Keeps.after (State.logBase_keeps ..))
    | ((fail_if_no_progress extract_lets +onlyGivenNames x); first | (refine Keeps.cut x ?_ ?_; (on_goal 1 => unfold x); (on_goal 2 => (intro hx; clear_value x))) | clear_value x)
    | (with_reducible apply Keeps.ite)
    | (fail_if_no_progress (with_reducible apply Keeps.mk'))
    | split
    | (dsimp only)

theorem State.sbWrite_keeps (s : State) (a : Nat) (v : Word) : Keeps s (State.sbWrite s a v) := by
  unfold State.sbWrite
  repeat' first
    | (with_reducible exact Keeps.refl _)
    | (with_reducible assumption)
    | (with_reducible apply Keeps.after (State.sbCtl_keeps ..))
    | (with_reducible apply Keeps.after (State.plainWrite_keeps ..))
    | (with_reducible apply Keeps.ite)
    | split
    | (dsimp only)

theorem State.writeBy_keeps (s : State) (a : Nat) (v : Word) (who : Writer) : Keeps s (State.writeBy s a v who) := by
  unfold State.writeBy
  repeat' first
    | (with_reducible exact Keeps.refl _)
    | (with_reducible assumption)
    | (with_reducible apply Keeps.after (State.writeReg_keeps ..))
    | (with_reducible apply Keeps.after (State.msixWrite_keeps ..))
    | (with_reducible apply Keeps.after (State.mbxRegWrite_keeps ..))
    | (with_reducible apply Keeps.after (State.sbWrite_keeps ..))
    | (with_reducible apply Keeps.ite)
    | (fail_if_no_progress (with_reducible apply Keeps.mk'))
    | split
    | (dsimp only)

theorem State.opRegRead_keeps (s : State) (x : CmdRec) : Keeps s (State.opRegRead s x) := by
  unfold State.opRegRead
  repeat' first
    | (with_reducible exact Keeps.refl _)
    | (with_reducible assumption)
    | (with_reducible apply Keeps.after (State.regRead_keeps ..))
    | (with_reducible apply Keeps.after (State.finish_keeps ..))
    | ((fail_if_no_progress extract_lets +onlyGivenNames x); first | (refine Keeps.cut x ?_ ?_; (on_goal 1 => unfold x); (on_goal 2 => (intro hx; clear_value x))) | clear_value x)
    | (with_reducible apply Keeps.ite)
    | split
    | (dsimp only)

theorem State.opRegWrite_keeps (s : State) (x : CmdRec) : Keeps s (State.opRegWrite s x) := by
  unfold State.opRegWrite
  repeat' first
    | (with_reducible exact Keeps.refl _)
    | (with_reducible assumption)
    | (with_reducible apply Keeps.after (State.reply_keeps ..))
    | (with_reducible apply Keeps.after (State.writeReg_keeps ..))
    | ((fail_if_no_progress extract_lets +onlyGivenNames x); first | (refine Keeps.cut x ?_ ?_; (on_goal 1 => unfold x); (on_goal 2 => (intro hx; clear_value x))) | clear_value x)
    | (with_reducible apply Keeps.ite)
    | split
    | (dsimp only)

end Sys2Proof.Machine
end

