-- ==== Sys2Proof/Laws/KeepsRings.lean ====
section
/-!
SUPPORT. Sys2Proof/Laws/KeepsRings.lean: what the operations of Machine/Rings.lean keep of a state (`Keeps`).
-/
set_option linter.unusedTactic false
set_option linter.unreachableTactic false
namespace Sys2Proof.Machine

theorem State.restartAfter_keeps (s : State) (x : CmdRec) : Keeps s (State.restartAfter s x) := by
  unfold State.restartAfter
  repeat' first
    | (with_reducible exact Keeps.refl _)
    | (with_reducible assumption)
    | (with_reducible apply Keeps.after (State.reply_keeps ..))
    | (with_reducible apply Keeps.after (State.restart2_keeps ..))
    | (with_reducible apply Keeps.after (State.modCmd_keeps ..))
    | (with_reducible apply Keeps.after (State.defer_keeps ..))
    | (with_reducible apply Keeps.ite)
    | (fail_if_no_progress (with_reducible apply Keeps.mk'))
    | split
    | (dsimp only)

theorem State.opActivate_keeps (s : State) (x : CmdRec) : Keeps s (State.opActivate s x) := by
  unfold State.opActivate
  repeat' first
    | (with_reducible exact Keeps.refl _)
    | (with_reducible assumption)
    | (with_reducible apply Keeps.after (State.opFwActivate_keeps ..))
    | (with_reducible refine State.opFwActivate_keepsOf (by assumption) ?_)
    | (with_reducible apply Keeps.after (State.restartAfter_keeps ..))
    | ((fail_if_no_progress extract_lets +onlyGivenNames x); first | (refine Keeps.cut x ?_ ?_; (on_goal 1 => unfold x); (on_goal 2 => (intro hx; clear_value x))) | clear_value x)
    | (with_reducible apply Keeps.ite)
    | split
    | (fail_if_no_progress simp only [Prod.mk.injEq] at *)
    | (fail_if_no_progress (with_reducible obtain ⟨rfl, -⟩ := (show (_ : State) = _ ∧ _ from by assumption)))
    | (dsimp only)

theorem State.runOp_keeps (s : State) (x : CmdRec) (ext : Nat) : Keeps s (State.runOp s x ext) := by
  unfold State.runOp
  repeat' first
    | (with_reducible exact Keeps.refl _)
    | (with_reducible assumption)
    | (with_reducible apply Keeps.after (State.opNop_keeps ..))
    | (with_reducible apply Keeps.after (State.opIdentify_keeps ..))
    | (with_reducible apply Keeps.after (State.opEnumerate_keeps ..))
    | (with_reducible apply Keeps.after (State.opHealth_keeps ..))
    | (with_reducible apply Keeps.after (State.opRegRead_keeps ..))
    | (with_reducible apply Keeps.after (State.opRegWrite_keeps ..))
    | (with_reducible apply Keeps.after (State.opCopy_keeps ..))
    | (with_reducible apply Keeps.after (State.opFill_keeps ..))
    | (with_reducible apply Keeps.after (State.opMap_keeps ..))
    | (with_reducible apply Keeps.after (State.opUnmap_keeps ..))
    | (with_reducible apply Keeps.after (State.opMark_keeps ..))
    | (with_reducible apply Keeps.after (State.opPtPool_keeps ..))
    | (with_reducible apply Keeps.after (State.opRedSet_keeps ..))
    | (with_reducible apply Keeps.after (State.opMcgSet_keeps ..))
    | (with_reducible apply Keeps.after (State.opBias_keeps ..))
    | (with_reducible apply Keeps.after (State.opLaunch_keeps ..))
    | (with_reducible apply Keeps.after (State.opStop_keeps ..))
    | (with_reducible apply Keeps.after (State.opLaunchStatus_keeps ..))
    | (with_reducible apply Keeps.after (State.opRaise_keeps ..))
    | (with_reducible apply Keeps.after (State.opSyncAdv_keeps ..))
    | (with_reducible apply Keeps.after (State.opSyncRead_keeps ..))
    | (with_reducible apply Keeps.after (State.opSyncSet_keeps ..))
    | (with_reducible apply Keeps.after (State.opSyncAttr_keeps ..))
    | (with_reducible apply Keeps.after (State.opSyncWait_keeps ..))
    | (with_reducible apply Keeps.after (State.opBarCfg_keeps ..))
    | (with_reducible apply Keeps.after (State.opBarArrive_keeps ..))
    | (with_reducible apply Keeps.after (State.opConfigStage_keeps ..))
    | (with_reducible apply Keeps.after (State.opConfigCommit_keeps ..))
    | (with_reducible apply Keeps.after (State.opConfigStatus_keeps ..))
    | (with_reducible apply Keeps.after (State.opSetImmediate_keeps ..))
    | (with_reducible apply Keeps.after (State.opPowerSetting_keeps ..))
    | (with_reducible apply Keeps.after (State.opPowerStatus_keeps ..))
    | (with_reducible apply Keeps.after (State.opFunc_keeps ..))
    | (with_reducible apply Keeps.after (State.opPark_keeps ..))
    | (with_reducible apply Keeps.after (State.opWake_keeps ..))
    | (with_reducible apply Keeps.after (State.opFence_keeps ..))
    | (with_reducible apply Keeps.after (State.opUnfence_keeps ..))
    | (with_reducible apply Keeps.after (State.opFenceStatus_keeps ..))
    | (with_reducible apply Keeps.after (State.opFabPortSet_keeps ..))
    | (with_reducible apply Keeps.after (State.opFabPortStatus_keeps ..))
    | (with_reducible apply Keeps.after (State.opGroupSet_keeps ..))
    | (with_reducible apply Keeps.after (State.opChanSet_keeps ..))
    | (with_reducible apply Keeps.after (State.opShardSet_keeps ..))
    | (with_reducible apply Keeps.after (State.opDeadlineSet_keeps ..))
    | (with_reducible apply Keeps.after (State.opGroupClear_keeps ..))
    | (with_reducible apply Keeps.after (State.opTwnBond_keeps ..))
    | (with_reducible apply Keeps.after (State.opTwnUnbond_keeps ..))
    | (with_reducible apply Keeps.after (State.opTwnMirrorSet_keeps ..))
    | (with_reducible apply Keeps.after (State.opTwnStatus_keeps ..))
    | (with_reducible apply Keeps.after (State.opTwnStore_keeps ..))
    | (with_reducible apply Keeps.after (State.opStepOpen_keeps ..))
    | (with_reducible apply Keeps.after (State.opStepClose_keeps ..))
    | (with_reducible apply Keeps.after (State.opPlanInstall_keeps ..))
    | (with_reducible apply Keeps.after (State.opSchedSet_keeps ..))
    | (with_reducible apply Keeps.after (State.opStepStatus_keeps ..))
    | (with_reducible apply Keeps.after (State.opRplRecordStart_keeps ..))
    | (with_reducible apply Keeps.after (State.opRplRecordStop_keeps ..))
    | (with_reducible apply Keeps.after (State.opRplStatus_keeps ..))
    | (with_reducible apply Keeps.after (State.opRplReplayStart_keeps ..))
    | (with_reducible apply Keeps.after (State.opRplReplayStop_keeps ..))
    | (with_reducible apply Keeps.after (State.opRplMark_keeps ..))
    | (with_reducible apply Keeps.after (State.opFwStage_keeps ..))
    | (with_reducible apply Keeps.after (State.opActivate_keeps ..))
    | (with_reducible apply Keeps.after (State.opFwStatus_keeps ..))
    | (with_reducible apply Keeps.after (State.restartAfter_keeps ..))
    | (with_reducible apply Keeps.after (State.opSvnCommit_keeps ..))
    | (with_reducible apply Keeps.after (State.opJnlRead_keeps ..))
    | (with_reducible apply Keeps.after (State.opJnlState_keeps ..))
    | (with_reducible apply Keeps.after (State.opJnlPolicy_keeps ..))
    | (with_reducible apply Keeps.after (State.reply_keeps ..))
    | (with_reducible apply Keeps.ite)
    | (fail_if_no_progress (with_reducible apply Keeps.mk'))
    | split
    | (dsimp only)

theorem State.runCmd_keeps (s : State) (x : CmdRec) (ext : Nat) : Keeps s (State.runCmd s x ext) := by
  unfold State.runCmd
  repeat' first
    | (with_reducible exact Keeps.refl _)
    | (with_reducible assumption)
    | (with_reducible apply Keeps.after (State.reply_keeps ..))
    | (with_reducible apply Keeps.after (State.runOp_keeps ..))
    | (with_reducible apply Keeps.after (State.modCmd_keeps ..))
    | (with_reducible apply Keeps.after (State.defer_keeps ..))
    | ((fail_if_no_progress extract_lets +onlyGivenNames x); first | (refine Keeps.cut x ?_ ?_; (on_goal 1 => unfold x); (on_goal 2 => (intro hx; clear_value x))) | clear_value x)
    | (with_reducible apply Keeps.ite)
    | (fail_if_no_progress (with_reducible apply Keeps.mk'))
    | split
    | (dsimp only)

theorem State.waitTry_keeps (s : State) (id : Nat) : Keeps s (State.waitTry s id) := by
  unfold State.waitTry
  repeat' first
    | (with_reducible exact Keeps.refl _)
    | (with_reducible assumption)
    | (with_reducible apply Keeps.after (State.modCmd_keeps ..))
    | (with_reducible apply Keeps.after (State.runOp_keeps ..))
    | (with_reducible apply KeepsO.getD)
    | ((fail_if_no_progress extract_lets +onlyGivenNames x); first | (refine Keeps.cut x ?_ ?_; (on_goal 1 => unfold x); (on_goal 2 => (intro hx; clear_value x))) | clear_value x)
    | (with_reducible apply Keeps.ite)
    | (fail_if_no_progress (with_reducible apply Keeps.mk'))
    | split
    | (dsimp only)

theorem State.waitWork_keeps (s : State) : Keeps s (State.waitWork s) := by
  unfold State.waitWork
  repeat' first
    | (with_reducible exact Keeps.refl _)
    | (with_reducible assumption)
    | (with_reducible apply Keeps.after (State.waitTry_keeps ..))
    | (with_reducible apply Keeps.after (State.reply_keeps ..))
    | (with_reducible apply Keeps.after (State.restart2_keeps ..))
    | (with_reducible apply Keeps.foldl)
    | (with_reducible apply Keeps.foldl_fst)
    | (with_reducible refine Keeps.foldl_of (by assumption) ?_ ?_)
    | (intro _ _; beta_reduce)
    | (intro _; beta_reduce)
    | (with_reducible apply Keeps.ite_fst)
    | ((fail_if_no_progress extract_lets +onlyGivenNames x); first | (refine Keeps.cut x ?_ ?_; (on_goal 1 => unfold x); (on_goal 2 => (intro hx; clear_value x))) | clear_value x)
    | (with_reducible apply Keeps.ite)
    | (fail_if_no_progress (with_reducible apply Keeps.mk'))
    | split
    | (fail_if_no_progress simp only [Prod.mk.injEq] at *)
    | (fail_if_no_progress (with_reducible obtain ⟨rfl, -⟩ := (show (_ : State) = _ ∧ _ from by assumption)))
    | (fail_if_no_progress (with_reducible apply Keeps.fst))
    | (dsimp only)

theorem State.settle_keeps (s : State) : Keeps s (State.settle s) := by
  unfold State.settle
  repeat' first
    | (with_reducible exact Keeps.refl _)
    | (with_reducible assumption)
    | (with_reducible apply Keeps.after (State.tableTry_keeps ..))
    | (with_reducible apply Keeps.after (State.fabSettle_keeps ..))
    | (with_reducible apply Keeps.after (State.partnerLost_keeps ..))
    | (with_reducible apply Keeps.after (State.mirrorStep_keeps ..))
    | (with_reducible apply Keeps.after (State.unbondGo_keeps ..))
    | (with_reducible apply Keeps.after (State.rplBoundary_keeps ..))
    | (with_reducible apply Keeps.after (State.waitWork_keeps ..))
    | (with_reducible apply Keeps.after (State.rplSettle_keeps ..))
    | ((fail_if_no_progress extract_lets +onlyGivenNames x); first | (refine Keeps.cut x ?_ ?_; (on_goal 1 => unfold x); (on_goal 2 => (intro hx; clear_value x))) | clear_value x)
    | (with_reducible apply Keeps.ite)
    | split
    | (dsimp only)

theorem State.advance_keeps (s : State) (r : RingId) : Keeps s (State.advance s r) := by
  unfold State.advance
  repeat' first
    | (with_reducible exact Keeps.refl _)
    | (with_reducible assumption)
    | (with_reducible apply Keeps.after (State.setFld_keeps ..))
    | ((fail_if_no_progress extract_lets +onlyGivenNames x); first | (refine Keeps.cut x ?_ ?_; (on_goal 1 => unfold x); (on_goal 2 => (intro hx; clear_value x))) | clear_value x)
    | (fail_if_no_progress (with_reducible apply Keeps.mk'))
    | (dsimp only)

theorem State.enlist_keeps (s : State) (x : CmdRec) (p : Packet) : Keeps s (State.enlist s x p) := by
  unfold State.enlist
  repeat' first
    | (with_reducible exact Keeps.refl _)
    | (with_reducible assumption)
    | (with_reducible apply Keeps.after (State.cmdRecord_keeps ..))
    | (with_reducible apply Keeps.after (State.setCmds_keeps ..))
    | ((fail_if_no_progress extract_lets +onlyGivenNames x); first | (refine Keeps.cut x ?_ ?_; (on_goal 1 => unfold x); (on_goal 2 => (intro hx; clear_value x))) | clear_value x)
    | (fail_if_no_progress (with_reducible apply Keeps.mk'))
    | (dsimp only)

theorem State.takePkt_keeps (s : State) (r : RingId) (p : Packet) (slot seq : Nat) (replayed : Bool) (ext : Nat) : Keeps s (State.takePkt s r p slot seq replayed ext) := by
  unfold State.takePkt
  repeat' first
    | (with_reducible exact Keeps.refl _)
    | (with_reducible assumption)
    | (with_reducible apply Keeps.after (State.enlist_keeps ..))
    | (with_reducible apply Keeps.after (State.runCmd_keeps ..))
    | (with_reducible apply Keeps.after (State.settle_keeps ..))
    | ((fail_if_no_progress extract_lets +onlyGivenNames x); first | (refine Keeps.cut x ?_ ?_; (on_goal 1 => unfold x); (on_goal 2 => (intro hx; clear_value x))) | clear_value x)
    | (dsimp only)

theorem State.take1_keeps (s : State) (r : RingId) (want : Packet → Bool) (ext : Nat) : Keeps s (State.take1 s r want ext) := by
  unfold State.take1
  repeat' first
    | (with_reducible exact Keeps.refl _)
    | (with_reducible assumption)
    | (with_reducible apply Keeps.after (State.advance_keeps ..))
    | (with_reducible apply Keeps.after (State.takePkt_keeps ..))
    | (with_reducible apply Keeps.after (State.wr_keeps ..))
    | ((fail_if_no_progress extract_lets +onlyGivenNames x); first | (refine Keeps.cut x ?_ ?_; (on_goal 1 => unfold x); (on_goal 2 => (intro hx; clear_value x))) | clear_value x)
    | (with_reducible apply Keeps.ite)
    | (fail_if_no_progress (with_reducible apply Keeps.mk'))
    | split
    | (dsimp only)

theorem State.takeOp_keeps (s : State) (r : RingId) (op : Nat) (ext : Nat) : Keeps s (State.takeOp s r op ext) := by
  unfold State.takeOp
  repeat' first
    | (with_reducible exact Keeps.refl _)
    | (with_reducible assumption)
    | (with_reducible apply Keeps.after (State.take1_keeps ..))
    | (dsimp only)

theorem State.takeV1_keeps (s : State) (r : RingId) : Keeps s (State.takeV1 s r) := by
  unfold State.takeV1
  repeat' first
    | (with_reducible exact Keeps.refl _)
    | (with_reducible assumption)
    | (with_reducible apply Keeps.after (State.take1_keeps ..))
    | (dsimp only)

theorem State.takeOther_keeps (s : State) (r : RingId) : Keeps s (State.takeOther s r) := by
  unfold State.takeOther
  repeat' first
    | (with_reducible exact Keeps.refl _)
    | (with_reducible assumption)
    | (with_reducible apply Keeps.after (State.advance_keeps ..))
    | (with_reducible apply Keeps.after (State.post_keeps ..))
    | (with_reducible apply Keeps.after (State.settle_keeps ..))
    | (with_reducible apply Keeps.after (State.take1_keeps ..))
    | (with_reducible apply Keeps.ite)
    | (fail_if_no_progress (with_reducible apply Keeps.mk'))
    | split
    | (dsimp only)

end Sys2Proof.Machine
end

