-- ==== Sys2Proof/Laws/KeepsUpdEvents.lean ====
section
/-!
SUPPORT. Sys2Proof/Laws/KeepsUpdEvents.lean: what the operations of Machine/UpdEvents.lean keep of a state (`Keeps`).
-/
set_option linter.unusedTactic false
set_option linter.unreachableTactic false
namespace Sys2Proof.Machine

theorem State.beginA_keeps (s : State) (r : RegionId) : Keeps s (State.beginA s r) := by
  unfold State.beginA
  repeat' first
    | (with_reducible exact Keeps.refl _)
    | (with_reducible assumption)
    | (with_reducible apply Keeps.after (State.engState_keeps ..))
    | (with_reducible apply Keeps.ite)
    | (fail_if_no_progress (with_reducible apply Keeps.mk'))
    | split
    | (dsimp only)

theorem State.rule0Rec_keeps (s : State) (r : RegionId) (L : Launch) (i : Nat) (l : Layer) (P : Plan) : Keeps s (State.rule0Rec s r L i l P) := by
  unfold State.rule0Rec
  repeat' first
    | (with_reducible exact Keeps.refl _)
    | (with_reducible assumption)
    | (with_reducible apply Keeps.after (State.updMap_keeps ..))
    | (with_reducible apply Keeps.after (State.updAsk_keeps ..))
    | (with_reducible apply Keeps.after (State.launchGone_keeps ..))
    | (with_reducible apply Keeps.after (State.writeRec_keeps ..))
    | (with_reducible refine State.writeRec_keepsOf (by assumption) ?_)
    | (with_reducible apply Keeps.after (State.stopLayer_keeps ..))
    | (with_reducible apply Keeps.after (State.endLayer_keeps ..))
    | (with_reducible apply Keeps.after (State.bump_keeps ..))
    | (with_reducible apply Keeps.after (State.afterB_keeps ..))
    | ((fail_if_no_progress extract_lets +onlyGivenNames x); first | (refine Keeps.cut x ?_ ?_; (on_goal 1 => unfold x); (on_goal 2 => (intro hx; clear_value x))) | clear_value x)
    | (with_reducible apply Keeps.ite)
    | (fail_if_no_progress (with_reducible apply Keeps.mk'))
    | split
    | (dsimp only)

theorem State.rule0Done_keeps (s : State) (r : RegionId) : Keeps s (State.rule0Done s r) := by
  unfold State.rule0Done
  repeat' first
    | (with_reducible exact Keeps.refl _)
    | (with_reducible assumption)
    | (with_reducible apply Keeps.after (State.launchGone_keeps ..))
    | (with_reducible apply Keeps.after (State.rule0Rec_keeps ..))
    | (with_reducible apply Keeps.after (State.lateErr_keeps ..))
    | (with_reducible apply Keeps.after (State.startB_keeps ..))
    | ((fail_if_no_progress extract_lets +onlyGivenNames x); first | (refine Keeps.cut x ?_ ?_; (on_goal 1 => unfold x); (on_goal 2 => (intro hx; clear_value x))) | clear_value x)
    | (with_reducible apply Keeps.ite)
    | (fail_if_no_progress (with_reducible apply Keeps.mk'))
    | split
    | (dsimp only)

theorem State.stepDone_keeps (s : State) : Keeps s (State.stepDone s) := by
  unfold State.stepDone
  repeat' first
    | (with_reducible exact Keeps.refl _)
    | (with_reducible assumption)
    | (with_reducible apply Keeps.after (State.commit_keeps ..))
    | (with_reducible apply Keeps.after (State.lateEnd_keeps ..))
    | (with_reducible apply Keeps.ite)
    | split
    | (dsimp only)

theorem execPassAStart_keeps (r : RegionId) (s : State) : KeepsX s (execPassAStart r s) := by
  unfold execPassAStart
  repeat' first
    | (with_reducible exact Keeps.refl _)
    | (with_reducible assumption)
    | (with_reducible apply Keeps.after (State.beginA_keeps ..))
    | (with_reducible apply KeepsX.next)
    | (dsimp only)

theorem execPassADone_keeps (r : RegionId) (s : State) : KeepsX s (execPassADone r s) := by
  unfold execPassADone
  repeat' first
    | (with_reducible exact Keeps.refl _)
    | (with_reducible assumption)
    | (with_reducible apply Keeps.after (State.endA_keeps ..))
    | (with_reducible apply Keeps.after (State.settle_keeps ..))
    | (with_reducible apply KeepsX.next)
    | (with_reducible apply Keeps.ite)
    | split
    | (dsimp only)

theorem execNormContribute_keeps (s : State) : KeepsX s (execNormContribute s) := by
  unfold execNormContribute
  repeat' first
    | (with_reducible exact Keeps.refl _)
    | (with_reducible assumption)
    | (with_reducible apply Keeps.after (State.contributeNorm_keeps ..))
    | (with_reducible apply Keeps.after (State.settle_keeps ..))
    | (with_reducible apply KeepsX.next)
    | (with_reducible apply Keeps.ite)
    | split
    | (dsimp only)

theorem execPassBLayerDone_keeps (r : RegionId) (s : State) : KeepsX s (execPassBLayerDone r s) := by
  unfold execPassBLayerDone
  repeat' first
    | (with_reducible exact Keeps.refl _)
    | (with_reducible assumption)
    | (with_reducible apply Keeps.after (State.endB_keeps ..))
    | (with_reducible apply Keeps.after (State.settle_keeps ..))
    | (with_reducible apply KeepsX.next)
    | (dsimp only)

theorem execRule0LaunchDone_keeps (r : RegionId) (s : State) : KeepsX s (execRule0LaunchDone r s) := by
  unfold execRule0LaunchDone
  repeat' first
    | (with_reducible exact Keeps.refl _)
    | (with_reducible assumption)
    | (with_reducible apply Keeps.after (State.rule0Done_keeps ..))
    | (with_reducible apply Keeps.after (State.settle_keeps ..))
    | (with_reducible apply KeepsX.next)
    | (dsimp only)

theorem execStepCommit_keeps (s : State) : KeepsX s (execStepCommit s) := by
  unfold execStepCommit
  repeat' first
    | (with_reducible exact Keeps.refl _)
    | (with_reducible assumption)
    | (with_reducible apply Keeps.after (State.stepDone_keeps ..))
    | (with_reducible apply Keeps.after (State.settle_keeps ..))
    | (with_reducible apply KeepsX.next)
    | (dsimp only)

theorem execUpdCntClr_keeps (r : RegionId) (s : State) : KeepsX s (execUpdCntClr r s) := by
  unfold execUpdCntClr
  repeat' first
    | (with_reducible exact Keeps.refl _)
    | (with_reducible assumption)
    | (with_reducible apply Keeps.after (State.clear_keeps ..))
    | (with_reducible apply KeepsX.next)
    | (dsimp only)

end Sys2Proof.Machine
end

