-- ==== Sys2Proof/Laws/KeepsFabEvents.lean ====
section
/-!
SUPPORT. Sys2Proof/Laws/KeepsFabEvents.lean: what the operations of Machine/FabEvents.lean keep of a state (`Keeps`).
-/
set_option linter.unusedTactic false
set_option linter.unreachableTactic false
namespace Sys2Proof.Machine

theorem State.rxSegment_keeps (s : State) (port ty : Nat) (f : Frame) : Keeps s (State.rxSegment s port ty f) := by
  unfold State.rxSegment
  repeat' first
    | (with_reducible exact Keeps.refl _)
    | (with_reducible assumption)
    | (with_reducible apply Keeps.after (State.foreign_keeps ..))
    | (with_reducible apply Keeps.after (State.receive_keeps ..))
    | (with_reducible refine State.receive_keepsOf (by assumption) ?_)
    | (with_reducible apply Keeps.after (State.takeGrant_keeps ..))
    | (with_reducible apply Keeps.after (State.segment_keeps ..))
    | (with_reducible apply Keeps.after (State.settle_keeps ..))
    | ((fail_if_no_progress extract_lets +onlyGivenNames x); first | (refine Keeps.cut x ?_ ?_; (on_goal 1 => unfold x); (on_goal 2 => (intro hx; clear_value x))) | clear_value x)
    | (with_reducible apply Keeps.ite)
    | split
    | (fail_if_no_progress simp only [Prod.mk.injEq] at *)
    | (fail_if_no_progress (with_reducible obtain ⟨rfl, -⟩ := (show (_ : State) = _ ∧ _ from by assumption)))
    | (dsimp only)

theorem State.rxCredit_keeps (s : State) (port : Nat) (f : Frame) : Keeps s (State.rxCredit s port f) := by
  unfold State.rxCredit
  repeat' first
    | (with_reducible exact Keeps.refl _)
    | (with_reducible assumption)
    | (with_reducible apply Keeps.after (State.foreign_keeps ..))
    | (with_reducible apply Keeps.after (State.receive_keeps ..))
    | (with_reducible refine State.receive_keepsOf (by assumption) ?_)
    | (with_reducible apply Keeps.after (State.takeGrant_keeps ..))
    | (with_reducible apply Keeps.after (State.settle_keeps ..))
    | ((fail_if_no_progress extract_lets +onlyGivenNames x); first | (refine Keeps.cut x ?_ ?_; (on_goal 1 => unfold x); (on_goal 2 => (intro hx; clear_value x))) | clear_value x)
    | (with_reducible apply Keeps.ite)
    | split
    | (fail_if_no_progress simp only [Prod.mk.injEq] at *)
    | (fail_if_no_progress (with_reducible obtain ⟨rfl, -⟩ := (show (_ : State) = _ ∧ _ from by assumption)))
    | (dsimp only)

theorem State.rxAbort_keeps (s : State) (port : Nat) (f : Frame) : Keeps s (State.rxAbort s port f) := by
  unfold State.rxAbort
  repeat' first
    | (with_reducible exact Keeps.refl _)
    | (with_reducible assumption)
    | (with_reducible apply Keeps.after (State.foreign_keeps ..))
    | (with_reducible apply Keeps.after (State.receive_keeps ..))
    | (with_reducible refine State.receive_keepsOf (by assumption) ?_)
    | (with_reducible apply Keeps.after (State.stepAbandon_keeps ..))
    | (with_reducible apply Keeps.after (State.settle_keeps ..))
    | (with_reducible apply Keeps.after (State.bump_keeps ..))
    | ((fail_if_no_progress extract_lets +onlyGivenNames x); first | (refine Keeps.cut x ?_ ?_; (on_goal 1 => unfold x); (on_goal 2 => (intro hx; clear_value x))) | clear_value x)
    | (with_reducible apply Keeps.ite)
    | split
    | (fail_if_no_progress simp only [Prod.mk.injEq] at *)
    | (fail_if_no_progress (with_reducible obtain ⟨rfl, -⟩ := (show (_ : State) = _ ∧ _ from by assumption)))
    | (dsimp only)

theorem State.rxBarrier_keeps (s : State) (port : Nat) (f : Frame) : Keeps s (State.rxBarrier s port f) := by
  unfold State.rxBarrier
  repeat' first
    | (with_reducible exact Keeps.refl _)
    | (with_reducible assumption)
    | (with_reducible apply Keeps.after (State.receive_keeps ..))
    | (with_reducible refine State.receive_keepsOf (by assumption) ?_)
    | (with_reducible apply Keeps.after (State.barGot_keeps ..))
    | (with_reducible apply Keeps.after (State.barTry_keeps ..))
    | (with_reducible apply Keeps.after (State.settle_keeps ..))
    | ((fail_if_no_progress extract_lets +onlyGivenNames x); first | (refine Keeps.cut x ?_ ?_; (on_goal 1 => unfold x); (on_goal 2 => (intro hx; clear_value x))) | clear_value x)
    | (with_reducible apply Keeps.ite)
    | split
    | (fail_if_no_progress simp only [Prod.mk.injEq] at *)
    | (fail_if_no_progress (with_reducible obtain ⟨rfl, -⟩ := (show (_ : State) = _ ∧ _ from by assumption)))
    | (dsimp only)

theorem State.rxAck_keeps (s : State) (port : Nat) (f : Frame) : Keeps s (State.rxAck s port f) := by
  unfold State.rxAck
  repeat' first
    | (with_reducible exact Keeps.refl _)
    | (with_reducible assumption)
    | (with_reducible apply Keeps.after (State.receive_keeps ..))
    | (with_reducible refine State.receive_keepsOf (by assumption) ?_)
    | (with_reducible apply Keeps.after (State.pathOpened_keeps ..))
    | (with_reducible apply Keeps.after (State.settle_keeps ..))
    | ((fail_if_no_progress extract_lets +onlyGivenNames x); first | (refine Keeps.cut x ?_ ?_; (on_goal 1 => unfold x); (on_goal 2 => (intro hx; clear_value x))) | clear_value x)
    | (with_reducible apply Keeps.ite)
    | split
    | (fail_if_no_progress simp only [Prod.mk.injEq] at *)
    | (fail_if_no_progress (with_reducible obtain ⟨rfl, -⟩ := (show (_ : State) = _ ∧ _ from by assumption)))
    | (dsimp only)

theorem State.rxNak_keeps (s : State) (port : Nat) (f : Frame) : Keeps s (State.rxNak s port f) := by
  unfold State.rxNak
  repeat' first
    | (with_reducible exact Keeps.refl _)
    | (with_reducible assumption)
    | (with_reducible apply Keeps.after (State.receive_keeps ..))
    | (with_reducible refine State.receive_keepsOf (by assumption) ?_)
    | (with_reducible apply Keeps.after (State.retryPath_keeps ..))
    | (with_reducible apply Keeps.after (State.settle_keeps ..))
    | ((fail_if_no_progress extract_lets +onlyGivenNames x); first | (refine Keeps.cut x ?_ ?_; (on_goal 1 => unfold x); (on_goal 2 => (intro hx; clear_value x))) | clear_value x)
    | (with_reducible apply Keeps.ite)
    | split
    | (fail_if_no_progress simp only [Prod.mk.injEq] at *)
    | (fail_if_no_progress (with_reducible obtain ⟨rfl, -⟩ := (show (_ : State) = _ ∧ _ from by assumption)))
    | (dsimp only)

theorem State.rxProbe_keeps (s : State) (port : Nat) (f : Frame) : Keeps s (State.rxProbe s port f) := by
  unfold State.rxProbe
  repeat' first
    | (with_reducible exact Keeps.refl _)
    | (with_reducible assumption)
    | (with_reducible apply Keeps.after (State.receive_keeps ..))
    | (with_reducible refine State.receive_keepsOf (by assumption) ?_)
    | (with_reducible apply Keeps.after (State.setPath_keeps ..))
    | (with_reducible apply Keeps.after (State.portCount_keeps ..))
    | (with_reducible apply Keeps.after (State.sendAck_keeps ..))
    | (with_reducible apply Keeps.after (State.closePath_keeps ..))
    | (with_reducible apply Keeps.after (State.sendProbe_keeps ..))
    | ((fail_if_no_progress extract_lets +onlyGivenNames x); first | (refine Keeps.cut x ?_ ?_; (on_goal 1 => unfold x); (on_goal 2 => (intro hx; clear_value x))) | clear_value x)
    | (with_reducible apply Keeps.ite)
    | (fail_if_no_progress (with_reducible apply Keeps.mk'))
    | split
    | (fail_if_no_progress simp only [Prod.mk.injEq] at *)
    | (fail_if_no_progress (with_reducible obtain ⟨rfl, -⟩ := (show (_ : State) = _ ∧ _ from by assumption)))
    | (dsimp only)

theorem State.rxPfc_keeps (s : State) (port pcp : Nat) (pause : Bool) : Keeps s (State.rxPfc s port pcp pause) := by
  unfold State.rxPfc
  repeat' first
    | (with_reducible exact Keeps.refl _)
    | (with_reducible assumption)
    | (with_reducible apply Keeps.after (State.releaseTx_keeps ..))
    | (with_reducible apply Keeps.after (State.pumpPort_keeps ..))
    | (with_reducible apply Keeps.after (State.settle_keeps ..))
    | ((fail_if_no_progress extract_lets +onlyGivenNames x); first | (refine Keeps.cut x ?_ ?_; (on_goal 1 => unfold x); (on_goal 2 => (intro hx; clear_value x))) | clear_value x)
    | (with_reducible apply Keeps.ite)
    | (fail_if_no_progress (with_reducible apply Keeps.mk'))
    | split
    | (dsimp only)

theorem State.ackTimer_keeps (s : State) (p : PathSt) : Keeps s (State.ackTimer s p) := by
  unfold State.ackTimer
  repeat' first
    | (with_reducible exact Keeps.refl _)
    | (with_reducible assumption)
    | (with_reducible apply Keeps.after (State.sendAck_keeps ..))
    | (with_reducible apply Keeps.ite)
    | split
    | (dsimp only)

theorem State.rtoExpire_keeps (s : State) (p : PathSt) : Keeps s (State.rtoExpire s p) := by
  unfold State.rtoExpire
  repeat' first
    | (with_reducible exact Keeps.refl _)
    | (with_reducible assumption)
    | (with_reducible apply Keeps.after (State.pathDown_keeps ..))
    | (with_reducible apply Keeps.after (State.sendProbe_keeps ..))
    | (with_reducible apply Keeps.after (State.setPath_keeps ..))
    | (with_reducible apply Keeps.after (State.retryPath_keeps ..))
    | (with_reducible apply Keeps.ite)
    | (fail_if_no_progress (with_reducible apply Keeps.mk'))
    | split
    | (dsimp only)

theorem State.probeTimer_keeps (s : State) (p : PathSt) : Keeps s (State.probeTimer s p) := by
  unfold State.probeTimer
  repeat' first
    | (with_reducible exact Keeps.refl _)
    | (with_reducible assumption)
    | (with_reducible apply Keeps.after (State.sendProbe_keeps ..))
    | (with_reducible apply Keeps.ite)
    | split
    | (dsimp only)

theorem State.rsStart_keeps (s : State) (c : Nat) : Keeps s (State.rsStart s c) := by
  unfold State.rsStart
  repeat' first
    | (with_reducible exact Keeps.refl _)
    | (with_reducible assumption)
    | (with_reducible apply Keeps.after (State.modRed_keeps ..))
    | (with_reducible apply Keeps.after (State.settle_keeps ..))
    | (with_reducible apply Keeps.ite)
    | (fail_if_no_progress (with_reducible apply Keeps.mk'))
    | split
    | (dsimp only)

theorem State.softExpire_keeps (s : State) (c : Nat) : Keeps s (State.softExpire s c) := by
  unfold State.softExpire
  repeat' first
    | (with_reducible exact Keeps.refl _)
    | (with_reducible assumption)
    | (with_reducible apply Keeps.after (State.modRed_keeps ..))
    | (with_reducible apply Keeps.after (State.softCheck_keeps ..))
    | (with_reducible apply Keeps.after (State.settle_keeps ..))
    | (with_reducible apply Keeps.ite)
    | (fail_if_no_progress (with_reducible apply Keeps.mk'))
    | split
    | (dsimp only)

theorem State.dropRed_keeps (s : State) (c : Nat) (R : Red) : Keeps s (State.dropRed s c R) := by
  unfold State.dropRed
  repeat' first
    | (with_reducible exact Keeps.refl _)
    | (with_reducible assumption)
    | (with_reducible apply Keeps.after (State.discardReds_keeps ..))
    | (with_reducible apply Keeps.after (State.setChan_keeps ..))
    | ((fail_if_no_progress extract_lets +onlyGivenNames x); first | (refine Keeps.cut x ?_ ?_; (on_goal 1 => unfold x); (on_goal 2 => (intro hx; clear_value x))) | clear_value x)
    | (with_reducible apply Keeps.ite)
    | (fail_if_no_progress (with_reducible apply Keeps.mk'))
    | split
    | (dsimp only)

theorem State.hardExpire_keeps (s : State) (c : Nat) : Keeps s (State.hardExpire s c) := by
  unfold State.hardExpire
  repeat' first
    | (with_reducible exact Keeps.refl _)
    | (with_reducible assumption)
    | (with_reducible apply Keeps.after (State.bump_keeps ..))
    | (with_reducible apply Keeps.after (State.dropRed_keeps ..))
    | (with_reducible apply Keeps.after (State.settle_keeps ..))
    | (with_reducible apply Keeps.after (State.sendAborts_keeps ..))
    | (with_reducible apply Keeps.after (State.stepAbandon_keeps ..))
    | ((fail_if_no_progress extract_lets +onlyGivenNames x); first | (refine Keeps.cut x ?_ ?_; (on_goal 1 => unfold x); (on_goal 2 => (intro hx; clear_value x))) | clear_value x)
    | (with_reducible apply Keeps.ite)
    | (fail_if_no_progress (with_reducible apply Keeps.mk'))
    | split
    | (dsimp only)

theorem State.trainEnd_keeps (s : State) (port : Nat) (ok : Bool) : Keeps s (State.trainEnd s port ok) := by
  unfold State.trainEnd
  repeat' first
    | (with_reducible exact Keeps.refl _)
    | (with_reducible assumption)
    | (with_reducible apply Keeps.after (State.portTrained_keeps ..))
    | (with_reducible apply Keeps.after (State.settle_keeps ..))
    | (with_reducible apply Keeps.ite)
    | split
    | (dsimp only)

theorem State.linkLost_keeps (s : State) (port : Nat) : Keeps s (State.linkLost s port) := by
  unfold State.linkLost
  repeat' first
    | (with_reducible exact Keeps.refl _)
    | (with_reducible assumption)
    | (with_reducible apply Keeps.after (State.setLink_keeps ..))
    | (with_reducible apply Keeps.after (State.unpause_keeps ..))
    | (with_reducible apply Keeps.after (State.setFld_keeps ..))
    | (with_reducible apply Keeps.after (State.partnerLost_keeps ..))
    | (with_reducible apply Keeps.after (State.settle_keeps ..))
    | ((fail_if_no_progress extract_lets +onlyGivenNames x); first | (refine Keeps.cut x ?_ ?_; (on_goal 1 => unfold x); (on_goal 2 => (intro hx; clear_value x))) | clear_value x)
    | (with_reducible apply Keeps.ite)
    | split
    | (dsimp only)

theorem execRs_keeps (port : BitVec 5) (f : Frame) (s : State) : KeepsX s (execRs port f s) := by
  unfold execRs
  repeat' first
    | (with_reducible exact Keeps.refl _)
    | (with_reducible assumption)
    | (with_reducible apply Keeps.after (State.rxSegment_keeps ..))
    | (with_reducible apply KeepsX.next)
    | (dsimp only)

theorem execAg_keeps (port : BitVec 5) (f : Frame) (s : State) : KeepsX s (execAg port f s) := by
  unfold execAg
  repeat' first
    | (with_reducible exact Keeps.refl _)
    | (with_reducible assumption)
    | (with_reducible apply Keeps.after (State.rxSegment_keeps ..))
    | (with_reducible apply KeepsX.next)
    | (dsimp only)

theorem execNormUp_keeps (port : BitVec 5) (f : Frame) (s : State) : KeepsX s (execNormUp port f s) := by
  unfold execNormUp
  repeat' first
    | (with_reducible exact Keeps.refl _)
    | (with_reducible assumption)
    | (with_reducible apply Keeps.after (State.rxSegment_keeps ..))
    | (with_reducible apply KeepsX.next)
    | (dsimp only)

theorem execNormDown_keeps (port : BitVec 5) (f : Frame) (s : State) : KeepsX s (execNormDown port f s) := by
  unfold execNormDown
  repeat' first
    | (with_reducible exact Keeps.refl _)
    | (with_reducible assumption)
    | (with_reducible apply Keeps.after (State.rxSegment_keeps ..))
    | (with_reducible apply KeepsX.next)
    | (dsimp only)

theorem execAck_keeps (port : BitVec 5) (f : Frame) (s : State) : KeepsX s (execAck port f s) := by
  unfold execAck
  repeat' first
    | (with_reducible exact Keeps.refl _)
    | (with_reducible assumption)
    | (with_reducible apply Keeps.after (State.rxAck_keeps ..))
    | (with_reducible apply KeepsX.next)
    | (dsimp only)

theorem execNak_keeps (port : BitVec 5) (f : Frame) (s : State) : KeepsX s (execNak port f s) := by
  unfold execNak
  repeat' first
    | (with_reducible exact Keeps.refl _)
    | (with_reducible assumption)
    | (with_reducible apply Keeps.after (State.rxNak_keeps ..))
    | (with_reducible apply KeepsX.next)
    | (dsimp only)

theorem execCredit_keeps (port : BitVec 5) (f : Frame) (s : State) : KeepsX s (execCredit port f s) := by
  unfold execCredit
  repeat' first
    | (with_reducible exact Keeps.refl _)
    | (with_reducible assumption)
    | (with_reducible apply Keeps.after (State.rxCredit_keeps ..))
    | (with_reducible apply KeepsX.next)
    | (dsimp only)

theorem execBarrier_keeps (port : BitVec 5) (f : Frame) (s : State) : KeepsX s (execBarrier port f s) := by
  unfold execBarrier
  repeat' first
    | (with_reducible exact Keeps.refl _)
    | (with_reducible assumption)
    | (with_reducible apply Keeps.after (State.rxBarrier_keeps ..))
    | (with_reducible apply KeepsX.next)
    | (dsimp only)

theorem execAbort_keeps (port : BitVec 5) (f : Frame) (s : State) : KeepsX s (execAbort port f s) := by
  unfold execAbort
  repeat' first
    | (with_reducible exact Keeps.refl _)
    | (with_reducible assumption)
    | (with_reducible apply Keeps.after (State.rxAbort_keeps ..))
    | (with_reducible apply KeepsX.next)
    | (dsimp only)

theorem execProbe_keeps (port : BitVec 5) (f : Frame) (s : State) : KeepsX s (execProbe port f s) := by
  unfold execProbe
  repeat' first
    | (with_reducible exact Keeps.refl _)
    | (with_reducible assumption)
    | (with_reducible apply Keeps.after (State.rxProbe_keeps ..))
    | (with_reducible apply KeepsX.next)
    | (dsimp only)

theorem execPfcFrame_keeps (port : BitVec 5) (pcp : BitVec 3) (pause : Bool) (s : State) : KeepsX s (execPfcFrame port pcp pause s) := by
  unfold execPfcFrame
  repeat' first
    | (with_reducible exact Keeps.refl _)
    | (with_reducible assumption)
    | (with_reducible apply Keeps.after (State.rxPfc_keeps ..))
    | (with_reducible apply KeepsX.next)
    | (dsimp only)

theorem execAckTimer_keeps (port : BitVec 5) (mac : BitVec 48) (s : State) : KeepsX s (execAckTimer port mac s) := by
  unfold execAckTimer
  repeat' first
    | (with_reducible exact Keeps.refl _)
    | (with_reducible assumption)
    | (with_reducible apply Keeps.after (State.ackTimer_keeps ..))
    | (with_reducible apply KeepsX.next)
    | (dsimp only)

theorem execRtoExpire_keeps (port : BitVec 5) (mac : BitVec 48) (s : State) : KeepsX s (execRtoExpire port mac s) := by
  unfold execRtoExpire
  repeat' first
    | (with_reducible exact Keeps.refl _)
    | (with_reducible assumption)
    | (with_reducible apply Keeps.after (State.rtoExpire_keeps ..))
    | (with_reducible apply Keeps.after (State.settle_keeps ..))
    | (with_reducible apply KeepsX.next)
    | (dsimp only)

theorem execProbeTimer_keeps (port : BitVec 5) (mac : BitVec 48) (s : State) : KeepsX s (execProbeTimer port mac s) := by
  unfold execProbeTimer
  repeat' first
    | (with_reducible exact Keeps.refl _)
    | (with_reducible assumption)
    | (with_reducible apply Keeps.after (State.probeTimer_keeps ..))
    | (with_reducible apply KeepsX.next)
    | (dsimp only)

theorem execRsSendStart_keeps (c : BitVec 6) (s : State) : KeepsX s (execRsSendStart c s) := by
  unfold execRsSendStart
  repeat' first
    | (with_reducible exact Keeps.refl _)
    | (with_reducible assumption)
    | (with_reducible apply Keeps.after (State.rsStart_keeps ..))
    | (with_reducible apply KeepsX.next)
    | (dsimp only)

theorem execDlSoftExpire_keeps (c : BitVec 6) (s : State) : KeepsX s (execDlSoftExpire c s) := by
  unfold execDlSoftExpire
  repeat' first
    | (with_reducible exact Keeps.refl _)
    | (with_reducible assumption)
    | (with_reducible apply Keeps.after (State.softExpire_keeps ..))
    | (with_reducible apply KeepsX.next)
    | (dsimp only)

theorem execDlHardExpire_keeps (c : BitVec 6) (s : State) : KeepsX s (execDlHardExpire c s) := by
  unfold execDlHardExpire
  repeat' first
    | (with_reducible exact Keeps.refl _)
    | (with_reducible assumption)
    | (with_reducible apply Keeps.after (State.hardExpire_keeps ..))
    | (with_reducible apply KeepsX.next)
    | (dsimp only)

theorem execPortTrained_keeps (port : BitVec 5) (ok : Bool) (s : State) : KeepsX s (execPortTrained port ok s) := by
  unfold execPortTrained
  repeat' first
    | (with_reducible exact Keeps.refl _)
    | (with_reducible assumption)
    | (with_reducible apply Keeps.after (State.trainEnd_keeps ..))
    | (with_reducible apply KeepsX.next)
    | (dsimp only)

theorem execLinkDown_keeps (port : BitVec 5) (s : State) : KeepsX s (execLinkDown port s) := by
  unfold execLinkDown
  repeat' first
    | (with_reducible exact Keeps.refl _)
    | (with_reducible assumption)
    | (with_reducible apply Keeps.after (State.linkLost_keeps ..))
    | (with_reducible apply KeepsX.next)
    | (dsimp only)

theorem execForeignFrame_keeps (port : BitVec 5) (s : State) : KeepsX s (execForeignFrame port s) := by
  unfold execForeignFrame
  repeat' first
    | (with_reducible exact Keeps.refl _)
    | (with_reducible assumption)
    | (with_reducible apply Keeps.after (State.foreign_keeps ..))
    | (with_reducible apply KeepsX.next)
    | (with_reducible apply Keeps.ite)
    | split
    | (dsimp only)

theorem execBadFcsFrame_keeps (port : BitVec 5) (s : State) : KeepsX s (execBadFcsFrame port s) := by
  unfold execBadFcsFrame
  repeat' first
    | (with_reducible exact Keeps.refl _)
    | (with_reducible assumption)
    | (with_reducible apply Keeps.after (State.portCount_keeps ..))
    | (with_reducible apply KeepsX.next)
    | (with_reducible apply Keeps.ite)
    | split
    | (dsimp only)

theorem execFabCntClr_keeps (s : State) : KeepsX s (execFabCntClr s) := by
  unfold execFabCntClr
  repeat' first
    | (with_reducible exact Keeps.refl _)
    | (with_reducible assumption)
    | (with_reducible apply Keeps.after (State.clear_keeps ..))
    | (with_reducible apply KeepsX.next)
    | (dsimp only)

end Sys2Proof.Machine
end

