-- ==== Sys2Proof/Laws/KeepsTwinEvents.lean ====
section
/-!
SUPPORT. Sys2Proof/Laws/KeepsTwinEvents.lean: what the operations of Machine/TwinEvents.lean keep of a state (`Keeps`).
-/
set_option linter.unusedTactic false
set_option linter.unreachableTactic false
namespace Sys2Proof.Machine

theorem State.rxTwin_after {s Y : State} {port : Nat} {f : Frame} {act : State → State} (h : ∀ t, Keeps t (act t)) (k : Keeps s Y) :
    Keeps s (Y.rxTwin port f act) := by
  unfold State.rxTwin
  refine Keeps.ite (Keeps.ite (k.trans (State.foreign_keeps ..)) k) ?_
  split
  next t ok e =>
  have ht := State.receive_keepsOf e k
  exact Keeps.ite ((ht.trans (h _)).trans (State.settle_keeps ..)) ht

theorem State.helloIn_keeps (s : State) (port : Nat) (f : Frame) (mirdig : BitVec 256) : Keeps s (State.helloIn s port f mirdig) := by
  unfold State.helloIn
  repeat' first
    | (with_reducible exact Keeps.refl _)
    | (with_reducible assumption)
    | (with_reducible apply Keeps.after (State.modTwn_keeps ..))
    | (with_reducible apply Keeps.after (State.take_keeps ..))
    | (with_reducible refine State.take_keepsOf (by assumption) ?_)
    | (with_reducible apply Keeps.after (State.sendBond_keeps ..))
    | ((fail_if_no_progress extract_lets +onlyGivenNames x); first | (refine Keeps.cut x ?_ ?_; (on_goal 1 => unfold x); (on_goal 2 => (intro hx; clear_value x))) | clear_value x)
    | (with_reducible apply Keeps.ite)
    | (fail_if_no_progress (with_reducible apply Keeps.mk'))
    | split
    | (dsimp only)

theorem State.bondIn_keeps (s : State) (f : Frame) (rtt : Nat) : Keeps s (State.bondIn s f rtt) := by
  unfold State.bondIn
  repeat' first
    | (with_reducible exact Keeps.refl _)
    | (with_reducible assumption)
    | (with_reducible apply Keeps.after (State.modTwn_keeps ..))
    | (with_reducible apply Keeps.after (State.judge_keeps ..))
    | ((fail_if_no_progress extract_lets +onlyGivenNames x); first | (refine Keeps.cut x ?_ ?_; (on_goal 1 => unfold x); (on_goal 2 => (intro hx; clear_value x))) | clear_value x)
    | (with_reducible apply Keeps.ite)
    | (fail_if_no_progress (with_reducible apply Keeps.mk'))
    | split
    | (dsimp only)

theorem State.decisionIn_keeps (s : State) (f : Frame) : Keeps s (State.decisionIn s f) := by
  unfold State.decisionIn
  repeat' first
    | (with_reducible exact Keeps.refl _)
    | (with_reducible assumption)
    | (with_reducible apply Keeps.after (State.modTwn_keeps ..))
    | (with_reducible apply Keeps.after (State.take_keeps ..))
    | (with_reducible refine State.take_keepsOf (by assumption) ?_)
    | (with_reducible apply Keeps.after (State.decided_keeps ..))
    | (with_reducible apply Keeps.ite)
    | (fail_if_no_progress (with_reducible apply Keeps.mk'))
    | split
    | (dsimp only)

theorem State.unbondIn_keeps (s : State) : Keeps s (State.unbondIn s) := by
  unfold State.unbondIn
  repeat' first
    | (with_reducible exact Keeps.refl _)
    | (with_reducible assumption)
    | (with_reducible apply Keeps.after (State.modTwn_keeps ..))
    | (with_reducible apply Keeps.after (State.setTwin_keeps ..))
    | ((fail_if_no_progress extract_lets +onlyGivenNames x); first | (refine Keeps.cut x ?_ ?_; (on_goal 1 => unfold x); (on_goal 2 => (intro hx; clear_value x))) | clear_value x)
    | (with_reducible apply Keeps.ite)
    | (fail_if_no_progress (with_reducible apply Keeps.mk'))
    | split
    | (dsimp only)

theorem State.unbondAckIn_keeps (s : State) : Keeps s (State.unbondAckIn s) := by
  unfold State.unbondAckIn
  repeat' first
    | (with_reducible exact Keeps.refl _)
    | (with_reducible assumption)
    | (with_reducible apply Keeps.after (State.solo_keeps ..))
    | (with_reducible apply Keeps.ite)
    | split
    | (dsimp only)

theorem State.lossTimer_keeps (s : State) : Keeps s (State.lossTimer s) := by
  unfold State.lossTimer
  repeat' first
    | (with_reducible exact Keeps.refl _)
    | (with_reducible assumption)
    | (with_reducible apply Keeps.after (State.partnerLost_keeps ..))
    | (with_reducible apply Keeps.after (State.settle_keeps ..))
    | (with_reducible apply Keeps.ite)
    | split
    | (dsimp only)

theorem State.bondTimer_keeps (s : State) : Keeps s (State.bondTimer s) := by
  unfold State.bondTimer
  repeat' first
    | (with_reducible exact Keeps.refl _)
    | (with_reducible assumption)
    | (with_reducible apply Keeps.after (State.endBond_keeps ..))
    | (with_reducible apply Keeps.after (State.settle_keeps ..))
    | (with_reducible apply Keeps.ite)
    | split
    | (dsimp only)

theorem execHello_keeps (port : BitVec 5) (f : Frame) (mirdig : BitVec 256) (s : State) : KeepsX s (execHello port f mirdig s) := by
  unfold execHello
  repeat' first
    | (with_reducible exact Keeps.refl _)
    | (with_reducible assumption)
    | (with_reducible apply State.rxTwin_after)
    | (intro _; beta_reduce)
    | (with_reducible apply Keeps.after (State.helloIn_keeps ..))
    | (with_reducible apply KeepsX.next)
    | (dsimp only)

theorem execBond_keeps (port : BitVec 5) (f : Frame) (rtt : BitVec 32) (s : State) : KeepsX s (execBond port f rtt s) := by
  unfold execBond
  repeat' first
    | (with_reducible exact Keeps.refl _)
    | (with_reducible assumption)
    | (with_reducible apply State.rxTwin_after)
    | (intro _; beta_reduce)
    | (with_reducible apply Keeps.after (State.bondIn_keeps ..))
    | (with_reducible apply KeepsX.next)
    | (dsimp only)

theorem execDecision_keeps (port : BitVec 5) (f : Frame) (s : State) : KeepsX s (execDecision port f s) := by
  unfold execDecision
  repeat' first
    | (with_reducible exact Keeps.refl _)
    | (with_reducible assumption)
    | (with_reducible apply State.rxTwin_after)
    | (intro _; beta_reduce)
    | (with_reducible apply Keeps.after (State.decisionIn_keeps ..))
    | (with_reducible apply KeepsX.next)
    | (dsimp only)

theorem execMirror_keeps (port : BitVec 5) (f : Frame) (off : BitVec 48) (s : State) : KeepsX s (execMirror port f off s) := by
  unfold execMirror
  repeat' first
    | (with_reducible exact Keeps.refl _)
    | (with_reducible assumption)
    | (with_reducible apply State.rxTwin_after)
    | (intro _; beta_reduce)
    | (with_reducible apply Keeps.after (State.mirrorIn_keeps ..))
    | (with_reducible apply KeepsX.next)
    | (dsimp only)

theorem execMack_keeps (port : BitVec 5) (f : Frame) (s : State) : KeepsX s (execMack port f s) := by
  unfold execMack
  repeat' first
    | (with_reducible exact Keeps.refl _)
    | (with_reducible assumption)
    | (with_reducible apply State.rxTwin_after)
    | (intro _; beta_reduce)
    | (with_reducible apply Keeps.after (State.mackIn_keeps ..))
    | (with_reducible apply KeepsX.next)
    | (dsimp only)

theorem execMskip_keeps (port : BitVec 5) (f : Frame) (s : State) : KeepsX s (execMskip port f s) := by
  unfold execMskip
  repeat' first
    | (with_reducible exact Keeps.refl _)
    | (with_reducible assumption)
    | (with_reducible apply State.rxTwin_after)
    | (intro _; beta_reduce)
    | (with_reducible apply Keeps.after (State.mskipIn_keeps ..))
    | (with_reducible apply KeepsX.next)
    | (dsimp only)

theorem execHeartbeat_keeps (port : BitVec 5) (f : Frame) (s : State) : KeepsX s (execHeartbeat port f s) := by
  unfold execHeartbeat
  repeat' first
    | (with_reducible exact Keeps.refl _)
    | (with_reducible assumption)
    | (with_reducible apply State.rxTwin_after)
    | (intro _; beta_reduce)
    | (with_reducible apply KeepsX.next)
    | (dsimp only)

theorem execUnbond_keeps (port : BitVec 5) (f : Frame) (s : State) : KeepsX s (execUnbond port f s) := by
  unfold execUnbond
  repeat' first
    | (with_reducible exact Keeps.refl _)
    | (with_reducible assumption)
    | (with_reducible apply State.rxTwin_after)
    | (intro _; beta_reduce)
    | (with_reducible apply Keeps.after (State.unbondIn_keeps ..))
    | (with_reducible apply KeepsX.next)
    | (dsimp only)

theorem execUnbondAck_keeps (port : BitVec 5) (f : Frame) (s : State) : KeepsX s (execUnbondAck port f s) := by
  unfold execUnbondAck
  repeat' first
    | (with_reducible exact Keeps.refl _)
    | (with_reducible assumption)
    | (with_reducible apply State.rxTwin_after)
    | (intro _; beta_reduce)
    | (with_reducible apply Keeps.after (State.unbondAckIn_keeps ..))
    | (with_reducible apply KeepsX.next)
    | (dsimp only)

theorem execHeartbeatTimer_keeps (port : BitVec 5) (s : State) : KeepsX s (execHeartbeatTimer port s) := by
  unfold execHeartbeatTimer
  repeat' first
    | (with_reducible exact Keeps.refl _)
    | (with_reducible assumption)
    | (with_reducible apply Keeps.after (State.twinOn_keeps ..))
    | (with_reducible apply KeepsX.next)
    | (with_reducible apply Keeps.ite)
    | split
    | (dsimp only)

theorem execPartnerLoss_keeps (s : State) : KeepsX s (execPartnerLoss s) := by
  unfold execPartnerLoss
  repeat' first
    | (with_reducible exact Keeps.refl _)
    | (with_reducible assumption)
    | (with_reducible apply Keeps.after (State.lossTimer_keeps ..))
    | (with_reducible apply KeepsX.next)
    | (dsimp only)

theorem execBondTimeout_keeps (s : State) : KeepsX s (execBondTimeout s) := by
  unfold execBondTimeout
  repeat' first
    | (with_reducible exact Keeps.refl _)
    | (with_reducible assumption)
    | (with_reducible apply Keeps.after (State.bondTimer_keeps ..))
    | (with_reducible apply KeepsX.next)
    | (dsimp only)

theorem execTwnCntClr_keeps (s : State) : KeepsX s (execTwnCntClr s) := by
  unfold execTwnCntClr
  repeat' first
    | (with_reducible exact Keeps.refl _)
    | (with_reducible assumption)
    | (with_reducible apply Keeps.after (State.clear_keeps ..))
    | (with_reducible apply KeepsX.next)
    | (dsimp only)

end Sys2Proof.Machine
end

