-- ==== Sys2Proof/Laws/KeepsFwEvents.lean ====
section
/-!
SUPPORT. Sys2Proof/Laws/KeepsFwEvents.lean: what the operations of Machine/FwEvents.lean keep of a state (`Keeps`).
-/
set_option linter.unusedTactic false
set_option linter.unreachableTactic false
namespace Sys2Proof.Machine

theorem execFirmwareTick_keeps (t : Telemetry) (s : State) : KeepsX s (execFirmwareTick t s) := by
  unfold execFirmwareTick
  repeat' first
    | (with_reducible exact Keeps.refl _)
    | (with_reducible assumption)
    | (with_reducible apply Keeps.after (State.tick_keeps ..))
    | (with_reducible apply Keeps.after (State.settle_keeps ..))
    | (with_reducible apply KeepsX.next)
    | (with_reducible apply Keeps.ite)
    | split
    | (dsimp only)

theorem execInputSample_keeps (volts : BitVec 16) (amps : BitVec 16) (board : BitVec 32) (s : State) : KeepsX s (execInputSample volts amps board s) := by
  unfold execInputSample
  repeat' first
    | (with_reducible exact Keeps.refl _)
    | (with_reducible assumption)
    | (with_reducible apply Keeps.after (State.inputSample_keeps ..))
    | (with_reducible apply KeepsX.next)
    | (with_reducible apply Keeps.ite)
    | split
    | (dsimp only)

theorem execThermalTrip_keeps (d : DieId) (i : BitVec 6) (v : BitVec 16) (s : State) : KeepsX s (execThermalTrip d i v s) := by
  unfold execThermalTrip
  repeat' first
    | (with_reducible exact Keeps.refl _)
    | (with_reducible assumption)
    | (with_reducible apply Keeps.after (State.thermalTrip_keeps ..))
    | (with_reducible apply KeepsX.next)
    | (with_reducible apply Keeps.ite)
    | split
    | (dsimp only)

theorem execPllRelockDone_keeps (r : RegionId) (s : State) : KeepsX s (execPllRelockDone r s) := by
  unfold execPllRelockDone
  repeat' first
    | (with_reducible exact Keeps.refl _)
    | (with_reducible assumption)
    | (with_reducible apply Keeps.after (State.relockDone_keeps ..))
    | (with_reducible apply Keeps.after (State.settle_keeps ..))
    | (with_reducible apply KeepsX.next)
    | (dsimp only)

theorem execRailSlewDone_keeps (r : RegionId) (s : State) : KeepsX s (execRailSlewDone r s) := by
  unfold execRailSlewDone
  repeat' first
    | (with_reducible exact Keeps.refl _)
    | (with_reducible assumption)
    | (with_reducible apply Keeps.after (State.slewDone_keeps ..))
    | (with_reducible apply Keeps.after (State.settle_keeps ..))
    | (with_reducible apply KeepsX.next)
    | (dsimp only)

theorem execFuncTransitionDone_keeps (f : BitVec 6) (ok : Bool) (s : State) : KeepsX s (execFuncTransitionDone f ok s) := by
  unfold execFuncTransitionDone
  repeat' first
    | (with_reducible exact Keeps.refl _)
    | (with_reducible assumption)
    | (with_reducible apply Keeps.after (State.funcDone_keeps ..))
    | (with_reducible apply Keeps.after (State.settle_keeps ..))
    | (with_reducible apply KeepsX.next)
    | (dsimp only)

theorem execPwrCntClr_keeps (s : State) : KeepsX s (execPwrCntClr s) := by
  unfold execPwrCntClr
  repeat' first
    | (with_reducible exact Keeps.refl _)
    | (with_reducible assumption)
    | (with_reducible apply Keeps.after (State.clear_keeps ..))
    | (with_reducible apply KeepsX.next)
    | (dsimp only)

theorem execLaunchComplete_keeps (n : BitVec 16) (s : State) : KeepsX s (execLaunchComplete n s) := by
  unfold execLaunchComplete
  repeat' first
    | (with_reducible exact Keeps.refl _)
    | (with_reducible assumption)
    | (with_reducible apply Keeps.after (State.launchEnd_keeps ..))
    | (with_reducible apply Keeps.after (State.settle_keeps ..))
    | (with_reducible apply KeepsX.next)
    | (dsimp only)

theorem execSelfTestDone_keeps (c : CoreId) (ok : Bool) (s : State) : KeepsX s (execSelfTestDone c ok s) := by
  unfold execSelfTestDone
  repeat' first
    | (with_reducible exact Keeps.refl _)
    | (with_reducible assumption)
    | (with_reducible apply Keeps.after (State.selfTest_keeps ..))
    | (with_reducible apply Keeps.after (State.settle_keeps ..))
    | (with_reducible apply KeepsX.next)
    | (dsimp only)

theorem execSyncWaitTimeout_keeps (d : DieId) (slot : BitVec 6) (s : State) : KeepsX s (execSyncWaitTimeout d slot s) := by
  unfold execSyncWaitTimeout
  repeat' first
    | (with_reducible exact Keeps.refl _)
    | (with_reducible assumption)
    | (with_reducible apply Keeps.after (State.syncTimeout_keeps ..))
    | (with_reducible apply Keeps.after (State.settle_keeps ..))
    | (with_reducible apply KeepsX.next)
    | (dsimp only)

theorem execFwStageDone_keeps (readErr : Bool) (s : State) : KeepsX s (execFwStageDone readErr s) := by
  unfold execFwStageDone
  repeat' first
    | (with_reducible exact Keeps.refl _)
    | (with_reducible assumption)
    | (with_reducible apply Keeps.after (State.stageDone_keeps ..))
    | (with_reducible apply Keeps.after (State.settle_keeps ..))
    | (with_reducible apply KeepsX.next)
    | (dsimp only)

end Sys2Proof.Machine
end

