-- ==== Sys2Proof/Laws/KeepsHostLink.lean ====
section
/-!
SUPPORT. Sys2Proof/Laws/KeepsHostLink.lean: what the operations of Machine/HostLink.lean keep of a state (`Keeps`).
-/
set_option linter.unusedTactic false
set_option linter.unreachableTactic false
namespace Sys2Proof.Machine

theorem State.modHost_keeps (s : State) (f : HostSt → HostSt) : Keeps s (State.modHost s f) := by
  unfold State.modHost
  repeat' first
    | (with_reducible exact Keeps.refl _)
    | (with_reducible assumption)
    | (fail_if_no_progress (with_reducible apply Keeps.mk'))
    | (dsimp only)

theorem State.linkTrain_keeps (s : State) (mode rate width : Nat) : Keeps s (State.linkTrain s mode rate width) := by
  unfold State.linkTrain
  repeat' first
    | (with_reducible exact Keeps.refl _)
    | (with_reducible assumption)
    | (with_reducible apply Keeps.after (State.wr_keeps ..))
    | (with_reducible apply Keeps.after (State.modHost_keeps ..))
    | (with_reducible apply Keeps.after (State.modSys_keeps ..))
    | ((fail_if_no_progress extract_lets +onlyGivenNames x); first | (refine Keeps.cut x ?_ ?_; (on_goal 1 => unfold x); (on_goal 2 => (intro hx; clear_value x))) | clear_value x)
    | (with_reducible apply Keeps.ite)
    | (fail_if_no_progress (with_reducible apply Keeps.mk'))
    | split
    | (dsimp only)

theorem State.flrBegin_keeps (s : State) : Keeps s (State.flrBegin s) := by
  unfold State.flrBegin
  repeat' first
    | (with_reducible exact Keeps.refl _)
    | (with_reducible assumption)
    | (with_reducible apply Keeps.after (State.modHost_keeps ..))
    | (with_reducible apply Keeps.after (State.modLaunch_keeps ..))
    | (with_reducible apply Keeps.after (State.launchGone_keeps ..))
    | (with_reducible apply Keeps.after (State.endLaunch_keeps ..))
    | (with_reducible apply Keeps.after (State.setFld_keeps ..))
    | (with_reducible apply Keeps.after (State.clear_keeps ..))
    | (with_reducible apply Keeps.after (State.clearRange_keeps ..))
    | (with_reducible apply Keeps.after (State.mbxReset_keeps ..))
    | (with_reducible apply Keeps.after (State.modSys_keeps ..))
    | (with_reducible apply Keeps.foldl)
    | (with_reducible apply Keeps.foldl_fst)
    | (with_reducible refine Keeps.foldl_of (by assumption) ?_ ?_)
    | (intro _ _; beta_reduce)
    | (intro _; beta_reduce)
    | (with_reducible apply Keeps.ite_fst)
    | ((fail_if_no_progress extract_lets +onlyGivenNames x); first | (refine Keeps.cut x ?_ ?_; (on_goal 1 => unfold x); (on_goal 2 => (intro hx; clear_value x))) | clear_value x)
    | (with_reducible apply Keeps.ite)
    | (fail_if_no_progress (with_reducible apply Keeps.mk'))
    | split
    | (fail_if_no_progress simp only [Prod.mk.injEq] at *)
    | (fail_if_no_progress (with_reducible obtain ⟨rfl, -⟩ := (show (_ : State) = _ ∧ _ from by assumption)))
    | (fail_if_no_progress (with_reducible apply Keeps.fst))
    | (dsimp only)

theorem State.funcReset_keeps (s : State) : Keeps s (State.funcReset s) := by
  unfold State.funcReset
  repeat' first
    | (with_reducible exact Keeps.refl _)
    | (with_reducible assumption)
    | (with_reducible apply Keeps.after (State.flrBegin_keeps ..))
    | (with_reducible apply Keeps.after (State.settle_keeps ..))
    | (with_reducible apply Keeps.ite)
    | split
    | (dsimp only)

theorem State.flrEnd_keeps (s : State) : Keeps s (State.flrEnd s) := by
  unfold State.flrEnd
  repeat' first
    | (with_reducible exact Keeps.refl _)
    | (with_reducible assumption)
    | (with_reducible apply Keeps.after (State.modHost_keeps ..))
    | (with_reducible apply Keeps.after (State.setFld_keeps ..))
    | (with_reducible apply Keeps.ite)
    | (fail_if_no_progress (with_reducible apply Keeps.mk'))
    | split
    | (dsimp only)

theorem State.perstLow_keeps (s : State) : Keeps s (State.perstLow s) := by
  unfold State.perstLow
  repeat' first
    | (with_reducible exact Keeps.refl _)
    | (with_reducible assumption)
    | (with_reducible apply Keeps.after (State.modSys_keeps ..))
    | (with_reducible apply Keeps.after (State.modHost_keeps ..))
    | (with_reducible apply Keeps.after (State.wr_keeps ..))
    | (with_reducible apply Keeps.after (State.emit_keeps ..))
    | (with_reducible apply Keeps.after (State.flrBegin_keeps ..))
    | (with_reducible apply Keeps.after (State.settle_keeps ..))
    | ((fail_if_no_progress extract_lets +onlyGivenNames x); first | (refine Keeps.cut x ?_ ?_; (on_goal 1 => unfold x); (on_goal 2 => (intro hx; clear_value x))) | clear_value x)
    | (with_reducible apply Keeps.ite)
    | (fail_if_no_progress (with_reducible apply Keeps.mk'))
    | split
    | (dsimp only)

theorem State.perstHigh_keeps (s : State) : Keeps s (State.perstHigh s) := by
  unfold State.perstHigh
  repeat' first
    | (with_reducible exact Keeps.refl _)
    | (with_reducible assumption)
    | (with_reducible apply Keeps.after (State.modSys_keeps ..))
    | (with_reducible apply Keeps.ite)
    | (fail_if_no_progress (with_reducible apply Keeps.mk'))
    | split
    | (dsimp only)

theorem State.linkAgain_keeps (s : State) : Keeps s (State.linkAgain s) := by
  unfold State.linkAgain
  repeat' first
    | (with_reducible exact Keeps.refl _)
    | (with_reducible assumption)
    | (with_reducible apply Keeps.after (State.modSys_keeps ..))
    | (with_reducible apply Keeps.ite)
    | (fail_if_no_progress (with_reducible apply Keeps.mk'))
    | split
    | (dsimp only)

theorem State.configRequest_keeps (s : State) (kind : Nat) (v : Word) : Keeps s (State.configRequest s kind v) := by
  unfold State.configRequest
  repeat' first
    | (with_reducible exact Keeps.refl _)
    | (with_reducible assumption)
    | (with_reducible apply Keeps.after (State.emit_keeps ..))
    | (with_reducible apply Keeps.after (State.modHost_keeps ..))
    | (with_reducible apply Keeps.after (State.priSend_keeps ..))
    | ((fail_if_no_progress extract_lets +onlyGivenNames x); first | (refine Keeps.cut x ?_ ?_; (on_goal 1 => unfold x); (on_goal 2 => (intro hx; clear_value x))) | clear_value x)
    | (with_reducible apply Keeps.ite)
    | (fail_if_no_progress (with_reducible apply Keeps.mk'))
    | split
    | (dsimp only)

theorem State.biasFlip_keeps (s : State) (a : Nat) : Keeps s (State.biasFlip s a) := by
  unfold State.biasFlip
  repeat' first
    | (with_reducible exact Keeps.refl _)
    | (with_reducible assumption)
    | (with_reducible apply Keeps.after (State.modHost_keeps ..))
    | (with_reducible apply Keeps.after (State.bump_keeps ..))
    | (with_reducible apply Keeps.ite)
    | (fail_if_no_progress (with_reducible apply Keeps.mk'))
    | split
    | (dsimp only)

theorem State.filterAdd_keeps (s : State) (a : Nat) : Keeps s (State.filterAdd s a) := by
  unfold State.filterAdd
  repeat' first
    | (with_reducible exact Keeps.refl _)
    | (with_reducible assumption)
    | (with_reducible apply Keeps.after (State.modHost_keeps ..))
    | (with_reducible apply Keeps.after (State.take_keeps ..))
    | (with_reducible refine State.take_keepsOf (by assumption) ?_)
    | (with_reducible apply Keeps.after (State.emit_keeps ..))
    | (with_reducible apply KeepsO.getD)
    | ((fail_if_no_progress extract_lets +onlyGivenNames x); first | (refine Keeps.cut x ?_ ?_; (on_goal 1 => unfold x); (on_goal 2 => (intro hx; clear_value x))) | clear_value x)
    | (with_reducible apply Keeps.ite)
    | (fail_if_no_progress (with_reducible apply Keeps.mk'))
    | split
    | (fail_if_no_progress simp only [Prod.mk.injEq] at *)
    | (fail_if_no_progress (with_reducible obtain ⟨rfl, -⟩ := (show (_ : State) = _ ∧ _ from by assumption)))
    | (dsimp only)

theorem State.hostRead_keeps (s : State) (addr found sym : Nat) : Keeps s (State.hostRead s addr found sym) := by
  unfold State.hostRead
  repeat' first
    | (with_reducible exact Keeps.refl _)
    | (with_reducible assumption)
    | (with_reducible apply Keeps.after (State.send_keeps ..))
    | (with_reducible apply Keeps.after (State.biasFlip_keeps ..))
    | (with_reducible apply Keeps.after (State.corrected_keeps ..))
    | (with_reducible apply Keeps.after (State.emit_keeps ..))
    | (with_reducible apply Keeps.after (State.setPoison_keeps ..))
    | (with_reducible apply Keeps.after (State.bump_keeps ..))
    | (with_reducible apply Keeps.after (State.event_keeps ..))
    | (with_reducible apply Keeps.after (State.poisonUse_keeps ..))
    | (with_reducible apply Keeps.after (State.filterAdd_keeps ..))
    | ((fail_if_no_progress extract_lets +onlyGivenNames x); first | (refine Keeps.cut x ?_ ?_; (on_goal 1 => unfold x); (on_goal 2 => (intro hx; clear_value x))) | clear_value x)
    | (with_reducible apply Keeps.ite)
    | (fail_if_no_progress (with_reducible apply Keeps.mk'))
    | split
    | (fail_if_no_progress simp only [Prod.mk.injEq] at *)
    | (fail_if_no_progress (with_reducible obtain ⟨rfl, -⟩ := (show (_ : State) = _ ∧ _ from by assumption)))
    | (dsimp only)

theorem State.hostWrite_keeps (s : State) (a : Nat) (bs : List Byte) : Keeps s (State.hostWrite s a bs) := by
  unfold State.hostWrite
  repeat' first
    | (with_reducible exact Keeps.refl _)
    | (with_reducible assumption)
    | (with_reducible apply Keeps.after (State.send_keeps ..))
    | (with_reducible apply Keeps.after (State.biasFlip_keeps ..))
    | (with_reducible apply Keeps.after (State.putMem_keeps ..))
    | (with_reducible apply Keeps.after (State.received_keeps ..))
    | (with_reducible apply Keeps.after (State.ctrl_keeps ..))
    | (with_reducible apply Keeps.after (State.emit_keeps ..))
    | ((fail_if_no_progress extract_lets +onlyGivenNames x); first | (refine Keeps.cut x ?_ ?_; (on_goal 1 => unfold x); (on_goal 2 => (intro hx; clear_value x))) | clear_value x)
    | (with_reducible apply Keeps.ite)
    | split
    | (dsimp only)

theorem State.snoop_keeps (s : State) (a : Nat) : Keeps s (State.snoop s a) := by
  unfold State.snoop
  repeat' first
    | (with_reducible exact Keeps.refl _)
    | (with_reducible assumption)
    | (with_reducible apply Keeps.after (State.emit_keeps ..))
    | (with_reducible apply Keeps.ite)
    | split
    | (dsimp only)

theorem State.byHost_keeps (s : State) (a : Nat) (v : Word) : Keeps s (State.byHost s a v) := by
  unfold State.byHost
  repeat' first
    | (with_reducible exact Keeps.refl _)
    | (with_reducible assumption)
    | (with_reducible apply Keeps.after (State.writeBy_keeps ..))
    | (dsimp only)

theorem State.coalTimer_keeps (s : State) (q : Nat) : Keeps s (State.coalTimer s q) := by
  unfold State.coalTimer
  repeat' first
    | (with_reducible exact Keeps.refl _)
    | (with_reducible assumption)
    | (with_reducible apply Keeps.after (State.modHost_keeps ..))
    | (with_reducible apply Keeps.after (State.msix_keeps ..))
    | (with_reducible apply Keeps.ite)
    | (fail_if_no_progress (with_reducible apply Keeps.mk'))
    | split
    | (dsimp only)

theorem State.linkReplay_keeps (s : State) (crc retry : Bool) : Keeps s (State.linkReplay s crc retry) := by
  unfold State.linkReplay
  repeat' first
    | (with_reducible exact Keeps.refl _)
    | (with_reducible assumption)
    | (with_reducible apply Keeps.after (State.corrected_keeps ..))
    | (with_reducible apply Keeps.after (State.emit_keeps ..))
    | ((fail_if_no_progress extract_lets +onlyGivenNames x); first | (refine Keeps.cut x ?_ ?_; (on_goal 1 => unfold x); (on_goal 2 => (intro hx; clear_value x))) | clear_value x)
    | (with_reducible apply Keeps.ite)
    | split
    | (dsimp only)

theorem execLinkTrain_keeps (mode : BitVec 2) (rate : BitVec 2) (width : BitVec 4) (s : State) : KeepsX s (execLinkTrain mode rate width s) := by
  unfold execLinkTrain
  repeat' first
    | (with_reducible exact Keeps.refl _)
    | (with_reducible assumption)
    | (with_reducible apply Keeps.after (State.linkTrain_keeps ..))
    | (with_reducible apply KeepsX.next)
    | (dsimp only)

theorem execPerstAssert_keeps (s : State) : KeepsX s (execPerstAssert s) := by
  unfold execPerstAssert
  repeat' first
    | (with_reducible exact Keeps.refl _)
    | (with_reducible assumption)
    | (with_reducible apply Keeps.after (State.perstLow_keeps ..))
    | (with_reducible apply KeepsX.next)
    | (dsimp only)

theorem execPerstDeassert_keeps (s : State) : KeepsX s (execPerstDeassert s) := by
  unfold execPerstDeassert
  repeat' first
    | (with_reducible exact Keeps.refl _)
    | (with_reducible assumption)
    | (with_reducible apply Keeps.after (State.perstHigh_keeps ..))
    | (with_reducible apply KeepsX.next)
    | (dsimp only)

theorem execFunctionLevelReset_keeps (s : State) : KeepsX s (execFunctionLevelReset s) := by
  unfold execFunctionLevelReset
  repeat' first
    | (with_reducible exact Keeps.refl _)
    | (with_reducible assumption)
    | (with_reducible apply Keeps.after (State.funcReset_keeps ..))
    | (with_reducible apply KeepsX.next)
    | (dsimp only)

theorem execFlrDone_keeps (s : State) : KeepsX s (execFlrDone s) := by
  unfold execFlrDone
  repeat' first
    | (with_reducible exact Keeps.refl _)
    | (with_reducible assumption)
    | (with_reducible apply Keeps.after (State.flrEnd_keeps ..))
    | (with_reducible apply KeepsX.next)
    | (dsimp only)

theorem execConfigRequest_keeps (kind : BitVec 4) (v : Word) (s : State) : KeepsX s (execConfigRequest kind v s) := by
  unfold execConfigRequest
  repeat' first
    | (with_reducible exact Keeps.refl _)
    | (with_reducible assumption)
    | (with_reducible apply Keeps.after (State.configRequest_keeps ..))
    | (with_reducible apply KeepsX.next)
    | (dsimp only)

theorem execLinkRetrainTimer_keeps (s : State) : KeepsX s (execLinkRetrainTimer s) := by
  unfold execLinkRetrainTimer
  repeat' first
    | (with_reducible exact Keeps.refl _)
    | (with_reducible assumption)
    | (with_reducible apply Keeps.after (State.linkAgain_keeps ..))
    | (with_reducible apply KeepsX.next)
    | (dsimp only)

theorem execHostMemRead_keeps (a : BitVec 52) (found : BitVec 2) (sym : BitVec 6) (s : State) : KeepsX s (execHostMemRead a found sym s) := by
  unfold execHostMemRead
  repeat' first
    | (with_reducible exact Keeps.refl _)
    | (with_reducible assumption)
    | (with_reducible apply Keeps.after (State.hostRead_keeps ..))
    | (with_reducible apply KeepsX.next)
    | (dsimp only)

theorem execHostMemWrite_keeps (a : BitVec 52) (data : List Byte) (s : State) : KeepsX s (execHostMemWrite a data s) := by
  unfold execHostMemWrite
  repeat' first
    | (with_reducible exact Keeps.refl _)
    | (with_reducible assumption)
    | (with_reducible apply Keeps.after (State.hostWrite_keeps ..))
    | (with_reducible apply KeepsX.next)
    | (dsimp only)

theorem execH2dSnoop_keeps (a : BitVec 52) (s : State) : KeepsX s (execH2dSnoop a s) := by
  unfold execH2dSnoop
  repeat' first
    | (with_reducible exact Keeps.refl _)
    | (with_reducible assumption)
    | (with_reducible apply Keeps.after (State.snoop_keeps ..))
    | (with_reducible apply KeepsX.next)
    | (dsimp only)

theorem execCmdRingEnable_keeps (cq : Bool) (r : RingId) (v : Word) (s : State) : KeepsX s (execCmdRingEnable cq r v s) := by
  unfold execCmdRingEnable
  repeat' first
    | (with_reducible exact Keeps.refl _)
    | (with_reducible assumption)
    | (with_reducible apply Keeps.after (State.byHost_keeps ..))
    | (with_reducible apply KeepsX.next)
    | (with_reducible apply Keeps.ite)
    | split
    | (dsimp only)

theorem execSqTailWrite_keeps (r : RingId) (v : Word) (s : State) : KeepsX s (execSqTailWrite r v s) := by
  unfold execSqTailWrite
  repeat' first
    | (with_reducible exact Keeps.refl _)
    | (with_reducible assumption)
    | (with_reducible apply Keeps.after (State.byHost_keeps ..))
    | (with_reducible apply KeepsX.next)
    | (dsimp only)

theorem execCqHeadWrite_keeps (r : RingId) (v : Word) (s : State) : KeepsX s (execCqHeadWrite r v s) := by
  unfold execCqHeadWrite
  repeat' first
    | (with_reducible exact Keeps.refl _)
    | (with_reducible assumption)
    | (with_reducible apply Keeps.after (State.byHost_keeps ..))
    | (with_reducible apply KeepsX.next)
    | (dsimp only)

theorem execCoalTimer_keeps (r : RingId) (s : State) : KeepsX s (execCoalTimer r s) := by
  unfold execCoalTimer
  repeat' first
    | (with_reducible exact Keeps.refl _)
    | (with_reducible assumption)
    | (with_reducible apply Keeps.after (State.coalTimer_keeps ..))
    | (with_reducible apply KeepsX.next)
    | (dsimp only)

theorem execWindowBaseWrite_keeps (w1 : Bool) (v : Word) (s : State) : KeepsX s (execWindowBaseWrite w1 v s) := by
  unfold execWindowBaseWrite
  repeat' first
    | (with_reducible exact Keeps.refl _)
    | (with_reducible assumption)
    | (with_reducible apply Keeps.after (State.byHost_keeps ..))
    | (with_reducible apply KeepsX.next)
    | (with_reducible apply Keeps.ite)
    | split
    | (dsimp only)

theorem execCmdCntClr_keeps (s : State) : KeepsX s (execCmdCntClr s) := by
  unfold execCmdCntClr
  repeat' first
    | (with_reducible exact Keeps.refl _)
    | (with_reducible assumption)
    | (with_reducible apply Keeps.after (State.clear_keeps ..))
    | (with_reducible apply KeepsX.next)
    | (dsimp only)

theorem execRegisterWrite_keeps (a : BitVec 54) (v : Word) (who : Writer) (s : State) : KeepsX s (execRegisterWrite a v who s) := by
  unfold execRegisterWrite
  repeat' first
    | (with_reducible exact Keeps.refl _)
    | (with_reducible assumption)
    | (with_reducible apply Keeps.after (State.writeBy_keeps ..))
    | (with_reducible apply KeepsX.next)
    | (dsimp only)

theorem execLinkRetry_keeps (crc : Bool) (retry : Bool) (s : State) : KeepsX s (execLinkRetry crc retry s) := by
  unfold execLinkRetry
  repeat' first
    | (with_reducible exact Keeps.refl _)
    | (with_reducible assumption)
    | (with_reducible apply Keeps.after (State.linkReplay_keeps ..))
    | (with_reducible apply KeepsX.next)
    | (dsimp only)

theorem execModLogHeadWrite_keeps (v : Word) (s : State) : KeepsX s (execModLogHeadWrite v s) := by
  unfold execModLogHeadWrite
  repeat' first
    | (with_reducible exact Keeps.refl _)
    | (with_reducible assumption)
    | (with_reducible apply Keeps.after (State.plainWrite_keeps ..))
    | (with_reducible apply KeepsX.next)
    | (dsimp only)

theorem execModLogBaseWrite_keeps (v : Word) (s : State) : KeepsX s (execModLogBaseWrite v s) := by
  unfold execModLogBaseWrite
  repeat' first
    | (with_reducible exact Keeps.refl _)
    | (with_reducible assumption)
    | (with_reducible apply Keeps.after (State.logBase_keeps ..))
    | (with_reducible apply KeepsX.next)
    | (dsimp only)

theorem execModErrCntClr_keeps (s : State) : KeepsX s (execModErrCntClr s) := by
  unfold execModErrCntClr
  repeat' first
    | (with_reducible exact Keeps.refl _)
    | (with_reducible assumption)
    | (with_reducible apply Keeps.after (State.clear_keeps ..))
    | (with_reducible apply KeepsX.next)
    | (dsimp only)

end Sys2Proof.Machine
end

