-- ==== Sys2Proof/Laws/KeepsBoard.lean ====
section
/-!
SUPPORT. Sys2Proof/Laws/KeepsBoard.lean: what the operations of Machine/Board.lean keep of a state (`Keeps`).
-/
set_option linter.unusedTactic false
set_option linter.unreachableTactic false
namespace Sys2Proof.Machine

theorem State.onTap_after {s Y : State} {d : DieId} {f : TapSt → TapSt} {act : State → State} (h : ∀ t, Keeps t (act t)) (k : Keeps s Y) :
    Keeps s (Y.onTap d f act) := by
  unfold State.onTap
  exact Keeps.ite ((k.trans (State.modSys_keeps ..)).trans (h _)) k

theorem State.bypass_keeps (s : State) (d : DieId) : Keeps s (State.bypass s d) := by
  unfold State.bypass
  repeat' first
    | (with_reducible exact Keeps.refl _)
    | (with_reducible assumption)
    | (with_reducible apply Keeps.after (State.emit_keeps ..))
    | (dsimp only)

theorem State.extest_keeps (s : State) (d : DieId) (ir : BitVec 8) (mode : Nat) (cells pins : BitVec 116) : Keeps s (State.extest s d ir mode cells pins) := by
  unfold State.extest
  repeat' first
    | (with_reducible exact Keeps.refl _)
    | (with_reducible assumption)
    | (with_reducible apply State.onTap_after)
    | (intro _; beta_reduce)
    | (with_reducible apply Keeps.after (State.emit_keeps ..))
    | (with_reducible apply Keeps.after (State.bypass_keeps ..))
    | (with_reducible apply Keeps.ite)
    | (fail_if_no_progress (with_reducible apply Keeps.mk'))
    | split
    | (dsimp only)

theorem State.preload_keeps (s : State) (d : DieId) (cells pins : BitVec 116) : Keeps s (State.preload s d cells pins) := by
  unfold State.preload
  repeat' first
    | (with_reducible exact Keeps.refl _)
    | (with_reducible assumption)
    | (with_reducible apply State.onTap_after)
    | (intro _; beta_reduce)
    | (with_reducible apply Keeps.after (State.emit_keeps ..))
    | (fail_if_no_progress (with_reducible apply Keeps.mk'))
    | (dsimp only)

theorem State.holdPins_keeps (s : State) (d : DieId) (ir : BitVec 8) (high : Bool) : Keeps s (State.holdPins s d ir high) := by
  unfold State.holdPins
  repeat' first
    | (with_reducible exact Keeps.refl _)
    | (with_reducible assumption)
    | (with_reducible apply State.onTap_after)
    | (intro _; beta_reduce)
    | (with_reducible apply Keeps.after (State.emit_keeps ..))
    | (with_reducible apply Keeps.after (State.bypass_keeps ..))
    | ((fail_if_no_progress extract_lets +onlyGivenNames x); first | (refine Keeps.cut x ?_ ?_; (on_goal 1 => unfold x); (on_goal 2 => (intro hx; clear_value x))) | clear_value x)
    | (with_reducible apply Keeps.ite)
    | (fail_if_no_progress (with_reducible apply Keeps.mk'))
    | split
    | (dsimp only)

theorem State.fwWrite_keeps (s : State) (d : DieId) (a : Nat) (v : Word) : Keeps s (State.fwWrite s d a v) := by
  unfold State.fwWrite
  repeat' first
    | (with_reducible exact Keeps.refl _)
    | (with_reducible assumption)
    | (with_reducible apply Keeps.after (State.writeReg_keeps ..))
    | (with_reducible apply Keeps.after (State.wrNum_keeps ..))
    | (with_reducible apply Keeps.ite)
    | (fail_if_no_progress (with_reducible apply Keeps.mk'))
    | split
    | (dsimp only)

theorem State.ccdbg_keeps (s : State) (d : DieId) (w : Bool) (a : Nat) (v : Word) : Keeps s (State.ccdbg s d w a v) := by
  unfold State.ccdbg
  repeat' first
    | (with_reducible exact Keeps.refl _)
    | (with_reducible assumption)
    | (with_reducible apply State.onTap_after)
    | (intro _; beta_reduce)
    | (with_reducible apply Keeps.after (State.emit_keeps ..))
    | (with_reducible apply Keeps.after (State.fwWrite_keeps ..))
    | (with_reducible apply Keeps.after (State.regRead_keeps ..))
    | ((fail_if_no_progress extract_lets +onlyGivenNames x); first | (refine Keeps.cut x ?_ ?_; (on_goal 1 => unfold x); (on_goal 2 => (intro hx; clear_value x))) | clear_value x)
    | (with_reducible apply Keeps.ite)
    | (fail_if_no_progress (with_reducible apply Keeps.mk'))
    | split
    | (dsimp only)

theorem State.sbFlash_keeps (s : State) : Keeps s (State.sbFlash s) := by
  unfold State.sbFlash
  repeat' first
    | (with_reducible exact Keeps.refl _)
    | (with_reducible assumption)
    | (with_reducible apply Keeps.after (State.flashRead_keeps ..))
    | (with_reducible refine State.flashRead_keepsOf (by assumption) ?_)
    | (with_reducible apply Keeps.after (State.setFld_keeps ..))
    | (with_reducible apply Keeps.after (State.emit_keeps ..))
    | ((fail_if_no_progress extract_lets +onlyGivenNames x); first | (refine Keeps.cut x ?_ ?_; (on_goal 1 => unfold x); (on_goal 2 => (intro hx; clear_value x))) | clear_value x)
    | (with_reducible apply Keeps.ite)
    | split
    | (fail_if_no_progress simp only [Prod.mk.injEq] at *)
    | (fail_if_no_progress (with_reducible obtain ⟨rfl, -⟩ := (show (_ : State) = _ ∧ _ from by assumption)))
    | (dsimp only)

theorem State.alertAnswer_keeps (s : State) (pins : Nat) : Keeps s (State.alertAnswer s pins) := by
  unfold State.alertAnswer
  repeat' first
    | (with_reducible exact Keeps.refl _)
    | (with_reducible assumption)
    | (with_reducible apply Keeps.after (State.emit_keeps ..))
    | (with_reducible apply Keeps.ite)
    | split
    | (dsimp only)

theorem State.railAgain_keeps (s : State) : Keeps s (State.railAgain s) := by
  unfold State.railAgain
  repeat' first
    | (with_reducible exact Keeps.refl _)
    | (with_reducible assumption)
    | (with_reducible apply Keeps.after (State.modSys_keeps ..))
    | (with_reducible apply Keeps.ite)
    | (fail_if_no_progress (with_reducible apply Keeps.mk'))
    | split
    | (dsimp only)

theorem execVinRise_keeps (s : State) : KeepsX s (execVinRise s) := by
  unfold execVinRise
  repeat' first
    | (with_reducible exact Keeps.refl _)
    | (with_reducible assumption)
    | (with_reducible apply Keeps.after (State.vinRise_keeps ..))
    | (with_reducible apply KeepsX.next)
    | (dsimp only)

theorem execVinFall_keeps (s : State) : KeepsX s (execVinFall s) := by
  unfold execVinFall
  repeat' first
    | (with_reducible exact Keeps.refl _)
    | (with_reducible assumption)
    | (with_reducible apply Keeps.after (State.vinFall_keeps ..))
    | (with_reducible apply KeepsX.next)
    | (dsimp only)

theorem execModRstAssert_keeps (s : State) : KeepsX s (execModRstAssert s) := by
  unfold execModRstAssert
  repeat' first
    | (with_reducible exact Keeps.refl _)
    | (with_reducible assumption)
    | (with_reducible apply Keeps.after (State.rstAssert_keeps ..))
    | (with_reducible apply KeepsX.next)
    | (dsimp only)

theorem execModRstDeassert_keeps (s : State) : KeepsX s (execModRstDeassert s) := by
  unfold execModRstDeassert
  repeat' first
    | (with_reducible exact Keeps.refl _)
    | (with_reducible assumption)
    | (with_reducible apply Keeps.after (State.rstDeassert_keeps ..))
    | (with_reducible apply KeepsX.next)
    | (dsimp only)

theorem execResetReq_keeps (v : BitVec 32) (s : State) : KeepsX s (execResetReq v s) := by
  unfold execResetReq
  repeat' first
    | (with_reducible exact Keeps.refl _)
    | (with_reducible assumption)
    | (with_reducible apply Keeps.after (State.sbCtl_keeps ..))
    | (with_reducible apply KeepsX.next)
    | (with_reducible apply Keeps.ite)
    | split
    | (dsimp only)

theorem execJnlClear_keeps (v : BitVec 32) (s : State) : KeepsX s (execJnlClear v s) := by
  unfold execJnlClear
  repeat' first
    | (with_reducible exact Keeps.refl _)
    | (with_reducible assumption)
    | (with_reducible apply Keeps.after (State.sbCtl_keeps ..))
    | (with_reducible apply KeepsX.next)
    | (with_reducible apply Keeps.ite)
    | split
    | (dsimp only)

theorem execOvercurrent_keeps (s : State) : KeepsX s (execOvercurrent s) := by
  unfold execOvercurrent
  repeat' first
    | (with_reducible exact Keeps.refl _)
    | (with_reducible assumption)
    | (with_reducible apply Keeps.after (State.overcurrent_keeps ..))
    | (with_reducible apply KeepsX.next)
    | (dsimp only)

theorem execOvervoltage_keeps (s : State) : KeepsX s (execOvervoltage s) := by
  unfold execOvervoltage
  repeat' first
    | (with_reducible exact Keeps.refl _)
    | (with_reducible assumption)
    | (with_reducible apply Keeps.after (State.overvoltage_keeps ..))
    | (with_reducible apply KeepsX.next)
    | (dsimp only)

theorem execOvervoltageRelease_keeps (s : State) : KeepsX s (execOvervoltageRelease s) := by
  unfold execOvervoltageRelease
  repeat' first
    | (with_reducible exact Keeps.refl _)
    | (with_reducible assumption)
    | (with_reducible apply Keeps.after (State.overvoltageOff_keeps ..))
    | (with_reducible apply KeepsX.next)
    | (dsimp only)

theorem execOvertempShutdown_keeps (cause : BitVec 2) (s : State) : KeepsX s (execOvertempShutdown cause s) := by
  unfold execOvertempShutdown
  repeat' first
    | (with_reducible exact Keeps.refl _)
    | (with_reducible assumption)
    | (with_reducible apply Keeps.after (State.overtemp_keeps ..))
    | (with_reducible apply Keeps.after (State.cause_keeps ..))
    | (with_reducible apply KeepsX.next)
    | (dsimp only)

theorem execShutdownHoldExpire_keeps (s : State) : KeepsX s (execShutdownHoldExpire s) := by
  unfold execShutdownHoldExpire
  repeat' first
    | (with_reducible exact Keeps.refl _)
    | (with_reducible assumption)
    | (with_reducible apply Keeps.after (State.holdExpire_keeps ..))
    | (with_reducible apply KeepsX.next)
    | (dsimp only)

theorem execStartupStepPass_keeps (twin : Bool) (mirdig : BitVec 256) (s : State) : KeepsX s (execStartupStepPass twin mirdig s) := by
  unfold execStartupStepPass
  repeat' first
    | (with_reducible exact Keeps.refl _)
    | (with_reducible assumption)
    | (with_reducible apply Keeps.after (State.stepPass_keeps ..))
    | (with_reducible apply KeepsX.next)
    | (dsimp only)

theorem execStartupTryFail_keeps (obj : BitVec 16) (detail : BitVec 16) (mirdig : BitVec 256) (s : State) : KeepsX s (execStartupTryFail obj detail mirdig s) := by
  unfold execStartupTryFail
  repeat' first
    | (with_reducible exact Keeps.refl _)
    | (with_reducible assumption)
    | (with_reducible apply Keeps.after (State.tryFail_keeps ..))
    | (with_reducible apply KeepsX.next)
    | (dsimp only)

theorem execStep1RetryTimer_keeps (s : State) : KeepsX s (execStep1RetryTimer s) := by
  unfold execStep1RetryTimer
  repeat' first
    | (with_reducible exact Keeps.refl _)
    | (with_reducible assumption)
    | (with_reducible apply Keeps.after (State.railAgain_keeps ..))
    | (with_reducible apply KeepsX.next)
    | (dsimp only)

theorem execD2dFlitCrcFail_keeps (d : DieId) (vert : Bool) (s : State) : KeepsX s (execD2dFlitCrcFail d vert s) := by
  unfold execD2dFlitCrcFail
  repeat' first
    | (with_reducible exact Keeps.refl _)
    | (with_reducible assumption)
    | (with_reducible apply Keeps.after (State.d2dResend_keeps ..))
    | (with_reducible apply KeepsX.next)
    | (with_reducible apply Keeps.ite)
    | split
    | (dsimp only)

theorem execD2dRetrainDone_keeps (d : DieId) (vert : Bool) (ok : Bool) (s : State) : KeepsX s (execD2dRetrainDone d vert ok s) := by
  unfold execD2dRetrainDone
  repeat' first
    | (with_reducible exact Keeps.refl _)
    | (with_reducible assumption)
    | (with_reducible apply Keeps.after (State.d2dTrained_keeps ..))
    | (with_reducible apply KeepsX.next)
    | (dsimp only)

theorem execSbFlashDataRead_keeps (s : State) : KeepsX s (execSbFlashDataRead s) := by
  unfold execSbFlashDataRead
  repeat' first
    | (with_reducible exact Keeps.refl _)
    | (with_reducible assumption)
    | (with_reducible apply Keeps.after (State.sbFlash_keeps ..))
    | (with_reducible apply KeepsX.next)
    | (dsimp only)

theorem execAlertResponse_keeps (pins : BitVec 2) (s : State) : KeepsX s (execAlertResponse pins s) := by
  unfold execAlertResponse
  repeat' first
    | (with_reducible exact Keeps.refl _)
    | (with_reducible assumption)
    | (with_reducible apply Keeps.after (State.alertAnswer_keeps ..))
    | (with_reducible apply KeepsX.next)
    | (dsimp only)

theorem execExtest_keeps (d : DieId) (cells : BitVec 116) (pins : BitVec 116) (s : State) : KeepsX s (execExtest d cells pins s) := by
  unfold execExtest
  repeat' first
    | (with_reducible exact Keeps.refl _)
    | (with_reducible assumption)
    | (with_reducible apply Keeps.after (State.extest_keeps ..))
    | (with_reducible apply KeepsX.next)
    | (dsimp only)

theorem execSamplePreload_keeps (d : DieId) (cells : BitVec 116) (pins : BitVec 116) (s : State) : KeepsX s (execSamplePreload d cells pins s) := by
  unfold execSamplePreload
  repeat' first
    | (with_reducible exact Keeps.refl _)
    | (with_reducible assumption)
    | (with_reducible apply Keeps.after (State.preload_keeps ..))
    | (with_reducible apply KeepsX.next)
    | (dsimp only)

theorem execExtestPulse_keeps (d : DieId) (cells : BitVec 116) (pins : BitVec 116) (s : State) : KeepsX s (execExtestPulse d cells pins s) := by
  unfold execExtestPulse
  repeat' first
    | (with_reducible exact Keeps.refl _)
    | (with_reducible assumption)
    | (with_reducible apply Keeps.after (State.extest_keeps ..))
    | (with_reducible apply KeepsX.next)
    | (dsimp only)

theorem execExtestTrain_keeps (d : DieId) (cells : BitVec 116) (pins : BitVec 116) (s : State) : KeepsX s (execExtestTrain d cells pins s) := by
  unfold execExtestTrain
  repeat' first
    | (with_reducible exact Keeps.refl _)
    | (with_reducible assumption)
    | (with_reducible apply Keeps.after (State.extest_keeps ..))
    | (with_reducible apply KeepsX.next)
    | (dsimp only)

theorem execIdcode_keeps (d : DieId) (s : State) : KeepsX s (execIdcode d s) := by
  unfold execIdcode
  repeat' first
    | (with_reducible exact Keeps.refl _)
    | (with_reducible assumption)
    | (with_reducible apply State.onTap_after)
    | (intro _; beta_reduce)
    | (with_reducible apply Keeps.after (State.emit_keeps ..))
    | (with_reducible apply KeepsX.next)
    | (fail_if_no_progress (with_reducible apply Keeps.mk'))
    | (dsimp only)

theorem execUsercode_keeps (d : DieId) (s : State) : KeepsX s (execUsercode d s) := by
  unfold execUsercode
  repeat' first
    | (with_reducible exact Keeps.refl _)
    | (with_reducible assumption)
    | (with_reducible apply State.onTap_after)
    | (intro _; beta_reduce)
    | (with_reducible apply Keeps.after (State.emit_keeps ..))
    | (with_reducible apply KeepsX.next)
    | (fail_if_no_progress (with_reducible apply Keeps.mk'))
    | (dsimp only)

theorem execHighz_keeps (d : DieId) (s : State) : KeepsX s (execHighz d s) := by
  unfold execHighz
  repeat' first
    | (with_reducible exact Keeps.refl _)
    | (with_reducible assumption)
    | (with_reducible apply Keeps.after (State.holdPins_keeps ..))
    | (with_reducible apply KeepsX.next)
    | (dsimp only)

theorem execClamp_keeps (d : DieId) (s : State) : KeepsX s (execClamp d s) := by
  unfold execClamp
  repeat' first
    | (with_reducible exact Keeps.refl _)
    | (with_reducible assumption)
    | (with_reducible apply Keeps.after (State.holdPins_keeps ..))
    | (with_reducible apply KeepsX.next)
    | (dsimp only)

theorem execBypass_keeps (d : DieId) (code : BitVec 8) (s : State) : KeepsX s (execBypass d code s) := by
  unfold execBypass
  repeat' first
    | (with_reducible exact Keeps.refl _)
    | (with_reducible assumption)
    | (with_reducible apply State.onTap_after)
    | (intro _; beta_reduce)
    | (with_reducible apply Keeps.after (State.bypass_keeps ..))
    | (with_reducible apply KeepsX.next)
    | (with_reducible apply Keeps.ite)
    | (fail_if_no_progress (with_reducible apply Keeps.mk'))
    | split
    | (dsimp only)

theorem execCcdbg_keeps (d : DieId) (w : Bool) (a : BitVec 52) (v : Word) (s : State) : KeepsX s (execCcdbg d w a v s) := by
  unfold execCcdbg
  repeat' first
    | (with_reducible exact Keeps.refl _)
    | (with_reducible assumption)
    | (with_reducible apply Keeps.after (State.ccdbg_keeps ..))
    | (with_reducible apply KeepsX.next)
    | (dsimp only)

theorem execTapReset_keeps (s : State) : KeepsX s (execTapReset s) := by
  unfold execTapReset
  repeat' first
    | (with_reducible exact Keeps.refl _)
    | (with_reducible assumption)
    | (with_reducible apply State.onTap_after)
    | (intro _; beta_reduce)
    | (with_reducible apply Keeps.foldl)
    | (with_reducible apply Keeps.foldl_fst)
    | (with_reducible refine Keeps.foldl_of (by assumption) ?_ ?_)
    | (intro _ _; beta_reduce)
    | (intro _; beta_reduce)
    | (with_reducible apply KeepsX.next)
    | (with_reducible apply Keeps.ite_fst)
    | (with_reducible apply Keeps.ite)
    | (fail_if_no_progress (with_reducible apply Keeps.mk'))
    | split
    | (fail_if_no_progress simp only [Prod.mk.injEq] at *)
    | (fail_if_no_progress (with_reducible obtain ⟨rfl, -⟩ := (show (_ : State) = _ ∧ _ from by assumption)))
    | (fail_if_no_progress (with_reducible apply Keeps.fst))
    | (dsimp only)

end Sys2Proof.Machine
end

