-- ==== Sys2Proof/Laws/KeepsAttest.lean ====
section
/-!
SUPPORT. Sys2Proof/Laws/KeepsAttest.lean: what the operations of Machine/Attest.lean keep of a state (`Keeps`).
-/
set_option linter.unusedTactic false
set_option linter.unreachableTactic false
namespace Sys2Proof.Machine

theorem State.spdmAnswer_keeps (s : State) (code : Nat) (words : List Nat) : Keeps s (State.spdmAnswer s code words) := by
  unfold State.spdmAnswer
  repeat' first
    | (with_reducible exact Keeps.refl _)
    | (with_reducible assumption)
    | (with_reducible apply Keeps.after (State.emit_keeps ..))
    | (dsimp only)

theorem State.spdmError_keeps (s : State) (code : Nat) : Keeps s (State.spdmError s code) := by
  unfold State.spdmError
  repeat' first
    | (with_reducible exact Keeps.refl _)
    | (with_reducible assumption)
    | (with_reducible apply Keeps.after (State.emit_keeps ..))
    | (dsimp only)

theorem State.spdmAt_after {s Y : State} {need : Nat} {act : State → State} (h : ∀ t, Keeps t (act t)) (k : Keeps s Y) :
    Keeps s (Y.spdmAt need act) := by
  unfold State.spdmAt
  exact Keeps.ite k (Keeps.ite (k.trans (State.spdmError_keeps ..)) (k.trans (h _)))

theorem State.signing_after {s Y : State} {act : State → State} (h : ∀ t, Keeps t (act t)) (k : Keeps s Y) :
    Keeps s (Y.signing act) := by
  unfold State.signing
  exact Keeps.ite (k.trans (State.spdmError_keeps ..)) (k.trans (h _))

theorem State.spdmVersion_keeps (s : State) : Keeps s (State.spdmVersion s) := by
  unfold State.spdmVersion
  repeat' first
    | (with_reducible exact Keeps.refl _)
    | (with_reducible assumption)
    | (with_reducible apply Keeps.after (State.modSys_keeps ..))
    | (with_reducible apply Keeps.after (State.spdmAnswer_keeps ..))
    | (with_reducible apply Keeps.ite)
    | (fail_if_no_progress (with_reducible apply Keeps.mk'))
    | split
    | (dsimp only)

theorem State.spdmCapabilities_keeps (s : State) : Keeps s (State.spdmCapabilities s) := by
  unfold State.spdmCapabilities
  repeat' first
    | (with_reducible exact Keeps.refl _)
    | (with_reducible assumption)
    | (with_reducible apply State.spdmAt_after)
    | (intro _; beta_reduce)
    | (with_reducible apply Keeps.after (State.modSys_keeps ..))
    | (with_reducible apply Keeps.after (State.spdmAnswer_keeps ..))
    | (fail_if_no_progress (with_reducible apply Keeps.mk'))
    | (dsimp only)

theorem State.spdmAlgorithms_keeps (s : State) (sign hash kex aead : Bool) : Keeps s (State.spdmAlgorithms s sign hash kex aead) := by
  unfold State.spdmAlgorithms
  repeat' first
    | (with_reducible exact Keeps.refl _)
    | (with_reducible assumption)
    | (with_reducible apply State.spdmAt_after)
    | (intro _; beta_reduce)
    | (with_reducible apply Keeps.after (State.spdmError_keeps ..))
    | (with_reducible apply Keeps.after (State.modSys_keeps ..))
    | (with_reducible apply Keeps.after (State.spdmAnswer_keeps ..))
    | (with_reducible apply Keeps.ite)
    | (fail_if_no_progress (with_reducible apply Keeps.mk'))
    | split
    | (dsimp only)

theorem State.spdmDigests_keeps (s : State) : Keeps s (State.spdmDigests s) := by
  unfold State.spdmDigests
  repeat' first
    | (with_reducible exact Keeps.refl _)
    | (with_reducible assumption)
    | (with_reducible apply State.spdmAt_after)
    | (intro _; beta_reduce)
    | (with_reducible apply Keeps.after (State.spdmAnswer_keeps ..))
    | (dsimp only)

theorem State.spdmCertificate_keeps (s : State) (slot off len : Nat) : Keeps s (State.spdmCertificate s slot off len) := by
  unfold State.spdmCertificate
  repeat' first
    | (with_reducible exact Keeps.refl _)
    | (with_reducible assumption)
    | (with_reducible apply State.spdmAt_after)
    | (intro _; beta_reduce)
    | (with_reducible apply Keeps.after (State.spdmError_keeps ..))
    | (with_reducible apply Keeps.after (State.take_keeps ..))
    | (with_reducible refine State.take_keepsOf (by assumption) ?_)
    | (with_reducible apply Keeps.after (State.spdmAnswer_keeps ..))
    | ((fail_if_no_progress extract_lets +onlyGivenNames x); first | (refine Keeps.cut x ?_ ?_; (on_goal 1 => unfold x); (on_goal 2 => (intro hx; clear_value x))) | clear_value x)
    | (with_reducible apply Keeps.ite)
    | split
    | (dsimp only)

theorem State.spdmChallenge_keeps (s : State) (slot : Nat) (nonce : BitVec 256) : Keeps s (State.spdmChallenge s slot nonce) := by
  unfold State.spdmChallenge
  repeat' first
    | (with_reducible exact Keeps.refl _)
    | (with_reducible assumption)
    | (with_reducible apply State.spdmAt_after)
    | (intro _; beta_reduce)
    | (with_reducible apply Keeps.after (State.spdmError_keeps ..))
    | (with_reducible apply State.signing_after)
    | (intro _; beta_reduce)
    | (with_reducible apply Keeps.after (State.takeBytes_keeps ..))
    | (with_reducible refine State.takeBytes_keepsOf (by assumption) ?_)
    | (with_reducible apply Keeps.after (State.spdmAnswer_keeps ..))
    | ((fail_if_no_progress extract_lets +onlyGivenNames x); first | (refine Keeps.cut x ?_ ?_; (on_goal 1 => unfold x); (on_goal 2 => (intro hx; clear_value x))) | clear_value x)
    | (with_reducible apply Keeps.ite)
    | split
    | (fail_if_no_progress simp only [Prod.mk.injEq] at *)
    | (fail_if_no_progress (with_reducible obtain ⟨rfl, -⟩ := (show (_ : State) = _ ∧ _ from by assumption)))
    | (dsimp only)

theorem State.spdmMeasurements_keeps (s : State) (op : Nat) (sign : Bool) (nonce : BitVec 256) : Keeps s (State.spdmMeasurements s op sign nonce) := by
  unfold State.spdmMeasurements
  repeat' first
    | (with_reducible exact Keeps.refl _)
    | (with_reducible assumption)
    | (with_reducible apply State.spdmAt_after)
    | (intro _; beta_reduce)
    | (with_reducible apply Keeps.after (State.spdmError_keeps ..))
    | (with_reducible apply State.signing_after)
    | (intro _; beta_reduce)
    | (with_reducible apply Keeps.after (State.takeBytes_keeps ..))
    | (with_reducible refine State.takeBytes_keepsOf (by assumption) ?_)
    | (with_reducible apply Keeps.after (State.spdmAnswer_keeps ..))
    | ((fail_if_no_progress extract_lets +onlyGivenNames x); first | (refine Keeps.cut x ?_ ?_; (on_goal 1 => unfold x); (on_goal 2 => (intro hx; clear_value x))) | clear_value x)
    | (with_reducible apply Keeps.ite)
    | split
    | (fail_if_no_progress simp only [Prod.mk.injEq] at *)
    | (fail_if_no_progress (with_reducible obtain ⟨rfl, -⟩ := (show (_ : State) = _ ∧ _ from by assumption)))
    | (dsimp only)

theorem State.spdmKeyExchange_keeps (s : State) (slot : Nat) (key : BitVec 512) : Keeps s (State.spdmKeyExchange s slot key) := by
  unfold State.spdmKeyExchange
  repeat' first
    | (with_reducible exact Keeps.refl _)
    | (with_reducible assumption)
    | (with_reducible apply State.spdmAt_after)
    | (intro _; beta_reduce)
    | (with_reducible apply Keeps.after (State.spdmError_keeps ..))
    | (with_reducible apply State.signing_after)
    | (intro _; beta_reduce)
    | (with_reducible apply Keeps.after (State.takeBytes_keeps ..))
    | (with_reducible refine State.takeBytes_keepsOf (by assumption) ?_)
    | (with_reducible apply Keeps.after (State.modSys_keeps ..))
    | (with_reducible apply Keeps.after (State.spdmAnswer_keeps ..))
    | ((fail_if_no_progress extract_lets +onlyGivenNames x); first | (refine Keeps.cut x ?_ ?_; (on_goal 1 => unfold x); (on_goal 2 => (intro hx; clear_value x))) | clear_value x)
    | (with_reducible apply Keeps.ite)
    | (fail_if_no_progress (with_reducible apply Keeps.mk'))
    | split
    | (fail_if_no_progress simp only [Prod.mk.injEq] at *)
    | (fail_if_no_progress (with_reducible obtain ⟨rfl, -⟩ := (show (_ : State) = _ ∧ _ from by assumption)))
    | (dsimp only)

theorem State.spdmFinish_keeps (s : State) (id : Nat) (ok : Bool) : Keeps s (State.spdmFinish s id ok) := by
  unfold State.spdmFinish
  repeat' first
    | (with_reducible exact Keeps.refl _)
    | (with_reducible assumption)
    | (with_reducible apply State.spdmAt_after)
    | (intro _; beta_reduce)
    | (with_reducible apply Keeps.after (State.spdmError_keeps ..))
    | (with_reducible apply Keeps.after (State.modSys_keeps ..))
    | (with_reducible apply Keeps.after (State.spdmAnswer_keeps ..))
    | (with_reducible apply Keeps.ite)
    | (fail_if_no_progress (with_reducible apply Keeps.mk'))
    | split
    | (dsimp only)

theorem State.inSession_after {s Y : State} {id : Nat} {act : State → State} (h : ∀ t, Keeps t (act t)) (k : Keeps s Y) :
    Keeps s (Y.inSession id act) := by
  unfold State.inSession
  exact State.spdmAt_after (fun t => Keeps.ite (h _) (State.spdmError_keeps ..)) k

theorem execGetVersion_keeps (s : State) : KeepsX s (execGetVersion s) := by
  unfold execGetVersion
  repeat' first
    | (with_reducible exact Keeps.refl _)
    | (with_reducible assumption)
    | (with_reducible apply Keeps.after (State.spdmVersion_keeps ..))
    | (with_reducible apply KeepsX.next)
    | (dsimp only)

theorem execGetCapabilities_keeps (_flags : BitVec 32) (s : State) : KeepsX s (execGetCapabilities _flags s) := by
  unfold execGetCapabilities
  repeat' first
    | (with_reducible exact Keeps.refl _)
    | (with_reducible assumption)
    | (with_reducible apply Keeps.after (State.spdmCapabilities_keeps ..))
    | (with_reducible apply KeepsX.next)
    | (dsimp only)

theorem execNegotiateAlgorithms_keeps (sign : Bool) (hash : Bool) (kex : Bool) (aead : Bool) (s : State) : KeepsX s (execNegotiateAlgorithms sign hash kex aead s) := by
  unfold execNegotiateAlgorithms
  repeat' first
    | (with_reducible exact Keeps.refl _)
    | (with_reducible assumption)
    | (with_reducible apply Keeps.after (State.spdmAlgorithms_keeps ..))
    | (with_reducible apply KeepsX.next)
    | (dsimp only)

theorem execGetDigests_keeps (s : State) : KeepsX s (execGetDigests s) := by
  unfold execGetDigests
  repeat' first
    | (with_reducible exact Keeps.refl _)
    | (with_reducible assumption)
    | (with_reducible apply Keeps.after (State.spdmDigests_keeps ..))
    | (with_reducible apply KeepsX.next)
    | (dsimp only)

theorem execGetCertificate_keeps (slot : BitVec 8) (off : BitVec 16) (len : BitVec 16) (s : State) : KeepsX s (execGetCertificate slot off len s) := by
  unfold execGetCertificate
  repeat' first
    | (with_reducible exact Keeps.refl _)
    | (with_reducible assumption)
    | (with_reducible apply Keeps.after (State.spdmCertificate_keeps ..))
    | (with_reducible apply KeepsX.next)
    | (dsimp only)

theorem execChallenge_keeps (slot : BitVec 8) (nonce : BitVec 256) (s : State) : KeepsX s (execChallenge slot nonce s) := by
  unfold execChallenge
  repeat' first
    | (with_reducible exact Keeps.refl _)
    | (with_reducible assumption)
    | (with_reducible apply Keeps.after (State.spdmChallenge_keeps ..))
    | (with_reducible apply KeepsX.next)
    | (dsimp only)

theorem execGetMeasurements_keeps (op : BitVec 8) (sign : Bool) (nonce : BitVec 256) (s : State) : KeepsX s (execGetMeasurements op sign nonce s) := by
  unfold execGetMeasurements
  repeat' first
    | (with_reducible exact Keeps.refl _)
    | (with_reducible assumption)
    | (with_reducible apply Keeps.after (State.spdmMeasurements_keeps ..))
    | (with_reducible apply KeepsX.next)
    | (dsimp only)

theorem execKeyExchange_keeps (slot : BitVec 8) (key : BitVec 512) (s : State) : KeepsX s (execKeyExchange slot key s) := by
  unfold execKeyExchange
  repeat' first
    | (with_reducible exact Keeps.refl _)
    | (with_reducible assumption)
    | (with_reducible apply Keeps.after (State.spdmKeyExchange_keeps ..))
    | (with_reducible apply KeepsX.next)
    | (dsimp only)

theorem execFinish_keeps (id : BitVec 32) (ok : Bool) (s : State) : KeepsX s (execFinish id ok s) := by
  unfold execFinish
  repeat' first
    | (with_reducible exact Keeps.refl _)
    | (with_reducible assumption)
    | (with_reducible apply Keeps.after (State.spdmFinish_keeps ..))
    | (with_reducible apply KeepsX.next)
    | (dsimp only)

theorem execSpdmHeartbeat_keeps (id : BitVec 32) (s : State) : KeepsX s (execSpdmHeartbeat id s) := by
  unfold execSpdmHeartbeat
  repeat' first
    | (with_reducible exact Keeps.refl _)
    | (with_reducible assumption)
    | (with_reducible apply State.inSession_after)
    | (intro _; beta_reduce)
    | (with_reducible apply Keeps.after (State.spdmAnswer_keeps ..))
    | (with_reducible apply KeepsX.next)
    | (dsimp only)

theorem execKeyUpdate_keeps (id : BitVec 32) (s : State) : KeepsX s (execKeyUpdate id s) := by
  unfold execKeyUpdate
  repeat' first
    | (with_reducible exact Keeps.refl _)
    | (with_reducible assumption)
    | (with_reducible apply State.inSession_after)
    | (intro _; beta_reduce)
    | (with_reducible apply Keeps.after (State.modSys_keeps ..))
    | (with_reducible apply Keeps.after (State.spdmAnswer_keeps ..))
    | (with_reducible apply KeepsX.next)
    | (with_reducible apply Keeps.ite)
    | (fail_if_no_progress (with_reducible apply Keeps.mk'))
    | split
    | (dsimp only)

theorem execEndSession_keeps (id : BitVec 32) (s : State) : KeepsX s (execEndSession id s) := by
  unfold execEndSession
  repeat' first
    | (with_reducible exact Keeps.refl _)
    | (with_reducible assumption)
    | (with_reducible apply State.inSession_after)
    | (intro _; beta_reduce)
    | (with_reducible apply Keeps.after (State.modSys_keeps ..))
    | (with_reducible apply Keeps.after (State.spdmAnswer_keeps ..))
    | (with_reducible apply KeepsX.next)
    | (fail_if_no_progress (with_reducible apply Keeps.mk'))
    | (dsimp only)

theorem execDoeDiscovery_keeps (inst : Bool) (index : BitVec 8) (s : State) : KeepsX s (execDoeDiscovery inst index s) := by
  unfold execDoeDiscovery
  repeat' first
    | (with_reducible exact Keeps.refl _)
    | (with_reducible assumption)
    | (with_reducible apply Keeps.after (State.emit_keeps ..))
    | (with_reducible apply KeepsX.next)
    | (with_reducible apply Keeps.ite)
    | (fail_if_no_progress (with_reducible apply Keeps.mk'))
    | split
    | (dsimp only)

theorem execCdatRead_keeps (entry : BitVec 16) (s : State) : KeepsX s (execCdatRead entry s) := by
  unfold execCdatRead
  repeat' first
    | (with_reducible exact Keeps.refl _)
    | (with_reducible assumption)
    | (with_reducible apply Keeps.after (State.emit_keeps ..))
    | (with_reducible apply KeepsX.next)
    | (with_reducible apply Keeps.ite)
    | (fail_if_no_progress (with_reducible apply Keeps.mk'))
    | split
    | (dsimp only)

end Sys2Proof.Machine
end

