-- ==== Sys2Proof/Laws/KeepsScalarAlu.lean ====
section
/-!
SUPPORT. Sys2Proof/Laws/KeepsScalarAlu.lean: what the operations of Machine/ScalarAlu.lean keep of a state (`Keeps`).
-/
set_option linter.unusedTactic false
set_option linter.unreachableTactic false
namespace Sys2Proof.Machine

theorem State.alu_keeps (s : State) (c : CoreId) (w : Word) (key : Nat) (f : Word → Word → Word) : Keeps s (State.alu s c w key f) := by
  unfold State.alu
  repeat' first
    | (with_reducible exact Keeps.refl _)
    | (with_reducible assumption)
    | (with_reducible apply State.issue_after)
    | (intro _; beta_reduce)
    | (with_reducible apply Keeps.after (State.retire_keeps ..))
    | (dsimp only)

theorem State.branch_keeps (s : State) (c : CoreId) (w : Word) (key : Nat) (p : Word → Word → Bool) : Keeps s (State.branch s c w key p) := by
  unfold State.branch
  repeat' first
    | (with_reducible exact Keeps.refl _)
    | (with_reducible assumption)
    | (with_reducible apply State.issue_after)
    | (intro _; beta_reduce)
    | (with_reducible apply Keeps.after (State.modCore_keeps ..))
    | (with_reducible apply Keeps.after (State.bump_keeps ..))
    | (with_reducible apply Keeps.ite)
    | split
    | (dsimp only)

theorem execAdd_keeps (c : CoreId) (w : Word) (s : State) : KeepsX s (execAdd c w s) := by
  unfold execAdd
  repeat' first
    | (with_reducible exact Keeps.refl _)
    | (with_reducible assumption)
    | (with_reducible apply Keeps.after (State.alu_keeps ..))
    | (with_reducible apply KeepsX.next)
    | (dsimp only)

theorem execSub_keeps (c : CoreId) (w : Word) (s : State) : KeepsX s (execSub c w s) := by
  unfold execSub
  repeat' first
    | (with_reducible exact Keeps.refl _)
    | (with_reducible assumption)
    | (with_reducible apply Keeps.after (State.alu_keeps ..))
    | (with_reducible apply KeepsX.next)
    | (dsimp only)

theorem execAnd_keeps (c : CoreId) (w : Word) (s : State) : KeepsX s (execAnd c w s) := by
  unfold execAnd
  repeat' first
    | (with_reducible exact Keeps.refl _)
    | (with_reducible assumption)
    | (with_reducible apply Keeps.after (State.alu_keeps ..))
    | (with_reducible apply KeepsX.next)
    | (dsimp only)

theorem execOr_keeps (c : CoreId) (w : Word) (s : State) : KeepsX s (execOr c w s) := by
  unfold execOr
  repeat' first
    | (with_reducible exact Keeps.refl _)
    | (with_reducible assumption)
    | (with_reducible apply Keeps.after (State.alu_keeps ..))
    | (with_reducible apply KeepsX.next)
    | (dsimp only)

theorem execXor_keeps (c : CoreId) (w : Word) (s : State) : KeepsX s (execXor c w s) := by
  unfold execXor
  repeat' first
    | (with_reducible exact Keeps.refl _)
    | (with_reducible assumption)
    | (with_reducible apply Keeps.after (State.alu_keeps ..))
    | (with_reducible apply KeepsX.next)
    | (dsimp only)

theorem execSll_keeps (c : CoreId) (w : Word) (s : State) : KeepsX s (execSll c w s) := by
  unfold execSll
  repeat' first
    | (with_reducible exact Keeps.refl _)
    | (with_reducible assumption)
    | (with_reducible apply Keeps.after (State.alu_keeps ..))
    | (with_reducible apply KeepsX.next)
    | (dsimp only)

theorem execSrl_keeps (c : CoreId) (w : Word) (s : State) : KeepsX s (execSrl c w s) := by
  unfold execSrl
  repeat' first
    | (with_reducible exact Keeps.refl _)
    | (with_reducible assumption)
    | (with_reducible apply Keeps.after (State.alu_keeps ..))
    | (with_reducible apply KeepsX.next)
    | (dsimp only)

theorem execSra_keeps (c : CoreId) (w : Word) (s : State) : KeepsX s (execSra c w s) := by
  unfold execSra
  repeat' first
    | (with_reducible exact Keeps.refl _)
    | (with_reducible assumption)
    | (with_reducible apply Keeps.after (State.alu_keeps ..))
    | (with_reducible apply KeepsX.next)
    | (dsimp only)

theorem execSlt_keeps (c : CoreId) (w : Word) (s : State) : KeepsX s (execSlt c w s) := by
  unfold execSlt
  repeat' first
    | (with_reducible exact Keeps.refl _)
    | (with_reducible assumption)
    | (with_reducible apply Keeps.after (State.alu_keeps ..))
    | (with_reducible apply KeepsX.next)
    | (with_reducible apply Keeps.ite)
    | split
    | (dsimp only)

theorem execSltu_keeps (c : CoreId) (w : Word) (s : State) : KeepsX s (execSltu c w s) := by
  unfold execSltu
  repeat' first
    | (with_reducible exact Keeps.refl _)
    | (with_reducible assumption)
    | (with_reducible apply Keeps.after (State.alu_keeps ..))
    | (with_reducible apply KeepsX.next)
    | (with_reducible apply Keeps.ite)
    | split
    | (dsimp only)

theorem execMin_keeps (c : CoreId) (w : Word) (s : State) : KeepsX s (execMin c w s) := by
  unfold execMin
  repeat' first
    | (with_reducible exact Keeps.refl _)
    | (with_reducible assumption)
    | (with_reducible apply Keeps.after (State.alu_keeps ..))
    | (with_reducible apply KeepsX.next)
    | (with_reducible apply Keeps.ite)
    | split
    | (dsimp only)

theorem execMax_keeps (c : CoreId) (w : Word) (s : State) : KeepsX s (execMax c w s) := by
  unfold execMax
  repeat' first
    | (with_reducible exact Keeps.refl _)
    | (with_reducible assumption)
    | (with_reducible apply Keeps.after (State.alu_keeps ..))
    | (with_reducible apply KeepsX.next)
    | (with_reducible apply Keeps.ite)
    | split
    | (dsimp only)

theorem execMinu_keeps (c : CoreId) (w : Word) (s : State) : KeepsX s (execMinu c w s) := by
  unfold execMinu
  repeat' first
    | (with_reducible exact Keeps.refl _)
    | (with_reducible assumption)
    | (with_reducible apply Keeps.after (State.alu_keeps ..))
    | (with_reducible apply KeepsX.next)
    | (with_reducible apply Keeps.ite)
    | split
    | (dsimp only)

theorem execMaxu_keeps (c : CoreId) (w : Word) (s : State) : KeepsX s (execMaxu c w s) := by
  unfold execMaxu
  repeat' first
    | (with_reducible exact Keeps.refl _)
    | (with_reducible assumption)
    | (with_reducible apply Keeps.after (State.alu_keeps ..))
    | (with_reducible apply KeepsX.next)
    | (with_reducible apply Keeps.ite)
    | split
    | (dsimp only)

theorem execMul_keeps (c : CoreId) (w : Word) (s : State) : KeepsX s (execMul c w s) := by
  unfold execMul
  repeat' first
    | (with_reducible exact Keeps.refl _)
    | (with_reducible assumption)
    | (with_reducible apply Keeps.after (State.alu_keeps ..))
    | (with_reducible apply KeepsX.next)
    | (dsimp only)

theorem execMulhu_keeps (c : CoreId) (w : Word) (s : State) : KeepsX s (execMulhu c w s) := by
  unfold execMulhu
  repeat' first
    | (with_reducible exact Keeps.refl _)
    | (with_reducible assumption)
    | (with_reducible apply Keeps.after (State.alu_keeps ..))
    | (with_reducible apply KeepsX.next)
    | (dsimp only)

theorem execDivu_keeps (c : CoreId) (w : Word) (s : State) : KeepsX s (execDivu c w s) := by
  unfold execDivu
  repeat' first
    | (with_reducible exact Keeps.refl _)
    | (with_reducible assumption)
    | (with_reducible apply Keeps.after (State.alu_keeps ..))
    | (with_reducible apply KeepsX.next)
    | (with_reducible apply Keeps.ite)
    | split
    | (dsimp only)

theorem execRemu_keeps (c : CoreId) (w : Word) (s : State) : KeepsX s (execRemu c w s) := by
  unfold execRemu
  repeat' first
    | (with_reducible exact Keeps.refl _)
    | (with_reducible assumption)
    | (with_reducible apply Keeps.after (State.alu_keeps ..))
    | (with_reducible apply KeepsX.next)
    | (with_reducible apply Keeps.ite)
    | split
    | (dsimp only)

theorem execMovhi_keeps (c : CoreId) (w : Word) (s : State) : KeepsX s (execMovhi c w s) := by
  unfold execMovhi
  repeat' first
    | (with_reducible exact Keeps.refl _)
    | (with_reducible assumption)
    | (with_reducible apply Keeps.after (State.alu_keeps ..))
    | (with_reducible apply KeepsX.next)
    | (dsimp only)

theorem execBeq_keeps (c : CoreId) (w : Word) (s : State) : KeepsX s (execBeq c w s) := by
  unfold execBeq
  repeat' first
    | (with_reducible exact Keeps.refl _)
    | (with_reducible assumption)
    | (with_reducible apply Keeps.after (State.branch_keeps ..))
    | (with_reducible apply KeepsX.next)
    | (dsimp only)

theorem execBne_keeps (c : CoreId) (w : Word) (s : State) : KeepsX s (execBne c w s) := by
  unfold execBne
  repeat' first
    | (with_reducible exact Keeps.refl _)
    | (with_reducible assumption)
    | (with_reducible apply Keeps.after (State.branch_keeps ..))
    | (with_reducible apply KeepsX.next)
    | (dsimp only)

theorem execBlt_keeps (c : CoreId) (w : Word) (s : State) : KeepsX s (execBlt c w s) := by
  unfold execBlt
  repeat' first
    | (with_reducible exact Keeps.refl _)
    | (with_reducible assumption)
    | (with_reducible apply Keeps.after (State.branch_keeps ..))
    | (with_reducible apply KeepsX.next)
    | (dsimp only)

theorem execBge_keeps (c : CoreId) (w : Word) (s : State) : KeepsX s (execBge c w s) := by
  unfold execBge
  repeat' first
    | (with_reducible exact Keeps.refl _)
    | (with_reducible assumption)
    | (with_reducible apply Keeps.after (State.branch_keeps ..))
    | (with_reducible apply KeepsX.next)
    | (dsimp only)

theorem execBltu_keeps (c : CoreId) (w : Word) (s : State) : KeepsX s (execBltu c w s) := by
  unfold execBltu
  repeat' first
    | (with_reducible exact Keeps.refl _)
    | (with_reducible assumption)
    | (with_reducible apply Keeps.after (State.branch_keeps ..))
    | (with_reducible apply KeepsX.next)
    | (dsimp only)

theorem execBgeu_keeps (c : CoreId) (w : Word) (s : State) : KeepsX s (execBgeu c w s) := by
  unfold execBgeu
  repeat' first
    | (with_reducible exact Keeps.refl _)
    | (with_reducible assumption)
    | (with_reducible apply Keeps.after (State.branch_keeps ..))
    | (with_reducible apply KeepsX.next)
    | (dsimp only)

theorem execJal_keeps (c : CoreId) (w : Word) (s : State) : KeepsX s (execJal c w s) := by
  unfold execJal
  repeat' first
    | (with_reducible exact Keeps.refl _)
    | (with_reducible assumption)
    | (with_reducible apply State.issue_after)
    | (intro _; beta_reduce)
    | (with_reducible apply Keeps.after (State.modCore_keeps ..))
    | (with_reducible apply Keeps.after (State.bump_keeps ..))
    | (with_reducible apply KeepsX.next)
    | (dsimp only)

theorem execJalr_keeps (c : CoreId) (w : Word) (s : State) : KeepsX s (execJalr c w s) := by
  unfold execJalr
  repeat' first
    | (with_reducible exact Keeps.refl _)
    | (with_reducible assumption)
    | (with_reducible apply State.issue_after)
    | (intro _; beta_reduce)
    | (with_reducible apply Keeps.after (State.modCore_keeps ..))
    | (with_reducible apply Keeps.after (State.bump_keeps ..))
    | (with_reducible apply KeepsX.next)
    | ((fail_if_no_progress extract_lets +onlyGivenNames x); first | (refine KeepsX.cut x ?_ ?_; (on_goal 1 => unfold x); (on_goal 2 => (intro hx; clear_value x))) | (refine Keeps.cut x ?_ ?_; (on_goal 1 => unfold x); (on_goal 2 => (intro hx; clear_value x))) | clear_value x)
    | (dsimp only)

end Sys2Proof.Machine
end

