-- ==== Sys2Proof/Laws/KeepsLoadStore.lean ====
section
/-!
SUPPORT. Sys2Proof/Laws/KeepsLoadStore.lean: what the operations of Machine/LoadStore.lean keep of a state (`Keeps`).
-/
set_option linter.unusedTactic false
set_option linter.unreachableTactic false
namespace Sys2Proof.Machine

theorem State.scalarLs_keeps (s : State) (c : CoreId) (w : Word) (key : Nat) : Keeps s (State.scalarLs s c w key) := by
  unfold State.scalarLs
  repeat' first
    | (with_reducible exact Keeps.refl _)
    | (with_reducible assumption)
    | (with_reducible apply State.issue_after)
    | (intro _; beta_reduce)
    | (with_reducible apply Keeps.after (State.alignClamp_keeps ..))
    | (with_reducible apply Keeps.after (State.enqueue_keeps ..))
    | (with_reducible apply Keeps.after (State.pump_keeps ..))
    | ((fail_if_no_progress extract_lets +onlyGivenNames x); first | (refine Keeps.cut x ?_ ?_; (on_goal 1 => unfold x); (on_goal 2 => (intro hx; clear_value x))) | clear_value x)
    | (with_reducible apply Keeps.ite)
    | split
    | (dsimp only)

theorem State.tileLs_keeps (s : State) (c : CoreId) (w : Word) (key : Nat) : Keeps s (State.tileLs s c w key) := by
  unfold State.tileLs
  repeat' first
    | (with_reducible exact Keeps.refl _)
    | (with_reducible assumption)
    | (with_reducible apply State.issue_after)
    | (intro _; beta_reduce)
    | (with_reducible apply Keeps.after (State.alignClamp_keeps ..))
    | (with_reducible apply Keeps.after (State.shapeClamp_keeps ..))
    | (with_reducible apply Keeps.after (State.retire_keeps ..))
    | (with_reducible apply Keeps.after (State.bump_keeps ..))
    | (with_reducible apply Keeps.after (State.enqueue_keeps ..))
    | (with_reducible apply Keeps.after (State.pump_keeps ..))
    | (with_reducible apply KeepsO.getD)
    | ((fail_if_no_progress extract_lets +onlyGivenNames x); first | (refine Keeps.cut x ?_ ?_; (on_goal 1 => unfold x); (on_goal 2 => (intro hx; clear_value x))) | clear_value x)
    | (with_reducible apply Keeps.ite)
    | split
    | (dsimp only)

theorem State.tileEnd_keeps (s : State) (c : CoreId) (t : BitVec 5) (store : Bool) : Keeps s (State.tileEnd s c t store) := by
  unfold State.tileEnd
  repeat' first
    | (with_reducible exact Keeps.refl _)
    | (with_reducible assumption)
    | (with_reducible apply Keeps.after (State.complete_keeps ..))
    | (with_reducible apply Keeps.after (State.bump_keeps ..))
    | (with_reducible apply Keeps.after (State.completeLs_keeps ..))
    | (with_reducible apply Keeps.after (State.pump_keeps ..))
    | (with_reducible apply Keeps.after (State.modCore_keeps ..))
    | (with_reducible apply Keeps.after (State.predictionCheck_keeps ..))
    | ((fail_if_no_progress extract_lets +onlyGivenNames x); first | (refine Keeps.cut x ?_ ?_; (on_goal 1 => unfold x); (on_goal 2 => (intro hx; clear_value x))) | clear_value x)
    | (with_reducible apply Keeps.ite)
    | (fail_if_no_progress (with_reducible apply Keeps.mk'))
    | split
    | (dsimp only)

theorem execLd8u_keeps (c : CoreId) (w : Word) (s : State) : KeepsX s (execLd8u c w s) := by
  unfold execLd8u
  repeat' first
    | (with_reducible exact Keeps.refl _)
    | (with_reducible assumption)
    | (with_reducible apply Keeps.after (State.scalarLs_keeps ..))
    | (with_reducible apply KeepsX.next)
    | (dsimp only)

theorem execLd16u_keeps (c : CoreId) (w : Word) (s : State) : KeepsX s (execLd16u c w s) := by
  unfold execLd16u
  repeat' first
    | (with_reducible exact Keeps.refl _)
    | (with_reducible assumption)
    | (with_reducible apply Keeps.after (State.scalarLs_keeps ..))
    | (with_reducible apply KeepsX.next)
    | (dsimp only)

theorem execLd32u_keeps (c : CoreId) (w : Word) (s : State) : KeepsX s (execLd32u c w s) := by
  unfold execLd32u
  repeat' first
    | (with_reducible exact Keeps.refl _)
    | (with_reducible assumption)
    | (with_reducible apply Keeps.after (State.scalarLs_keeps ..))
    | (with_reducible apply KeepsX.next)
    | (dsimp only)

theorem execLd64_keeps (c : CoreId) (w : Word) (s : State) : KeepsX s (execLd64 c w s) := by
  unfold execLd64
  repeat' first
    | (with_reducible exact Keeps.refl _)
    | (with_reducible assumption)
    | (with_reducible apply Keeps.after (State.scalarLs_keeps ..))
    | (with_reducible apply KeepsX.next)
    | (dsimp only)

theorem execLd8s_keeps (c : CoreId) (w : Word) (s : State) : KeepsX s (execLd8s c w s) := by
  unfold execLd8s
  repeat' first
    | (with_reducible exact Keeps.refl _)
    | (with_reducible assumption)
    | (with_reducible apply Keeps.after (State.scalarLs_keeps ..))
    | (with_reducible apply KeepsX.next)
    | (dsimp only)

theorem execLd16s_keeps (c : CoreId) (w : Word) (s : State) : KeepsX s (execLd16s c w s) := by
  unfold execLd16s
  repeat' first
    | (with_reducible exact Keeps.refl _)
    | (with_reducible assumption)
    | (with_reducible apply Keeps.after (State.scalarLs_keeps ..))
    | (with_reducible apply KeepsX.next)
    | (dsimp only)

theorem execLd32s_keeps (c : CoreId) (w : Word) (s : State) : KeepsX s (execLd32s c w s) := by
  unfold execLd32s
  repeat' first
    | (with_reducible exact Keeps.refl _)
    | (with_reducible assumption)
    | (with_reducible apply Keeps.after (State.scalarLs_keeps ..))
    | (with_reducible apply KeepsX.next)
    | (dsimp only)

theorem execSt8_keeps (c : CoreId) (w : Word) (s : State) : KeepsX s (execSt8 c w s) := by
  unfold execSt8
  repeat' first
    | (with_reducible exact Keeps.refl _)
    | (with_reducible assumption)
    | (with_reducible apply Keeps.after (State.scalarLs_keeps ..))
    | (with_reducible apply KeepsX.next)
    | (dsimp only)

theorem execSt16_keeps (c : CoreId) (w : Word) (s : State) : KeepsX s (execSt16 c w s) := by
  unfold execSt16
  repeat' first
    | (with_reducible exact Keeps.refl _)
    | (with_reducible assumption)
    | (with_reducible apply Keeps.after (State.scalarLs_keeps ..))
    | (with_reducible apply KeepsX.next)
    | (dsimp only)

theorem execSt32_keeps (c : CoreId) (w : Word) (s : State) : KeepsX s (execSt32 c w s) := by
  unfold execSt32
  repeat' first
    | (with_reducible exact Keeps.refl _)
    | (with_reducible assumption)
    | (with_reducible apply Keeps.after (State.scalarLs_keeps ..))
    | (with_reducible apply KeepsX.next)
    | (dsimp only)

theorem execSt64_keeps (c : CoreId) (w : Word) (s : State) : KeepsX s (execSt64 c w s) := by
  unfold execSt64
  repeat' first
    | (with_reducible exact Keeps.refl _)
    | (with_reducible assumption)
    | (with_reducible apply Keeps.after (State.scalarLs_keeps ..))
    | (with_reducible apply KeepsX.next)
    | (dsimp only)

theorem execTld_keeps (c : CoreId) (w : Word) (s : State) : KeepsX s (execTld c w s) := by
  unfold execTld
  repeat' first
    | (with_reducible exact Keeps.refl _)
    | (with_reducible assumption)
    | (with_reducible apply Keeps.after (State.tileLs_keeps ..))
    | (with_reducible apply KeepsX.next)
    | (dsimp only)

theorem execTldt_keeps (c : CoreId) (w : Word) (s : State) : KeepsX s (execTldt c w s) := by
  unfold execTldt
  repeat' first
    | (with_reducible exact Keeps.refl _)
    | (with_reducible assumption)
    | (with_reducible apply Keeps.after (State.tileLs_keeps ..))
    | (with_reducible apply KeepsX.next)
    | (dsimp only)

theorem execTst_keeps (c : CoreId) (w : Word) (s : State) : KeepsX s (execTst c w s) := by
  unfold execTst
  repeat' first
    | (with_reducible exact Keeps.refl _)
    | (with_reducible assumption)
    | (with_reducible apply Keeps.after (State.tileLs_keeps ..))
    | (with_reducible apply KeepsX.next)
    | (dsimp only)

theorem execTileLoadComplete_keeps (c : CoreId) (t : BitVec 5) (s : State) : KeepsX s (execTileLoadComplete c t s) := by
  unfold execTileLoadComplete
  repeat' first
    | (with_reducible exact Keeps.refl _)
    | (with_reducible assumption)
    | (with_reducible apply Keeps.after (State.tileEnd_keeps ..))
    | (with_reducible apply KeepsX.next)
    | (dsimp only)

theorem execTileStoreComplete_keeps (c : CoreId) (t : BitVec 5) (s : State) : KeepsX s (execTileStoreComplete c t s) := by
  unfold execTileStoreComplete
  repeat' first
    | (with_reducible exact Keeps.refl _)
    | (with_reducible assumption)
    | (with_reducible apply Keeps.after (State.tileEnd_keeps ..))
    | (with_reducible apply KeepsX.next)
    | (dsimp only)

end Sys2Proof.Machine
end

