-- ==== Sys2Proof/Laws/KeepsMatrix.lean ====
section
/-!
SUPPORT. Sys2Proof/Laws/KeepsMatrix.lean: what the operations of Machine/Matrix.lean keep of a state (`Keeps`).
-/
set_option linter.unusedTactic false
set_option linter.unreachableTactic false
namespace Sys2Proof.Machine

theorem State.arrIssue_keeps (s : State) (c : CoreId) (w : Word) (key : Nat) : Keeps s (State.arrIssue s c w key) := by
  unfold State.arrIssue
  repeat' first
    | (with_reducible exact Keeps.refl _)
    | (with_reducible assumption)
    | (with_reducible apply State.issue_after)
    | (intro _; beta_reduce)
    | (with_reducible apply Keeps.after (State.enqueue_keeps ..))
    | (with_reducible apply Keeps.after (State.pump_keeps ..))
    | (dsimp only)

theorem execMmul_keeps (c : CoreId) (w : Word) (s : State) : KeepsX s (execMmul c w s) := by
  unfold execMmul
  repeat' first
    | (with_reducible exact Keeps.refl _)
    | (with_reducible assumption)
    | (with_reducible apply Keeps.after (State.arrIssue_keeps ..))
    | (with_reducible apply KeepsX.next)
    | (dsimp only)

theorem execMmac_keeps (c : CoreId) (w : Word) (s : State) : KeepsX s (execMmac c w s) := by
  unfold execMmac
  repeat' first
    | (with_reducible exact Keeps.refl _)
    | (with_reducible assumption)
    | (with_reducible apply Keeps.after (State.arrIssue_keeps ..))
    | (with_reducible apply KeepsX.next)
    | (dsimp only)

theorem execSload_keeps (c : CoreId) (w : Word) (s : State) : KeepsX s (execSload c w s) := by
  unfold execSload
  repeat' first
    | (with_reducible exact Keeps.refl _)
    | (with_reducible assumption)
    | (with_reducible apply Keeps.after (State.arrIssue_keeps ..))
    | (with_reducible apply KeepsX.next)
    | (dsimp only)

theorem execSwap_keeps (c : CoreId) (w : Word) (s : State) : KeepsX s (execSwap c w s) := by
  unfold execSwap
  repeat' first
    | (with_reducible exact Keeps.refl _)
    | (with_reducible assumption)
    | (with_reducible apply Keeps.after (State.arrIssue_keeps ..))
    | (with_reducible apply KeepsX.next)
    | (dsimp only)

theorem execForm_keeps (c : CoreId) (w : Word) (s : State) : KeepsX s (execForm c w s) := by
  unfold execForm
  repeat' first
    | (with_reducible exact Keeps.refl _)
    | (with_reducible assumption)
    | (with_reducible apply Keeps.after (State.arrIssue_keeps ..))
    | (with_reducible apply KeepsX.next)
    | (dsimp only)

theorem execMtxWritePhase_keeps (c : CoreId) (a : BitVec 2) (s : State) : KeepsX s (execMtxWritePhase c a s) := by
  unfold execMtxWritePhase
  repeat' first
    | (with_reducible exact Keeps.refl _)
    | (with_reducible assumption)
    | (with_reducible apply Keeps.after (State.mtxWrite_keeps ..))
    | (with_reducible apply Keeps.after (State.pump_keeps ..))
    | (with_reducible apply KeepsX.next)
    | ((fail_if_no_progress extract_lets +onlyGivenNames x); first | (refine KeepsX.cut x ?_ ?_; (on_goal 1 => unfold x); (on_goal 2 => (intro hx; clear_value x))) | (refine Keeps.cut x ?_ ?_; (on_goal 1 => unfold x); (on_goal 2 => (intro hx; clear_value x))) | clear_value x)
    | (with_reducible apply Keeps.ite)
    | (fail_if_no_progress (with_reducible apply Keeps.mk'))
    | split
    | (dsimp only)

theorem execShadowLoadDone_keeps (c : CoreId) (a : BitVec 2) (s : State) : KeepsX s (execShadowLoadDone c a s) := by
  unfold execShadowLoadDone
  repeat' first
    | (with_reducible exact Keeps.refl _)
    | (with_reducible assumption)
    | (with_reducible apply Keeps.after (State.modCore_keeps ..))
    | (with_reducible apply Keeps.after (State.complete_keeps ..))
    | (with_reducible apply Keeps.after (State.pump_keeps ..))
    | (with_reducible apply KeepsX.next)
    | (with_reducible apply Keeps.ite)
    | (fail_if_no_progress (with_reducible apply Keeps.mk'))
    | split
    | (dsimp only)

theorem execSwapTakesEffect_keeps (c : CoreId) (a : BitVec 2) (s : State) : KeepsX s (execSwapTakesEffect c a s) := by
  unfold execSwapTakesEffect
  repeat' first
    | (with_reducible exact Keeps.refl _)
    | (with_reducible assumption)
    | (with_reducible apply Keeps.after (State.modCore_keeps ..))
    | (with_reducible apply Keeps.after (State.complete_keeps ..))
    | (with_reducible apply Keeps.after (State.pump_keeps ..))
    | (with_reducible apply KeepsX.next)
    | (with_reducible apply Keeps.ite)
    | (fail_if_no_progress (with_reducible apply Keeps.mk'))
    | split
    | (dsimp only)

theorem execFormSwitchDone_keeps (c : CoreId) (a : BitVec 2) (s : State) : KeepsX s (execFormSwitchDone c a s) := by
  unfold execFormSwitchDone
  repeat' first
    | (with_reducible exact Keeps.refl _)
    | (with_reducible assumption)
    | (with_reducible apply Keeps.after (State.modCore_keeps ..))
    | (with_reducible apply Keeps.after (State.bump_keeps ..))
    | (with_reducible apply Keeps.after (State.complete_keeps ..))
    | (with_reducible apply Keeps.after (State.pump_keeps ..))
    | (with_reducible apply KeepsX.next)
    | (with_reducible apply Keeps.ite)
    | (fail_if_no_progress (with_reducible apply Keeps.mk'))
    | split
    | (dsimp only)

end Sys2Proof.Machine
end

