-- ==== Sys2Proof/Laws/KeepsVector.lean ====
section
/-!
SUPPORT. Sys2Proof/Laws/KeepsVector.lean: what the operations of Machine/Vector.lean keep of a state (`Keeps`).
-/
set_option linter.unusedTactic false
set_option linter.unreachableTactic false
namespace Sys2Proof.Machine

theorem State.vecIssue_keeps (s : State) (c : CoreId) (w : Word) (key : Nat) : Keeps s (State.vecIssue s c w key) := by
  unfold State.vecIssue
  repeat' first
    | (with_reducible exact Keeps.refl _)
    | (with_reducible assumption)
    | (with_reducible apply State.issue_after)
    | (intro _; beta_reduce)
    | (with_reducible apply Keeps.after (State.enqueue_keeps ..))
    | ((fail_if_no_progress extract_lets +onlyGivenNames x); first | (refine Keeps.cut x ?_ ?_; (on_goal 1 => unfold x); (on_goal 2 => (intro hx; clear_value x))) | clear_value x)
    | (dsimp only)

theorem State.gIssue_keeps (s : State) (c : CoreId) (w : Word) (key g : Nat) : Keeps s (State.gIssue s c w key g) := by
  unfold State.gIssue
  repeat' first
    | (with_reducible exact Keeps.refl _)
    | (with_reducible assumption)
    | (with_reducible apply State.issue_after)
    | (intro _; beta_reduce)
    | (with_reducible apply Keeps.after (State.enqueue_keeps ..))
    | (dsimp only)

theorem execVecAdd_keeps (c : CoreId) (w : Word) (s : State) : KeepsX s (execVecAdd c w s) := by
  unfold execVecAdd
  repeat' first
    | (with_reducible exact Keeps.refl _)
    | (with_reducible assumption)
    | (with_reducible apply Keeps.after (State.vecIssue_keeps ..))
    | (with_reducible apply KeepsX.next)
    | (dsimp only)

theorem execVecSub_keeps (c : CoreId) (w : Word) (s : State) : KeepsX s (execVecSub c w s) := by
  unfold execVecSub
  repeat' first
    | (with_reducible exact Keeps.refl _)
    | (with_reducible assumption)
    | (with_reducible apply Keeps.after (State.vecIssue_keeps ..))
    | (with_reducible apply KeepsX.next)
    | (dsimp only)

theorem execVecMul_keeps (c : CoreId) (w : Word) (s : State) : KeepsX s (execVecMul c w s) := by
  unfold execVecMul
  repeat' first
    | (with_reducible exact Keeps.refl _)
    | (with_reducible assumption)
    | (with_reducible apply Keeps.after (State.vecIssue_keeps ..))
    | (with_reducible apply KeepsX.next)
    | (dsimp only)

theorem execFma_keeps (c : CoreId) (w : Word) (s : State) : KeepsX s (execFma c w s) := by
  unfold execFma
  repeat' first
    | (with_reducible exact Keeps.refl _)
    | (with_reducible assumption)
    | (with_reducible apply Keeps.after (State.vecIssue_keeps ..))
    | (with_reducible apply KeepsX.next)
    | (dsimp only)

theorem execFms_keeps (c : CoreId) (w : Word) (s : State) : KeepsX s (execFms c w s) := by
  unfold execFms
  repeat' first
    | (with_reducible exact Keeps.refl _)
    | (with_reducible assumption)
    | (with_reducible apply Keeps.after (State.vecIssue_keeps ..))
    | (with_reducible apply KeepsX.next)
    | (dsimp only)

theorem execFnma_keeps (c : CoreId) (w : Word) (s : State) : KeepsX s (execFnma c w s) := by
  unfold execFnma
  repeat' first
    | (with_reducible exact Keeps.refl _)
    | (with_reducible assumption)
    | (with_reducible apply Keeps.after (State.vecIssue_keeps ..))
    | (with_reducible apply KeepsX.next)
    | (dsimp only)

theorem execVecMin_keeps (c : CoreId) (w : Word) (s : State) : KeepsX s (execVecMin c w s) := by
  unfold execVecMin
  repeat' first
    | (with_reducible exact Keeps.refl _)
    | (with_reducible assumption)
    | (with_reducible apply Keeps.after (State.vecIssue_keeps ..))
    | (with_reducible apply KeepsX.next)
    | (dsimp only)

theorem execVecMax_keeps (c : CoreId) (w : Word) (s : State) : KeepsX s (execVecMax c w s) := by
  unfold execVecMax
  repeat' first
    | (with_reducible exact Keeps.refl _)
    | (with_reducible assumption)
    | (with_reducible apply Keeps.after (State.vecIssue_keeps ..))
    | (with_reducible apply KeepsX.next)
    | (dsimp only)

theorem execCmp_keeps (c : CoreId) (w : Word) (s : State) : KeepsX s (execCmp c w s) := by
  unfold execCmp
  repeat' first
    | (with_reducible exact Keeps.refl _)
    | (with_reducible assumption)
    | (with_reducible apply Keeps.after (State.vecIssue_keeps ..))
    | (with_reducible apply KeepsX.next)
    | (dsimp only)

theorem execSel_keeps (c : CoreId) (w : Word) (s : State) : KeepsX s (execSel c w s) := by
  unfold execSel
  repeat' first
    | (with_reducible exact Keeps.refl _)
    | (with_reducible assumption)
    | (with_reducible apply Keeps.after (State.vecIssue_keeps ..))
    | (with_reducible apply KeepsX.next)
    | (dsimp only)

theorem execMov_keeps (c : CoreId) (w : Word) (s : State) : KeepsX s (execMov c w s) := by
  unfold execMov
  repeat' first
    | (with_reducible exact Keeps.refl _)
    | (with_reducible assumption)
    | (with_reducible apply Keeps.after (State.vecIssue_keeps ..))
    | (with_reducible apply KeepsX.next)
    | (dsimp only)

theorem execAbs_keeps (c : CoreId) (w : Word) (s : State) : KeepsX s (execAbs c w s) := by
  unfold execAbs
  repeat' first
    | (with_reducible exact Keeps.refl _)
    | (with_reducible assumption)
    | (with_reducible apply Keeps.after (State.vecIssue_keeps ..))
    | (with_reducible apply KeepsX.next)
    | (dsimp only)

theorem execNeg_keeps (c : CoreId) (w : Word) (s : State) : KeepsX s (execNeg c w s) := by
  unfold execNeg
  repeat' first
    | (with_reducible exact Keeps.refl _)
    | (with_reducible assumption)
    | (with_reducible apply Keeps.after (State.vecIssue_keeps ..))
    | (with_reducible apply KeepsX.next)
    | (dsimp only)

theorem execRcp_keeps (c : CoreId) (w : Word) (s : State) : KeepsX s (execRcp c w s) := by
  unfold execRcp
  repeat' first
    | (with_reducible exact Keeps.refl _)
    | (with_reducible assumption)
    | (with_reducible apply Keeps.after (State.vecIssue_keeps ..))
    | (with_reducible apply KeepsX.next)
    | (dsimp only)

theorem execRsq_keeps (c : CoreId) (w : Word) (s : State) : KeepsX s (execRsq c w s) := by
  unfold execRsq
  repeat' first
    | (with_reducible exact Keeps.refl _)
    | (with_reducible assumption)
    | (with_reducible apply Keeps.after (State.vecIssue_keeps ..))
    | (with_reducible apply KeepsX.next)
    | (dsimp only)

theorem execSqrt_keeps (c : CoreId) (w : Word) (s : State) : KeepsX s (execSqrt c w s) := by
  unfold execSqrt
  repeat' first
    | (with_reducible exact Keeps.refl _)
    | (with_reducible assumption)
    | (with_reducible apply Keeps.after (State.vecIssue_keeps ..))
    | (with_reducible apply KeepsX.next)
    | (dsimp only)

theorem execExp2_keeps (c : CoreId) (w : Word) (s : State) : KeepsX s (execExp2 c w s) := by
  unfold execExp2
  repeat' first
    | (with_reducible exact Keeps.refl _)
    | (with_reducible assumption)
    | (with_reducible apply Keeps.after (State.vecIssue_keeps ..))
    | (with_reducible apply KeepsX.next)
    | (dsimp only)

theorem execLog2_keeps (c : CoreId) (w : Word) (s : State) : KeepsX s (execLog2 c w s) := by
  unfold execLog2
  repeat' first
    | (with_reducible exact Keeps.refl _)
    | (with_reducible assumption)
    | (with_reducible apply Keeps.after (State.vecIssue_keeps ..))
    | (with_reducible apply KeepsX.next)
    | (dsimp only)

theorem execRedr_keeps (c : CoreId) (w : Word) (s : State) : KeepsX s (execRedr c w s) := by
  unfold execRedr
  repeat' first
    | (with_reducible exact Keeps.refl _)
    | (with_reducible assumption)
    | (with_reducible apply Keeps.after (State.gIssue_keeps ..))
    | (with_reducible apply KeepsX.next)
    | (dsimp only)

theorem execRedc_keeps (c : CoreId) (w : Word) (s : State) : KeepsX s (execRedc c w s) := by
  unfold execRedc
  repeat' first
    | (with_reducible exact Keeps.refl _)
    | (with_reducible assumption)
    | (with_reducible apply Keeps.after (State.gIssue_keeps ..))
    | (with_reducible apply KeepsX.next)
    | (dsimp only)

theorem execReda_keeps (c : CoreId) (w : Word) (s : State) : KeepsX s (execReda c w s) := by
  unfold execReda
  repeat' first
    | (with_reducible exact Keeps.refl _)
    | (with_reducible assumption)
    | (with_reducible apply Keeps.after (State.gIssue_keeps ..))
    | (with_reducible apply KeepsX.next)
    | (dsimp only)

theorem execMand_keeps (c : CoreId) (w : Word) (s : State) : KeepsX s (execMand c w s) := by
  unfold execMand
  repeat' first
    | (with_reducible exact Keeps.refl _)
    | (with_reducible assumption)
    | (with_reducible apply Keeps.after (State.gIssue_keeps ..))
    | (with_reducible apply KeepsX.next)
    | (dsimp only)

theorem execMor_keeps (c : CoreId) (w : Word) (s : State) : KeepsX s (execMor c w s) := by
  unfold execMor
  repeat' first
    | (with_reducible exact Keeps.refl _)
    | (with_reducible assumption)
    | (with_reducible apply Keeps.after (State.gIssue_keeps ..))
    | (with_reducible apply KeepsX.next)
    | (dsimp only)

theorem execMxor_keeps (c : CoreId) (w : Word) (s : State) : KeepsX s (execMxor c w s) := by
  unfold execMxor
  repeat' first
    | (with_reducible exact Keeps.refl _)
    | (with_reducible assumption)
    | (with_reducible apply Keeps.after (State.gIssue_keeps ..))
    | (with_reducible apply KeepsX.next)
    | (dsimp only)

theorem execMandn_keeps (c : CoreId) (w : Word) (s : State) : KeepsX s (execMandn c w s) := by
  unfold execMandn
  repeat' first
    | (with_reducible exact Keeps.refl _)
    | (with_reducible assumption)
    | (with_reducible apply Keeps.after (State.gIssue_keeps ..))
    | (with_reducible apply KeepsX.next)
    | (dsimp only)

theorem execMnot_keeps (c : CoreId) (w : Word) (s : State) : KeepsX s (execMnot c w s) := by
  unfold execMnot
  repeat' first
    | (with_reducible exact Keeps.refl _)
    | (with_reducible assumption)
    | (with_reducible apply Keeps.after (State.gIssue_keeps ..))
    | (with_reducible apply KeepsX.next)
    | (dsimp only)

theorem execMset_keeps (c : CoreId) (w : Word) (s : State) : KeepsX s (execMset c w s) := by
  unfold execMset
  repeat' first
    | (with_reducible exact Keeps.refl _)
    | (with_reducible assumption)
    | (with_reducible apply Keeps.after (State.gIssue_keeps ..))
    | (with_reducible apply KeepsX.next)
    | (dsimp only)

theorem execMpop_keeps (c : CoreId) (w : Word) (s : State) : KeepsX s (execMpop c w s) := by
  unfold execMpop
  repeat' first
    | (with_reducible exact Keeps.refl _)
    | (with_reducible assumption)
    | (with_reducible apply Keeps.after (State.gIssue_keeps ..))
    | (with_reducible apply KeepsX.next)
    | (dsimp only)

theorem execMfirst_keeps (c : CoreId) (w : Word) (s : State) : KeepsX s (execMfirst c w s) := by
  unfold execMfirst
  repeat' first
    | (with_reducible exact Keeps.refl _)
    | (with_reducible assumption)
    | (with_reducible apply Keeps.after (State.gIssue_keeps ..))
    | (with_reducible apply KeepsX.next)
    | (dsimp only)

theorem execCvt_keeps (c : CoreId) (w : Word) (s : State) : KeepsX s (execCvt c w s) := by
  unfold execCvt
  repeat' first
    | (with_reducible exact Keeps.refl _)
    | (with_reducible assumption)
    | (with_reducible apply Keeps.after (State.gIssue_keeps ..))
    | (with_reducible apply KeepsX.next)
    | (dsimp only)

theorem execCvtmx_keeps (c : CoreId) (w : Word) (s : State) : KeepsX s (execCvtmx c w s) := by
  unfold execCvtmx
  repeat' first
    | (with_reducible exact Keeps.refl _)
    | (with_reducible assumption)
    | (with_reducible apply Keeps.after (State.gIssue_keeps ..))
    | (with_reducible apply KeepsX.next)
    | (dsimp only)

theorem execScld_keeps (c : CoreId) (w : Word) (s : State) : KeepsX s (execScld c w s) := by
  unfold execScld
  repeat' first
    | (with_reducible exact Keeps.refl _)
    | (with_reducible assumption)
    | (with_reducible apply Keeps.after (State.gIssue_keeps ..))
    | (with_reducible apply KeepsX.next)
    | (dsimp only)

theorem execScst_keeps (c : CoreId) (w : Word) (s : State) : KeepsX s (execScst c w s) := by
  unfold execScst
  repeat' first
    | (with_reducible exact Keeps.refl _)
    | (with_reducible assumption)
    | (with_reducible apply Keeps.after (State.gIssue_keeps ..))
    | (with_reducible apply KeepsX.next)
    | (dsimp only)

theorem execScset_keeps (c : CoreId) (w : Word) (s : State) : KeepsX s (execScset c w s) := by
  unfold execScset
  repeat' first
    | (with_reducible exact Keeps.refl _)
    | (with_reducible assumption)
    | (with_reducible apply Keeps.after (State.gIssue_keeps ..))
    | (with_reducible apply KeepsX.next)
    | (dsimp only)

theorem execVecInsnComplete_keeps (c : CoreId) (s : State) : KeepsX s (execVecInsnComplete c s) := by
  unfold execVecInsnComplete
  repeat' first
    | (with_reducible exact Keeps.refl _)
    | (with_reducible assumption)
    | (with_reducible apply Keeps.after (State.vecFinish_keeps ..))
    | (with_reducible apply Keeps.after (State.pump_keeps ..))
    | (with_reducible apply KeepsX.next)
    | (with_reducible apply Keeps.ite)
    | (fail_if_no_progress (with_reducible apply Keeps.mk'))
    | split
    | (dsimp only)

end Sys2Proof.Machine
end

