-- ==== Sys2Proof/Laws/KeepsCoreCtl.lean ====
section
/-!
SUPPORT. Sys2Proof/Laws/KeepsCoreCtl.lean: what the operations of Machine/CoreCtl.lean keep of a state (`Keeps`).
-/
set_option linter.unusedTactic false
set_option linter.unreachableTactic false
namespace Sys2Proof.Machine

theorem execDmaq_keeps (c : CoreId) (w : Word) (s : State) : KeepsX s (execDmaq c w s) := by
  unfold execDmaq
  repeat' first
    | (with_reducible exact Keeps.refl _)
    | (with_reducible assumption)
    | (with_reducible apply State.issue_after)
    | (intro _; beta_reduce)
    | (with_reducible apply Keeps.after (State.alignClamp_keeps ..))
    | (with_reducible apply Keeps.after (State.enqueue_keeps ..))
    | (with_reducible apply Keeps.after (State.pump_keeps ..))
    | (with_reducible apply KeepsX.next)
    | ((fail_if_no_progress extract_lets +onlyGivenNames x); first | (refine KeepsX.cut x ?_ ?_; (on_goal 1 => unfold x); (on_goal 2 => (intro hx; clear_value x))) | (refine Keeps.cut x ?_ ?_; (on_goal 1 => unfold x); (on_goal 2 => (intro hx; clear_value x))) | clear_value x)
    | (with_reducible apply Keeps.ite)
    | split
    | (dsimp only)

theorem execDmast_keeps (c : CoreId) (w : Word) (s : State) : KeepsX s (execDmast c w s) := by
  unfold execDmast
  repeat' first
    | (with_reducible exact Keeps.refl _)
    | (with_reducible assumption)
    | (with_reducible apply State.issue_after)
    | (intro _; beta_reduce)
    | (with_reducible apply Keeps.after (State.enqueue_keeps ..))
    | (with_reducible apply Keeps.after (State.pump_keeps ..))
    | (with_reducible apply KeepsX.next)
    | (dsimp only)

theorem State.syncIssue_keeps (s : State) (c : CoreId) (w : Word) (key : Nat) (wait : Option CoreWait) : Keeps s (State.syncIssue s c w key wait) := by
  unfold State.syncIssue
  repeat' first
    | (with_reducible exact Keeps.refl _)
    | (with_reducible assumption)
    | (with_reducible apply State.issue_after)
    | (intro _; beta_reduce)
    | (with_reducible apply Keeps.after (State.enqueue_keeps ..))
    | (with_reducible apply Keeps.after (State.modCore_keeps ..))
    | (with_reducible apply Keeps.after (State.pump_keeps ..))
    | ((fail_if_no_progress extract_lets +onlyGivenNames x); first | (refine Keeps.cut x ?_ ?_; (on_goal 1 => unfold x); (on_goal 2 => (intro hx; clear_value x))) | clear_value x)
    | (fail_if_no_progress (with_reducible apply Keeps.mk'))
    | (dsimp only)

theorem execSadv_keeps (c : CoreId) (w : Word) (s : State) : KeepsX s (execSadv c w s) := by
  unfold execSadv
  repeat' first
    | (with_reducible exact Keeps.refl _)
    | (with_reducible assumption)
    | (with_reducible apply Keeps.after (State.syncIssue_keeps ..))
    | (with_reducible apply KeepsX.next)
    | (dsimp only)

theorem execSread_keeps (c : CoreId) (w : Word) (s : State) : KeepsX s (execSread c w s) := by
  unfold execSread
  repeat' first
    | (with_reducible exact Keeps.refl _)
    | (with_reducible assumption)
    | (with_reducible apply Keeps.after (State.syncIssue_keeps ..))
    | (with_reducible apply KeepsX.next)
    | (dsimp only)

theorem execSwatch_keeps (c : CoreId) (w : Word) (s : State) : KeepsX s (execSwatch c w s) := by
  unfold execSwatch
  repeat' first
    | (with_reducible exact Keeps.refl _)
    | (with_reducible assumption)
    | (with_reducible apply Keeps.after (State.syncIssue_keeps ..))
    | (with_reducible apply KeepsX.next)
    | (dsimp only)

theorem execScancel_keeps (c : CoreId) (w : Word) (s : State) : KeepsX s (execScancel c w s) := by
  unfold execScancel
  repeat' first
    | (with_reducible exact Keeps.refl _)
    | (with_reducible assumption)
    | (with_reducible apply Keeps.after (State.syncIssue_keeps ..))
    | (with_reducible apply KeepsX.next)
    | (dsimp only)

theorem execSwait_keeps (c : CoreId) (w : Word) (s : State) : KeepsX s (execSwait c w s) := by
  unfold execSwait
  repeat' first
    | (with_reducible exact Keeps.refl _)
    | (with_reducible assumption)
    | (with_reducible apply Keeps.after (State.syncIssue_keeps ..))
    | (with_reducible apply KeepsX.next)
    | (dsimp only)

theorem execSfired_keeps (c : CoreId) (w : Word) (s : State) : KeepsX s (execSfired c w s) := by
  unfold execSfired
  repeat' first
    | (with_reducible exact Keeps.refl _)
    | (with_reducible assumption)
    | (with_reducible apply Keeps.after (State.syncIssue_keeps ..))
    | (with_reducible apply KeepsX.next)
    | (dsimp only)

theorem execBarr_keeps (c : CoreId) (w : Word) (s : State) : KeepsX s (execBarr c w s) := by
  unfold execBarr
  repeat' first
    | (with_reducible exact Keeps.refl _)
    | (with_reducible assumption)
    | (with_reducible apply Keeps.after (State.syncIssue_keeps ..))
    | (with_reducible apply KeepsX.next)
    | (with_reducible apply Keeps.ite)
    | split
    | (dsimp only)

theorem execBpoll_keeps (c : CoreId) (w : Word) (s : State) : KeepsX s (execBpoll c w s) := by
  unfold execBpoll
  repeat' first
    | (with_reducible exact Keeps.refl _)
    | (with_reducible assumption)
    | (with_reducible apply Keeps.after (State.syncIssue_keeps ..))
    | (with_reducible apply KeepsX.next)
    | (dsimp only)

theorem execCsrr_keeps (c : CoreId) (w : Word) (s : State) : KeepsX s (execCsrr c w s) := by
  unfold execCsrr
  repeat' first
    | (with_reducible exact Keeps.refl _)
    | (with_reducible assumption)
    | (with_reducible apply State.issue_after)
    | (intro _; beta_reduce)
    | (with_reducible apply Keeps.after (State.retire_keeps ..))
    | (with_reducible apply KeepsX.next)
    | (dsimp only)

theorem execCsrw_keeps (c : CoreId) (w : Word) (s : State) : KeepsX s (execCsrw c w s) := by
  unfold execCsrw
  repeat' first
    | (with_reducible exact Keeps.refl _)
    | (with_reducible assumption)
    | (with_reducible apply State.issue_after)
    | (intro _; beta_reduce)
    | (with_reducible apply Keeps.after (State.retire_keeps ..))
    | (with_reducible apply Keeps.after (State.corWrite_keeps ..))
    | (with_reducible apply KeepsX.next)
    | ((fail_if_no_progress extract_lets +onlyGivenNames x); first | (refine KeepsX.cut x ?_ ?_; (on_goal 1 => unfold x); (on_goal 2 => (intro hx; clear_value x))) | (refine Keeps.cut x ?_ ?_; (on_goal 1 => unfold x); (on_goal 2 => (intro hx; clear_value x))) | clear_value x)
    | (dsimp only)

theorem execVflagsAccess_keeps (c : CoreId) (w : Word) (s : State) : KeepsX s (execVflagsAccess c w s) := by
  unfold execVflagsAccess
  split
  · split
    · exact execCsrr_keeps ..
    · exact execCsrw_keeps ..
  · exact .next (.refl _)

theorem execEret_keeps (c : CoreId) (w : Word) (s : State) : KeepsX s (execEret c w s) := by
  unfold execEret
  repeat' first
    | (with_reducible exact Keeps.refl _)
    | (with_reducible assumption)
    | (with_reducible apply State.issue_after)
    | (intro _; beta_reduce)
    | (with_reducible apply Keeps.after (State.reclamp_keeps ..))
    | (with_reducible apply Keeps.after (State.setFld_keeps ..))
    | (with_reducible apply Keeps.after (State.modCore_keeps ..))
    | (with_reducible apply Keeps.after (State.bump_keeps ..))
    | (with_reducible apply Keeps.after (State.pump_keeps ..))
    | (with_reducible apply Keeps.foldl)
    | (with_reducible apply Keeps.foldl_fst)
    | (with_reducible refine Keeps.foldl_of (by assumption) ?_ ?_)
    | (intro _ _; beta_reduce)
    | (intro _; beta_reduce)
    | (with_reducible apply KeepsX.next)
    | (with_reducible apply Keeps.ite_fst)
    | ((fail_if_no_progress extract_lets +onlyGivenNames x); first | (refine KeepsX.cut x ?_ ?_; (on_goal 1 => unfold x); (on_goal 2 => (intro hx; clear_value x))) | (refine Keeps.cut x ?_ ?_; (on_goal 1 => unfold x); (on_goal 2 => (intro hx; clear_value x))) | clear_value x)
    | (with_reducible apply Keeps.ite)
    | (fail_if_no_progress (with_reducible apply Keeps.mk'))
    | split
    | (fail_if_no_progress simp only [Prod.mk.injEq] at *)
    | (fail_if_no_progress (with_reducible obtain ⟨rfl, -⟩ := (show (_ : State) = _ ∧ _ from by assumption)))
    | (fail_if_no_progress (with_reducible apply Keeps.fst))
    | (dsimp only)

theorem execHalt_keeps (c : CoreId) (w : Word) (s : State) : KeepsX s (execHalt c w s) := by
  unfold execHalt
  repeat' first
    | (with_reducible exact Keeps.refl _)
    | (with_reducible assumption)
    | (with_reducible apply State.issue_after)
    | (intro _; beta_reduce)
    | (with_reducible apply Keeps.after (State.retire_keeps ..))
    | (with_reducible apply KeepsX.next)
    | (fail_if_no_progress (with_reducible apply Keeps.mk'))
    | (dsimp only)

theorem execFence_keeps (c : CoreId) (w : Word) (s : State) : KeepsX s (execFence c w s) := by
  unfold execFence
  repeat' first
    | (with_reducible exact Keeps.refl _)
    | (with_reducible assumption)
    | (with_reducible apply State.issue_after)
    | (intro _; beta_reduce)
    | (with_reducible apply Keeps.after (State.retire_keeps ..))
    | (with_reducible apply KeepsX.next)
    | (dsimp only)

theorem execProgramHalted_keeps (c : CoreId) (s : State) : KeepsX s (execProgramHalted c s) := by
  unfold execProgramHalted
  repeat' first
    | (with_reducible exact Keeps.refl _)
    | (with_reducible assumption)
    | (with_reducible apply Keeps.after (State.modCore_keeps ..))
    | (with_reducible apply KeepsX.next)
    | (with_reducible apply Keeps.ite)
    | (fail_if_no_progress (with_reducible apply Keeps.mk'))
    | split
    | (dsimp only)

theorem State.holdFetch_keeps (s : State) (c : CoreId) (host : Bool) : Keeps s (State.holdFetch s c host) := by
  unfold State.holdFetch
  repeat' first
    | (with_reducible exact Keeps.refl _)
    | (with_reducible assumption)
    | (with_reducible apply Keeps.after (State.wr_keeps ..))
    | (with_reducible apply Keeps.after (State.modCore_keeps ..))
    | (with_reducible apply Keeps.after (State.modDie_keeps ..))
    | (with_reducible apply Keeps.after (State.emit_keeps ..))
    | ((fail_if_no_progress extract_lets +onlyGivenNames x); first | (refine Keeps.cut x ?_ ?_; (on_goal 1 => unfold x); (on_goal 2 => (intro hx; clear_value x))) | clear_value x)
    | (with_reducible apply Keeps.ite)
    | (fail_if_no_progress (with_reducible apply Keeps.mk'))
    | split
    | (dsimp only)

theorem State.fetchFrom_keeps (s : State) (c : CoreId) (l : CacheLine) (pa : Nat) : Keeps s (State.fetchFrom s c l pa) := by
  unfold State.fetchFrom
  repeat' first
    | (with_reducible exact Keeps.refl _)
    | (with_reducible assumption)
    | (with_reducible apply Keeps.after (State.poisonUse_keeps ..))
    | (with_reducible apply Keeps.after (State.exception_keeps ..))
    | (with_reducible apply Keeps.after (State.modCore_keeps ..))
    | (with_reducible apply Keeps.ite)
    | (fail_if_no_progress (with_reducible apply Keeps.mk'))
    | split
    | (dsimp only)

theorem execFetchResponse_keeps (c : CoreId) (s : State) : KeepsX s (execFetchResponse c s) := by
  unfold execFetchResponse
  repeat' first
    | (with_reducible exact Keeps.refl _)
    | (with_reducible assumption)
    | (with_reducible apply Keeps.after (State.xlateCore_keeps ..))
    | (with_reducible refine State.xlateCore_keepsOf (by assumption) ?_)
    | (with_reducible apply Keeps.after (State.cause_keeps ..))
    | (with_reducible apply Keeps.after (State.holdFetch_keeps ..))
    | (with_reducible apply Keeps.after (State.walkPoison_keeps ..))
    | (with_reducible apply Keeps.after (State.exception_keeps ..))
    | (with_reducible apply Keeps.after (State.modDie_keeps ..))
    | (with_reducible apply Keeps.after (State.fetchFrom_keeps ..))
    | (with_reducible apply Keeps.after (State.modCore_keeps ..))
    | (with_reducible apply Keeps.after (State.bump_keeps ..))
    | (with_reducible apply KeepsX.next)
    | ((fail_if_no_progress extract_lets +onlyGivenNames x); first | (refine KeepsX.cut x ?_ ?_; (on_goal 1 => unfold x); (on_goal 2 => (intro hx; clear_value x))) | (refine Keeps.cut x ?_ ?_; (on_goal 1 => unfold x); (on_goal 2 => (intro hx; clear_value x))) | clear_value x)
    | (with_reducible apply Keeps.ite)
    | (fail_if_no_progress (with_reducible apply Keeps.mk'))
    | split
    | (dsimp only)

theorem execInterruptAccept_keeps (c : CoreId) (s : State) : KeepsX s (execInterruptAccept c s) := by
  unfold execInterruptAccept
  repeat' first
    | (with_reducible exact Keeps.refl _)
    | (with_reducible assumption)
    | (with_reducible apply Keeps.after (State.wr_keeps ..))
    | (with_reducible apply Keeps.after (State.setFld_keeps ..))
    | (with_reducible apply Keeps.after (State.finishStationary_keeps ..))
    | (with_reducible apply Keeps.after (State.lostBeats_keeps ..))
    | (with_reducible apply Keeps.after (State.bump_keeps ..))
    | (with_reducible apply Keeps.after (State.modCore_keeps ..))
    | (with_reducible apply KeepsX.next)
    | ((fail_if_no_progress extract_lets +onlyGivenNames x); first | (refine KeepsX.cut x ?_ ?_; (on_goal 1 => unfold x); (on_goal 2 => (intro hx; clear_value x))) | (refine Keeps.cut x ?_ ?_; (on_goal 1 => unfold x); (on_goal 2 => (intro hx; clear_value x))) | clear_value x)
    | (with_reducible apply Keeps.ite)
    | (fail_if_no_progress (with_reducible apply Keeps.mk'))
    | split
    | (dsimp only)

theorem execTfaultResume_keeps (c : CoreId) (slot : BitVec 2) (s : State) : KeepsX s (execTfaultResume c slot s) := by
  unfold execTfaultResume
  repeat' first
    | (with_reducible exact Keeps.refl _)
    | (with_reducible assumption)
    | (with_reducible apply Keeps.after (State.tfResume_keeps ..))
    | (with_reducible apply KeepsX.next)
    | (dsimp only)

theorem execTfaultAbort_keeps (c : CoreId) (slot : BitVec 2) (s : State) : KeepsX s (execTfaultAbort c slot s) := by
  unfold execTfaultAbort
  repeat' first
    | (with_reducible exact Keeps.refl _)
    | (with_reducible assumption)
    | (with_reducible apply Keeps.after (State.tfAbort_keeps ..))
    | (with_reducible apply KeepsX.next)
    | (dsimp only)

theorem execExcResume_keeps (c : CoreId) (s : State) : KeepsX s (execExcResume c s) := by
  unfold execExcResume
  repeat' first
    | (with_reducible exact Keeps.refl _)
    | (with_reducible assumption)
    | (with_reducible apply Keeps.after (State.excResume_keeps ..))
    | (with_reducible apply KeepsX.next)
    | (dsimp only)

theorem execExcAbort_keeps (c : CoreId) (s : State) : KeepsX s (execExcAbort c s) := by
  unfold execExcAbort
  repeat' first
    | (with_reducible exact Keeps.refl _)
    | (with_reducible assumption)
    | (with_reducible apply Keeps.after (State.excAbort_keeps ..))
    | (with_reducible apply KeepsX.next)
    | (dsimp only)

theorem execMtxSeedWrite_keeps (c : CoreId) (a : BitVec 2) (v : BitVec 32) (s : State) : KeepsX s (execMtxSeedWrite c a v s) := by
  unfold execMtxSeedWrite
  repeat' first
    | (with_reducible exact Keeps.refl _)
    | (with_reducible assumption)
    | (with_reducible apply Keeps.after (State.seedWrite_keeps ..))
    | (with_reducible apply KeepsX.next)
    | (with_reducible apply Keeps.ite)
    | split
    | (dsimp only)

theorem execCvtSeedWrite_keeps (c : CoreId) (v : BitVec 32) (s : State) : KeepsX s (execCvtSeedWrite c v s) := by
  unfold execCvtSeedWrite
  repeat' first
    | (with_reducible exact Keeps.refl _)
    | (with_reducible assumption)
    | (with_reducible apply Keeps.after (State.cvtSeed_keeps ..))
    | (with_reducible apply KeepsX.next)
    | (with_reducible apply Keeps.ite)
    | split
    | (dsimp only)

theorem execCorMtxCntClr_keeps (c : CoreId) (s : State) : KeepsX s (execCorMtxCntClr c s) := by
  unfold execCorMtxCntClr
  repeat' first
    | (with_reducible exact Keeps.refl _)
    | (with_reducible assumption)
    | (with_reducible apply Keeps.after (State.clear_keeps ..))
    | (with_reducible apply KeepsX.next)
    | (dsimp only)

theorem execPredFlush_keeps (c : CoreId) (s : State) : KeepsX s (execPredFlush c s) := by
  unfold execPredFlush
  repeat' first
    | (with_reducible exact Keeps.refl _)
    | (with_reducible assumption)
    | (with_reducible apply Keeps.after (State.modCore_keeps ..))
    | (with_reducible apply KeepsX.next)
    | (fail_if_no_progress (with_reducible apply Keeps.mk'))
    | (dsimp only)

theorem execCorTileCntClr_keeps (c : CoreId) (s : State) : KeepsX s (execCorTileCntClr c s) := by
  unfold execCorTileCntClr
  repeat' first
    | (with_reducible exact Keeps.refl _)
    | (with_reducible assumption)
    | (with_reducible apply Keeps.after (State.clear_keeps ..))
    | (with_reducible apply KeepsX.next)
    | (dsimp only)

theorem execCorVecCntClr_keeps (c : CoreId) (s : State) : KeepsX s (execCorVecCntClr c s) := by
  unfold execCorVecCntClr
  repeat' first
    | (with_reducible exact Keeps.refl _)
    | (with_reducible assumption)
    | (with_reducible apply Keeps.after (State.clear_keeps ..))
    | (with_reducible apply KeepsX.next)
    | (dsimp only)

theorem execCorMemInv_keeps (c : CoreId) (s : State) : KeepsX s (execCorMemInv c s) := by
  unfold execCorMemInv
  repeat' first
    | (with_reducible exact Keeps.refl _)
    | (with_reducible assumption)
    | (with_reducible apply Keeps.after (State.invalidate_keeps ..))
    | (with_reducible apply KeepsX.next)
    | (dsimp only)

theorem execCorMemCntClr_keeps (c : CoreId) (s : State) : KeepsX s (execCorMemCntClr c s) := by
  unfold execCorMemCntClr
  repeat' first
    | (with_reducible exact Keeps.refl _)
    | (with_reducible assumption)
    | (with_reducible apply Keeps.after (State.clear_keeps ..))
    | (with_reducible apply KeepsX.next)
    | (dsimp only)

theorem execHstTagWrite_keeps (c : CoreId) (tag : BitVec 16) (s : State) : KeepsX s (execHstTagWrite c tag s) := by
  unfold execHstTagWrite
  repeat' first
    | (with_reducible exact Keeps.refl _)
    | (with_reducible assumption)
    | (with_reducible apply Keeps.after (State.foldReq_keeps ..))
    | (with_reducible apply KeepsX.next)
    | (dsimp only)

theorem execHstFlush_keeps (c : CoreId) (s : State) : KeepsX s (execHstFlush c s) := by
  unfold execHstFlush
  repeat' first
    | (with_reducible exact Keeps.refl _)
    | (with_reducible assumption)
    | (with_reducible apply Keeps.after (State.foldReq_keeps ..))
    | (with_reducible apply KeepsX.next)
    | (dsimp only)

theorem execHstFoldAccepted_keeps (c : CoreId) (s : State) : KeepsX s (execHstFoldAccepted c s) := by
  unfold execHstFoldAccepted
  repeat' first
    | (with_reducible exact Keeps.refl _)
    | (with_reducible assumption)
    | (with_reducible apply Keeps.after (State.foldAccept_keeps ..))
    | (with_reducible apply KeepsX.next)
    | (dsimp only)

end Sys2Proof.Machine
end

