-- ==== Sys2Proof/Laws/KeepsHostCmds.lean ====
section
/-!
SUPPORT. Sys2Proof/Laws/KeepsHostCmds.lean: what the operations of Machine/HostCmds.lean keep of a state (`Keeps`).
-/
set_option linter.unusedTactic false
set_option linter.unreachableTactic false
namespace Sys2Proof.Machine

theorem execNop_keeps (r : RingId) (s : State) : KeepsX s (execNop r s) := by
  unfold execNop
  repeat' first
    | (with_reducible exact Keeps.refl _)
    | (with_reducible assumption)
    | (with_reducible apply Keeps.after (State.takeOp_keeps ..))
    | (with_reducible apply KeepsX.next)
    | (dsimp only)

theorem execIdentify_keeps (r : RingId) (s : State) : KeepsX s (execIdentify r s) := by
  unfold execIdentify
  repeat' first
    | (with_reducible exact Keeps.refl _)
    | (with_reducible assumption)
    | (with_reducible apply Keeps.after (State.takeOp_keeps ..))
    | (with_reducible apply KeepsX.next)
    | (dsimp only)

theorem execEnumerate_keeps (r : RingId) (s : State) : KeepsX s (execEnumerate r s) := by
  unfold execEnumerate
  repeat' first
    | (with_reducible exact Keeps.refl _)
    | (with_reducible assumption)
    | (with_reducible apply Keeps.after (State.takeOp_keeps ..))
    | (with_reducible apply KeepsX.next)
    | (dsimp only)

theorem execHealth_keeps (r : RingId) (s : State) : KeepsX s (execHealth r s) := by
  unfold execHealth
  repeat' first
    | (with_reducible exact Keeps.refl _)
    | (with_reducible assumption)
    | (with_reducible apply Keeps.after (State.takeOp_keeps ..))
    | (with_reducible apply KeepsX.next)
    | (dsimp only)

theorem execRegRead_keeps (r : RingId) (s : State) : KeepsX s (execRegRead r s) := by
  unfold execRegRead
  repeat' first
    | (with_reducible exact Keeps.refl _)
    | (with_reducible assumption)
    | (with_reducible apply Keeps.after (State.takeOp_keeps ..))
    | (with_reducible apply KeepsX.next)
    | (dsimp only)

theorem execRegWrite_keeps (r : RingId) (s : State) : KeepsX s (execRegWrite r s) := by
  unfold execRegWrite
  repeat' first
    | (with_reducible exact Keeps.refl _)
    | (with_reducible assumption)
    | (with_reducible apply Keeps.after (State.takeOp_keeps ..))
    | (with_reducible apply KeepsX.next)
    | (dsimp only)

theorem execCopy_keeps (r : RingId) (s : State) : KeepsX s (execCopy r s) := by
  unfold execCopy
  repeat' first
    | (with_reducible exact Keeps.refl _)
    | (with_reducible assumption)
    | (with_reducible apply Keeps.after (State.takeOp_keeps ..))
    | (with_reducible apply KeepsX.next)
    | (dsimp only)

theorem execFill_keeps (r : RingId) (s : State) : KeepsX s (execFill r s) := by
  unfold execFill
  repeat' first
    | (with_reducible exact Keeps.refl _)
    | (with_reducible assumption)
    | (with_reducible apply Keeps.after (State.takeOp_keeps ..))
    | (with_reducible apply KeepsX.next)
    | (dsimp only)

theorem execMap_keeps (r : RingId) (s : State) : KeepsX s (execMap r s) := by
  unfold execMap
  repeat' first
    | (with_reducible exact Keeps.refl _)
    | (with_reducible assumption)
    | (with_reducible apply Keeps.after (State.takeOp_keeps ..))
    | (with_reducible apply KeepsX.next)
    | (dsimp only)

theorem execUnmap_keeps (r : RingId) (s : State) : KeepsX s (execUnmap r s) := by
  unfold execUnmap
  repeat' first
    | (with_reducible exact Keeps.refl _)
    | (with_reducible assumption)
    | (with_reducible apply Keeps.after (State.takeOp_keeps ..))
    | (with_reducible apply KeepsX.next)
    | (dsimp only)

theorem execMark_keeps (r : RingId) (s : State) : KeepsX s (execMark r s) := by
  unfold execMark
  repeat' first
    | (with_reducible exact Keeps.refl _)
    | (with_reducible assumption)
    | (with_reducible apply Keeps.after (State.takeOp_keeps ..))
    | (with_reducible apply KeepsX.next)
    | (dsimp only)

theorem execPtPool_keeps (r : RingId) (s : State) : KeepsX s (execPtPool r s) := by
  unfold execPtPool
  repeat' first
    | (with_reducible exact Keeps.refl _)
    | (with_reducible assumption)
    | (with_reducible apply Keeps.after (State.takeOp_keeps ..))
    | (with_reducible apply KeepsX.next)
    | (dsimp only)

theorem execRedSet_keeps (r : RingId) (s : State) : KeepsX s (execRedSet r s) := by
  unfold execRedSet
  repeat' first
    | (with_reducible exact Keeps.refl _)
    | (with_reducible assumption)
    | (with_reducible apply Keeps.after (State.takeOp_keeps ..))
    | (with_reducible apply KeepsX.next)
    | (dsimp only)

theorem execMcgSet_keeps (r : RingId) (s : State) : KeepsX s (execMcgSet r s) := by
  unfold execMcgSet
  repeat' first
    | (with_reducible exact Keeps.refl _)
    | (with_reducible assumption)
    | (with_reducible apply Keeps.after (State.takeOp_keeps ..))
    | (with_reducible apply KeepsX.next)
    | (dsimp only)

theorem execBias_keeps (r : RingId) (s : State) : KeepsX s (execBias r s) := by
  unfold execBias
  repeat' first
    | (with_reducible exact Keeps.refl _)
    | (with_reducible assumption)
    | (with_reducible apply Keeps.after (State.takeOp_keeps ..))
    | (with_reducible apply KeepsX.next)
    | (dsimp only)

theorem execLaunch_keeps (r : RingId) (s : State) : KeepsX s (execLaunch r s) := by
  unfold execLaunch
  repeat' first
    | (with_reducible exact Keeps.refl _)
    | (with_reducible assumption)
    | (with_reducible apply Keeps.after (State.takeOp_keeps ..))
    | (with_reducible apply KeepsX.next)
    | (dsimp only)

theorem execStop_keeps (r : RingId) (s : State) : KeepsX s (execStop r s) := by
  unfold execStop
  repeat' first
    | (with_reducible exact Keeps.refl _)
    | (with_reducible assumption)
    | (with_reducible apply Keeps.after (State.takeOp_keeps ..))
    | (with_reducible apply KeepsX.next)
    | (dsimp only)

theorem execLaunchStatus_keeps (r : RingId) (s : State) : KeepsX s (execLaunchStatus r s) := by
  unfold execLaunchStatus
  repeat' first
    | (with_reducible exact Keeps.refl _)
    | (with_reducible assumption)
    | (with_reducible apply Keeps.after (State.takeOp_keeps ..))
    | (with_reducible apply KeepsX.next)
    | (dsimp only)

theorem execRaise_keeps (r : RingId) (s : State) : KeepsX s (execRaise r s) := by
  unfold execRaise
  repeat' first
    | (with_reducible exact Keeps.refl _)
    | (with_reducible assumption)
    | (with_reducible apply Keeps.after (State.takeOp_keeps ..))
    | (with_reducible apply KeepsX.next)
    | (dsimp only)

theorem execSyncAdv_keeps (r : RingId) (s : State) : KeepsX s (execSyncAdv r s) := by
  unfold execSyncAdv
  repeat' first
    | (with_reducible exact Keeps.refl _)
    | (with_reducible assumption)
    | (with_reducible apply Keeps.after (State.takeOp_keeps ..))
    | (with_reducible apply KeepsX.next)
    | (dsimp only)

theorem execSyncRead_keeps (r : RingId) (s : State) : KeepsX s (execSyncRead r s) := by
  unfold execSyncRead
  repeat' first
    | (with_reducible exact Keeps.refl _)
    | (with_reducible assumption)
    | (with_reducible apply Keeps.after (State.takeOp_keeps ..))
    | (with_reducible apply KeepsX.next)
    | (dsimp only)

theorem execSyncSet_keeps (r : RingId) (s : State) : KeepsX s (execSyncSet r s) := by
  unfold execSyncSet
  repeat' first
    | (with_reducible exact Keeps.refl _)
    | (with_reducible assumption)
    | (with_reducible apply Keeps.after (State.takeOp_keeps ..))
    | (with_reducible apply KeepsX.next)
    | (dsimp only)

theorem execSyncAttr_keeps (r : RingId) (s : State) : KeepsX s (execSyncAttr r s) := by
  unfold execSyncAttr
  repeat' first
    | (with_reducible exact Keeps.refl _)
    | (with_reducible assumption)
    | (with_reducible apply Keeps.after (State.takeOp_keeps ..))
    | (with_reducible apply KeepsX.next)
    | (dsimp only)

theorem execSyncWait_keeps (r : RingId) (s : State) : KeepsX s (execSyncWait r s) := by
  unfold execSyncWait
  repeat' first
    | (with_reducible exact Keeps.refl _)
    | (with_reducible assumption)
    | (with_reducible apply Keeps.after (State.takeOp_keeps ..))
    | (with_reducible apply KeepsX.next)
    | (dsimp only)

theorem execBarCfg_keeps (r : RingId) (s : State) : KeepsX s (execBarCfg r s) := by
  unfold execBarCfg
  repeat' first
    | (with_reducible exact Keeps.refl _)
    | (with_reducible assumption)
    | (with_reducible apply Keeps.after (State.takeOp_keeps ..))
    | (with_reducible apply KeepsX.next)
    | (dsimp only)

theorem execBarArrive_keeps (r : RingId) (s : State) : KeepsX s (execBarArrive r s) := by
  unfold execBarArrive
  repeat' first
    | (with_reducible exact Keeps.refl _)
    | (with_reducible assumption)
    | (with_reducible apply Keeps.after (State.takeOp_keeps ..))
    | (with_reducible apply KeepsX.next)
    | (dsimp only)

theorem execConfigStage_keeps (r : RingId) (s : State) : KeepsX s (execConfigStage r s) := by
  unfold execConfigStage
  repeat' first
    | (with_reducible exact Keeps.refl _)
    | (with_reducible assumption)
    | (with_reducible apply Keeps.after (State.takeOp_keeps ..))
    | (with_reducible apply KeepsX.next)
    | (dsimp only)

theorem execConfigCommit_keeps (r : RingId) (s : State) : KeepsX s (execConfigCommit r s) := by
  unfold execConfigCommit
  repeat' first
    | (with_reducible exact Keeps.refl _)
    | (with_reducible assumption)
    | (with_reducible apply Keeps.after (State.takeOp_keeps ..))
    | (with_reducible apply KeepsX.next)
    | (dsimp only)

theorem execConfigStatus_keeps (r : RingId) (s : State) : KeepsX s (execConfigStatus r s) := by
  unfold execConfigStatus
  repeat' first
    | (with_reducible exact Keeps.refl _)
    | (with_reducible assumption)
    | (with_reducible apply Keeps.after (State.takeOp_keeps ..))
    | (with_reducible apply KeepsX.next)
    | (dsimp only)

theorem execSetImmediate_keeps (r : RingId) (s : State) : KeepsX s (execSetImmediate r s) := by
  unfold execSetImmediate
  repeat' first
    | (with_reducible exact Keeps.refl _)
    | (with_reducible assumption)
    | (with_reducible apply Keeps.after (State.takeOp_keeps ..))
    | (with_reducible apply KeepsX.next)
    | (dsimp only)

theorem execPowerCapSet_keeps (r : RingId) (s : State) : KeepsX s (execPowerCapSet r s) := by
  unfold execPowerCapSet
  repeat' first
    | (with_reducible exact Keeps.refl _)
    | (with_reducible assumption)
    | (with_reducible apply Keeps.after (State.takeOp_keeps ..))
    | (with_reducible apply KeepsX.next)
    | (dsimp only)

theorem execPowerStatus_keeps (r : RingId) (s : State) : KeepsX s (execPowerStatus r s) := by
  unfold execPowerStatus
  repeat' first
    | (with_reducible exact Keeps.refl _)
    | (with_reducible assumption)
    | (with_reducible apply Keeps.after (State.takeOp_keeps ..))
    | (with_reducible apply KeepsX.next)
    | (dsimp only)

theorem execPointLimit_keeps (r : RingId) (s : State) : KeepsX s (execPointLimit r s) := by
  unfold execPointLimit
  repeat' first
    | (with_reducible exact Keeps.refl _)
    | (with_reducible assumption)
    | (with_reducible apply Keeps.after (State.takeOp_keeps ..))
    | (with_reducible apply KeepsX.next)
    | (dsimp only)

theorem execFuncEnable_keeps (r : RingId) (s : State) : KeepsX s (execFuncEnable r s) := by
  unfold execFuncEnable
  repeat' first
    | (with_reducible exact Keeps.refl _)
    | (with_reducible assumption)
    | (with_reducible apply Keeps.after (State.takeOp_keeps ..))
    | (with_reducible apply KeepsX.next)
    | (dsimp only)

theorem execFuncDisable_keeps (r : RingId) (s : State) : KeepsX s (execFuncDisable r s) := by
  unfold execFuncDisable
  repeat' first
    | (with_reducible exact Keeps.refl _)
    | (with_reducible assumption)
    | (with_reducible apply Keeps.after (State.takeOp_keeps ..))
    | (with_reducible apply KeepsX.next)
    | (dsimp only)

theorem execPark_keeps (r : RingId) (s : State) : KeepsX s (execPark r s) := by
  unfold execPark
  repeat' first
    | (with_reducible exact Keeps.refl _)
    | (with_reducible assumption)
    | (with_reducible apply Keeps.after (State.takeOp_keeps ..))
    | (with_reducible apply KeepsX.next)
    | (dsimp only)

theorem execWake_keeps (r : RingId) (s : State) : KeepsX s (execWake r s) := by
  unfold execWake
  repeat' first
    | (with_reducible exact Keeps.refl _)
    | (with_reducible assumption)
    | (with_reducible apply Keeps.after (State.takeOp_keeps ..))
    | (with_reducible apply KeepsX.next)
    | (dsimp only)

theorem execPowerSettings_keeps (r : RingId) (s : State) : KeepsX s (execPowerSettings r s) := by
  unfold execPowerSettings
  repeat' first
    | (with_reducible exact Keeps.refl _)
    | (with_reducible assumption)
    | (with_reducible apply Keeps.after (State.takeOp_keeps ..))
    | (with_reducible apply KeepsX.next)
    | (dsimp only)

theorem execProfileClear_keeps (r : RingId) (s : State) : KeepsX s (execProfileClear r s) := by
  unfold execProfileClear
  repeat' first
    | (with_reducible exact Keeps.refl _)
    | (with_reducible assumption)
    | (with_reducible apply Keeps.after (State.takeOp_keeps ..))
    | (with_reducible apply KeepsX.next)
    | (dsimp only)

theorem execFenceCmd_keeps (r : RingId) (s : State) : KeepsX s (execFenceCmd r s) := by
  unfold execFenceCmd
  repeat' first
    | (with_reducible exact Keeps.refl _)
    | (with_reducible assumption)
    | (with_reducible apply Keeps.after (State.takeOp_keeps ..))
    | (with_reducible apply KeepsX.next)
    | (dsimp only)

theorem execUnfence_keeps (r : RingId) (s : State) : KeepsX s (execUnfence r s) := by
  unfold execUnfence
  repeat' first
    | (with_reducible exact Keeps.refl _)
    | (with_reducible assumption)
    | (with_reducible apply Keeps.after (State.takeOp_keeps ..))
    | (with_reducible apply KeepsX.next)
    | (dsimp only)

theorem execFenceStatus_keeps (r : RingId) (s : State) : KeepsX s (execFenceStatus r s) := by
  unfold execFenceStatus
  repeat' first
    | (with_reducible exact Keeps.refl _)
    | (with_reducible assumption)
    | (with_reducible apply Keeps.after (State.takeOp_keeps ..))
    | (with_reducible apply KeepsX.next)
    | (dsimp only)

theorem execFabPortSet_keeps (r : RingId) (s : State) : KeepsX s (execFabPortSet r s) := by
  unfold execFabPortSet
  repeat' first
    | (with_reducible exact Keeps.refl _)
    | (with_reducible assumption)
    | (with_reducible apply Keeps.after (State.takeOp_keeps ..))
    | (with_reducible apply KeepsX.next)
    | (dsimp only)

theorem execFabPortStatus_keeps (r : RingId) (s : State) : KeepsX s (execFabPortStatus r s) := by
  unfold execFabPortStatus
  repeat' first
    | (with_reducible exact Keeps.refl _)
    | (with_reducible assumption)
    | (with_reducible apply Keeps.after (State.takeOp_keeps ..))
    | (with_reducible apply KeepsX.next)
    | (dsimp only)

theorem execGroupSet_keeps (r : RingId) (s : State) : KeepsX s (execGroupSet r s) := by
  unfold execGroupSet
  repeat' first
    | (with_reducible exact Keeps.refl _)
    | (with_reducible assumption)
    | (with_reducible apply Keeps.after (State.takeOp_keeps ..))
    | (with_reducible apply KeepsX.next)
    | (dsimp only)

theorem execChanSet_keeps (r : RingId) (s : State) : KeepsX s (execChanSet r s) := by
  unfold execChanSet
  repeat' first
    | (with_reducible exact Keeps.refl _)
    | (with_reducible assumption)
    | (with_reducible apply Keeps.after (State.takeOp_keeps ..))
    | (with_reducible apply KeepsX.next)
    | (dsimp only)

theorem execShardSet_keeps (r : RingId) (s : State) : KeepsX s (execShardSet r s) := by
  unfold execShardSet
  repeat' first
    | (with_reducible exact Keeps.refl _)
    | (with_reducible assumption)
    | (with_reducible apply Keeps.after (State.takeOp_keeps ..))
    | (with_reducible apply KeepsX.next)
    | (dsimp only)

theorem execDeadlineSet_keeps (r : RingId) (s : State) : KeepsX s (execDeadlineSet r s) := by
  unfold execDeadlineSet
  repeat' first
    | (with_reducible exact Keeps.refl _)
    | (with_reducible assumption)
    | (with_reducible apply Keeps.after (State.takeOp_keeps ..))
    | (with_reducible apply KeepsX.next)
    | (dsimp only)

theorem execGroupClear_keeps (r : RingId) (s : State) : KeepsX s (execGroupClear r s) := by
  unfold execGroupClear
  repeat' first
    | (with_reducible exact Keeps.refl _)
    | (with_reducible assumption)
    | (with_reducible apply Keeps.after (State.takeOp_keeps ..))
    | (with_reducible apply KeepsX.next)
    | (dsimp only)

theorem execTwnBond_keeps (r : RingId) (mirdig : BitVec 256) (s : State) : KeepsX s (execTwnBond r mirdig s) := by
  unfold execTwnBond
  repeat' first
    | (with_reducible exact Keeps.refl _)
    | (with_reducible assumption)
    | (with_reducible apply Keeps.after (State.takeOp_keeps ..))
    | (with_reducible apply KeepsX.next)
    | (dsimp only)

theorem execTwnUnbond_keeps (r : RingId) (s : State) : KeepsX s (execTwnUnbond r s) := by
  unfold execTwnUnbond
  repeat' first
    | (with_reducible exact Keeps.refl _)
    | (with_reducible assumption)
    | (with_reducible apply Keeps.after (State.takeOp_keeps ..))
    | (with_reducible apply KeepsX.next)
    | (dsimp only)

theorem execTwnMirrorSet_keeps (r : RingId) (s : State) : KeepsX s (execTwnMirrorSet r s) := by
  unfold execTwnMirrorSet
  repeat' first
    | (with_reducible exact Keeps.refl _)
    | (with_reducible assumption)
    | (with_reducible apply Keeps.after (State.takeOp_keeps ..))
    | (with_reducible apply KeepsX.next)
    | (dsimp only)

theorem execTwnStatus_keeps (r : RingId) (s : State) : KeepsX s (execTwnStatus r s) := by
  unfold execTwnStatus
  repeat' first
    | (with_reducible exact Keeps.refl _)
    | (with_reducible assumption)
    | (with_reducible apply Keeps.after (State.takeOp_keeps ..))
    | (with_reducible apply KeepsX.next)
    | (dsimp only)

theorem execTwnStore_keeps (r : RingId) (s : State) : KeepsX s (execTwnStore r s) := by
  unfold execTwnStore
  repeat' first
    | (with_reducible exact Keeps.refl _)
    | (with_reducible assumption)
    | (with_reducible apply Keeps.after (State.takeOp_keeps ..))
    | (with_reducible apply KeepsX.next)
    | (dsimp only)

theorem execStepOpen_keeps (r : RingId) (s : State) : KeepsX s (execStepOpen r s) := by
  unfold execStepOpen
  repeat' first
    | (with_reducible exact Keeps.refl _)
    | (with_reducible assumption)
    | (with_reducible apply Keeps.after (State.takeOp_keeps ..))
    | (with_reducible apply KeepsX.next)
    | (dsimp only)

theorem execStepClose_keeps (r : RingId) (s : State) : KeepsX s (execStepClose r s) := by
  unfold execStepClose
  repeat' first
    | (with_reducible exact Keeps.refl _)
    | (with_reducible assumption)
    | (with_reducible apply Keeps.after (State.takeOp_keeps ..))
    | (with_reducible apply KeepsX.next)
    | (dsimp only)

theorem execPlanInstall_keeps (r : RingId) (s : State) : KeepsX s (execPlanInstall r s) := by
  unfold execPlanInstall
  repeat' first
    | (with_reducible exact Keeps.refl _)
    | (with_reducible assumption)
    | (with_reducible apply Keeps.after (State.takeOp_keeps ..))
    | (with_reducible apply KeepsX.next)
    | (dsimp only)

theorem execSchedSet_keeps (r : RingId) (s : State) : KeepsX s (execSchedSet r s) := by
  unfold execSchedSet
  repeat' first
    | (with_reducible exact Keeps.refl _)
    | (with_reducible assumption)
    | (with_reducible apply Keeps.after (State.takeOp_keeps ..))
    | (with_reducible apply KeepsX.next)
    | (dsimp only)

theorem execStepStatus_keeps (r : RingId) (s : State) : KeepsX s (execStepStatus r s) := by
  unfold execStepStatus
  repeat' first
    | (with_reducible exact Keeps.refl _)
    | (with_reducible assumption)
    | (with_reducible apply Keeps.after (State.takeOp_keeps ..))
    | (with_reducible apply KeepsX.next)
    | (dsimp only)

theorem execRplRecordStart_keeps (r : RingId) (s : State) : KeepsX s (execRplRecordStart r s) := by
  unfold execRplRecordStart
  repeat' first
    | (with_reducible exact Keeps.refl _)
    | (with_reducible assumption)
    | (with_reducible apply Keeps.after (State.takeOp_keeps ..))
    | (with_reducible apply KeepsX.next)
    | (dsimp only)

theorem execRplRecordStop_keeps (r : RingId) (s : State) : KeepsX s (execRplRecordStop r s) := by
  unfold execRplRecordStop
  repeat' first
    | (with_reducible exact Keeps.refl _)
    | (with_reducible assumption)
    | (with_reducible apply Keeps.after (State.takeOp_keeps ..))
    | (with_reducible apply KeepsX.next)
    | (dsimp only)

theorem execRplStatus_keeps (r : RingId) (s : State) : KeepsX s (execRplStatus r s) := by
  unfold execRplStatus
  repeat' first
    | (with_reducible exact Keeps.refl _)
    | (with_reducible assumption)
    | (with_reducible apply Keeps.after (State.takeOp_keeps ..))
    | (with_reducible apply KeepsX.next)
    | (dsimp only)

theorem execRplReplayStart_keeps (r : RingId) (s : State) : KeepsX s (execRplReplayStart r s) := by
  unfold execRplReplayStart
  repeat' first
    | (with_reducible exact Keeps.refl _)
    | (with_reducible assumption)
    | (with_reducible apply Keeps.after (State.takeOp_keeps ..))
    | (with_reducible apply KeepsX.next)
    | (dsimp only)

theorem execRplReplayStop_keeps (r : RingId) (s : State) : KeepsX s (execRplReplayStop r s) := by
  unfold execRplReplayStop
  repeat' first
    | (with_reducible exact Keeps.refl _)
    | (with_reducible assumption)
    | (with_reducible apply Keeps.after (State.takeOp_keeps ..))
    | (with_reducible apply KeepsX.next)
    | (dsimp only)

theorem execRplMark_keeps (r : RingId) (s : State) : KeepsX s (execRplMark r s) := by
  unfold execRplMark
  repeat' first
    | (with_reducible exact Keeps.refl _)
    | (with_reducible assumption)
    | (with_reducible apply Keeps.after (State.takeOp_keeps ..))
    | (with_reducible apply KeepsX.next)
    | (dsimp only)

theorem execFwStage_keeps (r : RingId) (s : State) : KeepsX s (execFwStage r s) := by
  unfold execFwStage
  repeat' first
    | (with_reducible exact Keeps.refl _)
    | (with_reducible assumption)
    | (with_reducible apply Keeps.after (State.takeOp_keeps ..))
    | (with_reducible apply KeepsX.next)
    | (dsimp only)

theorem execFwActivate_keeps (r : RingId) (s : State) : KeepsX s (execFwActivate r s) := by
  unfold execFwActivate
  repeat' first
    | (with_reducible exact Keeps.refl _)
    | (with_reducible assumption)
    | (with_reducible apply Keeps.after (State.takeOp_keeps ..))
    | (with_reducible apply KeepsX.next)
    | (dsimp only)

theorem execFwStatus_keeps (r : RingId) (s : State) : KeepsX s (execFwStatus r s) := by
  unfold execFwStatus
  repeat' first
    | (with_reducible exact Keeps.refl _)
    | (with_reducible assumption)
    | (with_reducible apply Keeps.after (State.takeOp_keeps ..))
    | (with_reducible apply KeepsX.next)
    | (dsimp only)

theorem execFwRestart_keeps (r : RingId) (s : State) : KeepsX s (execFwRestart r s) := by
  unfold execFwRestart
  repeat' first
    | (with_reducible exact Keeps.refl _)
    | (with_reducible assumption)
    | (with_reducible apply Keeps.after (State.takeOp_keeps ..))
    | (with_reducible apply KeepsX.next)
    | (dsimp only)

theorem execSvnCommit_keeps (r : RingId) (s : State) : KeepsX s (execSvnCommit r s) := by
  unfold execSvnCommit
  repeat' first
    | (with_reducible exact Keeps.refl _)
    | (with_reducible assumption)
    | (with_reducible apply Keeps.after (State.takeOp_keeps ..))
    | (with_reducible apply KeepsX.next)
    | (dsimp only)

theorem execJnlRead_keeps (r : RingId) (s : State) : KeepsX s (execJnlRead r s) := by
  unfold execJnlRead
  repeat' first
    | (with_reducible exact Keeps.refl _)
    | (with_reducible assumption)
    | (with_reducible apply Keeps.after (State.takeOp_keeps ..))
    | (with_reducible apply KeepsX.next)
    | (dsimp only)

theorem execJnlState_keeps (r : RingId) (s : State) : KeepsX s (execJnlState r s) := by
  unfold execJnlState
  repeat' first
    | (with_reducible exact Keeps.refl _)
    | (with_reducible assumption)
    | (with_reducible apply Keeps.after (State.takeOp_keeps ..))
    | (with_reducible apply KeepsX.next)
    | (dsimp only)

theorem execJnlResetPolicy_keeps (r : RingId) (s : State) : KeepsX s (execJnlResetPolicy r s) := by
  unfold execJnlResetPolicy
  repeat' first
    | (with_reducible exact Keeps.refl _)
    | (with_reducible assumption)
    | (with_reducible apply Keeps.after (State.takeOp_keeps ..))
    | (with_reducible apply KeepsX.next)
    | (dsimp only)

theorem execV1Packet_keeps (r : RingId) (s : State) : KeepsX s (execV1Packet r s) := by
  unfold execV1Packet
  repeat' first
    | (with_reducible exact Keeps.refl _)
    | (with_reducible assumption)
    | (with_reducible apply Keeps.after (State.takeV1_keeps ..))
    | (with_reducible apply KeepsX.next)
    | (dsimp only)

theorem execUnassignedOpcode_keeps (r : RingId) (s : State) : KeepsX s (execUnassignedOpcode r s) := by
  unfold execUnassignedOpcode
  repeat' first
    | (with_reducible exact Keeps.refl _)
    | (with_reducible assumption)
    | (with_reducible apply Keeps.after (State.takeOther_keeps ..))
    | (with_reducible apply KeepsX.next)
    | (dsimp only)

end Sys2Proof.Machine
end

