-- ==== Sys2Proof/Laws/KeepsStep.lean ====
section
/-!
SUPPORT. Sys2Proof/Laws/KeepsStep.lean: what the operations of Machine/Step.lean keep of a state (`Keeps`).
-/
set_option linter.unusedTactic false
set_option linter.unreachableTactic false
namespace Sys2Proof.Machine

-- `withFetchWord` puts a command into the queue: it is no command.

end Sys2Proof.Machine
end

