-- ==== Sys2Proof/WellFormed.lean ====
section
/-!
DEFINITION. Sys2Proof/WellFormed.lean: which terms of the syntax are commands a sender can send: the operands lie in the ranges
the spec gives them. A meaning answers for the other terms too; nothing relies on a command being well-formed.
-/
namespace Sys2Proof

/-- A word of the core instruction whose class, opcode and function are `key` (R162). -/
def wordOf (key : Nat) (w : Word) : Bool := Machine.ikey w == key
/-- A word of CSRR or CSRW (R181). -/
def csrOf (w : Word) : Bool := wordOf 0xF000 w || wordOf 0xF010 w
/-- Arrays are F, G and W (R35). -/
def isArray (a : BitVec 2) : Bool := a != 3
/-- Fabric ports D0P0 to D3P5, numbered 0 to 23 (R346). -/
def fabricPort (p : BitVec 5) : Bool := decide (p.toNat < 24)
/-- Twin ports D0T to D3T, numbered 24 to 27 (R376). -/
def twinPort (p : BitVec 5) : Bool := decide (24 ≤ p.toNat) && decide (p.toNat < 28)
/-- A fabric or twin port. -/
def anyPort (p : BitVec 5) : Bool := decide (p.toNat < 28)
/-- Draws name one of the 277 instances of a die (R260), and no slot asks twice in one draw (R257). -/
def drawsOk (ds : List Draw) : Bool := ds.all fun x => decide (x.inst.toNat < 277) && decide (x.asking.map (·.1)).Nodup
/-- A CXL.mem write carries one 64-byte line at its address (R425). -/
def lineOf64 (a : BitVec 52) (data : List Byte) : Bool := decide (a.toNat % 64 = 0) && data.length == 64
/-- What a frame carries after its header: 0 to 4,096 bytes (R349). -/
def payloadOk (f : Frame) : Bool := decide (f.data.length ≤ 4096)
/-- A tick's telemetry covers the sixteen regions. -/
def telemetryOk (t : Telemetry) : Bool := t.regions.length == 16

/-- Whether a term is a command a sender can send. -/
def Instr.wf : Instr → Bool
  | .add _ w => wordOf 0x0000 w
  | .sub _ w => wordOf 0x0010 w
  | .and _ w => wordOf 0x0020 w
  | .or _ w => wordOf 0x0030 w
  | .xor _ w => wordOf 0x0040 w
  | .sll _ w => wordOf 0x0050 w
  | .srl _ w => wordOf 0x0060 w
  | .sra _ w => wordOf 0x0070 w
  | .slt _ w => wordOf 0x0080 w
  | .sltu _ w => wordOf 0x0090 w
  | .min _ w => wordOf 0x00A0 w
  | .max _ w => wordOf 0x00B0 w
  | .minu _ w => wordOf 0x00C0 w
  | .maxu _ w => wordOf 0x00D0 w
  | .mul _ w => wordOf 0x0100 w
  | .mulhu _ w => wordOf 0x0110 w
  | .divu _ w => wordOf 0x0120 w
  | .remu _ w => wordOf 0x0130 w
  | .movhi _ w => wordOf 0x0180 w
  | .beq _ w => wordOf 0x1000 w
  | .bne _ w => wordOf 0x1010 w
  | .blt _ w => wordOf 0x1020 w
  | .bge _ w => wordOf 0x1030 w
  | .bltu _ w => wordOf 0x1040 w
  | .bgeu _ w => wordOf 0x1050 w
  | .jal _ w => wordOf 0x1080 w
  | .jalr _ w => wordOf 0x1090 w
  | .ld8u _ w => wordOf 0x2000 w
  | .ld16u _ w => wordOf 0x2010 w
  | .ld32u _ w => wordOf 0x2020 w
  | .ld64 _ w => wordOf 0x2030 w
  | .ld8s _ w => wordOf 0x2040 w
  | .ld16s _ w => wordOf 0x2050 w
  | .ld32s _ w => wordOf 0x2060 w
  | .st8 _ w => wordOf 0x2080 w
  | .st16 _ w => wordOf 0x2090 w
  | .st32 _ w => wordOf 0x20A0 w
  | .st64 _ w => wordOf 0x20B0 w
  | .tld _ w => wordOf 0x3000 w
  | .tldt _ w => wordOf 0x3010 w
  | .tst _ w => wordOf 0x3020 w
  | .mmul _ w => wordOf 0x4000 w
  | .mmac _ w => wordOf 0x4010 w
  | .sload _ w => wordOf 0x7000 w
  | .swap _ w => wordOf 0x7010 w
  | .form _ w => wordOf 0x7020 w
  | .mtxWritePhase _ a => isArray a
  | .shadowLoadDone _ a => isArray a
  | .swapTakesEffect _ a => isArray a
  | .formSwitchDone _ a => isArray a
  | .tileLoadComplete _ _ => true
  | .tileStoreComplete _ _ => true
  | .vecAdd _ w => wordOf 0x5000 w
  | .vecSub _ w => wordOf 0x5010 w
  | .vecMul _ w => wordOf 0x5020 w
  | .fma _ w => wordOf 0x5030 w
  | .fms _ w => wordOf 0x5040 w
  | .fnma _ w => wordOf 0x5050 w
  | .vecMin _ w => wordOf 0x5060 w
  | .vecMax _ w => wordOf 0x5070 w
  | .cmp _ w => wordOf 0x5080 w
  | .sel _ w => wordOf 0x5090 w
  | .mov _ w => wordOf 0x50A0 w
  | .abs _ w => wordOf 0x50A1 w
  | .neg _ w => wordOf 0x50A2 w
  | .rcp _ w => wordOf 0x50B0 w
  | .rsq _ w => wordOf 0x50B1 w
  | .sqrt _ w => wordOf 0x50B2 w
  | .exp2 _ w => wordOf 0x50B3 w
  | .log2 _ w => wordOf 0x50B4 w
  | .redr _ w => wordOf 0x6000 w
  | .redc _ w => wordOf 0x6010 w
  | .reda _ w => wordOf 0x6020 w
  | .mand _ w => wordOf 0x6080 w
  | .mor _ w => wordOf 0x6090 w
  | .mxor _ w => wordOf 0x60A0 w
  | .mandn _ w => wordOf 0x60B0 w
  | .mnot _ w => wordOf 0x60C0 w
  | .mset _ w => wordOf 0x60D0 w
  | .mpop _ w => wordOf 0x60E0 w
  | .mfirst _ w => wordOf 0x60F0 w
  | .cvt _ w => wordOf 0xA000 w
  | .cvtmx _ w => wordOf 0xA010 w
  | .scld _ w => wordOf 0xA020 w
  | .scst _ w => wordOf 0xA030 w
  | .scset _ w => wordOf 0xA040 w
  | .vecInsnComplete _ => true
  | .dmaq _ w => wordOf 0x8000 w
  | .dmast _ w => wordOf 0x8010 w
  | .sadv _ w => wordOf 0x9000 w
  | .sread _ w => wordOf 0x9010 w
  | .swatch _ w => wordOf 0x9020 w
  | .scancel _ w => wordOf 0x9030 w
  | .swait _ w => wordOf 0x9040 w
  | .sfired _ w => wordOf 0x9050 w
  | .barr _ w => wordOf 0x9080 w
  | .bpoll _ w => wordOf 0x9090 w
  | .csrr _ w => wordOf 0xF000 w
  | .csrw _ w => wordOf 0xF010 w
  | .eret _ w => wordOf 0xF080 w
  | .halt _ w => wordOf 0xF090 w
  | .fence _ w => wordOf 0xF0A0 w
  | .programHalted _ => true
  | .fetchResponse _ => true
  | .interruptAccept _ => true
  | .tfaultResume _ _ => true
  | .tfaultAbort _ _ => true
  | .excResume _ => true
  | .excAbort _ => true
  | .fwIrqRaise _ => true
  | .mtxSeedWrite _ a _ => isArray a
  | .cvtSeedWrite _ _ => true
  | .corMtxCntClr _ => true
  | .predFlush _ => true
  | .corTileCntClr _ => true
  | .corVecCntClr _ => true
  | .vflagsAccess _ w => csrOf w
  | .corMemInv _ => true
  | .corMemCntClr _ => true
  | .hstTagWrite _ _ => true
  | .hstFlush _ => true
  | .hstFoldAccepted _ => true
  | .lineRequest _ draws => drawsOk draws
  | .sorterAgeExpire _ _ => true
  | .lineResponse _ _ draws => drawsOk draws
  | .cluSortCntClr _ => true
  | .memDmaCntClr _ => true
  | .arbCntClr _ => true
  | .arbTicketWrite _ t _ _ => decide (t.toNat < 5)
  | .arbSeedWrite _ i _ => decide (i.toNat < 277)
  | .dmaAccept _ _ => true
  | .dmaBlockDone _ _ _ draws => drawsOk draws
  | .dmaComplete _ _ => true
  | .faultReportService _ => true
  | .patrolScrub _ found _ => decide (found.toNat < 3)
  | .memStepWrite _ _ => true
  | .rgnEntryWrite _ _ _ _ => true
  | .writePacket a data _ => decide (0 < data.length) && decide (a.toNat % 256 + data.length ≤ 256)
  | .lateNoticeReceive _ => true
  | .ringEnable _ _ => true
  | .ringDisable _ _ => true
  | .streamBlockWritten _ _ b => drawsOk b.draws
  | .priResponse _ _ code => decide (code.toNat < 3)
  | .atsInvalidate _ _ => true
  | .reductionPacketArrive _ => true
  | .combineHoldExpire _ _ => true
  | .reductionEndpointWrite _ => true
  | .roundDoneNotice _ => true
  | .multicastDeliver _ _ _ => true
  | .multicastAck _ => true
  | .pacerRefill _ _ => true
  | .fenceWrite _ _ => true
  | .fenceReleaseWrite _ => true
  | .selfTestDone _ _ => true
  | .newtUngate _ => true
  | .redEntryWrite _ _ _ _ => true
  | .nocCntClr _ => true
  | .syncAdvance _ => true
  | .advanceAck _ => true
  | .watchRegistration _ => true
  | .watchFire _ => true
  | .retryResend _ => true
  | .synValWrite _ _ => true
  | .synAdvWrite _ _ => true
  | .synAttrWrite _ _ => true
  | .synCntClr _ => true
  | .barMaskWrite _ _ _ _ => true
  | .synBarCfgWrite _ _ _ => true
  | .barrierLineComplete _ _ => true
  | .barrierLate _ _ => true
  | .lendableSet _ => true
  | .stepOpen _ => true
  | .stepClose _ => true
  | .planInstall _ => true
  | .schedSet _ => true
  | .stepStatus _ => true
  | .passAStart _ => true
  | .passADone _ => true
  | .normContribute => true
  | .passBLayerDone _ => true
  | .rule0LaunchDone _ => true
  | .stepCommit => true
  | .updCntClr _ => true
  | .rs port f => fabricPort port && payloadOk f
  | .ag port f => fabricPort port && payloadOk f
  | .normUp port f => fabricPort port && payloadOk f
  | .normDown port f => fabricPort port && payloadOk f
  | .ack port f => anyPort port && payloadOk f
  | .nak port f => anyPort port && payloadOk f
  | .credit port f => fabricPort port && payloadOk f
  | .barrier port f => fabricPort port && payloadOk f
  | .abort port f => fabricPort port && payloadOk f
  | .probe port f => anyPort port && payloadOk f
  | .pfcFrame port _ _ => fabricPort port
  | .ackTimer port _ => anyPort port
  | .rtoExpire port _ => anyPort port
  | .probeTimer port _ => anyPort port
  | .rsSendStart _ => true
  | .dlSoftExpire _ => true
  | .dlHardExpire _ => true
  | .portTrained port _ => anyPort port
  | .fabPortSet _ => true
  | .fabPortStatus _ => true
  | .groupSet _ => true
  | .chanSet _ => true
  | .shardSet _ => true
  | .deadlineSet _ => true
  | .groupClear _ => true
  | .fabCntClr => true
  | .hello port f _ => twinPort port && payloadOk f
  | .bond port f _ => twinPort port && payloadOk f
  | .decision port f => twinPort port && payloadOk f
  | .mirror port f _ => twinPort port && payloadOk f
  | .mack port f => twinPort port && payloadOk f
  | .mskip port f => twinPort port && payloadOk f
  | .heartbeat port f => twinPort port && payloadOk f
  | .unbond port f => twinPort port && payloadOk f
  | .unbondAck port f => twinPort port && payloadOk f
  | .heartbeatTimer port => twinPort port
  | .partnerLoss => true
  | .bondTimeout => true
  | .twnBond _ _ => true
  | .twnUnbond _ => true
  | .twnMirrorSet _ => true
  | .twnStatus _ => true
  | .twnStore _ => true
  | .twnCntClr => true
  | .firmwareTick t => telemetryOk t
  | .inputSample _ _ _ => true
  | .thermalTrip _ _ _ => true
  | .pllRelockDone _ => true
  | .railSlewDone _ => true
  | .funcTransitionDone f _ => decide (f.toNat < 44)
  | .powerCapSet _ => true
  | .powerStatus _ => true
  | .pointLimit _ => true
  | .funcEnable _ => true
  | .funcDisable _ => true
  | .park _ => true
  | .wake _ => true
  | .powerSettings _ => true
  | .profileClear _ => true
  | .pwrCntClr => true
  | .linkTrain _ _ _ => true
  | .perstAssert => true
  | .perstDeassert => true
  | .functionLevelReset => true
  | .configRequest _ _ => true
  | .hostMemRead _ found _ => decide (found.toNat < 3)
  | .hostMemWrite a data => lineOf64 a data
  | .h2dSnoop _ => true
  | .cmdRingEnable _ _ _ => true
  | .sqTailWrite _ _ => true
  | .cqHeadWrite _ _ => true
  | .coalTimer _ => true
  | .windowBaseWrite _ _ => true
  | .cmdCntClr => true
  | .v1Packet _ => true
  | .unassignedOpcode _ => true
  | .nop _ => true
  | .identify _ => true
  | .enumerate _ => true
  | .health _ => true
  | .regRead _ => true
  | .regWrite _ => true
  | .copy _ => true
  | .fill _ => true
  | .map _ => true
  | .unmap _ => true
  | .mark _ => true
  | .ptPool _ => true
  | .redSet _ => true
  | .mcgSet _ => true
  | .bias _ => true
  | .launch _ => true
  | .launchComplete _ => true
  | .stop _ => true
  | .launchStatus _ => true
  | .raise _ => true
  | .syncAdv _ => true
  | .syncRead _ => true
  | .syncSet _ => true
  | .syncAttr _ => true
  | .syncWait _ => true
  | .syncWaitTimeout _ _ => true
  | .barCfg _ => true
  | .barArrive _ => true
  | .configStage _ => true
  | .configCommit _ => true
  | .configStatus _ => true
  | .setImmediate _ => true
  | .fenceCmd _ => true
  | .unfence _ => true
  | .fenceStatus _ => true
  | .fwStage _ => true
  | .fwActivate _ => true
  | .fwStatus _ => true
  | .fwRestart _ => true
  | .svnCommit _ => true
  | .jnlRead _ => true
  | .jnlState _ => true
  | .jnlResetPolicy _ => true
  | .rplRecordStart _ => true
  | .rplRecordStop _ => true
  | .rplStatus _ => true
  | .rplReplayStart _ => true
  | .rplReplayStop _ => true
  | .rplMark _ => true
  | .getVersion => true
  | .getCapabilities _ => true
  | .negotiateAlgorithms _ _ _ _ => true
  | .getDigests => true
  | .getCertificate _ _ _ => true
  | .challenge _ _ => true
  | .getMeasurements _ _ _ => true
  | .keyExchange _ _ => true
  | .finish _ _ => true
  | .spdmHeartbeat _ => true
  | .keyUpdate _ => true
  | .endSession _ => true
  | .doeDiscovery _ _ => true
  | .cdatRead _ => true
  | .mbxDataWrite _ off data => decide (0 < data.length) && decide (off.toNat + data.length ≤ 8192)
  | .mbxH2fSend _ _ _ => true
  | .mbxF2hSend _ _ _ => true
  | .mbxH2fRelease _ _ => true
  | .mbxF2hRelease _ _ => true
  | .fwReady _ => true
  | .mbxCntClr _ => true
  | .mbxHostDbSet _ _ => true
  | .mbxFwDbSet _ _ => true
  | .dbMaskWrite _ _ _ => true
  | .vinRise => true
  | .vinFall => true
  | .modRstAssert => true
  | .overcurrent => true
  | .overvoltage => true
  | .overtempShutdown cause => decide (cause.toNat < 3)
  | .shutdownHoldExpire => true
  | .startupStepPass _ _ => true
  | .startupTryFail _ _ _ => true
  | .step1RetryTimer => true
  | .linkRetrainTimer => true
  | .d2dFlitCrcFail _ _ => true
  | .d2dRetrainDone _ _ _ => true
  | .modLogHeadWrite _ => true
  | .modLogBaseWrite _ => true
  | .modErrCntClr => true
  | .resetReq _ => true
  | .jnlClear _ => true
  | .sbFlashDataRead => true
  | .alertResponse _ => true
  | .tapReset => true
  | .extest _ _ _ => true
  | .samplePreload _ _ _ => true
  | .idcode _ => true
  | .usercode _ => true
  | .highz _ => true
  | .clamp _ => true
  | .extestPulse _ _ _ => true
  | .extestTrain _ _ _ => true
  | .bypass _ _ => true
  | .ccdbg _ _ _ _ => true
  | .registerWrite a _ _ => decide (a.toNat % 4 = 0)
  | .modRstDeassert => true
  | .flrDone => true
  | .atsTranslationCompletion _ _ _ _ => true
  | .foreignFrame port => anyPort port
  | .badFcsFrame port => anyPort port
  | .linkRetry _ _ => true
  | .linkDown port => anyPort port
  | .overvoltageRelease => true
  | .fwStageDone _ => true

end Sys2Proof
end

