-- ==== Sys2Proof/Tests/Slice0.lean ====
section
/-!
SUPPORT. Sys2Proof/Tests/Slice0.lean: the model's own tests: ill-formed commands refused, words of the instruction set, single steps
with results worked out by hand from the spec, and for each statement a state that meets its hypotheses.
-/
namespace Sys2Proof.Tests
open Sys2Proof.Machine
-- one theorem at a time: kernel evaluations side by side take much memory
set_option Elab.async false

/-! ### Ill-formed commands (WellFormed) -/

/-- A frame of one byte. -/
def frame : Frame := ⟨0, 0, 0, 0, 0, 0, 0, 0, 0, 0, 0, 0, 0, [0]⟩
/-- Telemetry of no regions. -/
def noRegions : Telemetry := ⟨0, 0, 0, 0, 0, 0, [], [], []⟩

theorem test_wf_word : (Instr.add 0 0x0040000000000000).wf = false ∧ (Instr.add 0 0).wf = true := by decide
theorem test_wf_csr : (Instr.vflagsAccess 0 0).wf = false ∧ (Instr.vflagsAccess 0 0xF000000000000000).wf = true := by decide
theorem test_wf_array : (Instr.mtxWritePhase 0 3).wf = false ∧ (Instr.mtxWritePhase 0 2).wf = true := by decide
theorem test_wf_ticket_table : (Instr.arbTicketWrite 0 5 0 0).wf = false ∧ (Instr.arbTicketWrite 0 4 0 0).wf = true := by decide
theorem test_wf_instance : (Instr.arbSeedWrite 0 277 0).wf = false ∧ (Instr.arbSeedWrite 0 276 0).wf = true := by decide
theorem test_wf_draw_instance : (Instr.lineRequest 0 [⟨0, 277, []⟩]).wf = false ∧ (Instr.lineRequest 0 [⟨0, 276, []⟩]).wf = true := by decide
theorem test_wf_draw_twice : (Instr.lineRequest 0 [⟨0, 0, [(1, 0), (1, 0)]⟩]).wf = false := by decide
theorem test_wf_scrub : (Instr.patrolScrub 0 3 0).wf = false ∧ (Instr.patrolScrub 0 2 0).wf = true := by decide
theorem test_wf_write_empty : (Instr.writePacket 0 [] 0).wf = false := by decide
theorem test_wf_write_line : (Instr.writePacket 255 [0, 0] 0).wf = false ∧ (Instr.writePacket 255 [0] 0).wf = true := by decide
theorem test_wf_pri_code : (Instr.priResponse 0 0 3).wf = false ∧ (Instr.priResponse 0 0 2).wf = true := by decide
theorem test_wf_fabric_port : (Instr.rs 24 frame).wf = false ∧ (Instr.rs 23 frame).wf = true := by decide
theorem test_wf_twin_port : (Instr.hello 23 frame 0).wf = false ∧ (Instr.hello 28 frame 0).wf = false ∧ (Instr.hello 24 frame 0).wf = true := by decide
theorem test_wf_any_port : (Instr.ack 28 frame).wf = false ∧ (Instr.ack 27 frame).wf = true := by decide
theorem test_wf_payload : (Instr.rs 0 { frame with data := List.replicate 4097 0 }).wf = false := by decide +kernel
theorem test_wf_telemetry : (Instr.firmwareTick noRegions).wf = false ∧
    (Instr.firmwareTick { noRegions with regions := List.replicate 16 0 }).wf = true := by decide
theorem test_wf_function : (Instr.funcTransitionDone 44 true).wf = false ∧ (Instr.funcTransitionDone 43 true).wf = true := by decide
theorem test_wf_host_read : (Instr.hostMemRead 0 3 0).wf = false ∧ (Instr.hostMemRead 0 2 0).wf = true := by decide
theorem test_wf_host_line : (Instr.hostMemWrite 32 (List.replicate 64 0)).wf = false ∧ (Instr.hostMemWrite 0 [0]).wf = false ∧
    (Instr.hostMemWrite 64 (List.replicate 64 0)).wf = true := by decide

/-! ### States -/

/-- Core 0 runs a program whose word at issue is `w`; g1 is 7, g2 is 2^64 − 1. -/
def core (w : Word) : CoreSt :=
  { run := .running, ibuf := some w, g := ((Vector.replicate 32 0).set 1 7).set 2 (BitVec.allOnes 64) }
/-- The module after reset with core 0 as `C` has it. -/
def withCore (C : CoreSt) : State := State.reset.setCore 0 C
/-- Core 0 at issue of `w`. -/
def at_ (w : Word) : State := withCore (core w)
/-- The module with the rails on, at step 13, the host link up. -/
def ready : State := { State.reset with sys := { rails := true, step := 13 }, host := { linkUp := true } }
/-- The word with which a row's command issues: class, opcode and function in their places, every other field 0. -/
def wordFor (key : Nat) : Word :=
  BitVec.ofNat 64 (key / 0x1000 * 2 ^ 60 + key % 0x1000 / 16 * (if key / 0x1000 = 0 then 2 ^ 54 else 2 ^ 56) + key % 16 * 2 ^ 38)
/-- An instruction in flight. -/
def flight (w : Word) : Flight := { seq := 0, w := w, pc := 0 }
/-- What a step answers, where it is a next state. -/
def after (o : Host.Outcome State Fault Refusal) : Option State :=
  match o with
  | .next t => some t
  | _ => none

/-- `State.CanIssue` as a Bool. -/
def canIssue (s : State) (c : CoreId) (w : Word) (key : Nat) : Bool :=
  s.atIssue c w && listed w && ikey w == key && !illegalFields w (s.inHandler c) && !s.stalls c w

/-- `canIssue` is `State.CanIssue`. -/
theorem canIssue_sound {s : State} {c : CoreId} {w : Word} {key : Nat} (h : canIssue s c w key = true) : s.CanIssue c w key := by
  simp only [canIssue, Bool.and_eq_true, beq_iff_eq, Bool.not_eq_true'] at h
  exact ⟨h.1.1.1.1, h.1.1.1.2, h.1.1.2, h.1.2, h.2⟩

/-- Core 0 of `at_ w` has nothing in flight and no seed write that waits. -/
theorem quiet (w : Word) : (at_ w).Quiet 0 :=
  have h : (at_ w).core 0 = core w := State.core_setCore_same ..
  have e : ∀ i : Fin 3, ((Vector.replicate 3 ({} : ArrSt)).get i).seedWait = [] := by decide +kernel
  ⟨by rw [h]; rfl, fun a => by rw [h]; exact e _⟩

/-! ### Instructions: witnesses and single steps -/

/-- Every instruction row has a state and a word with which it issues; ERET does so in an interrupt handler. -/
theorem test_meets_issue : ∀ p ∈ coreRows, p.key = 0xF080 ∨ canIssue (at_ (wordFor p.key)) 0 (wordFor p.key) p.key = true := by decide +kernel
theorem test_meets_eret : canIssue ((at_ 0xF800000000000000).setFld (COR_IPEND 0) COR_IPEND.INHANDLER 1) 0 0xF800000000000000 0xF080 = true := by
  decide +kernel
theorem test_meets_quiet : (at_ 0).Quiet 0 ∧ (at_ 0).CanIssue 0 0 0 := ⟨quiet 0, canIssue_sound (by decide +kernel)⟩
/-- R164: an opcode of class 0 that no chapter lists. -/
theorem test_meets_illegal : (at_ 0x0380000000000000).atIssue 0 0x0380000000000000 = true ∧ listed 0x0380000000000000 = false := by decide +kernel
/-- R164: array 3 of an MMUL. -/
theorem test_meets_illegal_field : listed 0x40C0000000000000 = true ∧ illegalFields 0x40C0000000000000 false = true := by decide +kernel
/-- R182: an ADD that reads a g register which a load in flight will write. -/
theorem test_meets_stall :
    (withCore { core 0x0000100000000000 with fl := [flight 0x2008000000000000] }).stalls 0 0x0000100000000000 = true := by decide +kernel

/-- R165: ADDI g3, g2, 1 wraps: 2^64 − 1 + 1 = 0. Word: RD 3 at 53:49, RA 2 at 48:44, I at 38, IMM 1. -/
theorem test_addi_wraps : (after (exec (.add 0 0x0006204000000001) (at_ 0x0006204000000001))).map (fun t => ((t.core 0).rg 3, (t.core 0).pc)) =
    some (0, 8) := by decide +kernel
/-- R165: a write to g0 is discarded: ADDI g0, g1, 1. -/
theorem test_add_g0 : (after (exec (.add 0 0x0000104000000001) (at_ 0x0000104000000001))).map (fun t => (t.core 0).rg 0) = some 0 := by
  decide +kernel
/-- R165: SRAI g3, g2, 4 keeps the sign: −1 >> 4 = −1. -/
theorem test_srai_sign : (after (exec (.sra 0 0x01C6204000000004) (at_ 0x01C6204000000004))).map (fun t => (t.core 0).rg 3) =
    some (BitVec.allOnes 64) := by decide +kernel
/-- R165: DIVU by zero gives all ones: DIVU g3, g1, g0. -/
theorem test_divu_zero : (after (exec (.divu 0 0x0486100000000000) (at_ 0x0486100000000000))).map (fun t => (t.core 0).rg 3) =
    some (BitVec.allOnes 64) := by decide +kernel
/-- R166: BNE g1, g0 backwards by one instruction from PC 0 wraps in 64 bits. Word: RA 1 at 55:51, OFF −1. -/
theorem test_bne_back : (after (exec (.bne 0 0x11080000FFFFFFFF) (at_ 0x11080000FFFFFFFF))).map (fun t => (t.core 0).pc) =
    some (2 ^ 64 - 8) := by decide +kernel
/-- R166: JAL links PC + 8 into g4. Word: RD 4 at 45:41, OFF 2. -/
theorem test_jal_link : (after (exec (.jal 0 0x1800080000000002) (at_ 0x1800080000000002))).map (fun t => ((t.core 0).rg 4, (t.core 0).pc)) =
    some (8, 16) := by decide +kernel
/-- R185: HALT ends issue. -/
theorem test_halt : (after (exec (.halt 0 0xF900000000000000) (at_ 0xF900000000000000))).map (fun t => (t.core 0).run) = some .halting := by
  decide +kernel
/-- R164: an opcode that is not listed stops the program. -/
theorem test_illegal_stops : (after (exec (.add 0 0x0380000000000000) (at_ 0x0380000000000000))).map (fun t => (t.core 0).run) = some .stopped := by
  decide +kernel

/-- A core whose translation buffer maps its own scratch at 0x10000 with every permission; g1 is the address. -/
def mapped (w : Word) : CoreSt :=
  { core w with tlb := [⟨0x10000, 0x10000, 0x110000000000, true, true, true⟩], g := ((Vector.replicate 32 0).set 1 0x10008).set 2 0x1234 }
/-- R168: ST16 g2, 0(g1) writes two bytes. Word: RD 2 at 55:51, RA 1 at 50:46. -/
theorem test_st16 : (after (exec (.st16 0 0x2910400000000000) (withCore (mapped 0x2910400000000000)))).map
    (fun t => t.rdMem 0x110000000007 4) = some [0, 0x34, 0x12, 0] := by decide +kernel
theorem test_meets_store : canIssue (withCore (mapped 0x2910400000000000)) 0 0x2910400000000000 0x2090 = true ∧
    (withCore (mapped 0x2910400000000000)).storeOk 0 0x110000000008 = true := by decide +kernel
theorem test_meets_load : canIssue (withCore (mapped 0x2010400000000000)) 0 0x2010400000000000 0x2000 = true ∧
    (withCore (mapped 0x2010400000000000)).place 0x110000000008 = .window 0 8 := by decide +kernel
/-- R167: LD8S g3, 0(g1) of 0x80 gives −128. Word: RD 3, RA 1. -/
theorem test_ld8s : (after (exec (.ld8s 0 0x2418400000000000)
    ((withCore (mapped 0x2418400000000000)).putMem 0x110000000008 [0x80]))).map (fun t => (t.core 0).rg 3) = some (-128) := by decide +kernel
/-- R57: SWAP of array 1 exchanges its sets. Word: ARR 1 at 55:54. -/
theorem test_meets_swap : canIssue (at_ 0x7140000000000000) 0 0x7140000000000000 0x7010 = true ∧ (((at_ 0x7140000000000000).core 0).array 1).load = none ∧
    (((at_ 0x7140000000000000).core 0).array 1).lent = false := by decide +kernel
theorem test_meets_interrupt :
    (let s := ((withCore (core 0)).setFld (COR_IPEND 0) COR_IPEND.FW 1).setFld (COR_IEN 0) COR_IEN.FW 1
     s.canInterrupt 0 = true ∧ s.clocked 0 = true ∧ (s.core 0).parked = false) := by
  decide +kernel

/-! ### States that meet the statements' hypotheses: cores -/

/-- R181: CSRR and CSRW of COR_VFLAGS (register 2 of the block at 0x200, say) find nothing to wait for with nothing in flight. -/
theorem test_meets_csr : (at_ 0xF000000000000000).csrWaits 0 0xF000000000000000 = false ∧
    (at_ 0xF100000000000000).csrWaits 0 0xF100000000000000 = false := by decide +kernel
/-- The word of a CSRR of COR_VFLAGS. -/
def vflagsWord : Word := BitVec.ofNat 64 (0xF * 2 ^ 60 + (COR_VFLAGS 0 - COR_ID 0) / 8 * 2 ^ 35)
theorem test_meets_vflags : canIssue (at_ vflagsWord) 0 vflagsWord 0xF000 = true ∧ (at_ vflagsWord).csrWaits 0 vflagsWord = false ∧
    COR_ID (0 : CoreId).toNat + vflagsWord.toNat / 2 ^ 35 % 2 ^ 11 * 8 = COR_VFLAGS 0 := by decide +kernel
/-- R178: a DMAST of an idle core issues into the DMA queue. -/
theorem test_meets_dmast : canIssue (at_ (wordFor 0x8010)) 0 (wordFor 0x8010) 0x8010 = true := by decide +kernel
/-- An MMUL of array 0 whose sums are formed. -/
def summed : CoreSt := { core 0 with fl := [{ flight 0x4000000000000000 with ph := .summed }] }
theorem test_meets_write : summed.fl.find? (fun g => isMtx g.w && iarr g.w == 0) = some { flight 0x4000000000000000 with ph := .summed } ∧
    summed.mayWrite 0 0 = true := by decide +kernel
/-- An array of core 0 with an instruction of the class-7 opcode `op` begun. -/
def running (op : Nat) (A : ArrSt) : CoreSt :=
  { core 0 with fl := [{ flight (BitVec.ofNat 64 (0x7 * 2 ^ 60 + op * 2 ^ 56)) with ph := .run }], arr := (Vector.replicate 3 {}).set 0 A }
theorem test_meets_array : (withCore (running 0 { load := some ⟨Fmt.e4m3, 1, 1, [0], none⟩ })).running 0 0 0 ≠ none ∧
    (withCore (running 1 {})).running 0 0 1 ≠ none ∧ (withCore (running 2 { switching := some true })).running 0 0 2 ≠ none ∧
    (withCore summed).clocked 0 = true := by decide +kernel
/-- A tile store of tile 0 whose rows are written. -/
theorem test_meets_tile_end : let f := { flight 0x3200000000000000 with ph := .run }
    (iclass f.w == 3 && isStore f.w == true && f.w.extractLsb' 51 5 == 0 && f.ph == .run && f.complete) = true := by decide +kernel
/-- MAND at the head of the vector queue. -/
theorem test_meets_vector_end : let f := flight (wordFor 0x6080)
    let C := { core 0 with fl := [f] }
    C.fl.find? (fun g => unitOf g.w == .vec && !g.gone) = some f ∧ (tileReads f.w).all (C.mayRead f.seq) = true ∧
    (tileWrites f.w).all (C.mayWrite f.seq) = true ∧ C.masksOk f.seq f.w = true ∧ C.scalesOk f.seq f.w = true := by decide +kernel
/-- A core that fetches from a region marked STREAM-RO: entry 0 from 0x1000_0000_0000. -/
def fetching : State :=
  ((withCore { core 0 with ibuf := none, tlb := [⟨0, 0x10000, 0x100000000000, true, false, true⟩] }).wr (MEM_RGN_BASE 0 0)
    0x8400100000000000).wr (MEM_RGN_LIMIT 0 0) 0x0000100000000000
theorem test_meets_fetch : ((fetching.core 0).tlb.find? (fun e => decide (e.va ≤ 0) && decide (0 < e.va + e.size))).isSome = true ∧
    (fetching.core 0).cached 0x100000000000 = none ∧ fetching.fetchOk 0 0x100000000000 = true := by decide +kernel
theorem test_meets_fault : let s := (at_ 0).setFld (COR_TFAULT_INFO 0 0) COR_TFAULT_INFO.VALID 1
    COR_TFAULT_INFO.VALID.get (s.rd (COR_TFAULT_INFO 0 0)) = 1 ∧ COR_TFAULT_INFO.FATAL.get (s.rd (COR_TFAULT_INFO 0 0)) = 0 ∧
    (s.core 0).run = .running := by decide +kernel
theorem test_meets_core_writes : State.reset.recording = false ∧ (State.reset.core 0).fold = none ∧
    ((withCore { core 0 with fold := some (1, []) }).core 0).fold = some (1, []) := by decide +kernel

/-! ### Lines, DMA, memory, rings, mesh -/

/-- A core whose fetch wants a line of bonded SRAM, with numbers of miss registers, all of one line, and parking entries taken. -/
def wanting (miss park line : Nat) : State :=
  withCore { core 0 with fetchWant := some 0x100000000000, miss := List.replicate miss line, park := List.range park }
theorem test_meets_line : (let s := wanting 47 0 0;
      s.clocked 0 = true ∧ (s.core 0).wanted = some 0x100000000000 ∧
      s.heldAgainst 0 (s.targetOf 0x100000000000) < s.fld (CLU_SORT_CTL 0) CLU_SORT_CTL.QUOTA) ∧
    (let s := (wanting 47 0 0x100000000100).setFld (CLU_SORT_CTL 0) CLU_SORT_CTL.QUOTA 47;
      s.fld (CLU_SORT_CTL 0) CLU_SORT_CTL.QUOTA ≤ s.heldAgainst 0 (s.targetOf 0x100000000000) ∧ (s.core 0).wanted = some 0x100000000000) ∧
    (State.reset.core 0).wanted = none := by decide +kernel
/-- A sorter with one line of bonded SRAM, waiting or sent. -/
def sorting (sent : Bool) : State :=
  State.reset.setSorter 0 { entries := [{ line := 0x100000000000, target := .bank 0, cores := [0], sent := sent, adm := sent }] }
theorem test_meets_sorter : (let s := ((sorting true).sendFree 0).runDraws [];
      ∀ e ∈ (s.sorter 0).entries, e.line = 0x100000000000 ∧ s.mayRespond e (s.lineAt 0x100000000000) = true) ∧
    (∀ e ∈ ((sorting false).sorter 0).entries, e.line = 0x100000000000 ∧ e.sent = false) ∧
    ((((sorting true).sendFree 0).runDraws []).sorter 0).entries ≠ [] := by decide +kernel
/-- A COPY of 64 bytes for a host command. -/
def copy : DmaSt := { tag := 0, gen := 0, owner := .cmd 0, op := 1, flags := 0, cls := 0, len := 64, src := 0, dst := 64, rows := 0,
                      sstride := 0, dstride := 0, obj := 0, amt := 0 }
/-- A block of it in flight. -/
def copyBlk : DmaBlk := { id := 0, src := 0, dst := 64, n := 64 }
/-- Die 0 with a DMA that waits, or that runs. -/
def dmaState (wait : Bool) (m : DmaSt) : State := State.reset.modDie 0 fun D => if wait then { D with dmaWait := [m] } else { D with dmas := [m] }
theorem test_meets_dma_accept : (∀ j, j < 256 → ((dmaState true copy).core (BitVec.ofNat 10 j)).dmaqReady = none) ∧
    ((dmaState true copy).die 0).dmaWait = [copy] ∧ (dmaState true copy).tagsFree 0 ≠ 0 := by decide +kernel
/-- A core whose DMAQ has read its descriptor, at a die with no tag free. -/
def tagless : State :=
  (withCore { core 0 with fl := [{ flight 0x8000000000000000 with ph := .run, segs := [{ row := 0, off := 0, len := 64, pa := 0, data := some ([], false) }] }] }).modDie
    0 fun D => { D with dmas := [{ copy with blks := List.replicate 8192 copyBlk }] }
theorem test_meets_tag_wait : ((tagless.core 0).dmaqReady.map (·.tagWait)) = some false ∧ tagless.tagsFree 0 = 0 := by decide +kernel
theorem test_meets_dma_block : let m : DmaSt := { copy with blks := [copyBlk] }
    ((dmaState false m).runDraws []).dmaOf 0 0 = some m ∧ m.blks[0]? = some copyBlk ∧ m.ph = .running ∧ m.overlap = false := by decide +kernel
theorem test_meets_dma_complete : (dmaState false { copy with ph := .settling }).dmaOf 0 0 = some { copy with ph := .settling } := by decide +kernel
/-- Die 0 with a fault to service, in a range mapped on demand or not. -/
theorem test_meets_service : let s := State.reset.modDie 0 fun D => { D with faults := [(.dma 0, 0x1000)] }
    (s.die 0).faults = [(.dma 0, 0x1000)] ∧ s.mapped 0 0x1000 = false ∧ s.demandMap 0x1000 = none := by decide +kernel
theorem test_meets_step_open : State.reset.openOn 0 = false ∧ (State.reset.setFld (MEM_STEP 0) MEM_STEP.OPEN 1).openOn 0 = true ∧
    MEM_STEP.OPEN.get (MEM_STEP.OPEN.put 0 1) = 1 := by decide +kernel
/-- A write of the last byte of the first line of bonded SRAM. -/
theorem test_meets_write_packet : 0x1000000000FF % 256 + [(0 : Byte)].length ≤ 256 ∧ State.reset.dmaPlace 0x1000000000FF 1 = true ∧
    State.reset.heldForRead 0x1000000000FF = false ∧ State.reset.paced (State.reset.writerEp 0 0x1000000000FF) 2 = false := by decide +kernel
theorem test_meets_scrub : (State.reset.tierOf 0x100000000000).1 ≠ 0 ∧ (State.reset.tierOf 0x100000000000).1 ≠ 5 ∧
    State.reset.bit MOD_LOG_BASE MOD_LOG_BASE.EN = false := by decide +kernel
/-- A ring that runs with a block in flight, and a notice under way. -/
def streaming : State :=
  { State.reset.setRing 0 0 { running := true, blks := [{ id := 0, n := 0, pa := 0x1000 }] } with
      noc := { notices := [⟨0, 0x1000, 0, 0⟩, ⟨0, 0x1000, 1, 0⟩] } }
theorem test_meets_ring : (State.reset.ring 0 0).running = false ∧ (streaming.ring 0 0).running = true ∧ (streaming.ring 0 0).blks[0]? ≠ none ∧
    streaming.noticeBehind 0 ⟨0, 0x1000, 0, 0⟩ = false ∧ streaming.noticeBehind 1 ⟨0, 0x1000, 1, 0⟩ = true ∧ (streaming.die 0).lines = [] := by
  decide +kernel
/-- A reduction packet at core 1's router, an acknowledgement at its endpoint, a multicast line for core 0. -/
def mesh : NocSt :=
  let p : RedPkt := { id := 0, line := 0x100000000000, count := 1, vals := List.replicate 64 0, poison := 0, srcs := [0], pos := 1 }
  { comb := [(1, [p])], reds := [p], atEnd := [p, { p with kind := .ack 0 0 0 false }], done := [(0, 0)]
    mcs := [{ die := 0, tag := 0, gen := 0, from_ := 0, off := 0, data := [(1, false)], left := [0] }] }
theorem test_meets_mesh : mesh.reds[0]? ≠ none ∧ (mesh.comb.get (fun _ => []) 1)[0]? ≠ none ∧ (mesh.atEnd[0]?).map (·.kind) = some .sum ∧
    (mesh.atEnd[1]?).map (·.kind) = some (.ack 0 0 0 false) ∧ mesh.done[0]? ≠ none ∧ (mesh.mcs[0]?).map (·.left) = some [0] ∧
    State.reset.fenced 0 = false ∧ 1 ≤ State.reset.scratch 0 := by
  decide +kernel
theorem test_meets_pacer : (532 : BitVec 10).toNat < 533 ∧ ∀ e, (State.reset.die e).dmas = [] := by decide +kernel
/-- A parked core for which a register write waits. -/
def newt : State := withCore { core 0 with parked := true, inq := [.reg 0 0] }
theorem test_meets_fence : State.reset.fenced 0 = false ∧ (newt.core 0).parked = true ∧ newt.clocked 0 = true ∧ (newt.core 0).inq ≠ [] ∧
    (State.reset.setFld (NOC_RT_CTL 0 0) NOC_RT_CTL.FENCE 1).fenced 0 = true ∧ State.reset.enabled 0 = true := by decide +kernel

/-! ### Sync objects, translation -/

/-- An advance under way and its answer. -/
def adv : Adv := ⟨.core 0, 0, 1⟩
theorem test_meets_advance : State.advReady { State.reset with sync := { advs := [(1, adv)] } } 0 = some adv ∧
    SYN_ATTR.PV.get (State.reset.rd (attrReg 0)) = 0 ∧ (State.reset.slice (homeOf 0).1).held = [] ∧ State.reset.replaying = false ∧
    State.advReady { State.reset with sync := { advs := [(2, adv)], acks := [(1, adv, .held)] } } 0 = none ∧
    State.reset.advBehind 0 ⟨.reg, 0, 0⟩ = false ∧ State.advBehind { State.reset with sync := { advs := [(1, ⟨.cmd 0, 0, 1⟩)] } } 1 ⟨.reg, 0, 0⟩ = true := by
  decide +kernel
/-- An answer, the only one under way, that may reach core 0. -/
theorem test_meets_answer : let s : State := { withCore (core 0) with sync := { acks := [(1, adv, .applied 1)], retryAdv := [adv] } }
    s.rspBehind 1 0 (s.srcEp (.core 0)) = false ∧ s.answerGoes adv (.applied 1) = true ∧ s.fenced 0 = false ∧ s.sync.retryAdv[0]? = some adv := by
  decide +kernel
/-- A watch of somebody, on object 0, that GE holds for values of `v` or more. -/
def watch (v : Word) (who : Watcher) : WatchMsg := ⟨who, 0, 0, 0, v⟩
/-- It under way as a registration and as a fire message, core 0's slot 0 and the control complex's live. -/
def watching (v : Word) (who : Watcher) : State :=
  { withCore { core 0 with watch := (Vector.replicate 16 {}).set 0 { live := true } } with
      sync := { regs := [(1, watch v who)], fires := [(1, watch v who)], cc := [(0, { cmd := some 0 })] } }
theorem test_meets_watch : let s := watching 0 (.core 0 0)
    ((0 : Word).toNat ≤ (s.objVal 0).toNat ∧ ¬ (1 : Word).toNat ≤ (s.objVal 0).toNat) ∧ s.reqBehind 1 (coreEp 0) 0 = false ∧
    s.sync.fires[0]? = some (1, watch 0 (.core 0 0)) ∧ s.rspBehind 1 0 (coreEp 0) = false ∧ s.fireGoes (watch 0 (.core 0 0)) = true ∧
    s.awake 0 = true ∧ (s.core 0).inq = [] ∧ ((s.core 0).slotAt 0).live = true ∧ (s.core 0).wait = none ∧
    ((watching 0 (.cc 0 0)).sync.cc.get (fun _ => {}) 0).cmd = some 0 ∧ (watching 0 (.cc 0 0)).rspBehind 1 0 (ccEp 0) = false ∧
    newt.awake 0 = false ∧ newt.railOff 0 = false := by decide +kernel
/-- PV 1 with a partner homed in another slice. -/
theorem test_meets_attr : ∃ v : Word, SYN_ATTR.PV.get v = 1 ∧ (homeOf (BitVec.ofNat 18 (SYN_ATTR.PARTNER.get v))).1 ≠ (homeOf 0).1 :=
  ⟨SYN_ATTR.PARTNER.put (SYN_ATTR.PV.put 0 1) 4096, by decide +kernel⟩
/-- Line 0 of die 0 with core 0 as its one participant, arrived. -/
def arrivedBar : State :=
  let s := withCore (core 0) |>.wr (SYN_BAR_MASK 0 0 0) 1
  { s with sync := { s.sync with bars := [(0, { arrived := 1 })] } }
theorem test_meets_barrier : arrivedBar.barScope 0 0 = 0 ∧ arrivedBar.barDie 0 0 = true ∧ arrivedBar.barReal 0 0 = true ∧ (arrivedBar.bar 0 0).cmds = [] ∧
    (arrivedBar.bar 0 0).arrived ≠ 0 ∧ (State.reset.bar 0 0).arrived = 0 ∧ (State.reset.barDie 0 0 = false ∨ State.reset.barReal 0 0 = false) := by
  decide +kernel
/-- Line 0 of system scope holds another member's arrival. -/
theorem test_meets_barrier_late : let s : State := { State.reset.setFld (SYN_BAR_CFG 0 0) SYN_BAR_CFG.SCOPE 2 with sync := { sys := [(0, { got := [(0, 0, 0)] })] } }
    s.barScope 0 0 = 2 ∧ (s.sysBar 0).got.any (fun x => x.2.2 == s.barEpisode 0 0) = true ∧ (s.bar 0 0).arrived = 0 := by decide +kernel
/-- Region 0, whose core 0 alone runs and waits at a barrier, with EN 1. -/
theorem test_meets_lendable : let s := (withCore { core 0 with wait := some (.barr 0 false), waitBegan := true }).setFld (SYN_LEND_CTL 0 0) SYN_LEND_CTL.EN 1
    (s.regionWaiting 0 && s.bit (SYN_LEND_CTL 0 0) SYN_LEND_CTL.EN) = true := by decide +kernel
theorem test_meets_ats : let s := State.reset.modDie 0 fun D => { D with atsWait := [0x1000] }
    (s.die 0).atsWait.contains 0x1000 = true ∧ s.inUse [(0, 4096)] = false := by decide +kernel
theorem test_meets_pri : ({ State.reset with host := { priSent := [0x1000] } } : State).priSend.host.priSent.contains (0 * 2 ^ 48 + 0x1000) = true := by
  decide +kernel

/-! ### Host commands, replies -/

/-- The module ready, ring 0 on with one packet whose first bytes are `bs`, its slots and those of completion ring 0 in bonded SRAM. -/
def commanded (bs : List Byte) : State :=
  ((((((ready.wr (CMD_SQ_BASE 0) 0x100000000000).setFld (CMD_SQ_CFG 0) CMD_SQ_CFG.EN 1).wr (CMD_CQ_BASE 0) 0x100000001000).setFld
    (CMD_CQ_CFG 0) CMD_CQ_CFG.EN 1).wr (CMD_SQ_TAIL 0) 1)).putMem 0x100000000000 bs
/-- Whether the packet at ring 0's head is next, of an opcode and a version. -/
def isNext (s : State) (op version : Nat) : Bool :=
  match s.nextRing with
  | some (r, ⟨some k, _⟩) => r == 0 && pkOp k == op && pkVersion k == version
  | _ => false
theorem test_meets_command : isNext (commanded [0x01, 2]) 0x01 2 = true ∧ (commanded [0x01, 2]).logHead = none ∧
    ((commanded [0x01, 2]).bit MOD_ERR_STATUS MOD_ERR_STATUS.FATAL = false ∧ (commanded [0x01, 2]).twin ≠ 5) := by decide +kernel
theorem test_meets_command_refused : isNext ((commanded [0x10, 2]).setFld MOD_ERR_STATUS MOD_ERR_STATUS.FATAL 1) 0x10 2 = true ∧
    fatalOps.contains 0x10 = false ∧ isNext (commanded [0xF7, 2]) 0xF7 2 = true ∧ assigned.contains 0xF7 = false ∧
    ready.nextRing = none := by decide +kernel
theorem test_meets_forerunner : isNext (commanded [0x01, 1]) 0x01 1 = true ∧ (commanded [0x01, 1]).logHead = none := by decide +kernel
theorem test_meets_reply : (commanded []).cqOf 0 = 0 ∧ (commanded []).cqFull 0 = false ∧ (commanded []).host.held.get (fun _ => []) 0 = [] := by
  decide +kernel
/-- R436: NOP of ring 0 is consumed and answered OK, its reply's TAG the packet's. -/
theorem test_nop_replied : (after (exec (.nop 0) (commanded [0x00, 2, 0x34, 0x12]))).map
    (fun t => (t.fld (CMD_SQ_HEAD 0) CMD_SQ_HEAD.INDEX, t.rdMem 0x100000001000 4, t.fld (CMD_CQ_TAIL 0) CMD_CQ_TAIL.INDEX)) =
    some (1, [0x34, 0x12, 0, 0x80], 1) := by decide +kernel

/-! ### Update engine, fabric, twin -/

/-- A layer of engine 0, of rule 1. -/
def layer : Layer := ⟨1, 0, 0, 0, 0, 0, 0, 1, 1, 0, 0, 0, 0, 0, 0, 0, 0, 0, 0, 0, 0, 0, 0, 0, 0, 0, 0⟩
/-- A step in its update phase `ph`, engine 0 in state `st`. -/
def updating (ph st : Nat) (U : UpdSt) : State :=
  { (ready.setFld UPD_PHASE UPD_PHASE.PHASE ph).setFld (UPD_STATUS 0) UPD_STATUS.STATE st with
      upd := { U with plan := some ⟨0, 0, 0, 0, 0, 0, 0, 0, 0, 0, 0, [layer], []⟩ } }
theorem test_meets_pass_a : ((updating 1 1 {}).nextA 0).isSome = true ∧ (updating 1 1 {}).phase ≠ 0 ∧ (updating 1 1 {}).engNow 0 = 1 ∧
    (updating 1 1 {}).gradReady 0 layer = true ∧ (updating 1 1 {}).rclocked 0 = true ∧ (updating 1 2 {}).engNow 0 = 2 := by decide +kernel
theorem test_meets_norm : let s := updating 2 0 { lays := [(0, { aDone := true })] }
    s.phase = 2 ∧ s.allA = true ∧ s.upd.sent = false := by decide +kernel
theorem test_meets_commit : let U : UpdSt := { lays := [(0, { aDone := true, bDone := true })], known := true }
    (updating 2 0 U).canCommit = true ∧ (updating 2 0 { U with late := true }).canCommit = false ∧ (updating 2 0 U).allB = true ∧
    (updating 1 0 U).canCommit = false := by decide +kernel
/-- Port 0 UP, and a group whose rank 0 is the module of MAC base 0x1000, with a path to it. -/
def meshed (p : PathSt) : State :=
  { ready.setLink 0 2 with fab := { paths := [p], groups := [(0, some { fanin := 2, alt := false, rank := 1, members := [⟨0x1000, 0, 0, 0, 0⟩], cinit := 1 })] } }
/-- A frame from it, with a PSN. -/
def from1 (psn : BitVec 32) : Frame := { frame with psn := psn, src := 0x1000 }
theorem test_meets_fabric : let s := meshed { port := 0, mac := 0x1000, rOpen := true, expect := 5 }
    s.portUp 0 = true ∧ s.knownPeer 0 (from1 5) = true ∧ (s.receive 0 (from1 5) true).2 = true ∧ (s.receive 0 (from1 6) true).2 = false ∧
    (s.receive 0 (from1 5) false).2 = true ∧ s.knownPeer 0 frame = false ∧ ready.portUp 0 = false ∧ psnBefore 6 5 = false := by decide +kernel
theorem test_meets_path : let s := meshed { port := 0, mac := 0x1000, opening := true, psn := 5 }
    (s.path 0 0x1000).opening = true ∧ (s.path 0 0x1000).rOpen = false ∧ (s.receive 0 (from1 5) false).2 = true := by decide +kernel
/-- A port trained with priority flow control on its PCP 3, and one that a pause holds. -/
theorem test_meets_pause : let cfg : Word := BitVec.ofNat 64 (FAB_PORT_CFG.PFC.put (FAB_PORT_CFG.PCP.put 0 3) 1).toNat
    let s : State := { ready.setLink 0 2 with fab := { portCfg := [(0, cfg)], paused := [0] } }
    s.portLink 0 = 2 ∧ FAB_PORT_CFG.PFC.get (s.fab.portCfg.get (fun _ => 0) 0) = 1 ∧ FAB_PORT_CFG.PCP.get (s.fab.portCfg.get (fun _ => 0) 0) = 3 ∧
    s.fab.paused.contains 0 = true := by decide +kernel
theorem test_meets_timers : (let s := meshed { port := 0, mac := 0x1000, since := 1, unacked := [⟨1, frame, false⟩] }
    (s.timerPath 0 0x1000).since ≠ 0 ∧ (s.timerPath 0 0x1000).down = false ∧ (s.timerPath 0 0x1000).unacked ≠ [] ∧
      s.portUp (s.timerPath 0 0x1000).port = true) ∧
    ((meshed { port := 0, mac := 0x1000, down := true }).timerPath 0 0x1000).down = true ∧ (ready.setLink 0 1).portLink 0 = 1 := by decide +kernel
/-- A channel with a reduce-scatter of no segments that can begin. -/
theorem test_meets_channel : let s := meshed { port := 0, mac := 0x1000 }
    let R : Red := { rsn := 0, kind := 0, entry := 0, root := 0, nseg := 0 }
    let s := s.setChan 0 { group := 0, planes := 1, rbuf := 0, rblen := 0, bkbuf := 0, bklen := 0, cls := 0, credit := 1, reds := [R] }
    (s.chan 0).isSome = true ∧ (s.group 0).isSome = true ∧ R.soft = false := by decide +kernel
/-- D0T UP with its path open. -/
def twinned (st : Nat) (T : TwnSt) : State :=
  { (ready.setLink 24 2).setTwin st with fab := { paths := [{ port := 24, mac := 0, isOpen := true, rOpen := true }] }, twn := T }
theorem test_meets_twin : (twinned 0 {}).portUp 24 = true ∧ ((twinned 0 {}).receive 24 frame true).2 = true ∧
    (twinned 0 {}).twinPorts.contains 24 = true ∧ (twinned 1 {}).twin = 1 ∧ (twinned 2 {}).twin = 2 ∧ (twinned 2 {}).phase = 0 := by decide +kernel

/-! ### Power, the ends of commands -/

theorem test_meets_power : ready.fwRuns = true ∧ State.reset.fwRuns = false ∧ ready.sys.vin = true ∧ (1680 : BitVec 16).toInt = 105 * 16 ∧
    (1679 : BitVec 16).toInt < 105 * 16 := by decide +kernel
theorem test_meets_moves : let s : State := { ready with pwr := { rgns := [(0, { moves := [⟨true, 3, true⟩] })], funcs := [(16, { st := 2, queue := [(0, false)] })] } }
    (s.rp 0).moves = [⟨true, 3, true⟩] ∧ (s.func 16).queue = [(0, false)] ∧ (s.func 16).st = 2 ∧ s.sys.rails = true ∧
      s.rbit 0 PWR_RGN_STATE.TRIPPED = false := by decide +kernel
/-- A launch on core 0. -/
def launch0 (ph : LaunchPh) : Launch :=
  { id := 0, cmd := some 0, entry := 0, argv := [], perCore := false, cores := [0], prio := 0, profile := 0, minpt := 0, maxpt := 0, lines := 0,
    tpat := [], ph := ph }
/-- Commands in flight: a self-test of core 1 and a wait with a time limit. -/
def busy : State :=
  { ready with
    host := { linkUp := true, cmds := [{ id := 1, ring := 0, pkt := 1 <<< 192, seq := 0, data := [testMark, 0, 1] }] }
    sync := { cc := [(0, { cmd := some 1 })] }
    sys := { rails := true, step := 13, stage := some 1 } }
theorem test_meets_ends : ready.launchOver (launch0 .running) = true ∧ ready.launchOver (launch0 .queued) = false ∧
    (busy.host.cmds.find? (fun x => x.data.head? == some testMark && (x.data.drop 2).contains 1)).isSome = true ∧
    (busy.ccSlot 0 0).cmd = some 1 ∧ (busy.cmd 1).isSome = true ∧ pk ((1 : Packet) <<< 192) 24 4 ≠ 0 := by decide +kernel

/-! ### The host link, the board, start-up, test access, attestation, mailboxes -/

theorem test_meets_link : let s : State := { State.reset with sys := { rails := true, step := 10, linkTry := true } }
    (s.sys.vin = true ∧ s.host.linkUp = false ∧ s.sys.perst = false) ∧ ready.host.linkUp = true ∧ ready.host.flr = false ∧ ready.host.launches = [] ∧
    ready.sys.linkRetry = false ∧ (ready.setFld MOD_LINK_STATUS MOD_LINK_STATUS.MODE 3).fld MOD_LINK_STATUS MOD_LINK_STATUS.MODE ≠ 0 := by
  decide +kernel
theorem test_meets_host_memory : let s := ready.setFld MOD_LINK_STATUS MOD_LINK_STATUS.MODE 3
    s.memReach 0 = true ∧ s.paced cxlEp 1 = false ∧ s.paced (s.tierEp 0) 5 = false ∧ s.paced cxlEp (writeFlits 64) = false ∧ s.poisoned 0 64 = false ∧ s.heldForRead 0 = false ∧ s.isLate 63 = false ∧ ready.memReach 0 = false := by decide +kernel
theorem test_meets_coalescing : let s := { ready.setFld (CMD_CQ_CFG 0) CMD_CQ_CFG.COAL_US 1 with host := { coal := [(0, 1)] } }
    s.host.coal.get (fun _ => 0) 0 ≠ 0 ∧ s.fld (CMD_CQ_CFG 0) CMD_CQ_CFG.COAL_US ≠ 0 := by decide +kernel
theorem test_meets_board : State.reset.sys.vin = true ∧ State.reset.sys.hold = false ∧ (d2dLink 0 false).1 ∉ ready.log.d2dTrain ∧
    MOD_SB_FLASH_ADDR.ADDR.get (State.reset.rd MOD_SB_FLASH_ADDR) * 4 < 0x10000 := by decide +kernel
/-- A start at a step. -/
def at_step (k : Nat) : State := { State.reset with sys := { rails := decide (1 < k), step := k, noBond := true } }
theorem test_meets_start : (∀ k ∈ [1, 2, 4, 5, 6, 9, 12], (at_step k).starting = true ∧ (at_step k).sys.step = k ∧ (at_step k).mayPass = true) ∧
    (let s : State := { at_step 10 with host := { linkUp := true } }; s.starting = true ∧ s.sys.step = 10 ∧ s.mayPass = true) := by decide +kernel
theorem test_meets_scan : let s : State := { State.reset with sys := { rails := true, scanHeld := true } }
    s.sys.rails = true ∧ s.sys.scanHeld = true ∧ ready.sys.scanHeld = false := by decide +kernel
theorem test_meets_attestation : ready.responds = true ∧ State.reset.responds = false ∧
    ready.bit SEC_STATUS SEC_STATUS.CHAIN_BAD = false ∧ ready.sys.sessions.length < 4 := by decide +kernel
theorem test_meets_mailbox : ready.mbxFull true 0 = false ∧ (ready.setFld (mbxSend true 0) MBX_H2F_SEND.OWNER 1).mbxFull true 0 = true ∧
    ready.mbxDown false = false ∧ ready.mbxDown true = true ∧ (ready.setFld MBX_STATUS MBX_STATUS.FW_RESET 0).mbxDown true = false := by decide +kernel
/-- R461: the first send of a mailbox, LEN 257 clamped, with doorbell 31. -/
theorem test_send_clamped : let v := MBX_H2F_SEND.LEN.put (MBX_H2F_SEND.DB.put 0 31) 257
    (after (exec (.mbxF2hSend false 0 v) ready)).map (fun t => (t.fld (mbxSend false 0) MBX_H2F_SEND.LEN, t.bit MBX_STATUS MBX_STATUS.DBERR, t.mbxFull false 0)) =
    some (256, true, true) := by decide +kernel
theorem test_meets_register : (regAt MOD_LINK_CTL).isSome = true ∧ regAt 0 = none ∧
    (∀ r, regAt MOD_LINK_CTL = some r → ∀ f ∈ r.flds, f.lo + f.len ≤ 64 ∧ f.cmin < 2 ^ f.len) := by
  refine ⟨by decide +kernel, by decide +kernel, fun r h => ?_⟩
  have e : regAt MOD_LINK_CTL = some ((regAt MOD_LINK_CTL).getD ⟨0, [], []⟩) := by decide +kernel
  rw [e] at h
  cases h
  decide +kernel
theorem test_meets_canon : State.reset.Canon := by constructor <;> decide +kernel

end Sys2Proof.Tests
end

section
/-!
PROOF. A register's word after a plain write, field by field (R10, R11).
-/
namespace Sys2Proof

/-! ### A word put together from its fields -/

/-- The bits a row of a register table speaks of. -/
abbrev FRow.fld (f : FRow) : Fld := ⟨f.lo, f.len⟩

/-- The fields of two rows share no bit. -/
abbrev FRow.Apart (f g : FRow) : Prop := f.lo + f.len ≤ g.lo ∨ g.lo + g.len ≤ f.lo

/-- A word with every field of a list of rows put, in order. -/
def FRow.putAll (g : FRow → Nat) (l : List FRow) (w : Word) : Word := l.foldl (fun w f => f.fld.put w (g f)) w

/-- A bit of a field's value is the word's bit at its place. -/
theorem Fld.testBit_get_of_lt (f : Fld) (w : Word) {i : Nat} (hi : i < f.len) : (f.get w).testBit i = w.getLsbD (f.lo + i) := by
  rw [Fld.get_testBit, decide_eq_true hi, Bool.true_and, BitVec.testBit_toNat]

/-- Putting a field that holds 0 adds its value at its place. -/
theorem Fld.put_eq_add (f : Fld) (w : Word) (v : Nat) (h : f.get w = 0) :
    f.put w v = w + BitVec.ofNat 64 (v % 2 ^ f.len * 2 ^ f.lo) := by
  have parts : w.toNat % 2 ^ f.lo + w.toNat / 2 ^ (f.lo + f.len) * 2 ^ (f.lo + f.len) = w.toNat := by
    unfold Fld.get at h
    have hhi : w.toNat / 2 ^ f.lo = 2 ^ f.len * (w.toNat / 2 ^ (f.lo + f.len)) := by
      rw [pow_add, ← Nat.div_div_eq_div_mul]
      exact (Nat.mul_div_cancel' (Nat.dvd_of_mod_eq_zero h)).symm
    calc w.toNat % 2 ^ f.lo + w.toNat / 2 ^ (f.lo + f.len) * 2 ^ (f.lo + f.len)
        = w.toNat % 2 ^ f.lo + 2 ^ f.lo * (w.toNat / 2 ^ f.lo) := by rw [hhi, pow_add]; ring
      _ = w.toNat := Nat.mod_add_div ..
  apply BitVec.eq_of_toNat_eq
  rw [BitVec.toNat_add, BitVec.toNat_ofNat, Nat.add_mod_mod]
  unfold Fld.put
  rw [BitVec.toNat_ofNat, Nat.add_right_comm, parts]

/-- A field apart from all that are put keeps its value. -/
theorem FRow.get_putAll_other (g : FRow → Nat) (F : Fld) (l : List FRow) (w : Word) (hfit : ∀ f ∈ l, f.lo + f.len ≤ 64)
    (hF : ∀ f ∈ l, F.lo + F.len ≤ f.lo ∨ f.lo + f.len ≤ F.lo) : F.get (FRow.putAll g l w) = F.get w := by
  induction l generalizing w with
  | nil => rfl
  | cons f l ih =>
    rw [List.forall_mem_cons] at hfit hF
    calc F.get (FRow.putAll g l (f.fld.put w (g f)))
        = F.get (f.fld.put w (g f)) := ih _ hfit.2 hF.2
      _ = F.get w := Fld.get_put_other _ _ _ _ hfit.1 hF.1

/-- A field of the list reads what was put there, modulo its width. -/
theorem FRow.get_putAll (g : FRow → Nat) (l : List FRow) (w : Word) (hfit : ∀ f ∈ l, f.lo + f.len ≤ 64) (hpw : l.Pairwise FRow.Apart)
    {f : FRow} (hf : f ∈ l) : f.fld.get (FRow.putAll g l w) = g f % 2 ^ f.len := by
  induction l generalizing w with
  | nil => cases hf
  | cons x l ih =>
    rw [List.forall_mem_cons] at hfit
    obtain ⟨hx, hpw⟩ := List.pairwise_cons.mp hpw
    rcases List.mem_cons.mp hf with rfl | hf
    · calc f.fld.get (FRow.putAll g l (f.fld.put w (g f)))
          = f.fld.get (f.fld.put w (g f)) := FRow.get_putAll_other g f.fld l _ hfit.2 hx
        _ = g f % 2 ^ f.len := Fld.get_put _ _ _ hfit.1
    · exact ih _ hfit.2 hpw hf

/-- The sum of the values of disjoint fields, each at its place, is the word with those fields put. -/
theorem FRow.sum_eq_putAll (g : FRow → Nat) (l : List FRow) (a : Nat) (hfit : ∀ f ∈ l, f.lo + f.len ≤ 64) (hpw : l.Pairwise FRow.Apart)
    (ha : ∀ f ∈ l, f.fld.get (BitVec.ofNat 64 a) = 0) :
    BitVec.ofNat 64 (l.foldl (fun a f => a + g f % 2 ^ f.len * 2 ^ f.lo) a) = FRow.putAll g l (BitVec.ofNat 64 a) := by
  induction l generalizing a with
  | nil => rfl
  | cons x l ih =>
    rw [List.forall_mem_cons] at hfit ha
    obtain ⟨hx, hpw⟩ := List.pairwise_cons.mp hpw
    have hput : BitVec.ofNat 64 (a + g x % 2 ^ x.len * 2 ^ x.lo) = x.fld.put (BitVec.ofNat 64 a) (g x) := by
      rw [Fld.put_eq_add _ _ _ ha.1, BitVec.ofNat_add]
    show BitVec.ofNat 64 (l.foldl _ (a + g x % 2 ^ x.len * 2 ^ x.lo)) = FRow.putAll g l (x.fld.put _ (g x))
    rw [← hput]
    refine ih _ hfit.2 hpw fun f hf => ?_
    rw [hput, Fld.get_put_other _ _ _ _ hfit.1 (hx f hf).symm, ha.2 f hf]

end Sys2Proof

namespace Sys2Proof.Machine

/-! ### The register after a write -/

/-- The number with bit `i` set for each `i` below `n` that passes a test, as `fieldAfter` puts the W1C and W1S fields together. -/
def sumBits (p : Nat → Prop) [DecidablePred p] (n : Nat) : Nat := (List.range n).foldl (fun a i => if p i then a + 2 ^ i else a) 0

theorem sumBits_succ (p : Nat → Prop) [DecidablePred p] (n : Nat) :
    sumBits p (n + 1) = 2 ^ n * (decide (p n)).toNat + sumBits p n := by
  unfold sumBits
  rw [List.range_succ, List.foldl_append, List.foldl_cons, List.foldl_nil]
  by_cases h : p n
  · simp [h, Nat.add_comm]
  · simp [h]

theorem sumBits_lt (p : Nat → Prop) [DecidablePred p] (n : Nat) : sumBits p n < 2 ^ n := by
  induction n with
  | zero => simp [sumBits]
  | succ n ih =>
    have := Nat.mul_le_mul_left (2 ^ n) (Bool.toNat_le (decide (p n)))
    rw [sumBits_succ, pow_succ]
    omega

theorem testBit_sumBits (p : Nat → Prop) [DecidablePred p] (n j : Nat) : (sumBits p n).testBit j = decide (j < n ∧ p j) := by
  induction n with
  | zero => simp [sumBits]
  | succ n ih =>
    rw [sumBits_succ, Nat.testBit_two_pow_mul_add _ (sumBits_lt p n), ih]
    rcases Nat.lt_trichotomy j n with h | rfl | h
    · simp [h, Nat.lt_succ_of_lt h]
    · by_cases hp : p j <;> simp [hp]
    · have hz : (decide (p n)).toNat.testBit (j - n) = false := by
        rw [Nat.testBit_bool_toNat, decide_eq_false (by omega), Bool.false_and]
      simp [hz, show ¬ j < n by omega, show ¬ j < n + 1 by omega]

/-- What a write leaves in a W1C field. -/
theorem testBit_fieldAfter_w1c {f : FRow} (h : f.acc = .w1c) (old v : Word) {i : Nat} (hi : i < f.len) :
    (fieldAfter f old.toNat v.toNat).testBit i = (old.getLsbD (f.lo + i) && !v.getLsbD (f.lo + i)) := by
  have e : fieldAfter f old.toNat v.toNat = sumBits (fun i => f.fld.get old / 2 ^ i % 2 = 1 ∧ f.fld.get v / 2 ^ i % 2 = 0) f.len := by
    simp only [fieldAfter, h]; rfl
  rw [e, testBit_sumBits, ← Fld.testBit_get_of_lt f.fld old hi, ← Fld.testBit_get_of_lt f.fld v hi, Nat.testBit_eq_decide_div_mod_eq,
    Nat.testBit_eq_decide_div_mod_eq, Bool.eq_iff_iff]
  simp [hi]

/-- What a write leaves in a W1S field. -/
theorem testBit_fieldAfter_w1s {f : FRow} (h : f.acc = .w1s) (old v : Word) {i : Nat} (hi : i < f.len) :
    (fieldAfter f old.toNat v.toNat).testBit i = (old.getLsbD (f.lo + i) || v.getLsbD (f.lo + i)) := by
  have e : fieldAfter f old.toNat v.toNat = sumBits (fun i => f.fld.get old / 2 ^ i % 2 = 1 ∨ f.fld.get v / 2 ^ i % 2 = 1) f.len := by
    simp only [fieldAfter, h]; rfl
  rw [e, testBit_sumBits, ← Fld.testBit_get_of_lt f.fld old hi, ← Fld.testBit_get_of_lt f.fld v hi, Nat.testBit_eq_decide_div_mod_eq,
    Nat.testBit_eq_decide_div_mod_eq, Bool.eq_iff_iff]
  simp [hi]

section
variable {r : RegRow} (hfit : ∀ f ∈ r.flds, f.lo + f.len ≤ 64) (hpw : r.flds.Pairwise FRow.Apart) (old v : Word)
include hfit hpw

/-- The word a write leaves is its fields put one by one. -/
theorem regAfter_eq_putAll : regAfter r old v = FRow.putAll (fun f => fieldAfter f old.toNat v.toNat) r.flds 0 :=
  FRow.sum_eq_putAll _ _ 0 hfit hpw fun f _ => by simp [Fld.get]

/-- A field after a write. -/
theorem get_regAfter {f : FRow} (hf : f ∈ r.flds) :
    f.fld.get (regAfter r old v) = fieldAfter f old.toNat v.toNat % 2 ^ f.len := by
  rw [regAfter_eq_putAll hfit hpw, FRow.get_putAll _ _ _ hfit hpw hf]

/-- An RW field takes the value, clamped. -/
theorem get_regAfter_rw {f : FRow} (hf : f ∈ r.flds) (hacc : f.acc = .rw) (hmin : f.cmin < 2 ^ f.len) :
    f.fld.get (regAfter r old v) = max f.cmin (min f.cmax (f.fld.get v)) := by
  have e : fieldAfter f old.toNat v.toNat = max f.cmin (min f.cmax (f.fld.get v)) := by simp only [fieldAfter, hacc]; rfl
  have hlt : f.fld.get v < 2 ^ f.len := Nat.mod_lt _ (Nat.two_pow_pos _)
  rw [get_regAfter hfit hpw old v hf, e, Nat.mod_eq_of_lt (by omega)]

/-- An RO field stays. -/
theorem get_regAfter_ro {f : FRow} (hf : f ∈ r.flds) (hacc : f.acc = .ro) : f.fld.get (regAfter r old v) = f.fld.get old := by
  have e : fieldAfter f old.toNat v.toNat = f.fld.get old := by simp only [fieldAfter, hacc]; rfl
  rw [get_regAfter hfit hpw old v hf, e, Fld.get, Nat.mod_mod]

/-- A WO field holds 0. -/
theorem get_regAfter_wo {f : FRow} (hf : f ∈ r.flds) (hacc : f.acc = .wo) : f.fld.get (regAfter r old v) = 0 := by
  have e : fieldAfter f old.toNat v.toNat = 0 := by simp only [fieldAfter, hacc]
  rw [get_regAfter hfit hpw old v hf, e, Nat.zero_mod]

/-- A bit of a field after a write. -/
theorem getLsbD_regAfter {f : FRow} (hf : f ∈ r.flds) {i : Nat} (hi : i < f.len) :
    (regAfter r old v).getLsbD (f.lo + i) = (fieldAfter f old.toNat v.toNat).testBit i := by
  rw [← Fld.testBit_get_of_lt f.fld _ hi, get_regAfter hfit hpw old v hf, Nat.testBit_mod_two_pow, decide_eq_true hi, Bool.true_and]

/-- A reserved bit reads 0 after a write. -/
theorem getLsbD_regAfter_reserved {i : Nat} (hi : ∀ f ∈ r.flds, i < f.lo ∨ f.lo + f.len ≤ i) : (regAfter r old v).getLsbD i = false := by
  let bit : Fld := ⟨i, 1⟩
  have h : bit.get (regAfter r old v) = bit.get 0 := by
    rw [regAfter_eq_putAll hfit hpw, FRow.get_putAll_other _ bit _ _ hfit hi]
  rw [← Nat.add_zero i, ← Fld.testBit_get_of_lt bit _ Nat.zero_lt_one, h, Fld.testBit_get_of_lt bit _ Nat.zero_lt_one]
  exact BitVec.getLsbD_zero
end

/-- A plain write where a register is. -/
theorem State.plainWrite_of_regAt {a : Nat} {r : RegRow} (h : regAt a = some r) (v : Word) (s : State) :
    s.plainWrite a v = s.wr a (regAfter r (s.rd a) v) := by
  simp only [State.plainWrite, h]

/-- A plain write where no register is. -/
theorem State.plainWrite_of_regAt_none {a : Nat} (h : regAt a = none) (v : Word) (s : State) : s.plainWrite a v = s := by
  simp only [State.plainWrite, h]

/-- Settles O59: the register's word after the write is its fields put one by one, and each access type says what is put. -/
theorem registerWrites : Obligations.RegisterWrites := by
  unfold Obligations.RegisterWrites
  refine fun a v s => ⟨fun h => State.plainWrite_of_regAt_none h v s, fun r hr hflds hpw => ?_⟩
  have hfit : ∀ f ∈ r.flds, f.lo + f.len ≤ 64 := fun f hf => (hflds f hf).1
  rw [State.plainWrite_of_regAt hr]
  simp only [State.fld, State.rd_wr_same]
  refine ⟨fun f hf => ⟨fun h => ?_, fun h => ?_, fun h => ?_, fun h i hi => ?_, fun h i hi => ?_⟩, fun i hi => ?_,
    fun b hb => State.rd_wr_other _ _ hb, rfl⟩
  · exact get_regAfter_rw hfit hpw _ _ hf h (hflds f hf).2
  · exact get_regAfter_ro hfit hpw _ _ hf h
  · exact get_regAfter_wo hfit hpw _ _ hf h
  · rw [getLsbD_regAfter hfit hpw _ _ hf hi, testBit_fieldAfter_w1c h _ _ hi]
  · rw [getLsbD_regAfter hfit hpw _ _ hf hi, testBit_fieldAfter_w1s h _ _ hi]
  · exact getLsbD_regAfter_reserved hfit hpw _ _ hi

end Sys2Proof.Machine
end

section
/-!
PROOF. What the host's accesses over CXL.mem and its register writes do (R422 to R436, R493, R500).
-/
namespace Sys2Proof.Machine

/-! ### Operations that leave memory, its poison and the cores alone -/

/-- Memory, its poison and the cores are the same in two states. -/
structure State.SameData (s t : State) : Prop where
  mem : t.mem = s.mem
  poison : t.poison = s.poison
  cores : t.cores = s.cores

namespace State.SameData

theorem refl (s : State) : s.SameData s := ⟨rfl, rfl, rfl⟩

theorem trans {s t u : State} (h : s.SameData t) (k : t.SameData u) : s.SameData u :=
  ⟨k.mem.trans h.mem, k.poison.trans h.poison, k.cores.trans h.cores⟩

theorem poisoned {s t : State} (h : s.SameData t) (a n : Nat) : t.poisoned a n = s.poisoned a n := by
  unfold State.poisoned
  rw [h.poison]

theorem rdMem {s t : State} (h : s.SameData t) (a n : Nat) : t.rdMem a n = s.rdMem a n := by
  unfold State.rdMem
  rw [h.mem]

theorem core {s t : State} (h : s.SameData t) (c : CoreId) : t.core c = s.core c := by
  unfold State.core
  rw [h.cores]

theorem putMem {s t : State} (h : s.SameData t) (a : Nat) (bs : List Byte) : (s.putMem a bs).SameData (t.putMem a bs) := by
  refine ⟨?_, ?_, h.cores⟩
  · show t.mem.setRun memZero a bs = s.mem.setRun memZero a bs
    rw [h.mem]
  · unfold State.putMem
    dsimp only
    rw [h.poison]

end State.SameData

theorem State.bump_sameData (s : State) (a n : Nat) : s.SameData (s.bump a n) := ⟨rfl, rfl, rfl⟩
theorem State.emit_sameData (s : State) (o : Out) : s.SameData (s.emit o) := ⟨rfl, rfl, rfl⟩
theorem State.modHost_sameData (s : State) (f : HostSt → HostSt) : s.SameData (s.modHost f) := ⟨rfl, rfl, rfl⟩

theorem State.flits_sameData (s : State) (c d : CoreId) (out n : Nat) : s.SameData (s.flits c d out n) := by
  have go : ∀ k s c, State.SameData s (State.flits.go d out n k s c) := by
    intro k
    induction k with
    | zero => exact fun s _ => .refl s
    | succ k ih =>
      intro s c
      unfold State.flits.go
      split
      · exact (State.bump_sameData ..).trans (ih _ _)
      · exact State.bump_sameData ..
  exact go 64 s c

theorem State.spend_sameData (s : State) (e : Ep) (n : Nat) : s.SameData (s.spend e n) := by
  unfold State.spend
  dsimp only
  split <;> exact ⟨rfl, rfl, rfl⟩

theorem State.send_sameData (s : State) (e e' : Ep) (n : Nat) : s.SameData (s.send e e' n) := by
  unfold State.send
  split
  · exact .refl s
  · exact (s.spend_sameData e n).trans (State.flits_sameData ..)

theorem State.ctrl_sameData (s : State) (e e' : Ep) : s.SameData (s.ctrl e e') := by
  unfold State.ctrl
  split
  · exact .refl s
  · exact State.flits_sameData ..

theorem State.biasFlip_sameData (s : State) (a : Nat) : s.SameData (s.biasFlip a) := by
  unfold State.biasFlip
  split
  · exact (State.modHost_sameData ..).trans (State.bump_sameData ..)
  · exact .refl s

theorem State.filterAdd_sameData (s : State) (a : Nat) : s.SameData (s.filterAdd a) := by
  unfold State.filterAdd
  dsimp only
  split
  · exact .refl s
  · split <;> exact ⟨rfl, rfl, rfl⟩

theorem State.received_sameData (s : State) (a who : Nat) : s.SameData (s.received a who) := by
  unfold State.received
  split
  · exact ⟨rfl, rfl, rfl⟩
  · exact .refl s

/-! ### CXL.mem reads and writes (R425) -/

/-- The state in which a host read is answered: its flits have crossed the mesh and its page is in host bias. -/
def State.readSent (s : State) (a : Nat) : State :=
  ((s.send cxlEp (s.tierEp a) 1).send (s.tierEp a) cxlEp 5).biasFlip a

theorem State.readSent_sameData (s : State) (a : Nat) : s.SameData (s.readSent a) :=
  ((State.send_sameData ..).trans (State.send_sameData ..)).trans (State.biasFlip_sameData ..)

/-- The same after the report that a poisoned line makes (R232). -/
def State.readUsed (s : State) (a : Nat) : State :=
  if s.poisoned a 64 then (s.readSent a).poisonUse a 5 0 else s.readSent a

/-- A host read out of reach or out of tokens does nothing. -/
theorem State.hostRead_refused {s : State} {addr : Nat} (found sym : Nat)
    (h : s.memReach (addr / 64 * 64) = false ∨ s.paced cxlEp 1 = true ∨ s.paced (s.tierEp (addr / 64 * 64)) 5 = true) :
    s.hostRead addr found sym = s := by
  unfold State.hostRead
  exact if_pos (by simpa using h)

/-- A host read in whose first codeword no error is found. -/
theorem State.hostRead_served {s : State} {addr a : Nat} (sym : Nat) (ha : addr / 64 * 64 = a) (hreach : s.memReach a = true)
    (hcxl : s.paced cxlEp 1 = false) (htier : s.paced (s.tierEp a) 5 = false) :
    s.hostRead addr 0 sym = ((s.readUsed a).filterAdd a).emit
      (.host 6 ((if s.poisoned a 64 then 1 else 0) :: ((s.readUsed a).rdMem a 64).map (·.toNat))) := by
  subst ha
  unfold State.hostRead State.readUsed
  dsimp only
  rw [if_neg (by simp [hreach, hcxl, htier]), ← (s.readSent_sameData (addr / 64 * 64)).poisoned]
  rfl

/-- A host read of a line without poison. -/
theorem State.hostRead_clean {s : State} {addr a : Nat} (sym : Nat) (ha : addr / 64 * 64 = a) (hreach : s.memReach a = true)
    (hcxl : s.paced cxlEp 1 = false) (htier : s.paced (s.tierEp a) 5 = false) (hp : s.poisoned a 64 = false) :
    s.hostRead addr 0 sym = ((s.readSent a).filterAdd a).emit (.host 6 (0 :: (s.rdMem a 64).map (·.toNat))) := by
  have hused : s.readUsed a = s.readSent a := if_neg (Bool.eq_false_iff.mp hp)
  rw [State.hostRead_served sym ha hreach hcxl htier, hused, (s.readSent_sameData a).rdMem, hp]
  rfl

/-- A host read of a line with poison: indicated, after its report. -/
theorem State.hostRead_poisoned {s : State} {addr a : Nat} (sym : Nat) (ha : addr / 64 * 64 = a) (hreach : s.memReach a = true)
    (hcxl : s.paced cxlEp 1 = false) (htier : s.paced (s.tierEp a) 5 = false) (hp : s.poisoned a 64 = true) :
    s.hostRead addr 0 sym = ((s.readUsed a).filterAdd a).emit (.host 6 (1 :: ((s.readUsed a).rdMem a 64).map (·.toNat))) := by
  rw [State.hostRead_served sym ha hreach hcxl htier, if_pos hp]

/-- A host write that spans lines, lies out of reach, or waits does nothing. -/
theorem State.hostWrite_refused {s : State} {a : Nat} {bs : List Byte}
    (h : bs = [] ∨ 64 < a % 64 + bs.length ∨ s.memReach a = false ∨ s.heldForRead (a / 4096 * 4096) = true ∨
      s.paced cxlEp (writeFlits bs.length) = true) : s.hostWrite a bs = s := by
  unfold State.hostWrite
  exact if_pos (by simpa using h)

/-- A host write that is served leaves memory, poison and the cores as its bytes put do. -/
theorem State.hostWrite_sameData {s : State} {a : Nat} {bs : List Byte} (hne : bs ≠ []) (hline : a % 64 + bs.length ≤ 64)
    (hreach : s.memReach a = true) (hheld : s.heldForRead (a / 4096 * 4096) = false)
    (hpace : s.paced cxlEp (writeFlits bs.length) = false) : (s.putMem a bs).SameData (s.hostWrite a bs) := by
  unfold State.hostWrite
  dsimp only
  rw [if_neg (by simp [hne, hreach, hheld, hpace]; omega)]
  have sent := (State.send_sameData s cxlEp (s.tierEp a) (writeFlits bs.length)).trans (State.biasFlip_sameData _ a)
  exact (((sent.putMem a bs).trans (State.received_sameData ..)).trans (State.ctrl_sameData ..)).trans (State.emit_sameData ..)

/-! ### Registers the host writes (R423, R432, R433, R435) -/

/-- The place a write comes from matters for the cores' registers alone. -/
theorem State.writeReg_place (s : State) {a : Nat} (v : Word) (e e' : Ep) (ha : 0x120100000000 ≤ a) :
    s.writeReg a v e = s.writeReg a v e' := by
  have hcore : ¬ a < 0x120100000000 := by omega
  unfold State.writeReg
  simp only [if_neg hcore]

/-- A register of the CMD_ block is in the host's reach and is written with all it does. -/
theorem State.byHost_cmd {s : State} (hup : s.host.linkUp = true) {a : Nat} (v : Word) (h₀ : 0x120c00000000 ≤ a) (h₁ : a < 0x120c00100000) :
    s.byHost a v = s.writeReg a v := by
  have hreach : s.hostReach a = true := by simp [State.hostReach, h₀, h₁]
  have hbar : ¬ 2 ^ 53 ≤ a := by omega
  have hmbx : ¬ (0x120e00000000 ≤ a ∧ a < 0x120e00010000) := by omega
  unfold State.byHost State.writeBy
  dsimp only
  rw [hup, hreach, if_neg (by decide), if_neg hbar, if_neg (by decide), if_neg hmbx]
  exact s.writeReg_place v _ _ (by omega)

/-- With the link down the host writes nothing. -/
theorem State.writeBy_host_down {s : State} (hdown : s.host.linkUp = false) (a : Nat) (v : Word) : s.writeBy a v .host = s := by
  simp [State.writeBy, hdown]

/-! ### The log's registers (R493, R500) -/

/-- MOD_LOG_HEAD's row of the register tables (R500). -/
def rowLogHead : RegRow := ⟨0xa0, [], [⟨0, 32, .rw, 0, 0, 2 ^ 64 - 1⟩]⟩
/-- MOD_LOG_BASE's row of the register tables (R500). -/
def rowLogBase : RegRow := ⟨0x90, [], [⟨63, 1, .rw, 0, 0, 2 ^ 64 - 1⟩, ⟨12, 40, .rw, 0, 0, 2 ^ 64 - 1⟩, ⟨0, 4, .rw, 4, 0, 14⟩]⟩

theorem regAt_logHead : regAt MOD_LOG_HEAD = some rowLogHead := by decide +kernel
theorem regAt_logBase : regAt MOD_LOG_BASE = some rowLogBase := by decide +kernel

/-- A write of MOD_LOG_HEAD stores INDEX, its low 32 bits. -/
theorem State.plainWrite_logHead (s : State) (v : Word) : s.plainWrite MOD_LOG_HEAD v = s.wr MOD_LOG_HEAD (v &&& 0xFFFFFFFF) := by
  rw [State.plainWrite_of_regAt regAt_logHead]
  have low : (v &&& 0xFFFFFFFF).toNat = v.toNat % 2 ^ 32 := by
    rw [BitVec.toNat_and]
    exact Nat.and_two_pow_sub_one_eq_mod _ 32
  congr 1
  apply BitVec.eq_of_toNat_eq
  rw [low]
  simp [regAfter, fieldAfter, rowLogHead]
  omega

/-- A write of MOD_LOG_BASE with EN 0 empties the ring and puts no record into it. -/
theorem State.logBase_disabled {v : Word} (s : State) (h : MOD_LOG_BASE.EN.get v = 0) :
    s.logBase v = ((s.plainWrite MOD_LOG_BASE v).wr MOD_LOG_HEAD 0).wr MOD_LOG_TAIL 0 := by
  have hEN : (((s.plainWrite MOD_LOG_BASE v).wr MOD_LOG_HEAD 0).wr MOD_LOG_TAIL 0).bit MOD_LOG_BASE MOD_LOG_BASE.EN = false := by
    rw [State.plainWrite_of_regAt regAt_logBase, State.bit, State.fld, State.rd_wr_other _ _ (by decide),
      State.rd_wr_other _ _ (by decide), State.rd_wr_same]
    have hget := get_regAfter_rw (r := rowLogBase) (by decide) (by decide) (s.rd MOD_LOG_BASE) v (f := ⟨63, 1, .rw, 0, 0, 2 ^ 64 - 1⟩)
      (by decide) rfl (by decide)
    rw [show MOD_LOG_BASE.EN = (⟨63, 1⟩ : Fld) from rfl] at h ⊢
    simp [hget, h]
  unfold State.logBase
  exact if_neg (Bool.eq_false_iff.mp hEN)

/-! ### The statement -/

/-- Equal states are equal answers. -/
theorem next_congr {s t : State} (h : s = t) : Host.Outcome.next (φ := Fault) (ρ := Refusal) s = .next t := congrArg _ h

/-- Settles O51: reads and writes of memory by what their operations leave alone, register writes by the host's reach. -/
theorem hostAccess : Obligations.HostAccess := by
  unfold Obligations.HostAccess
  intro a data found sym r cq w1 reg v s line
  refine ⟨fun h => next_congr (State.hostRead_refused _ _ (.inl h)), fun h => next_congr (State.hostRead_refused _ _ (.inr h)),
    fun hreach hcxl htier hp => ?clean, fun hreach hcxl htier hp => ?poisoned, fun h => next_congr (State.hostWrite_refused h),
    fun hne hline hreach hheld hpace _ => ?written, fun hdown => ?down, fun hup => ?up, rfl, rfl, next_congr (s.plainWrite_logHead v),
    fun hEN => ?logBase, fun h => next_congr (if_pos h), fun hcnt hus => next_congr (if_neg (not_or.mpr ⟨hcnt, hus⟩))⟩
  case clean =>
    have kept := ((s.readSent_sameData line).trans (State.filterAdd_sameData _ line)).trans
      (State.emit_sameData _ (.host 6 (0 :: (s.rdMem line 64).map (·.toNat))))
    exact ⟨_, next_congr (State.hostRead_clean _ rfl hreach hcxl htier hp), List.getLast?_concat, kept.mem, kept.poison, kept.cores⟩
  case poisoned =>
    exact ⟨_, _, next_congr (State.hostRead_poisoned _ rfl hreach hcxl htier hp), List.getLast?_concat⟩
  case written =>
    have kept := State.hostWrite_sameData hne hline hreach hheld hpace
    refine ⟨_, rfl, (kept.rdMem ..).trans (s.rdMem_putMem a.toNat data), fun x hx => ?_, kept.core⟩
    rw [kept.mem, State.byte_putMem, dif_neg (by omega)]
  case down =>
    have down (a : Nat) := next_congr (State.writeBy_host_down hdown a v)
    exact ⟨down _, down _, down _, down _, down _⟩
  case up =>
    have up {a : Nat} (h₀ : 0x120c00000000 ≤ a) (h₁ : a < 0x120c00100000) := next_congr (State.byHost_cmd hup v h₀ h₁)
    have hr : r.toNat < 64 := r.isLt
    have hwin : (if w1 then 1 else 0) ≤ 1 := by split <;> decide
    refine ⟨up ?_ ?_, up ?_ ?_, up (a := CMD_CQ_CFG r.toNat) ?_ ?_, up (a := CMD_SQ_CFG r.toNat) ?_ ?_, up ?_ ?_⟩ <;>
      simp only [CMD_SQ_TAIL, CMD_CQ_HEAD, CMD_CQ_CFG, CMD_SQ_CFG, CMD_WIN] <;> omega
  case logBase =>
    refine ⟨_, next_congr (s.logBase_disabled hEN), ?_, State.rd_wr_same .., ?_⟩
    · rw [State.rd_wr_other _ _ (by decide), State.rd_wr_same]
    · rw [State.plainWrite_of_regAt regAt_logBase]
      rfl

end Sys2Proof.Machine
end

section
/-!
PROOF. The end of a tile access (R71, R82, R124), the write phase of a matrix operation (R42, R52, R71), and the ends of shadow loads,
swaps and form switches (R56, R59, R66).
-/
namespace Sys2Proof.Machine

/-! ### A completion -/

section
variable (s : State) (c : CoreId) (q : Nat)

@[simp] theorem State.core_complete_same :
    (s.complete c q).core c = { s.core c with fl := (s.core c).fl.filter fun f => f.seq != q } := by
  simp [State.complete]

theorem State.core_complete_other {d : CoreId} (h : d ≠ c) : (s.complete c q).core d = s.core d := by
  simp [State.complete, State.core_modCore_other, h]

@[simp] theorem State.complete_mem : (s.complete c q).mem = s.mem := rfl

@[simp] theorem State.rd_complete_count :
    (s.complete c q).rd (COR_INSTRET c.toNat) = BitVec.ofNat 64 (((s.rd (COR_INSTRET c.toNat)).toNat + 1) % 2 ^ 48) := by
  simp [State.complete]

theorem State.rd_complete_other {a : Nat} (h : a ≠ COR_INSTRET c.toNat) : (s.complete c q).rd a = s.rd a := by
  simp [State.complete, State.rd_bump_other _ _ h]
end

/-! ### Parts of a core: arrays, tiles, zero-row masks -/

section
variable (C : CoreSt)

@[simp] theorem CoreSt.array_setArray_same (a : Nat) (X : ArrSt) : (C.setArray a X).array a = X := by
  simp [CoreSt.setArray, CoreSt.array, Vector.get_eq_getElem]

@[simp] theorem CoreSt.fl_setArray (a : Nat) (X : ArrSt) : (C.setArray a X).fl = C.fl := rfl
@[simp] theorem CoreSt.g_setArray (a : Nat) (X : ArrSt) : (C.setArray a X).g = C.g := rfl
@[simp] theorem CoreSt.tiles_setArray (a : Nat) (X : ArrSt) : (C.setArray a X).tiles = C.tiles := rfl

@[simp] theorem CoreSt.zm_setTile (t r : BitVec 5) (o : Nat) (bs : List Byte) : (C.setTile t o bs).zm r = C.zm r := rfl

theorem CoreSt.zm_setZm (t r : BitVec 5) (z : ZMask) : (C.setZm t z).zm r = if r = t then z else C.zm r := by
  unfold CoreSt.setZm CoreSt.zm
  simp only [Vector.get_eq_getElem, Vector.getElem_set]
  split
  next h => exact (if_pos (BitVec.eq_of_toNat_eq h.symm)).symm
  next h => exact (if_neg fun e => h (congrArg BitVec.toNat e.symm)).symm

/-- A transposing load's rows change the tiles alone. -/
theorem CoreSt.landTransposed_eq (f : Flight) : C.landTransposed f = { C with tiles := (C.landTransposed f).tiles } := by
  have tiles : ∃ m, C.landTransposed f = { C with tiles := m } :=
    List.foldlRecOn (motive := fun D => ∃ m, D = { C with tiles := m }) _ _ ⟨_, rfl⟩ fun D ⟨m, hD⟩ x _ => ⟨_, by rw [hD]; rfl⟩
  obtain ⟨m, hm⟩ := tiles
  rw [hm]
end

/-! ### The end of a tile access -/

/-- What the end of a tile access changes of a core's tiles: nothing for a store; a TLDT lands now, and every load sets the mask. -/
def CoreSt.accessed (C : CoreSt) (f : Flight) (store : Bool) : CoreSt :=
  if store then C else (if iop f.w = 1 then C.landTransposed f else C).maskLoaded f

/-- The end of an access changes tiles and zero-row masks alone. -/
theorem CoreSt.accessed_eq (C : CoreSt) (f : Flight) (store : Bool) :
    C.accessed f store = { C with tiles := (C.accessed f store).tiles, zmask := (C.accessed f store).zmask } := by
  unfold CoreSt.accessed
  split
  · rfl
  split
  · rw [CoreSt.landTransposed_eq]; rfl
  · rfl

/-- A flight that is a load or a store of tile `t` whose data has all moved. -/
def Flight.moved (t : BitVec 5) (store : Bool) (f : Flight) : Bool :=
  iclass f.w == 3 && isStore f.w == store && ireg f.w 51 == t && f.ph == .run && f.complete

theorem Flight.isStore_of_moved {t : BitVec 5} {store : Bool} {f : Flight} (h : f.moved t store = true) : isStore f.w = store := by
  simp only [Flight.moved, Bool.and_eq_true, beq_iff_eq] at h
  obtain ⟨⟨⟨⟨_, hst⟩, _⟩, _⟩, _⟩ := h
  exact hst

section
variable {s : State} {c : CoreId} {t : BitVec 5} {store : Bool} {f : Flight}

/-- With no access of the tile whose data has moved nothing ends. -/
theorem State.tileEnd_none (h : ∀ f ∈ (s.core c).fl, f.moved t store = false) : s.tileEnd c t store = s := by
  have hnone : (s.core c).fl.find? (Flight.moved t store) = none := List.find?_eq_none.mpr fun f hf => by simp [h f hf]
  unfold State.tileEnd
  dsimp only
  split
  next => rfl
  next f hf => exact nomatch hnone.symm.trans hf

/-- The first access of the tile whose data has moved is counted and completes, a load's tile written and its predictions checked. -/
theorem State.tileEnd_of_find (hf : (s.core c).fl.find? (Flight.moved t store) = some f) (hclk : s.clocked c = true) :
    s.tileEnd c t store =
      if store then ((s.bump (tileCount c f.w)).completeLs c f.seq).pump c
      else ((((s.bump (tileCount c f.w)).modCore c fun C => C.accessed f false).completeLs c f.seq).predictionCheck c t).pump c := by
  unfold State.tileEnd
  dsimp only
  split
  next h => exact nomatch hf.symm.trans h
  next g h =>
    obtain rfl : f = g := Option.some.inj (hf.symm.trans h)
    exact if_neg (by simp [hclk])

/-- A load or store that has taken no fault slot just completes. -/
theorem State.completeLs_of_slot_none (hfl : (s.core c).fl = [f]) (hslot : f.slot = none) :
    s.completeLs c f.seq = s.complete c f.seq := by
  simp [State.completeLs, CoreSt.flight, hfl, hslot]

/-- With nothing in flight there is no prediction to check. -/
theorem State.predictionCheck_of_fl_nil (h : (s.core c).fl = []) : s.predictionCheck c t = s := by
  unfold State.predictionCheck
  rw [h, List.foldl_nil]

/-- What the end of flight `f`, the core's only one, leaves. -/
structure AccessEnded (s u : State) (c : CoreId) (f : Flight) (store : Bool) : Prop where
  core : u.core c = { (s.core c).accessed f store with fl := [] }
  mem : u.mem = s.mem
  cores : ∀ d, d ≠ c → u.core d = s.core d
  counts : ∀ n ∈ [COR_INSTRET c.toNat, if store then COR_TILE_STORES c.toNat else COR_TILE_LOADS c.toNat],
    u.rd n = BitVec.ofNat 64 (((s.rd n).toNat + 1) % 2 ^ 48)

/-- The completion of the access is its end, whatever wrote the tile before. -/
theorem AccessEnded.of_complete {v : State} (hfl : (s.core c).fl = [f]) (hst : isStore f.w = store)
    (hcore : v.core c = (s.core c).accessed f store) (hmem : v.mem = s.mem) (hcores : ∀ d, d ≠ c → v.core d = s.core d)
    (hregs : v.regs = (s.bump (tileCount c f.w)).regs) : AccessEnded s (v.complete c f.seq) c f store := by
  have hrd (n : Nat) : v.rd n = (s.bump (tileCount c f.w)).rd n := by unfold State.rd; rw [hregs]
  have hne : tileCount c f.w ≠ COR_INSTRET c.toNat := by
    unfold tileCount COR_INSTRET COR_TILE_STORES COR_TILE_LOADS
    split <;> omega
  have htile : (if store then COR_TILE_STORES c.toNat else COR_TILE_LOADS c.toNat) = tileCount c f.w := by rw [← hst]; rfl
  refine ⟨?_, (State.complete_mem ..).trans hmem, fun d hd => ?_, fun n hn => ?_⟩
  · have hfl' : ((s.core c).accessed f store).fl = [f] := by rw [CoreSt.accessed_eq]; exact hfl
    simp [hcore, hfl']
  · rw [State.core_complete_other _ _ _ hd, hcores d hd]
  · rw [htile, List.mem_pair] at hn
    rcases hn with rfl | rfl
    · rw [State.rd_complete_count, hrd, State.rd_bump_other _ _ hne.symm]
    · rw [State.rd_complete_other _ _ _ hne, hrd, State.rd_bump_same]

/-- An access that ends leaves its core quiet where no seed write waits. -/
theorem AccessEnded.quiet {u : State} (h : AccessEnded s u c f store) (hseed : ∀ a : Nat, ((s.core c).array a).seedWait = []) :
    u.Quiet c := by
  refine ⟨by rw [h.core], fun a => ?_⟩
  rw [h.core, CoreSt.accessed_eq]
  exact hseed a

theorem AccessEnded.wait {u : State} (h : AccessEnded s u c f store) : (u.core c).wait = (s.core c).wait := by
  rw [h.core, CoreSt.accessed_eq]

/-- The end of the only access in flight, before what may begin does. -/
theorem State.tileEnd_single (hfl : (s.core c).fl = [f]) (hmv : f.moved t store = true) (hslot : f.slot = none)
    (hclk : s.clocked c = true) : ∃ u, s.tileEnd c t store = u.pump c ∧ AccessEnded s u c f store := by
  have hfound : (s.core c).fl.find? (Flight.moved t store) = some f := by simp [hfl, hmv]
  have hst := Flight.isStore_of_moved hmv
  rw [State.tileEnd_of_find hfound hclk]
  cases store
  case true =>
    refine ⟨_, if_pos rfl, ?_⟩
    rw [State.completeLs_of_slot_none (s := s.bump (tileCount c f.w)) hfl hslot]
    exact .of_complete hfl hst rfl rfl (fun _ _ => rfl) rfl
  case false =>
    let v := (s.bump (tileCount c f.w)).modCore c fun C => C.accessed f false
    have hcore : v.core c = (s.core c).accessed f false := State.core_modCore_same ..
    have hv : AccessEnded s (v.complete c f.seq) c f false :=
      .of_complete hfl hst hcore rfl (fun d hd => State.core_modCore_other _ _ hd) rfl
    have hdone : v.completeLs c f.seq = v.complete c f.seq :=
      State.completeLs_of_slot_none (by rw [hcore, CoreSt.accessed_eq]; exact hfl) hslot
    refine ⟨v.complete c f.seq, ?_, hv⟩
    calc ((v.completeLs c f.seq).predictionCheck c t).pump c
        = ((v.complete c f.seq).predictionCheck c t).pump c := by rw [hdone]
      _ = (v.complete c f.seq).pump c := by rw [State.predictionCheck_of_fl_nil (by rw [hv.core])]
end

theorem exec_tileEnd (c : CoreId) (t : BitVec 5) (s : State) (store : Bool) :
    exec (if store then .tileStoreComplete c t else .tileLoadComplete c t) s = .next (s.tileEnd c t store) := by
  cases store <;> rfl

/-- Settles O17: the access completes its core's only flight, after which nothing is left for the pump to begin. -/
theorem tileAccessEnds : Obligations.TileAccessEnds := by
  unfold Obligations.TileAccessEnds
  intro c t s store C i fit
  rw [show exec i s = _ from exec_tileEnd c t s store]
  refine ⟨fun h => next_congr (State.tileEnd_none h), fun f hfl hfit hslot hseed hwait hclk => ?_⟩
  obtain ⟨u, hend, hu⟩ := State.tileEnd_single hfl hfit hslot hclk
  rw [hend, State.pump_quiet u c (hu.quiet hseed) (hu.wait.trans hwait)]
  exact ⟨u, rfl, hu.core, hu.mem, hu.cores, hu.counts⟩

/-! ### The write phase of a matrix operation -/

/-- Two states differ at most in registers, and not in core `c`'s count of instructions. -/
structure State.SameCount (c : CoreId) (s t : State) : Prop extends s.SameData t where
  count : t.rd (COR_INSTRET c.toNat) = s.rd (COR_INSTRET c.toNat)

namespace State.SameCount
variable {c : CoreId} {s t u : State}

theorem refl (c : CoreId) (s : State) : s.SameCount c s := ⟨.refl s, rfl⟩

theorem trans (h : s.SameCount c t) (k : t.SameCount c u) : s.SameCount c u := ⟨h.toSameData.trans k.toSameData, k.count.trans h.count⟩

theorem wr (s : State) {a : Nat} (v : Word) (h : COR_INSTRET c.toNat ≠ a) : s.SameCount c (s.wr a v) :=
  ⟨⟨rfl, rfl, rfl⟩, State.rd_wr_other s v h⟩

theorem bump (s : State) {a : Nat} (n : Nat) (h : COR_INSTRET c.toNat ≠ a) : s.SameCount c (s.bump a n) := wr s _ h

theorem shapeClamp (s : State) : s.SameCount c (s.shapeClamp c) :=
  (wr s _ (by unfold COR_INSTRET COR_STATUS; omega)).trans (wr _ _ (by unfold COR_INSTRET COR_TILE_CLAMPS; omega))

theorem orMtx (s : State) (fl : MFlags) : s.SameCount c (s.orMtx c fl) := wr s _ (by unfold COR_INSTRET COR_MTX_STATUS; omega)

theorem ite {p : Prop} [Decidable p] (h : s.SameCount c t) (k : s.SameCount c u) : s.SameCount c (if p then t else u) := by
  split
  · exact h
  · exact k
end State.SameCount

/-- The write phase writes the destination tile and its mask, then registers that do not count instructions, and completes. -/
theorem State.mtxWrite_split (s : State) (c : CoreId) (f : Flight) : ∃ (bs : List Byte) (mask : BitVec 256) (u : State),
    s.mtxWrite c f = u.complete c f.seq ∧
    (s.modCore c fun C => (C.setTile (ireg f.w 49) 0 bs).setZm (ireg f.w 49)
      ⟨(mtxDf f.w).rowBytes ((s.core c).mtxShape f).N, ((s.core c).mtxShape f).m, mask⟩).SameCount c u := by
  have ha : (arrIx (iarr f.w)).val < 3 := (arrIx (iarr f.w)).isLt
  have seed : COR_INSTRET c.toNat ≠ COR_MTX_SEED c.toNat (arrIx (iarr f.w)).val := by unfold COR_INSTRET COR_MTX_SEED; omega
  have ops : COR_INSTRET c.toNat ≠ COR_MTX_OPS c.toNat (arrIx (iarr f.w)).val := by unfold COR_INSTRET COR_MTX_OPS; omega
  have skip : COR_INSTRET c.toNat ≠ COR_SPR_SKIP c.toNat := by unfold COR_INSTRET COR_SPR_SKIP; omega
  have rowskip : COR_INSTRET c.toNat ≠ COR_SPR_ROWSKIP c.toNat := by unfold COR_INSTRET COR_SPR_ROWSKIP; omega
  unfold State.mtxWrite
  dsimp only
  exact ⟨_, _, _, rfl, .trans (.wr _ _ seed) (.trans (.orMtx _ _) (.trans (.ite (.shapeClamp _) (.refl ..))
    (.trans (.ite (.bump _ _ skip) (.ite (.refl ..) (.bump _ _ rowskip))) (.bump _ _ ops))))⟩

/-- Settles O16: the write phase changes the destination tile, its mask and registers, and completes. -/
theorem matrixWrite : Obligations.MatrixWrite := by
  unfold Obligations.MatrixWrite
  intro c s f C sh td rb t
  obtain ⟨bs, mask, u, hu, hregs⟩ := s.mtxWrite_split c f
  have hC : u.core c = (C.setTile td 0 bs).setZm td ⟨rb, sh.m, mask⟩ := (hregs.core c).trans (State.core_modCore_same ..)
  rw [show t = u.complete c f.seq from hu]
  have zm (r : BitVec 5) : ((u.complete c f.seq).core c).zm r = if r = td then ⟨rb, sh.m, mask⟩ else C.zm r := by
    rw [State.core_complete_same, hC]
    show ((C.setTile td 0 bs).setZm td _).zm r = _
    rw [CoreSt.zm_setZm, CoreSt.zm_setTile]
  refine ⟨?fl, ?g, (State.complete_mem ..).trans hregs.mem, fun d hd => ?others, ?rb, ?rows, fun r hr => ?masks, ?count⟩
  case fl => rw [State.core_complete_same, hC]; rfl
  case g => rw [State.core_complete_same, hC]; rfl
  case others => rw [State.core_complete_other _ _ _ hd, hregs.core d, State.core_modCore_other _ _ hd]
  case rb => rw [zm, if_pos rfl]
  case rows => rw [zm, if_pos rfl]
  case masks => rw [zm, if_neg hr]
  case count => rw [State.rd_complete_count, hregs.count, State.rd_modCore]

/-! ### The ends of shadow loads, swaps and form switches -/

theorem ArrSt.loadDone_of_load {A : ArrSt} {x : SetSt} (h : A.load = some x) : A.loadDone = { A with shd := some x, load := none } := by
  simp [ArrSt.loadDone, h]

theorem ArrSt.switchDone_of_switching {A : ArrSt} {m : Bool} (h : A.switching = some m) :
    A.switchDone = { A with form := m, act := none, shd := none, switching := none } := by
  simp [ArrSt.switchDone, h]

section
variable {c : CoreId} {a : BitVec 2} {s : State} {f : Flight}

theorem exec_mtxWritePhase_ready (hclk : s.clocked c = true)
    (hf : (s.core c).fl.find? (fun g => isMtx g.w && iarr g.w == a.toNat) = some f) (hsum : f.ph = .summed)
    (hw : (s.core c).mayWrite f.seq (ireg f.w 49) = true) : exec (.mtxWritePhase c a) s = .next ((s.mtxWrite c f).pump c) := by
  show execMtxWritePhase c a s = _
  simp only [execMtxWritePhase, hf, hclk, hsum, hw, beq_self_eq_true, Bool.and_self, if_true]

theorem exec_shadowLoadDone_running (h : s.running c a.toNat 0 = some f) : exec (.shadowLoadDone c a) s =
    .next (((s.modCore c fun C => C.setArray a.toNat (C.array a.toNat).loadDone).complete c f.seq).pump c) := by
  show execShadowLoadDone c a s = _
  simp only [execShadowLoadDone, h]

theorem exec_swapTakesEffect_running (h : s.running c a.toNat 1 = some f) (hload : ((s.core c).array a.toNat).load = none) :
    exec (.swapTakesEffect c a) s =
      .next (((s.modCore c fun C => C.setArray a.toNat (C.array a.toNat).swap).complete c f.seq).pump c) := by
  show execSwapTakesEffect c a s = _
  simp only [execSwapTakesEffect, h, hload, Option.isSome_none, Bool.false_eq_true, if_false]

theorem exec_formSwitchDone_running (h : s.running c a.toNat 2 = some f) : exec (.formSwitchDone c a) s =
    .next ((((s.modCore c fun C => C.setArray a.toNat (C.array a.toNat).switchDone).bump (COR_MTX_FORMSW c.toNat)).complete c f.seq).pump c) := by
  show execFormSwitchDone c a s = _
  simp only [execFormSwitchDone, h]

theorem State.running_of_fl_nil (h : (s.core c).fl = []) (n op : Nat) : s.running c n op = none := by
  simp [State.running, h]

/-- With nothing in flight nothing of an array ends. -/
theorem exec_arrayEvent_of_fl_nil (h : (s.core c).fl = []) :
    ∀ i ∈ [Instr.mtxWritePhase c a, .shadowLoadDone c a, .swapTakesEffect c a, .formSwitchDone c a], exec i s = .next s := by
  have hrun := State.running_of_fl_nil h a.toNat
  simp only [List.forall_mem_cons]
  refine ⟨?write, ?load, ?swap, ?form, fun _ hi => absurd hi List.not_mem_nil⟩
  case write => show execMtxWritePhase c a s = _; simp only [execMtxWritePhase, h, List.find?_nil]
  case load => show execShadowLoadDone c a s = _; simp only [execShadowLoadDone, hrun]
  case swap => show execSwapTakesEffect c a s = _; simp only [execSwapTakesEffect, hrun]
  case form => show execFormSwitchDone c a s = _; simp only [execFormSwitchDone, hrun]
end

/-- A core whose array `n` has become `X` and whose instruction `q` has completed, its other flights, g registers, tiles, memory and the
other cores as they were. -/
structure ArrayEnded (s u : State) (c : CoreId) (n q : Nat) (X : ArrSt) : Prop where
  array : (u.core c).array n = X
  fl : (u.core c).fl = (s.core c).fl.filter fun g => g.seq != q
  g : (u.core c).g = (s.core c).g
  tiles : (u.core c).tiles = (s.core c).tiles
  mem : u.mem = s.mem
  cores : ∀ d, d ≠ c → u.core d = s.core d

/-- An array changed by `X` and then the completion, with any change of registers between. -/
theorem ArrayEnded.of_sameData {s v : State} {c : CoreId} {n : Nat} {X : ArrSt → ArrSt} (q : Nat)
    (h : (s.modCore c fun C => C.setArray n (X (C.array n))).SameData v) :
    ArrayEnded s (v.complete c q) c n q (X ((s.core c).array n)) := by
  have hC : v.core c = (s.core c).setArray n (X ((s.core c).array n)) := (h.core c).trans (State.core_modCore_same ..)
  refine ⟨?_, ?_, ?_, ?_, (State.complete_mem ..).trans h.mem, fun d hd => ?_⟩
  · rw [State.core_complete_same, hC]
    exact CoreSt.array_setArray_same ..
  · rw [State.core_complete_same, hC, CoreSt.fl_setArray]
  · rw [State.core_complete_same, hC, CoreSt.g_setArray]
  · rw [State.core_complete_same, hC, CoreSt.tiles_setArray]
  · rw [State.core_complete_other _ _ _ hd, h.core d, State.core_modCore_other _ _ hd]

/-- Settles O15: each end is a change of the array and a completion, before what may begin does. -/
theorem arrayEvents : Obligations.ArrayEvents := by
  unfold Obligations.ArrayEvents
  intro c a s f C A ends
  have ended {i : Instr} {X : ArrSt → ArrSt} {Y : ArrSt} {v : State} (hi : exec i s = .next ((v.complete c f.seq).pump c))
      (hv : (s.modCore c fun C => C.setArray a.toNat (X (C.array a.toNat))).SameData v) (hX : X A = Y) : ends i Y := by
    obtain ⟨harr, hfl, hg, htiles, hmem, hcores⟩ := ArrayEnded.of_sameData f.seq hv
    exact ⟨_, hi, harr.trans hX, hfl, hg, htiles, hmem, hcores⟩
  refine ⟨exec_mtxWritePhase_ready, fun hrun x hx => ?load, fun hrun hload => ?swap, fun hrun m hm => ?form, exec_arrayEvent_of_fl_nil⟩
  case load => exact ended (exec_shadowLoadDone_running hrun) (.refl _) (ArrSt.loadDone_of_load hx)
  case swap => exact ended (exec_swapTakesEffect_running hrun hload) (.refl _) rfl
  case form => exact ended (exec_formSwitchDone_running hrun) (State.bump_sameData ..) (ArrSt.switchDone_of_switching hm)

end Sys2Proof.Machine
end

section
/-!
PROOF. Interrupts and ERET (R131, R186, R188), and the commands to a core's faults and its firmware interrupt (R128, R130, R184, R189, R285).
-/
namespace Sys2Proof.Machine

/-! ### What an operation of one core leaves alone -/

/-- Core `c` has become `f` of what it was; memory, the other cores, the registers outside `A`, the fuses and the power state are the same. -/
structure State.Alters (s t : State) (c : CoreId) (A : Set Nat) (f : CoreSt → CoreSt) : Prop where
  core : t.core c = f (s.core c)
  cores : ∀ d, d ≠ c → t.core d = s.core d
  mem : t.mem = s.mem
  regs : ∀ a, a ∉ A → t.rd a = s.rd a
  fuses : t.fuses = s.fuses
  pwr : t.pwr = s.pwr

namespace State.Alters
variable {c : CoreId} {A B : Set Nat} {f g : CoreSt → CoreSt} {s t u : State}

theorem refl (s : State) (c : CoreId) (A : Set Nat) : s.Alters s c A id := ⟨rfl, fun _ _ => rfl, rfl, fun _ _ => rfl, rfl, rfl⟩

theorem trans (h : s.Alters t c A f) (k : t.Alters u c B g) : s.Alters u c (A ∪ B) (g ∘ f) where
  core := by rw [k.core, h.core, Function.comp_apply]
  cores d hd := (k.cores d hd).trans (h.cores d hd)
  mem := k.mem.trans h.mem
  regs a ha := (k.regs a fun hB => ha (.inr hB)).trans (h.regs a fun hA => ha (.inl hA))
  fuses := k.fuses.trans h.fuses
  pwr := k.pwr.trans h.pwr

theorem mono (h : s.Alters t c A f) (hAB : A ⊆ B) : s.Alters t c B f :=
  { h with regs := fun a ha => h.regs a fun hA => ha (hAB hA) }

theorem congr (h : s.Alters t c A f) (hfg : f (s.core c) = g (s.core c)) : s.Alters t c A g := { h with core := h.core.trans hfg }

theorem wr (s : State) (c : CoreId) (a : Nat) (v : Word) : s.Alters (s.wr a v) c {a} id :=
  ⟨rfl, fun _ _ => rfl, rfl, fun _ ha => State.rd_wr_other _ _ ha, rfl, rfl⟩

theorem setFld (s : State) (c : CoreId) (a : Nat) (x : Fld) (v : Nat) : s.Alters (s.setFld a x v) c {a} id := wr ..

theorem bump (s : State) (c : CoreId) (a : Nat) (n : Nat) : s.Alters (s.bump a n) c {a} id := wr ..

theorem modCore (s : State) (c : CoreId) (f : CoreSt → CoreSt) : s.Alters (s.modCore c f) c ∅ f :=
  ⟨State.core_modCore_same .., fun _ hd => State.core_modCore_other _ _ hd, rfl, fun _ _ => rfl, rfl, rfl⟩

theorem take (s : State) (c : CoreId) : s.Alters s.take.2 c ∅ id := ⟨rfl, fun _ _ => rfl, rfl, fun _ _ => rfl, rfl, rfl⟩

theorem modHost (s : State) (c : CoreId) (h : HostSt → HostSt) : s.Alters (s.modHost h) c ∅ id :=
  ⟨rfl, fun _ _ => rfl, rfl, fun _ _ => rfl, rfl, rfl⟩

theorem ite {p : Prop} [Decidable p] (h : s.Alters t c A f) (k : s.Alters u c A f) : s.Alters (if p then t else u) c A f := by
  split
  · exact h
  · exact k

/-- A counter advanced, but for an advance of 0. -/
theorem bumpUnlessZero (s : State) (c : CoreId) (a n : Nat) : s.Alters (if n = 0 then s else s.bump a n) c {a} id :=
  ite (refl ..) (bump ..)

theorem foldl {α : Type} {op : State → α → State} (step : ∀ (s : State) x, s.Alters (op s x) c A id) (l : List α) (s : State) :
    s.Alters (l.foldl op s) c A id := by
  induction l generalizing s with
  | nil => exact refl ..
  | cons x l ih => exact ((step s x).trans (ih _)).mono (Set.union_self A).subset

/-- Where core `c` too is as it was, every core is. -/
theorem core_eq (h : s.Alters t c A id) (d : CoreId) : t.core d = s.core d := by
  by_cases hd : d = c
  · rw [hd]; exact h.core
  · exact h.cores d hd

theorem railOff (h : s.Alters t c A f) (r : RegionId) : t.railOff r = s.railOff r := by
  unfold State.railOff
  rw [h.pwr]

theorem clocked (h : s.Alters t c A f) (d : CoreId) : t.clocked d = s.clocked d := by
  unfold State.clocked State.rclocked State.relocking State.rp
  rw [h.railOff, h.pwr]

theorem fenced (h : s.Alters t c A f) {d : CoreId} (hA : NOC_RT_CTL (d.toNat / 256) (d.toNat % 256) ∉ A) : t.fenced d = s.fenced d := by
  unfold State.fenced State.enabled State.bit State.fld
  rw [h.fuses, h.regs _ hA]
end State.Alters

/-! ### The operations an interrupt and a program stop are made of -/

/-- An array whose shadow load, stalled swap and form switch have ended (R42). -/
def ArrSt.stationaryDone (A : ArrSt) : ArrSt := (if A.loadDone.swapStall then A.loadDone.swap else A.loadDone).switchDone

/-- A core whose shadow loads, swaps and form switches in flight have ended. -/
def CoreSt.stationaryDone (C : CoreSt) : CoreSt :=
  let D := (List.range 3).foldl (fun C a => C.setArray a (C.array a).stationaryDone) C
  { D with fl := D.fl.filter fun f => !(iclass f.w == 7 && f.ph == .run) }

/-- The end of stationary work changes arrays and flights alone. -/
theorem CoreSt.stationaryDone_eq (C : CoreSt) :
    C.stationaryDone = { C with arr := C.stationaryDone.arr, fl := C.stationaryDone.fl } := by
  have arrays : ∃ m, (List.range 3).foldl (fun C a => C.setArray a (C.array a).stationaryDone) C = { C with arr := m } :=
    List.foldlRecOn (motive := fun D => ∃ m, D = { C with arr := m }) _ _ ⟨_, rfl⟩ fun D ⟨m, hD⟩ a _ => ⟨_, by rw [hD]; rfl⟩
  obtain ⟨m, hm⟩ := arrays
  unfold CoreSt.stationaryDone
  rw [hm]

theorem CoreSt.g_stationaryDone (C : CoreSt) : C.stationaryDone.g = C.g := by rw [CoreSt.stationaryDone_eq]
theorem CoreSt.run_stationaryDone (C : CoreSt) : C.stationaryDone.run = C.run := by rw [CoreSt.stationaryDone_eq]
theorem CoreSt.wait_stationaryDone (C : CoreSt) : C.stationaryDone.wait = C.wait := by rw [CoreSt.stationaryDone_eq]

section
variable (s : State) (c : CoreId)

theorem State.finishStationary_alters :
    s.Alters (s.finishStationary c) c {COR_MTX_FORMSW c.toNat, COR_INSTRET c.toNat} CoreSt.stationaryDone := by
  unfold State.finishStationary
  dsimp only
  exact .congr (.mono (.trans (.trans (.foldl (fun s _ => .bump s c _ _) _ s) (.bumpUnlessZero _ c _ _)) (.modCore _ c _)) (by simp)) rfl

theorem State.lostBeats_alters : s.Alters (s.lostBeats c) c {COR_VEC_BEATS c.toNat} id := by
  unfold State.lostBeats
  split
  · exact .refl ..
  · exact .ite (.refl ..) (.mono (.trans (.take s c) (.bump _ c _ _)) (by simp))

theorem State.reclamp_alters (f : Flight) : s.Alters (s.reclamp c f) c {COR_STATUS c.toNat} id := by
  unfold State.reclamp
  dsimp only
  exact .mono (.trans (.ite (.setFld s c _ _ _) (.refl ..)) (.ite (.setFld _ c _ _ _) (.refl ..))) (by simp)

/-- The registers of a die and a region that show their cores waiting and lent. -/
abbrev lendRegs (c : CoreId) : Set Nat := {PWR_RGN_STATE (regionOf c).toNat, SYN_WAIT_STATUS (dieOf c).toNat}

theorem State.unlend_alters : s.Alters (s.unlend c) c (lendRegs c) id := by
  unfold State.unlend
  dsimp only
  refine .ite (.mono (.trans (.setFld s c _ _ _) (.ite (.setFld _ c _ _ _) (.refl ..))) (by simp [lendRegs])) (.refl ..)

theorem State.unwait_alters : s.Alters (s.unwait c) c (lendRegs c) fun C => { C with waitBegan := false } := by
  unfold State.unwait
  split
  next => exact .mono (.trans (.modCore s c _) (State.unlend_alters _ c)) (by simp)
  next h => exact (State.Alters.refl s c _).congr (by rw [← Bool.eq_false_of_not_eq_true h]; rfl)
end

/-- A core whose program has stopped (R130). -/
def CoreSt.programStopped (C : CoreSt) : CoreSt :=
  { C.stationaryDone with
    run := if C.run == .running || C.run == .halting then .stopped else C.run
    fl := [], ibuf := none, fetchHeld := false, fetchWant := none, fetchGot := none, wait := none, waitSaved := none
    waitBegan := false, heldFaults := [], stopTiles := some C.tileStates }

theorem CoreSt.g_programStopped (C : CoreSt) : C.programStopped.g = C.g := C.g_stationaryDone

theorem CoreSt.run_programStopped {C : CoreSt} (h : C.run = .running) : C.programStopped.run = .stopped := by
  simp [CoreSt.programStopped, h]

/-- The registers a program stop changes. -/
abbrev stopRegs (c : CoreId) : Set Nat := {COR_MTX_FORMSW c.toNat, COR_INSTRET c.toNat} ∪ lendRegs c

theorem State.stopProgram_alters (s : State) (c : CoreId) : s.Alters (s.stopProgram c) c (stopRegs c) CoreSt.programStopped := by
  unfold State.stopProgram
  dsimp only
  have reported (on : Bool) := State.Alters.ite (p := on = true) (.modHost s c fun H => { H with stops := H.stops ++ [c] }) (.refl s c ∅)
  exact .congr (.mono (.trans (.trans (.trans (reported _) (State.finishStationary_alters _ c)) (State.unwait_alters _ c))
    (.modCore _ c _)) (by simp)) (by simp only [Function.comp_apply, id_eq, CoreSt.programStopped, CoreSt.run_stationaryDone])

/-! ### Accepting an interrupt, and ERET -/

/-- A register's word is an address a core goes to as it is. -/
theorem CoreSt.goto_toNat_pc (C : CoreSt) (v : Word) : (C.goto v.toNat).pc = v.toNat := Nat.mod_eq_of_lt v.isLt

theorem State.inHandler_congr {s t : State} {c : CoreId} (h : t.rd (COR_IPEND c.toNat) = s.rd (COR_IPEND c.toNat)) :
    t.inHandler c = s.inHandler c := by
  unfold State.inHandler State.bit State.fld
  rw [h]

theorem State.inHandler_setFld (s : State) (c : CoreId) (v : Nat) :
    (s.setFld (COR_IPEND c.toNat) COR_IPEND.INHANDLER v).inHandler c = (v % 2 == 1) := by
  unfold State.inHandler State.bit State.fld
  rw [State.rd_setFld_same, Fld.get_put _ _ _ (by decide)]
  rfl

theorem Flight.reissue_eq (f : Flight) (ctl : BitVec 3) :
    f.reissue ctl = if f.ph = .abandoned then { f with ph := .queued, ctl := ctl } else f := by
  simp [Flight.reissue, Flight.gone]

/-- A core as it enters its interrupt handler at `ivec` (R131, R186). -/
def CoreSt.enterHandler (ivec : Nat) (C : CoreSt) : CoreSt :=
  ({ C with
      fl := C.fl.map fun f => if f.abandons then f.abandon else f
      wait := none, waitSaved := C.wait, fetchHeld := false, fetchWant := none, fetchGot := none } : CoreSt).goto ivec

/-- A core as ERET leaves it: at `epc`, its saved wait taken up, its abandoned instructions queued under the enables `ctl` (R188). -/
def CoreSt.leaveHandler (epc : Nat) (ctl : BitVec 3) (C : CoreSt) : CoreSt :=
  ({ C with fl := C.fl.map fun f => f.reissue ctl, wait := C.waitSaved, waitSaved := none } : CoreSt).goto epc

section
variable {c : CoreId} {w : Word} {s : State}

/-- The counters of the work an interrupt ends and breaks off. -/
abbrev interruptCounters (c : CoreId) : Set Nat :=
  {COR_TILE_IRQRST c.toNat, COR_VEC_BEATS c.toNat, COR_MTX_FORMSW c.toNat, COR_INSTRET c.toNat}

/-- They are none of the registers of interrupts. -/
theorem not_mem_interruptCounters {a : Nat} (h : a ∈ [COR_IVEC c.toNat, COR_EPC c.toNat, COR_IPEND c.toNat]) : a ∉ interruptCounters c := by
  simp only [List.mem_cons, List.not_mem_nil, or_false] at h
  rcases h with rfl | rfl | rfl <;>
    simp [COR_IVEC, COR_EPC, COR_IPEND, COR_TILE_IRQRST, COR_VEC_BEATS, COR_MTX_FORMSW, COR_INSTRET]

/-- An accepted interrupt saves the program counter, sets INHANDLER, ends and breaks off work, and enters the handler. -/
theorem exec_interruptAccept_accepted (hclk : s.clocked c = true) (hirq : s.canInterrupt c = true) (hpark : (s.core c).parked = false) :
    ∃ u : State, exec (.interruptAccept c) s = .next (u.modCore c (CoreSt.enterHandler (s.rd (COR_IVEC c.toNat)).toNat)) ∧
      s.Alters u c ({COR_EPC c.toNat} ∪ {COR_IPEND c.toNat} ∪ interruptCounters c) CoreSt.stationaryDone ∧
      u.rd (COR_EPC c.toNat) = BitVec.ofNat 64 ((s.core c).pc % 2 ^ 48) ∧ u.inHandler c = true := by
  let saved := s.wr (COR_EPC c.toNat) (BitVec.ofNat 64 ((s.core c).pc % 2 ^ 48))
  have entered : s.Alters (saved.setFld (COR_IPEND c.toNat) COR_IPEND.INHANDLER 1) c _ id := .trans (.wr s c _ _) (.setFld _ c _ _ _)
  obtain ⟨u, hexec, hu⟩ : ∃ u : State,
      exec (.interruptAccept c) s = .next (u.modCore c (CoreSt.enterHandler (u.rd (COR_IVEC c.toNat)).toNat)) ∧
      (saved.setFld (COR_IPEND c.toNat) COR_IPEND.INHANDLER 1).Alters u c (interruptCounters c) CoreSt.stationaryDone :=
    ⟨_, if_neg (by simp [hclk, hirq, hpark]), .mono (.trans (State.finishStationary_alters _ c)
      (.trans (State.lostBeats_alters _ c) (.bumpUnlessZero _ c _ _))) (by simp)⟩
  have kept {a : Nat} (h : a ∈ [COR_IVEC c.toNat, COR_EPC c.toNat, COR_IPEND c.toNat]) := hu.regs a (not_mem_interruptCounters h)
  have hivec : u.rd (COR_IVEC c.toNat) = s.rd (COR_IVEC c.toNat) :=
    (kept (by simp)).trans (entered.regs _ (by simp [COR_IVEC, COR_EPC, COR_IPEND]))
  have hepc : u.rd (COR_EPC c.toNat) = saved.rd (COR_EPC c.toNat) :=
    (kept (by simp)).trans (State.rd_setFld_other _ _ _ (by simp [COR_EPC, COR_IPEND]))
  rw [hivec] at hexec
  exact ⟨u, hexec, entered.trans hu, hepc.trans (State.rd_wr_same ..),
    (State.inHandler_congr (kept (by simp))).trans (State.inHandler_setFld _ c 1)⟩

/-- An ERET that issues sets clamp bits again, clears INHANDLER, leaves the handler and counts itself, before what may begin does. -/
theorem exec_eret_issued (h : s.CanIssue c w 0xF080) :
    ∃ v : State, exec (.eret c w) s = .next (((v.modCore c (CoreSt.leaveHandler (s.rd (COR_EPC c.toNat)).toNat (s.mtxCtl c))).bump
        (COR_INSTRET c.toNat)).pump c) ∧
      s.Alters v c ({COR_STATUS c.toNat} ∪ {COR_IPEND c.toNat}) id ∧ v.inHandler c = false := by
  obtain ⟨v, hexec, hv, hin⟩ : ∃ v : State,
      exec (.eret c w) s = .next (((v.modCore c (CoreSt.leaveHandler (v.rd (COR_EPC c.toNat)).toNat (v.mtxCtl c))).bump
        (COR_INSTRET c.toNat)).pump c) ∧
      s.Alters v c ({COR_STATUS c.toNat} ∪ {COR_IPEND c.toNat}) id ∧ v.inHandler c = false :=
    ⟨_, congrArg Host.Outcome.next (State.issue_ok h), .trans (.foldl (fun s f => s.reclamp_alters c f) _ s) (.setFld _ c _ _ _),
      State.inHandler_setFld _ c 0⟩
  have hepc : v.rd (COR_EPC c.toNat) = s.rd (COR_EPC c.toNat) := hv.regs _ (by simp [COR_EPC, COR_IPEND, COR_STATUS])
  have hctl : v.mtxCtl c = s.mtxCtl c :=
    congrArg (BitVec.extractLsb' 0 3) (hv.regs (COR_MTX_CTL c.toNat) (by simp [COR_MTX_CTL, COR_IPEND, COR_STATUS]))
  rw [hepc, hctl] at hexec
  exact ⟨v, hexec, hv, hin⟩
end

/-- Settles O12: what an interrupt ends and breaks off leaves the saved registers alone, and ERET reads them back. -/
theorem interruptAndReturn : Obligations.InterruptAndReturn := by
  unfold Obligations.InterruptAndReturn
  intro c w s C
  refine ⟨fun hclk hirq hpark => ?accept, fun h => ?eret⟩
  case accept =>
    obtain ⟨u, hexec, hu, hepc, hin⟩ := exec_interruptAccept_accepted hclk hirq hpark
    have hcore : (u.modCore c (CoreSt.enterHandler (s.rd (COR_IVEC c.toNat)).toNat)).core c =
        C.stationaryDone.enterHandler (s.rd (COR_IVEC c.toNat)).toNat := (State.core_modCore_same ..).trans (congrArg _ hu.core)
    exact ⟨_, hexec, hepc, hin, (congrArg CoreSt.pc hcore).trans (CoreSt.goto_toNat_pc ..), congrArg CoreSt.wait hcore,
      (congrArg CoreSt.waitSaved hcore).trans C.wait_stationaryDone, congrArg CoreSt.ibuf hcore,
      (congrArg CoreSt.g hcore).trans C.g_stationaryDone, hu.mem,
      fun d hd => (State.core_modCore_other _ _ hd).trans (hu.cores d hd)⟩
  case eret =>
    obtain ⟨v, hexec, hv, hin⟩ := exec_eret_issued h
    have hcore : (v.modCore c (CoreSt.leaveHandler (s.rd (COR_EPC c.toNat)).toNat (s.mtxCtl c))).core c =
        C.leaveHandler (s.rd (COR_EPC c.toNat)).toNat (s.mtxCtl c) := (State.core_modCore_same ..).trans (congrArg _ hv.core)
    exact ⟨_, hexec, (State.inHandler_congr (State.rd_bump_other _ _ (by simp [COR_IPEND, COR_INSTRET]))).trans hin,
      (congrArg CoreSt.pc hcore).trans (CoreSt.goto_toNat_pc ..), congrArg CoreSt.wait hcore, congrArg CoreSt.waitSaved hcore,
      (congrArg CoreSt.fl hcore).trans (List.map_congr_left fun f _ => f.reissue_eq _), (congrArg CoreSt.g hcore).trans rfl, hv.mem,
      fun d hd => (State.core_modCore_other _ _ hd).trans (hv.cores d hd)⟩

/-! ### Program stop by a fault command -/

/-- COR_EXC as an exception sets it (R189). -/
def excWord (cause slot fcause : Nat) : Word :=
  COR_EXC.VALID.put (COR_EXC.FATAL.put (COR_EXC.CAUSE.put (COR_EXC.SLOT.put (COR_EXC.FCAUSE.put 0 fcause) slot) cause) 1) 1

theorem excWord_fields (cause slot fcause : Nat) :
    COR_EXC.VALID.get (excWord cause slot fcause) = 1 ∧ COR_EXC.FATAL.get (excWord cause slot fcause) = 1 ∧
    COR_EXC.CAUSE.get (excWord cause slot fcause) = cause % 16 ∧ COR_EXC.SLOT.get (excWord cause slot fcause) = slot % 4 ∧
    COR_EXC.FCAUSE.get (excWord cause slot fcause) = fcause % 16 := by
  unfold excWord
  simp (disch := decide) only [Fld.get_put, Fld.get_put_other]
  exact ⟨rfl, rfl, rfl, rfl, rfl⟩

/-- A program that an exception of core `c` has stopped (R130, R189). -/
structure Excepted (s t : State) (c : CoreId) (cause slot fcause pc : Nat) : Prop where
  core : t.core c = (s.core c).programStopped
  cores : ∀ d, d ≠ c → t.core d = s.core d
  mem : t.mem = s.mem
  exc : t.rd (COR_EXC c.toNat) = excWord cause slot fcause
  excPc : t.rd (COR_EXC_PC c.toNat) = BitVec.ofNat 64 (pc % 2 ^ 48)

/-- COR_EXC and COR_EXC_PC are none of the registers a program stop changes. -/
theorem not_mem_stopRegs {c : CoreId} {a : Nat} (h : a = COR_EXC c.toNat ∨ a = COR_EXC_PC c.toNat) : a ∉ stopRegs c := by
  have := c.isLt
  simp only [stopRegs, lendRegs, Set.mem_union, Set.mem_insert_iff, Set.mem_singleton_iff, COR_INSTRET, COR_MTX_FORMSW, SYN_WAIT_STATUS,
    PWR_RGN_STATE]
  unfold COR_EXC COR_EXC_PC at h
  omega

theorem State.excepted (s : State) (c : CoreId) (cause slot fcause pc : Nat) :
    Excepted s (s.exception c cause slot fcause pc) c cause slot fcause pc := by
  let told := s.wr (COR_EXC c.toNat) (excWord cause slot fcause)
  have h := (told.wr (COR_EXC_PC c.toNat) (BitVec.ofNat 64 (pc % 2 ^ 48))).stopProgram_alters c
  have hexc : told.rd (COR_EXC c.toNat) = excWord cause slot fcause := State.rd_wr_same ..
  exact ⟨h.core, h.cores, h.mem,
    (h.regs _ (not_mem_stopRegs (.inl rfl))).trans ((State.rd_wr_other _ _ (by simp [COR_EXC, COR_EXC_PC])).trans hexc),
    (h.regs _ (not_mem_stopRegs (.inr rfl))).trans (State.rd_wr_same ..)⟩

/-! ### Messages on the mesh -/

/-- The flit counters of the routers' output ports (R265). -/
def flitCounters : Set Nat := {a | ∃ (r : CoreId) (p : Nat), p < 6 ∧ a = NOC_RT_FLITS (r.toNat / 256) (r.toNat % 256) p}

theorem not_mem_flitCounters {a : Nat} (h : a < 0x120500010000 ∨ a % 0x100 < 0x40 ∨ 0x70 ≤ a % 0x100) : a ∉ flitCounters := by
  rintro ⟨r, p, hp, rfl⟩
  unfold NOC_RT_FLITS at h
  omega

/-- A packet leaves a router toward another by a port on the way to it. -/
theorem nextHop_port {c d r : CoreId} {p : Nat} (h : nextHop c d = some (p, r)) : p < 4 := by
  unfold nextHop at h
  dsimp only at h
  split_ifs at h <;> simp only [Option.some.injEq, Prod.mk.injEq] at h <;> omega

theorem State.flits_alters (s : State) (c r d : CoreId) {out : Nat} (n : Nat) (h : out < 6) :
    s.Alters (s.flits r d out n) c flitCounters id := by
  have counted (s : State) (r : CoreId) {p : Nat} (hp : p < 6) : s.Alters (s.flitOut r p n) c flitCounters id :=
    (State.Alters.bump s c _ n).mono (Set.singleton_subset_iff.mpr ⟨r, p, hp, rfl⟩)
  have go : ∀ k s r, State.Alters s (State.flits.go d out n k s r) c flitCounters id := by
    intro k
    induction k with
    | zero => exact fun s _ => .refl ..
    | succ k ih =>
      intro s r
      unfold State.flits.go
      split
      next p r' hop => exact ((counted s r (by have := nextHop_port hop; omega)).trans (ih _ _)).mono (Set.union_self _).subset
      next => exact counted s r h
  exact go 64 s r

theorem State.ctrl_alters (s : State) (c : CoreId) (e : Ep) {e' : Ep} (h : e'.out < 6) : s.Alters (s.ctrl e e') c flitCounters id := by
  unfold State.ctrl
  exact .ite (.refl ..) (State.flits_alters s c _ _ 1 h)

/-! ### The firmware interrupt -/

/-- A write of 2 to COR_IRAISE makes the firmware interrupt pending. -/
theorem State.corWrite_iraise (s : State) (c : CoreId) : s.corWrite c (COR_IRAISE c.toNat) 2 = s.raiseFw c := by
  unfold State.corWrite
  simp only [COR_IRAISE, COR_MTX_CTL, COR_MTX_SEED, COR_HST_CTL, COR_HST_BASE, COR_HST_STATUS, COR_HST_TAG, COR_TILE_CTL, COR_TFAULT_CMD,
    COR_VEC_CTL]
  iterate 8 rw [if_neg (by omega)]
  exact if_pos trivial

section
variable (s : State) (c : CoreId)

theorem not_mem_flitCounters_ctl : NOC_RT_CTL (c.toNat / 256) (c.toNat % 256) ∉ flitCounters :=
  not_mem_flitCounters (by unfold NOC_RT_CTL; omega)

theorem not_mem_flitCounters_fenced : NOC_RT_FENCED (c.toNat / 256) (c.toNat % 256) ∉ flitCounters :=
  not_mem_flitCounters (by unfold NOC_RT_FENCED; omega)

theorem not_mem_flitCounters_ipend : COR_IPEND c.toNat ∉ flitCounters :=
  not_mem_flitCounters (by have := c.isLt; unfold COR_IPEND; omega)

theorem State.ctrl_toCore_alters (d : DieId) : s.Alters (s.ctrl (ccEp d) (coreEp c)) c flitCounters id :=
  s.ctrl_alters c _ (show 4 < 6 by decide)

theorem State.ctrl_fromCore_alters (d : DieId) : s.Alters (s.ctrl (coreEp c) (ccEp d)) c flitCounters id :=
  s.ctrl_alters c _ (show 0 < 6 by decide)
end

section
variable {s : State} {c : CoreId}

/-- A message to an awake core whose crossing is empty is in the core at once (R30). -/
theorem State.eject_awake (hclk : s.clocked c = true) (hpark : (s.core c).parked = false) (hin : (s.core c).inq = []) (m : InMsg) :
    s.eject c m = s.coreIn c m := by
  have hrail : s.railOff (regionOf c) = false := by
    simp only [State.clocked, State.rclocked, Bool.and_eq_true, Bool.not_eq_true'] at hclk
    exact hclk.2
  simp [State.eject, State.awake, hrail, hclk, hpark, hin]

theorem exec_fwIrqRaise_taken (hf : s.fenced c = false) (hclk : s.clocked c = true) (hpark : (s.core c).parked = false)
    (hin : (s.core c).inq = []) : exec (.fwIrqRaise c) s = .next ((s.ctrl (ccEp (dieOf c)) (coreEp c)).raiseFw c) := by
  have h := s.ctrl_toCore_alters c (dieOf c)
  have hf' := (h.fenced (not_mem_flitCounters_ctl c)).trans hf
  show Host.Outcome.next (s.regIn _ _ _ _) = _
  simp only [State.regIn, hf', Bool.false_eq_true, if_false]
  rw [State.eject_awake ((h.clocked c).trans hclk) (by rw [h.core_eq, hpark]) (by rw [h.core_eq, hin])]
  exact next_congr (State.corWrite_iraise _ c)

theorem exec_fwIrqRaise_fenced (hf : s.fenced c = true) : exec (.fwIrqRaise c) s =
    .next (((s.ctrl (ccEp (dieOf c)) (coreEp c)).countFenced c).ctrl (coreEp c) (ccEp (dieOf c))) := by
  have hf' := ((s.ctrl_toCore_alters c (dieOf c)).fenced (not_mem_flitCounters_ctl c)).trans hf
  show Host.Outcome.next (s.regIn _ _ _ _) = _
  simp only [State.regIn, hf', if_true]
end

/-- Settles O20: an ABORT is an exception, and the messages of a raised interrupt change flit counters alone. -/
theorem faultCommands : Obligations.FaultCommands := by
  unfold Obligations.FaultCommands
  intro c slot s n C info stops
  have stopped {i : Instr} {cause sl fc pc : Nat} (hrun : C.run = .running) (hcause : cause < 16) (hsl : sl < 4)
      (hi : exec i s = .next (s.exception c cause sl fc pc)) : stops i cause sl fc pc := by
    have h := s.excepted c cause sl fc pc
    obtain ⟨hvalid, hfatal, hcauseF, hslot, hfcause⟩ := excWord_fields cause sl fc
    refine ⟨_, hi, (congrArg CoreSt.run h.core).trans (CoreSt.run_programStopped hrun), congrArg CoreSt.fl h.core,
      (congrArg CoreSt.g h.core).trans (CoreSt.g_programStopped _), h.mem, ?_⟩
    rw [h.exc]
    exact ⟨hvalid, hfatal, hcauseF.trans (Nat.mod_eq_of_lt hcause), hslot.trans (Nat.mod_eq_of_lt hsl), hfcause, h.excPc⟩
  refine ⟨fun hv hnf => ⟨next_congr (if_pos ⟨hv, hnf⟩), fun hrun => ?abort⟩,
    fun h => ⟨next_congr (if_neg h), next_congr (if_neg h)⟩, rfl,
    fun hheld hrun => ?excAbort, fun hheld => next_congr (if_neg (by rw [hheld]; decide)), fun hf hclk hpark hin => ?raised, fun hf => ?fenced⟩
  case abort => exact stopped hrun (by decide) slot.isLt (next_congr (if_pos ⟨hv, hnf⟩))
  case excAbort => exact stopped hrun (by decide) (by decide) (next_congr (if_pos hheld))
  case raised =>
    have h := s.ctrl_toCore_alters c (dieOf c)
    refine ⟨_, exec_fwIrqRaise_taken hf hclk hpark hin, ?_, h.mem, h.core_eq⟩
    unfold State.raiseFw
    rw [State.rd_setFld_same, Fld.get_put _ _ _ (by decide)]
    rfl
  case fenced =>
    have hto := s.ctrl_toCore_alters c (dieOf c)
    have hfrom := ((s.ctrl (ccEp (dieOf c)) (coreEp c)).countFenced c).ctrl_fromCore_alters c (dieOf c)
    refine ⟨_, exec_fwIrqRaise_fenced hf, ?_, hfrom.mem.trans hto.mem, fun d => (hfrom.core_eq d).trans (hto.core_eq d), ?_⟩
    · rw [hfrom.regs _ (not_mem_flitCounters_ipend c), ← hto.regs _ (not_mem_flitCounters_ipend c)]
      refine State.rd_bump_other _ _ ?_
      have := c.isLt
      unfold COR_IPEND NOC_RT_FENCED
      omega
    · rw [hfrom.regs _ (not_mem_flitCounters_fenced c), ← hto.regs _ (not_mem_flitCounters_fenced c)]
      exact State.rd_bump_same ..

end Sys2Proof.Machine
end

section
/-!
PROOF. The write phase of a vector instruction (R154, R157) and the results of the mask instructions (R153, R175).
-/
namespace Sys2Proof.Machine

/-! ### Operations that change a core's histogram and registers of its vector engine alone -/

/-- The registers a write phase of the vector engine changes before it counts the instruction. -/
abbrev vecRegs (c : CoreId) : Set Nat :=
  {COR_CVT_SEED c.toNat, COR_VFLAGS c.toNat, COR_STATUS c.toNat, COR_TILE_CLAMPS c.toNat, COR_HST_STATUS c.toNat, COR_HST_SAMPLES c.toNat,
    COR_VEC_SLOTWAIT c.toNat, COR_VEC_OPS c.toNat, COR_VEC_BEATS c.toNat}

theorem not_mem_vecRegs (c : CoreId) : COR_INSTRET c.toNat ∉ vecRegs c := by
  simp [COR_INSTRET, COR_CVT_SEED, COR_VFLAGS, COR_STATUS, COR_TILE_CLAMPS, COR_HST_STATUS, COR_HST_SAMPLES, COR_VEC_SLOTWAIT, COR_VEC_OPS,
    COR_VEC_BEATS]

/-- Two states differ at most in registers of `vecRegs` and in the histogram of core `c`. -/
def State.Marks (s t : State) (c : CoreId) : Prop :=
  ∃ n h, s.Alters t c (vecRegs c) fun C => { C with histCount := n, hist := h }

namespace State.Marks
variable {c : CoreId} {s t u : State} {A : Set Nat}

theorem of_alters (h : s.Alters t c A id) (hA : A ⊆ vecRegs c) : s.Marks t c := ⟨_, _, (h.mono hA).congr rfl⟩

theorem refl (s : State) (c : CoreId) : s.Marks s c := of_alters (.refl s c ∅) (Set.empty_subset _)

theorem trans (h : s.Marks t c) (k : t.Marks u c) : s.Marks u c := by
  obtain ⟨_, _, h⟩ := h
  obtain ⟨n, x, k⟩ := k
  exact ⟨n, x, ((h.trans k).mono (Set.union_self _).subset).congr rfl⟩

theorem ite {p : Prop} [Decidable p] (h : s.Marks t c) (k : s.Marks u c) : s.Marks (if p then t else u) c := by
  split
  · exact h
  · exact k

theorem foldl {α : Type} {op : State → α → State} (step : ∀ (s : State) x, s.Marks (op s x) c) (l : List α) (s : State) :
    s.Marks (l.foldl op s) c := by
  induction l generalizing s with
  | nil => exact refl ..
  | cons x l ih => exact (step s x).trans (ih _)

theorem histogram (s : State) (c : CoreId) (n : CoreSt → Nat) (x : CoreSt → Tab Nat) :
    s.Marks (s.modCore c fun C => { C with histCount := n C, hist := x C }) c :=
  ⟨_, _, ((Alters.modCore s c _).mono (Set.empty_subset _)).congr rfl⟩

theorem wr (s : State) {a : Nat} (v : Word) (h : a ∈ vecRegs c) : s.Marks (s.wr a v) c :=
  of_alters (.wr s c a v) (Set.singleton_subset_iff.mpr h)

theorem setFld (s : State) {a : Nat} (x : Fld) (v : Nat) (h : a ∈ vecRegs c) : s.Marks (s.setFld a x v) c := wr s _ h

theorem bump (s : State) {a : Nat} (n : Nat) (h : a ∈ vecRegs c) : s.Marks (s.bump a n) c := wr s _ h

theorem orVflags (s : State) (fl : VFlags) : s.Marks (s.orVflags c fl) c := wr s _ (by simp)

theorem shapeClamp (s : State) : s.Marks (s.shapeClamp c) c := (setFld s _ _ (by simp)).trans (bump _ _ (by simp))

theorem valClamp (s : State) : s.Marks (s.valClamp c) c := setFld s _ _ (by simp)

theorem sample (s : State) (es : List Nat) : s.Marks (s.sample c es) c := by
  have hstatus : COR_HST_STATUS c.toNat ∈ vecRegs c := by simp
  have counted (n : Nat) : s.Marks (s.setCore c { s.core c with histCount := n }) c := histogram s c (fun _ => n) CoreSt.hist
  unfold State.sample
  dsimp only
  exact ite (refl ..) (ite (refl ..) (ite (counted _) (ite ((counted _).trans (setFld _ _ _ hstatus))
    (((counted _).trans (bump _ _ (by simp))).trans
      (foldl (fun s e => ite (setFld s _ _ hstatus) (histogram s c CoreSt.histCount _)) _ _)))))

theorem slotWait (s : State) : s.Marks (s.slotWait c) c := by
  unfold State.slotWait
  exact ite (.trans (of_alters (.take s c) (Set.empty_subset _)) (bump _ _ (by simp))) (refl ..)
end State.Marks

/-! ### What a vector instruction writes of its core -/

section
variable (C : CoreSt)

theorem CoreSt.mask_setMask_same (m : BitVec 3) (v : BitVec 4096) : (C.setMask m v).mask m = v := by
  simp [CoreSt.setMask, CoreSt.mask, Vector.get_eq_getElem]

theorem CoreSt.mask_setRg (r : BitVec 5) (v : Word) (m : BitVec 3) : (C.setRg r v).mask m = C.mask m := by rw [CoreSt.setRg_eq]; rfl

theorem CoreSt.fl_setRg (r : BitVec 5) (v : Word) : (C.setRg r v).fl = C.fl := by rw [CoreSt.setRg_eq]

/-- A core with the tile, mask, scale and g register that an instruction's end brings. -/
def CoreSt.vecWritten (o : VOut) : CoreSt :=
  let C := match o.tile with
    | some (t, rows, z) => (rows.foldl (fun C (off, bs) => C.setTile t off bs) C).setZm t z
    | none => C
  let C := match o.mask with | some (m, v) => C.setMask m v | none => C
  let C := match o.scale with | some (m, v) => C.setScale m v | none => C
  match o.greg with | some (r, v) => C.setRg r v | none => C

/-- A write of rows of a tile changes no flight. -/
theorem CoreSt.fl_setTiles (t : BitVec 5) (rows : List (Nat × List Byte)) :
    (rows.foldl (fun C (off, bs) => C.setTile t off bs) C).fl = C.fl :=
  List.foldlRecOn (motive := fun D : CoreSt => D.fl = C.fl) _ _ rfl fun _ hD _ _ => hD

/-- Flights and masks do not depend on the scale and g register written. -/
theorem CoreSt.vecWritten_tileMask (o : VOut) :
    (C.vecWritten o).fl = (C.vecWritten { tile := o.tile, mask := o.mask }).fl ∧
      ∀ m, (C.vecWritten o).mask m = (C.vecWritten { tile := o.tile, mask := o.mask }).mask m := by
  obtain ⟨_, _, scale, greg⟩ := o
  cases greg with
  | none => cases scale <;> exact ⟨rfl, fun _ => rfl⟩
  | some p => cases scale <;> exact ⟨CoreSt.fl_setRg .., CoreSt.mask_setRg _ _ _⟩

theorem CoreSt.fl_vecWritten (o : VOut) : (C.vecWritten o).fl = C.fl := by
  rw [(C.vecWritten_tileMask o).1]
  obtain ⟨tile, mask, _, _⟩ := o
  calc (C.vecWritten { tile := tile, mask := mask }).fl
      = (C.vecWritten { tile := tile }).fl := by cases mask <;> rfl
    _ = C.fl := by
        cases tile with
        | none => rfl
        | some p => exact C.fl_setTiles p.1 p.2.1

theorem CoreSt.mask_vecWritten {o : VOut} {m : BitVec 3} {v : BitVec 4096} (h : o.mask = some (m, v)) : (C.vecWritten o).mask m = v := by
  rw [(C.vecWritten_tileMask o).2]
  obtain ⟨tile, mask, _, _⟩ := o
  obtain rfl : mask = some (m, v) := h
  exact CoreSt.mask_setMask_same ..

theorem CoreSt.rg_vecWritten {o : VOut} {r : BitVec 5} {v : Word} (h : o.greg = some (r, v)) (hr : r ≠ 0) :
    (C.vecWritten o).rg r = v := by
  simp only [CoreSt.vecWritten, h]
  rw [CoreSt.rg_setRg, if_pos ⟨rfl, hr⟩]
end

/-! ### The end of a write phase -/

section
variable (s : State) (c : CoreId) (f : Flight)

/-- The write phase writes the core, then its histogram and registers that do not count instructions, and completes. The marks stand in
the order in which the write phase makes them: seed, flags, clamps, samples, counters. -/
theorem State.vecFinish_split : ∃ u : State, s.vecFinish c f = u.complete c f.seq ∧
    (s.modCore c fun C => C.vecWritten (s.vecResult c f).1).Marks u c := by
  unfold State.vecFinish
  exact ⟨_, rfl, .trans (.wr _ _ (by simp)) (.trans (.orVflags ..) (.trans (.ite (.shapeClamp _) (.refl ..))
    (.trans (.ite (.valClamp _) (.refl ..)) (.trans (.sample ..) (.trans (.trans (.slotWait _) (.bump _ _ (by simp)))
      (.ite (.refl ..) (.bump _ _ (by simp))))))))⟩

/-- What the end of flight `f` of the vector queue leaves. -/
structure VecEnded (s u : State) (c : CoreId) (f : Flight) : Prop where
  fl : (u.core c).fl = (s.core c).fl.filter fun g => g.seq != f.seq
  masks : ∀ m, (u.core c).mask m = ((s.core c).vecWritten (s.vecResult c f).1).mask m
  g : ∀ r, (u.core c).rg r = ((s.core c).vecWritten (s.vecResult c f).1).rg r
  mem : u.mem = s.mem
  cores : ∀ d, d ≠ c → u.core d = s.core d
  count : u.rd (COR_INSTRET c.toNat) = BitVec.ofNat 64 (((s.rd (COR_INSTRET c.toNat)).toNat + 1) % 2 ^ 48)

theorem State.vecFinish_ended : VecEnded s (s.vecFinish c f) c f := by
  obtain ⟨u, hu, n, x, h⟩ := s.vecFinish_split c f
  have hC : u.core c = { (s.core c).vecWritten (s.vecResult c f).1 with histCount := n, hist := x } :=
    h.core.trans (by rw [State.core_modCore_same])
  rw [hu]
  refine ⟨?fl, fun m => ?masks, fun r => ?g, h.mem, fun d hd => ?cores, ?count⟩
  case fl => simp [hC, CoreSt.fl_vecWritten]
  case masks => rw [State.core_complete_same, hC]; rfl
  case g => rw [State.core_complete_same, hC]; rfl
  case cores => rw [State.core_complete_other _ _ _ hd, h.cores d hd, State.core_modCore_other _ _ hd]
  case count => rw [State.rd_complete_count, h.regs _ (not_mem_vecRegs c), State.rd_modCore]
end

/-- The head of the vector queue ends its write phase once the registers it names allow it. -/
theorem exec_vecInsnComplete_ready {s : State} {c : CoreId} {f : Flight} (hf : (s.core c).vecHead = some f)
    (hready : (s.core c).vecReady f = true) (hclk : s.clocked c = true) :
    exec (.vecInsnComplete c) s = .next ((s.vecFinish c f).pump c) := by
  show execVecInsnComplete c s = _
  simp only [execVecInsnComplete, hf, hclk, hready, Bool.and_self, if_true]

/-! ### Mask instructions (R153) -/

/-- A key of class 6 names class and opcode. -/
theorem iclass_iop_of_ikey {w : Word} {op : Nat} (hop : op < 16) (h : ikey w = 0x6000 + op * 16) : iclass w = 6 ∧ iop w = op := by
  have hiop : iop w < 64 := by
    unfold iop ibits
    split <;> omega
  have hifn : ifn w < 8 := by
    unfold ifn ibits
    split <;> omega
  unfold ikey at h
  omega

/-- The opcodes of class 6 from 3 up are mask instructions. -/
theorem State.vecResult_mask (s : State) (c : CoreId) {f : Flight} (hcls : iclass f.w = 6) (hop : 3 ≤ iop f.w) :
    (s.vecResult c f).1 = (s.core c).runMask f := by
  simp only [State.vecResult, hcls, if_neg (Nat.not_lt.mpr hop)]

/-- What each mask instruction brings, by its opcode: MAND, MOR, MXOR, MANDN, MNOT, MSET, MCNT and MFF. -/
theorem CoreSt.runMask_of_iop (C : CoreSt) (f : Flight) :
    let a := C.mask (f.w.extractLsb' 43 3)
    let b := C.mask (f.w.extractLsb' 38 3)
    let md := f.w.extractLsb' 48 3
    let rd := f.w.extractLsb' 48 5
    (iop f.w = 0x8 → C.runMask f = { mask := some (md, a &&& b) }) ∧
    (iop f.w = 0x9 → C.runMask f = { mask := some (md, a ||| b) }) ∧
    (iop f.w = 0xA → C.runMask f = { mask := some (md, a ^^^ b) }) ∧
    (iop f.w = 0xB → C.runMask f = { mask := some (md, a &&& ~~~b) }) ∧
    (iop f.w = 0xC → C.runMask f = { mask := some (md, ~~~a) }) ∧
    (iop f.w = 0xD → C.runMask f =
      { mask := some (md, BitVec.ofNat 4096 (2 ^ min f.a.toNat 4096 - 1)), valClamp := decide (4096 < f.a.toNat) }) ∧
    (iop f.w = 0xE → C.runMask f = { greg := some (rd, BitVec.ofNat 64 (popCount a)) }) ∧
    (iop f.w = 0xF → C.runMask f = { greg := some (rd, BitVec.ofNat 64 (firstSet a)) }) := by
  refine ⟨?_, ?_, ?_, ?_, ?_, ?_, ?_, ?_⟩ <;> intro hop <;> simp only [CoreSt.runMask, ireg, hop]

section
variable {s u : State} {c : CoreId} {f : Flight} {op : Nat}

/-- A mask instruction that brings a mask writes it. -/
theorem VecEnded.mask_eq (h : VecEnded s u c f) {m : BitVec 3} {v : BitVec 4096} {vc : Bool}
    (hv : iop f.w = op → (s.core c).runMask f = { mask := some (m, v), valClamp := vc })
    (hk : ikey f.w = 0x6000 + op * 16) (hop : 3 ≤ op ∧ op < 16) : (u.core c).mask m = v := by
  obtain ⟨hcls, hiop⟩ := iclass_iop_of_ikey hop.2 hk
  rw [h.masks, s.vecResult_mask c hcls (hiop ▸ hop.1), hv hiop]
  exact CoreSt.mask_vecWritten _ rfl

/-- A mask instruction that brings a number writes it to its g register. -/
theorem VecEnded.rg_eq (h : VecEnded s u c f) {r : BitVec 5} {v : Word}
    (hv : iop f.w = op → (s.core c).runMask f = { greg := some (r, v) })
    (hk : ikey f.w = 0x6000 + op * 16) (hop : 3 ≤ op ∧ op < 16) (hr : r ≠ 0) : (u.core c).rg r = v := by
  obtain ⟨hcls, hiop⟩ := iclass_iop_of_ikey hop.2 hk
  rw [h.g, s.vecResult_mask c hcls (hiop ▸ hop.1), hv hiop]
  exact CoreSt.rg_vecWritten _ rfl hr
end

/-- The mask MSET writes has its lowest `n` bits set. -/
theorem getLsbD_ones (n i : Nat) (hi : i < 4096) : (BitVec.ofNat 4096 (2 ^ min n 4096 - 1)).getLsbD i = decide (i < n) := by
  rw [BitVec.getLsbD_ofNat, Nat.testBit_two_pow_sub_one]
  simp [hi]

theorem popCount_eq_countP (m : BitVec 4096) : popCount m = (List.range 4096).countP fun i => m.getLsbD i :=
  List.countP_eq_length_filter.symm

theorem firstSet_of_lowest {m : BitVec 4096} {i : Nat} (hi : i < 4096) (hset : m.getLsbD i = true)
    (hlow : ∀ j, j < i → m.getLsbD j = false) : firstSet m = i := by
  have hfind : (List.range 4096).find? (fun i => m.getLsbD i) = some i :=
    List.find?_range_eq_some.mpr ⟨hset, List.mem_range.mpr hi, fun j hj => by rw [hlow j hj]; rfl⟩
  rw [firstSet, hfind, Option.getD_some]

theorem firstSet_zero : firstSet 0 = 4096 := by
  have hfind : (List.range 4096).find? (fun i => (0 : BitVec 4096).getLsbD i) = none :=
    List.find?_range_eq_none.mpr fun i _ => by simp
  rw [firstSet, hfind, Option.getD_none]

/-- Settles O18: the end of the write phase changes the core by the instruction's result alone, which for a mask instruction is R153's. -/
theorem vectorEnds : Obligations.VectorEnds := by
  unfold Obligations.VectorEnds
  intro c s f C w a b md rd u hhead hreads hwrites hmasks hscales hclk
  have hready : C.vecReady f = true := by
    unfold CoreSt.vecReady
    rw [hreads, hwrites, hmasks, hscales]
    rfl
  have h : VecEnded s u c f := s.vecFinish_ended c f
  obtain ⟨hand, hor, hxor, handn, hnot, hset, hcnt, hff⟩ := C.runMask_of_iop f
  refine ⟨exec_vecInsnComplete_ready hhead hready hclk, h.fl, h.mem, h.cores, h.count, fun hk => h.mask_eq hand hk (by decide),
    fun hk => h.mask_eq hor hk (by decide), fun hk => h.mask_eq hxor hk (by decide), fun hk => h.mask_eq handn hk (by decide),
    fun hk => h.mask_eq hnot hk (by decide), fun hk i hi => ?mset, fun hk hrd => ?mcnt, fun hk hrd i hi hbit hlow => ?mff,
    fun hk hrd ha => ?mffNone⟩
  case mset => rw [h.mask_eq hset hk (by decide), getLsbD_ones _ _ hi]
  case mcnt => rw [h.rg_eq hcnt hk (by decide) hrd, popCount_eq_countP]
  case mff => rw [h.rg_eq hff hk (by decide) hrd, firstSet_of_lowest hi hbit hlow]
  case mffNone =>
    rw [h.rg_eq hff hk (by decide) hrd, show C.mask _ = 0 from ha, firstSet_zero]
    rfl

end Sys2Proof.Machine
end

section
/-!
PROOF. The rows of core instructions as issue steps, and the results of the scalar ALU, branch and illegal instructions
(R164 to R166).
-/
namespace Sys2Proof.Machine

/-! ### Keys -/

theorem iop_lt (w : Word) : iop w < 64 := by
  unfold iop ibits
  split <;> omega

theorem ifn_lt (w : Word) : ifn w < 8 := by
  unfold ifn ibits
  split <;> omega

/-- The class that a key names. -/
theorem iclass_eq_key (w : Word) : iclass w = ikey w / 0x1000 := by
  have := iop_lt w
  have := ifn_lt w
  unfold ikey
  omega

/-- The opcode that a key names. -/
theorem iop_eq_key (w : Word) : iop w = ikey w / 0x10 % 0x100 := by
  have := iop_lt w
  have := ifn_lt w
  unfold ikey
  omega

/-! ### Rows as issue steps -/

theorem exec_vectorRow : ∀ p ∈ vectorRows, ∀ c w s, exec (p.cmd c w) s = .next (s.vecIssue c w p.key) := by
  intro p hp
  fin_cases hp <;> exact fun _ _ _ => rfl

theorem exec_laneRow : ∀ p ∈ laneRows, ∀ c w s, exec (p.cmd c w) s = .next (s.gIssue c w p.key 38) := by
  intro p hp
  fin_cases hp <;> exact fun _ _ _ => rfl

theorem exec_convertRow : ∀ p ∈ convertRows, ∀ c w s, exec (p.cmd c w) s = .next (s.gIssue c w p.key 32) := by
  intro p hp
  fin_cases hp <;> exact fun _ _ _ => rfl

theorem exec_scalarAccessRow : ∀ p ∈ accessRows.take 11, ∀ c w s, exec (p.cmd c w) s = .next (s.scalarLs c w p.key) := by
  intro p hp
  fin_cases hp <;> exact fun _ _ _ => rfl

theorem exec_tileAccessRow : ∀ p ∈ accessRows.drop 11, ∀ c w s, exec (p.cmd c w) s = .next (s.tileLs c w p.key) := by
  intro p hp
  fin_cases hp <;> exact fun _ _ _ => rfl

theorem exec_arrayRow : ∀ p ∈ arrayRows, ∀ c w s, exec (p.cmd c w) s = .next (s.arrIssue c w p.key) := by
  intro p hp
  fin_cases hp <;> exact fun _ _ _ => rfl

/-- The command of a row is the issue step of the row's key, with some effect. -/
def CoreRow.Issues (p : CoreRow) : Prop :=
  ∀ c w, ∃ eff : State → State, ∀ s, exec (p.cmd c w) s = .next (s.issue c w p.key eff)

theorem scalarRow_issues : ∀ p ∈ scalarRows, p.Issues := by
  intro p hp
  fin_cases hp <;> exact fun _ _ => ⟨_, fun _ => rfl⟩

theorem controlRow_issues : ∀ p ∈ controlRows, p.Issues := by
  intro p hp
  fin_cases hp <;> exact fun _ _ => ⟨_, fun _ => rfl⟩

theorem accessRow_issues : ∀ p ∈ accessRows, p.Issues := by
  rw [← List.take_append_drop 11 accessRows, List.forall_mem_append]
  exact ⟨fun p hp c w => ⟨_, exec_scalarAccessRow p hp c w⟩, fun p hp c w => ⟨_, exec_tileAccessRow p hp c w⟩⟩

theorem coreRow_issues : ∀ p ∈ coreRows, p.Issues := by
  simp only [coreRows, List.forall_mem_append]
  exact ⟨⟨⟨⟨⟨⟨scalarRow_issues, accessRow_issues⟩, fun p hp c w => ⟨_, exec_arrayRow p hp c w⟩⟩,
    fun p hp c w => ⟨_, exec_vectorRow p hp c w⟩⟩, fun p hp c w => ⟨_, exec_laneRow p hp c w⟩⟩,
    fun p hp c w => ⟨_, exec_convertRow p hp c w⟩⟩, controlRow_issues⟩

/-! ### Results -/

/-- Every scalar ALU instruction but MOVHI takes IMM as its second source where I is 1, else g[RB]. -/
theorem CoreSt.aluB_of_iop_ne {w : Word} (C : CoreSt) (h : iop w ≠ 0x18) :
    C.aluB w = if w.getLsbD 38 then (w.extractLsb' 0 32).signExtend 64 else C.rg (w.extractLsb' 39 5) := by
  simp [CoreSt.aluB, ibit, ireg, h]

theorem CoreSt.aluB_movhi {w : Word} (C : CoreSt) (h : iop w = 0x18) : C.aluB w = (w.extractLsb' 0 32).signExtend 64 := by
  simp [CoreSt.aluB, h]

section
variable {s : State} {c : CoreId} {w : Word} {key : Nat}

theorem State.alu_done (h : s.CanIssue c w key) (f : Word → Word → Word) :
    ScalarDone s (s.alu c w key f) c (w.extractLsb' 49 5) (f ((s.core c).rg (w.extractLsb' 44 5)) ((s.core c).aluB w))
      ((s.core c).pc + 8) := by
  unfold State.alu
  rw [State.issue_ok h]
  exact State.scalarDone s c _ _ _

theorem State.branch_done (h : s.CanIssue c w key) (p : Word → Word → Bool) :
    ScalarDone s (s.branch c w key p) c 0 0
      (if p ((s.core c).rg (w.extractLsb' 51 5)) ((s.core c).rg (w.extractLsb' 46 5)) then brTarget (s.core c).pc w
        else (s.core c).pc + 8) := by
  unfold State.branch
  rw [State.issue_ok h]
  exact State.scalarDone_none s c _
end

/-- Settles O1: an instruction that issues writes its function of its two sources, which only MOVHI takes otherwise. -/
theorem scalarAluResults : Obligations.ScalarAluResults := by
  unfold Obligations.ScalarAluResults
  intro c w s a imm b gives
  have result {i : Instr} {op : Nat} {v : Word} (f : Word → Word → Word)
      (hi : exec i s = .next (s.alu c w (op * 16) f)) (hv : f a b = v) (hop : op < 0x18 := by decide) : gives i (op * 16) v := by
    intro h
    have hb : (s.core c).aluB w = b := CoreSt.aluB_of_iop_ne _ (by rw [iop_eq_key, h.row]; omega)
    have done := State.alu_done h f
    rw [hb, show f _ b = v from hv] at done
    exact ⟨_, hi, done⟩
  refine ⟨result (op := 0) _ rfl rfl, result (op := 1) _ rfl rfl, result (op := 2) _ rfl rfl, result (op := 3) _ rfl rfl,
    result (op := 4) _ rfl rfl, result (op := 5) _ rfl rfl, result (op := 6) _ rfl rfl, result (op := 7) _ rfl rfl,
    result (op := 8) _ rfl ?slt, result (op := 9) _ rfl ?sltu, result (op := 0xA) _ rfl ?min, result (op := 0xB) _ rfl ?max,
    result (op := 0xC) _ rfl ?minu, result (op := 0xD) _ rfl ?maxu, result (op := 0x10) _ rfl rfl, result (op := 0x11) _ rfl rfl,
    result (op := 0x12) _ rfl ?divu, result (op := 0x13) _ rfl ?remu, ?movhi⟩
  case slt | min | max => simp only [BitVec.slt, decide_eq_true_eq]
  case sltu | minu | maxu => simp only [BitVec.ult, decide_eq_true_eq]
  case divu => exact ite_congr rfl (fun _ => rfl) fun _ => by rw [BitVec.udiv_def]
  case remu => exact ite_congr rfl (fun _ => rfl) fun _ => by rw [BitVec.umod_def]
  case movhi =>
    intro h
    have done := State.alu_done h fun a b => (a &&& 0xFFFFFFFF) ||| (b <<< 32)
    rw [CoreSt.aluB_movhi _ (by rw [iop_eq_key, h.row])] at done
    exact ⟨_, rfl, done⟩

/-- Settles O2: a branch that issues moves the program counter by its condition; JAL and JALR link. -/
theorem branchResults : Obligations.BranchResults := by
  unfold Obligations.BranchResults
  intro c w s C a b off pc link goes
  have result {i : Instr} {key : Nat} {p : Prop} [Decidable p] (f : Word → Word → Bool) (hi : exec i s = .next (s.branch c w key f))
      (hp : f a b = true ↔ p) : goes i key p := by
    intro h
    have target : (if f a b = true then (pc + off).toNat else C.pc + 8) = if p then (pc + off).toNat else C.pc + 8 := if_congr hp rfl rfl
    exact ⟨_, hi, target ▸ State.branch_done h f⟩
  refine ⟨result _ rfl beq_iff_eq, result _ rfl bne_iff_ne, result _ rfl ?blt, result _ rfl ?bge, result _ rfl ?bltu,
    result _ rfl ?bgeu, fun h => ?jal, fun h => ?jalr⟩
  case blt => simp only [BitVec.slt, decide_eq_true_eq]
  case bge => simp only [BitVec.slt, Bool.not_eq_true', decide_eq_false_iff_not, not_lt]
  case bltu => simp only [BitVec.ult, decide_eq_true_eq]
  case bgeu => simp only [BitVec.ult, Bool.not_eq_true', decide_eq_false_iff_not, not_lt]
  case jal => exact ⟨_, next_congr (State.issue_ok h), State.scalarDone s c _ _ _⟩
  case jalr => exact ⟨_, next_congr (State.issue_ok h), State.scalarDone s c _ _ _⟩

/-- Settles O3: whatever row names it, the issue step of an illegal word is an ILLEGAL exception. -/
theorem illegalInstruction : Obligations.IllegalInstruction := by
  unfold Obligations.IllegalInstruction
  intro p hp c w s hat hill
  obtain ⟨eff, hexec⟩ := coreRow_issues p hp c w
  have illegal : s.issue c w p.key eff = s.exception c 1 0 0 (s.core c).pc := by
    cases hl : listed w with
    | false => exact State.issue_illegal hat hl
    | true =>
      obtain ⟨hrow, hfields⟩ := hill.resolve_left (by rw [hl]; decide)
      exact State.issue_fields hat hl hrow hfields
  have hex := s.excepted c 1 0 0 (s.core c).pc
  obtain ⟨hvalid, hfatal, hcause, -, -⟩ := excWord_fields 1 0 0
  obtain ⟨-, hrun, -⟩ := State.atIssue_cases hat
  refine ⟨_, (hexec s).trans (next_congr illegal), (congrArg CoreSt.run hex.core).trans (CoreSt.run_programStopped hrun),
    congrArg CoreSt.fl hex.core, fun r => ?greg, ?_⟩
  case greg =>
    unfold CoreSt.rg
    rw [hex.core, CoreSt.g_programStopped]
  rw [hex.exc]
  exact ⟨hvalid, hcause, hfatal, hex.excPc, hex.mem, hex.cores⟩

end Sys2Proof.Machine
end

section
/-!
PROOF. Instructions that enter their unit's queue (R167, R168, R173 to R180), the system class (R181, R185), and fetch (R184).
-/
namespace Sys2Proof.Machine

/-! ### Entry into a queue -/

section
variable {s : State} {c : CoreId} {w : Word} {key : Nat}

theorem State.vecIssue_queued (h : s.CanIssue c w key) :
    Queued s (s.vecIssue c w key) c w ((s.core c).scalarOf w 45 43) ((s.core c).scalarOf w 38 36) ((s.core c).scalarOf w 31 29) := by
  unfold State.vecIssue
  rw [State.issue_ok h]
  exact State.queued ..

theorem State.gIssue_queued (h : s.CanIssue c w key) (g : Nat) :
    Queued s (s.gIssue c w key g) c w ((s.core c).rg (ireg w g)) 0 0 := by
  unfold State.gIssue
  rw [State.issue_ok h]
  exact State.queued ..

/-- A scalar access enters its queue at its address rounded down to its size, which ALIGN_CLAMP records. -/
theorem State.scalarLs_queued (h : s.CanIssue c w key) :
    let ea := (s.core c).rg (ireg w 46) + (w.extractLsb' 0 32).signExtend 64
    let a := BitVec.ofNat 64 (ea.toNat / accSize w * accSize w)
    ∃ u : State, s.scalarLs c w key = u.pump c ∧
      Queued (if a = ea then s else s.alignClamp c) u c w a 0 ((s.core c).rg (ireg w 51)) (a != ea) := by
  intro ea a
  exact ⟨_, State.issue_ok h, State.queued (if a = ea then s else s.alignClamp c) c w a 0 _ _⟩
end

/-- Settles O5: the issue step of each row is the entry into the vector queue. -/
theorem vectorIssue : Obligations.VectorIssue := by
  unfold Obligations.VectorIssue
  intro c w s C sc
  refine ⟨fun p hp h => ⟨_, exec_vectorRow p hp c w s, State.vecIssue_queued h⟩,
    fun p hp h => ⟨_, exec_laneRow p hp c w s, State.gIssue_queued h 38⟩,
    fun p hp h => ⟨_, exec_convertRow p hp c w s, State.gIssue_queued h 32⟩⟩

/-- An instruction that changes nothing else of its core as it completes at issue. -/
theorem State.retire_done (s : State) (c : CoreId) : ScalarDone s (s.retire c id) c 0 0 ((s.core c).pc + 8) :=
  State.scalarDone_none s c _

/-- Among the tile accesses the store's row alone counts as a store. -/
theorem tileCount_of_row {p : CoreRow} {w : Word} (hp : p ∈ accessRows.drop 11) (h : ikey w = p.key) (c : CoreId) :
    tileCount c w = if p.key = 0x3020 then COR_TILE_STORES c.toNat else COR_TILE_LOADS c.toNat := by
  unfold tileCount isStore
  rw [iclass_eq_key, iop_eq_key, h]
  fin_cases hp <;> rfl

/-- Settles O6: an access enters its queue after the sticky bits its alignment and shape set; an empty one retires. -/
theorem accessIssue : Obligations.AccessIssue := by
  unfold Obligations.AccessIssue
  intro c w s C base
  refine ⟨fun p hp h => ?scalar, fun p hp h => ?tile⟩
  case scalar =>
    intro ea a s1
    obtain ⟨u, hu, hqueued⟩ := State.scalarLs_queued h
    exact ⟨u, (exec_scalarAccessRow p hp c w s).trans (next_congr hu), hqueued⟩
  case tile =>
    intro ea st f k a b al s1 sh s2
    have hexec := (exec_tileAccessRow p hp c w s).trans (next_congr (State.issue_ok h))
    refine ⟨fun hsh => ?moves, fun hsh => ?empty⟩
    case moves => exact ⟨_, hexec.trans (next_congr (if_neg hsh)), State.queued s2 c w a b 0 al⟩
    case empty =>
      have hcore : s2.core c = C := by
        dsimp only [s2, s1]
        split_ifs <;> rfl
      exact ⟨s2.retire c id, hexec.trans (next_congr ((if_pos hsh).trans
        (congrArg (fun n => (s2.retire c id).bump n) (tileCount_of_row hp h.row c)))), hcore ▸ State.retire_done s2 c⟩

/-- An instruction put into its queue whose wait then holds issue. -/
theorem State.queued_waiting (s : State) (c : CoreId) (w a b x : Word) (wait : Option CoreWait) :
    Queued (s.modCore c fun C => { C with wait := wait }) ((s.enqueue c w a b x).modCore c fun C => { C with wait := wait }) c w a b x := by
  have h := s.queued c w a b x
  refine ⟨?core, fun d hd => ?cores, rfl⟩
  case core =>
    rw [State.core_modCore_same, State.core_modCore_same, h.core]
    simp [State.newFlight, State.mtxCtl]
  case cores => rw [State.core_modCore_other _ _ hd, State.core_modCore_other _ _ hd, h.cores d hd]

/-- Settles O13: each enters its queue with its operands, SWAIT and BARR with what they wait for. -/
theorem syncIssue : Obligations.SyncIssue := by
  unfold Obligations.SyncIssue
  intro c w s C a b line enters
  have entry {i : Instr} {key : Nat} {wait : Option CoreWait} (hi : exec i s = .next (s.syncIssue c w key wait)) : enters i key wait :=
    fun h => ⟨_, hi.trans (next_congr (State.issue_ok h)), State.queued_waiting s c w a b 0 wait⟩
  exact ⟨fun h => ⟨_, next_congr (State.issue_ok h), State.queued _ c w _ 0 0 _⟩, entry rfl, entry rfl, entry rfl, entry rfl,
    entry rfl, entry rfl, entry rfl, entry rfl⟩

/-! ### The fetch -/

/-- A page the translation buffer holds with the permission gives the address at once. -/
theorem State.xlateCore_hit {s : State} {c : CoreId} {va : Nat} {e : TlbEnt} {need : Need}
    (hf : (s.core c).tlb.find? (fun e => decide (e.va ≤ va) && decide (va < e.va + e.size)) = some e) (hp : permits e need = true) :
    s.xlateCore c va need = (s, .ok (e.pa + (va - e.va))) := by
  simp [State.xlateCore, hf, inPage, hp]

/-- A counter and a core are changed in either order. -/
theorem State.bump_modCore (s : State) (c : CoreId) (f : CoreSt → CoreSt) (a n : Nat) :
    (s.modCore c f).bump a n = (s.bump a n).modCore c f := rfl

/-- Core `c` fetches the word at `pa`, for which no line has come (R184). -/
structure State.Fetches (s : State) (c : CoreId) (pa : Nat) : Prop where
  clocked : s.clocked c = true
  run : (s.core c).run = .running
  ibuf : (s.core c).ibuf = none
  held : (s.core c).fetchHeld = false
  parked : (s.core c).parked = false
  got : (s.core c).fetchGot = none
  xlate : s.xlateCore c (s.core c).pc .fetch = (s, .ok pa)
  ok : s.fetchOk c pa = true

section
variable {s : State} {c : CoreId} {pa : Nat} (h : s.Fetches c pa)
include h

/-- The word of a cached line goes to issue. -/
theorem State.Fetches.exec_cached {l : CacheLine} (hl : (s.core c).cached (pa / 256 * 256) = some l)
    (hclean : linePoison l.poison (pa % 256) 8 = false) : exec (.fetchResponse c) s =
      .next ((s.bump (COR_CACHE_HIT c.toNat)).modCore c fun C => { C.touch l with ibuf := some (lineWord l pa), fetchGot := none }) := by
  have hexec : exec (.fetchResponse c) s = .next (((s.modCore c fun C => C.touch l).bump (COR_CACHE_HIT c.toNat)).fetchFrom c l pa) := by
    show execFetchResponse c s = _
    simp [execFetchResponse, h.clocked, h.run, h.ibuf, h.held, h.parked, h.got, h.xlate, h.ok, hl]
  rw [hexec, State.fetchFrom, if_neg (by simp [hclean]), State.bump_modCore, State.modCore_modCore]

/-- A line the cache does not hold is asked for, once. -/
theorem State.Fetches.exec_missed (hmiss : (s.core c).cached (pa / 256 * 256) = none)
    (hwant : (s.core c).fetchWant ≠ some (pa / 256 * 256)) : exec (.fetchResponse c) s =
      .next ((s.bump (COR_CACHE_MISS c.toNat)).modCore c fun C => { C with fetchWant := some (pa / 256 * 256) }) := by
  show execFetchResponse c s = _
  simp [execFetchResponse, h.clocked, h.run, h.ibuf, h.held, h.parked, h.got, h.xlate, h.ok, hmiss, hwant]
end

/-- Settles O19: a translation that hits leaves the state as it is, and the line is in the cache or is asked for. -/
theorem fetchAndHalt : Obligations.FetchAndHalt := by
  unfold Obligations.FetchAndHalt
  intro c s C
  refine ⟨fun hclk hrun hfl => next_congr (if_pos ⟨hclk, hrun, List.isEmpty_iff.mpr hfl⟩),
    fun h => next_congr (if_neg (by simpa using h)), ?fetch⟩
  intro e hclk hrun hbuf hheld hpark hgot htlb hx pa hok
  have h : s.Fetches c pa := ⟨hclk, hrun, hbuf, hheld, hpark, hgot, State.xlateCore_hit htlb hx, hok⟩
  exact ⟨fun l hl hclean => h.exec_cached hl hclean, fun hmiss hwant => h.exec_missed hmiss hwant⟩

end Sys2Proof.Machine
end

section
/-!
PROOF. An instruction that is the core's only one in flight: the DMA and sync queues' results (R178, R179, R229), and the system class
(R181, R185).
-/
namespace Sys2Proof.Machine

/-! ### The only instruction in flight -/

/-- `f` is the only instruction in flight of core `c`, whose clock runs, and nothing else waits. -/
structure State.Lone (u : State) (c : CoreId) (f : Flight) : Prop where
  clocked : u.clocked c = true
  flights : (u.core c).fl = [f]
  seeds : ∀ a : Nat, ((u.core c).array a).seedWait = []
  wait : (u.core c).wait = none

namespace State.Lone
variable {u v : State} {c : CoreId} {f : Flight} (h : u.Lone c f)
include h

theorem before : (u.core c).before f.seq = [] := by simp [CoreSt.before, h.flights]

theorem pumpOnce_lsu (hunit : unitOf f.w = .lsu) : u.pumpOnce c = (u.tryLsu c f).trySwait c := by
  rw [State.pumpOnce_single u c f h.flights h.seeds, hunit]

theorem pumpOnce_sync (hunit : unitOf f.w = .sync) : u.pumpOnce c = (u.trySync c f).trySwait c := by
  rw [State.pumpOnce_single u c f h.flights h.seeds, hunit]

theorem pumpOnce_dmast (hunit : unitOf f.w = .dma) (hop : iop f.w = 1) : u.pumpOnce c = (u.tryDmast c f).trySwait c := by
  rw [State.pumpOnce_single u c f h.flights h.seeds, hunit]
  simp only [hop, if_true]

/-- The pump is over once a pass leaves its state as it is. -/
theorem pump_eq (hone : u.pumpOnce c = v) (hfix : v.pumpOnce c = v) : u.pump c = v := by
  simp [State.pump, h.clocked, h.flights, List.range_succ, hone, hfix]
end State.Lone

/-- A pass of the pump leaves a core with nothing in flight and nothing waiting as it is. -/
theorem State.pumpOnce_quiet {v : State} {c : CoreId} (h : v.Quiet c) (hw : (v.core c).wait = none) : v.pumpOnce c = v := by
  unfold State.pumpOnce
  simp only [List.foldl, State.applySeed_none v c _ (h.seeds _), h.flights]
  exact State.trySwait_none v c hw

section
variable {s t u : State} {c : CoreId} {w a b x : Word} {al : Bool} {rd : BitVec 5} {v : Word} {pc : Nat}

theorem ScalarDone.quiet (h : ScalarDone s t c rd v pc) (hq : s.Quiet c) : t.Quiet c :=
  ⟨by rw [h.core]; exact hq.flights, fun a => by rw [h.core]; exact hq.seeds a⟩

theorem ScalarDone.wait (h : ScalarDone s t c rd v pc) : (t.core c).wait = (s.core c).wait := by rw [h.core]

/-- What a queue entry leaves of the clocks. -/
theorem Queued.clocked (h : Queued s u c w a b x al) : u.clocked c = s.clocked c := by rw [h.rest]; rfl

/-- An instruction put into the empty queues of a core is its only one in flight. -/
theorem Queued.lone (h : Queued s u c w a b x al) (hq : s.Quiet c) (hclk : s.clocked c = true) (hw : (s.core c).wait = none) :
    u.Lone c (s.newFlight c w a b x al) := by
  obtain ⟨hfl, hseeds, hwait⟩ := h.single hq
  exact ⟨h.clocked.trans hclk, hfl, hseeds, hwait.trans hw⟩

/-- The only instruction in flight completes: what its end changes of the core is the g register written. -/
theorem Queued.completed (h : Queued s u c w a b x al) (hq : s.Quiet c) {F : CoreSt → CoreSt}
    (hfl : ∀ g ∈ (F (u.core c)).fl, g.seq = (s.core c).seq)
    (hF : { F (u.core c) with fl := [] } = { (u.core c).setRg rd v with fl := [] }) :
    ScalarDone s ((u.modCore c F).complete c (s.core c).seq) c rd v ((s.core c).pc + 8) := by
  have hcore : ((u.modCore c F).complete c (s.core c).seq).core c = { (u.core c).setRg rd v with fl := (s.core c).fl } := by
    rw [hq.flights, State.core_complete_same, State.core_modCore_same, ← hF, List.filter_eq_nil_iff.mpr fun g hg => by simp [hfl g hg]]
  have hcu := h.core
  refine ⟨fun r => ?greg, ?core, fun d hd => ?cores, ?count, fun a ha => ?regs, ?rest⟩
  case greg =>
    have hr : ((u.core c).setRg rd v).rg r = _ := CoreSt.rg_setRg ..
    rw [hcore]
    refine hr.trans ?_
    rw [hcu]
    rfl
  case core =>
    rw [hcore, CoreSt.setRg_eq, hcu]
  case cores => rw [State.core_complete_other _ _ _ hd, State.core_modCore_other _ _ hd, h.cores d hd]
  case count =>
    rw [State.rd_complete_count, State.rd_modCore, h.rest]
    rfl
  case regs =>
    rw [State.rd_complete_other _ _ _ ha, State.rd_modCore, h.rest]
    rfl
  case rest =>
    rw [h.rest]
    rfl

/-- The pump of a core whose only instruction in flight completes at once. -/
theorem Queued.pump_done (h : Queued s u c w a b x al) (hq : s.Quiet c) (hclk : s.clocked c = true) (hw : (s.core c).wait = none)
    (hone : u.pumpOnce c = t.trySwait c) {s' : State} (hs : s'.core c = s.core c) (ht : ScalarDone s' t c rd v pc) : u.pump c = t := by
  have hwait : (t.core c).wait = none := by rw [ht.wait, hs, hw]
  have hquiet : t.Quiet c := ht.quiet ⟨by rw [hs, hq.flights], by rw [hs]; exact hq.seeds⟩
  exact (h.lone hq hclk hw).pump_eq (hone.trans (State.trySwait_none t c hwait)) (State.pumpOnce_quiet hquiet hwait)
end

/-! ### The DMA and sync queues -/

section
variable {s u : State} {c : CoreId} {w a b x : Word} {al : Bool}

/-- The only instruction in flight ends by writing a g register. -/
theorem Queued.completed_setRg (h : Queued s u c w a b x al) (hq : s.Quiet c) (rd : BitVec 5) (v : Word) :
    ScalarDone s ((u.modCore c fun C => C.setRg rd v).complete c (s.core c).seq) c rd v ((s.core c).pc + 8) := by
  refine h.completed hq (fun g hg => ?_) rfl
  rw [CoreSt.fl_setRg, (h.single hq).1, List.mem_singleton] at hg
  rw [hg]
  rfl

/-- The status a tag has does not depend on a core's queues. -/
theorem Queued.dmaStatus (h : Queued s u c w a b x al) (v : Word) : u.dmaStatus v = s.dmaStatus v := by rw [h.rest]; rfl

theorem State.tryDmast_lone {f : Flight} (h : u.Lone c f) :
    u.tryDmast c f = (u.modCore c fun C => C.setRg (ireg f.w 51) (u.dmaStatus f.a)).complete c f.seq :=
  if_neg (by simp [h.flights])

/-- A DMAST that is its core's only instruction in flight is answered at once. -/
theorem Queued.pump_dmast (h : Queued s u c w a b x al) (hq : s.Quiet c) (hi : s.CanIssue c w 0x8010) :
    ScalarDone s (u.pump c) c (ireg w 51) (s.dmaStatus a) ((s.core c).pc + 8) := by
  obtain ⟨hclk, -, hw, -, -⟩ := State.atIssue_cases hi.atIssue
  have lone := h.lone hq hclk hw
  have hunit : unitOf w = .dma := by simp [unitOf, iclass_eq_key, hi.row]
  have hop : iop w = 1 := by rw [iop_eq_key, hi.row]
  have done := h.completed_setRg hq (ireg w 51) (u.dmaStatus a)
  rw [h.pump_done hq hclk hw ((lone.pumpOnce_dmast hunit hop).trans (congrArg (State.trySwait · c) (State.tryDmast_lone lone))) rfl done,
    ← h.dmaStatus a]
  exact done
end

/-! ### The system class -/

/-- A read of COR_VFLAGS shows the register itself. -/
theorem State.corRead_vflags (s : State) (c : CoreId) : s.corRead c (COR_VFLAGS c.toNat) = s.rd (COR_VFLAGS c.toNat) := by
  simp [State.corRead, COR_VFLAGS, COR_ID, COR_MTX_STATUS, COR_TILE_STATE, COR_MISS_STATUS, COR_MEM_CTL, COR_MASK]

/-- A write of COR_VFLAGS is a plain one. -/
theorem State.corWrite_vflags (s : State) (c : CoreId) (v : Word) :
    s.corWrite c (COR_VFLAGS c.toNat) v = s.plainWrite (COR_VFLAGS c.toNat) v := by
  have seed : ¬ (COR_VFLAGS c.toNat = COR_MTX_SEED c.toNat 0 ∨ COR_VFLAGS c.toNat = COR_MTX_SEED c.toNat 1 ∨
      COR_VFLAGS c.toNat = COR_MTX_SEED c.toNat 2) := by
    unfold COR_VFLAGS COR_MTX_SEED
    omega
  simp only [State.corWrite, if_neg seed]
  simp [COR_VFLAGS, COR_MTX_CTL, COR_HST_CTL, COR_HST_BASE, COR_HST_STATUS, COR_HST_TAG, COR_TILE_CTL,
    COR_TFAULT_CMD, COR_VEC_CTL, COR_IRAISE, COR_EXC, COR_CVT_SEED, COR_MEM_CTL]

section
variable {s : State} {c : CoreId} {w : Word}

theorem exec_csrr_issued (h : s.CanIssue c w 0xF000) : exec (.csrr c w) s =
    .next (s.retire c fun C => C.setRg (ireg w 51) (s.corRead c (csrAddr c w))) := next_congr (State.issue_ok h)

theorem exec_csrw_issued (h : s.CanIssue c w 0xF010) : exec (.csrw c w) s =
    .next ((s.retire c id).corWrite c (csrAddr c w) ((s.core c).rg (ireg w 46))) := next_congr (State.issue_ok h)

/-- An access to COR_VFLAGS is the CSR read or write that its word is. -/
theorem exec_vflagsAccess (hcsr : csrAddr c w = COR_VFLAGS c.toNat) :
    exec (.vflagsAccess c w) s = if iop w = 0 then exec (.csrr c w) s else exec (.csrw c w) s := if_pos hcsr
end

/-- Settles O11: DMAST ends in the pass that begins it; the others are retirements, CSRW with its write after. -/
theorem systemResults : Obligations.SystemResults := by
  unfold Obligations.SystemResults
  intro c w s C rd v csr
  have hread : s.CanIssue c w 0xF000 → ∃ t : State, exec (.csrr c w) s = .next t ∧ ScalarDone s t c rd (s.corRead c csr) (C.pc + 8) :=
    fun h => ⟨_, exec_csrr_issued h, State.scalarDone s c _ _ _⟩
  have hwrite : s.CanIssue c w 0xF010 → ∃ u : State, exec (.csrw c w) s = .next (u.corWrite c csr v) ∧ ScalarDone s u c 0 0 (C.pc + 8) :=
    fun h => ⟨_, exec_csrw_issued h, State.retire_done s c⟩
  refine ⟨fun h => ?dmast, hread, hwrite, fun hcsr => ⟨fun h => ?vflagsRead, fun h => ?vflagsWrite⟩, fun h => ?halt,
    fun h => ⟨_, next_congr (State.issue_ok h), State.retire_done s c⟩⟩
  case dmast =>
    have hexec : exec (.dmast c w) s = .next ((s.enqueue c w v 0 0).pump c) := next_congr (State.issue_ok h)
    have hqueued : Queued s (s.enqueue c w v 0 0) c w v 0 0 := State.queued ..
    exact ⟨⟨_, hexec, hqueued⟩, fun hq => ⟨_, hexec, hqueued.pump_dmast hq h⟩⟩
  case vflagsRead =>
    obtain ⟨t, hexec, ht⟩ := hread h
    rw [hcsr, State.corRead_vflags, ← hcsr] at ht
    exact ⟨t, (exec_vflagsAccess hcsr).trans ((if_pos (by rw [iop_eq_key, h.row])).trans hexec), ht⟩
  case vflagsWrite =>
    obtain ⟨u, hexec, hu⟩ := hwrite h
    rw [hcsr, State.corWrite_vflags, ← hcsr] at hexec
    exact ⟨u, (exec_vflagsAccess hcsr).trans ((if_neg (by rw [iop_eq_key, h.row]; decide)).trans hexec), hu⟩
  case halt =>
    have done := State.retire_done (s.modCore c fun C => { C with run := .halting }) c
    rw [State.retire, State.modCore_modCore, State.core_modCore_same] at done
    exact ⟨_, next_congr (State.issue_ok h), done⟩

end Sys2Proof.Machine
end

section
/-!
PROOF. The results of SREAD, SFIRED, BPOLL and SADV (R179).
-/
namespace Sys2Proof.Machine

section
variable {s : State} {c : CoreId} {w : Word} {key : Nat}

/-- A sync instruction with no wait of its own enters its queue and changes nothing else. -/
theorem State.syncIssue_queued (h : s.CanIssue c w key) : ∃ u : State, s.syncIssue c w key = u.pump c ∧
    Queued s u c w ((s.core c).rg (ireg w 46)) ((s.core c).rg (ireg w 41)) 0 := by
  obtain ⟨-, -, hw, -, -⟩ := State.atIssue_cases h.atIssue
  have hq := s.queued c w ((s.core c).rg (ireg w 46)) ((s.core c).rg (ireg w 41)) 0
  refine ⟨(s.enqueue c w ((s.core c).rg (ireg w 46)) ((s.core c).rg (ireg w 41)) 0).modCore c fun C => { C with wait := none },
    State.issue_ok h, ?core, fun d hd => (State.core_modCore_other _ _ hd).trans (hq.cores d hd), rfl⟩
  rw [State.core_modCore_same, hq.core, ← hw]
end

/-! ### The sync queue's head, alone in flight -/

section
variable {u : State} {c : CoreId} {f : Flight} (h : u.Lone c f) (hph : f.ph = .queued)
include h hph

theorem State.Lone.trySync_sadv (hop : iop f.w = 0) : u.trySync c f =
    (u.modFlight c f.seq fun f => { f with ph := .run }).sendAdv ⟨.core c, f.a.extractLsb' 0 18, f.b⟩ := by
  simp [State.trySync, hph, h.before, hop, CoreSt.storesBefore]

theorem State.Lone.trySync_sread (hop : iop f.w = 1) : u.trySync c f = u.endSync c f (u.objVal (f.a.extractLsb' 0 18)) := by
  simp [State.trySync, hph, h.before, hop]

theorem State.Lone.trySync_sfired (hop : iop f.w = 5) : u.trySync c f = u.endSync c f ((u.core c).fired.zeroExtend 64) := by
  simp [State.trySync, hph, h.before, hop]

theorem State.Lone.trySync_bpoll (hop : iop f.w = 9) : u.trySync c f =
    u.endSync c f (if (u.core c).arrived.get (fun _ => true) (f.w.extractLsb' 10 6).toNat then 1 else 0) := by
  simp [State.trySync, hph, h.before, hop]
end

/-- A sync instruction that is under way does not begin again. -/
theorem State.trySync_running (u : State) (c : CoreId) {f : Flight} (hph : f.ph = .run) : u.trySync c f = u := by
  simp [State.trySync, hph]

section
variable {s u : State} {c : CoreId} {w a b x : Word} {al : Bool} {key : Nat}

theorem unitOf_sync (hcls : ikey w / 0x1000 = 9) : unitOf w = .sync := by simp [unitOf, iclass_eq_key, hcls]

/-- An instruction of the sync queue, alone in flight, that ends at once writes its register and completes. -/
theorem Queued.pump_endSync (h : Queued s u c w a b x al) (hq : s.Quiet c) (hat : s.atIssue c w = true) (hcls : ikey w / 0x1000 = 9)
    {v : Word} (hend : u.Lone c (s.newFlight c w a b x al) →
      u.trySync c (s.newFlight c w a b x al) = u.endSync c (s.newFlight c w a b x al) v) :
    ScalarDone s (u.pump c) c (ireg w 51) v ((s.core c).pc + 8) := by
  obtain ⟨hclk, -, hw, -, -⟩ := State.atIssue_cases hat
  have lone := h.lone hq hclk hw
  have done := h.completed_setRg hq (ireg w 51) v
  have hone := (lone.pumpOnce_sync (unitOf_sync hcls)).trans (congrArg (State.trySwait · c) (hend lone))
  rw [h.pump_done hq hclk hw hone rfl done]
  exact done

theorem Queued.objVal (h : Queued s u c w a b x al) (o : ObjId) : u.objVal o = s.objVal o := by rw [h.rest]; rfl
theorem Queued.fired (h : Queued s u c w a b x al) : (u.core c).fired = (s.core c).fired := by rw [h.core]; rfl
theorem Queued.arrived (h : Queued s u c w a b x al) : (u.core c).arrived = (s.core c).arrived := by rw [h.core]
end

/-! ### An advance sent -/

theorem State.flits_sync (s : State) (c d : CoreId) (out n : Nat) : (s.flits c d out n).sync = s.sync := by
  have go : ∀ k (s : State) c, (State.flits.go d out n k s c).sync = s.sync := by
    intro k
    induction k with
    | zero => exact fun s _ => rfl
    | succ k ih =>
      intro s c
      unfold State.flits.go
      split
      · exact ih _ _
      · rfl
  exact go 64 s c

theorem State.ctrl_sync (s : State) (e e' : Ep) : (s.ctrl e e').sync = s.sync := by
  unfold State.ctrl
  split
  · rfl
  · exact State.flits_sync ..

theorem State.Alters.withSync {s t : State} {c : CoreId} {A : Set Nat} {f : CoreSt → CoreSt} (h : s.Alters t c A f) (x : SyncSt) :
    s.Alters { t with sync := x } c A f := ⟨h.core, h.cores, h.mem, h.regs, h.fuses, h.pwr⟩

/-- What an advance of a core sends changes: the messages under way and flit counters. -/
structure AdvanceSent (u t : State) (c : CoreId) (o : ObjId) (amt : Word) : Prop extends u.Alters t c flitCounters id where
  sync : t.sync = { u.sync with sent := u.sync.sent + 1, advs := u.sync.advs ++ [(u.sync.sent + 1, ⟨.core c, o, amt⟩)] }

theorem State.sendAdv_sent (u : State) (c : CoreId) (o : ObjId) (amt : Word) : AdvanceSent u (u.sendAdv ⟨.core c, o, amt⟩) c o amt := by
  have h : u.Alters (u.ctrl (coreEp c) (objEp o)) c flitCounters id := u.ctrl_alters c _ (show 4 < 6 by decide)
  refine ⟨(h.withSync _).withSync _, ?_⟩
  simp [State.sendAdv, State.stamp, State.ctrl_sync]

section
variable {s u : State} {c : CoreId} {w a b x : Word} {al : Bool}

/-- A SADV that is its core's only instruction in flight sends its advance, and is under way until it is answered. -/
theorem Queued.pump_sadv (h : Queued s u c w a b x al) (hq : s.Quiet c) (hi : s.CanIssue c w 0x9000) :
    ∃ v : State, AdvanceSent v (u.pump c) c (a.extractLsb' 0 18) b ∧
      v = u.modFlight c (s.core c).seq fun f => { f with ph := .run } := by
  obtain ⟨hclk, -, hw, -, -⟩ := State.atIssue_cases hi.atIssue
  have lone := h.lone hq hclk hw
  have hunit : unitOf w = .sync := unitOf_sync (by rw [hi.row])
  let f := s.newFlight c w a b x al
  let v := u.modFlight c f.seq fun f => { f with ph := .run }
  have hsent := v.sendAdv_sent c (a.extractLsb' 0 18) b
  have hcore : (v.sendAdv ⟨.core c, a.extractLsb' 0 18, b⟩).core c = { u.core c with fl := [{ f with ph := .run }] } := by
    refine hsent.core.trans ((State.core_modCore_same ..).trans ?_)
    simp [CoreSt.modFl, lone.flights, f]
  have lone' : (v.sendAdv ⟨.core c, a.extractLsb' 0 18, b⟩).Lone c { f with ph := .run } := by
    refine ⟨(hsent.clocked c).trans lone.clocked, by rw [hcore], fun i => ?_, by rw [hcore]; exact lone.wait⟩
    rw [hcore]
    exact lone.seeds i
  have hone : u.pumpOnce c = v.sendAdv ⟨.core c, a.extractLsb' 0 18, b⟩ := by
    rw [lone.pumpOnce_sync hunit, lone.trySync_sadv rfl (by rw [iop_eq_key]; show ikey w / _ % _ = _; rw [hi.row])]
    exact State.trySwait_none _ c lone'.wait
  have hfix := (lone'.pumpOnce_sync hunit).trans
    ((congrArg (State.trySwait · c) (State.trySync_running _ c rfl)).trans (State.trySwait_none _ c lone'.wait))
  rw [lone.pump_eq hone hfix]
  exact ⟨v, hsent, rfl⟩
end

/-- Settles O14: the first pass of the pump ends the instruction, or sends its advance; the second finds nothing to begin. -/
theorem syncResults : Obligations.SyncResults := by
  unfold Obligations.SyncResults
  intro c w s C rd obj hq
  refine ⟨fun h => ?sread, fun h => ?sfired, fun h => ?bpoll, fun h => ?sadv⟩
  all_goals obtain ⟨u, hexec, hu⟩ := State.syncIssue_queued h
  case sread =>
    have hop : iop w = 1 := by rw [iop_eq_key, h.row]
    have done := hu.pump_endSync hq h.atIssue (by rw [h.row]) fun lone => lone.trySync_sread rfl hop
    rw [hu.objVal] at done
    exact ⟨_, next_congr hexec, done⟩
  case sfired =>
    have hop : iop w = 5 := by rw [iop_eq_key, h.row]
    have done := hu.pump_endSync hq h.atIssue (by rw [h.row]) fun lone => lone.trySync_sfired rfl hop
    rw [hu.fired] at done
    exact ⟨_, next_congr hexec, done⟩
  case bpoll =>
    have hop : iop w = 9 := by rw [iop_eq_key, h.row]
    have done := hu.pump_endSync hq h.atIssue (by rw [h.row]) fun lone => lone.trySync_bpoll rfl hop
    have hline : (w.extractLsb' 10 6).toNat = w.toNat / 2 ^ 10 % 64 := by simp [Nat.shiftRight_eq_div_pow]
    rw [hu.arrived] at done
    exact ⟨_, next_congr hexec, hline ▸ done⟩
  case sadv =>
    obtain ⟨v, hsent, rfl⟩ := hu.pump_sadv hq h
    have hcore := hsent.core.trans (State.core_modCore_same ..)
    have hrest := hu.rest
    refine ⟨_, next_congr hexec, ?sync, ?g, ?pc, hsent.mem.trans ?mem, fun d hd => ?cores⟩
    case sync => exact hsent.sync.trans (by rw [State.modFlight, State.modCore_sync, hrest]; rfl)
    case g => rw [hcore, CoreSt.modFl, hu.core]
    case pc => rw [hcore, CoreSt.modFl, hu.core]
    case mem => rw [State.modFlight, State.modCore_mem, hrest]
    case cores => rw [hsent.cores d hd, State.modFlight, State.core_modCore_other _ _ hd, hu.cores d hd]

end Sys2Proof.Machine
end

section
/-!
PROOF. The results of scalar loads and stores to the core's own scratch (R122, R167, R168).
-/
namespace Sys2Proof.Machine

/-! ### Bytes and numbers -/

theorem toLe_length (n v : Nat) : (toLe n v).length = n := by
  induction n generalizing v with
  | zero => rfl
  | succ n ih => simp [toLe, ih]

/-- The bytes of a number written little-endian. -/
theorem getElem_toLe (n v i : Nat) (h : i < (toLe n v).length) : (toLe n v)[i] = BitVec.ofNat 8 (v / 256 ^ i) := by
  induction n generalizing v i with
  | zero => exact absurd h (Nat.not_lt_zero i)
  | succ n ih =>
    cases i with
    | zero => simp [toLe]
    | succ i =>
      simp only [toLe, List.getElem_cons_succ, ih, Nat.div_div_eq_div_mul]
      rw [pow_succ']

/-- A number put into memory, byte by byte. -/
theorem State.byte_wrMem_toLe (s : State) (a n v x : Nat) : (s.wrMem a (toLe n v)).mem.get memZero x =
    if a ≤ x ∧ x < a + n then BitVec.ofNat 8 (v / 256 ^ (x - a)) else s.mem.get memZero x := by
  rw [State.wrMem_mem, State.byte_putMem]
  simp only [toLe_length, getElem_toLe, dite_eq_ite]

/-- `s` with what a device agent's write changes as it is in `t`: memory, its poison, the host's snoop filters and what is told to the
host. -/
def State.writtenAs (s t : State) : State := { s with mem := t.mem, poison := t.poison, out := t.out, host := t.host }

theorem State.wrMem_eq (s : State) (a : Nat) (bs : List Byte) : s.wrMem a bs = s.writtenAs (s.wrMem a bs) := by
  unfold State.wrMem State.backInv
  split <;> rfl

/-- Sign extension in two's complement. -/
theorem ofInt_sint {k : Nat} (v : Nat) (hk : 0 < k) : BitVec.ofInt 64 (sint k v) = (BitVec.ofNat k v).signExtend 64 := by
  unfold sint BitVec.signExtend
  congr 1
  obtain ⟨j, rfl⟩ := Nat.exists_eq_add_of_lt hk
  rw [BitVec.toInt_eq_toNat_cond, BitVec.toNat_ofNat]
  simp only [Nat.zero_add, Nat.add_sub_cancel, pow_succ]
  push_cast
  split_ifs <;> omega

/-! ### A scalar access within one line -/

/-- `w` is a scalar load or store of `n` bytes. -/
structure ScalarAccess (w : Word) (n : Nat) (store : Bool) : Prop where
  cls : iclass w = 2
  size : accSize w = n
  dvd : n ∣ 256
  store : isStore w = store

/-- The keys of the scalar loads and stores, with their sizes and whether they store. -/
def scalarAccessKeys : List (Nat × Nat × Bool) :=
  [(0x2000, 1, false), (0x2010, 2, false), (0x2020, 4, false), (0x2030, 8, false), (0x2040, 1, false), (0x2050, 2, false),
   (0x2060, 4, false), (0x2080, 1, true), (0x2090, 2, true), (0x20A0, 4, true), (0x20B0, 8, true)]

theorem ScalarAccess.of_key {w : Word} {key n : Nat} {store : Bool} (h : ikey w = key) (hkey : (key, n, store) ∈ scalarAccessKeys) :
    ScalarAccess w n store := by
  constructor
  case cls => rw [iclass_eq_key, h]; fin_cases hkey <;> rfl
  case size => rw [accSize, iop_eq_key, h]; fin_cases hkey <;> rfl
  case dvd => fin_cases hkey <;> decide
  case store => rw [isStore, iclass_eq_key, iop_eq_key, h]; fin_cases hkey <;> rfl

/-- An aligned access that a line holds whole is one part. -/
theorem rowCuts_aligned {n va : Nat} (k : Nat) (hn : n ∣ 256) (hva : n ∣ va) : rowCuts (k + 2) 0 va n = [(0, va, n)] := by
  have hpos : 0 < n := Nat.pos_of_dvd_of_pos hn (by decide)
  have hfit : n ≤ 256 - va % 256 := Nat.le_of_dvd (by omega) (Nat.dvd_sub hn ((Nat.dvd_mod_iff hn).mpr hva))
  simp [rowCuts, hpos.ne', Nat.min_eq_left hfit]

section
variable {u : State} {c : CoreId} {f : Flight} {n : Nat} {store : Bool}

theorem ScalarAccess.rows (hacc : ScalarAccess f.w n store) : f.rows = [(0, f.a.toNat, n)] := by
  simp [Flight.rows, hacc.cls, hacc.size]

theorem ScalarAccess.unit (hacc : ScalarAccess f.w n store) : unitOf f.w = .lsu := by
  simp [unitOf, hacc.cls]

/-- A scalar access that is its core's only instruction in flight begins. -/
theorem State.Lone.lsuReady (h : u.Lone c f) (hph : f.ph = .queued) (hacc : ScalarAccess f.w n store) : (u.core c).lsuReady f = true := by
  simp [CoreSt.lsuReady, tileReads, tileWrites, hacc.cls, h.before, h.flights, hph]

theorem State.Lone.tryLsu_eq (h : u.Lone c f) (hph : f.ph = .queued) (hacc : ScalarAccess f.w n store) :
    u.tryLsu c f = if store then u.startStore c f else u.startLoad c f := by
  rw [State.tryLsu, if_pos ⟨hph, h.lsuReady hph hacc⟩, hacc.store]
end

/-! ### The store -/

section
variable {u : State} {c : CoreId} {f : Flight} {n pa : Nat}

theorem State.startStore_scalar (hacc : ScalarAccess f.w n true) (hva : n ∣ f.a.toNat)
    (hx : u.xlateCore c f.a.toNat .write = (u, .ok pa)) (hok : u.storeOk c pa = true) :
    u.startStore c f = (u.wrMem pa (toLe n f.c.toNat)).completeLs c f.seq := by
  have hbytes : (u.core c).storeRow f 0 n = toLe n f.c.toNat := by simp [CoreSt.storeRow, hacc.cls]
  have hwhole : ((toLe n f.c.toNat).drop 0).take n = toLe n f.c.toNat := List.take_of_length_le (by simp [toLe_length])
  simp only [State.startStore, hacc.rows, State.storeRows, hbytes, rowCuts_aligned _ hacc.dvd hva, State.storeParts, hx, hok, hwhole,
    hacc.cls, if_true]
end

section
variable {s u : State} {c : CoreId} {w a b x : Word} {al : Bool} {n : Nat} {e : TlbEnt}

theorem Queued.tlb (h : Queued s u c w a b x al) : (u.core c).tlb = (s.core c).tlb := by rw [h.core]

theorem Queued.split (h : Queued s u c w a b x al) (d : CoreId) : (u.core d).split = (s.core d).split := by
  by_cases hd : d = c
  · rw [hd, h.core]
  · rw [h.cores d hd]

/-- The place of an address is a matter of the memory present and of the cores' splits. -/
theorem State.place_congr {s t : State} (hmem : t.rd (MEM_CHMAP 0) = s.rd (MEM_CHMAP 0)) (hsplit : ∀ d, (t.core d).split = (s.core d).split)
    (pa : Nat) : t.place pa = s.place pa := by
  unfold State.place State.lpddrSize State.fld State.scratch
  simp only [hmem, hsplit]

theorem Queued.place (h : Queued s u c w a b x al) (pa : Nat) : u.place pa = s.place pa :=
  State.place_congr (by rw [h.rest]; rfl) h.split pa

/-- A write of memory behind an instruction's entry into its queue is one before it. -/
theorem Queued.wrMem (h : Queued s u c w a b x al) (pa : Nat) (bs : List Byte) :
    Queued (s.writtenAs (u.wrMem pa bs)) (u.wrMem pa bs) c w a b x al := by
  have hM := u.wrMem_eq pa bs
  have hcores : (u.wrMem pa bs).cores = u.cores := (congrArg State.cores hM).trans rfl
  have hcore (d : CoreId) : (u.wrMem pa bs).core d = u.core d := by
    unfold State.core
    rw [hcores]
  refine ⟨(hcore c).trans h.core, fun d hd => (hcore d).trans (h.cores d hd), ?_⟩
  rw [hcores]
  exact hM.trans (congrArg (State.writtenAs · (u.wrMem pa bs)) h.rest)

/-- The only instruction in flight completes and changes nothing else. -/
theorem Queued.completed_none (h : Queued s u c w a b x al) (hq : s.Quiet c) :
    ScalarDone s (u.complete c (s.core c).seq) c 0 0 ((s.core c).pc + 8) := by
  have hid : (u.modCore c id).complete c (s.core c).seq = u.complete c (s.core c).seq := by
    unfold State.complete
    rw [State.modCore_modCore]
    rfl
  rw [← hid]
  refine h.completed hq (fun g hg => ?_) (by simp [CoreSt.setRg])
  rw [id, (h.single hq).1, List.mem_singleton] at hg
  rw [hg]
  rfl

/-- A scalar store to own scratch that is its core's only instruction in flight writes its bytes and completes. -/
theorem Queued.pump_store (h : Queued s u c w a b x al) (hq : s.Quiet c) (hclk : s.clocked c = true) (hw : (s.core c).wait = none)
    (hacc : ScalarAccess w n true) {va : Nat} (ha : a.toNat = va) (hva : n ∣ va)
    (htlb : (s.core c).tlb.find? (fun e => decide (e.va ≤ va) && decide (va < e.va + e.size)) = some e) (he : e.w = true)
    (hok : s.storeOk c (e.pa + (va - e.va)) = true) :
    let t := (u.wrMem (e.pa + (va - e.va)) (toLe n x.toNat)).complete c (s.core c).seq
    u.pump c = t ∧ ScalarDone (s.writtenAs t) t c 0 0 ((s.core c).pc + 8) := by
  intro t
  subst ha
  have lone := h.lone hq hclk hw
  have hM := h.wrMem (e.pa + (a.toNat - e.va)) (toLe n x.toNat)
  have hqM : (s.writtenAs t).Quiet c := ⟨hq.flights, hq.seeds⟩
  have done : ScalarDone (s.writtenAs t) t c 0 0 ((s.core c).pc + 8) := hM.completed_none hqM
  have hstart : u.tryLsu c (s.newFlight c w a b x al) = t := by
    rw [lone.tryLsu_eq rfl hacc, if_pos rfl, State.startStore_scalar hacc hva (State.xlateCore_hit (by rw [h.tlb]; exact htlb) he)]
    · exact State.completeLs_of_slot_none (hM.single hqM).1 rfl
    · unfold State.storeOk
      rw [h.place]
      exact hok
  exact ⟨h.pump_done hq hclk hw ((lone.pumpOnce_lsu hacc.unit).trans (congrArg (State.trySwait · c) hstart))
    (s' := s.writtenAs t) rfl done, done⟩
end

/-! ### The load -/

/-- A load all of whose data has come in the one part `g`. -/
def Flight.landed (f : Flight) (g : Seg) : Flight := { f with ph := .run, segs := [g] }

section
variable {u : State} {c : CoreId} {f : Flight} {row off va n pa : Nat}

/-- A part that lies in the core's own SRAM is there at once. -/
theorem State.askSeg_direct (hx : u.xlateCore c va .read = (u, .ok pa)) (hreach : u.loadReach c pa = some .direct)
    (hclean : u.poisoned pa n = false) : u.askSeg c row off va n = (u, .ok ⟨row, off, pa, n, some (u.rdMem pa n, false)⟩) := by
  simp [State.askSeg, hx, hreach, hclean]

/-- A scalar load whose one part has come writes its register and completes. -/
theorem State.landScalar_landed (s : State) (hcls : iclass f.w = 2) (bs : List Byte) :
    s.landScalar c (f.landed ⟨0, off, pa, n, some (bs, false)⟩) =
      (s.modCore c fun C => C.setRg (ireg f.w 51) (loadExtend f.w bs)).completeLs c f.seq := by
  simp [State.landScalar, Flight.landed, Flight.complete, rowBytesOf, hcls]

theorem State.startLoad_scalar (hacc : ScalarAccess f.w n false) (hva : n ∣ f.a.toNat) (hfl : (u.core c).fl = [f]) (hslot : f.slot = none)
    (hx : u.xlateCore c f.a.toNat .read = (u, .ok pa)) (hreach : u.loadReach c pa = some .direct) (hclean : u.poisoned pa n = false) :
    ∃ g : Seg, u.startLoad c f = (u.modCore c fun C => (C.modFl f.seq fun _ => f.landed g).setRg (ireg f.w 51)
      (loadExtend f.w (u.rdMem pa n))).complete c f.seq := by
  let g : Seg := ⟨0, 0, pa, n, some (u.rdMem pa n, false)⟩
  have hrows (C : CoreSt) : C.landRows (f.landed g) = C := by simp [CoreSt.landRows, Flight.landed, hacc.cls]
  have hbegun : u.startLoad c f =
      (u.modCore c fun C => (C.modFl f.seq fun _ => f.landed g).landRows (f.landed g)).landScalar c (f.landed g) := by
    simp only [State.startLoad, hacc.rows, List.map_cons, List.map_nil, rowCuts_aligned _ hacc.dvd hva, List.flatten_cons, List.flatten_nil,
      List.append_nil, State.askRows, State.askSeg_direct hx hreach hclean, List.nil_append]
    rfl
  refine ⟨g, ?_⟩
  simp only [hbegun, hrows]
  rw [State.landScalar_landed _ hacc.cls, State.modCore_modCore]
  refine State.completeLs_of_slot_none (f := f.landed g) ?_ hslot
  rw [State.core_modCore_same, CoreSt.fl_setRg, CoreSt.modFl, hfl]
  simp
end

section
variable {s u : State} {c : CoreId} {w a b x : Word} {al : Bool} {n : Nat} {e : TlbEnt}

/-- The only instruction in flight completes by writing a g register, having become `f` before. -/
theorem Queued.completed_landed (h : Queued s u c w a b x al) (hq : s.Quiet c) {f : Flight} (hf : f.seq = (s.core c).seq) (rd : BitVec 5)
    (v : Word) : ScalarDone s ((u.modCore c fun C => (C.modFl (s.core c).seq fun _ => f).setRg rd v).complete c (s.core c).seq) c rd v
      ((s.core c).pc + 8) := by
  refine h.completed hq (fun g hg => ?flight) ?core
  case flight =>
    rw [CoreSt.fl_setRg, CoreSt.modFl, (h.single hq).1] at hg
    simp only [State.newFlight, List.map_cons, List.map_nil, if_true, List.mem_singleton] at hg
    rw [hg, hf]
  case core =>
    unfold CoreSt.setRg
    split <;> rfl

/-- A scalar load from own scratch that is its core's only instruction in flight writes its register and completes. -/
theorem Queued.pump_load (h : Queued s u c w a b x al) (hq : s.Quiet c) (hclk : s.clocked c = true) (hw : (s.core c).wait = none)
    (hacc : ScalarAccess w n false) {va : Nat} (ha : a.toNat = va) (hva : n ∣ va)
    (htlb : (s.core c).tlb.find? (fun e => decide (e.va ≤ va) && decide (va < e.va + e.size)) = some e) (he : e.r = true)
    {o : Nat} (hplace : s.place (e.pa + (va - e.va)) = .window c.toNat o) (hclean : s.poisoned (e.pa + (va - e.va)) n = false) :
    ScalarDone s (u.pump c) c (ireg w 51) (loadExtend w (s.rdMem (e.pa + (va - e.va)) n)) ((s.core c).pc + 8) := by
  subst ha
  have lone := h.lone hq hclk hw
  have hreach : u.loadReach c (e.pa + (a.toNat - e.va)) = some .direct := by simp [State.loadReach, h.place, hplace]
  have hcleanU : u.poisoned (e.pa + (a.toNat - e.va)) n = false := by rw [h.rest]; exact hclean
  have hbytes : u.rdMem (e.pa + (a.toNat - e.va)) n = s.rdMem (e.pa + (a.toNat - e.va)) n := by rw [h.rest]; rfl
  let f := s.newFlight c w a b x al
  obtain ⟨g, hg⟩ := State.startLoad_scalar hacc hva lone.flights rfl (State.xlateCore_hit (by rw [h.tlb]; exact htlb) he) hreach hcleanU
  have hstart : u.tryLsu c f = (u.modCore c fun C => (C.modFl (s.core c).seq fun _ => f.landed g).setRg (ireg w 51)
      (loadExtend w (s.rdMem (e.pa + (a.toNat - e.va)) n))).complete c (s.core c).seq :=
    ((lone.tryLsu_eq rfl hacc).trans (if_neg Bool.false_ne_true)).trans (hbytes ▸ hg)
  have done := h.completed_landed hq (f := f.landed g) rfl (ireg w 51) (loadExtend w (s.rdMem (e.pa + (a.toNat - e.va)) n))
  rw [h.pump_done hq hclk hw ((lone.pumpOnce_lsu hacc.unit).trans (congrArg (State.trySwait · c) hstart)) rfl done]
  exact done
end

/-! ### The rows -/

section
variable {s : State} {c : CoreId} {w : Word} {key : Nat}

/-- A scalar access enters its queue at its address rounded down to its size `n`. -/
theorem State.scalarLs_aligned (h : s.CanIssue c w key) {n : Nat} (hsize : accSize w = n) :
    let ea := ((s.core c).rg (ireg w 46) + (w.extractLsb' 0 32).signExtend 64).toNat
    let va := ea / n * n
    ∃ (u : State) (a : Word) (al : Bool), s.scalarLs c w key = u.pump c ∧ a.toNat = va ∧
      Queued (if va = ea then s else s.setFld (COR_STATUS c.toNat) COR_STATUS.ALIGN_CLAMP 1) u c w a 0 ((s.core c).rg (ireg w 51)) al := by
  intro ea va
  obtain ⟨u, hu, hqueued⟩ := State.scalarLs_queued h
  rw [hsize] at hqueued
  have hva : (BitVec.ofNat 64 va).toNat = va :=
    (BitVec.toNat_ofNat ..).trans (Nat.mod_eq_of_lt (Nat.lt_of_le_of_lt (Nat.div_mul_le_self ..) (BitVec.isLt _)))
  have hclamp : (BitVec.ofNat 64 va = (s.core c).rg (ireg w 46) + (w.extractLsb' 0 32).signExtend 64) ↔ va = ea := by
    rw [← BitVec.toNat_inj, hva]
  rw [if_congr hclamp rfl rfl] at hqueued
  exact ⟨u, _, _, hu, hva, hqueued⟩

/-- Rounding an address down, recorded or not, changes registers alone, and not those of the memory present. -/
theorem State.alignClamp_regs (s : State) (c : CoreId) (p : Prop) [Decidable p] :
    ∃ r : Tab Word, (if p then s else s.setFld (COR_STATUS c.toNat) COR_STATUS.ALIGN_CLAMP 1) = { s with regs := r } ∧
      State.rd { s with regs := r } (MEM_CHMAP 0) = s.rd (MEM_CHMAP 0) := by
  by_cases hp : p
  · exact ⟨s.regs, if_pos hp, rfl⟩
  · refine ⟨_, if_neg hp, State.rd_setFld_other s _ _ ?_⟩
    have := c.isLt
    unfold MEM_CHMAP COR_STATUS
    omega
end

/-- Settles O7: the one part of the store is translated, lies in own scratch and is written, and the store completes. -/
theorem scalarStoreResults : Obligations.ScalarStoreResults := by
  unfold Obligations.ScalarStoreResults
  intro p hp c w s e C ea va pa v h hq htlb he hok
  have hexec : exec (p.1 c w) s = .next (s.scalarLs c w p.2.1) := by fin_cases hp <;> rfl
  have hacc : ScalarAccess w p.2.2 true := .of_key h.row (by fin_cases hp <;> decide)
  obtain ⟨hclk, -, hw, -, -⟩ := State.atIssue_cases h.atIssue
  obtain ⟨u, a, al, hu, ha, hqueued⟩ := State.scalarLs_aligned h hacc.size
  obtain ⟨r, hs1, hch⟩ := s.alignClamp_regs c (va = ea)
  have hqueued : Queued { s with regs := r } u c w a 0 (C.rg (w.extractLsb' 51 5)) al :=
    (congrArg (fun s' => Queued s' u c w a 0 _ al) hs1).mp hqueued
  rw [hs1]
  have hplace : State.place { s with regs := r } pa = s.place pa := State.place_congr hch (fun _ => rfl) pa
  have hok' : State.storeOk { s with regs := r } c pa = true := by
    rw [State.storeOk, hplace]
    exact hok
  obtain ⟨hpump, done⟩ := hqueued.pump_store ⟨hq.flights, hq.seeds⟩ hclk hw hacc ha (Nat.dvd_mul_left ..) htlb he hok'
  refine ⟨_, hexec.trans (next_congr (hu.trans hpump)), fun x => ?_, done⟩
  have hmem : u.mem = s.mem := by rw [hqueued.rest]
  exact hmem ▸ u.byte_wrMem_toLe pa p.2.2 v x

/-- A load's result: its bytes' number, extended from its size. -/
theorem loadExtend_eq {w : Word} {n : Nat} {signed : Bool} (hsize : accSize w = n) (hn : 0 < n)
    (hsigned : decide (4 ≤ iop w ∧ iop w < 7) = signed) (bs : List Byte) :
    loadExtend w bs = if signed then (BitVec.ofNat (8 * n) (leNat bs)).signExtend 64 else BitVec.ofNat 64 (leNat bs) := by
  subst hsigned
  simp only [loadExtend, hsize, decide_eq_true_eq, ofInt_sint _ (Nat.mul_pos (by decide : 0 < 8) hn)]

/-- Settles O8: the one part of the load is translated, lies in own scratch and is there at once, and the load completes. -/
theorem scalarLoadResults : Obligations.ScalarLoadResults := by
  unfold Obligations.ScalarLoadResults
  intro p hp c w s e o C n ea va pa v h hq htlb he hplace hclean
  have hexec : exec (p.1 c w) s = .next (s.scalarLs c w p.2.1) := by fin_cases hp <;> rfl
  have hacc : ScalarAccess w p.2.2.1 false := .of_key h.row (by fin_cases hp <;> decide)
  have hsigned : decide (4 ≤ iop w ∧ iop w < 7) = p.2.2.2 := by rw [iop_eq_key, h.row]; fin_cases hp <;> rfl
  obtain ⟨hclk, -, hw, -, -⟩ := State.atIssue_cases h.atIssue
  obtain ⟨u, a, al, hu, ha, hqueued⟩ := State.scalarLs_aligned h hacc.size
  obtain ⟨r, hs1, hch⟩ := s.alignClamp_regs c (va = ea)
  have hqueued : Queued { s with regs := r } u c w a 0 (C.rg (w.extractLsb' 51 5)) al :=
    (congrArg (fun s' => Queued s' u c w a 0 _ al) hs1).mp hqueued
  rw [hs1]
  have hplace' : State.place { s with regs := r } pa = .window c.toNat o := (State.place_congr hch (fun _ => rfl) pa).trans hplace
  have done := hqueued.pump_load ⟨hq.flights, hq.seeds⟩ hclk hw hacc ha (Nat.dvd_mul_left ..) htlb he hplace' hclean
  rw [loadExtend_eq hacc.size (Nat.pos_of_dvd_of_pos hacc.dvd (by decide)) hsigned] at done
  exact ⟨_, hexec.trans (next_congr hu), done⟩

end Sys2Proof.Machine
end

section
/-!
PROOF. The entry into the array queues, and what an array instruction that begins leaves alone (R36, R170 to R172).
-/
namespace Sys2Proof.Machine

/-! ### Array work of a core -/

/-- Core `D` has become of `C` by array work: no wait and no seed write that waits has changed, and no flight is new. -/
structure CoreSt.ArrayWork (C D : CoreSt) : Prop where
  wait : D.wait = C.wait
  seeds : ∀ i : Nat, (D.array i).seedWait = (C.array i).seedWait
  flights : ∀ g ∈ D.fl, ∃ f ∈ C.fl, g.w = f.w

namespace CoreSt.ArrayWork
variable {C D E : CoreSt}

theorem refl (C : CoreSt) : C.ArrayWork C := ⟨rfl, fun _ => rfl, fun g hg => ⟨g, hg, rfl⟩⟩

theorem trans (h : C.ArrayWork D) (k : D.ArrayWork E) : C.ArrayWork E where
  wait := k.wait.trans h.wait
  seeds i := (k.seeds i).trans (h.seeds i)
  flights g hg := by
    obtain ⟨f, hf, hgf⟩ := k.flights g hg
    obtain ⟨e, he, hfe⟩ := h.flights f hf
    exact ⟨e, he, hgf.trans hfe⟩

/-- An array changed but for the seed writes that wait for it. -/
theorem setArray (C : CoreSt) (a : Nat) {X : ArrSt} (hX : X.seedWait = (C.array a).seedWait) : C.ArrayWork (C.setArray a X) := by
  refine ⟨rfl, fun i => ?_, fun g hg => ⟨g, hg, rfl⟩⟩
  unfold CoreSt.array CoreSt.setArray at *
  simp only [Vector.get_eq_getElem, Vector.getElem_set] at *
  split
  next h => simp only [← h, hX]
  next => rfl

/-- A flight that goes on with the same word. -/
theorem modFl (C : CoreSt) (q : Nat) {g : Flight → Flight} (hg : ∀ f, (g f).w = f.w) : C.ArrayWork (C.modFl q g) := by
  refine ⟨rfl, fun _ => rfl, fun f hf => ?_⟩
  obtain ⟨e, he, rfl⟩ := List.mem_map.mp hf
  refine ⟨e, he, ?_⟩
  split
  · exact hg e
  · rfl

/-- A flight that has ended. -/
theorem filter (C : CoreSt) (p : Flight → Bool) : C.ArrayWork { C with fl := C.fl.filter p } :=
  ⟨rfl, fun _ => rfl, fun g hg => ⟨g, List.mem_of_mem_filter hg, rfl⟩⟩
end CoreSt.ArrayWork

/-- Two states that differ by array work of core `c` and in registers. -/
structure State.ArrayWork (s t : State) (c : CoreId) : Prop where
  core : (s.core c).ArrayWork (t.core c)
  cores : ∀ d, d ≠ c → t.core d = s.core d
  mem : t.mem = s.mem

namespace State.ArrayWork
variable {s t u : State} {c : CoreId}

theorem refl (s : State) (c : CoreId) : s.ArrayWork s c := ⟨.refl _, fun _ _ => rfl, rfl⟩

theorem trans (h : s.ArrayWork t c) (k : t.ArrayWork u c) : s.ArrayWork u c :=
  ⟨h.core.trans k.core, fun d hd => (k.cores d hd).trans (h.cores d hd), k.mem.trans h.mem⟩

theorem modCore (s : State) (c : CoreId) {f : CoreSt → CoreSt} (h : (s.core c).ArrayWork (f (s.core c))) : s.ArrayWork (s.modCore c f) c :=
  ⟨by rw [State.core_modCore_same]; exact h, fun _ hd => State.core_modCore_other _ _ hd, rfl⟩

theorem modFlight (s : State) (c : CoreId) (q : Nat) {g : Flight → Flight} (hg : ∀ f, (g f).w = f.w) :
    s.ArrayWork (s.modFlight c q g) c := modCore s c (.modFl _ q hg)

/-- An array changed and the flight that changes it gone on. -/
theorem arrayFlight (s : State) (c : CoreId) (a q : Nat) {X : CoreSt → ArrSt} {g : Flight → Flight}
    (hX : (X (s.core c)).seedWait = ((s.core c).array a).seedWait) (hg : ∀ f, (g f).w = f.w) :
    s.ArrayWork (s.modCore c fun C => (C.setArray a (X C)).modFl q g) c := modCore s c ((CoreSt.ArrayWork.setArray _ a hX).trans (.modFl _ q hg))

theorem complete (s : State) (c : CoreId) (q : Nat) : s.ArrayWork (s.complete c q) c :=
  ⟨by rw [State.core_complete_same]; exact .filter _ _, fun _ hd => State.core_complete_other _ _ _ hd, rfl⟩

theorem shapeClamp (s : State) (c : CoreId) : s.ArrayWork (s.shapeClamp c) c := ⟨.refl _, fun _ _ => rfl, rfl⟩

theorem ite {p : Prop} [Decidable p] (h : s.ArrayWork t c) (k : s.ArrayWork u c) : s.ArrayWork (if p then t else u) c := by
  split
  · exact h
  · exact k
end State.ArrayWork

/-! ### Array instructions that begin -/

section
variable (s : State) (c : CoreId) (f : Flight)

theorem State.startMtx_arrayWork : s.ArrayWork (s.startMtx c f) c := by
  unfold State.startMtx
  dsimp only
  refine .ite ((State.ArrayWork.shapeClamp s c).trans (.complete _ c _)) (.ite (.modFlight s c _ fun _ => rfl) ?_)
  split
  · exact .refl s c
  · exact .arrayFlight s c _ _ rfl fun _ => rfl

theorem State.core_unlessShapeClamp (p : Prop) [Decidable p] : (if p then s else s.shapeClamp c).core c = s.core c := by
  split <;> rfl

theorem State.startSload_arrayWork : s.ArrayWork (s.startSload c f) c := by
  unfold State.startSload
  dsimp only
  refine .trans (.ite (.refl s c) (.shapeClamp s c)) (.ite (.complete _ c _) (.arrayFlight _ c _ _ ?_ fun _ => rfl))
  rw [State.core_unlessShapeClamp]

theorem State.startSwap_arrayWork : s.ArrayWork (s.startSwap c f) c := by
  unfold State.startSwap
  exact .ite (.arrayFlight s c _ _ rfl fun _ => rfl) ((State.ArrayWork.modCore s c (.setArray (X := ArrSt.swap _) _ _ rfl)).trans (.complete _ c _))

theorem State.startForm_arrayWork : s.ArrayWork (s.startForm c f) c := by
  unfold State.startForm
  exact .ite (.complete s c _) (.arrayFlight s c _ _ rfl fun _ => rfl)

/-- Whatever the head of an array queue does as it is looked at is array work. -/
theorem State.tryArr_arrayWork : s.ArrayWork (s.tryArr c f) c := by
  unfold State.tryArr
  dsimp only
  refine .ite (.refl s c) (.ite (.ite (s.startMtx_arrayWork c f) (.ite (.modFlight s c _ fun _ => rfl) (.refl s c))) ?_)
  split
  · exact .ite (s.startSload_arrayWork c f) (.refl s c)
  · exact .ite (.refl s c) (s.startSwap_arrayWork c f)
  · exact .ite (.refl s c) (s.startForm_arrayWork c f)
end

/-! ### The pump with array instructions alone in flight -/

/-- Every flight of core `c` is an array instruction, no seed write waits for an array, and the core waits for nothing. -/
structure State.ArrayOnly (s : State) (c : CoreId) : Prop where
  flights : ∀ f ∈ (s.core c).fl, ∃ a, unitOf f.w = .arr a
  seeds : ∀ a : Nat, ((s.core c).array a).seedWait = []
  wait : (s.core c).wait = none

section
variable {s t : State} {c : CoreId}

/-- Array work leaves nothing but array instructions. -/
theorem State.ArrayOnly.of_arrayWork (h : s.ArrayOnly c) (k : s.ArrayWork t c) : t.ArrayOnly c where
  flights g hg := by
    obtain ⟨f, hf, hgf⟩ := k.core.flights g hg
    rw [hgf]
    exact h.flights f hf
  seeds a := (k.core.seeds a).trans (h.seeds a)
  wait := k.core.wait.trans h.wait

/-- No SWAIT is looked at. -/
theorem State.ArrayOnly.trySwait (h : s.ArrayOnly c) (k : s.ArrayWork t c) : s.ArrayWork (t.trySwait c) c := by
  rw [State.trySwait_none t c (h.of_arrayWork k).wait]
  exact k

theorem State.ArrayOnly.pumpOnce (h : s.ArrayOnly c) : s.ArrayWork (s.pumpOnce c) c := by
  unfold State.pumpOnce
  simp only [List.foldl_cons, List.foldl_nil, State.applySeed_none s c _ (h.seeds _)]
  refine h.trySwait (List.foldlRecOn (motive := fun t => s.ArrayWork t c) _ _ (.refl s c) fun t ht f _ => ?_)
  split
  next => exact ht
  next g hg =>
    obtain ⟨a, ha⟩ := (h.of_arrayWork ht).flights g (List.mem_of_find?_eq_some hg)
    rw [ha]
    exact ht.trans (t.tryArr_arrayWork c g)

theorem State.ArrayOnly.pump (h : s.ArrayOnly c) : s.ArrayWork (s.pump c) c := by
  unfold State.pump
  refine .ite (.refl s c) ?_
  exact List.foldlRecOn (motive := fun t => s.ArrayWork t c) _ _ (.refl s c) fun t ht _ _ => ht.trans (h.of_arrayWork ht).pumpOnce
end

/-- Settles O9: the pump begins an array instruction by array work alone. -/
theorem arrayIssue : Obligations.ArrayIssue := by
  unfold Obligations.ArrayIssue
  intro p hp c w s h
  have hqueued : Queued s (s.enqueue c w 0 0 0) c w 0 0 0 := State.queued ..
  refine ⟨_, (exec_arrayRow p hp c w s).trans (next_congr (State.issue_ok h)), hqueued, fun hq => ?_⟩
  have hunit : unitOf w = .arr (ibits w 55 54) := by
    rw [unitOf, iclass_eq_key, h.row]
    fin_cases hp <;> rfl
  obtain ⟨-, -, hw, -, -⟩ := State.atIssue_cases h.atIssue
  obtain ⟨hfl, hseeds, hwait⟩ := hqueued.single hq
  have only : (s.enqueue c w 0 0 0).ArrayOnly c := ⟨by rw [hfl]; simp [State.newFlight, hunit], hseeds, hwait.trans hw⟩
  exact ⟨only.pump.mem, fun d hd => (only.pump.cores d hd).trans (hqueued.cores d hd)⟩

end Sys2Proof.Machine
end

section
/-!
PROOF. The DMA engines: acceptance, blocks, completion (R226 to R229, R250, R251, R257).
-/
namespace Sys2Proof.Machine

/-! ### A requester that asks alone (R257) -/

/-- One alone of the numbers below `n` passes a test. -/
theorem range_filter_eq_singleton {n j : Nat} {p : Nat → Bool} (hj : j < n) (hp : p j = true) (h : ∀ x, x < n → x ≠ j → p x = false) :
    (List.range n).filter p = [j] := by
  have same : (List.range n).filter p = (List.range n).filter (· == j) := by
    refine List.filter_congr fun x hx => ?_
    by_cases hxj : x = j
    · simp [hxj, hp]
    · simp [hxj, h x (List.mem_range.mp hx) hxj]
  rw [same, List.filter_beq, List.count_eq_one_of_mem List.nodup_range (List.mem_range.mpr hj)]
  rfl

/-- A slot that alone asks is granted. -/
theorem drawSlot_single (tk cls : Nat → Nat) (seed : BitVec 32) (rr : Tab Nat) {x slots : Nat} (hx : x < slots) :
    (drawSlot tk cls [x] seed rr slots).1 = some x := by
  have live : (List.range slots).filter (fun s => [x].contains s && cls s == [x].foldl (fun m s => max m (cls s)) 0) = [x] := by
    refine range_filter_eq_singleton hx (by simp) fun y _ hy => ?_
    simp [hy]
  unfold drawSlot
  dsimp only
  rw [live]
  by_cases htk : 0 < tk x
  · simp [htk]
  · simp only [htk, decide_false, Bool.false_eq_true, not_false_eq_true, List.filter_cons_of_neg, List.filter_nil, List.find?_cons, List.find?_nil]
    split <;> rfl

/-- Changes that agree on the die's record as it stands are one change. -/
theorem State.modDie_congr {s : State} {d : DieId} {f g : DieSt → DieSt} (h : f (s.die d) = g (s.die d)) : s.modDie d f = s.modDie d g :=
  congrArg (s.setDie d) h

theorem State.die_starve (s : State) (d e : DieId) (i slot : Nat) : (s.starve d i slot).die e = s.die e := by
  unfold State.starve
  dsimp only
  split_ifs <;> rfl

theorem State.dmaWait_draw (s : State) (w : Draw) (d : DieId) : ((s.draw w).1.die d).dmaWait = (s.die d).dmaWait := by
  unfold State.draw
  dsimp only
  split
  · rfl
  · refine List.foldlRecOn (motive := fun t : State => (t.die d).dmaWait = (s.die d).dmaWait) _ _ ?_ fun t ht x _ => ?_
    · rw [State.die_modDie]
      split
      next h => rw [h]; rfl
      next => rfl
    · rw [State.die_starve]; exact ht

/-- A draw with a single slot that asks grants it. -/
theorem State.draw_single (s : State) (d : DieId) {i x : BitVec 9} {n : Nat} (cls : BitVec 2) (hi : i.toNat < 277) (hn : x.toNat = n)
    (hx : n < arbSlots (arbTable i.toNat)) : s.draw ⟨d, i, [(x, cls)]⟩ = ((s.draw ⟨d, i, [(x, cls)]⟩).1, some n) := by
  refine Prod.ext rfl ?_
  unfold State.draw
  simp [hn, hx, Nat.not_le.mpr hi, drawSlot_single]

/-! ### Acceptance (R250, R251) -/

/-- A die's command DMAs present the first of the highest class. -/
theorem DieSt.cmdDma_of_first {D : DieSt} {a b : List DmaSt} {m : DmaSt} (h : D.dmaWait = a ++ m :: b) (ha : ∀ x ∈ a, x.cls < m.cls)
    (hb : ∀ x ∈ b, x.cls ≤ m.cls) : D.cmdDma = some m := by
  unfold DieSt.cmdDma
  rw [h, List.foldl_append, List.foldl_cons]
  refine List.foldlRecOn (motive := (· = some m)) b _ ?_ fun o ho y hy => ?_
  · split
    next x hx =>
      refine if_pos (List.foldlRecOn (motive := fun o : Option DmaSt => ∀ x ∈ o, x.cls < m.cls) a _ ?_ (fun o ho y hy => ?_) x hx)
      · simp
      · cases o with
        | none => simpa using ha y hy
        | some z =>
          dsimp only
          split
          · simpa using ha y hy
          · exact ho
    next => rfl
  · rw [ho]
    exact if_neg (BitVec.not_lt.mpr (hb y hy))

/-- The DMAQ that core `j` of a die presents (R250). -/
abbrev State.dmaqOf (s : State) (d : DieId) (j : Nat) : Option Flight := (s.core (BitVec.ofNat 10 (d.toNat * 256 + j))).dmaqReady

section
variable {d : DieId} {tag : BitVec 13} {s : State}

theorem State.dmaqs_eq_nil (h : ∀ j, j < 256 → s.dmaqOf d j = none) : ((List.range 256).filter fun j => (s.dmaqOf d j).isSome) = [] :=
  List.filter_eq_nil_iff.mpr fun j hj => by simp [h j (List.mem_range.mp hj)]

theorem execDmaAccept_idle (hcores : ∀ j, j < 256 → s.dmaqOf d j = none) (hw : (s.die d).dmaWait = []) :
    execDmaAccept d tag s = .next s := by
  unfold execDmaAccept
  simp only [State.dmaqs_eq_nil hcores, DieSt.cmdDma, hw, List.foldl_nil, List.map_nil, List.append_nil, List.isEmpty_nil, if_true]

/-- With no tag free the DMAQs that wait are counted, and nothing is drawn. -/
theorem execDmaAccept_noTag (hfree : s.tagsFree d = 0) :
    execDmaAccept d tag s = .next (s.tagWaits d ((List.range 256).filter fun j => (s.dmaqOf d j).isSome)) := by
  unfold execDmaAccept
  dsimp only
  rw [if_pos hfree]
  refine next_congr (ite_eq_right_iff.mpr fun hask => ?_)
  obtain ⟨hcores, -⟩ := List.append_eq_nil_iff.mp (List.isEmpty_iff.mp hask)
  rw [List.map_eq_nil_iff.mp hcores]
  rfl

/-- A command's DMA that alone asks is drawn. -/
theorem execDmaAccept_command {m : DmaSt} {a b : List DmaSt} (hcores : ∀ j, j < 256 → s.dmaqOf d j = none)
    (hw : (s.die d).dmaWait = a ++ m :: b) (ha : ∀ x ∈ a, x.cls < m.cls) (hb : ∀ x ∈ b, x.cls ≤ m.cls) (hfree : s.tagsFree d ≠ 0)
    (hbusy : ((s.die d).dmas.any fun x => x.tag == tag.toNat && x.busy) = false) :
    execDmaAccept d tag s = .next
      ((((s.draw ⟨d, 272, [(256, m.cls)]⟩).1).modDie d fun D => { D with dmaWait := a ++ b }).acceptDma d tag.toNat m) := by
  have hdraw := s.draw_single d (i := 272) (x := 256) (n := 256) m.cls (by decide) rfl (by decide)
  have herase : (a ++ m :: b).erase m = a ++ b := by
    rw [List.erase_append_right _ fun hm => BitVec.lt_irrefl _ (ha m hm), List.erase_cons_head]
  unfold execDmaAccept
  simp only [State.dmaqs_eq_nil hcores, DieSt.cmdDma_of_first hw ha hb, List.map_nil, List.nil_append, List.isEmpty_cons, Bool.false_eq_true,
    if_false, if_neg hfree, hbusy]
  have hkept := State.dmaWait_draw s ⟨d, 272, [(256, m.cls)]⟩ d
  rw [hdraw]
  generalize (s.draw ⟨d, 272, [(256, m.cls)]⟩).1 = t at hkept ⊢
  refine next_congr (congrArg (State.acceptDma · d tag.toNat m) (State.modDie_congr ?_))
  rw [hkept, hw, herase]

/-- The one DMAQ that waits is marked and counted, unless it was before. -/
theorem State.tagWaits_single {f : Flight} {j : Nat} (h : s.dmaqOf d j = some f) : s.tagWaits d [j] = if f.tagWait then s else
    (s.modFlight (BitVec.ofNat 10 (d.toNat * 256 + j)) f.seq fun f => { f with tagWait := true }).bump (MEM_TAG_WAIT d.toNat) := by
  unfold State.tagWaits
  simp only [List.foldl_cons, List.foldl_nil, h]
end

/-! ### Blocks and completion (R227, R228) -/

section
variable {d : DieId} {tag : BitVec 13} {i : BitVec 8} {draws : List Draw} {m : DmaSt} {s : State}

theorem execDmaBlockDone_of_none (h : (s.runDraws draws).dmaOf d tag.toNat = none) :
    execDmaBlockDone d tag i draws s = .next (s.runDraws draws) := by
  unfold execDmaBlockDone
  simp only [h]

/-- A block of a running DMA moves, unless the DMA's blocks go in order and it is not the first. -/
theorem execDmaBlockDone_moves {b : DmaBlk} (h : (s.runDraws draws).dmaOf d tag.toNat = some m) (hb : m.blks[i.toNat]? = some b)
    (hph : m.ph = .running) (hord : m.overlap = true ∨ m.op = 3 → i = 0) :
    execDmaBlockDone d tag i draws s = .next ((s.runDraws draws).dmaBlock d m b).mapsDone := by
  unfold execDmaBlockDone
  simp only [h, hb]
  refine next_congr (if_neg ?_)
  rintro (hph' | ⟨hov, hi⟩ | ⟨hop, hi⟩)
  · exact hph' hph
  · exact hi (hord (.inl hov))
  · exact hi (hord (.inr hop))

/-- Of blocks that go in order only the first moves. -/
theorem execDmaBlockDone_waits (h : (s.runDraws draws).dmaOf d tag.toNat = some m) (hord : m.overlap = true ∨ m.op = 3) (hi : i ≠ 0) :
    execDmaBlockDone d tag i draws s = .next (s.runDraws draws) := by
  unfold execDmaBlockDone
  simp only [h]
  split
  next => rfl
  next => exact next_congr (if_pos (.inr (hord.imp (⟨·, hi⟩) (⟨·, hi⟩))))

theorem execDmaComplete_of_none (h : s.dmaOf d tag.toNat = none) : execDmaComplete d tag s = .next s := by
  unfold execDmaComplete
  simp only [h]

theorem execDmaComplete_of_some (h : s.dmaOf d tag.toNat = some m) :
    execDmaComplete d tag s = .next (if m.ph = .settling ∧ m.rounds.isEmpty ∧ m.mcWait = 0 then s.dmaVisible d m else s) := by
  unfold execDmaComplete
  simp only [h]
end

/-- Settles O25: who asks is a filter of the die's cores, and one that alone asks is drawn. -/
theorem dmaEvents : Obligations.DmaEvents := by
  unfold Obligations.DmaEvents
  intro d tag i draws m s D ready noCore
  refine ⟨execDmaAccept_idle, fun hcores _ hfree => ?noTag, fun j f hj hf hother hfree => ?counted,
    fun hcores _ _ hw ha hb hfree hbusy => execDmaAccept_command hcores hw ha hb hfree hbusy,
    ⟨execDmaBlockDone_of_none, fun hm => ⟨fun _ hb hph hord => execDmaBlockDone_moves hm hb hph hord, execDmaBlockDone_waits hm⟩⟩,
    execDmaComplete_of_none, fun hm => ⟨fun hph hr hmc => ?visible, fun hph => ?running⟩⟩
  case noTag =>
    have counted := execDmaAccept_noTag (tag := tag) hfree
    rwa [State.dmaqs_eq_nil hcores] at counted
  case counted =>
    have alone : ((List.range 256).filter fun x => (s.dmaqOf d x).isSome) = [j] := by
      refine range_filter_eq_singleton hj (Option.isSome_of_eq_some hf) fun x hx hxj => ?_
      exact congrArg Option.isSome (hother x hx hxj)
    have counted := execDmaAccept_noTag (tag := tag) hfree
    rw [alone, State.tagWaits_single hf] at counted
    exact ⟨fun hw => counted.trans (next_congr (if_pos hw)), fun hw => counted.trans (next_congr (if_neg (Bool.eq_false_iff.mp hw)))⟩
  case visible => exact (execDmaComplete_of_some hm).trans (next_congr (if_pos ⟨hph, List.isEmpty_iff.mpr hr, hmc⟩))
  case running => exact (execDmaComplete_of_some hm).trans (next_congr (if_neg fun h => hph h.1))

end Sys2Proof.Machine
end

section
/-!
PROOF. Firmware's service of NOT_PRESENT faults (R237).
-/
namespace Sys2Proof.Machine

section
variable {d : DieId} {x : FaultOf} {va : Nat} {rest : List (FaultOf × Nat)} {s : State}

theorem execFaultReportService_nil (h : (s.die d).faults = []) : execFaultReportService d s = .next s := by
  unfold execFaultReportService
  simp only [h]

/-- `s` with the fault reports of die `d` that come after the one serviced. -/
abbrev State.faultsLeft (s : State) (d : DieId) (rest : List (FaultOf × Nat)) : State := s.modDie d fun D => { D with faults := rest }

variable (h : (s.die d).faults = (x, va) :: rest)
include h

/-- The page is mapped by now. -/
theorem execFaultReportService_mapped (hm : (s.faultsLeft d rest).mapped d va = true) :
    execFaultReportService d s = .next ((s.faultsLeft d rest).retryFault d x) := by
  unfold execFaultReportService
  simp only [h]
  exact next_congr (if_pos hm)

/-- The page is mapped on demand, and what was known of it is dropped. -/
theorem execFaultReportService_demand (hm : (s.faultsLeft d rest).mapped d va = false) {u : State}
    (hu : (s.faultsLeft d rest).demandMap va = some u) :
    execFaultReportService d s = .next ((u.dropXlate (va / 4096 * 4096) 4096).retryFault d x) := by
  unfold execFaultReportService
  simp only [h, hm, hu, Bool.false_eq_true, if_false]

/-- Nothing maps the page. -/
theorem execFaultReportService_abort (hm : (s.faultsLeft d rest).mapped d va = false) (hu : (s.faultsLeft d rest).demandMap va = none) :
    execFaultReportService d s = .next ((s.faultsLeft d rest).abortFault d x) := by
  unfold execFaultReportService
  simp only [h, hm, hu, Bool.false_eq_true, if_false]
end

/-- Settles O26: the service's branches, one lemma each. -/
theorem faultService : Obligations.FaultService := by
  unfold Obligations.FaultService
  exact fun d x va rest s => ⟨execFaultReportService_nil, fun h => ⟨execFaultReportService_mapped h,
    fun hm _ hu => execFaultReportService_demand h hm hu, execFaultReportService_abort h⟩⟩

end Sys2Proof.Machine
end

section
/-!
PROOF. Region tables, MEM_STEP, write packets and the patrol scrubber (R210, R213, R221, R230, R233).
-/
namespace Sys2Proof.Machine

/-! ### Region-table registers (R210, R213) -/

/-- A region-table register of an entry. -/
abbrev rgnReg (d : DieId) (n : Nat) (limit : Bool) : Nat := if limit then MEM_RGN_LIMIT d.toNat n else MEM_RGN_BASE d.toNat n

theorem rgnReg_ne_status (d : DieId) (n : Nat) (limit : Bool) : rgnReg d n limit ≠ MEM_RGN_STATUS d.toNat := by
  unfold rgnReg MEM_RGN_LIMIT MEM_RGN_BASE MEM_RGN_STATUS
  split <;> omega

section
variable (s : State) (d : DieId)

theorem State.rgnOverlap_eq : s.rgnOverlap d = { s with regs := (s.rgnOverlap d).regs } := by
  unfold State.rgnOverlap
  split <;> rfl

theorem State.die_rgnOverlap (e : DieId) : (s.rgnOverlap d).die e = s.die e := by rw [State.rgnOverlap_eq]; rfl
theorem State.mem_rgnOverlap : (s.rgnOverlap d).mem = s.mem := by rw [State.rgnOverlap_eq]

theorem State.rd_rgnOverlap_other {x : Nat} (h : x ≠ MEM_RGN_STATUS d.toNat) : (s.rgnOverlap d).rd x = s.rd x := by
  unfold State.rgnOverlap
  split
  · exact State.rd_setFld_other _ _ _ h
  · rfl

/-- After the check OVERLAP stands where entries overlap. -/
theorem State.rgnOverlap_flags (h : spansOverlap ((s.rgnOverlap d).rgnSpans d) = true) :
    MEM_RGN_STATUS.OVERLAP.get ((s.rgnOverlap d).rd (MEM_RGN_STATUS d.toNat)) = 1 := by
  unfold State.rgnOverlap at h ⊢
  by_cases hov : spansOverlap (s.rgnSpans d) = true
  · rw [if_pos hov, State.rd_setFld_same, Fld.get_put _ _ _ (by decide)]
    rfl
  · rw [if_neg hov] at h
    exact absurd h hov

/-- The check leaves HELD. -/
theorem State.rgnOverlap_held : MEM_RGN_STATUS.HELD.get ((s.rgnOverlap d).rd (MEM_RGN_STATUS d.toNat)) =
    MEM_RGN_STATUS.HELD.get (s.rd (MEM_RGN_STATUS d.toNat)) := by
  unfold State.rgnOverlap
  split
  · rw [State.rd_setFld_same, Fld.get_put_other _ _ _ _ (by decide) (by decide)]
  · rfl
end

/-- The last entry of a key put in place of those before is the one found. -/
theorem find?_replaced (l : List (Nat × Word)) (a : Nat) (w : Word) :
    ((l.filter fun e => e.1 != a) ++ [(a, w)]).find? (fun e => e.1 == a) = some (a, w) := by
  have gone : (l.filter fun e => e.1 != a).find? (fun e => e.1 == a) = none :=
    List.find?_eq_none.mpr fun e he => by simpa using (List.mem_filter.mp he).2
  rw [List.find?_append, gone]
  simp

section
variable {s : State} {d : DieId} (n : BitVec 6) (limit : Bool) (v : Word)

theorem execRgnEntryWrite_closed (h : s.openOn d = false) : execRgnEntryWrite d n limit v s =
    .next ((s.wr (rgnReg d n.toNat limit) (s.rgnWord (rgnReg d n.toNat limit) n.toNat limit d v)).rgnOverlap d) :=
  next_congr (if_neg (Bool.eq_false_iff.mp h))

/-- A region-table write held (R213). -/
def State.rgnHold (s : State) (d : DieId) (a : Nat) (w : Word) : State :=
  (s.modDie d fun D => { D with rgnHeld := (D.rgnHeld.filter fun e => e.1 != a) ++ [(a, w)] }).setFld (MEM_RGN_STATUS d.toNat) MEM_RGN_STATUS.HELD 1

theorem execRgnEntryWrite_open (h : s.openOn d = true) : execRgnEntryWrite d n limit v s =
    .next (s.rgnHold d (rgnReg d n.toNat limit) (s.rgnWord (rgnReg d n.toNat limit) n.toNat limit d v)) :=
  next_congr (if_pos h)

variable (s d)

theorem State.rgnHeld_rgnHold (a : Nat) (w : Word) :
    ((s.rgnHold d a w).die d).rgnHeld = ((s.die d).rgnHeld.filter fun e => e.1 != a) ++ [(a, w)] := by
  unfold State.rgnHold
  rw [State.die_setFld, State.die_modDie_same]

theorem State.rgnRead_rgnHold (a : Nat) (w : Word) : (s.rgnHold d a w).rgnRead d a = w := by
  unfold State.rgnRead
  rw [State.rgnHeld_rgnHold, find?_replaced]

theorem State.held_rgnHold (a : Nat) (w : Word) : MEM_RGN_STATUS.HELD.get ((s.rgnHold d a w).rd (MEM_RGN_STATUS d.toNat)) = 1 := by
  unfold State.rgnHold
  rw [State.rd_setFld_same, Fld.get_put _ _ _ (by decide)]
  rfl

theorem State.rd_rgnHold_other (a : Nat) (w : Word) {x : Nat} (h : x ≠ MEM_RGN_STATUS d.toNat) : (s.rgnHold d a w).rd x = s.rd x := by
  unfold State.rgnHold
  rw [State.rd_setFld_other _ _ _ h, State.rd_modDie]
end

/-! ### MEM_STEP (R213) -/

section
variable (s : State) (d : DieId)

theorem State.plainWrite_eq (a : Nat) (v : Word) : s.plainWrite a v = { s with regs := (s.plainWrite a v).regs } := by
  unfold State.plainWrite
  split <;> rfl

theorem State.die_plainWrite (a : Nat) (v : Word) : (s.plainWrite a v).die d = s.die d := by rw [State.plainWrite_eq]; rfl
theorem State.mem_plainWrite (a : Nat) (v : Word) : (s.plainWrite a v).mem = s.mem := by rw [State.plainWrite_eq]

/-- What is held of a die's region table, applied in order. -/
def State.rgnApply (s : State) (d : DieId) : State := (s.die d).rgnHeld.foldl (fun s (a, w) => s.wr a w) s

theorem State.rgnApply_eq : s.rgnApply d = { s with regs := (s.rgnApply d).regs } := by
  unfold State.rgnApply
  exact List.foldlRecOn (motive := fun t : State => t = { s with regs := t.regs }) _ _ rfl fun t ht e _ => by rw [ht]; rfl

/-- What is held is no more: it has been applied. -/
def State.rgnClose (s : State) (d : DieId) : State :=
  (((s.rgnApply d).modDie d fun D => { D with rgnHeld := [] }).setFld (MEM_RGN_STATUS d.toNat) MEM_RGN_STATUS.HELD 0).rgnOverlap d

theorem State.memStep_stays {v : Word} (h : MEM_STEP.OPEN.get v = 1 ∨ (s.die d).rgnHeld = []) :
    s.memStep d v = s.plainWrite (MEM_STEP d.toNat) v := by
  unfold State.memStep
  exact if_pos (h.imp_right fun hheld => by rw [State.die_plainWrite, hheld]; rfl)

theorem State.memStep_closes {v : Word} (hv : MEM_STEP.OPEN.get v = 0) (h : (s.die d).rgnHeld ≠ []) :
    s.memStep d v = (s.plainWrite (MEM_STEP d.toNat) v).rgnClose d := by
  unfold State.memStep
  refine if_neg ?_
  rw [State.die_plainWrite, hv, List.isEmpty_iff]
  exact not_or.mpr ⟨by decide, h⟩

theorem State.rgnHeld_rgnClose : ((s.rgnClose d).die d).rgnHeld = [] := by
  unfold State.rgnClose
  rw [State.die_rgnOverlap, State.die_setFld, State.die_modDie_same]

theorem State.held_rgnClose : MEM_RGN_STATUS.HELD.get ((s.rgnClose d).rd (MEM_RGN_STATUS d.toNat)) = 0 := by
  unfold State.rgnClose
  rw [State.rgnOverlap_held, State.rd_setFld_same, Fld.get_put _ _ _ (by decide), Nat.zero_mod]

theorem State.mem_rgnClose : (s.rgnClose d).mem = s.mem := by
  unfold State.rgnClose
  rw [State.mem_rgnOverlap]
  show (s.rgnApply d).mem = s.mem
  rw [State.rgnApply_eq]

/-- A single held write is applied. -/
theorem State.rd_rgnClose {a : Nat} {w : Word} (ha : a ≠ MEM_RGN_STATUS d.toNat) (h : (s.die d).rgnHeld = [(a, w)]) :
    (s.rgnClose d).rd a = w := by
  unfold State.rgnClose State.rgnApply
  rw [State.rd_rgnOverlap_other _ _ ha, State.rd_setFld_other _ _ _ ha, State.rd_modDie, h]
  exact State.rd_wr_same ..
end

/-! ### Write packets (R221) -/

section
variable {s : State} {a : BitVec 52} {data : List Byte} {who : BitVec 32}

theorem execWritePacket_refused (h : data = [] ∨ 256 < a.toNat % 256 + data.length) : execWritePacket a data who s = .next s :=
  next_congr (if_pos (h.imp List.length_eq_zero_iff.mpr Or.inl))

/-- A write packet on its way put into memory. -/
def State.packetPut (s : State) (e e' : Ep) (a : Nat) (data : List Byte) : State := (s.send e e' (writeFlits data.length)).wrMem a data

theorem execWritePacket_taken {e e' : Ep} (he : s.writerEp who.toNat a.toNat = e) (he' : s.tierEp a.toNat = e') (hne : data ≠ [])
    (hline : a.toNat % 256 + data.length ≤ 256) (hplace : s.dmaPlace a.toNat data.length = true) (hheld : s.heldForRead a.toNat = false)
    (hpace : e.atStop e' = true ∨ s.paced e (writeFlits data.length) = false) :
    execWritePacket a data who s = .next (((s.packetPut e e' a.toNat data).received a.toNat who.toNat).ctrl e' e) := by
  subst he he'
  refine next_congr (if_neg ?_)
  rw [hplace, hheld]
  rcases hpace with h | h <;> simp [h, hne] <;> omega

theorem State.mem_packetPut (s : State) (e e' : Ep) (a : Nat) (data : List Byte) : (s.packetPut e e' a data).mem = (s.putMem a data).mem :=
  (State.wrMem_mem ..).trans ((s.send_sameData e e' _).putMem a data).mem
end

/-! ### The patrol scrubber (R230, R233) -/

/-- With the log ring off a record goes to those held, or is lost. -/
theorem State.event_sameData {s : State} (h : s.bit MOD_LOG_BASE MOD_LOG_BASE.EN = false) (type cls src tier addr : Nat) (data : List Byte) :
    s.SameData (s.event type cls src tier addr data) := by
  unfold State.event State.logWrite
  dsimp only
  split
  next hEN => exact absurd (h.symm.trans hEN) (by decide)
  next => split <;> exact ⟨rfl, rfl, rfl⟩

/-- The same after a count that is not the log ring's base. -/
theorem State.bump_event_sameData {s : State} {cnt : Nat} (h : s.bit MOD_LOG_BASE MOD_LOG_BASE.EN = false) (hcnt : MOD_LOG_BASE ≠ cnt)
    (type cls src tier addr : Nat) (data : List Byte) : s.SameData ((s.bump cnt).event type cls src tier addr data) := by
  refine (State.bump_sameData s cnt 1).trans (State.event_sameData ?_ ..)
  rw [State.bit, State.fld, State.rd_bump_other _ _ hcnt]
  exact h

theorem State.corrected_sameData (s : State) (cnt type src tier addr : Nat) (data : List Byte) :
    s.SameData (s.corrected cnt type src tier addr data) := by
  unfold State.corrected
  dsimp only
  split_ifs <;> exact ⟨rfl, rfl, rfl⟩

/-- A tier's count of poisoned codewords is not the log ring's base. -/
theorem State.tierOf_ue_ne_logBase (s : State) (a : Nat) : MOD_LOG_BASE ≠ (s.tierOf a).2.2.1 := by
  unfold State.tierOf
  split <;> dsimp only <;> decide

/-- A key that does not hold the default has an entry. -/
theorem Tab.mem_of_get_ne {α : Type} {d : Nat → α} {t : Tab α} {k : Nat} (h : t.get d k ≠ d k) : (k, t.get d k) ∈ t := by
  induction t with
  | nil => exact absurd rfl h
  | cons e t ih =>
    obtain ⟨j, v⟩ := e
    unfold Tab.get at h ⊢
    split at h
    next hj => rw [if_pos hj, hj]; exact List.mem_cons_self
    next hj => rw [if_neg hj]; exact List.mem_cons_of_mem _ (ih h)

/-- A codeword set poisoned is. -/
theorem State.poisoned_setPoison (s : State) (k : Nat) : (s.setPoison (k * 16) 16 true).poisoned (k * 16) 16 = true := by
  have run : (s.setPoison (k * 16) 16 true).poison = s.poison.setRun (fun _ => false) k [true] := by
    unfold State.setPoison
    rw [show (k * 16 + 16 + 15) / 16 - k * 16 / 16 = 1 by omega, show k * 16 / 16 = k by omega]
    rfl
  have hget : (s.setPoison (k * 16) 16 true).poison.get (fun _ => false) k = true := by
    rw [run]
    exact Tab.get_setRun_same _ _ k 0 [true] (by decide)
  have hmem := Tab.mem_of_get_ne (hget.trans_ne (by decide))
  rw [hget] at hmem
  unfold State.poisoned
  refine Bool.and_eq_true_iff.mpr ⟨by decide, List.any_eq_true.mpr ⟨_, hmem, ?_⟩⟩
  simp
  omega

/-- A codeword without error. -/
theorem execPatrolScrub_clean (a : BitVec 52) (sym : BitVec 6) (s : State) : execPatrolScrub a 0 sym s = .next s := by
  unfold execPatrolScrub
  exact next_congr (ite_self _)

section
variable {s : State} {a : BitVec 52} {sym : BitVec 6} (h₀ : (s.tierOf (a.toNat / 16 * 16)).1 ≠ 0) (h₅ : (s.tierOf (a.toNat / 16 * 16)).1 ≠ 5)
include h₀ h₅

/-- One symbol corrected. -/
theorem execPatrolScrub_one : ∃ t, execPatrolScrub a 1 sym s = .next t ∧ s.SameData t := by
  unfold execPatrolScrub
  exact ⟨_, next_congr (if_neg (not_or.mpr ⟨h₀, h₅⟩)), State.corrected_sameData ..⟩

/-- Two symbols in error. -/
theorem execPatrolScrub_two (hlog : s.bit MOD_LOG_BASE MOD_LOG_BASE.EN = false) :
    ∃ t, execPatrolScrub a 2 sym s = .next t ∧ t.poisoned (a.toNat / 16 * 16) 16 = true ∧ t.mem = s.mem := by
  unfold execPatrolScrub
  by_cases hp : s.poisoned (a.toNat / 16 * 16) 16 = true
  · exact ⟨s, next_congr ((if_neg (not_or.mpr ⟨h₀, h₅⟩)).trans (if_pos hp)), hp, rfl⟩
  · have same := State.bump_event_sameData (s := s.setPoison (a.toNat / 16 * 16) 16 true) hlog (s.tierOf_ue_ne_logBase (a.toNat / 16 * 16))
    exact ⟨_, next_congr ((if_neg (not_or.mpr ⟨h₀, h₅⟩)).trans (if_neg hp)), ((same ..).poisoned ..).trans (s.poisoned_setPoison _),
      (same ..).mem⟩
end

/-- Settles O27: a region-table write is applied or held, a close applies what is held, a packet is its bytes put, and the scrubber's
reports leave memory. -/
theorem memoryEvents : Obligations.MemoryEvents := by
  unfold Obligations.MemoryEvents
  intro d n limit v a data who sym s r clash
  have hr : r ≠ MEM_RGN_STATUS d.toNat := rgnReg_ne_status d n.toNat limit
  refine ⟨fun h => ?applied, fun h => ?held, fun h => next_congr (s.memStep_stays d (.inl h)), fun hv => ?closed,
    fun hne hline hplace hheld hpace => ?packet, execWritePacket_refused, execPatrolScrub_clean a sym s, fun ht0 ht5 hlog => ⟨?two, ?one⟩⟩
  case applied =>
    refine ⟨_, execRgnEntryWrite_closed n limit v h, ?_, State.rgnOverlap_flags _ d, fun x hx hst => ?_, State.rgnOverlap_eq _ d⟩
    · rw [State.rd_rgnOverlap_other _ _ hr]
      exact State.rd_wr_same ..
    · rw [State.rd_rgnOverlap_other _ _ hst]
      exact State.rd_wr_other _ _ hx
  case held =>
    refine ⟨_, execRgnEntryWrite_open n limit v h, ?_, s.rgnRead_rgnHold d _ _, s.held_rgnHold d _ _, fun x hx => s.rd_rgnHold_other d _ _ hx⟩
    rw [State.rgnHeld_rgnHold]
    exact List.mem_append_right _ (List.mem_singleton_self _)
  case closed =>
    have kept := s.die_plainWrite d (MEM_STEP d.toNat) v
    have mem := s.mem_plainWrite (MEM_STEP d.toNat) v
    by_cases hheld : (s.die d).rgnHeld = []
    · exact ⟨_, next_congr (s.memStep_stays d (.inr hheld)), (congrArg DieSt.rgnHeld kept).trans hheld, fun h => absurd hheld h,
        fun w hw => absurd (hw.symm.trans hheld) (List.cons_ne_nil _ _), mem⟩
    · exact ⟨_, next_congr (s.memStep_closes d hv hheld), State.rgnHeld_rgnClose _ d,
        fun _ => ⟨State.held_rgnClose _ d, State.rgnOverlap_flags _ d⟩,
        fun w hw => State.rd_rgnClose _ d hr ((congrArg DieSt.rgnHeld kept).trans hw), (State.mem_rgnClose _ d).trans mem⟩
  case packet =>
    have put := s.mem_packetPut (s.writerEp who.toNat a.toNat) (s.tierEp a.toNat) a.toNat data
    refine ⟨execWritePacket_taken rfl rfl hne hline hplace hheld hpace, State.rdMem_wrMem .., fun x hx => ?_⟩
    exact (congrArg (Tab.get memZero · x) put).trans ((s.byte_putMem a.toNat x data).trans (dif_neg (by omega)))
  case two => exact execPatrolScrub_two (sym := sym) ht0 ht5 hlog
  case one =>
    obtain ⟨t, ht, same⟩ := execPatrolScrub_one (sym := sym) ht0 ht5
    exact ⟨t, ht, same.poison, same.mem⟩

end Sys2Proof.Machine
end

section
/-!
PROOF. Stream rings and late-write notices (R217 to R224).
-/
namespace Sys2Proof.Machine

/-! ### Enabling and disabling a ring (R217, R220) -/

section
variable {s : State} {d : DieId} {n : Nat}

theorem State.ringEnable_running (h : (s.ring d n).running = true) : s.ringEnable d n = s := by
  unfold State.ringEnable
  exact (if_pos h).trans (ite_self _)

/-- A ring enabled: EN and POS as its start sets them. -/
def State.ringOn (s : State) (d : DieId) (n : Nat) : State :=
  ((s.setFld (STM_RING_CTL d.toNat n) STM_RING_CTL.EN 1).ringFix d n).wr (STM_RING_POS d.toNat n) 0

/-- Whether a ring's slots lie in SPILL bonded SRAM on every die it writes (R215). -/
def State.ringFits (s : State) (d : DieId) (n : Nat) : Bool :=
  (s.ringDies d n).all fun e => s.spillBonded d (s.ringBase d n e) (s.ringS d n * s.ringSize d n)

theorem State.ringEnable_misfit (h : (s.ring d n).running = false) (hfit : (s.ringOn d n).ringFits d n = false) :
    s.ringEnable d n = (s.ringOn d n).ringErr d n := by
  unfold State.ringEnable
  exact (if_neg (Bool.eq_false_iff.mp h)).trans (if_neg (Bool.eq_false_iff.mp hfit))

theorem State.ringEnable_fits (h : (s.ring d n).running = false) (hfit : (s.ringOn d n).ringFits d n = true) :
    s.ringEnable d n =
      (((s.ringOn d n).setRing d n { running := true, p0 := (s.ringOn d n).objVal ((s.ringOn d n).ringP d n),
                                     r0 := (s.ringOn d n).objVal ((s.ringOn d n).ringR d n) }).modDie d
        fun D => { D with copies := D.copies.filter fun c => c.ring != n }).ringGo d n ringFuel := by
  unfold State.ringEnable
  exact (if_neg (Bool.eq_false_iff.mp h)).trans (if_pos hfit)

theorem State.ringDisable_off (h : (s.ring d n).running = false) : s.ringDisable d n = s := by
  unfold State.ringDisable
  exact if_pos (by rw [h]; rfl)

theorem State.ringDisable_idle (h : (s.ring d n).running = true) (hb : (s.ring d n).blks = []) : s.ringDisable d n = s.ringStopped d n := by
  unfold State.ringDisable
  exact (if_neg (by rw [h]; decide)).trans (if_pos (by rw [hb]; rfl))

theorem State.ringDisable_busy (h : (s.ring d n).running = true) (hb : (s.ring d n).blks ≠ []) :
    s.ringDisable d n = s.setRing d n { s.ring d n with stopping := true } := by
  unfold State.ringDisable
  exact (if_neg (by rw [h]; decide)).trans (if_neg (mt List.isEmpty_iff.mp hb))
end

/-! ### Line requests that go on (R252) -/

section
variable (s : State) (d : DieId)

theorem State.dies_flits (c r : CoreId) (out n : Nat) : (s.flits c r out n).dies = s.dies := by
  have go : ∀ k s c, (State.flits.go r out n k s c).dies = s.dies := by
    intro k
    induction k with
    | zero => exact fun _ _ => rfl
    | succ k ih =>
      intro s c
      unfold State.flits.go
      split
      · exact ih _ _
      · rfl
  exact go 64 s c

theorem State.dies_send (e e' : Ep) (n : Nat) : (s.send e e' n).dies = s.dies := by
  unfold State.send
  split
  · rfl
  · rw [State.dies_flits]
    unfold State.spend
    dsimp only
    split <;> rfl

theorem modFirst_map {α β : Type} (g : α → β) (p : α → Bool) {f : α → α} (hf : ∀ x, g (f x) = g x) (l : List α) :
    (modFirst p f l).map g = l.map g := by
  induction l with
  | nil => rfl
  | cons x l ih =>
    unfold modFirst
    split
    · rw [List.map_cons, hf, List.map_cons]
    · rw [List.map_cons, ih, List.map_cons]

/-- The blocks of a die's line requests. -/
def State.lineBlks (s : State) (d : DieId) : List Nat := (s.die d).lines.map (·.blk)

/-- From one state to another line requests of a die go on: none comes or ends, and memory, its poison and the cores stay. -/
structure State.LinesGo (s t : State) (d : DieId) : Prop extends s.SameData t where
  blks : t.lineBlks d = s.lineBlks d

theorem State.LinesGo.refl : s.LinesGo s d := ⟨.refl s, rfl⟩

theorem State.LinesGo.trans {s t u : State} {d : DieId} (h : s.LinesGo t d) (k : t.LinesGo u d) : s.LinesGo u d :=
  ⟨h.toSameData.trans k.toSameData, k.blks.trans h.blks⟩

theorem State.modLine_linesGo (blk pa : Nat) {f : LineReq → LineReq} (hf : ∀ l, (f l).blk = l.blk) : s.LinesGo (s.modLine d blk pa f) d := by
  refine ⟨⟨rfl, rfl, rfl⟩, ?_⟩
  unfold State.lineBlks State.modLine
  rw [State.die_modDie_same]
  exact modFirst_map _ _ hf _

theorem State.send_linesGo (e e' : Ep) (n : Nat) : s.LinesGo (s.send e e' n) d := by
  refine ⟨s.send_sameData e e' n, ?_⟩
  unfold State.lineBlks State.die
  rw [State.dies_send]

theorem State.lineGo_linesGo (l : LineReq) : s.LinesGo (s.lineGo d l) d := by
  unfold State.lineGo
  dsimp only
  split
  · exact .refl s d
  · split
    · exact s.modLine_linesGo d _ _ fun _ => rfl
    · exact (s.send_linesGo d _ _ _).trans (State.modLine_linesGo _ _ _ _ fun _ => rfl)

theorem State.pumpLines_linesGo : s.LinesGo (s.pumpLines d) d := by
  unfold State.pumpLines
  refine List.foldlRecOn (motive := fun t => s.LinesGo t d) _ _ (.refl s d) fun t ht l _ => ?_
  split
  · exact ht.trans (t.lineGo_linesGo d l)
  · exact ht

theorem State.dropLines_sameData (blks : List Nat) : s.SameData (s.dropLines d blks) :=
  .trans (t := s.modDie d _) ⟨rfl, rfl, rfl⟩ (State.pumpLines_linesGo ..).toSameData
end

/-! ### Blocks of a ring (R217, R218, R222) -/

section
variable {s : State} {d : DieId} {n : Nat} {blk : Nat}

/-- A block without line requests is not answered. -/
theorem State.fetchLines_none (h : blk ∉ s.lineBlks d) : s.fetchLines d blk = s := by
  have empty : (s.die d).lines.filter (fun l => l.blk == blk && l.st == .queue) = [] := by
    refine List.filter_eq_nil_iff.mpr fun l hl hp => h ?_
    exact List.mem_map.mpr ⟨l, hl, by simpa using (Bool.and_eq_true_iff.mp hp).1⟩
  unfold State.fetchLines
  rw [empty]
  rfl

/-- A block without line requests has no bytes. -/
theorem State.blkData_none (h : blk ∉ s.lineBlks d) : s.blkData d blk = none := by
  have empty : (s.die d).lines.filter (fun l => l.blk == blk) = [] :=
    List.filter_eq_nil_iff.mpr fun l hl hp => h (List.mem_map.mpr ⟨l, hl, by simpa using hp⟩)
  unfold State.blkData
  simp only [empty, List.isEmpty_nil]
  rfl

theorem State.blkRead_begun {b : RingBlk} (h : (s.die d).begun.contains b.pa = true) : s.blkRead d n b = s := by
  unfold State.blkRead State.mayReadBlk
  rw [h]
  exact if_pos (by simp)

/-- Between a begin notice of its page and its end notice a block that is not being read stays so. -/
theorem State.ringStep_begun {b : RingBlk} (h : (s.die d).begun.contains b.pa = true) (hread : b.read = false)
    (hl : ∀ l ∈ (s.die d).lines, l.blk ≠ b.id) : s.ringStep d n b = s.pumpLines d := by
  have idle : b.id ∉ (s.pumpLines d).lineBlks d := by
    rw [(s.pumpLines_linesGo d).blks]
    intro hb
    obtain ⟨l, hmem, hid⟩ := List.mem_map.mp hb
    exact hl l hmem hid
  unfold State.ringStep
  simp only [State.blkRead_begun h, hread, Bool.false_eq_true, if_false, State.fetchLines_none idle, State.blkData_none idle]

/-- The blocks that a stream engine's draws find: a ring with none in flight first starts what it may. -/
def State.ringDrawn (s : State) (d : DieId) (n : Nat) (draws : List Draw) : State :=
  (if (s.ring d n).blks = [] then s.ringGo d n ringFuel else s).runDraws draws

theorem execStreamBlockWritten_none {n : BitVec 3} {x : BlockStep}
    (h : ((s.ringDrawn d n.toNat x.draws).ring d n.toNat).blks[x.i.toNat]? = none) :
    execStreamBlockWritten d n x s = .next (s.ringDrawn d n.toNat x.draws) := by
  unfold State.ringDrawn at h ⊢
  unfold execStreamBlockWritten
  simp only [List.isEmpty_iff, h]

theorem execStreamBlockWritten_some {n : BitVec 3} {x : BlockStep} {b : RingBlk}
    (h : ((s.ringDrawn d n.toNat x.draws).ring d n.toNat).blks[x.i.toNat]? = some b) :
    execStreamBlockWritten d n x s = .next ((s.ringDrawn d n.toNat x.draws).ringStep d n.toNat b).mapsDone := by
  unfold State.ringDrawn at h ⊢
  unfold execStreamBlockWritten
  simp only [List.isEmpty_iff, h]
end

/-! ### Notices (R222, R224, R267) -/

section
variable {s : State} {k : BitVec 16} {x : Notice}

theorem execLateNoticeReceive_none (h : s.noc.notices[k.toNat]? = none) : execLateNoticeReceive k s = .next s := by
  unfold execLateNoticeReceive
  simp only [h]

theorem execLateNoticeReceive_behind (h : s.noc.notices[k.toNat]? = some x) (hb : s.noticeBehind k.toNat x = true) :
    execLateNoticeReceive k s = .next s := by
  unfold execLateNoticeReceive
  simp only [h, hb, if_true]

/-- `s` with the notice at `k` off the mesh. -/
abbrev State.noticeOff (s : State) (k : Nat) : State := { s with noc := { s.noc with notices := s.noc.notices.eraseIdx k } }

theorem execLateNoticeReceive_arrives (h : s.noc.notices[k.toNat]? = some x) (hb : s.noticeBehind k.toNat x = false) :
    execLateNoticeReceive k s = .next ((s.noticeOff k.toNat).noticed x) := by
  unfold execLateNoticeReceive
  simp only [h, hb, Bool.false_eq_true, if_false]

theorem State.discardReads_sameData (s : State) (d : DieId) (block : Nat) : s.SameData (s.discardReads d block) := by
  unfold State.discardReads
  refine List.foldlRecOn (motive := fun t => s.SameData t) _ _ (.refl s) fun t ht n _ => .trans (.trans ht ?_) (State.dropLines_sameData ..)
  exact List.foldlRecOn (motive := fun u => t.SameData u) _ _ ⟨rfl, rfl, rfl⟩ fun u hu _ _ => hu.trans (u.bump_sameData _ _)

/-- A begin notice bars its page. -/
theorem State.noticed_begin (h : x.kind = 0) :
    s.noticed x = (s.discardReads x.d x.block).modDie x.d fun D => { D with begun := D.begun ++ [x.block] } := by
  unfold State.noticed
  simp only [h]
  rfl
end

/-- Settles O28: the branches of the ring's operations; a block without line requests stays so while requests of others go on. -/
theorem streamEvents : Obligations.StreamEvents := by
  unfold Obligations.StreamEvents
  intro d n x k s r on fits
  refine ⟨fun h => next_congr (State.ringEnable_running h), fun h hfit => next_congr (State.ringEnable_misfit h hfit),
    fun h hfit => next_congr (State.ringEnable_fits h hfit), fun h => next_congr (State.ringDisable_off h),
    fun h hb => next_congr (State.ringDisable_idle h hb), fun h hb => next_congr (State.ringDisable_busy h hb),
    ⟨execStreamBlockWritten_none, fun b hb => ⟨execStreamBlockWritten_some hb, fun hbegun hread hl => ?barred⟩⟩,
    execLateNoticeReceive_none, fun x hx => ⟨execLateNoticeReceive_behind hx,
      fun hb => ⟨execLateNoticeReceive_arrives hx hb, fun hkind => ?begins⟩⟩⟩
  case barred =>
    exact (execStreamBlockWritten_some hb).trans (next_congr (congrArg State.mapsDone (State.ringStep_begun hbegun hread hl)))
  case begins =>
    refine ⟨_, (execLateNoticeReceive_arrives hx hb).trans (next_congr (State.noticed_begin hkind)), ?_, ?_⟩
    · rw [State.die_modDie_same]
      exact List.mem_append_right _ (List.mem_singleton_self _)
    · exact (State.discardReads_sameData (s.noticeOff k.toNat) x.d x.block).mem

end Sys2Proof.Machine
end

section
/-!
PROOF. Answers of the host to ATS and page requests, and its invalidations (R236, R428, R429).
-/
namespace Sys2Proof.Machine

/-! ### Entries dropped from tables -/

/-- What a table mapped and filtered holds is the default, or the image of what the key held. -/
theorem Tab.get_mapFilter {α : Type} {d : Nat → α} {t : Tab α} {f : Nat × α → Nat × α} (hf : ∀ e, (f e).1 = e.1) {p : Nat × α → Bool}
    {k : Nat} (h : Tab.get d ((t.map f).filter p) k ≠ d k) : ∃ v, Tab.get d ((t.map f).filter p) k = (f (k, v)).2 := by
  obtain ⟨⟨j, v⟩, -, he⟩ := List.mem_map.mp (List.mem_of_mem_filter (Tab.mem_of_get_ne h))
  have hj : j = k := (hf (j, v)).symm.trans (congrArg Prod.fst he)
  exact ⟨v, (congrArg Prod.snd he).symm.trans (by rw [hj])⟩

section
variable (s : State) {c : CoreId} {d g : DieId}

/-- A core with a translation is not as reset leaves it. -/
theorem State.core_ne_of_tlb {s : State} {x : TlbEnt} (hx : x ∈ (s.core c).tlb) : s.core c ≠ {} := by
  intro h
  rw [h] at hx
  cases hx

theorem toNat_dieOf (c : CoreId) : (dieOf c).toNat = c.toNat / 256 := by
  unfold dieOf
  rw [BitVec.extractLsb'_toNat, Nat.shiftRight_eq_div_pow]
  omega

/-- A page dropped for a die is in no translation buffer of its cores. -/
theorem State.tlb_dropPage (hc : dieOf c = d) (page : Nat) : ∀ x ∈ ((s.dropPage d page).core c).tlb, x.va ≠ page := by
  intro x hx
  obtain ⟨C, hC⟩ := Tab.get_mapFilter (by exact fun _ => rfl) (State.core_ne_of_tlb hx)
  have own : c.toNat / 256 = d.toNat := by rw [← hc, toNat_dieOf]
  have hcore : (s.dropPage d page).core c = { C with tlb := C.tlb.filter fun t => t.va != page } := hC.trans (if_pos own)
  rw [hcore] at hx
  simpa using (List.mem_filter.mp hx).2

theorem State.die_foldl_modDie (f : DieSt → DieSt) : (allDies.foldl (fun s d => s.modDie d f) s).die g = f (s.die g) := by
  have hg : g = 0 ∨ g = 1 ∨ g = 2 ∨ g = 3 := by
    revert g
    decide
  rcases hg with rfl | rfl | rfl | rfl <;> simp [allDies, State.die_modDie]

/-- Two ranges do not meet. -/
theorem apart_of_not_hit {a n va len : Nat} (h : (!(decide (a < va + len) && decide (va < a + n))) = true) : a + n ≤ va ∨ va + len ≤ a := by
  simp only [Bool.not_eq_true', Bool.and_eq_false_iff, decide_eq_false_iff_not] at h
  omega

theorem State.atc_dropXlate (va len : Nat) : ∀ x ∈ ((s.dropXlate va len).die g).atc, x.va + 4096 ≤ va ∨ va + len ≤ x.va := by
  intro x hx
  unfold State.dropXlate at hx
  rw [State.die_foldl_modDie] at hx
  exact apart_of_not_hit (List.mem_filter.mp hx).2

theorem State.tlb_dropXlate (va len : Nat) : ∀ x ∈ ((s.dropXlate va len).core c).tlb, x.va + x.size ≤ va ∨ va + len ≤ x.va := by
  intro x hx
  obtain ⟨C, hC⟩ := Tab.get_mapFilter (by exact fun _ => rfl) (State.core_ne_of_tlb hx)
  have hcore : (s.dropXlate va len).core c =
    { C with tlb := C.tlb.filter fun t => !(decide (t.va < va + len) && decide (va < t.va + t.size)) } := hC
  rw [hcore] at hx
  exact apart_of_not_hit (List.mem_filter.mp hx).2
end

/-! ### Answers -/

section
variable {d : DieId} {va : BitVec 48} {host : BitVec 52} {perm : BitVec 3} {s : State}

theorem execAtsTranslationCompletion_unasked (h : (s.die d).atsWait.contains (va.toNat / 4096 * 4096) = false) :
    execAtsTranslationCompletion d va host perm s = .next s :=
  next_congr (if_pos (by rw [h]; rfl))

theorem execPriResponse_unasked {code : BitVec 2} (h : s.priSend.host.priSent.contains (d.toNat * 2 ^ 48 + va.toNat / 4096 * 4096) = false) :
    execPriResponse d va code s = .next s.priSend :=
  next_congr (if_pos (by rw [h]; rfl))

/-- The state after a page response is taken: off those sent, and off what the die has waited for and kept. -/
def State.priTaken (s : State) (d : DieId) (page : Nat) : State :=
  (({ s with host := { s.host with priSent := s.host.priSent.erase (d.toNat * 2 ^ 48 + page) } } : State).modDie d fun D =>
    { D with priWait := D.priWait.erase page, atc := D.atc.filter fun x => x.va != page }).dropPage d page

theorem execPriResponse_granted (h : s.priSend.host.priSent.contains (d.toNat * 2 ^ 48 + va.toNat / 4096 * 4096) = true) :
    execPriResponse d va 0 s = .next ((((List.range 256).map fun i => (BitVec.ofNat 10 (d.toNat * 256 + i) : CoreId)).foldl
      (fun s c => s.priCore c (va.toNat / 4096 * 4096) true) (s.priSend.priTaken d (va.toNat / 4096 * 4096))).wakeAtsEngines
        d (va.toNat / 4096 * 4096)) :=
  next_congr (if_neg (by rw [h]; decide))
end

/-- Settles O37: the answers' branches, and what is left in the caches that a page or a range is dropped from. -/
theorem hostTranslation : Obligations.HostTranslation := by
  unfold Obligations.HostTranslation
  intro d va len host perm code s page e used
  refine ⟨execAtsTranslationCompletion_unasked, fun h => next_congr (if_neg (by rw [h]; decide)), execPriResponse_unasked,
    fun h hcode => ?granted, fun h => next_congr (if_pos h), fun h => ?dropped⟩
  case granted =>
    subst hcode
    exact ⟨execPriResponse_granted h, fun c hc => State.tlb_dropPage _ hc page⟩
  case dropped =>
    exact ⟨_, next_congr (if_neg (Bool.eq_false_iff.mp h)), rfl, rfl, fun g => s.atc_dropXlate va.toNat len.toNat,
      fun c => s.tlb_dropXlate va.toNat len.toNat⟩

end Sys2Proof.Machine
end

section
/-!
PROOF. Line requests of the cores, the sorters' queues and the responses (R241 to R248).
-/
namespace Sys2Proof.Machine

/-! ### The first element that passes a test -/

section
variable {α : Type} {p : α → Bool} {f : α → α}

theorem modFirst_eq_self {l : List α} (h : ∀ x ∈ l, p x = false) : modFirst p f l = l := by
  induction l with
  | nil => rfl
  | cons x l ih =>
    obtain ⟨hx, hl⟩ := List.forall_mem_cons.mp h
    rw [modFirst, hx, ih hl]
    rfl

theorem modFirst_append_cons {a : List α} {e : α} (b : List α) (ha : ∀ x ∈ a, p x = false) (he : p e = true) :
    modFirst p f (a ++ e :: b) = a ++ f e :: b := by
  induction a with
  | nil => exact if_pos he
  | cons x a ih =>
    obtain ⟨hx, ha⟩ := List.forall_mem_cons.mp ha
    rw [List.cons_append, modFirst, hx, ih ha]
    rfl

theorem find?_append_cons {a : List α} {e : α} (b : List α) (ha : ∀ x ∈ a, p x = false) (he : p e = true) :
    (a ++ e :: b).find? p = some e :=
  List.find?_eq_some_iff_append.mpr ⟨he, a, b, rfl, fun x hx => by rw [ha x hx]; rfl⟩

/-- Where some element passes the test, one that passes it stands changed in the list. -/
theorem exists_mem_modFirst {l : List α} (h : l.any p = true) : ∃ e, p e = true ∧ f e ∈ modFirst p f l := by
  obtain ⟨e, he⟩ := Option.isSome_iff_exists.mp (List.find?_isSome.mpr (List.any_eq_true.mp h))
  obtain ⟨hp, a, b, rfl, ha⟩ := List.find?_eq_some_iff_append.mp he
  refine ⟨e, hp, ?_⟩
  rw [modFirst_append_cons b (fun x hx => (Bool.not_eq_true' _).mp (ha x hx)) hp]
  exact List.mem_append_right a List.mem_cons_self
end

@[simp] theorem State.sorter_setSorter_same (s : State) (k : ClusterId) (S : SorterSt) : (s.setSorter k S).sorter k = S :=
  (State.sorter_setSorter ..).trans (if_pos rfl)

/-! ### What leaves a sorter leaves memory and the cores alone -/

section
variable (s : State) (k : ClusterId)

theorem State.setSorter_sameData (S : SorterSt) : s.SameData (s.setSorter k S) := ⟨rfl, rfl, rfl⟩

theorem State.sendEntry_sameData (line : Nat) : s.SameData (s.sendEntry k line) := by
  unfold State.sendEntry
  dsimp only
  split
  · exact .refl s
  split
  · exact s.setSorter_sameData k _
  next c _ _ =>
    have sent := s.send_sameData (coreEp c) (s.tierEp line) 1
    split
    · exact .refl s
    split
    · split
      · exact sent.trans ((State.bump_sameData ..).trans (State.setSorter_sameData ..))
      · exact sent.trans (State.setSorter_sameData ..)
    · exact sent.trans (State.setSorter_sameData ..)

theorem State.sendFree_sameData : s.SameData (s.sendFree k) := by
  unfold State.sendFree
  generalize (s.sorter k).entries.filter (fun e => !e.sent && !e.target.drawn) = l
  induction l generalizing s with
  | nil => exact .refl s
  | cons e l ih => exact (s.sendEntry_sameData k e.line).trans (ih _)
end

/-! ### A line enters its sorter (R241, R246, R247) -/

section
variable (s : State) (c : CoreId) (line : Nat)

theorem State.setSorter_alters (k : ClusterId) (S : SorterSt) : s.Alters (s.setSorter k S) c ∅ id :=
  ⟨rfl, fun _ _ => rfl, rfl, fun _ _ => rfl, rfl, rfl⟩

/-- `s` with a miss register of core `c` taken for a line, and an uncached line read counted (R198, R241). -/
def State.missTaken (s : State) (c : CoreId) (line : Nat) : State :=
  let t := s.modCore c fun C => { C with miss := C.miss ++ [line] }
  if t.uncachedLine c line then t.bump (COR_UNCACHED c.toNat) else t

theorem State.missTaken_alters : s.Alters (s.missTaken c line) c {COR_UNCACHED c.toNat} fun C => { C with miss := C.miss ++ [line] } :=
  ((State.Alters.modCore s c _).trans (.ite (.bump ..) (.refl ..))).mono (Set.empty_union _).subset

/-- Whether a request of core `c` for a line merges into the read of a sorter's entry (R247). -/
def SortEntry.joinable (c : CoreId) (line : Nat) (e : SortEntry) : Bool := e.line == line && !e.cores.contains c

/-- A request that enters its sorter joins the first entry it may, or opens one of its own. -/
theorem State.enterSorter_cases :
    let t := s.missTaken c line
    let S := t.sorter (clusterOf c)
    S.entries.any (SortEntry.joinable c line) = true ∧ s.enterSorter c line = (t.setSorter (clusterOf c)
        { S with entries := modFirst (SortEntry.joinable c line) (fun e => { e with cores := e.cores ++ [c] }) S.entries }).bump
          (CLU_SORT_MERGED (clusterOf c).toNat) ∨
      s.enterSorter c line = t.setSorter (clusterOf c)
        { S with entries := S.entries ++ [{ line := line, target := t.targetOf line, cores := [c] }] } := by
  intro t S
  by_cases hmerge : (t.bit (CLU_SORT_CTL (clusterOf c).toNat) CLU_SORT_CTL.MERGE_EN && S.entries.any (SortEntry.joinable c line)) = true
  · exact .inl ⟨(Bool.and_eq_true_iff.mp hmerge).2, if_pos hmerge⟩
  · exact .inr (if_neg hmerge)

theorem State.enterSorter_alters : s.Alters (s.enterSorter c line) c ({COR_UNCACHED c.toNat} ∪ {CLU_SORT_MERGED (clusterOf c).toNat})
    fun C => { C with miss := C.miss ++ [line] } := by
  obtain ⟨-, h⟩ | h := s.enterSorter_cases c line
  · rw [h]
    exact (s.missTaken_alters c line).trans (((State.setSorter_alters ..).trans (.bump ..)).mono (Set.empty_union _).subset)
  · rw [h]
    exact ((s.missTaken_alters c line).trans (State.setSorter_alters ..)).mono (by simp)

/-- The line has an entry that serves the core. -/
theorem State.exists_entry_enterSorter : ∃ e ∈ ((s.enterSorter c line).sorter (clusterOf c)).entries, e.line = line ∧ c ∈ e.cores := by
  obtain ⟨hany, h⟩ | h := s.enterSorter_cases c line
  · obtain ⟨e, he, hmem⟩ := exists_mem_modFirst (f := fun e => { e with cores := e.cores ++ [c] }) hany
    rw [h, State.sorter_bump, State.sorter_setSorter_same]
    exact ⟨_, hmem, eq_of_beq (Bool.and_eq_true_iff.mp he).1, List.mem_append_right _ List.mem_cons_self⟩
  · rw [h, State.sorter_setSorter_same]
    exact ⟨_, List.mem_append_right _ List.mem_cons_self, rfl, List.mem_cons_self⟩

theorem State.rd_sortReq_enterSorter :
    (s.enterSorter c line).rd (CLU_SORT_REQ (clusterOf c).toNat) = s.rd (CLU_SORT_REQ (clusterOf c).toNat) := by
  refine (s.enterSorter_alters c line).regs _ ?_
  simp only [Set.union_singleton, Set.mem_insert_iff, Set.mem_singleton_iff, CLU_SORT_REQ, COR_UNCACHED, CLU_SORT_MERGED]
  omega
end

/-! ### A core's next line request (R242 to R246) -/

section
variable {s : State} {c : CoreId}

/-- The bank quota of core `c`'s cluster (R243). -/
abbrev State.bankQuota (s : State) (c : CoreId) : Nat := s.fld (CLU_SORT_CTL (clusterOf c).toNat) CLU_SORT_CTL.QUOTA

theorem State.lineRequest_idle (h : (s.core c).wanted = none ∨ s.clocked c = false) : s.lineRequest c = s := by
  unfold State.lineRequest
  dsimp only
  split
  · rfl
  next hw =>
    have hclk := h.resolve_left (by rw [hw]; exact Option.some_ne_none _)
    exact if_pos (.inl (by rw [hclk]; rfl))

variable {x : Nat} (hw : (s.core c).wanted = some x)
include hw

theorem State.lineStall_iff : s.lineStall c = true ↔
    48 ≤ (s.core c).miss.length ∨ s.bankQuota c ≤ s.heldAgainst c (s.targetOf x) ∧ 32 ≤ (s.core c).park.length := by
  simp [State.lineStall, hw]

theorem State.lineRequest_stalled (h : s.lineStall c = true) : s.lineRequest c = s := by
  unfold State.lineRequest
  simp only [hw]
  exact if_pos (.inr h)

theorem State.lineRequest_missFull (h : 48 ≤ (s.core c).miss.length) : s.lineRequest c = s :=
  State.lineRequest_stalled hw ((State.lineStall_iff hw).mpr (.inl h))

theorem State.lineRequest_parkFull (hq : s.bankQuota c ≤ s.heldAgainst c (s.targetOf x)) (hp : 32 ≤ (s.core c).park.length) :
    s.lineRequest c = s :=
  State.lineRequest_stalled hw ((State.lineStall_iff hw).mpr (.inr ⟨hq, hp⟩))

variable (hclk : s.clocked c = true) (hm : (s.core c).miss.length < 48)
include hclk hm

theorem State.lineRequest_parks (hq : s.bankQuota c ≤ s.heldAgainst c (s.targetOf x)) (hp : (s.core c).park.length < 32) :
    s.lineRequest c =
      ((s.modCore c fun C => { C with park := C.park ++ [x] }).bump (COR_MISS_PARK c.toNat)).bump (CLU_SORT_REQ (clusterOf c).toNat) := by
  have hstall : ¬ s.lineStall c = true := by rw [State.lineStall_iff hw]; omega
  unfold State.lineRequest
  simp only [hw]
  exact (if_neg (by simp [hclk, hstall])).trans (if_pos hq)

theorem State.lineRequest_enters (hq : s.heldAgainst c (s.targetOf x) < s.bankQuota c) :
    s.lineRequest c = (s.enterSorter c x).bump (CLU_SORT_REQ (clusterOf c).toNat) := by
  have hstall : ¬ s.lineStall c = true := by rw [State.lineStall_iff hw]; omega
  unfold State.lineRequest
  simp only [hw]
  exact (if_neg (by simp [hclk, hstall])).trans (if_neg (Nat.not_le.mpr hq))
end

/-! ### A request whose age has run out (R248) -/

section
variable {k : ClusterId} {line : BitVec 52} {s : State}

/-- The sorter of cluster `k` with its first unsent request of `line` marked as aged. -/
def State.aged (s : State) (k : ClusterId) (line : Nat) : State :=
  s.setSorter k { s.sorter k with
    entries := modFirst (fun e => e.line == line && !e.sent) (fun e => { e with aged := true }) (s.sorter k).entries }

theorem execSorterAgeExpire_eq : execSorterAgeExpire k line s = .next ((s.aged k line.toNat).sendFree k) := rfl

theorem State.sorter_aged_of_sent {l : Nat} (h : ∀ e ∈ (s.sorter k).entries, e.line = l → e.sent = true) :
    (s.aged k l).sorter k = s.sorter k := by
  unfold State.aged
  rw [State.sorter_setSorter_same, modFirst_eq_self fun e he => ?_]
  simpa using h e he

variable {a b : List SortEntry} {e : SortEntry} {l : Nat}

theorem State.entries_aged (h : (s.sorter k).entries = a ++ e :: b) (hl : e.line = l) (hs : e.sent = false)
    (ha : ∀ x ∈ a, x.line = l → x.sent = true) : ((s.aged k l).sorter k).entries = a ++ { e with aged := true } :: b := by
  unfold State.aged
  rw [State.sorter_setSorter_same, h]
  exact modFirst_append_cons b (fun x hx => by simpa using ha x hx) (by simp [hl, hs])

/-- The first request of a queue that has aged is sent next. -/
theorem State.nextLine_of_aged (h : (s.sorter k).entries = a ++ e :: b) (hs : e.sent = false) (haged : e.aged = true)
    (ha : ∀ x ∈ a, x.target = e.target → x.sent = false → x.aged = false) : s.nextLine k e.target = some e.line := by
  have hfind : ((s.sorter k).entries.filter fun x => x.target == e.target && !x.sent).find? (·.aged) = some e := by
    rw [List.find?_filter, h]
    exact find?_append_cons b (fun x hx => by simpa using ha x hx) (by simp [hs, haged])
  unfold State.nextLine
  dsimp only
  rw [hfind]
  rfl
end

/-! ### A line's response (R241, R244, R247) -/

section
variable {k : ClusterId} {line : BitVec 52} {draws : List Draw} {s s0 : State} (h0 : (s.sendFree k).runDraws draws = s0)
include h0

theorem execLineResponse_none
    (h : ∀ e ∈ (s0.sorter k).entries, e.line = line.toNat → s0.mayRespond e (s0.lineAt line.toNat) = false) :
    execLineResponse k line draws s = .next s0 := by
  have hfind : (s0.sorter k).entries.find? (fun e => e.line == line.toNat && s0.mayRespond e (s0.lineAt line.toNat)) = none :=
    List.find?_eq_none.mpr fun e he => by simpa using h e he
  unfold execLineResponse
  simp only [h0, hfind]

theorem execLineResponse_some {a b : List SortEntry} {e : SortEntry} (h : (s0.sorter k).entries = a ++ e :: b) (hl : e.line = line.toNat)
    (he : s0.mayRespond e (s0.lineAt line.toNat) = true)
    (ha : ∀ x ∈ a, x.line = line.toNat → s0.mayRespond x (s0.lineAt line.toNat) = false) :
    execLineResponse k line draws s = .next ((e.cores.foldl (fun u d => u.eject d (.line (s0.lineAt line.toNat)))
      ((s0.setSorter k { s0.sorter k with entries := a ++ b }).respond line.toNat e.cores)).sendFree k).mapsDone := by
  have hfind : (s0.sorter k).entries.find? (fun e => e.line == line.toNat && s0.mayRespond e (s0.lineAt line.toNat)) = some e := by
    rw [h]
    exact find?_append_cons b (fun x hx => by simpa using ha x hx) (by simp [hl, he])
  have hnot : e ∉ a := fun hmem => by simp [ha e hmem hl] at he
  have herase : (s0.sorter k).entries.erase e = a ++ b := by
    rw [h, List.erase_append_right _ hnot, List.erase_cons_head]
  unfold execLineResponse
  simp only [h0, hfind, herase]
end

/-- Settles O23: the branches of a line request, what a line leaves alone as it enters its sorter, the aged request at the head of its queue,
and the entry a response serves. -/
theorem lineRequests : Obligations.LineRequests := by
  unfold Obligations.LineRequests
  intro c k line draws s C kc quota l
  have requested {t : State} (h : s.lineRequest c = t) : exec (.lineRequest c []) s = .next (t.sendFree kc) :=
    next_congr (congrArg (State.sendFree · kc) h)
  refine ⟨rfl, fun h => requested (State.lineRequest_idle h),
    fun x hw hclk => ⟨fun hq hm hp => requested (State.lineRequest_parks hw hclk hm hq hp),
      fun hq hp => requested (State.lineRequest_parkFull hw hq hp), fun hm => requested (State.lineRequest_missFull hw hm), fun hq hm => ?enters⟩,
    (s.sendFree_sameData k).mem, (s.sendFree_sameData k).core, fun h => ⟨_, execSorterAgeExpire_eq, State.sorter_aged_of_sent h, rfl⟩,
    fun a b e h hl hs ha => ?aged,
    ⟨execLineResponse_none rfl, fun a b e => execLineResponse_some rfl⟩, fun got hclk hpark hin => State.eject_awake hclk hpark hin _⟩
  case enters =>
    have entered := s.enterSorter_alters c x
    exact ⟨_, requested (State.lineRequest_enters hw hclk hm hq), entered.core, entered.cores, s.exists_entry_enterSorter c x, entered.mem,
      (State.rd_bump_same ..).trans (by rw [State.rd_sortReq_enterSorter])⟩
  case aged =>
    have hentries := State.entries_aged h hl hs ha
    exact ⟨_, execSorterAgeExpire_eq, rfl, hentries, fun hq => (State.nextLine_of_aged hentries hs rfl hq).trans (congrArg some hl)⟩

end Sys2Proof.Machine
end

section
/-!
PROOF. Writes of the arbitration registers (R258).
-/
namespace Sys2Proof.Machine

/-- Nothing is recorded while no recording runs. -/
theorem State.rplWrite_idle {s : State} (h : s.recording = false) (type : Nat) (body : List Byte) (cont : Bool) : s.rplWrite type body cont = s :=
  if_neg (Bool.eq_false_iff.mp h)

theorem State.recording_wr_other {s : State} {a : Nat} (v : Word) (h : RPL_STATUS ≠ a) : (s.wr a v).recording = s.recording := by
  unfold State.recording State.fld
  rw [State.rd_wr_other s v h]

theorem seedStore_zeroExtend (v : BitVec 32) : (seedStore v).zeroExtend 64 = if v = 0 then 1 else v.zeroExtend 64 := by
  unfold seedStore
  split <;> rfl

/-- A seed set while nothing records, of an arbiter that die `d` has. -/
theorem State.arbSeed_idle {s : State} (h : s.recording = false) (d : DieId) {i : Nat} (hi : i < 277) (v : BitVec 32) :
    s.arbSeed d i v = s.wr (ARB_SEED d.toNat i) (if v = 0 then 1 else v.zeroExtend 64) := by
  have hidle : (s.wr (ARB_SEED d.toNat i) ((seedStore v).zeroExtend 64)).recording = false :=
    (State.recording_wr_other _ (by unfold RPL_STATUS ARB_SEED; omega)).trans h
  rw [← seedStore_zeroExtend]
  exact State.rplWrite_idle hidle ..

/-- Settles O24: each write has one boundary, and a seed write its record only while a recording runs. -/
theorem arbiterWrites : Obligations.ArbiterWrites := by
  unfold Obligations.ArbiterWrites
  exact fun d tb slot i w v s => ⟨fun h => next_congr (if_pos h), fun h => next_congr (if_neg (by omega)),
    fun hi hrec => (next_congr (if_pos hi)).trans (next_congr (State.arbSeed_idle hrec d hi v)), fun h => next_congr (if_neg (by omega))⟩

end Sys2Proof.Machine
end

section
/-!
PROOF. What is under way on the mesh is taken in: reduction packets, multicast lines, the writes of pacers and reduction entries
(R271 to R283, R290).
-/
namespace Sys2Proof.Machine

/-! ### Reduction packets, entries and notices (R276 to R278) -/

section
variable {n : BitVec 16} {r : CoreId} {i : BitVec 6} {s : State}

theorem execReductionPacketArrive_none (h : s.noc.reds[n.toNat]? = none) : execReductionPacketArrive n s = .next s := by
  simp only [execReductionPacketArrive, h]

theorem execReductionPacketArrive_some {p : RedPkt} (h : s.noc.reds[n.toNat]? = some p) : execReductionPacketArrive n s =
    .next ({ s with noc := { s.noc with reds := s.noc.reds.eraseIdx n.toNat } }.redArrive p) := by
  simp only [execReductionPacketArrive, h]

theorem execCombineHoldExpire_none (h : (s.noc.comb.get (fun _ => []) r.toNat)[i.toNat]? = none) : execCombineHoldExpire r i s = .next s := by
  simp only [execCombineHoldExpire, h]

theorem execCombineHoldExpire_some {e : RedPkt} (h : (s.noc.comb.get (fun _ => []) r.toNat)[i.toNat]? = some e) :
    execCombineHoldExpire r i s = .next ({ s with noc := { s.noc with
      comb := s.noc.comb.set (fun _ => []) r.toNat ((s.noc.comb.get (fun _ => []) r.toNat).eraseIdx i.toNat) } }.redForward e) := by
  simp only [execCombineHoldExpire, h]

theorem execReductionEndpointWrite_none (h : s.noc.atEnd[n.toNat]? = none) : execReductionEndpointWrite n s = .next s := by
  simp only [execReductionEndpointWrite, h]

theorem execReductionEndpointWrite_sum {p : RedPkt} (h : s.noc.atEnd[n.toNat]? = some p) (hk : p.kind = .sum) :
    execReductionEndpointWrite n s = .next ({ s with noc := { s.noc with atEnd := s.noc.atEnd.eraseIdx n.toNat } }.redEnd p).mapsDone := by
  simp only [execReductionEndpointWrite, h]
  exact next_congr (if_neg (not_not_intro hk))

theorem execReductionEndpointWrite_other {p : RedPkt} (h : s.noc.atEnd[n.toNat]? = some p) (hk : p.kind ≠ .sum) :
    execReductionEndpointWrite n s = .next s := by
  simp only [execReductionEndpointWrite, h]
  exact next_congr (if_pos hk)

theorem execRoundDoneNotice_none (h : s.noc.done[n.toNat]? = none) : execRoundDoneNotice n s = .next s := by
  simp only [execRoundDoneNotice, h]

theorem execRoundDoneNotice_some {d : DieId} {id : Nat} (h : s.noc.done[n.toNat]? = some (d, id)) : execRoundDoneNotice n s =
    .next (State.modDie { s with noc := { s.noc with done := s.noc.done.eraseIdx n.toNat } } d fun D => { D with dmas := D.dmas.map fun m =>
      if m.ph = .settling then { m with rounds := m.rounds.erase id } else m }) := by
  simp only [execRoundDoneNotice, h]
end

/-- Settles O29: each row takes its item out, where there is one, and hands it on. -/
theorem reductionEvents : Obligations.ReductionEvents := by
  unfold Obligations.ReductionEvents
  intro n r i s es
  refine ⟨fun p => execReductionPacketArrive_some, fun e => execCombineHoldExpire_some,
    fun p h => ⟨execReductionEndpointWrite_sum h, execReductionEndpointWrite_other h⟩, fun d id h => ?notice,
    execReductionPacketArrive_none, execCombineHoldExpire_none, execReductionEndpointWrite_none, execRoundDoneNotice_none⟩
  case notice =>
    exact ⟨_, execRoundDoneNotice_some h, rfl, congrArg DieSt.dmas (State.die_modDie_same ..), rfl, fun _ => rfl⟩

/-! ### Multicast lines (R283) -/

theorem State.writeP_eq (s : State) (a : Nat) (bs : List (Byte × Bool)) :
    ∃ m, s.writeP a bs = { s.wrMem a (bs.map (·.1)) with poison := m } := by
  unfold State.writeP
  refine List.foldlRecOn (motive := fun t : State => ∃ m, t = { s.wrMem a (bs.map (·.1)) with poison := m }) _ _ ⟨_, rfl⟩ ?_
  rintro _ ⟨m, rfl⟩ ⟨⟨_, bad⟩, i⟩ _
  cases bad <;> exact ⟨_, rfl⟩

theorem State.backInv_noc (s : State) (a n : Nat) : (s.backInv a n).noc = s.noc := by
  unfold State.backInv
  split <;> rfl

theorem State.backInv_fenced (s : State) (c : CoreId) (a n : Nat) : (s.backInv a n).fenced c = s.fenced c := by
  unfold State.backInv
  split <;> rfl

theorem State.writeP_noc (s : State) (a : Nat) (bs : List (Byte × Bool)) : (s.writeP a bs).noc = s.noc := by
  obtain ⟨m, h⟩ := s.writeP_eq a bs
  rw [h]
  exact s.backInv_noc a _

theorem State.writeP_fenced (s : State) (c : CoreId) (a : Nat) (bs : List (Byte × Bool)) : (s.writeP a bs).fenced c = s.fenced c := by
  obtain ⟨m, h⟩ := s.writeP_eq a bs
  rw [h]
  exact s.backInv_fenced c a _

theorem State.writeP_mem (s : State) (a : Nat) (bs : List (Byte × Bool)) : (s.writeP a bs).mem = s.mem.setRun memZero a (bs.map (·.1)) := by
  obtain ⟨m, h⟩ := s.writeP_eq a bs
  rw [h]
  exact s.wrMem_mem a _

/-- What has been written, with its poison, is read back. -/
theorem State.rdMem_writeP (s : State) (a : Nat) (bs : List (Byte × Bool)) : (s.writeP a bs).rdMem a bs.length = bs.map (·.1) := by
  obtain ⟨m, h⟩ := s.writeP_eq a bs
  have read := s.rdMem_wrMem a (bs.map (·.1))
  rw [List.length_map] at read
  rw [h]
  exact read

/-- The lines under way once `c` has been served. -/
def NocSt.mcTaken (N : NocSt) (n : Nat) (c : CoreId) (p : McPkt) : List McPkt :=
  if (p.left.erase c).isEmpty then N.mcs.eraseIdx n else N.mcs.set n { p with left := p.left.erase c }

section
variable {n : BitVec 16} {c : CoreId} {p : McPkt} {s : State}

/-- An earlier line of the same router is still to reach the core. -/
abbrev State.mcAhead (s : State) (n : Nat) (c : CoreId) (p : McPkt) : Prop := ∃ q ∈ s.noc.mcs.take n, q.from_ = p.from_ ∧ c ∈ q.left

theorem execMulticastDeliver_none (h : s.noc.mcs[n.toNat]? = none) : execMulticastDeliver n c 0 s = .next s := by
  simp only [execMulticastDeliver, h]

theorem execMulticastDeliver_stays (h : s.noc.mcs[n.toNat]? = some p) (hstay : c ∉ p.left ∨ s.mcAhead n.toNat c p) :
    execMulticastDeliver n c 0 s = .next s := by
  simp only [execMulticastDeliver, h]
  exact next_congr (if_pos (by simpa using hstay))

/-- A line that reaches its core. -/
theorem execMulticastDeliver_reaches (h : s.noc.mcs[n.toNat]? = some p) (hc : c ∈ p.left) (hfirst : ¬ s.mcAhead n.toNat c p) :
    let nomem := !s.fenced c && decide (s.scratch c < p.off + p.data.length)
    let u := if s.fenced c || nomem then s else s.writeP (0x110000000000 + c.toNat * 2 ^ 20 + p.off) p.data
    execMulticastDeliver n c 0 s =
      .next ({ u with noc := { u.noc with mcs := s.noc.mcTaken n.toNat c p } }.mcAck c p (u.fenced c) nomem).mapsDone := by
  simp only [execMulticastDeliver, h, if_true]
  refine next_congr ((if_neg ?_).trans rfl)
  simpa [hc] using hfirst

theorem execMulticastAck_other (h : ∀ x, s.noc.atEnd[n.toNat]? = some x → x.kind = .sum) : execMulticastAck n s = .next s := by
  cases hx : s.noc.atEnd[n.toNat]? with
  | none => simp only [execMulticastAck, hx]
  | some x => simp only [execMulticastAck, hx, h x hx]

theorem execMulticastAck_ack {x : RedPkt} {die : DieId} {gen fw : Nat} {nomem : Bool} (h : s.noc.atEnd[n.toNat]? = some x)
    (hk : x.kind = .ack die gen fw nomem) : execMulticastAck n s =
      .next (State.modDie { s with noc := { s.noc with atEnd := s.noc.atEnd.eraseIdx n.toNat } } die fun D => { D with dmas := D.dmas.map fun m =>
        if m.tag = x.id ∧ m.gen = gen ∧ m.busy then { m with mcWait := m.mcWait - x.count, redErr := m.redErr || nomem } else m }) := by
  simp only [execMulticastAck, h, hk]
end

/-- Settles O30: the line that reaches its core is written, or is acknowledged without a write. -/
theorem multicastEvents : Obligations.MulticastEvents := by
  unfold Obligations.MulticastEvents
  intro n c p s a p' mcs u ahead
  refine ⟨fun h => ⟨fun hc hfirst => ?reaches, execMulticastDeliver_stays h⟩, execMulticastDeliver_none, fun f nomem => ⟨_, rfl, rfl, rfl, rfl, rfl⟩,
    fun x die gen fw nomem h hk => ⟨_, execMulticastAck_ack h hk, rfl, congrArg DieSt.dmas (State.die_modDie_same ..), rfl⟩,
    execMulticastAck_other⟩
  have reached := execMulticastDeliver_reaches h hc hfirst
  refine ⟨fun hf => ?fenced, fun hf hlong => ?nomem, fun hf hfit => ?written⟩
  case fenced =>
    simp only [hf, Bool.true_or, if_true] at reached
    exact reached
  case nomem =>
    simp only [hf, decide_eq_true hlong, Bool.not_false, Bool.and_true, Bool.or_true, if_true] at reached
    exact reached
  case written =>
    have hf' := (s.writeP_fenced c a p.data).trans hf
    simp only [hf, decide_eq_false (Nat.not_lt.mpr hfit), Bool.and_false, Bool.or_false, Bool.false_eq_true, if_false] at reached
    rw [hf'] at reached
    refine ⟨_, reached, ?_, ?_, fun x hx => ?_⟩
    · exact congrArg (fun N : NocSt => { N with mcs := mcs }) (s.writeP_noc a p.data)
    · exact s.rdMem_writeP a p.data
    · show (s.writeP a p.data).mem.get memZero x = _
      rw [s.writeP_mem]
      exact Tab.get_setRun_other memZero s.mem a x _ (by simpa using hx)

/-! ### Pacers and reduction entries (R271, R274, R290) -/

theorem execPacerRefill_done {d : DieId} {p : BitVec 10} (s : State) (h : p.toNat < 533) :
    execPacerRefill d p s = .next (s.refill d.toNat p.toNat) := next_congr (if_pos h)

theorem execPacerRefill_none {d : DieId} {p : BitVec 10} (s : State) (h : 533 ≤ p.toNat) : execPacerRefill d p s = .next s :=
  next_congr (if_neg (by omega))

/-- A bucket after its refill. -/
theorem State.tokensOf_refill (s : State) (d p : Nat) : (s.refill d p).tokensOf d p =
    min (s.tokensOf d p + s.fld (pacerReg d p) NOC_RT_PACE_L.RATE) (s.fld (pacerReg d p) NOC_RT_PACE_L.BURST) := by
  show min (Tab.get _ (Tab.set _ s.noc.tokens _ _) _) (s.fld _ _) = _
  rw [Tab.get_set_same]
  exact min_eq_left (min_le_right _ _)

/-- The check of a reduction entry changes its address register alone. -/
theorem State.redCheck_eq (s : State) (d : DieId) (n : Nat) : ∃ v, s.redCheck d n = s.wr (NOC_RED_ADDR d.toNat n) v := by
  unfold State.redCheck
  dsimp only
  split_ifs <;> exact ⟨_, rfl⟩

theorem State.round_setRound (s : State) (d : DieId) (n : Nat) (R : RedRound) : (s.setRound d n R).round d n = R := Tab.get_set_same ..

/-- A round with no contribution (R274). -/
def RedRound.discarded (R : RedRound) : RedRound := { R with count := 0, orders := [], held := [] }

section
variable {s : State} {d : DieId} {n : Nat} {v : Word}

theorem State.redWrite_cfg : s.redWrite d n true v = (s.plainWrite (NOC_RED_CFG d.toNat n) v).redCheck d n := by
  simp [State.redWrite]

theorem State.redWrite_valid (h : NOC_RED_ADDR.V.get v = 1) :
    s.redWrite d n false v = (s.plainWrite (NOC_RED_ADDR d.toNat n) v).redCheck d n := by
  simp [State.redWrite, h]

/-- With no DMA there is none to end in error. -/
theorem State.foldl_dmas_nil (hd : ∀ e, (s.die e).dmas = []) (p : DmaSt → Bool) (f : DieId → State → DmaSt → State) (l : List DieId) :
    l.foldl (fun s e => ((s.die e).dmas.filter p).foldl (f e) s) s = s := by
  induction l with
  | nil => rfl
  | cons e l ih => rw [List.foldl_cons, hd e]; exact ih

/-- A write that clears V, with no DMA in the machine. -/
theorem State.redWrite_cleared {u : State} (h : NOC_RED_ADDR.V.get v = 0) (hd : ∀ e, (s.die e).dmas = [])
    (hu : (s.plainWrite (NOC_RED_ADDR d.toNat n) v).redCheck d n = u) :
    s.redWrite d n false v = u.setRound d n (u.round d n).discarded := by
  have dies (e : DieId) : u.die e = s.die e := by
    obtain ⟨x, hx⟩ := (s.plainWrite (NOC_RED_ADDR d.toNat n) v).redCheck_eq d n
    rw [← hu, hx, State.die_wr, State.die_plainWrite]
  have dmas (e : DieId) : ((u.setRound d n (u.round d n).discarded).die e).dmas = [] := (congrArg DieSt.dmas (dies e)).trans (hd e)
  simp only [State.redWrite, Bool.false_eq_true, if_false, hu, h, Bool.not_false, and_self, if_true]
  exact State.foldl_dmas_nil dmas _ _ _
end

/-- Settles O31: the branches of a refill and of an entry's write. -/
theorem pacerAndReductionWrites : Obligations.PacerAndReductionWrites := by
  unfold Obligations.PacerAndReductionWrites
  intro d p n v s
  refine ⟨fun h => ⟨_, execPacerRefill_done s h, s.tokensOf_refill .., rfl, rfl⟩, execPacerRefill_none s,
    next_congr State.redWrite_cfg, fun h => next_congr (State.redWrite_valid h), fun h hd => ?cleared⟩
  obtain ⟨u, hu⟩ : ∃ u, (s.plainWrite (NOC_RED_ADDR d.toNat n.toNat) v).redCheck d n.toNat = u := ⟨_, rfl⟩
  have mem : u.mem = s.mem := by
    obtain ⟨x, hx⟩ := (s.plainWrite (NOC_RED_ADDR d.toNat n.toNat) v).redCheck_eq d n.toNat
    rw [← hu, hx, State.wr_mem, State.mem_plainWrite]
  refine ⟨_, next_congr (State.redWrite_cleared h hd hu), ?_, ?_, mem⟩
  · rw [State.round_setRound]; rfl
  · rw [State.round_setRound]; rfl

end Sys2Proof.Machine
end

section
/-!
PROOF. Advances of sync objects and watches (R294 to R302).
-/
namespace Sys2Proof.Machine

/-! ### What a slice does leaves alone -/

/-- A control message changes registers alone. -/
theorem State.ctrl_eq (s : State) (e e' : Ep) : ∃ r, s.ctrl e e' = { s with regs := r } := by
  have go : ∀ k (s : State) c, ∃ r, State.flits.go e'.r e'.out 1 k s c = { s with regs := r } := by
    intro k
    induction k with
    | zero => exact fun s _ => ⟨_, rfl⟩
    | succ k ih =>
      intro s c
      unfold State.flits.go
      split
      · obtain ⟨r, hr⟩ := ih (s.flitOut c _ 1) _
        exact ⟨r, hr⟩
      · exact ⟨_, rfl⟩
  unfold State.ctrl
  split
  · exact ⟨_, rfl⟩
  · exact go 64 s e.r

/-- Memory, the cores, the fuses, the power state, the host's commands and the registers outside `A` are the same in two states. -/
structure State.Slices (A : Set Nat) (s t : State) : Prop extends s.SameData t where
  regs : ∀ a, a ∉ A → t.rd a = s.rd a
  fuses : t.fuses = s.fuses
  pwr : t.pwr = s.pwr
  host : t.host = s.host

namespace State.Slices
variable {A B : Set Nat} {s t u : State}

theorem refl (A : Set Nat) (s : State) : s.Slices A s := ⟨.refl s, fun _ _ => rfl, rfl, rfl, rfl⟩

theorem trans (h : s.Slices A t) (k : t.Slices A u) : s.Slices A u :=
  ⟨h.toSameData.trans k.toSameData, fun a ha => (k.regs a ha).trans (h.regs a ha), k.fuses.trans h.fuses, k.pwr.trans h.pwr,
    k.host.trans h.host⟩

theorem mono (h : s.Slices A t) (hAB : A ⊆ B) : s.Slices B t := { h with regs := fun a ha => h.regs a fun hA => ha (hAB hA) }

theorem wr {a : Nat} (s : State) (v : Word) (h : a ∈ A) : s.Slices A (s.wr a v) :=
  ⟨⟨rfl, rfl, rfl⟩, fun _ hx => State.rd_wr_other _ _ fun e => hx (e ▸ h), rfl, rfl, rfl⟩

theorem bump {a : Nat} (s : State) (n : Nat) (h : a ∈ A) : s.Slices A (s.bump a n) := wr s _ h

theorem setFld {a : Nat} (s : State) (f : Fld) (v : Nat) (h : a ∈ A) : s.Slices A (s.setFld a f v) := wr s _ h

theorem sync (A : Set Nat) (s : State) (x : SyncSt) : s.Slices A { s with sync := x } := ⟨⟨rfl, rfl, rfl⟩, fun _ _ => rfl, rfl, rfl, rfl⟩

theorem rpl (A : Set Nat) (s : State) (x : RplSt) : s.Slices A { s with rpl := x } := ⟨⟨rfl, rfl, rfl⟩, fun _ _ => rfl, rfl, rfl, rfl⟩

theorem ite {p : Prop} [Decidable p] (h : s.Slices A t) (k : s.Slices A u) : s.Slices A (if p then t else u) := by
  split
  · exact h
  · exact k

theorem foldl {α : Type} {op : State → α → State} (step : ∀ (s : State) x, s.Slices A (op s x)) (l : List α) (s : State) :
    s.Slices A (l.foldl op s) := by
  induction l generalizing s with
  | nil => exact refl ..
  | cons x l ih => exact (step s x).trans (ih _)

theorem ctrl {e' : Ep} (s : State) (e : Ep) (h : e'.out < 6) (hA : flitCounters ⊆ A) : s.Slices A (s.ctrl e e') := by
  obtain ⟨r, hr⟩ := s.ctrl_eq e e'
  refine ⟨s.ctrl_sameData e e', fun a ha => (s.ctrl_alters 0 e h).regs a fun hf => ha (hA hf), ?_, ?_, ?_⟩ <;> rw [hr]

end State.Slices

/-! ### The operations of a slice -/

/-- A slice's status and counters, and the flit counters of what it sends. -/
def sliceRegs : Set Nat := flitCounters ∪ {a | 0x120600000000 ≤ a ∧ a < 0x120601000000 ∧ a % 0x40000 < 0x10000}

/-- The same with the values of the objects. -/
def objRegs : Set Nat := sliceRegs ∪ {a | ∃ o, a = valReg o}

theorem mem_sliceRegs {k : ClusterId} {a x : Nat} (h : a = 0x120600000000 + x + k.toNat * 0x40000) (hx : x < 0x10000) : a ∈ sliceRegs := by
  have := k.isLt
  refine .inr ⟨?_, ?_, ?_⟩ <;> omega

theorem status_mem_sliceRegs (k : ClusterId) : SYN_STATUS k.toNat ∈ sliceRegs := mem_sliceRegs (x := 8) rfl (by decide)
theorem fireCnt_mem_sliceRegs (k : ClusterId) : SYN_FIRE_CNT k.toNat ∈ sliceRegs := mem_sliceRegs (x := 0x50) rfl (by decide)
theorem advCnt_mem_sliceRegs (k : ClusterId) : SYN_ADV_CNT k.toNat ∈ sliceRegs := mem_sliceRegs (x := 0x40) rfl (by decide)

/-- The routers' registers lie below the slices'. -/
theorem lt_of_mem_flitCounters {a : Nat} (h : a ∈ flitCounters) : a < 0x120600000000 := by
  obtain ⟨r, p, hp, rfl⟩ := h
  have := r.isLt
  unfold NOC_RT_FLITS
  omega

theorem valReg_not_mem_sliceRegs (o : ObjId) : valReg o ∉ sliceRegs := by
  have := (homeOf o).2.isLt
  unfold valReg SYN_VAL
  rintro (h | ⟨-, -, h⟩)
  · exact absurd (lt_of_mem_flitCounters h) (by omega)
  · omega

theorem mcEp_out (d : DieId) (m : Nat) : (mcEp d m).out < 6 := by
  unfold mcEp
  split
  · exact show 0 < 6 by decide
  · exact show 3 < 6 by decide

theorem tierEp_out (s : State) (a : Nat) : (s.tierEp a).out < 6 := by
  unfold State.tierEp
  split
  · exact show 5 < 6 by decide
  · exact show 4 < 6 by decide
  · exact mcEp_out ..
  · exact show 0 < 6 by decide

theorem srcEp_out (s : State) (x : AdvSrc) : (s.srcEp x).out < 6 := by
  cases x with
  | red d n => exact tierEp_out ..
  | dma | ring => exact mcEp_out ..
  | core | upd => exact show 4 < 6 by decide
  | cmd | reg => exact show 0 < 6 by decide

theorem watcherEp_out (w : Watcher) : (watcherEp w).out < 6 := by
  cases w with
  | core => exact show 4 < 6 by decide
  | cc => exact show 0 < 6 by decide

theorem State.slice_setSlice (s : State) (k : ClusterId) (x : SliceSt) : (s.setSlice k x).slice k = x := Tab.get_set_same ..

section
variable (s : State)

theorem State.setSlice_slices (k : ClusterId) (x : SliceSt) : s.Slices sliceRegs (s.setSlice k x) :=
  ((State.Slices.sync _ s _).trans (.setFld _ _ _ (status_mem_sliceRegs k))).trans (.setFld _ _ _ (status_mem_sliceRegs k))

theorem State.fire_slices (k : ClusterId) (w : WatchMsg) : s.Slices sliceRegs (s.fire k w) :=
  (((State.Slices.ctrl s _ (watcherEp_out _) Set.subset_union_left).trans (.bump _ _ (fireCnt_mem_sliceRegs k))).trans (.sync _ _ _)).trans
    (.sync _ _ _)

theorem State.evalWatches_slices (o : ObjId) : s.Slices sliceRegs (s.evalWatches o) := by
  unfold State.evalWatches
  exact .ite (.refl ..) ((s.setSlice_slices ..).trans (.foldl (fun s w => s.fire_slices _ w) _ _))

theorem State.answer_slices (a : Adv) (r : AdvAns) : s.Slices sliceRegs (s.answer a r) := by
  have sent : s.Slices sliceRegs (s.ctrl (objEp a.obj) (s.srcEp a.src)).stamp :=
    (State.Slices.ctrl s _ (srcEp_out s _) Set.subset_union_left).trans (.sync _ _ _)
  unfold State.answer
  dsimp only
  split
  · exact sent.trans (.sync _ _ _)
  · exact sent
  · exact sent.trans (.sync _ _ _)

theorem State.noteAdv_slices (A : Set Nat) (a : Adv) : s.Slices A (s.noteAdv a) := .ite (.rpl _ _ _) (.refl ..)

/-- The value an advance leaves in its object (R295). -/
def State.advSum (a : Adv) : Word := BitVec.ofNat 64 (min ((s.objVal a.obj).toNat + a.amt.toNat) (2 ^ 64 - 1))

/-- The state in which an advance has been added to its object, before it is answered. -/
def State.advStored (a : Adv) : State :=
  let k := (homeOf a.obj).1.toNat
  let u := if 2 ^ 64 ≤ (s.objVal a.obj).toNat + a.amt.toNat then s.setFld (SYN_STATUS k) SYN_STATUS.OVF 1 else s
  let u := ((u.wr (valReg a.obj) (s.advSum a)).bump (SYN_ADV_CNT k)).noteAdv a
  if u.turn a.obj.toNat (srcCode a.src) = 1 then u.takeTurn a.obj.toNat else u

theorem State.applyAdv_eq (a : Adv) : s.applyAdv a = ((s.advStored a).answer a (.applied (s.advSum a))).evalWatches a.obj := rfl

theorem State.advStored_slices (a : Adv) : s.Slices objRegs (s.advStored a) := by
  have status := State.Slices.ite (p := 2 ^ 64 ≤ (s.objVal a.obj).toNat + a.amt.toNat)
    (.setFld s SYN_STATUS.OVF 1 (.inl (status_mem_sliceRegs (homeOf a.obj).1))) (.refl objRegs s)
  have noted := ((status.trans (.wr _ (s.advSum a) (.inr ⟨a.obj, rfl⟩))).trans (.bump _ 1 (.inl (advCnt_mem_sliceRegs (homeOf a.obj).1)))).trans
    (State.noteAdv_slices _ objRegs a)
  exact .ite (noted.trans (.rpl _ _ _)) noted

theorem State.applyAdv_slices (a : Adv) : s.Slices objRegs (s.applyAdv a) :=
  (s.advStored_slices a).trans (((State.answer_slices ..).trans (State.evalWatches_slices ..)).mono Set.subset_union_left)

theorem State.objVal_advStored (a : Adv) : (s.advStored a).objVal a.obj = s.advSum a := by
  have hcnt : valReg a.obj ≠ SYN_ADV_CNT (homeOf a.obj).1.toNat := fun h =>
    valReg_not_mem_sliceRegs a.obj (h ▸ advCnt_mem_sliceRegs (homeOf a.obj).1)
  have added (u : State) : ((u.wr (valReg a.obj) (s.advSum a)).bump (SYN_ADV_CNT (homeOf a.obj).1.toNat)).rd (valReg a.obj) = s.advSum a :=
    (State.rd_bump_other _ 1 hcnt).trans (State.rd_wr_same ..)
  have taken (u : State) : u.Slices ∅ (if u.turn a.obj.toNat (srcCode a.src) = 1 then u.takeTurn a.obj.toNat else u) :=
    .ite (.rpl _ _ _) (.refl ..)
  exact (((State.noteAdv_slices _ ∅ a).trans (taken _)).regs _ (Set.notMem_empty _)).trans (added _)

theorem State.objVal_applyAdv (a : Adv) : (s.applyAdv a).objVal a.obj = s.advSum a := by
  rw [State.applyAdv_eq]
  exact (((State.answer_slices ..).trans (State.evalWatches_slices ..)).regs _ (valReg_not_mem_sliceRegs _)).trans (s.objVal_advStored a)

theorem State.drainHeld_slices (k : ClusterId) (n : Nat) : s.Slices objRegs (s.drainHeld k n) := by
  induction n generalizing s with
  | zero => exact .refl ..
  | succ n ih =>
    unfold State.drainHeld
    split
    · exact .refl ..
    · exact (((s.setSlice_slices ..).mono Set.subset_union_left).trans (State.applyAdv_slices ..)).trans (ih _)
end

/-! ### Advances (R294 to R299) -/

section
variable {s : State} {n : BitVec 16} {a : Adv} {k : Nat} {r : AdvAns}

theorem execSyncAdvance_none (h : s.advReady n.toNat = none) : execSyncAdvance n s = .next s := by
  simp only [execSyncAdvance, h]

theorem execSyncAdvance_some (h : s.advReady n.toNat = some a) : execSyncAdvance n s =
    .next (State.sliceAdvance { s with sync := { s.sync with advs := s.sync.advs.eraseIdx n.toNat } } a) := by
  simp only [execSyncAdvance, h]

/-- Outside a replay no order is forced. -/
theorem State.turn_idle (h : s.replaying = false) (key src : Nat) : s.turn key src = 0 := by
  simp [State.turn, h]

theorem State.held_setSlice {k : ClusterId} (j : ClusterId) {x : SliceSt} (h : x.held = (s.slice k).held) :
    ((s.setSlice k x).slice j).held = (s.slice j).held := by
  by_cases hj : j = k
  · rw [hj, State.slice_setSlice, h]
  · exact congrArg SliceSt.held (Tab.get_set_other _ _ _ _ _ fun e => hj (BitVec.eq_of_toNat_eq e))

theorem State.slice_ctrl (s : State) (e e' : Ep) (j : ClusterId) : (s.ctrl e e').slice j = s.slice j := by
  unfold State.slice
  rw [State.ctrl_sync]

theorem State.slice_fire (s : State) (k j : ClusterId) (w : WatchMsg) : (s.fire k w).slice j = s.slice j := State.slice_ctrl ..

/-- Watches that fire leave the held advances. -/
theorem State.held_evalWatches (s : State) (o : ObjId) (j : ClusterId) : ((s.evalWatches o).slice j).held = (s.slice j).held := by
  unfold State.evalWatches
  dsimp only
  split
  · rfl
  · refine List.foldlRecOn (motive := fun t : State => (t.slice j).held = (s.slice j).held) _ _ (State.held_setSlice j rfl) fun t ht w _ => ?_
    rw [State.slice_fire, ht]

theorem State.slice_answer (s : State) (a : Adv) (r : AdvAns) (j : ClusterId) : (s.answer a r).slice j = s.slice j := by
  have sent := s.slice_ctrl (objEp a.obj) (s.srcEp a.src) j
  unfold State.answer
  dsimp only
  split <;> exact sent

theorem State.sync_noteAdv (s : State) (a : Adv) : (s.noteAdv a).sync = s.sync := by
  unfold State.noteAdv
  split <;> rfl

theorem State.slice_advStored (s : State) (a : Adv) (j : ClusterId) : (s.advStored a).slice j = s.slice j := by
  have noted (u : State) : ((if u.turn a.obj.toNat (srcCode a.src) = 1 then u.takeTurn a.obj.toNat else u)).sync = u.sync := by
    split <;> rfl
  unfold State.slice State.advStored
  rw [noted, State.sync_noteAdv, State.bump_sync, State.wr_sync]
  split <;> rfl

/-- An advance that is applied leaves the held ones. -/
theorem State.held_applyAdv (s : State) (a : Adv) (j : ClusterId) : ((s.applyAdv a).slice j).held = (s.slice j).held := by
  rw [State.applyAdv_eq, State.held_evalWatches, State.slice_answer, State.slice_advStored]

theorem State.drainHeld_nil {j : ClusterId} (h : (s.slice j).held = []) (m : Nat) : s.drainHeld j m = s := by
  cases m with
  | zero => rfl
  | succ m => simp [State.drainHeld, State.nextHeld, h]

/-- An advance to an object with no partner, of which nothing is held, is applied at once outside a replay. -/
theorem State.sliceAdvance_applied (hPV : SYN_ATTR.PV.get (s.rd (attrReg a.obj)) = 0) (hheld : (s.slice (homeOf a.obj).1).held = [])
    (hr : s.replaying = false) : s.sliceAdvance a = s.applyAdv a := by
  have drained : (s.applyAdv a).drainHeld (homeOf a.obj).1 2048 = s.applyAdv a :=
    State.drainHeld_nil ((s.held_applyAdv a _).trans hheld) _
  simp [State.sliceAdvance, State.turn_idle hr, State.fits, hPV, hheld, drained]

theorem execAdvanceAck_none (h : s.sync.acks[n.toNat]? = none) : execAdvanceAck n s = .next s := by
  simp only [execAdvanceAck, h]

/-- An answer may be taken by its source: nothing sent before it on its way is still under way (R267), and it may enter (R30). -/
abbrev State.ackGoes (s : State) (k : Nat) (a : Adv) (r : AdvAns) : Prop := s.rspBehind k a.obj (s.srcEp a.src) = false ∧ s.answerGoes a r = true

theorem execAdvanceAck_stays (h : s.sync.acks[n.toNat]? = some (k, a, r)) (hg : ¬ s.ackGoes k a r) : execAdvanceAck n s = .next s := by
  simp only [execAdvanceAck, h]
  refine next_congr (if_pos ?_)
  simpa [or_iff_not_imp_left] using hg

/-- The state in which an answer has been taken off. -/
abbrev State.acked (s : State) (n : Nat) : State := { s with sync := { s.sync with acks := s.sync.acks.eraseIdx n } }

theorem execAdvanceAck_retry (h : s.sync.acks[n.toNat]? = some (k, a, .retry)) (hg : s.ackGoes k a .retry) : execAdvanceAck n s =
    .next { s.acked n.toNat with sync := { (s.acked n.toNat).sync with retryAdv := s.sync.retryAdv ++ [a] } } := by
  simp [execAdvanceAck, h, hg.1, hg.2]

theorem execAdvanceAck_held (h : s.sync.acks[n.toNat]? = some (k, a, .held)) (hg : s.ackGoes k a .held) : execAdvanceAck n s =
    .next ((s.acked n.toNat).sendWaiting a) := by
  simp [execAdvanceAck, h, hg.1, hg.2]

theorem execAdvanceAck_core {x : Word} {c : CoreId} (h : s.sync.acks[n.toNat]? = some (k, a, .applied x)) (hg : s.ackGoes k a (.applied x))
    (hc : a.src = .core c) : execAdvanceAck n s = .next (if s.fenced c then (s.acked n.toNat).sendWaiting a else
      ((s.acked n.toNat).sendWaiting a).eject c (.ack a x)) := by
  simp only [execAdvanceAck, h, hg.1, hg.2, Bool.not_true, Bool.or_false, Bool.false_eq_true, if_false]
  simp only [hc]
  rfl

theorem execAdvanceAck_other {x : Word} (h : s.sync.acks[n.toNat]? = some (k, a, .applied x)) (hg : s.ackGoes k a (.applied x))
    (hc : ∀ c, a.src ≠ .core c) : execAdvanceAck n s = .next (((s.acked n.toNat).sendWaiting a).advApplied a x) := by
  simp only [execAdvanceAck, h, hg.1, hg.2, Bool.not_true, Bool.or_false, Bool.false_eq_true, if_false]

theorem execRetryResend_adv (h : s.sync.retryAdv[n.toNat]? = some a) :
    let u := (s.ctrl (s.srcEp a.src) (objEp a.obj)).stamp
    execRetryResend n s =
      .next { u with sync := { u.sync with retryAdv := u.sync.retryAdv.eraseIdx n.toNat, advs := (u.sync.sent, a) :: u.sync.advs } } := by
  simp only [execRetryResend, h]

theorem execRetryResend_none (h : s.sync.retryAdv[n.toNat]? = none) (h' : s.sync.retryReg[n.toNat - s.sync.retryAdv.length]? = none) :
    execRetryResend n s = .next s := by
  simp only [execRetryResend, h, h']
end

/-- Settles O33: an applied advance leaves its object's sum, which its answer and the watches do not touch; the answers' branches. -/
theorem advanceEvents : Obligations.AdvanceEvents := by
  unfold Obligations.AdvanceEvents
  intro n a o v k s
  refine ⟨execSyncAdvance_none, execSyncAdvance_some, fun h => next_congr (if_pos h), fun h hPV hheld hr => ?applied,
    fun r h => ?answered, execAdvanceAck_none, execRetryResend_adv, execRetryResend_none⟩
  case applied =>
    have sliced := s.applyAdv_slices ⟨.reg, o, v⟩
    exact ⟨_, (next_congr (if_neg (Bool.eq_false_iff.mp h))).trans (next_congr (State.sliceAdvance_applied hPV hheld hr)),
      s.objVal_applyAdv ⟨.reg, o, v⟩, sliced.mem, sliced.core⟩
  case answered =>
    refine ⟨execAdvanceAck_stays h, fun hg x hx => ?_, fun hg hr => ?_, fun hg hr => ?_⟩ <;> subst r
    · exact ⟨fun c => execAdvanceAck_core h hg, execAdvanceAck_other h hg⟩
    · exact execAdvanceAck_held h hg
    · exact execAdvanceAck_retry h hg

/-! ### Watches (R300 to R302) -/

section
variable {s : State} {n : BitVec 16} {m : Nat} {w : WatchMsg}

theorem execWatchRegistration_none (h : s.sync.regs[n.toNat]? = none) : execWatchRegistration n s = .next s := by
  simp only [execWatchRegistration, h]

theorem execWatchRegistration_behind (h : s.sync.regs[n.toNat]? = some (m, w)) (hb : s.reqBehind m (watcherEp w.who) w.obj = true) :
    execWatchRegistration n s = .next s := by
  simp only [execWatchRegistration, h]
  exact next_congr (if_pos hb)

theorem execWatchRegistration_arrives (h : s.sync.regs[n.toNat]? = some (m, w)) (hb : s.reqBehind m (watcherEp w.who) w.obj = false) :
    execWatchRegistration n s = .next (State.sliceWatch { s with sync := { s.sync with regs := s.sync.regs.eraseIdx n.toNat } } w) := by
  simp only [execWatchRegistration, h]
  exact next_congr (if_neg (Bool.eq_false_iff.mp hb))

theorem State.sliceWatch_fires (h : watchHolds w.cmp (s.objVal w.obj) w.val = true) : s.sliceWatch w = s.fire (homeOf w.obj).1 w := by
  simp only [State.sliceWatch, h, if_true]

theorem State.sliceWatch_queued (h : watchHolds w.cmp (s.objVal w.obj) w.val = false)
    (hroom : (s.slice (homeOf w.obj).1).wq.length < 1024) : s.sliceWatch w =
      s.setSlice (homeOf w.obj).1 { s.slice (homeOf w.obj).1 with wq := (s.slice (homeOf w.obj).1).wq ++ [w] } := by
  simp only [State.sliceWatch, h, Bool.false_eq_true, if_false, hroom, if_true]

/-- The state in which slice `k` has no room for a watch. -/
def State.watchesFull (s : State) (k : ClusterId) : State := (s.setFld (SYN_STATUS k.toNat) SYN_STATUS.WQ_FULL 1).bump (SYN_RETRY_CNT k.toNat)

theorem State.sliceWatch_retry (h : watchHolds w.cmp (s.objVal w.obj) w.val = false)
    (hfull : 1024 ≤ (s.slice (homeOf w.obj).1).wq.length) : s.sliceWatch w =
      { s.watchesFull (homeOf w.obj).1 with sync := { s.sync with retryReg := s.sync.retryReg ++ [w] } } := by
  simp only [State.sliceWatch, h, Bool.false_eq_true, if_false, Nat.not_lt.mpr hfull]
  rfl

theorem State.wqFull_watchesFull (s : State) (k : ClusterId) :
    SYN_STATUS.WQ_FULL.get ((s.watchesFull k).rd (SYN_STATUS k.toNat)) = 1 := by
  have hne : SYN_STATUS k.toNat ≠ SYN_RETRY_CNT k.toNat := by unfold SYN_STATUS SYN_RETRY_CNT; omega
  unfold State.watchesFull
  rw [State.rd_bump_other _ _ hne, State.rd_setFld_same, Fld.get_put _ _ _ (by decide)]
  rfl

theorem State.fires_fire (s : State) (k : ClusterId) (w : WatchMsg) :
    (s.fire k w).sync.fires = s.sync.fires ++ [(s.sync.sent + 1, w)] := by
  have sent := s.ctrl_sync (objEp w.obj) (watcherEp w.who)
  simp [State.fire, State.stamp, sent]

theorem execWatchFire_none (h : s.sync.fires[n.toNat]? = none) : execWatchFire n s = .next s := by
  simp only [execWatchFire, h]

/-- A fire message may be taken by its watcher: nothing sent before it on its way is still under way (R267), and it may enter (R30). -/
abbrev State.fireMayGo (s : State) (m : Nat) (w : WatchMsg) : Prop := s.rspBehind m w.obj (watcherEp w.who) = false ∧ s.fireGoes w = true

/-- The state in which a fire message has been taken off. -/
abbrev State.fireTaken (s : State) (n : Nat) : State := { s with sync := { s.sync with fires := s.sync.fires.eraseIdx n } }

theorem execWatchFire_stays (h : s.sync.fires[n.toNat]? = some (m, w)) (hg : ¬ s.fireMayGo m w) : execWatchFire n s = .next s := by
  simp only [execWatchFire, h]
  refine next_congr (if_pos ?_)
  simpa [or_iff_not_imp_left] using hg

section
variable (h : s.sync.fires[n.toNat]? = some (m, w)) (hg : s.fireMayGo m w)
include h hg

theorem execWatchFire_cc {d : DieId} {i : BitVec 6} (hw : w.who = .cc d i) : execWatchFire n s = .next ((s.fireTaken n.toNat).ccFire d i w) := by
  simp only [execWatchFire, h, hg.1, hg.2, Bool.not_true, Bool.or_false, Bool.false_eq_true, if_false]
  simp only [hw]

variable {c : CoreId} {i : BitVec 4} (hw : w.who = .core c i)
include hw

theorem execWatchFire_core : execWatchFire n s = .next (if s.fenced c then
    ((s.fireTaken n.toNat).countFenced c).ctrl (coreEp c) (objEp w.obj) else (s.fireTaken n.toNat).eject c (.fire w)) := by
  simp only [execWatchFire, h, hg.1, hg.2, Bool.not_true, Bool.or_false, Bool.false_eq_true, if_false]
  simp only [hw]
  rfl

theorem execWatchFire_fenced (hf : s.fenced c = true) :
    execWatchFire n s = .next (((s.fireTaken n.toNat).countFenced c).ctrl (coreEp c) (objEp w.obj)) :=
  (execWatchFire_core h hg hw).trans (next_congr (if_pos hf))

theorem execWatchFire_ejected (hf : s.fenced c = false) : execWatchFire n s = .next ((s.fireTaken n.toNat).eject c (.fire w)) :=
  (execWatchFire_core h hg hw).trans (next_congr (if_neg (Bool.eq_false_iff.mp hf)))
end

/-- A message that finds its core gated, its clock stopped or its crossing in use waits there (R30, R288). -/
theorem State.eject_waits {c : CoreId} (hrail : s.railOff (regionOf c) = false) (h : s.awake c = false ∨ (s.core c).inq ≠ []) (x : InMsg) :
    s.eject c x = s.modCore c fun C => { C with inq := C.inq ++ [x] } := by
  unfold State.eject
  rw [if_neg (Bool.eq_false_iff.mp hrail), if_neg (by rcases h with h | h <;> simp [h])]

/-- A fire message of the generation in its slot sets the slot's fired bit; a core with nothing in flight goes on as it is. -/
theorem State.coreIn_fire {c : CoreId} {i : BitVec 4} (hw : w.who = .core c i) (hlive : ((s.core c).slotAt i).live = true)
    (hgen : ((s.core c).slotAt i).gen = w.gen) (hq : s.Quiet c) (hwait : (s.core c).wait = none) :
    s.coreIn c (.fire w) = (s.modCore c fun C => C.setSlot i { C.slotAt i with fired := true }).watchPend c := by
  have hcore := State.core_modCore_same s c fun C => C.setSlot i { C.slotAt i with fired := true }
  let v := (s.modCore c fun C => C.setSlot i { C.slotAt i with fired := true }).watchPend c
  have quiet : v.Quiet c := ⟨(congrArg CoreSt.fl hcore).trans hq.flights, fun a =>
    (congrArg (fun C : CoreSt => (C.array a).seedWait) hcore).trans (hq.seeds a)⟩
  have pumped : v.pump c = v := State.pump_quiet v c quiet ((congrArg CoreSt.wait hcore).trans hwait)
  simp only [State.coreIn, hw, hlive, hgen, BEq.rfl, Bool.and_self, if_true]
  exact pumped

theorem State.ccFire_cmd {d : DieId} {i : BitVec 6} {id : Nat} {y : CcWatch} (hy : s.sync.cc.get (fun _ => {}) (d.toNat * 64 + i.toNat) = y)
    (hcmd : y.cmd = some id) (hgen : y.gen = w.gen) : s.ccFire d i w = State.finish
      { s with sync := { s.sync with cc := s.sync.cc.set (fun _ => {}) (d.toNat * 64 + i.toNat) { y with cmd := none } } } id stOk [] := by
  subst hy
  simp only [State.ccFire, hcmd, hgen, if_true]
end

/-- Settles O34: the branches of a registration, and where a fire message goes. -/
theorem watchEvents : Obligations.WatchEvents := by
  unfold Obligations.WatchEvents
  intro n w m s k x holds behind
  have compares : watchHolds w.cmp x w.val = holds := by
    unfold watchHolds holds
    generalize w.cmp.toNat = code
    match code with
    | 0 | 1 | 2 => rfl
    | code + 3 => exact decide_not.symm
  refine ⟨execWatchRegistration_none, fun h => ⟨execWatchRegistration_behind h, fun hb hh => ?fires, fun hb hh hroom => ?queued,
    fun hb hh hfull => ?retry⟩, execWatchFire_none, fun h => ?fire⟩
  case fires =>
    have arrived := (execWatchRegistration_arrives h hb).trans (next_congr (State.sliceWatch_fires (compares.trans hh)))
    exact ⟨_, arrived, State.fires_fire .., congrArg SliceSt.wq (State.slice_fire ..)⟩
  case queued =>
    have arrived := (execWatchRegistration_arrives h hb).trans (next_congr (State.sliceWatch_queued (compares.trans hh) hroom))
    exact ⟨_, arrived, rfl, congrArg SliceSt.wq (State.slice_setSlice ..)⟩
  case retry =>
    have arrived := (execWatchRegistration_arrives h hb).trans (next_congr (State.sliceWatch_retry (compares.trans hh) hfull))
    exact ⟨_, arrived, rfl, State.wqFull_watchesFull _ k⟩
  case fire =>
    intro goes u
    refine ⟨execWatchFire_stays h, fun hg c i hw => ⟨execWatchFire_fenced h hg hw, fun hf hrail hwaits => ?waits,
      fun hf hawake hin hlive hgen hq hwait => ?taken⟩, fun hg d i id hw => ?cc⟩
    case cc => exact fun hcmd hgen => (execWatchFire_cc h hg hw).trans (next_congr (State.ccFire_cmd (s := u) rfl hcmd hgen))
    case waits => exact (execWatchFire_ejected h hg hw hf).trans (next_congr (State.eject_waits (s := u) hrail hwaits _))
    case taken =>
      obtain ⟨hclk, hpark⟩ : s.clocked c = true ∧ (s.core c).parked = false := by simpa [State.awake] using hawake
      have entered : u.eject c (.fire w) = (u.modCore c fun C => C.setSlot i { C.slotAt i with fired := true }).watchPend c :=
        (State.eject_awake (s := u) hclk hpark hin _).trans (State.coreIn_fire hw hlive hgen ⟨hq.flights, hq.seeds⟩ hwait)
      exact ⟨_, (execWatchFire_ejected h hg hw hf).trans (next_congr entered), (State.core_setFld ..).trans (State.core_modCore_same ..), rfl,
        fun d hd => (State.core_setFld ..).trans (State.core_modCore_other u _ hd)⟩

end Sys2Proof.Machine
end

section
/-!
PROOF. Fencing, releasing and ungating a core (R284 to R289).
-/
namespace Sys2Proof.Machine

/-! ### Replies leave the cores, the fuses and the mesh's registers alone -/

/-- The cores, the fuses and the registers of the mesh are the same in two states. -/
structure State.Replies (s t : State) : Prop where
  cores : t.cores = s.cores
  fuses : t.fuses = s.fuses
  regs : ∀ a, 0x120500000000 ≤ a → a < 0x120600000000 → t.rd a = s.rd a

namespace State.Replies
variable {s t u : State}

theorem refl (s : State) : s.Replies s := ⟨rfl, rfl, fun _ _ _ => rfl⟩

theorem trans (h : s.Replies t) (k : t.Replies u) : s.Replies u :=
  ⟨k.cores.trans h.cores, k.fuses.trans h.fuses, fun a ha hb => (k.regs a ha hb).trans (h.regs a ha hb)⟩

theorem wr (s : State) {a : Nat} (v : Word) (h : 0x120600000000 ≤ a) : s.Replies (s.wr a v) :=
  ⟨rfl, rfl, fun _ _ hx => State.rd_wr_other _ _ (by omega)⟩

theorem ite {p : Prop} [Decidable p] (h : s.Replies t) (k : s.Replies u) : s.Replies (if p then t else u) := by
  split
  · exact h
  · exact k

theorem foldl {α : Type} {op : State → α → State} (step : ∀ (s : State) x, s.Replies (op s x)) (l : List α) (s : State) :
    s.Replies (l.foldl op s) := by
  induction l generalizing s with
  | nil => exact refl s
  | cons x l ih => exact (step s x).trans (ih _)

theorem host (s : State) (x : HostSt) : s.Replies { s with host := x } := ⟨rfl, rfl, fun _ _ _ => rfl⟩

theorem core (h : s.Replies t) (c : CoreId) : t.core c = s.core c := by
  unfold State.core
  rw [h.cores]

theorem fenced (h : s.Replies t) (c : CoreId) : t.fenced c = s.fenced c := by
  unfold State.fenced State.enabled State.bit State.fld
  have := c.isLt
  rw [h.fuses, h.regs _ (by unfold NOC_RT_CTL; omega) (by unfold NOC_RT_CTL; omega)]

end State.Replies

section
variable (s : State)

theorem State.wrMem_replies (a : Nat) (bs : List Byte) : s.Replies (s.wrMem a bs) := by
  unfold State.wrMem State.backInv
  split <;> exact ⟨rfl, rfl, fun _ _ _ => rfl⟩

theorem State.rplPut_replies (bs : List Byte) : s.Replies (s.rplPut bs) :=
  ((s.wrMem_replies _ bs).trans (.wr _ _ (by decide))).trans ⟨rfl, rfl, fun _ _ _ => rfl⟩

theorem State.setFld_rplStatus_replies (f : Fld) (v : Nat) : s.Replies (s.setFld RPL_STATUS f v) := .wr _ _ (by decide)

theorem State.rplWrite_replies (type : Nat) (body : List Byte) (cont : Bool) : s.Replies (s.rplWrite type body cont) := by
  have ended (n : Nat) : s.Replies (s.rplEnd n) := by
    have stopped := (s.rplPut_replies (s.rplBytes 0x0E (toLe 4 n ++ toLe 4 (s.fld RPL_STATUS RPL_STATUS.EPOCH)))).trans
      (State.setFld_rplStatus_replies _ RPL_STATUS.RECORD 0)
    exact .ite (stopped.trans (State.setFld_rplStatus_replies ..)) stopped
  unfold State.rplWrite
  exact .ite (.ite (ended 1) (State.rplPut_replies ..)) (.refl s)

theorem State.diverge_replies (what seq detail : Nat) : s.Replies (s.diverge what seq detail) := by
  have counted : s.Replies ((s.bump RPL_DIVERGE).setFld RPL_STATUS RPL_STATUS.DIV 1) :=
    (State.Replies.wr s _ (by decide)).trans (State.setFld_rplStatus_replies ..)
  have noted := counted.trans (State.rplWrite_replies _ 0x0C (toLe 4 what ++ toLe 4 seq ++ toLe 8 detail) false)
  exact .ite (noted.trans (State.setFld_rplStatus_replies ..)) noted

theorem State.coalesce_replies (q : Nat) (irq : Bool) : s.Replies (s.coalesce q irq) := by
  have signalled (u : State) : u.Replies (u.msix q) := .ite ⟨rfl, rfl, fun _ _ _ => rfl⟩ (.wr _ _ (by unfold msixPba; omega))
  unfold State.coalesce
  dsimp only
  exact .ite ((State.Replies.host s _).trans (signalled _)) (.host s _)

theorem State.putReply_replies (q : Nat) (x : Reply) : s.Replies (s.putReply q x) := by
  unfold State.putReply
  dsimp only
  exact (((State.Replies.ite (s.wrMem_replies ..) (.refl s)).trans (State.wrMem_replies ..)).trans
    (.wr _ _ (by unfold CMD_CQ_TAIL; omega))).trans (State.coalesce_replies ..)

theorem State.post_replies (r : RingId) (p : Packet) (status : BitVec 8) (words : List Nat) : s.Replies (s.post r p status words) :=
  (State.Replies.host s _).trans
    (.foldl (fun u x => .ite (.refl u) ((u.putReply_replies _ x).trans (.host _ _))) _ _)

theorem State.finish_replies (id : Nat) (status : BitVec 8) (words : List Nat) : s.Replies (s.finish id status words) := by
  have listed (cs : List CmdRec) : s.Replies (s.setCmds cs) := (State.Replies.host s _).trans (.wr _ _ (by decide))
  unfold State.finish
  split
  · exact .refl s
  · extract_lets off recorded
    have kept : s.Replies recorded := (listed _).trans (.ite (State.rplWrite_replies ..) (.refl _))
    exact .ite (.ite (kept.trans (State.diverge_replies ..)) kept) (.ite kept (kept.trans (State.post_replies ..)))

theorem State.mapsDone_replies : s.Replies s.mapsDone := by
  unfold State.mapsDone
  refine .foldl (fun u x => ?_) _ s
  split
  · exact .ite (State.finish_replies ..) (.refl u)
  · exact .refl u

theorem State.mapsDone_nil {s : State} (h : s.host.cmds = []) : s.mapsDone = s := by
  simp only [State.mapsDone, h, List.foldl_nil]
end

/-! ### What fencing a core discards -/

/-- A core with a watch slot cancelled (R302). -/
def CoreSt.slotCancelled (C : CoreSt) (i : BitVec 4) : CoreSt :=
  C.setSlot i { C.slotAt i with live := false, fired := false, gen := ((C.slotAt i).gen + 1) % 16 }

/-- A core with all its watch slots cancelled. -/
def CoreSt.slotsCancelled (C : CoreSt) : CoreSt := allSlots.foldl CoreSt.slotCancelled C

theorem CoreSt.slotsCancelled_eq (C : CoreSt) : ∃ W, C.slotsCancelled = { C with watch := W } :=
  List.foldlRecOn (motive := fun D => ∃ W, D = { C with watch := W }) _ _ ⟨_, rfl⟩ fun D ⟨W, hD⟩ i _ => ⟨_, by rw [hD]; rfl⟩

/-- A core as fencing leaves it (R285). -/
def CoreSt.fencedOff (C : CoreSt) : CoreSt :=
  CoreSt.slotsCancelled { C.programStopped with inq := [], fold := none, foldWait := [], miss := [], park := [] }

theorem CoreSt.fencedOff_spec (C : CoreSt) :
    C.fencedOff.fl = [] ∧ C.fencedOff.miss = [] ∧ C.fencedOff.park = [] ∧ C.fencedOff.inq = [] ∧ C.fencedOff.fold = none ∧
      C.fencedOff.parked = C.parked ∧ (C.run = .running → C.fencedOff.run = .stopped) ∧ C.fencedOff.ibuf = none := by
  obtain ⟨W, hW⟩ := CoreSt.slotsCancelled_eq { C.programStopped with inq := [], fold := none, foldWait := [], miss := [], park := [] }
  have parked : C.programStopped.parked = C.parked := by rw [CoreSt.programStopped, CoreSt.stationaryDone_eq]
  unfold CoreSt.fencedOff
  rw [hW]
  exact ⟨rfl, rfl, rfl, rfl, rfl, parked, CoreSt.run_programStopped, rfl⟩

/-- The registers other than a core's NOC_RT_CTL. -/
abbrev notCtl (c : CoreId) : Set Nat := {a | a ≠ NOC_RT_CTL (c.toNat / 256) (c.toNat % 256)}

theorem State.Slices.alters {A : Set Nat} {s t : State} (h : s.Slices A t) (c : CoreId) : s.Alters t c A id :=
  ⟨h.core c, fun d _ => h.core d, h.mem, h.regs, h.fuses, h.pwr⟩

theorem State.Alters.followed {c : CoreId} {A : Set Nat} {f g : CoreSt → CoreSt} {s t u : State} (h : s.Alters t c A f) (k : t.Alters u c A g) :
    s.Alters u c A (g ∘ f) := (h.trans k).mono (Set.union_self A).subset

theorem State.Alters.thenSame {c : CoreId} {A : Set Nat} {f : CoreSt → CoreSt} {s t u : State} (h : s.Alters t c A f) (k : t.Alters u c A id) :
    s.Alters u c A f := h.followed k

section
variable (s : State) (c : CoreId)

theorem flitCounters_subset_notCtl : flitCounters ⊆ notCtl c := fun _ ha h => not_mem_flitCounters_ctl c (h ▸ ha)

theorem objRegs_subset_notCtl : objRegs ⊆ notCtl c := by
  have := c.isLt
  rintro a ha rfl
  rcases ha with (ha | ha) | ⟨o, ha⟩
  · exact not_mem_flitCounters_ctl c ha
  · have := ha.1; unfold NOC_RT_CTL at this; omega
  · unfold NOC_RT_CTL valReg SYN_VAL at ha; omega

theorem State.cancelWatch_slices (who : Watcher) : s.Slices sliceRegs (s.cancelWatch who) :=
  (State.Slices.foldl (fun u _ => u.setSlice_slices ..) _ s).trans (.sync _ _ _)

theorem State.cancelSlot_alters (i : BitVec 4) : s.Alters (s.cancelSlot c i) c (notCtl c) (CoreSt.slotCancelled · i) := by
  have slices := (State.cancelWatch_slices (s.modCore c (CoreSt.slotCancelled · i)) (.core c i)).mono
    (Set.subset_union_left.trans (objRegs_subset_notCtl c))
  have hne : COR_IPEND c.toNat ≠ NOC_RT_CTL (c.toNat / 256) (c.toNat % 256) := by
    have := c.isLt
    unfold COR_IPEND NOC_RT_CTL
    omega
  exact (((State.Alters.modCore s c _).mono (Set.empty_subset _)).followed (slices.alters c)).followed
    ((State.Alters.setFld _ c _ _ _).mono (Set.singleton_subset_iff.mpr hne))

theorem State.cancelSlots_alters (l : List (BitVec 4)) : s.Alters (l.foldl (fun s i => s.cancelSlot c i) s) c (notCtl c)
    (l.foldl CoreSt.slotCancelled) := by
  induction l generalizing s with
  | nil => exact .refl ..
  | cons i l ih => exact (s.cancelSlot_alters c i).followed (ih _)

/-- The held advances of a core dropped, those behind them applied. -/
theorem State.dropHeld_slices (l : List Nat) : s.Slices objRegs (l.foldl (fun s j =>
    if (s.slice (BitVec.ofNat 6 j)).held.any fun a => a.src == .core c then
      (s.setSlice (BitVec.ofNat 6 j) { s.slice (BitVec.ofNat 6 j) with
        held := (s.slice (BitVec.ofNat 6 j)).held.filter fun a => a.src != .core c }).drainHeld (BitVec.ofNat 6 j) 2048
    else s) s) :=
  .foldl (fun u _ => .ite (((u.setSlice_slices ..).mono Set.subset_union_left).trans (State.drainHeld_slices ..)) (.refl _ u)) l s

theorem State.dropSync_alters : s.Alters (s.dropSync c) c (notCtl c) CoreSt.slotsCancelled := by
  unfold State.dropSync
  exact (s.cancelSlots_alters c allSlots).thenSame (((State.dropHeld_slices _ c (List.range 64)).mono (objRegs_subset_notCtl c)).alters c)

theorem State.freeMiss_alters : s.Alters (s.freeMiss c) c (notCtl c) fun C => { C with miss := [], park := [] } :=
  ((State.Alters.modCore s c _).trans (State.setSorter_alters ..)).mono (by simp)

theorem State.discardIn_alters : s.Alters (s.discardIn c) c (notCtl c) fun C => { C with inq := [] } := by
  have discard : {NOC_RT_DISCARD (c.toNat / 256) (c.toNat % 256)} ⊆ notCtl c :=
    Set.singleton_subset_iff.mpr (by show _ ≠ _; unfold NOC_RT_DISCARD NOC_RT_CTL; omega)
  have counted : {NOC_RT_FENCED (c.toNat / 256) (c.toNat % 256)} ⊆ notCtl c :=
    Set.singleton_subset_iff.mpr (by show _ ≠ _; unfold NOC_RT_FENCED NOC_RT_CTL; omega)
  have answered (u : State) : u.Alters ((u.countFenced c).ctrl (coreEp c) (ccEp 0)) c (notCtl c) id :=
    ((State.Alters.bump u c _ 1).mono counted).thenSame ((State.ctrl_fromCore_alters _ c 0).mono (flitCounters_subset_notCtl c))
  unfold State.discardIn
  dsimp only
  exact (((State.Alters.modCore s c _).mono (Set.empty_subset _)).thenSame
    (.ite (.refl ..) ((State.Alters.bump _ c _ _).mono discard))).thenSame (.foldl (fun u _ => answered u) _ _)

theorem stopRegs_subset_notCtl : stopRegs c ⊆ notCtl c := by
  have := c.isLt
  rintro a ha rfl
  simp only [stopRegs, lendRegs, Set.mem_union, Set.mem_insert_iff, Set.mem_singleton_iff, COR_INSTRET, COR_MTX_FORMSW, SYN_WAIT_STATUS,
    PWR_RGN_STATE, NOC_RT_CTL] at ha
  omega

/-- A core with FENCE set, taken out of use, before the commands that waited for its accesses are looked at again. -/
def State.fenceOff : State :=
  let s := ((s.stopProgram c).discardIn c).modCore c fun C => { C with fold := none, foldWait := [] }
  ((s.setFld (COR_HST_STATUS c.toNat) COR_HST_STATUS.FLUSH_BUSY 0).freeMiss c).dropSync c

theorem State.fence_eq {s : State} {c : CoreId} (h : s.fenced c = false) :
    s.fence c = ((s.setFld (NOC_RT_CTL (c.toNat / 256) (c.toNat % 256)) NOC_RT_CTL.FENCE 1).fenceOff c).mapsDone :=
  if_neg (Bool.eq_false_iff.mp h)

theorem State.fenceOff_alters : s.Alters (s.fenceOff c) c (notCtl c) CoreSt.fencedOff := by
  have hst : {COR_HST_STATUS c.toNat} ⊆ notCtl c :=
    Set.singleton_subset_iff.mpr (by have := c.isLt; show _ ≠ _; unfold COR_HST_STATUS NOC_RT_CTL; omega)
  have stopped := ((s.stopProgram_alters c).mono (stopRegs_subset_notCtl c)).followed (State.discardIn_alters _ c)
  have folded := stopped.followed ((State.Alters.modCore _ c fun C => { C with fold := none, foldWait := [] }).mono (Set.empty_subset _))
  have flushed := folded.thenSame ((State.Alters.setFld _ c _ COR_HST_STATUS.FLUSH_BUSY 0).mono hst)
  have freed := flushed.followed (State.freeMiss_alters _ c)
  have dropped := freed.followed (State.dropSync_alters _ c)
  unfold State.fenceOff
  dsimp only
  refine dropped.congr ?_
  simp only [Function.comp_apply]
  rfl

/-! ### The host's commands while a core is fenced -/

theorem State.cmds_finishStationary : (s.finishStationary c).host.cmds = s.host.cmds := by
  have counted (l : List Flight) : (l.foldl (fun s _ => s.bump (COR_INSTRET c.toNat)) s).host.cmds = s.host.cmds :=
    List.foldlRecOn (motive := fun t : State => t.host.cmds = s.host.cmds) _ _ rfl fun _ h _ _ => h
  unfold State.finishStationary
  dsimp only
  split <;> exact counted _

theorem State.cmds_unlend : (s.unlend c).host.cmds = s.host.cmds := by
  unfold State.unlend
  dsimp only
  split_ifs <;> rfl

theorem State.cmds_unwait : (s.unwait c).host.cmds = s.host.cmds := by
  unfold State.unwait
  split
  · exact State.cmds_unlend ..
  · rfl

theorem State.cmds_stopProgram : (s.stopProgram c).host.cmds = s.host.cmds := by
  unfold State.stopProgram
  dsimp only
  rw [State.modCore_host, State.cmds_unwait, State.cmds_finishStationary]
  split <;> rfl

theorem State.cmds_discardIn : (s.discardIn c).host.cmds = s.host.cmds := by
  have answered (u : State) : ((u.countFenced c).ctrl (coreEp c) (ccEp 0)).host = u.host :=
    (State.Slices.ctrl (u.countFenced c) (coreEp c) (show 0 < 6 by decide) Set.Subset.rfl).host
  unfold State.discardIn
  refine List.foldlRecOn (motive := fun t : State => t.host.cmds = s.host.cmds) _ _ ?_ fun u h _ _ => (congrArg HostSt.cmds (answered u)).trans h
  split <;> rfl

theorem State.cmds_dropSync : (s.dropSync c).host.cmds = s.host.cmds := by
  have cancelled (u : State) (i : BitVec 4) : (u.cancelSlot c i).host = u.host := (State.cancelWatch_slices ..).host
  let u := allSlots.foldl (fun s i => s.cancelSlot c i) s
  have hu : u.host = s.host :=
    List.foldlRecOn (motive := fun t : State => t.host = s.host) allSlots _ rfl fun u h i _ => (cancelled u i).trans h
  have dropped : (s.dropSync c).host = u.host := (u.dropHeld_slices c (List.range 64)).host
  rw [dropped, hu]

/-- Fencing changes no command in flight. -/
theorem State.cmds_fenceOff : (s.fenceOff c).host.cmds = s.host.cmds := by
  unfold State.fenceOff State.freeMiss
  dsimp only
  rw [State.cmds_dropSync, State.setSorter_host, State.modCore_host, State.setFld_host, State.modCore_host, State.cmds_discardIn,
    State.cmds_stopProgram]

end

/-! ### Fence, release, ungate -/

theorem State.fenced_of_fence {s : State} {c : CoreId} (h : s.bit (NOC_RT_CTL (c.toNat / 256) (c.toNat % 256)) NOC_RT_CTL.FENCE = true) :
    s.fenced c = true := by
  simp [State.fenced, h]

theorem State.bit_setFld (s : State) (a : Nat) (f : Fld) (v : Nat) (hf : f.lo + f.len ≤ 64) :
    (s.setFld a f v).bit a f = (v % 2 ^ f.len == 1) := by
  unfold State.bit State.fld
  rw [State.rd_setFld_same, Fld.get_put _ _ _ hf]

section
variable {s : State} {c : CoreId}

/-- A core once FENCE has been written 1. -/
structure State.Fences (s t : State) (c : CoreId) : Prop where
  fenced : t.fenced c = true
  core : t.core c = (s.core c).fencedOff
  mem : s.host.cmds = [] → t.mem = s.mem

theorem State.fence_fences (h : s.fenced c = false) : s.Fences (s.fence c) c := by
  let u := s.setFld (NOC_RT_CTL (c.toNat / 256) (c.toNat % 256)) NOC_RT_CTL.FENCE 1
  have off := u.fenceOff_alters c
  have replied := (u.fenceOff c).mapsDone_replies
  have hu : u.fenced c = true := State.fenced_of_fence ((s.bit_setFld _ _ 1 (by decide)).trans rfl)
  rw [State.fence_eq h]
  refine ⟨(replied.fenced c).trans ((off.fenced fun h => h rfl).trans hu), (replied.core c).trans off.core, fun hcmds => ?_⟩
  rw [State.mapsDone_nil ((u.cmds_fenceOff c).trans hcmds)]
  exact off.mem

/-- A core with no word in its issue buffer issues nothing. -/
theorem State.atIssue_empty (h : (s.core c).ibuf = none) (w : Word) : s.atIssue c w = false := by
  simp [State.atIssue, h]

theorem execFenceWrite_none {v : Word} (h : v.getLsbD 0 = false ∨ s.fenced c = true) : execFenceWrite c v s = .next s := by
  unfold execFenceWrite
  rcases h with h | h
  · rw [if_neg (Bool.eq_false_iff.mp h)]
  · rw [show s.fence c = s from if_pos h, ite_self]

theorem execFenceWrite_fences {v : Word} (h : v.getLsbD 0 = true) : execFenceWrite c v s = .next (s.fence c) := next_congr (if_pos h)

theorem State.release_none (h : s.enabled c = false ∨ s.fenced c = false) : s.release c = s := if_pos (by simpa using h)

theorem State.release_done (he : s.enabled c = true) (hf : s.fenced c = true) : s.release c =
    (s.setFld (NOC_RT_CTL (c.toNat / 256) (c.toNat % 256)) NOC_RT_CTL.FENCE 0).modCore c fun C =>
      { split := C.split, coreGen := C.coreGen + 1 } := if_neg (by simp [he, hf])

theorem State.fenced_release (he : s.enabled c = true) (hf : s.fenced c = true) : (s.release c).fenced c = false := by
  have cleared : (s.release c).bit (NOC_RT_CTL (c.toNat / 256) (c.toNat % 256)) NOC_RT_CTL.FENCE = false := by
    rw [State.release_done he hf]
    exact (s.bit_setFld _ _ 0 (by decide)).trans rfl
  have enabled : (s.release c).enabled c = true := by
    rw [State.release_done he hf]
    exact he
  simp [State.fenced, cleared, enabled]

/-- A parked core ungated, with what waited for it taken in. -/
def State.ungated (s : State) (c : CoreId) : State :=
  ((s.modCore c fun C => { C with parked := false }).bumpRt NOC_RT_WAKE c).drainIn c (s.core c).inq.length

theorem execNewtUngate_none (h : s.fenced c = true ∨ (s.core c).parked = false ∨ s.clocked c = false ∨ (s.core c).inq = []) :
    execNewtUngate c s = .next s := next_congr (if_pos (by simpa using h))

section
variable (hf : s.fenced c = false) (hp : (s.core c).parked = true) (hclk : s.clocked c = true) (hin : (s.core c).inq ≠ [])
include hf hp hclk hin

theorem execNewtUngate_wakes : execNewtUngate c s =
    .next (if (s.ungated c).runs c then (s.ungated c).pump c else (s.ungated c).modCore c fun C => { C with parked := true }) :=
  next_congr (if_neg (by simp [hf, hp, hclk, hin]))

theorem execNewtUngate_runs (hr : (s.ungated c).runs c = true) : execNewtUngate c s = .next ((s.ungated c).pump c) :=
  (execNewtUngate_wakes hf hp hclk hin).trans (next_congr (if_pos hr))

theorem execNewtUngate_parks (hr : (s.ungated c).runs c = false) :
    execNewtUngate c s = .next ((s.ungated c).modCore c fun C => { C with parked := true }) :=
  (execNewtUngate_wakes hf hp hclk hin).trans (next_congr (if_neg (Bool.eq_false_iff.mp hr)))
end
end

/-- Settles O32: a fenced core is what fencing leaves of it, which no reply changes; with no word to issue it runs nothing. -/
theorem fenceEvents : Obligations.FenceEvents := by
  unfold Obligations.FenceEvents
  intro c v s C
  refine ⟨execFenceWrite_none, fun hf hv => ?fenced, fun he hf => ?released, fun h => next_congr (State.release_none h), execNewtUngate_none,
    fun hf hp hclk hin => ?ungated, fun hf hv p hp w => ?idle⟩
  case fenced =>
    have fences := State.fence_fences hf
    obtain ⟨hfl, hmiss, hpark, hinq, hfold, hparked, hrun, -⟩ := C.fencedOff_spec
    refine ⟨_, execFenceWrite_fences hv, fences.fenced, ?_⟩
    rw [fences.core]
    exact ⟨hfl, hmiss, hpark, hinq, hfold, hparked, hrun, fun hcmds _ => fences.mem hcmds⟩
  case released =>
    have done := State.release_done he hf
    exact ⟨_, rfl, State.fenced_release he hf, by rw [done, State.core_modCore_same]; rfl, by rw [done]; rfl,
      fun d hd => by rw [done, State.core_modCore_other _ _ hd]; rfl⟩
  case ungated =>
    exact ⟨execNewtUngate_runs hf hp hclk hin, fun hr => ⟨_, execNewtUngate_parks hf hp hclk hin hr, State.core_modCore_same .., rfl,
      fun d hd => State.core_modCore_other _ _ hd⟩⟩
  case idle =>
    have fences := State.fence_fences hf
    obtain ⟨-, -, -, -, -, -, -, hibuf⟩ := C.fencedOff_spec
    obtain ⟨eff, hexec⟩ := coreRow_issues p hp c w
    have empty : ((s.fence c).core c).ibuf = none := (congrArg CoreSt.ibuf fences.core).trans hibuf
    exact ⟨_, execFenceWrite_fences hv, (hexec _).trans (next_congr (State.issue_not (State.atIssue_empty empty w)))⟩

end Sys2Proof.Machine
end

section
/-!
PROOF. Where launches, self-tests, SYNC_WAITs and staged images end (R286, R448, R450, R483).
-/
namespace Sys2Proof.Machine

section
variable {s : State} {n : Nat} {L : Launch}

theorem State.launchEnd_none (h : s.host.launches[n]? = none) : s.launchEnd n = s := by
  simp only [State.launchEnd, h]

theorem State.launchEnd_stays (h : s.host.launches[n]? = some L) (hover : s.launchOver L = false) : s.launchEnd n = s := by
  simp only [State.launchEnd, h, hover, Bool.and_false, Bool.false_eq_true, if_false]

theorem State.launchEnd_over (h : s.host.launches[n]? = some L) (hover : s.launchOver L = true) (hrule : L.rule0 = none) :
    s.launchEnd n = s.launchGone L := by
  simp only [State.launchEnd, h, hover, hrule, Option.isNone_none, Bool.and_self, if_true]
end

/-! ### Self-tests (R286) -/

/-- A command that tests core `c`. -/
def CmdRec.tests (c : CoreId) (x : CmdRec) : Bool := x.data.head? == some testMark && (x.data.drop 2).contains c.toNat

/-- What is left of a self-test command's data once core `c` is done, with `flag` its failure. -/
def CmdRec.testLeft (c : CoreId) (flag : CmdRec → Nat) (y : CmdRec) : CmdRec :=
  { y with data := testMark :: flag y :: (y.data.drop 2).filter (· != c.toNat) }

section
variable {s : State} {c : CoreId} {x : CmdRec}

theorem State.find_tests_eq_none (h : c.toNat ∉ s.testing) : s.host.cmds.find? (CmdRec.tests c) = none := by
  refine List.find?_eq_none.mpr fun x hx htests => h ?_
  obtain ⟨hmark, hcore⟩ : x.data.head? = some testMark ∧ c.toNat ∈ x.data.drop 2 := by simpa [CmdRec.tests] using htests
  exact List.mem_flatMap.mpr ⟨x, hx, by rwa [if_pos hmark]⟩

theorem State.selfTest_untested (h : c.toNat ∉ s.testing) (ok : Bool) : s.selfTest c ok = s := by
  have hfind := State.find_tests_eq_none h
  unfold CmdRec.tests at hfind
  simp only [State.selfTest, hfind]

variable (h : s.host.cmds.find? (CmdRec.tests c) = some x)
include h

theorem State.selfTest_failed : s.selfTest c false = (s.modCmd x.id (CmdRec.testLeft c fun _ => 1)).unfenceDone x.id := by
  unfold CmdRec.tests at h
  simp only [State.selfTest, h]
  rfl

theorem State.selfTest_passed : s.selfTest c true = ((((((s.modCmd x.id (CmdRec.testLeft c fun y => y.data.getD 1 0)).release c).modCore c fun C =>
    { C with parked := false }).regainCore c).passedTest c).unfenceDone x.id) := by
  unfold CmdRec.tests at h
  simp only [State.selfTest, h]
  rfl
end

/-! ### SYNC_WAIT (R450) -/

section
variable {s : State} {d : DieId} {i : BitVec 6} {id : Nat} {x : CmdRec}

theorem State.syncTimeout_idle (h : (s.ccSlot d i.toNat).cmd = none) : s.syncTimeout d i = s := by
  simp only [State.syncTimeout, h]

theorem State.syncTimeout_timed (h : (s.ccSlot d i.toNat).cmd = some id) (hx : s.cmd id = some x) (ht : pk x.pkt 24 4 ≠ 0) :
    s.syncTimeout d i = ((s.cancelWatch (.cc d i)).setCcSlot d i.toNat
      { s.ccSlot d i.toNat with gen := ((s.ccSlot d i.toNat).gen + 1) % 16, cmd := none }).finish id stTimeout [] := by
  simp only [State.syncTimeout, h, hx, ht, if_false]
end

/-! ### Staged images (R483) -/

/-- The state in which the staged slot's header has been written, last of its image. -/
def State.staged (s : State) : State := (s.wrFlash (fwBase s.otherSlot) s.sys.stageHead).modSys fun y => { y with stage := none, stageHead := [] }

section
variable {s : State} {id : Nat}

theorem State.stageDone_none (h : s.sys.stage = none) (readErr : Bool) : s.stageDone readErr = s := by
  simp only [State.stageDone, h]

theorem State.stageDone_readErr (h : s.sys.stage = some id) : s.stageDone true = s.staged.finish id stAuthFail [1] := by
  simp only [State.stageDone, h]
  rfl

theorem State.stageDone_bad (h : s.sys.stage = some id) (hbad : s.staged.verify s.otherSlot ≠ 0) :
    s.stageDone false = s.staged.finish id stAuthFail [s.staged.verify s.otherSlot] := by
  simp only [State.stageDone, h]
  exact if_neg hbad

theorem State.stageDone_good (h : s.sys.stage = some id) (hgood : s.staged.verify s.otherSlot = 0) : s.stageDone false =
    (s.staged.modBlk fun b => { b with staged := b.staged ||| slotBit s.otherSlot }).finish id stOk [s.staged.fwField s.otherSlot 4 4] := by
  simp only [State.stageDone, h]
  exact if_pos hgood
end

/-- Settles O49: each row is the branch of its operation, after which what waits is looked at again. -/
theorem commandEnds : Obligations.CommandEnds := by
  unfold Obligations.CommandEnds
  intro n L x c d i id s
  have settled {a b : State} (h : a = b) : Host.Outcome.next (φ := Fault) (ρ := Refusal) a.settle = .next b.settle :=
    next_congr (congrArg State.settle h)
  refine ⟨fun h => settled (State.launchEnd_none h), fun h ho => settled (State.launchEnd_stays h ho),
    fun h ho hr => settled (State.launchEnd_over h ho hr),
    fun h => ⟨settled (State.selfTest_untested h true), settled (State.selfTest_untested h false)⟩,
    fun h => ⟨settled (State.selfTest_failed h), settled (State.selfTest_passed h)⟩, fun h => settled (State.syncTimeout_idle h),
    fun h hx ht => settled (State.syncTimeout_timed h hx ht),
    fun h => ⟨settled (State.stageDone_none h true), settled (State.stageDone_none h false)⟩,
    fun h => ⟨settled (State.stageDone_readErr h), fun hb => settled (State.stageDone_bad h hb),
      fun hg => settled (State.stageDone_good h hg)⟩⟩

end Sys2Proof.Machine
end

section
/-!
PROOF. Barrier lines and lendable regions (R304 to R312).
-/
namespace Sys2Proof.Machine

/-! ### A line's completion latched for cores -/

/-- The registers that a completion latched for a core may change. -/
def latchRegs : Set Nat := {a | ∃ c : CoreId, a = COR_INSTRET c.toNat ∨ a ∈ lendRegs c}

/-- EPISODE is no register of a core, nor one that lending ends in. -/
theorem barStatus_not_mem_latchRegs (d : DieId) (n : BitVec 6) : SYN_BAR_STATUS d.toNat n.toNat ∉ latchRegs := by
  rintro ⟨c, h⟩
  have := d.isLt
  have := n.isLt
  have := c.isLt
  have := (regionOf c).isLt
  have := (dieOf c).isLt
  simp only [lendRegs, Set.mem_insert_iff, Set.mem_singleton_iff, SYN_BAR_STATUS, COR_INSTRET, SYN_WAIT_STATUS, PWR_RGN_STATE] at h
  omega

/-- Line `n`'s completion is latched for the cores of `L`, the other cores, memory, the sync state and the registers outside
`latchRegs` being the same in two states. -/
structure State.Latched (n : BitVec 6) (L : List CoreId) (s t : State) : Prop where
  arrived : ∀ c ∈ L, (t.core c).arrived.get (fun _ => true) n.toNat = true
  cores : ∀ c, c ∉ L → t.core c = s.core c
  mem : t.mem = s.mem
  sync : t.sync = s.sync
  regs : ∀ a, a ∉ latchRegs → t.rd a = s.rd a

namespace State.Latched
variable {n : BitVec 6} {c : CoreId} {L M : List CoreId} {s t u : State}

theorem refl (n : BitVec 6) (s : State) : State.Latched n [] s s :=
  ⟨fun _ h => absurd h List.not_mem_nil, fun _ _ => rfl, rfl, rfl, fun _ _ => rfl⟩

theorem trans (h : State.Latched n L s t) (k : State.Latched n M t u) : State.Latched n (L ++ M) s u where
  arrived c hc := by
    by_cases hM : c ∈ M
    · exact k.arrived c hM
    · rw [k.cores c hM]
      exact h.arrived c ((List.mem_append.mp hc).resolve_right hM)
  cores c hc := by
    obtain ⟨hL, hM⟩ := not_or.mp (mt List.mem_append.mpr hc)
    exact (k.cores c hM).trans (h.cores c hL)
  mem := k.mem.trans h.mem
  sync := k.sync.trans h.sync
  regs a ha := (k.regs a ha).trans (h.regs a ha)

/-- What follows for the same core leaves the completion latched. -/
theorem andThen {A : Set Nat} {f : CoreSt → CoreSt} (h : State.Latched n [c] s t) (k : t.Alters u c A f) (hA : A ⊆ latchRegs)
    (hf : ∀ C, (f C).arrived = C.arrived) (hsync : u.sync = t.sync) : State.Latched n [c] s u where
  arrived d hd := by
    rw [List.mem_singleton.mp hd, k.core, hf]
    exact h.arrived c (List.mem_singleton_self c)
  cores d hd := (k.cores d fun e => hd (List.mem_singleton.mpr e)).trans (h.cores d hd)
  mem := k.mem.trans h.mem
  sync := hsync.trans h.sync
  regs a ha := (k.regs a fun hx => ha (hA hx)).trans (h.regs a ha)

theorem ite {p : Prop} [Decidable p] (h : State.Latched n L s t) (k : State.Latched n L s u) :
    State.Latched n L s (if p then t else u) := by
  split
  · exact h
  · exact k

theorem count (h : State.Latched n [c] s t) : State.Latched n [c] s (t.bump (COR_INSTRET c.toNat)) :=
  h.andThen (.bump ..) (Set.singleton_subset_iff.mpr ⟨c, .inl rfl⟩) (fun _ => rfl) rfl

end State.Latched

section
variable (s : State) (c : CoreId) (n : BitVec 6)

theorem State.sync_unwait : (s.unwait c).sync = s.sync := by
  unfold State.unwait State.unlend
  dsimp only
  split
  · split
    · split <;> rfl
    · rfl
  · rfl

theorem State.barLatch_latched : State.Latched n [c] s (s.barLatch c n) := by
  unfold State.barLatch
  extract_lets C on q now old C' latched oldCounted counted
  have hlatched : State.Latched n [c] s latched :=
    { arrived := fun d hd => by rw [List.mem_singleton.mp hd, State.core_setCore_same]; exact Tab.get_set_same ..
      cores := fun d hd => by rw [State.core_setCore, if_neg fun e => hd (List.mem_singleton.mpr e)]
      mem := rfl
      sync := rfl
      regs := fun _ _ => rfl }
  have hold : State.Latched n [c] s oldCounted := .ite hlatched.count hlatched
  have hcounted : State.Latched n [c] s counted := .ite hold.count hold
  exact .ite (hcounted.andThen (State.unwait_alters ..) (fun _ h => ⟨c, .inr h⟩) (fun _ => rfl) (State.sync_unwait ..)) hcounted
end

theorem State.foldl_barLatch_latched (n : BitVec 6) (L : List CoreId) (s : State) :
    State.Latched n L s (L.foldl (fun s c => s.barLatch c n) s) := by
  induction L generalizing s with
  | nil => exact .refl ..
  | cons c L ih => exact (s.barLatch_latched c n).trans (ih _)

/-! ### A die-scope line that completes (R305) -/

section
variable (s : State) (d : DieId) (n : BitVec 6)

/-- The cores of a die that hold something. -/
def State.dieCores : List CoreId := (s.cores.map fun e => (BitVec.ofNat 10 e.1 : CoreId)).filter fun c => [d].contains (dieOf c)

/-- The completion of a die's line latched for its cores. -/
def State.latchDie : State := (s.dieCores d).foldl (fun s c => s.barLatch c n) s

/-- A die's line with its arrivals cleared, in its next episode. -/
def State.nextEpisode : State :=
  (s.setBar d n {}).setFld (SYN_BAR_STATUS d.toNat n.toNat) SYN_BAR_STATUS.EPISODE (s.barEpisode d n + 1)

variable {s d n}

theorem State.mem_dieCores {c : CoreId} (h : c ∈ s.dieCores d) : dieOf c = d :=
  List.mem_singleton.mp (List.contains_iff_mem.mp (List.mem_filter.mp h).2)

/-- A core of the die without an entry is as after reset. -/
theorem State.core_of_not_mem_dieCores {c : CoreId} (hd : dieOf c = d) (h : c ∉ s.dieCores d) : s.core c = {} := by
  by_contra hne
  refine h (List.mem_filter.mpr ⟨List.mem_map.mpr ⟨_, Tab.mem_of_get_ne hne, BitVec.ofNat_toNat ..⟩, ?_⟩)
  simp [hd]

theorem State.latchDie_latched : State.Latched n (s.dieCores d) s (s.latchDie d n) := State.foldl_barLatch_latched ..

theorem State.latchDie_arrived {c : CoreId} (hd : dieOf c = d) :
    ((s.latchDie d n).core c).arrived.get (fun _ => true) n.toNat = true := by
  by_cases h : c ∈ s.dieCores d
  · exact State.latchDie_latched.arrived c h
  · rw [State.latchDie_latched.cores c h, State.core_of_not_mem_dieCores hd h]
    rfl

theorem State.barEpisode_latchDie : (s.latchDie d n).barEpisode d n = s.barEpisode d n :=
  congrArg SYN_BAR_STATUS.EPISODE.get (State.latchDie_latched.regs _ (barStatus_not_mem_latchRegs d n))

theorem State.bar_nextEpisode : (s.nextEpisode d n).bar d n = {} := Tab.get_set_same ..

theorem State.barEpisode_nextEpisode : (s.nextEpisode d n).barEpisode d n = (s.barEpisode d n + 1) % 2 ^ 32 :=
  (congrArg SYN_BAR_STATUS.EPISODE.get (State.rd_setFld_same ..)).trans (Fld.get_put _ _ _ (by decide))

/-- With no BAR_ARRIVE to answer, a die's line that completes is latched for the cores and begins its next episode; of the system record
of die 0's line, what that episode no longer counts goes. -/
theorem State.barComplete_die (h : (s.bar d n).cmds = []) :
    ∃ x, s.barComplete [d] n = { (s.latchDie d n).nextEpisode d n with sync := { ((s.latchDie d n).nextEpisode d n).sync with sys := x } } := by
  simp only [State.barComplete, List.flatMap_cons, List.flatMap_nil, h, List.append_nil, List.foldl_nil, List.foldl_cons]
  split
  · exact ⟨_, rfl⟩
  · exact ⟨_, rfl⟩
end

section
variable {s : State} {d : DieId} {n : BitVec 6}

theorem State.barTry_die_complete (hscope : s.barScope d n = 0) (hdie : s.barDie d n = true) (hreal : s.barReal d n = true) :
    s.barTry d n = s.barComplete [d] n := by
  simp only [State.barTry, hscope, hdie, hreal, Bool.and_self, if_true]

theorem State.barTry_die_incomplete (hscope : s.barScope d n = 0) (h : s.barDie d n = false ∨ s.barReal d n = false) :
    s.barTry d n = s := by
  have hand : (s.barDie d n && s.barReal d n) = false := Bool.and_eq_false_iff.mpr h
  simp only [State.barTry, hscope, hand, Bool.false_eq_true, if_false]

/-! ### Settings (R310) -/

theorem State.barCfgWrite_group {v : Word} (h : SYN_BAR_CFG.GROUP.get v < 16 ∨ SYN_BAR_CFG.GROUP.get v = 255) :
    s.barCfgWrite d n v = (s.plainWrite (SYN_BAR_CFG d.toNat n.toNat) v).barTry d n := by
  have hgroup : ¬(16 ≤ SYN_BAR_CFG.GROUP.get v ∧ SYN_BAR_CFG.GROUP.get v < 255) := by omega
  simp only [State.barCfgWrite, if_neg hgroup]

theorem State.barCfgWrite_noGroup {v : Word} (hlo : 16 ≤ SYN_BAR_CFG.GROUP.get v) (hhi : SYN_BAR_CFG.GROUP.get v < 255) :
    s.barCfgWrite d n v = (s.plainWrite (SYN_BAR_CFG d.toNat n.toNat)
      (SYN_BAR_CFG.GROUP.put v (s.fld (SYN_BAR_CFG d.toNat n.toNat) SYN_BAR_CFG.GROUP))).barTry d n := by
  simp only [State.barCfgWrite, if_pos (And.intro hlo hhi)]

/-! ### Lateness (R308) -/

theorem State.barHeld_iff : s.barHeld d n = true ↔ (s.bar d n).arrived ≠ 0 ∨ (s.bar d n).cc = true ∨
    (d = 0 ∧ s.barScope 0 n = 2 ∧ ∃ x ∈ (s.sysBar n).got, x.2.2 = s.barEpisode 0 n) := by
  simp only [State.barHeld, Bool.or_eq_true, Bool.and_eq_true, bne_iff_ne, beq_iff_eq, List.any_eq_true, or_assoc, and_assoc]
  rfl

theorem execBarrierLate_none (h : s.barHeld d n = false) : execBarrierLate d n s = .next s := by
  simp [execBarrierLate, h]

/-- A state with a line's bit set in SYN_BAR_LATE_MAP. -/
def State.markLate (s : State) (d : DieId) (n : BitVec 6) : State :=
  s.wr (SYN_BAR_LATE_MAP d.toNat) (s.rd (SYN_BAR_LATE_MAP d.toNat) ||| (1 <<< n.toNat))

theorem State.markLate_bit : ((s.markLate d n).rd (SYN_BAR_LATE_MAP d.toNat)).getLsbD n.toNat = true := by
  have hbit : (BitVec.ofNat 64 (1 <<< n.toNat)).getLsbD n.toNat = true := by
    rw [BitVec.getLsbD_ofNat, Nat.one_shiftLeft, Nat.testBit_two_pow_self, Bool.and_true, decide_eq_true n.isLt]
  rw [State.markLate, State.rd_wr_same, BitVec.getLsbD_or, BitVec.natCast_eq_ofNat, hbit, Bool.or_true]

theorem execBarrierLate_held (h : s.barHeld d n = true) :
    ∃ x, execBarrierLate d n s = .next { s.markLate d n with out := x } := by
  simp only [execBarrierLate, h, Bool.not_true, Bool.false_eq_true, if_false]
  split
  · exact ⟨_, rfl⟩
  · exact ⟨_, rfl⟩
end

/-! ### Lending (R312) -/

section
variable {s : State} {r : RegionId}

theorem execLendableSet_stays (h : (s.regionWaiting r && s.bit (SYN_LEND_CTL (dieOfRegion r).toNat (r.toNat % 4)) SYN_LEND_CTL.EN) = false) :
    execLendableSet r s = .next s :=
  next_congr (if_neg fun hcan => Bool.eq_false_iff.mp h ((Bool.and_eq_true ..).mpr hcan))

theorem execLendableSet_sets (h : (s.regionWaiting r && s.bit (SYN_LEND_CTL (dieOfRegion r).toNat (r.toNat % 4)) SYN_LEND_CTL.EN) = true) :
    execLendableSet r s = .next (s.setFld (SYN_WAIT_STATUS (dieOfRegion r).toNat) SYN_WAIT_STATUS.LENDABLE
      (s.fld (SYN_WAIT_STATUS (dieOfRegion r).toNat) SYN_WAIT_STATUS.LENDABLE ||| 2 ^ (r.toNat % 4))) :=
  next_congr (if_pos ((Bool.and_eq_true ..).mp h))
end

/-- Settles O36: each row is a branch of its operation; the line that completes is latched core by core, then its record and EPISODE change. -/
theorem barrierEvents : Obligations.BarrierEvents := by
  unfold Obligations.BarrierEvents
  intro d n w v r s
  refine ⟨rfl, fun h => next_congr (State.barCfgWrite_group h), fun hlo hhi => next_congr (State.barCfgWrite_noGroup hlo hhi),
    fun hscope hdie hreal hcmds => ?completes, fun hscope h => next_congr (State.barTry_die_incomplete hscope h), ?_⟩
  case completes =>
    obtain ⟨x, hx⟩ := State.barComplete_die hcmds
    refine ⟨_, next_congr ((State.barTry_die_complete hscope hdie hreal).trans hx), State.bar_nextEpisode, State.latchDie_latched.mem, ?_,
      fun c hc => State.latchDie_arrived hc, fun c hc => State.latchDie_latched.cores c fun hmem => hc (State.mem_dieCores hmem)⟩
    exact State.barEpisode_nextEpisode.trans (by rw [State.barEpisode_latchDie])
  refine ⟨fun harr hcc hremote => execBarrierLate_none ?notHeld, fun h => ?late, fun k hk => ⟨fun h => ?lendable, fun h => ?notLendable⟩⟩
  case notHeld =>
    refine Bool.eq_false_iff.mpr fun hheld => ?_
    rcases State.barHeld_iff.mp hheld with h | h | h
    · exact h harr
    · exact Bool.eq_false_iff.mp hcc h
    · exact hremote h
  case late =>
    obtain ⟨x, hx⟩ := execBarrierLate_held (State.barHeld_iff.mpr h)
    exact ⟨_, hx, State.markLate_bit, rfl⟩
  case lendable =>
    subst hk
    refine ⟨_, execLendableSet_sets h, ?_, rfl⟩
    rw [State.fld, State.rd_setFld_same, Fld.get_put _ _ _ (by decide)]
    rfl
  case notLendable =>
    subst hk
    exact execLendableSet_stays h

end Sys2Proof.Machine
end

section
/-!
PROOF. What an update engine does at each event of a step, and what ends the step (R317, R321, R322, R330 to R332, R343).
-/
namespace Sys2Proof.Machine

/-! ### The status of an engine (R344) -/

section
variable (s : State) (r : RegionId) (st layer : Nat)

theorem State.rd_engState_same : (s.engState r st layer).rd (UPD_STATUS r.toNat) =
    UPD_STATUS.LAYER.put (UPD_STATUS.STATE.put (s.rd (UPD_STATUS r.toNat)) st) layer := by
  rw [State.engState, State.rd_setFld_same, State.rd_setFld_same]

theorem State.rd_engState_other {a : Nat} (h : a ≠ UPD_STATUS r.toNat) : (s.engState r st layer).rd a = s.rd a := by
  rw [State.engState, State.rd_setFld_other _ _ _ h, State.rd_setFld_other _ _ _ h]

/-- LAYER, put second, is not among STATE's bits. -/
theorem State.engState_state : UPD_STATUS.STATE.get ((s.engState r st layer).rd (UPD_STATUS r.toNat)) = st % 2 ^ UPD_STATUS.STATE.len := by
  rw [State.rd_engState_same, Fld.get_put_other _ _ _ _ (by decide) (by decide), Fld.get_put _ _ _ (by decide)]

theorem State.engState_layer : UPD_STATUS.LAYER.get ((s.engState r st layer).rd (UPD_STATUS r.toNat)) = layer % 2 ^ UPD_STATUS.LAYER.len := by
  rw [State.rd_engState_same, Fld.get_put _ _ _ (by decide)]

theorem State.engState_regs_only : s.engState r st layer = { s with regs := (s.engState r st layer).regs } := rfl
end

/-! ### Pass A (R330) -/

section
variable {s : State} {r : RegionId}

theorem State.beginA_ready {i : Nat} {l : Layer} (hnext : s.nextA r = some (i, l)) (hphase : s.phase ≠ 0) (heng : s.engNow r = 1)
    (hclk : s.rclocked r = true) (hgrad : s.gradReady i l = true) : s.beginA r = s.engState r 2 i := by
  simp only [State.beginA, hnext]
  exact if_pos ⟨hphase, heng, hclk, hgrad⟩

theorem State.beginA_idle (h : s.nextA r = none ∨ s.phase = 0 ∨ s.engNow r ≠ 1 ∨ s.rclocked r = false) : s.beginA r = s := by
  cases hnext : s.nextA r with
  | none => simp only [State.beginA, hnext]
  | some x =>
    simp only [State.beginA, hnext]
    refine if_neg fun ⟨hphase, heng, hclk, _⟩ => ?_
    rcases h with h | h | h | h
    · exact Option.some_ne_none x (hnext.symm.trans h)
    · exact hphase h
    · exact h heng
    · exact Bool.eq_false_iff.mp h hclk

theorem State.endA_unclocked (h : s.rclocked r = false) : s.endA r = s := by
  unfold State.endA
  split
  · exact if_pos (by rw [h]; rfl)
  · rfl

/-! ### Pass B and rule-0 launches (R332, R343) -/

theorem State.endB_idle (h : s.inB r = none) : s.endB r = s := by simp only [State.endB, h]

theorem State.endB_unclocked (h : s.rclocked r = false) : s.endB r = s := by
  unfold State.endB
  split
  · rfl
  · exact if_pos (.inr (by rw [h]; rfl))

theorem State.rule0Done_none (h : s.rule0Over r = none) : s.rule0Done r = s := by simp only [State.rule0Done, h]

/-! ### The end of the step (R321, R322) -/

theorem State.stepDone_commit (h : s.canCommit = true) : s.stepDone = s.commit := if_pos h

theorem State.stepDone_late (h : s.canCommit = false) (hphase : s.phase = 2) (hlate : s.upd.late = true) (hall : s.allB = true) :
    s.stepDone = s.lateEnd :=
  (if_neg (Bool.eq_false_iff.mp h)).trans (if_pos ⟨hphase, hlate, hall⟩)

theorem State.stepDone_stays (h : s.canCommit = false) (hnot : s.phase ≠ 2 ∨ s.upd.late = false) : s.stepDone = s := by
  refine (if_neg (Bool.eq_false_iff.mp h)).trans (if_neg fun ⟨hphase, hlate, _⟩ => ?_)
  rcases hnot with hnot | hnot
  · exact hnot hphase
  · exact Bool.eq_false_iff.mp hnot hlate

/-! ### The events (R330 to R332) -/

theorem execPassADone_runs (hphase : s.phase ≠ 0) (heng : s.engNow r = 2) : execPassADone r s = .next (s.endA r).settle :=
  next_congr (if_pos ⟨hphase, heng⟩)

theorem execPassADone_idle (h : s.phase = 0 ∨ s.engNow r ≠ 2) : execPassADone r s = .next s :=
  next_congr (if_neg fun ⟨hphase, heng⟩ => h.elim hphase fun hne => hne heng)

theorem execNormContribute_sends (hphase : s.phase = 2) (hall : s.allA = true) (hsent : s.upd.sent = false) :
    execNormContribute s = .next s.contributeNorm.settle :=
  next_congr (if_pos ⟨hphase, hall, by rw [hsent]; rfl⟩)

theorem execNormContribute_idle (h : s.phase ≠ 2 ∨ s.upd.sent = true) : execNormContribute s = .next s := by
  refine next_congr (if_neg fun ⟨hphase, _, hsent⟩ => ?_)
  rcases h with h | h
  · exact h hphase
  · exact absurd hsent (by rw [h]; decide)
end

/-- Settles O42: each event is its operation, whose guard either names what the event does or leaves the state alone. -/
theorem updateEvents : Obligations.UpdateEvents := by
  unfold Obligations.UpdateEvents
  intro r s
  refine ⟨fun i l hnext hphase heng hclk hgrad => ?begins, fun h => next_congr (State.beginA_idle h), execPassADone_runs, execPassADone_idle,
    execNormContribute_sends, execNormContribute_idle, fun h => ⟨State.endA_unclocked h, State.endB_unclocked h⟩, rfl, State.endB_idle,
    rfl, State.rule0Done_none, fun h => next_congr (congrArg State.settle (State.stepDone_commit h)),
    fun h hphase hlate hall => next_congr (congrArg State.settle (State.stepDone_late h hphase hlate hall)),
    fun h hnot => next_congr (congrArg State.settle (State.stepDone_stays h hnot))⟩
  case begins =>
    exact ⟨s.engState r 2 i, next_congr (State.beginA_ready hnext hphase heng hclk hgrad), State.engState_state .., State.engState_layer ..,
      fun _ => State.rd_engState_other s r 2 i, State.engState_regs_only ..⟩

end Sys2Proof.Machine
end

section
/-!
PROOF. Frames on the fabric's ports (R348, R350, R351): a port receives one, counts it foreign, or does not receive it at all; what is
received in order is taken.
-/
namespace Sys2Proof.Machine

/-! ### Receiving on a fabric port (R348, R350) -/

section
variable {s u : State} {port : Nat} {f : Frame}

theorem State.foreign_fabric (s : State) (hport : port < 24) : s.foreign port = s.bump FAB_FOREIGN := if_pos hport

theorem srcKey_fabric (f : Frame) (hport : port < 24) : srcKey port f = f.src.toNat := if_pos hport

/-- Only a twin port can be CROSSED (R376). -/
theorem State.checkCrossed_fabric (hport : port < 24) : s.checkCrossed port f = s := if_neg fun ⟨htwin, _⟩ => by omega

theorem State.receive_down (hport : port < 24) (hup : s.portUp port = false) (numbered : Bool) :
    s.receive port f numbered = (s, false) := by
  simp [State.receive, State.checkCrossed_fabric hport, hup]

theorem State.receive_foreign (hport : port < 24) (hup : s.portUp port = true) (hpeer : s.knownPeer port f = false) (numbered : Bool) :
    s.receive port f numbered = (s.bump FAB_FOREIGN, false) := by
  simp [State.receive, State.checkCrossed_fabric hport, hup, hpeer, State.foreign_fabric s hport]

/-! ### Frames that are not accepted: whatever the type, only what receiving has done -/

theorem State.rxSegment_refused (hport : port < 24) (h : s.receive port f true = (u, false)) (ty : Nat) : s.rxSegment port ty f = u := by
  simp [State.rxSegment, Nat.not_le_of_lt hport, h]

theorem State.rxCredit_refused (hport : port < 24) (h : s.receive port f true = (u, false)) : s.rxCredit port f = u := by
  simp [State.rxCredit, Nat.not_le_of_lt hport, h]

theorem State.rxAbort_refused (hport : port < 24) (h : s.receive port f true = (u, false)) : s.rxAbort port f = u := by
  simp [State.rxAbort, Nat.not_le_of_lt hport, h]

theorem State.rxBarrier_refused (h : s.receive port f true = (u, false)) : s.rxBarrier port f = u := by simp [State.rxBarrier, h]

theorem State.rxAck_refused (h : s.receive port f false = (u, false)) : s.rxAck port f = u := by simp [State.rxAck, h]

theorem State.rxNak_refused (h : s.receive port f false = (u, false)) : s.rxNak port f = u := by simp [State.rxNak, h]

theorem State.rxProbe_refused (h : s.receive port f false = (u, false)) : s.rxProbe port f = u := by simp [State.rxProbe, h]

/-! ### Frames that are accepted -/

theorem State.rxSegment_taken (hport : port < 24) (h : s.receive port f true = (u, true)) (ty : Nat) :
    s.rxSegment port ty f = ((u.takeGrant f).segment port ty f).settle := by
  simp [State.rxSegment, Nat.not_le_of_lt hport, h]

theorem State.rxCredit_taken (hport : port < 24) (h : s.receive port f true = (u, true)) : s.rxCredit port f = (u.takeGrant f).settle := by
  simp [State.rxCredit, Nat.not_le_of_lt hport, h]

theorem State.rxAbort_current (hport : port < 24) (h : s.receive port f true = (u, true)) (hcur : u.inAttempt f = true) :
    s.rxAbort port f = (u.stepAbandon stAborted).settle := by
  simp [State.rxAbort, Nat.not_le_of_lt hport, h, hcur]

theorem State.rxAbort_late (hport : port < 24) (h : s.receive port f true = (u, true)) (hcur : u.inAttempt f = false) :
    s.rxAbort port f = u.bump FAB_LATE := by
  simp [State.rxAbort, Nat.not_le_of_lt hport, h, hcur]

/-- The arrival is entered under the line the TAG names, which is below 64. -/
theorem State.rxBarrier_taken (hport : port < 24) (h : s.receive port f true = (u, true)) {n : BitVec 6} (htag : f.tag.toNat = n.toNat) :
    s.rxBarrier port f = ((u.barGot n.toNat f.group.toNat f.srank.toNat f.rsn.toNat).barTry 0 n).settle := by
  simp [State.rxBarrier, h, hport, htag, n.isLt]

theorem State.rxAck_opens (hport : port < 24) (h : s.receive port f false = (u, true))
    (hopening : (u.path port f.src.toNat).opening = true) (hpsn : f.apsn.toNat = (u.path port f.src.toNat).psn) :
    s.rxAck port f = (u.pathOpened port f.src.toNat).settle := by
  simp [State.rxAck, h, srcKey_fabric f hport, hopening, hpsn]

theorem State.rxNak_resends (hport : port < 24) (h : s.receive port f false = (u, true)) :
    s.rxNak port f = (u.retryPath port f.src.toNat f.apsn.toNat).settle := by
  simp [State.rxNak, h, srcKey_fabric f hport]

/-- A direction that was closed opens at the PROBE's PSN; this module's own direction is left alone. -/
theorem State.rxProbe_opens (hport : port < 24) (h : s.receive port f false = (u, true))
    (hclosed : (u.path port f.src.toNat).rOpen = false) :
    s.rxProbe port f = ((u.setPath { u.path port f.src.toNat with rOpen := true, expect := f.psn.toNat, naked := false, since := 0 }).portCount
      port 1).sendAck port f.src.toNat := by
  simp [State.rxProbe, h, srcKey_fabric f hport, hclosed]
end

/-- A frame that receiving does not accept leaves what receiving has left, whatever its type. -/
theorem exec_fabricFrame_refused {pt : BitVec 5} {f : Frame} {s u : State} (hport : pt.toNat < 24)
    (h : ∀ numbered, s.receive pt.toNat f numbered = (u, false)) :
    ∀ i ∈ [Instr.rs pt f, .ag pt f, .normUp pt f, .normDown pt f, .ack pt f, .nak pt f, .credit pt f, .barrier pt f, .abort pt f, .probe pt f],
      exec i s = .next u := by
  have hseg (ty : Nat) := State.rxSegment_refused hport (h true) ty
  simp only [List.forall_mem_cons, List.not_mem_nil, false_imp_iff, implies_true, and_true]
  exact ⟨next_congr (hseg 1), next_congr (hseg 2), next_congr (hseg 3), next_congr (hseg 4), next_congr (State.rxAck_refused (h false)),
    next_congr (State.rxNak_refused (h false)), next_congr (State.rxCredit_refused hport (h true)),
    next_congr (State.rxBarrier_refused (h true)), next_congr (State.rxAbort_refused hport (h true)),
    next_congr (State.rxProbe_refused (h false))⟩

/-- Settles O43: what receiving answers decides, and each type has its operation for a frame that is accepted. -/
theorem fabricFrames : Obligations.FabricFrames := by
  unfold Obligations.FabricFrames
  intro pt f s u port hport
  refine ⟨fun hup => ?down, fun hup hpeer => ?foreign, fun h => ?numbered, fun h => ?unnumbered⟩
  case down => exact exec_fabricFrame_refused hport (State.receive_down hport hup)
  case foreign => exact exec_fabricFrame_refused hport (State.receive_foreign hport hup hpeer)
  case numbered =>
    have hseg (ty : Nat) := State.rxSegment_taken hport h ty
    exact ⟨next_congr (hseg 1), next_congr (hseg 2), next_congr (hseg 3), next_congr (hseg 4), next_congr (State.rxCredit_taken hport h),
      fun hcur => next_congr (State.rxAbort_current hport h hcur), fun hcur => next_congr (State.rxAbort_late hport h hcur),
      fun _ htag => next_congr (State.rxBarrier_taken hport h htag)⟩
  case unnumbered =>
    exact ⟨fun hopening hpsn => next_congr (State.rxAck_opens hport h hopening hpsn), next_congr (State.rxNak_resends hport h),
      fun hclosed => next_congr (State.rxProbe_opens hport h hclosed)⟩

end Sys2Proof.Machine
end

section
/-!
PROOF. What the fabric does without a frame: the timers of its paths (R351 to R353), the sends and deadlines of its reductions (R362, R369),
and the links of its ports (R347, R348, R350).
-/
namespace Sys2Proof.Machine

section
variable {s : State} {p : PathSt} {c port : Nat}

/-! ### Timers (R351 to R353) -/

theorem State.ackTimer_idle (h : p.since = 0 ∨ s.portUp p.port = false) : s.ackTimer p = s :=
  if_pos (h.imp_right fun hup => by rw [hup]; rfl)

theorem State.ackTimer_sends (hsince : p.since ≠ 0) (hup : s.portUp p.port = true) : s.ackTimer p = s.sendAck p.port p.mac := by
  simp [State.ackTimer, hsince, hup]

theorem State.rtoExpire_down (h : p.down = true) : s.rtoExpire p = s := if_pos h

theorem State.rtoExpire_resends (hdown : p.down = false) (hopening : p.opening = false) {x : TxFrame} {rest : List TxFrame}
    (hun : p.unacked = x :: rest) : s.rtoExpire p = s.retryPath p.port p.mac x.f.psn.toNat := by
  simp [State.rtoExpire, hdown, hopening, hun]

theorem State.probeTimer_probes (hdown : p.down = true) (hup : s.portUp p.port = true) : s.probeTimer p = s.sendProbe p := if_pos ⟨hdown, hup⟩

theorem State.probeTimer_idle (h : p.down = false) : s.probeTimer p = s := by simp [State.probeTimer, h]

/-! ### Reductions (R362, R369, R370) -/

theorem State.rsStart_noChan (h : s.chan c = none) : s.rsStart c = s := by simp only [State.rsStart, h]

theorem State.rsStart_begins {C : ChanSt} {G : GroupSt} {R : Red} (hchan : s.chan c = some C) (hgroup : s.group C.group = some G)
    (hready : s.rsReady G C.reds = some R) : s.rsStart c = (s.modRed c R.rsn fun R => { R with begun := true }).settle := by
  simp only [State.rsStart, hchan, hgroup, hready]

theorem State.softExpire_noChan (h : s.chan c = none) : s.softExpire c = s := by simp only [State.softExpire, h]

theorem State.softExpire_first {C : ChanSt} {R : Red} {rest : List Red} (hchan : s.chan c = some C) (hreds : C.reds = R :: rest)
    (hsoft : R.soft = false) : s.softExpire c = ((s.modRed c R.rsn fun R => { R with soft := true }).softCheck c R.rsn).settle := by
  simp [State.softExpire, hchan, hreds, hsoft]

theorem State.hardExpire_noChan (h : s.chan c = none) : s.hardExpire c = s := by simp only [State.hardExpire, h]

theorem State.hardExpire_abandons {C : ChanSt} {R : Red} {rest : List Red} (hchan : s.chan c = some C) (hreds : C.reds = R :: rest)
    (hkind : R.kind ≠ 0) : s.hardExpire c = (((s.bump FAB_TIMEOUT).sendAborts c).stepAbandon stTimeout).settle := by
  simp [State.hardExpire, hchan, hreds, hkind]

/-- The norm that follows a failed reduce-scatter carries its failure, as a timeout. -/
def State.timedOut (s : State) : State := { s with fab := { s.fab with failed := true, timedOut := true } }

theorem State.hardExpire_drops {C : ChanSt} {R : Red} {rest : List Red} (hchan : s.chan c = some C) (hreds : C.reds = R :: rest)
    (hkind : R.kind = 0) : s.hardExpire c = ((s.bump FAB_TIMEOUT).dropRed c R).timedOut.settle := by
  simp [State.hardExpire, State.timedOut, hchan, hreds, hkind]

/-! ### Links (R347, R348, R350) -/

theorem State.trainEnd_trains (hport : port < 28) (hlink : s.portLink port = 1) (ok : Bool) :
    s.trainEnd port ok = (s.portTrained port ok).settle := if_pos ⟨hport, hlink⟩

theorem State.trainEnd_idle (hlink : s.portLink port ≠ 1) (ok : Bool) : s.trainEnd port ok = s := if_neg fun h => hlink h.2

/-- No fabric port is a twin path, so losing one neither uncrosses a port nor loses the partner. -/
theorem State.linkLost_fabric (hport : port < 24) (hlink : s.portLink port = 2) :
    s.linkLost port = ((s.setFld (FAB_PORT_STATUS (port / 6) (port % 6)) FAB_PORT_STATUS.LINK 0).unpause port).settle := by
  have hlow : ¬ 28 ≤ port := by omega
  simp [State.linkLost, State.setLink, portStatus, hport, hlink, hlow, Nat.not_le_of_lt hport]

theorem State.linkLost_idle (hlink : s.portLink port ≠ 2) : s.linkLost port = s := if_pos (.inr hlink)

theorem State.portCount_badFcs (s : State) (hport : port < 24) : s.portCount port 3 = s.bump (FAB_FCSERR (port / 6) (port % 6)) := if_pos hport

theorem State.rxPfc_idle (hlink : s.portLink port ≠ 2) (pcp : Nat) (pause : Bool) : s.rxPfc port pcp pause = s := if_pos (.inr (.inl hlink))

/-- The port added, once, to those a pause holds. -/
def State.hold (s : State) (port : Nat) : State :=
  { s with fab := { s.fab with paused := s.fab.paused.filter (· != port) ++ [port] } }

theorem State.mem_paused_hold (s : State) (port : Nat) : port ∈ (s.hold port).fab.paused := List.mem_append_right _ (List.mem_singleton_self port)

theorem State.rxPfc_pauses {pcp : Nat} (hport : port < 24) (hlink : s.portLink port = 2)
    (hpfc : FAB_PORT_CFG.PFC.get (s.fab.portCfg.get (fun _ => 0) port) = 1)
    (hpcp : FAB_PORT_CFG.PCP.get (s.fab.portCfg.get (fun _ => 0) port) = pcp) : s.rxPfc port pcp true = s.hold port := by
  refine (if_neg ?_).trans rfl
  rintro (htwin | hdown | hoff | hother)
  · omega
  · exact hdown hlink
  · exact absurd (hpfc.symm.trans hoff) (by decide)
  · exact hother hpcp
end

section
variable {pt : BitVec 5} {s : State}

theorem execForeignFrame_counts (hport : pt.toNat < 24) (hlink : s.portLink pt.toNat = 2) :
    execForeignFrame pt s = .next (s.bump FAB_FOREIGN) :=
  next_congr ((if_pos ⟨by omega, hlink⟩).trans (State.foreign_fabric s hport))

theorem execForeignFrame_idle (hlink : s.portLink pt.toNat ≠ 2) : execForeignFrame pt s = .next s := next_congr (if_neg fun h => hlink h.2)

theorem execBadFcsFrame_counts (hport : pt.toNat < 24) (hlink : s.portLink pt.toNat = 2) :
    execBadFcsFrame pt s = .next (s.bump (FAB_FCSERR (pt.toNat / 6) (pt.toNat % 6))) :=
  next_congr ((if_pos ⟨by omega, hlink⟩).trans (State.portCount_badFcs s hport))

theorem execBadFcsFrame_idle (hlink : s.portLink pt.toNat ≠ 2) : execBadFcsFrame pt s = .next s := next_congr (if_neg fun h => hlink h.2)
end

/-- Settles O45: each event is its operation, whose guard either names what the event does or leaves the state alone. -/
theorem fabricTimers : Obligations.FabricTimers := by
  unfold Obligations.FabricTimers
  intro pt mac c pcp ok s port p
  refine ⟨fun h => next_congr (State.ackTimer_idle h), fun hsince hup => next_congr (State.ackTimer_sends hsince hup),
    fun h => next_congr (congrArg State.settle (State.rtoExpire_down h)),
    fun hdown hopening _ _ hun => next_congr (congrArg State.settle (State.rtoExpire_resends hdown hopening hun)),
    fun hdown hup => next_congr (State.probeTimer_probes hdown hup), fun h => next_congr (State.probeTimer_idle h),
    fun _ _ _ hchan hgroup hready => next_congr (State.rsStart_begins hchan hgroup hready), fun h => ?noChannel,
    fun C R rest hchan hreds => ⟨fun hsoft => next_congr (State.softExpire_first hchan hreds hsoft),
      fun hkind => next_congr (State.hardExpire_abandons hchan hreds hkind),
      fun hkind => ⟨_, next_congr (State.hardExpire_drops hchan hreds hkind), rfl, rfl⟩⟩,
    fun hport hlink => next_congr (State.trainEnd_trains hport hlink ok), fun hlink => next_congr (State.trainEnd_idle hlink ok),
    fun hport hlink => ⟨next_congr (State.linkLost_fabric hport hlink), execForeignFrame_counts hport hlink,
      execBadFcsFrame_counts hport hlink⟩,
    fun _ hlink => ?linkDown,
    fun hport hlink hpfc hpcp => ⟨s.hold port, next_congr (State.rxPfc_pauses hport hlink hpfc hpcp), s.mem_paused_hold port, rfl, rfl⟩⟩
  case noChannel =>
    simp only [List.forall_mem_cons, List.not_mem_nil, false_imp_iff, implies_true, and_true]
    exact ⟨next_congr (State.rsStart_noChan h), next_congr (State.softExpire_noChan h), next_congr (State.hardExpire_noChan h)⟩
  case linkDown =>
    simp only [List.forall_mem_cons, List.not_mem_nil, false_imp_iff, implies_true, and_true]
    exact ⟨next_congr (State.linkLost_idle hlink), execForeignFrame_idle hlink, execBadFcsFrame_idle hlink,
      next_congr (State.rxPfc_idle hlink pcp.toNat true)⟩

end Sys2Proof.Machine
end

section
/-!
PROOF. How a start ends at step 12 while the host link is down (R472, R477).
-/
namespace Sys2Proof.Machine

/-- R472's Device Readiness Status message goes to the host over the link; without one there is none. -/
theorem State.ready_out (s : State) : s.ready.out = if s.host.linkUp then s.out ++ [.host 5 []] else s.out :=
  apply_ite State.out _ _ _

theorem State.stepPass_out_linkDown {s : State} (twin : Bool) (m : BitVec 256) (hstart : s.starting = true) (hstep : s.sys.step = 12)
    (hpass : s.mayPass = true) (hlink : s.host.linkUp = false) : (s.stepPass twin m).out = s.out := by
  simp only [State.stepPass, hstart, hpass, hstep, Bool.not_true, Bool.or_self, Bool.false_eq_true, if_false]
  exact (State.ready_out _).trans (if_neg (ne_true_of_eq_false hlink))

/-- A start in step 12 with no bond to make, whose step 10 gave up on the link and left it to be retried (R477). -/
def linkDownStart : State := { State.reset with sys := { rails := true, step := 12, linkRetry := true, noBond := true } }

/-- Refutes O53: step 12 may pass with the host link down, which step 10's policy allows, and then nothing is put out: the Device
Readiness Status message needs the link, and the statement's clause on step 12 does not ask for it. -/
theorem not_startupSteps : ¬ Obligations.StartupSteps := by
  unfold Obligations.StartupSteps
  intro h
  obtain ⟨-, -, -, -, -, -, hready, -⟩ := h false 0 0 0 linkDownStart
  obtain ⟨t, hexec, -, -, -, -, hout⟩ := hready rfl rfl rfl
  have ht : linkDownStart.stepPass false 0 = t := Host.Outcome.next.inj hexec
  rw [← ht, State.stepPass_out_linkDown false 0 rfl rfl rfl rfl] at hout
  exact absurd hout (by decide)

end Sys2Proof.Machine
end

section
/-!
PROOF. Every command answers a next state and keeps the queue, the fuses, the outputs and the canonical form; so does a step (the scope's
first paragraph); and what a step and the state after reset are.
-/
namespace Sys2Proof.Machine

/-! ### Every command answers -/

theorem execInterruptAccept_answers (c : CoreId) (s : State) : ∃ t, execInterruptAccept c s = .next t := by
  unfold execInterruptAccept
  dsimp only
  split <;> exact ⟨_, rfl⟩

theorem execFetchResponse_answers (c : CoreId) (s : State) : ∃ t, execFetchResponse c s = .next t := by
  unfold execFetchResponse
  dsimp only
  split <;> exact ⟨_, rfl⟩

/-- A CSR access of COR_VFLAGS is a CSRR or a CSRW; another is none of this row's. -/
theorem execVflagsAccess_answers (c : CoreId) (w : Word) (s : State) : ∃ t, execVflagsAccess c w s = .next t := by
  unfold execVflagsAccess
  split_ifs <;> exact ⟨_, rfl⟩

/-- The arms of the other commands are next states as they stand. -/
theorem exec_answers (i : Instr) (s : State) : ∃ t, exec i s = .next t := by
  cases i with
  | interruptAccept c => exact execInterruptAccept_answers c s
  | fetchResponse c => exact execFetchResponse_answers c s
  | vflagsAccess c w => exact execVflagsAccess_answers c w s
  | _ => exact ⟨_, rfl⟩

/-! ### Every command and every step keeps -/

theorem exec_keeps (i : Instr) (s : State) : KeepsX s (exec i s) :=
  match i with
  | .add c w => execAdd_keeps c w s
  | .sub c w => execSub_keeps c w s
  | .and c w => execAnd_keeps c w s
  | .or c w => execOr_keeps c w s
  | .xor c w => execXor_keeps c w s
  | .sll c w => execSll_keeps c w s
  | .srl c w => execSrl_keeps c w s
  | .sra c w => execSra_keeps c w s
  | .slt c w => execSlt_keeps c w s
  | .sltu c w => execSltu_keeps c w s
  | .min c w => execMin_keeps c w s
  | .max c w => execMax_keeps c w s
  | .minu c w => execMinu_keeps c w s
  | .maxu c w => execMaxu_keeps c w s
  | .mul c w => execMul_keeps c w s
  | .mulhu c w => execMulhu_keeps c w s
  | .divu c w => execDivu_keeps c w s
  | .remu c w => execRemu_keeps c w s
  | .movhi c w => execMovhi_keeps c w s
  | .beq c w => execBeq_keeps c w s
  | .bne c w => execBne_keeps c w s
  | .blt c w => execBlt_keeps c w s
  | .bge c w => execBge_keeps c w s
  | .bltu c w => execBltu_keeps c w s
  | .bgeu c w => execBgeu_keeps c w s
  | .jal c w => execJal_keeps c w s
  | .jalr c w => execJalr_keeps c w s
  | .ld8u c w => execLd8u_keeps c w s
  | .ld16u c w => execLd16u_keeps c w s
  | .ld32u c w => execLd32u_keeps c w s
  | .ld64 c w => execLd64_keeps c w s
  | .ld8s c w => execLd8s_keeps c w s
  | .ld16s c w => execLd16s_keeps c w s
  | .ld32s c w => execLd32s_keeps c w s
  | .st8 c w => execSt8_keeps c w s
  | .st16 c w => execSt16_keeps c w s
  | .st32 c w => execSt32_keeps c w s
  | .st64 c w => execSt64_keeps c w s
  | .tld c w => execTld_keeps c w s
  | .tldt c w => execTldt_keeps c w s
  | .tst c w => execTst_keeps c w s
  | .mmul c w => execMmul_keeps c w s
  | .mmac c w => execMmac_keeps c w s
  | .sload c w => execSload_keeps c w s
  | .swap c w => execSwap_keeps c w s
  | .form c w => execForm_keeps c w s
  | .mtxWritePhase c a => execMtxWritePhase_keeps c a s
  | .shadowLoadDone c a => execShadowLoadDone_keeps c a s
  | .swapTakesEffect c a => execSwapTakesEffect_keeps c a s
  | .formSwitchDone c a => execFormSwitchDone_keeps c a s
  | .tileLoadComplete c t => execTileLoadComplete_keeps c t s
  | .tileStoreComplete c t => execTileStoreComplete_keeps c t s
  | .vecAdd c w => execVecAdd_keeps c w s
  | .vecSub c w => execVecSub_keeps c w s
  | .vecMul c w => execVecMul_keeps c w s
  | .fma c w => execFma_keeps c w s
  | .fms c w => execFms_keeps c w s
  | .fnma c w => execFnma_keeps c w s
  | .vecMin c w => execVecMin_keeps c w s
  | .vecMax c w => execVecMax_keeps c w s
  | .cmp c w => execCmp_keeps c w s
  | .sel c w => execSel_keeps c w s
  | .mov c w => execMov_keeps c w s
  | .abs c w => execAbs_keeps c w s
  | .neg c w => execNeg_keeps c w s
  | .rcp c w => execRcp_keeps c w s
  | .rsq c w => execRsq_keeps c w s
  | .sqrt c w => execSqrt_keeps c w s
  | .exp2 c w => execExp2_keeps c w s
  | .log2 c w => execLog2_keeps c w s
  | .redr c w => execRedr_keeps c w s
  | .redc c w => execRedc_keeps c w s
  | .reda c w => execReda_keeps c w s
  | .mand c w => execMand_keeps c w s
  | .mor c w => execMor_keeps c w s
  | .mxor c w => execMxor_keeps c w s
  | .mandn c w => execMandn_keeps c w s
  | .mnot c w => execMnot_keeps c w s
  | .mset c w => execMset_keeps c w s
  | .mpop c w => execMpop_keeps c w s
  | .mfirst c w => execMfirst_keeps c w s
  | .cvt c w => execCvt_keeps c w s
  | .cvtmx c w => execCvtmx_keeps c w s
  | .scld c w => execScld_keeps c w s
  | .scst c w => execScst_keeps c w s
  | .scset c w => execScset_keeps c w s
  | .vecInsnComplete c => execVecInsnComplete_keeps c s
  | .dmaq c w => execDmaq_keeps c w s
  | .dmast c w => execDmast_keeps c w s
  | .sadv c w => execSadv_keeps c w s
  | .sread c w => execSread_keeps c w s
  | .swatch c w => execSwatch_keeps c w s
  | .scancel c w => execScancel_keeps c w s
  | .swait c w => execSwait_keeps c w s
  | .sfired c w => execSfired_keeps c w s
  | .barr c w => execBarr_keeps c w s
  | .bpoll c w => execBpoll_keeps c w s
  | .csrr c w => execCsrr_keeps c w s
  | .csrw c w => execCsrw_keeps c w s
  | .eret c w => execEret_keeps c w s
  | .halt c w => execHalt_keeps c w s
  | .fence c w => execFence_keeps c w s
  | .programHalted c => execProgramHalted_keeps c s
  | .fetchResponse c => execFetchResponse_keeps c s
  | .interruptAccept c => execInterruptAccept_keeps c s
  | .tfaultResume c slot => execTfaultResume_keeps c slot s
  | .tfaultAbort c slot => execTfaultAbort_keeps c slot s
  | .excResume c => execExcResume_keeps c s
  | .excAbort c => execExcAbort_keeps c s
  | .fwIrqRaise c => execFwIrqRaise_keeps c s
  | .mtxSeedWrite c a v => execMtxSeedWrite_keeps c a v s
  | .cvtSeedWrite c v => execCvtSeedWrite_keeps c v s
  | .corMtxCntClr c => execCorMtxCntClr_keeps c s
  | .predFlush c => execPredFlush_keeps c s
  | .corTileCntClr c => execCorTileCntClr_keeps c s
  | .corVecCntClr c => execCorVecCntClr_keeps c s
  | .vflagsAccess c w => execVflagsAccess_keeps c w s
  | .corMemInv c => execCorMemInv_keeps c s
  | .corMemCntClr c => execCorMemCntClr_keeps c s
  | .hstTagWrite c tag => execHstTagWrite_keeps c tag s
  | .hstFlush c => execHstFlush_keeps c s
  | .hstFoldAccepted c => execHstFoldAccepted_keeps c s
  | .lineRequest c draws => execLineRequest_keeps c draws s
  | .sorterAgeExpire k line => execSorterAgeExpire_keeps k line s
  | .lineResponse k line draws => execLineResponse_keeps k line draws s
  | .cluSortCntClr k => execCluSortCntClr_keeps k s
  | .memDmaCntClr d => execMemDmaCntClr_keeps d s
  | .arbCntClr d => execArbCntClr_keeps d s
  | .arbTicketWrite d t slot v => execArbTicketWrite_keeps d t slot v s
  | .arbSeedWrite d i v => execArbSeedWrite_keeps d i v s
  | .dmaAccept d tag => execDmaAccept_keeps d tag s
  | .dmaBlockDone d tag i draws => execDmaBlockDone_keeps d tag i draws s
  | .dmaComplete d tag => execDmaComplete_keeps d tag s
  | .faultReportService d => execFaultReportService_keeps d s
  | .patrolScrub a found sym => execPatrolScrub_keeps a found sym s
  | .memStepWrite d v => execMemStepWrite_keeps d v s
  | .rgnEntryWrite d n limit v => execRgnEntryWrite_keeps d n limit v s
  | .writePacket a data who => execWritePacket_keeps a data who s
  | .lateNoticeReceive n => execLateNoticeReceive_keeps n s
  | .ringEnable d n => execRingEnable_keeps d n s
  | .ringDisable d n => execRingDisable_keeps d n s
  | .streamBlockWritten d n b => execStreamBlockWritten_keeps d n b s
  | .priResponse d va code => execPriResponse_keeps d va code s
  | .atsInvalidate va len => execAtsInvalidate_keeps va len s
  | .reductionPacketArrive n => execReductionPacketArrive_keeps n s
  | .combineHoldExpire r n => execCombineHoldExpire_keeps r n s
  | .reductionEndpointWrite n => execReductionEndpointWrite_keeps n s
  | .roundDoneNotice n => execRoundDoneNotice_keeps n s
  | .multicastDeliver n c held => execMulticastDeliver_keeps n c held s
  | .multicastAck n => execMulticastAck_keeps n s
  | .pacerRefill d p => execPacerRefill_keeps d p s
  | .fenceWrite c v => execFenceWrite_keeps c v s
  | .fenceReleaseWrite c => execFenceReleaseWrite_keeps c s
  | .selfTestDone c ok => execSelfTestDone_keeps c ok s
  | .newtUngate c => execNewtUngate_keeps c s
  | .redEntryWrite d n cfg v => execRedEntryWrite_keeps d n cfg v s
  | .nocCntClr d => execNocCntClr_keeps d s
  | .syncAdvance n => execSyncAdvance_keeps n s
  | .advanceAck n => execAdvanceAck_keeps n s
  | .watchRegistration n => execWatchRegistration_keeps n s
  | .watchFire n => execWatchFire_keeps n s
  | .retryResend n => execRetryResend_keeps n s
  | .synValWrite o v => execSynValWrite_keeps o v s
  | .synAdvWrite o v => execSynAdvWrite_keeps o v s
  | .synAttrWrite o v => execSynAttrWrite_keeps o v s
  | .synCntClr k => execSynCntClr_keeps k s
  | .barMaskWrite d n w v => execBarMaskWrite_keeps d n w v s
  | .synBarCfgWrite d n v => execSynBarCfgWrite_keeps d n v s
  | .barrierLineComplete d n => execBarrierLineComplete_keeps d n s
  | .barrierLate d n => execBarrierLate_keeps d n s
  | .lendableSet r => execLendableSet_keeps r s
  | .stepOpen r => execStepOpen_keeps r s
  | .stepClose r => execStepClose_keeps r s
  | .planInstall r => execPlanInstall_keeps r s
  | .schedSet r => execSchedSet_keeps r s
  | .stepStatus r => execStepStatus_keeps r s
  | .passAStart r => execPassAStart_keeps r s
  | .passADone r => execPassADone_keeps r s
  | .normContribute => execNormContribute_keeps s
  | .passBLayerDone r => execPassBLayerDone_keeps r s
  | .rule0LaunchDone r => execRule0LaunchDone_keeps r s
  | .stepCommit => execStepCommit_keeps s
  | .updCntClr r => execUpdCntClr_keeps r s
  | .rs port f => execRs_keeps port f s
  | .ag port f => execAg_keeps port f s
  | .normUp port f => execNormUp_keeps port f s
  | .normDown port f => execNormDown_keeps port f s
  | .ack port f => execAck_keeps port f s
  | .nak port f => execNak_keeps port f s
  | .credit port f => execCredit_keeps port f s
  | .barrier port f => execBarrier_keeps port f s
  | .abort port f => execAbort_keeps port f s
  | .probe port f => execProbe_keeps port f s
  | .pfcFrame port pcp pause => execPfcFrame_keeps port pcp pause s
  | .ackTimer port mac => execAckTimer_keeps port mac s
  | .rtoExpire port mac => execRtoExpire_keeps port mac s
  | .probeTimer port mac => execProbeTimer_keeps port mac s
  | .rsSendStart c => execRsSendStart_keeps c s
  | .dlSoftExpire c => execDlSoftExpire_keeps c s
  | .dlHardExpire c => execDlHardExpire_keeps c s
  | .portTrained port ok => execPortTrained_keeps port ok s
  | .fabPortSet r => execFabPortSet_keeps r s
  | .fabPortStatus r => execFabPortStatus_keeps r s
  | .groupSet r => execGroupSet_keeps r s
  | .chanSet r => execChanSet_keeps r s
  | .shardSet r => execShardSet_keeps r s
  | .deadlineSet r => execDeadlineSet_keeps r s
  | .groupClear r => execGroupClear_keeps r s
  | .fabCntClr => execFabCntClr_keeps s
  | .hello port f mirdig => execHello_keeps port f mirdig s
  | .bond port f rtt => execBond_keeps port f rtt s
  | .decision port f => execDecision_keeps port f s
  | .mirror port f off => execMirror_keeps port f off s
  | .mack port f => execMack_keeps port f s
  | .mskip port f => execMskip_keeps port f s
  | .heartbeat port f => execHeartbeat_keeps port f s
  | .unbond port f => execUnbond_keeps port f s
  | .unbondAck port f => execUnbondAck_keeps port f s
  | .heartbeatTimer port => execHeartbeatTimer_keeps port s
  | .partnerLoss => execPartnerLoss_keeps s
  | .bondTimeout => execBondTimeout_keeps s
  | .twnBond r mirdig => execTwnBond_keeps r mirdig s
  | .twnUnbond r => execTwnUnbond_keeps r s
  | .twnMirrorSet r => execTwnMirrorSet_keeps r s
  | .twnStatus r => execTwnStatus_keeps r s
  | .twnStore r => execTwnStore_keeps r s
  | .twnCntClr => execTwnCntClr_keeps s
  | .firmwareTick t => execFirmwareTick_keeps t s
  | .inputSample volts amps board => execInputSample_keeps volts amps board s
  | .thermalTrip d i v => execThermalTrip_keeps d i v s
  | .pllRelockDone r => execPllRelockDone_keeps r s
  | .railSlewDone r => execRailSlewDone_keeps r s
  | .funcTransitionDone f ok => execFuncTransitionDone_keeps f ok s
  | .powerCapSet r => execPowerCapSet_keeps r s
  | .powerStatus r => execPowerStatus_keeps r s
  | .pointLimit r => execPointLimit_keeps r s
  | .funcEnable r => execFuncEnable_keeps r s
  | .funcDisable r => execFuncDisable_keeps r s
  | .park r => execPark_keeps r s
  | .wake r => execWake_keeps r s
  | .powerSettings r => execPowerSettings_keeps r s
  | .profileClear r => execProfileClear_keeps r s
  | .pwrCntClr => execPwrCntClr_keeps s
  | .linkTrain mode rate width => execLinkTrain_keeps mode rate width s
  | .perstAssert => execPerstAssert_keeps s
  | .perstDeassert => execPerstDeassert_keeps s
  | .functionLevelReset => execFunctionLevelReset_keeps s
  | .configRequest kind v => execConfigRequest_keeps kind v s
  | .hostMemRead a found sym => execHostMemRead_keeps a found sym s
  | .hostMemWrite a data => execHostMemWrite_keeps a data s
  | .h2dSnoop a => execH2dSnoop_keeps a s
  | .cmdRingEnable cq r v => execCmdRingEnable_keeps cq r v s
  | .sqTailWrite r v => execSqTailWrite_keeps r v s
  | .cqHeadWrite r v => execCqHeadWrite_keeps r v s
  | .coalTimer r => execCoalTimer_keeps r s
  | .windowBaseWrite w1 v => execWindowBaseWrite_keeps w1 v s
  | .cmdCntClr => execCmdCntClr_keeps s
  | .v1Packet r => execV1Packet_keeps r s
  | .unassignedOpcode r => execUnassignedOpcode_keeps r s
  | .nop r => execNop_keeps r s
  | .identify r => execIdentify_keeps r s
  | .enumerate r => execEnumerate_keeps r s
  | .health r => execHealth_keeps r s
  | .regRead r => execRegRead_keeps r s
  | .regWrite r => execRegWrite_keeps r s
  | .copy r => execCopy_keeps r s
  | .fill r => execFill_keeps r s
  | .map r => execMap_keeps r s
  | .unmap r => execUnmap_keeps r s
  | .mark r => execMark_keeps r s
  | .ptPool r => execPtPool_keeps r s
  | .redSet r => execRedSet_keeps r s
  | .mcgSet r => execMcgSet_keeps r s
  | .bias r => execBias_keeps r s
  | .launch r => execLaunch_keeps r s
  | .launchComplete n => execLaunchComplete_keeps n s
  | .stop r => execStop_keeps r s
  | .launchStatus r => execLaunchStatus_keeps r s
  | .raise r => execRaise_keeps r s
  | .syncAdv r => execSyncAdv_keeps r s
  | .syncRead r => execSyncRead_keeps r s
  | .syncSet r => execSyncSet_keeps r s
  | .syncAttr r => execSyncAttr_keeps r s
  | .syncWait r => execSyncWait_keeps r s
  | .syncWaitTimeout d slot => execSyncWaitTimeout_keeps d slot s
  | .barCfg r => execBarCfg_keeps r s
  | .barArrive r => execBarArrive_keeps r s
  | .configStage r => execConfigStage_keeps r s
  | .configCommit r => execConfigCommit_keeps r s
  | .configStatus r => execConfigStatus_keeps r s
  | .setImmediate r => execSetImmediate_keeps r s
  | .fenceCmd r => execFenceCmd_keeps r s
  | .unfence r => execUnfence_keeps r s
  | .fenceStatus r => execFenceStatus_keeps r s
  | .fwStage r => execFwStage_keeps r s
  | .fwActivate r => execFwActivate_keeps r s
  | .fwStatus r => execFwStatus_keeps r s
  | .fwRestart r => execFwRestart_keeps r s
  | .svnCommit r => execSvnCommit_keeps r s
  | .jnlRead r => execJnlRead_keeps r s
  | .jnlState r => execJnlState_keeps r s
  | .jnlResetPolicy r => execJnlResetPolicy_keeps r s
  | .rplRecordStart r => execRplRecordStart_keeps r s
  | .rplRecordStop r => execRplRecordStop_keeps r s
  | .rplStatus r => execRplStatus_keeps r s
  | .rplReplayStart r => execRplReplayStart_keeps r s
  | .rplReplayStop r => execRplReplayStop_keeps r s
  | .rplMark r => execRplMark_keeps r s
  | .getVersion => execGetVersion_keeps s
  | .getCapabilities flags => execGetCapabilities_keeps flags s
  | .negotiateAlgorithms sign hash kex aead => execNegotiateAlgorithms_keeps sign hash kex aead s
  | .getDigests => execGetDigests_keeps s
  | .getCertificate slot off len => execGetCertificate_keeps slot off len s
  | .challenge slot nonce => execChallenge_keeps slot nonce s
  | .getMeasurements op sign nonce => execGetMeasurements_keeps op sign nonce s
  | .keyExchange slot key => execKeyExchange_keeps slot key s
  | .finish id ok => execFinish_keeps id ok s
  | .spdmHeartbeat id => execSpdmHeartbeat_keeps id s
  | .keyUpdate id => execKeyUpdate_keeps id s
  | .endSession id => execEndSession_keeps id s
  | .doeDiscovery inst index => execDoeDiscovery_keeps inst index s
  | .cdatRead entry => execCdatRead_keeps entry s
  | .mbxDataWrite host off data => execMbxDataWrite_keeps host off data s
  | .mbxH2fSend host n v => execMbxH2fSend_keeps host n v s
  | .mbxF2hSend host n v => execMbxF2hSend_keeps host n v s
  | .mbxH2fRelease host v => execMbxH2fRelease_keeps host v s
  | .mbxF2hRelease host v => execMbxF2hRelease_keeps host v s
  | .fwReady host => execFwReady_keeps host s
  | .mbxCntClr host => execMbxCntClr_keeps host s
  | .mbxHostDbSet host v => execMbxHostDbSet_keeps host v s
  | .mbxFwDbSet host v => execMbxFwDbSet_keeps host v s
  | .dbMaskWrite host fw v => execDbMaskWrite_keeps host fw v s
  | .vinRise => execVinRise_keeps s
  | .vinFall => execVinFall_keeps s
  | .modRstAssert => execModRstAssert_keeps s
  | .overcurrent => execOvercurrent_keeps s
  | .overvoltage => execOvervoltage_keeps s
  | .overtempShutdown cause => execOvertempShutdown_keeps cause s
  | .shutdownHoldExpire => execShutdownHoldExpire_keeps s
  | .startupStepPass twin mirdig => execStartupStepPass_keeps twin mirdig s
  | .startupTryFail obj detail mirdig => execStartupTryFail_keeps obj detail mirdig s
  | .step1RetryTimer => execStep1RetryTimer_keeps s
  | .linkRetrainTimer => execLinkRetrainTimer_keeps s
  | .d2dFlitCrcFail d vert => execD2dFlitCrcFail_keeps d vert s
  | .d2dRetrainDone d vert ok => execD2dRetrainDone_keeps d vert ok s
  | .modLogHeadWrite v => execModLogHeadWrite_keeps v s
  | .modLogBaseWrite v => execModLogBaseWrite_keeps v s
  | .modErrCntClr => execModErrCntClr_keeps s
  | .resetReq v => execResetReq_keeps v s
  | .jnlClear v => execJnlClear_keeps v s
  | .sbFlashDataRead => execSbFlashDataRead_keeps s
  | .alertResponse pins => execAlertResponse_keeps pins s
  | .tapReset => execTapReset_keeps s
  | .extest d cells pins => execExtest_keeps d cells pins s
  | .samplePreload d cells pins => execSamplePreload_keeps d cells pins s
  | .idcode d => execIdcode_keeps d s
  | .usercode d => execUsercode_keeps d s
  | .highz d => execHighz_keeps d s
  | .clamp d => execClamp_keeps d s
  | .extestPulse d cells pins => execExtestPulse_keeps d cells pins s
  | .extestTrain d cells pins => execExtestTrain_keeps d cells pins s
  | .bypass d code => execBypass_keeps d code s
  | .ccdbg d w a v => execCcdbg_keeps d w a v s
  | .registerWrite a v who => execRegisterWrite_keeps a v who s
  | .modRstDeassert => execModRstDeassert_keeps s
  | .flrDone => execFlrDone_keeps s
  | .atsTranslationCompletion d va host perm => execAtsTranslationCompletion_keeps d va host perm s
  | .foreignFrame port => execForeignFrame_keeps port s
  | .badFcsFrame port => execBadFcsFrame_keeps port s
  | .linkRetry crc retry => execLinkRetry_keeps crc retry s
  | .linkDown port => execLinkDown_keeps port s
  | .overvoltageRelease => execOvervoltageRelease_keeps s
  | .fwStageDone readErr => execFwStageDone_keeps readErr s

/-- The canonical form does not speak of the queue. -/
theorem State.Canon.dequeue {s : State} (h : s.Canon) (rest : List Instr) : State.Canon { s with pending := rest } :=
  ⟨h.mem, h.poison, h.regs, h.cores, h.sorters, h.dies⟩

theorem step_of_pending {s : State} {c : Instr} {rest : List Instr} (h : s.pending = c :: rest) :
    step s = exec c { s with pending := rest } := by
  simp only [step, h]

theorem step_of_empty {s : State} (h : s.pending = []) : step s = .next s.idle := by
  simp only [step, h]

theorem step_canon {s t : State} (h : s.Canon) (hstep : step s = .next t) : t.Canon := by
  cases hq : s.pending with
  | nil =>
    rw [step_of_empty hq] at hstep
    cases hstep
    exact s.idle_keeps.canon h
  | cons c rest =>
    rw [step_of_pending hq] at hstep
    exact ((exec_keeps c _).keeps t hstep).canon (h.dequeue rest)

/-- Settles O60: every arm answers a next state, and its lemma says what that state keeps; a nanosecond keeps it too. -/
theorem commandsKeep : Obligations.CommandsKeep := by
  unfold Obligations.CommandsKeep
  refine ⟨fun c s => ?command, fun s t h hstep => step_canon h hstep⟩
  obtain ⟨t, ht⟩ := exec_answers c s
  exact ⟨t, ht, (exec_keeps c s).keeps t ht⟩

/-! ### A step -/

theorem State.idle_railsOff {s : State} (h : s.sys.rails = false) : s.idle = s := if_neg (by simp [h])

/-- Where no core is listed no cycle is counted. -/
theorem State.idle_noCores {s : State} (h : s.sys.rails = true) (hcores : s.cores = []) : s.idle = s.wr MOD_TIME (s.rd MOD_TIME + 1) := by
  simp [State.idle, h, hcores]

/-- Settles O57: the two cases of a step. -/
theorem stepRunsFront : Obligations.StepRunsFront := by
  unfold Obligations.StepRunsFront
  intro c rest s
  exact ⟨step_of_pending rfl, fun hq hoff => (step_of_empty hq).trans (next_congr (State.idle_railsOff hoff)),
    fun hq hon hcores => (step_of_empty hq).trans (next_congr (State.idle_noCores hon hcores))⟩

/-! ### The state after reset -/

theorem State.rd_reset (a : Nat) : State.reset.rd a = regReset a := rfl

theorem State.core_reset (c : CoreId) : State.reset.core c = {} := rfl

theorem State.reset_canon : State.reset.Canon :=
  ⟨Tab.nil_wf _, Tab.nil_wf _, Tab.nil_wf _, Tab.nil_wf _, Tab.nil_wf _, Tab.nil_wf _⟩

theorem State.runs_reset (c : CoreId) : State.reset.runs c = false := rfl

/-- Settles O58: the tables list nothing, so every register and core reads its default; TWN_STATUS and UPD_PHASE read 0. -/
theorem resetState : Obligations.ResetState := by
  unfold Obligations.ResetState
  refine ⟨rfl, rfl, rfl, rfl, rfl, rfl, rfl, rfl, ?twin, ?phase, State.rd_reset, State.core_reset, State.runs_reset, State.reset_canon⟩
  case twin => decide +kernel
  case phase => decide +kernel

end Sys2Proof.Machine
end

section
/-!
PROOF. When the row of a core instruction does nothing (R164, R182).
-/
namespace Sys2Proof.Machine

/-- The issue step of a listed word by a row that is not its own. -/
theorem State.issue_otherRow {s : State} {c : CoreId} {w : Word} {key : Nat} {eff : State → State} (hl : listed w = true)
    (hk : ikey w ≠ key) : s.issue c w key eff = s := by
  simp [State.issue, hl, hk]

/-- Settles O4: every row is the issue step of its key, which leaves the state alone in each of the three cases. -/
theorem instructionsWait : Obligations.InstructionsWait := by
  unfold Obligations.InstructionsWait
  intro p hp c w s
  obtain ⟨eff, hexec⟩ := coreRow_issues p hp c w
  exact ⟨fun hat => (hexec s).trans (next_congr (State.issue_not hat)),
    fun hl hk => (hexec s).trans (next_congr (State.issue_otherRow hl hk)),
    fun _ hl hk hf hstall => (hexec s).trans (next_congr (State.issue_stall hstall hl hk hf))⟩

end Sys2Proof.Machine
end

section
/-!
PROOF. The commands of the submission rings: a row takes the packet whose turn it is, which then runs, waits or is refused (R390, R434, R437,
R442, R443, R445, R497).
-/
namespace Sys2Proof.Machine

/-! ### The rows of host commands -/

/-- The word a row carries for its opcode: TWN_BOND's mirror digest; the other rows carry none. -/
def HostRow.ext (mirdig : BitVec 256) (p : HostRow) : Nat := if p.op = 0x78 then mirdig.toNat else 0

/-- The row's command takes a packet of the row's opcode, and the opcode's effect, with the word `ext`, is the row's. -/
structure HostRow.Runs (p : HostRow) (ext : Nat) : Prop where
  takes : ∀ (r : RingId) (s : State), exec (p.cmd r) s = .next (s.takeOp r p.op ext)
  runs : ∀ (S : State) (x : CmdRec), pkOp x.pkt = p.op → S.runOp x ext = p.eff S x

theorem HostRow.isData.runs {p : HostRow} (h : p.isData) (mirdig : BitVec 256) : p.Runs (p.ext mirdig) := by
  unfold HostRow.isData at h
  fin_cases h <;> exact ⟨fun _ _ => rfl, fun S x hop => by simp only [State.runOp, hop]⟩

theorem HostRow.isModule.runs {mirdig : BitVec 256} {p : HostRow} (h : p.isModule mirdig) : p.Runs (p.ext mirdig) := by
  unfold HostRow.isModule at h
  fin_cases h <;> exact ⟨fun _ _ => rfl, fun S x hop => by simp [State.runOp, hop, HostRow.ext]⟩

theorem HostRow.isStep.runs {p : HostRow} (h : p.isStep) (mirdig : BitVec 256) : p.Runs (p.ext mirdig) := by
  unfold HostRow.isStep at h
  fin_cases h <;> exact ⟨fun _ _ => rfl, fun S x hop => by simp only [State.runOp, hop]⟩

theorem HostRow.listed.runs {mirdig : BitVec 256} {p : HostRow} (h : p.listed mirdig) : p.Runs (p.ext mirdig) :=
  h.elim (·.runs mirdig) (·.elim (·.runs) (·.runs mirdig))

/-- No row's command waits for anything or does anything but with an assigned opcode. -/
theorem State.runOp_unassigned (S : State) {x : CmdRec} (h : pkOp x.pkt ∉ assigned) (ext : Nat) :
    S.runOp x ext = S.reply x stUnsupported := by
  unfold State.runOp
  split
  case h_74 => rfl
  all_goals next hop => exact absurd (hop ▸ by decide) h

theorem State.cmdReady_unassigned (S : State) {x : CmdRec} (h : pkOp x.pkt ∉ assigned) : S.cmdReady x = true := by
  unfold State.cmdReady
  split
  case h_19 => rfl
  all_goals next hop => exact absurd (hop ▸ by decide) h

/-! ### Whose turn it is -/

section
variable {s : State} {r : RingId} {k : Packet} {slot : Nat}

/-- The state in which a consumed packet's command runs: the ring's head has moved past it and it is among the commands in flight. -/
abbrev State.consumed (s : State) (r : RingId) (k : Packet) (slot : Nat) : State :=
  (s.advance r).enlist ((s.advance r).cmdOf r k slot s.host.consumed false) k

/-- A packet of the current version is executed as it stands. -/
theorem State.cmdOf_pkt (hver : pkVersion k = 2) (s : State) (r : RingId) (slot seq : Nat) (replayed : Bool) :
    (s.cmdOf r k slot seq replayed).pkt = k := if_neg (by omega)

theorem State.take1_none (hturn : s.nextRing = none) (hlog : s.logHead = none) (want : Packet → Bool) (ext : Nat) :
    s.take1 r want ext = s := by
  simp [State.take1, hturn, hlog]

theorem State.take1_other {q : RingId} {want : Packet → Bool} (hturn : s.nextRing = some (q, ⟨some k, slot⟩)) (hlog : s.logHead = none)
    (h : ¬ (q = r ∧ want k = true)) (ext : Nat) : s.take1 r want ext = s := by
  simp [State.take1, hturn, hlog, h]

theorem State.take1_turn {want : Packet → Bool} (hturn : s.nextRing = some (r, ⟨some k, slot⟩)) (hlog : s.logHead = none)
    (h : want k = true) (ext : Nat) :
    s.take1 r want ext = ((s.consumed r k slot).runCmd ((s.advance r).cmdOf r k slot s.host.consumed false) ext).settle := by
  simp [State.take1, hturn, hlog, h, State.takePkt]

theorem State.takeOp_turn (hturn : s.nextRing = some (r, ⟨some k, slot⟩)) (hlog : s.logHead = none) (hver : pkVersion k = 2) (ext : Nat) :
    s.takeOp r (pkOp k) ext = ((s.consumed r k slot).runCmd ((s.advance r).cmdOf r k slot s.host.consumed false) ext).settle :=
  State.take1_turn hturn hlog (by simp [hver]) ext

theorem State.takeOther_turn (hturn : s.nextRing = some (r, ⟨some k, slot⟩)) (hlog : s.logHead = none) (hver : pkVersion k = 2)
    (hop : pkOp k ∉ assigned) :
    s.takeOther r = ((s.consumed r k slot).runCmd ((s.advance r).cmdOf r k slot s.host.consumed false) 0).settle := by
  simp only [State.takeOther, hturn]
  exact State.take1_turn hturn hlog (by simp [hver, hop]) 0
end

/-! ### A consumed command (R390, R442, R497) -/

section
variable {S : State} {x : CmdRec}

theorem State.runCmd_fatal (hver : pkVersion x.pkt = 2) (hfatal : S.bit MOD_ERR_STATUS MOD_ERR_STATUS.FATAL = true)
    (hop : pkOp x.pkt ∉ fatalOps) (ext : Nat) : S.runCmd x ext = S.reply x stHwError := by
  simp [State.runCmd, hver, hfatal, hop]

/-- Whether the FATAL state lets an opcode through. -/
abbrev State.Alive (S : State) (op : Nat) : Prop := S.bit MOD_ERR_STATUS MOD_ERR_STATUS.FATAL = false ∨ op ∈ fatalOps

theorem State.runCmd_split (hver : pkVersion x.pkt = 2) (halive : S.Alive (pkOp x.pkt)) (htwin : S.twin = 5)
    (hop : splitOp (pkOp x.pkt) = true) (ext : Nat) : S.runCmd x ext = S.reply x stSplit := by
  obtain h | h := halive <;> simp [State.runCmd, hver, h, htwin, hop]

theorem State.runCmd_admitted (hver : pkVersion x.pkt = 2) (halive : S.Alive (pkOp x.pkt)) (hsplit : S.twin ≠ 5 ∨ splitOp (pkOp x.pkt) = false)
    (ext : Nat) : S.runCmd x ext =
      if S.cmdReady x then S.runOp x ext else (S.modCmd x.id fun c => { c with data := [waitMark, ext] }).defer x.id := by
  obtain h | h := halive <;> obtain h' | h' := hsplit <;> simp [State.runCmd, hver, h, h']
end

theorem HostRow.Runs.exec_turn {p : HostRow} {ext : Nat} (h : p.Runs ext) {s : State} {r : RingId} {k : Packet} {slot : Nat}
    (hturn : s.nextRing = some (r, ⟨some k, slot⟩)) (hlog : s.logHead = none) (hver : pkVersion k = 2) (hop : pkOp k = p.op) :
    exec (p.cmd r) s = .next ((s.consumed r k slot).runCmd ((s.advance r).cmdOf r k slot s.host.consumed false) ext).settle :=
  (h.takes r s).trans (next_congr (hop ▸ State.takeOp_turn hturn hlog hver ext))

/-- Settles O38: the row takes the packet, and its command, which nothing refuses, runs its opcode or waits. -/
theorem hostCommands : Obligations.HostCommands := by
  unfold Obligations.HostCommands
  intro mirdig p r k slot s hp hturn hlog hop hver x S halive hsplit
  have hpkt : x.pkt = k := State.cmdOf_pkt hver _ _ _ _ _
  rw [List.contains_iff_mem, ← hop, ← hpkt] at halive
  rw [← hop, ← hpkt] at hsplit
  rw [hp.runs.exec_turn hturn hlog hver hop, State.runCmd_admitted (hpkt ▸ hver) halive hsplit]
  refine ⟨fun hready => ?runs, fun hready hbond => ?waits⟩
  case runs => rw [if_pos hready, hp.runs.runs S x (hpkt ▸ hop)]
  case waits => rw [if_neg (by simp [hready]), HostRow.ext, if_neg hbond]

/-- Settles O39: nothing is taken out of turn; a taken packet's command is answered by the first state that refuses it. -/
theorem hostCommandsRefused : Obligations.HostCommandsRefused := by
  unfold Obligations.HostCommandsRefused
  intro mirdig p r q k slot s hp hlog
  have htakes := hp.runs.takes
  refine ⟨fun hturn => ?noTurn, fun hturn hother => ?other, fun hturn hver => ?taken⟩
  case noTurn => exact (htakes r s).trans (next_congr (State.take1_none hturn hlog _ _))
  case other =>
    refine (htakes r s).trans (next_congr (State.take1_other hturn hlog ?_ _))
    rintro ⟨hq, hwant⟩
    obtain ⟨hop, -⟩ := Bool.and_eq_true_iff.mp hwant
    exact hother.elim (· hq) (· (beq_iff_eq.mp hop))
  case taken =>
    intro x S fatal
    have hpkt : x.pkt = k := State.cmdOf_pkt hver _ _ _ _ _
    have hxver : pkVersion x.pkt = 2 := hpkt ▸ hver
    have alive (h : fatal = false) : S.Alive (pkOp x.pkt) := by
      simpa [hpkt, fatal, State.Alive, imp_iff_not_or] using h
    have hexec := hp.runs.exec_turn hturn hlog hver
    refine ⟨fun hop hfatal => ?fatal, fun hop hfatal htwin hsplit => ?split, fun hop hfatal hsplit => ?unassigned⟩
    case fatal =>
      obtain ⟨hbit, hops⟩ := Bool.and_eq_true_iff.mp hfatal
      rw [hexec hop, State.runCmd_fatal hxver hbit (by simpa [hpkt] using hops)]
    case split => rw [hexec hop, State.runCmd_split hxver (alive hfatal) htwin (by rw [hpkt, hop, hsplit])]
    case unassigned =>
      rw [← hpkt] at hsplit
      have hop : pkOp x.pkt ∉ assigned := by simpa [hpkt] using hop
      refine next_congr ((State.takeOther_turn hturn hlog hver (hpkt ▸ hop)).trans (congrArg State.settle ?_))
      exact (State.runCmd_admitted hxver (alive hfatal) hsplit 0).trans
        ((if_pos (S.cmdReady_unassigned hop)).trans (S.runOp_unassigned hop 0))

end Sys2Proof.Machine
end

section
/-!
PROOF. A reply written at its completion ring's tail (R435, R436, R441).
-/
namespace Sys2Proof.Machine

/-! ### Signals leave memory and the module's registers alone -/

section
variable (s : State)

theorem State.msix_mem (v : Nat) : (s.msix v).mem = s.mem := by
  unfold State.msix
  split <;> rfl

/-- A masked vector's pending bit lies past the device physical map. -/
theorem State.rd_msix (v : Nat) {a : Nat} (ha : a < 2 ^ 53) : (s.msix v).rd a = s.rd a := by
  unfold State.msix
  split
  · rfl
  · exact State.rd_wr_other _ _ (by unfold msixPba; omega)

theorem State.coalesce_mem (q : Nat) (irq : Bool) : (s.coalesce q irq).mem = s.mem := by
  unfold State.coalesce
  dsimp only
  split
  · exact State.msix_mem _ q
  · rfl

theorem State.rd_coalesce (q : Nat) (irq : Bool) {a : Nat} (ha : a < 2 ^ 53) : (s.coalesce q irq).rd a = s.rd a := by
  unfold State.coalesce
  dsimp only
  split
  · exact State.rd_msix _ q ha
  · rfl

theorem State.rd_wrMem (a : Nat) (bs : List Byte) (x : Nat) : (s.wrMem a bs).rd x = s.rd x := by
  unfold State.wrMem State.backInv
  split <;> rfl
end

/-! ### The reply of three words -/

/-- The 32 bytes of a reply without extended results, with its ring's phase (R441). -/
def Reply.bytes (x : Reply) (ph : Nat) : List Byte :=
  toLe 2 x.tag.toNat ++ toLe 1 x.status.toNat ++ toLe 1 (x.ring.toNat + ph * 128) ++ toLe 4 x.time ++
    (List.range 3).flatMap fun i => toLe 8 (x.words.getD i 0)

theorem Reply.bytes_length (x : Reply) (ph : Nat) : (x.bytes ph).length = 32 := by
  simp [Reply.bytes, toLe_length]

/-- Where the next reply of a completion ring goes. -/
def State.replyAt (s : State) (q : Nat) : Nat :=
  CMD_CQ_BASE.ADDR.get (s.rd (CMD_CQ_BASE q)) * 32 + s.fld (CMD_CQ_TAIL q) CMD_CQ_TAIL.INDEX * 32

/-- A tail moved on: its index goes back to 0 at the ring's end, where its phase turns over. -/
def nextTail (t : Word) (n : Nat) : Word :=
  let wrap := decide (CMD_CQ_TAIL.INDEX.get t + 1 = n)
  CMD_CQ_TAIL.PHASE.put (CMD_CQ_TAIL.INDEX.put t (if wrap then 0 else CMD_CQ_TAIL.INDEX.get t + 1))
    (if wrap then 1 - CMD_CQ_TAIL.PHASE.get t else CMD_CQ_TAIL.PHASE.get t)

section
variable {s : State} {q : Nat} {x : Reply}

/-- Without extended results a reply is its bytes, the tail moved on, and its signal. -/
theorem State.putReply_short (hwords : x.words.length ≤ 3) : s.putReply q x =
    (((s.wrMem (s.replyAt q) (x.bytes (s.fld (CMD_CQ_TAIL q) CMD_CQ_TAIL.PHASE))).wr (CMD_CQ_TAIL q)
      (nextTail (s.rd (CMD_CQ_TAIL q)) (ringEntries (s.fld (CMD_CQ_CFG q) CMD_CQ_CFG.SIZE)))).coalesce q x.irq) := by
  have hext : ¬ 3 < x.words.length := by omega
  simp only [State.putReply, hext, decide_false, Bool.false_and, Bool.false_eq_true, if_false]
  rfl

theorem State.putReply_mem (hwords : x.words.length ≤ 3) :
    (s.putReply q x).mem = (s.putMem (s.replyAt q) (x.bytes (s.fld (CMD_CQ_TAIL q) CMD_CQ_TAIL.PHASE))).mem := by
  rw [State.putReply_short hwords, State.coalesce_mem]
  exact State.wrMem_mem ..

theorem State.putReply_tail (hwords : x.words.length ≤ 3) (hq : q < 64) : (s.putReply q x).rd (CMD_CQ_TAIL q) =
    nextTail (s.rd (CMD_CQ_TAIL q)) (ringEntries (s.fld (CMD_CQ_CFG q) CMD_CQ_CFG.SIZE)) := by
  rw [State.putReply_short hwords, State.rd_coalesce _ _ _ (by unfold CMD_CQ_TAIL; omega), State.rd_wr_same]

/-- The only reply held is written where its ring has room. -/
theorem State.flushReplies_single (hheld : s.host.held.get (fun _ => []) q = [x]) (hroom : s.cqFull q = false) :
    s.flushReplies q =
      (s.putReply q x).modHost fun h => { h with held := h.held.set (fun _ => []) q ((h.held.get (fun _ => []) q).drop 1) } := by
  unfold State.flushReplies
  rw [hheld]
  exact if_neg (ne_true_of_eq_false hroom)

/-- A reply formed for a ring that has room and holds nothing is written at once, and only what is held changes beside. -/
theorem State.post_put {r : RingId} {k : Packet} {status : BitVec 8} {words : List Nat} (hroom : s.cqFull (s.cqOf r) = false)
    (hheld : s.host.held.get (fun _ => []) (s.cqOf r) = []) :
    ∃ h h' : HostSt, s.post r k status words = { ({ s with host := h } : State).putReply (s.cqOf r)
      ⟨r, pkTag k, status, s.now / 1000, words, pkIrq k && pkVersion k != 1⟩ with host := h' } :=
  ⟨_, _, State.flushReplies_single (by rw [Tab.get_set_same, hheld]; rfl) hroom⟩
end

/-! ### Fields of the tail -/

theorem index_nextTail (t : Word) (n : Nat) : CMD_CQ_TAIL.INDEX.get (nextTail t n) =
    (if CMD_CQ_TAIL.INDEX.get t + 1 = n then 0 else CMD_CQ_TAIL.INDEX.get t + 1) % 4096 := by
  unfold nextTail
  rw [Fld.get_put_other _ _ _ _ (by decide) (by decide), Fld.get_put _ _ _ (by decide)]
  simp only [decide_eq_true_eq]
  rfl

theorem phase_nextTail (t : Word) (n : Nat) : CMD_CQ_TAIL.PHASE.get (nextTail t n) =
    (if CMD_CQ_TAIL.INDEX.get t + 1 = n then 1 - CMD_CQ_TAIL.PHASE.get t else CMD_CQ_TAIL.PHASE.get t) % 2 := by
  unfold nextTail
  rw [Fld.get_put _ _ _ (by decide)]
  simp only [decide_eq_true_eq]
  rfl

theorem State.cqOf_lt (s : State) (r : RingId) : s.cqOf r < 64 := Nat.mod_lt _ (by decide)

/-- Settles O41: the one reply formed is put at the tail, and signalling it leaves memory and the tail alone. -/
theorem replyWritten : Obligations.ReplyWritten := by
  unfold Obligations.ReplyWritten
  intro r k status a b c s q ix ph n at_ t hroom hheld
  obtain ⟨h, h', ht⟩ := State.post_put (k := k) (status := status) (words := [a, b, c]) hroom hheld
  set x : Reply := ⟨r, pkTag k, status, s.now / 1000, [a, b, c], pkIrq k && pkVersion k != 1⟩
  have hmem : t.mem = (s.putMem at_ (x.bytes ph)).mem := (congrArg State.mem ht).trans (State.putReply_mem (Nat.le_refl 3))
  have htail : t.rd (CMD_CQ_TAIL q) = nextTail (s.rd (CMD_CQ_TAIL q)) n :=
    (congrArg (fun u : State => u.rd (CMD_CQ_TAIL q)) ht).trans (State.putReply_tail (Nat.le_refl 3) (s.cqOf_lt r))
  refine ⟨?bytes, fun y hy => ?frame, ?index, ?phase⟩
  case bytes =>
    have hread : t.rdMem at_ 32 = x.bytes ph := by
      have := s.rdMem_putMem at_ (x.bytes ph)
      rwa [State.rdMem, ← hmem, x.bytes_length] at this
    rw [hread]
    simp [Reply.bytes, x, List.range_succ]
  case frame => rw [hmem, State.byte_putMem, dif_neg (by rw [x.bytes_length]; omega)]
  case index =>
    show CMD_CQ_TAIL.INDEX.get (t.rd (CMD_CQ_TAIL q)) = _
    rw [htail, index_nextTail]
    rfl
  case phase =>
    show CMD_CQ_TAIL.PHASE.get (t.rd (CMD_CQ_TAIL q)) = _
    rw [htail, phase_nextTail]
    rfl

end Sys2Proof.Machine
end

section
/-!
PROOF. What the twin's frames and timers do to the bond (R378, R387, R389, R392, R393).
-/
namespace Sys2Proof.Machine

section
variable {s : State}

/-- Outside BONDING a HELLO is only noted. -/
theorem State.helloIn_noted (htwin : s.twin ≠ 1) (port : Nat) (f : Frame) (dig : BitVec 256) : s.helloIn port f dig =
    s.modTwn fun t => { t with peerNonce := some (f.data.take 32), peerMac := f.src.toNat - port } :=
  if_neg fun ⟨h, _⟩ => htwin h

/-- The partner's UNBOND remembered. -/
def State.unbondNoted (s : State) : State := s.modTwn fun t => { t with peerUnbond := true }

theorem State.unbondIn_mirror (htwin : s.twin = 2) : s.unbondIn = if s.phase = 0 then s.unbondNoted else s.unbondNoted.setTwin 4 := by
  simp only [State.unbondIn, htwin]
  rfl

theorem State.twin_setTwin (s : State) (v : Nat) : (s.setTwin v).twin = v % 8 := by
  show TWN_STATUS.STATE.get ((s.setFld _ _ _).rd TWN_STATUS) = _
  rw [State.rd_setFld_same, Fld.get_put _ _ _ (by decide)]
  rfl

/-- A bond is being made and its partner has sent no HELLO yet. -/
abbrev State.AwaitsHello (s : State) : Prop := s.twin = 1 ∧ s.twn.peerNonce.isNone = true

theorem State.lossTimer_awaits (h : s.AwaitsHello) : s.lossTimer = s := if_pos h

theorem State.lossTimer_loses (h : ¬ s.AwaitsHello) : s.lossTimer = s.partnerLost.settle := if_neg h

theorem State.bondTimer_ends (h : s.AwaitsHello) : s.bondTimer = (s.endBond stTimeout 0 0).settle := if_pos h

theorem State.bondTimer_idle (h : ¬ s.AwaitsHello) : s.bondTimer = s := if_neg h
end

/-- Settles O47: each frame and timer by its operation's guard. -/
theorem twinEvents : Obligations.TwinEvents := by
  unfold Obligations.TwinEvents
  intro pt f dig s
  refine ⟨fun htwin => State.helloIn_noted htwin _ f dig, fun htwin => ?unbond, fun hsent => if_neg (by simp [hsent]), fun hsent => if_pos hsent,
    fun hlive => next_congr (if_pos hlive), fun hdead => next_congr (if_neg (ne_true_of_eq_false hdead)), fun htwin hnonce => ?awaits, fun h => ?partner⟩
  case unbond =>
    rw [State.unbondIn_mirror htwin]
    refine ⟨?noted, fun hphase => ?idle, fun hphase => ?drains⟩
    case noted => split <;> rfl
    case idle => rw [if_pos hphase]; exact htwin
    case drains => rw [if_neg hphase, State.twin_setTwin]
  case awaits =>
    have hawaits : s.AwaitsHello := ⟨htwin, by rw [hnonce]; rfl⟩
    exact ⟨next_congr (State.lossTimer_awaits hawaits), next_congr (State.bondTimer_ends hawaits)⟩
  case partner =>
    have hpartner : ¬ s.AwaitsHello := fun ⟨htwin, hnonce⟩ => h.elim (· htwin) (· (Option.isNone_iff_eq_none.mp hnonce))
    exact ⟨next_congr (State.lossTimer_loses hpartner), next_congr (State.bondTimer_idle hpartner)⟩

end Sys2Proof.Machine
end

section
/-!
PROOF. A function level reset leaves a submission ring's tail as the host wrote it (R431, R433).
-/
namespace Sys2Proof.Machine

/-- The state after reset with ring 0's tail moved to 1. -/
def tailMoved : State := State.reset.wr (CMD_SQ_TAIL 0) 1

/-- What the function level reset clears of the host's registers has no tail among it: its rings' EN, their clamp records, the windows,
the MSI-X table and the host's side of the mailboxes. -/
theorem sqTail_flrBegin_tailMoved : tailMoved.flrBegin.rd (CMD_SQ_TAIL 0) = 1 := by decide +kernel

/-- Refutes O50: the function level reset turns the rings off, but nothing writes CMD_SQ_TAIL, which the statement has at 0. -/
theorem not_hostLinkEvents : ¬ Obligations.HostLinkEvents := by
  unfold Obligations.HostLinkEvents
  intro h
  obtain ⟨-, -, -, -, -, -, -, -, -, hflr, -⟩ := h 0 0 0 0 0 0 false false tailMoved
  obtain ⟨-, -, -, -, -, hrings, -⟩ := hflr rfl
  obtain ⟨-, -, htail, -⟩ := hrings 0 (by decide)
  exact absurd (htail.symm.trans sqTail_flrBegin_tailMoved) (by decide)

end Sys2Proof.Machine
end

section
/-!
PROOF. Boundary scan and debug access (R526 to R529).
-/
namespace Sys2Proof.Machine

/-! ### A die's TAP -/

/-- A die's TAP set. -/
def State.setTap (s : State) (d : DieId) (t : TapSt) : State := s.modSys fun y => { y with taps := y.taps.set (fun _ => {}) d.toNat t }

section
variable {s : State}

theorem State.tap_setTap (s : State) (d e : DieId) (t : TapSt) : (s.setTap d t).tap e = if e = d then t else s.tap e := by
  unfold State.tap State.setTap State.modSys
  rw [Tab.get_set]
  simp only [BitVec.toNat_inj]

theorem State.onTap_off (h : s.sys.rails = false) (d : DieId) (f : TapSt → TapSt) (act : State → State) : s.onTap d f act = s :=
  if_neg (ne_true_of_eq_false h)

theorem State.onTap_on (h : s.sys.rails = true) (d : DieId) (f : TapSt → TapSt) (act : State → State) :
    s.onTap d f act = act (s.setTap d (f (s.tap d))) := if_pos h

/-! ### The boundary register (R527, R529) -/

theorem scanLen_le (d : DieId) : scanLen d ≤ 116 := by
  unfold scanLen
  split <;> decide

theorem scanBits_toNat (d : DieId) (v : BitVec 116) : (scanBits d v).toNat = v.toNat % 2 ^ scanLen d := by
  have hlt : v.toNat % 2 ^ scanLen d < 2 ^ 116 :=
    (Nat.mod_lt _ (Nat.two_pow_pos _)).trans_le (Nat.pow_le_pow_right (by decide) (scanLen_le d))
  exact (BitVec.toNat_ofNat ..).trans (Nat.mod_eq_of_lt hlt)

theorem State.extest_off (h : s.sys.rails = false) (d : DieId) (ir : BitVec 8) (mode : Nat) (cells pins : BitVec 116) :
    s.extest d ir mode cells pins = s := by
  unfold State.extest
  rw [State.onTap_off h, State.onTap_off h, ite_self]

theorem State.extest_held (hon : s.sys.rails = true) (hheld : s.sys.scanHeld = true) (d : DieId) (ir : BitVec 8) (mode : Nat)
    (cells pins : BitVec 116) : s.extest d ir mode cells pins =
      ((s.setTap d { s.tap d with ir := ir, cells := scanBits d cells }).emit (.tdo d (scanLen d) (pins.toNat % 2 ^ scanLen d))).emit
        (.pins d mode (cells.toNat % 2 ^ scanLen d)) := by
  unfold State.extest
  rw [if_pos hheld, State.onTap_on hon, scanBits_toNat, scanBits_toNat]

theorem State.extest_bypassed (hon : s.sys.rails = true) (hheld : s.sys.scanHeld = false) (d : DieId) (ir : BitVec 8) (mode : Nat)
    (cells pins : BitVec 116) : s.extest d ir mode cells pins = (s.setTap d { s.tap d with ir := ir }).emit (.tdo d 1 0) :=
  (if_neg (ne_true_of_eq_false hheld)).trans (State.onTap_on hon ..)

theorem State.preload_on (hon : s.sys.rails = true) (d : DieId) (cells pins : BitVec 116) : s.preload d cells pins =
    (s.setTap d { s.tap d with ir := 1, cells := scanBits d cells }).emit (.tdo d (scanLen d) (pins.toNat % 2 ^ scanLen d)) := by
  unfold State.preload
  rw [State.onTap_on hon, scanBits_toNat]

theorem State.preload_off (h : s.sys.rails = false) (d : DieId) (cells pins : BitVec 116) : s.preload d cells pins = s := by
  unfold State.preload
  rw [State.onTap_off h]

/-! ### HIGHZ and CLAMP (R527) -/

theorem State.holdPins_off (h : s.sys.rails = false) (d : DieId) (ir : BitVec 8) (high : Bool) : s.holdPins d ir high = s := by
  unfold State.holdPins
  rw [State.onTap_off h]

theorem State.holdPins_high (hon : s.sys.rails = true) (hheld : s.sys.scanHeld = true) (d : DieId) (ir : BitVec 8) :
    s.holdPins d ir true = ((s.setTap d { s.tap d with ir := ir }).emit (.pins d 1 0)).emit (.tdo d 1 0) :=
  (State.onTap_on hon ..).trans (congrArg (State.bypass · d) (if_pos hheld))

/-- CLAMP drives the cells as they stand. -/
theorem State.holdPins_clamp (hon : s.sys.rails = true) (hheld : s.sys.scanHeld = true) (d : DieId) (ir : BitVec 8) :
    s.holdPins d ir false = ((s.setTap d { s.tap d with ir := ir }).emit (.pins d 0 (s.tap d).cells.toNat)).emit (.tdo d 1 0) := by
  have cells : ((s.setTap d { s.tap d with ir := ir }).tap d).cells = (s.tap d).cells := by rw [State.tap_setTap, if_pos rfl]
  rw [← cells]
  exact (State.onTap_on hon ..).trans (congrArg (State.bypass · d) (if_pos hheld))

theorem State.holdPins_bypassed (hon : s.sys.rails = true) (hheld : s.sys.scanHeld = false) (d : DieId) (ir : BitVec 8) (high : Bool) :
    s.holdPins d ir high = (s.setTap d { s.tap d with ir := ir }).emit (.tdo d 1 0) :=
  (State.onTap_on hon ..).trans (congrArg (State.bypass · d) (if_neg (ne_true_of_eq_false hheld)))

/-! ### The other instructions (R526, R528) -/

theorem execIdcode_off (h : s.sys.rails = false) (d : DieId) : execIdcode d s = .next s := by
  unfold execIdcode
  rw [State.onTap_off h]

theorem execIdcode_on (h : s.sys.rails = true) (d : DieId) :
    execIdcode d s = .next ((s.setTap d { s.tap d with ir := 2 }).emit (.tdo d 32 idcode)) := by
  unfold execIdcode
  rw [State.onTap_on h]

theorem execUsercode_off (h : s.sys.rails = false) (d : DieId) : execUsercode d s = .next s := by
  unfold execUsercode
  rw [State.onTap_off h]

theorem execUsercode_on (h : s.sys.rails = true) (d : DieId) :
    execUsercode d s = .next ((s.setTap d { s.tap d with ir := 3 }).emit (.tdo d 32 (s.usercode d))) := by
  unfold execUsercode
  rw [State.onTap_on h]
  rfl

theorem execBypass_on (hon : s.sys.rails = true) (d : DieId) {code : BitVec 8} (hcode : code.toNat ∉ tapCodes) :
    execBypass d code s = .next ((s.setTap d { s.tap d with ir := code }).emit (.tdo d 1 0)) :=
  next_congr ((if_neg (mt List.contains_iff_mem.mp hcode)).trans (State.onTap_on hon ..))

theorem execBypass_off (hoff : s.sys.rails = false) (d : DieId) (code : BitVec 8) : execBypass d code s = .next s :=
  next_congr ((congrArg _ (State.onTap_off hoff ..)).trans (ite_self s))

theorem execTapReset_off (hoff : s.sys.rails = false) : execTapReset s = .next s := by
  simp only [execTapReset, allDies, List.foldl_cons, List.foldl_nil, State.onTap_off hoff]

/-- A die's TAP with IDCODE selected. -/
def State.tapIdle (s : State) (d : DieId) : State := s.setTap d { s.tap d with ir := 2 }

theorem State.ir_tapIdle (s : State) (d e : DieId) : ((s.tapIdle d).tap e).ir = if e = d then 2 else (s.tap e).ir := by
  rw [State.tapIdle, State.tap_setTap]
  split <;> rfl

theorem State.foldl_tapIdle (ds : List DieId) (s : State) :
    ds.foldl State.tapIdle s = { s with sys := { s.sys with taps := (ds.foldl State.tapIdle s).sys.taps } } := by
  induction ds generalizing s with
  | nil => rfl
  | cons d ds ih => exact (ih (s.tapIdle d)).trans rfl

theorem execTapReset_on (hon : s.sys.rails = true) : execTapReset s = .next (allDies.foldl State.tapIdle s) := by
  have idle (u : State) (hu : u.sys.rails = true) (d : DieId) : u.onTap d (fun t => { t with ir := 0x02 }) (fun s => s) = u.tapIdle d :=
    State.onTap_on hu ..
  simp only [execTapReset, allDies, List.foldl_cons, List.foldl_nil]
  rw [idle s hon, idle (s.tapIdle 0) hon, idle ((s.tapIdle 0).tapIdle 1) hon, idle (((s.tapIdle 0).tapIdle 1).tapIdle 2) hon]

/-! ### CCDBG (R527) -/

section
variable {a : Nat}

/-- Whether an address lies in the SEC_ block. -/
abbrev inSec (a : Nat) : Prop := 0x121000000000 ≤ a ∧ a < 0x121100000000

/-- The state once CCDBG has shifted the last access's data out and holds `x` for the next. -/
def State.debugged (s : State) (d : DieId) (x : Word) : State :=
  (s.setTap d { s.tap d with ir := 0x20, data := x }).emit (.tdo d 117 (s.tap d).data.toNat)

theorem State.ccdbg_off (h : s.sys.rails = false) (d : DieId) (w : Bool) (a : Nat) (v : Word) : s.ccdbg d w a v = s := by
  unfold State.ccdbg
  exact State.onTap_off h ..

theorem State.ccdbg_sec (hon : s.sys.rails = true) (hsec : inSec a) (d : DieId) (w : Bool) (v : Word) :
    s.ccdbg d w a v = s.debugged d (if w then (s.tap d).data else 0) := by
  simp [State.ccdbg, State.onTap_on hon, State.debugged, hsec]

theorem State.ccdbg_read (hon : s.sys.rails = true) (hsec : ¬ inSec a) (d : DieId) (v : Word) :
    s.ccdbg d false a v = (s.debugged d (BitVec.ofNat 64 (s.fwRead a))).regRead a (ccEp d) := by
  simp [State.ccdbg, State.onTap_on hon, State.debugged, hsec]

theorem State.ccdbg_write (hon : s.sys.rails = true) (hsec : ¬ inSec a) (d : DieId) (v : Word) :
    s.ccdbg d true a v = (s.debugged d (s.tap d).data).fwWrite d a v := by
  simp [State.ccdbg, State.onTap_on hon, State.debugged, hsec]
end
end

theorem idcode_fixed : idcode % 2 ^ 28 = 0x4F1ABBD := by
  unfold idcode
  omega

/-- Settles O54: each instruction by what it does to its die's TAP. -/
theorem testAccess : Obligations.TestAccess := by
  unfold Obligations.TestAccess
  intro d cells pins code a v w s len held put T sec
  refine ⟨fun hoff => ?off, fun hon => ?on, fun hon hheld => ?held, fun hon hheld => ?bypassed, fun hon => ?debug⟩
  case off =>
    have extest (ir : BitVec 8) (mode : Nat) := State.extest_off hoff d ir mode cells pins
    exact ⟨next_congr (extest 0 0), next_congr (State.preload_off hoff d cells pins), next_congr (extest 6 2), next_congr (extest 7 3),
      execIdcode_off hoff d, execUsercode_off hoff d, next_congr (State.holdPins_off hoff d 4 true),
      next_congr (State.holdPins_off hoff d 5 false), execBypass_off hoff d code, next_congr (State.ccdbg_off hoff d w a.toNat v), execTapReset_off hoff⟩
  case on =>
    refine ⟨next_congr (State.preload_on hon d cells pins), execIdcode_on hon d, idcode_fixed, execUsercode_on hon d,
      fun hcode => execBypass_on hon d hcode, _, execTapReset_on hon, fun e => ?_, State.foldl_tapIdle allDies s⟩
    have dies : e = 0 ∨ e = 1 ∨ e = 2 ∨ e = 3 := by revert e; decide
    simp only [allDies, List.foldl_cons, List.foldl_nil, State.ir_tapIdle]
    obtain rfl | rfl | rfl | rfl := dies <;> rfl
  case held =>
    have extest (ir : BitVec 8) (mode : Nat) := State.extest_held hon hheld d ir mode cells pins
    refine ⟨?_, ?_, ?_, ?_, ?_⟩
    · exact next_congr (extest 0 0)
    · exact next_congr (extest 6 2)
    · exact next_congr (extest 7 3)
    · exact next_congr (State.holdPins_high hon hheld d 4)
    · exact next_congr (State.holdPins_clamp hon hheld d 5)
  case bypassed =>
    have extest (ir : BitVec 8) (mode : Nat) := State.extest_bypassed hon hheld d ir mode cells pins
    exact ⟨next_congr (extest 0 0), next_congr (extest 6 2), next_congr (extest 7 3), next_congr (State.holdPins_bypassed hon hheld d 4 true),
      next_congr (State.holdPins_bypassed hon hheld d 5 false)⟩
  case debug =>
    intro u
    refine ⟨fun hsec => ?sec, fun hsec => ?plain⟩
    case sec =>
      have hin : inSec a.toNat := of_decide_eq_true hsec
      exact ⟨next_congr (State.ccdbg_sec hon hin d false v), next_congr (State.ccdbg_sec hon hin d true v)⟩
    case plain =>
      have hout : ¬ inSec a.toNat := of_decide_eq_false hsec
      exact ⟨next_congr (State.ccdbg_read hon hout d v), next_congr (State.ccdbg_write hon hout d v)⟩

end Sys2Proof.Machine
end

section
/-!
PROOF. The SPDM responder, DOE and the CDAT (R427, R486 to R488).
-/
namespace Sys2Proof

/-! ### A digest's length -/

/-- The round of SM3 that a block's compression repeats keeps the eight words eight. -/
theorem sm3Block_length {v : List (BitVec 32)} (hv : v.length = 8) (blk : List Byte) : (sm3Block v blk).length = 8 := by
  unfold sm3Block
  rw [List.length_map, List.length_zip, hv]
  refine (congrArg (min 8) (?_ : _ = 8)).trans (Nat.min_self 8)
  refine List.foldlRecOn (motive := fun (r : List (BitVec 32)) => r.length = 8) _ _ hv fun r hr j _ => ?_
  match r, hr with
  | [a, b, c, d, e, f, g, h], _ => rfl

theorem sm3_length (bs : List Byte) : (sm3 bs).length = 32 := by
  have words : ((List.range ((sm3Pad bs).length / 64)).foldl (fun v i => sm3Block v (((sm3Pad bs).drop (64 * i)).take 64))
      [0x7380166F, 0x4914B2B9, 0x172442D7, 0xDA8A0600, 0xA96F30BC, 0x163138AA, 0xE38DEE4D, 0xB0FB0E4E]).length = 8 :=
    List.foldlRecOn (motive := fun (v : List (BitVec 32)) => v.length = 8) _ _ rfl fun _ hv _ _ => sm3Block_length hv _
  simp only [sm3, List.length_flatMap, List.length_map, List.length_range, List.map_const', List.sum_replicate, words]
  rfl

end Sys2Proof

namespace Sys2Proof.Machine

section
variable {s : State}

/-! ### When the responder answers (R487) -/

theorem State.spdmAt_silent (h : s.responds = false) (need : Nat) (act : State → State) : s.spdmAt need act = s := by
  simp [State.spdmAt, h]

/-- UnexpectedRequest. -/
theorem State.spdmAt_early (h : s.responds = true) {need : Nat} (hearly : s.sys.spdm < need) (act : State → State) :
    s.spdmAt need act = s.spdmError 4 := by
  simp [State.spdmAt, h, hearly]

theorem State.spdmAt_ready (h : s.responds = true) {need : Nat} (hready : need ≤ s.sys.spdm) (act : State → State) :
    s.spdmAt need act = act s := by
  simp [State.spdmAt, h, Nat.not_lt.mpr hready]

theorem State.inSession_closed (h : s.responds = true) (hready : 4 ≤ s.sys.spdm) {id : Nat}
    (hclosed : s.sys.sessions.any (fun x => x.id == id && x.established) = false) (act : State → State) :
    s.inSession id act = s.spdmError 2 := by
  rw [State.inSession, State.spdmAt_ready h hready, hclosed]
  rfl

theorem State.inSession_open (h : s.responds = true) (hready : 4 ≤ s.sys.spdm) {id : Nat}
    (hopen : s.sys.sessions.any (fun x => x.id == id && x.established) = true) (act : State → State) :
    s.inSession id act = act s := by
  rw [State.inSession, State.spdmAt_ready h hready, hopen]
  rfl

/-- R486: no signature with a chain that does not match the key. -/
theorem State.signing_bad (hbad : s.bit SEC_STATUS SEC_STATUS.CHAIN_BAD = true) (act : State → State) :
    s.signing act = s.spdmError 0x60 := if_pos hbad

theorem State.signing_good (hgood : s.bit SEC_STATUS SEC_STATUS.CHAIN_BAD = false) (act : State → State) : s.signing act = act s :=
  if_neg (ne_true_of_eq_false hgood)

/-! ### The requests once they may come -/

section
variable (h : s.responds = true)
include h

theorem State.spdmAlgorithms_both (hready : 2 ≤ s.sys.spdm) (kex aead : Bool) : s.spdmAlgorithms true true kex aead =
    (s.modSys fun y => { y with spdm := if kex ∧ aead then 4 else 3 }).emit
      (.host 15 [0x63, 1, 1, if kex then 1 else 0, if aead then 1 else 0]) := by
  rw [State.spdmAlgorithms, State.spdmAt_ready h hready]
  rfl

theorem State.spdmAlgorithms_refused (hready : 2 ≤ s.sys.spdm) {sign hash : Bool} (hoffer : sign = false ∨ hash = false)
    (kex aead : Bool) : s.spdmAlgorithms sign hash kex aead = s.spdmError 1 := by
  rw [State.spdmAlgorithms, State.spdmAt_ready h hready]
  exact if_pos (by simpa using hoffer)

theorem State.spdmCertificate_slot (hready : 3 ≤ s.sys.spdm) {slot : Nat} (hslot : slot ≠ 0) (off len : Nat) :
    s.spdmCertificate slot off len = s.spdmError 1 := by
  rw [State.spdmCertificate, State.spdmAt_ready h hready]
  exact if_pos (.inl hslot)

theorem State.spdmCertificate_part (hready : 3 ≤ s.sys.spdm) {off : Nat} (hoff : off < chainBytes.length) (len : Nat) :
    s.spdmCertificate 0 off len = s.spdmAnswer 0x02 (((chainBytes.drop off).take len).length ::
      (chainBytes.length - off - ((chainBytes.drop off).take len).length) :: wordsOf ((chainBytes.drop off).take len)) := by
  rw [State.spdmCertificate, State.spdmAt_ready h hready]
  exact if_neg (by omega)

theorem State.spdmChallenge_slot (hready : 3 ≤ s.sys.spdm) {slot : Nat} (hslot : slot ≠ 0) (nonce : BitVec 256) :
    s.spdmChallenge slot nonce = s.spdmError 1 := by
  rw [State.spdmChallenge, State.spdmAt_ready h hready]
  exact if_pos hslot

/-- The answer of CHALLENGE in slot 0: the chain's digest is its first 32 bytes. -/
theorem State.spdmChallenge_signed (hready : 3 ≤ s.sys.spdm) (nonce : BitVec 256) : ∃ rest : State → List Byte,
    s.spdmChallenge 0 nonce = s.signing fun s => (s.takeBytes 32).2.spdmAnswer 0x03 (wordsOf (sm3 chainBytes ++ rest s)) := by
  refine ⟨fun s => (s.takeBytes 32).1 ++ signed (toLe 32 nonce.toNat ++ (sm3 chainBytes ++ (s.takeBytes 32).1)), ?_⟩
  rw [State.spdmChallenge, State.spdmAt_ready h hready]
  simp only [← List.append_assoc]
  rfl

theorem State.spdmMeasurements_busy (hready : 3 ≤ s.sys.spdm) (hstep : s.sys.step ≠ 13) (op : Nat) (sign : Bool) (nonce : BitVec 256) :
    s.spdmMeasurements op sign nonce = s.spdmError 3 := by
  rw [State.spdmMeasurements, State.spdmAt_ready h hready]
  exact if_pos hstep

theorem State.spdmMeasurements_bad (hready : 3 ≤ s.sys.spdm) (hstep : s.sys.step = 13) {op : Nat} (hop : op ≤ 7)
    (hbad : s.bit SEC_STATUS SEC_STATUS.CHAIN_BAD = true) (nonce : BitVec 256) :
    s.spdmMeasurements op true nonce = s.spdmError 0x60 := by
  rw [State.spdmMeasurements, State.spdmAt_ready h hready, if_neg (not_not.mpr hstep), if_neg (by omega)]
  exact (if_pos rfl).trans (State.signing_bad hbad _)

theorem State.spdmMeasurements_number (hready : 3 ≤ s.sys.spdm) (hstep : s.sys.step = 13) (nonce : BitVec 256) :
    s.spdmMeasurements 0 false nonce = s.spdmAnswer 0x60 [7] := by
  rw [State.spdmMeasurements, State.spdmAt_ready h hready, if_neg (not_not.mpr hstep)]
  rfl

theorem State.spdmMeasurements_one (hready : 3 ≤ s.sys.spdm) (hstep : s.sys.step = 13) {op : Nat} (hlo : 1 ≤ op) (hhi : op ≤ 7)
    (nonce : BitVec 256) :
    s.spdmMeasurements op false nonce = s.spdmAnswer 0x60 (1 :: wordsOf (toLe 1 op ++ s.measurement op)) := by
  rw [State.spdmMeasurements, State.spdmAt_ready h hready, if_neg (not_not.mpr hstep), if_neg (by omega)]
  simp [show op ≠ 0 by omega, show op ≠ 0xFF by omega]

theorem State.spdmKeyExchange_slot (hready : 4 ≤ s.sys.spdm) {slot : Nat} (hslot : slot ≠ 0) (key : BitVec 512) :
    s.spdmKeyExchange slot key = s.spdmError 1 := by
  rw [State.spdmKeyExchange, State.spdmAt_ready h hready]
  exact if_pos hslot

theorem State.spdmKeyExchange_full (hready : 4 ≤ s.sys.spdm) (hfull : 4 ≤ s.sys.sessions.length) (key : BitVec 512) :
    s.spdmKeyExchange 0 key = s.spdmError 0x0A := by
  rw [State.spdmKeyExchange, State.spdmAt_ready h hready]
  exact (if_neg (by decide)).trans (if_pos hfull)

theorem State.spdmKeyExchange_opens (hready : 4 ≤ s.sys.spdm) (hroom : s.sys.sessions.length < 4)
    (hgood : s.bit SEC_STATUS SEC_STATUS.CHAIN_BAD = false) (key : BitVec 512) :
    (s.spdmKeyExchange 0 key).sys.sessions = s.sys.sessions ++ [{ id := s.sys.nextSession }] ∧
      (s.spdmKeyExchange 0 key).mem = s.mem ∧ (s.spdmKeyExchange 0 key).regs = s.regs := by
  rw [State.spdmKeyExchange, State.spdmAt_ready h hready, if_neg (by decide), if_neg (by omega), State.signing_good hgood]
  exact ⟨rfl, rfl, rfl⟩

theorem State.spdmFinish_proved (hready : 4 ≤ s.sys.spdm) {id : Nat}
    (hopening : s.sys.sessions.any (fun x => x.id == id && !x.established) = true) : s.spdmFinish id true =
      (s.modSys fun y => { y with sessions := y.sessions.map fun x => if x.id = id then { x with established := true } else x }).spdmAnswer
        0x65 [id] := by
  rw [State.spdmFinish, State.spdmAt_ready h hready, hopening]
  rfl

theorem State.spdmFinish_failed (hready : 4 ≤ s.sys.spdm) {id : Nat}
    (hopening : s.sys.sessions.any (fun x => x.id == id && !x.established) = true) : s.spdmFinish id false =
      (s.modSys fun y => { y with sessions := y.sessions.filter fun x => x.id != id }).spdmError 6 := by
  rw [State.spdmFinish, State.spdmAt_ready h hready, hopening]
  rfl

/-! ### DOE and the CDAT (R427) -/

theorem execDoeDiscovery_some {inst : Bool} {index : BitVec 8} {v t next : Nat} (hat : (doeProtocols inst)[index.toNat]? = some (v, t))
    (hnext : (if index.toNat + 1 < (doeProtocols inst).length then index.toNat + 1 else 0) = next) :
    execDoeDiscovery inst index s = .next (s.emit (.host 13 [v, t, next])) := by
  simp [execDoeDiscovery, h, hat, hnext]

theorem execDoeDiscovery_past {index : BitVec 8} (hpast : 3 ≤ index.toNat) (inst : Bool) :
    execDoeDiscovery inst index s = .next (s.emit (.host 13 [0xFFFF, 0xFF, 0])) := by
  have none : (doeProtocols inst)[index.toNat]? = none := by
    rw [List.getElem?_eq_none]
    cases inst
    · exact Nat.le_of_succ_le hpast
    · exact hpast
  simp [execDoeDiscovery, h, none]

theorem execCdatRead_some {entry : BitVec 16} {next : Nat} {ws : List Nat} (hat : s.cdat[entry.toNat]? = some ws)
    (hnext : (if entry.toNat + 1 < s.cdat.length then entry.toNat + 1 else 0xFFFF) = next) :
    execCdatRead entry s = .next (s.emit (.host 14 (next :: ws))) := by
  simp [execCdatRead, h, hat, hnext]

theorem execCdatRead_past {entry : BitVec 16} (hpast : 4 ≤ entry.toNat) : execCdatRead entry s = .next s := by
  have none : s.cdat[entry.toNat]? = none := List.getElem?_eq_none hpast
  simp [execCdatRead, h, none]
end
end

theorem toNat_ne_zero {n : Nat} {x : BitVec n} (h : x ≠ 0) : x.toNat ≠ 0 := fun h0 => h (BitVec.eq_of_toNat_eq (by simpa using h0))

/-- Settles O55: each request by the case it stands in, of `spdmAt`, `signing` and `inSession`. -/
theorem attestation : Obligations.Attestation := by
  unfold Obligations.Attestation
  intro flags id slot op index off len entry nonce key sign hash kex aead inst ok s bad deny at_ open_
  refine ⟨fun hr => ?silent, fun hr => ?order, fun hr hready => ?chain, fun hr hready => ?sessions, fun hr => ?tables⟩
  case silent =>
    have at' (need : Nat) (act : State → State) : s.spdmAt need act = s := State.spdmAt_silent hr need act
    have quiet : (!s.responds) = true := by rw [hr]; rfl
    exact ⟨next_congr (if_neg (ne_true_of_eq_false hr)), next_congr (at' ..), next_congr (at' ..), next_congr (at' ..), next_congr (at' ..),
      next_congr (at' ..), next_congr (at' ..), next_congr (at' ..), next_congr (at' ..), next_congr (at' ..), next_congr (at' ..),
      next_congr (at' ..), next_congr (if_pos quiet), next_congr (if_pos quiet)⟩
  case order =>
    have early {need : Nat} (hearly : s.sys.spdm < need) (act : State → State) := State.spdmAt_early hr hearly act
    refine ⟨next_congr (if_pos hr), fun h => next_congr (early h _), fun h => next_congr (State.spdmAt_ready hr h _),
      fun h => next_congr (early h _), fun h hsign hhash => ?_, fun h hoffer => next_congr (State.spdmAlgorithms_refused hr h hoffer kex aead),
      fun h => ⟨next_congr (early h _), next_congr (early h _), next_congr (early h _), next_congr (early h _)⟩,
      fun h => ⟨next_congr (early h _), next_congr (early h _), next_congr (early h _)⟩⟩
    subst hsign hhash
    exact next_congr (State.spdmAlgorithms_both hr h kex aead)
  case chain =>
    refine ⟨next_congr (State.spdmAt_ready hr hready _), fun h => ⟨?_, ?_⟩, fun h => ?_, fun hbad => ?_, fun hgood => ?_, fun hstep => ?_,
      fun hstep hlo hhi => ?_, fun hstep => ?_, fun hstep hbad hop => ?_⟩
    · exact next_congr (State.spdmCertificate_slot hr hready (toNat_ne_zero h) ..)
    · exact next_congr (State.spdmChallenge_slot hr hready (toNat_ne_zero h) nonce)
    · exact next_congr (State.spdmCertificate_part hr hready h len.toNat)
    · obtain ⟨rest, answer⟩ := State.spdmChallenge_signed hr hready nonce
      exact next_congr (answer.trans (State.signing_bad hbad _))
    · obtain ⟨rest, answer⟩ := State.spdmChallenge_signed hr hready nonce
      refine ⟨_, wordsOf (sm3 chainBytes ++ rest s), next_congr (answer.trans (State.signing_good hgood _)), rfl, ?_, rfl⟩
      rw [wordsOf, List.map_append, List.take_left' (by rw [List.length_map, sm3_length])]
    · exact next_congr (State.spdmMeasurements_busy hr hready hstep ..)
    · exact next_congr (State.spdmMeasurements_one hr hready hstep hlo hhi nonce)
    · exact next_congr (State.spdmMeasurements_number hr hready hstep nonce)
    · exact next_congr (State.spdmMeasurements_bad hr hready hstep hop hbad nonce)
  case sessions =>
    refine ⟨fun h => ?_, fun h => ?_, fun hroom hgood => ?_, fun h => ⟨?_, ?_⟩, fun h => ?_, fun h => ?_⟩
    · exact next_congr (State.spdmKeyExchange_slot hr hready (toNat_ne_zero h) key)
    · exact next_congr (State.spdmKeyExchange_full hr hready h key)
    · exact ⟨_, rfl, State.spdmKeyExchange_opens hr hready hroom hgood key⟩
    · exact next_congr (State.spdmFinish_proved hr hready h)
    · exact next_congr (State.spdmFinish_failed hr hready h)
    · have closed (act : State → State) := State.inSession_closed hr hready h act
      exact ⟨next_congr (closed _), next_congr (closed _), next_congr (closed _)⟩
    · have opened (act : State → State) := State.inSession_open hr hready h act
      exact ⟨next_congr (opened _), ⟨_, next_congr (opened _), rfl, rfl⟩, _, next_congr (opened _), rfl, rfl⟩
  case tables =>
    exact ⟨fun h => execDoeDiscovery_past hr h inst, execDoeDiscovery_some hr (inst := false) (index := 0) rfl rfl,
      execDoeDiscovery_some hr (inst := false) (index := 1) rfl rfl, execDoeDiscovery_some hr (inst := true) (index := 1) rfl rfl,
      execDoeDiscovery_some hr (inst := true) (index := 2) rfl rfl, execCdatRead_some hr (entry := 0) rfl rfl,
      execCdatRead_some hr (entry := 1) rfl rfl, execCdatRead_some hr (entry := 2) rfl rfl, execCdatRead_some hr (entry := 3) rfl rfl,
      fun h => execCdatRead_past hr h⟩

end Sys2Proof.Machine
end

section
/-!
PROOF. Mailboxes and doorbells (R460 to R466).
-/
namespace Sys2Proof

/-- A field put twice holds the second value. -/
theorem Fld.put_put (f : Fld) (w : Word) (v u : Nat) (hf : f.lo + f.len ≤ 64) : f.put (f.put w v) u = f.put w u := by
  refine BitVec.eq_of_toNat_eq (Nat.eq_of_testBit_eq fun i => ?_)
  rw [Fld.put_testBit _ _ _ _ hf, Fld.put_testBit _ _ _ _ hf, Fld.put_testBit _ _ _ _ hf]
  split_ifs <;> rfl

end Sys2Proof

namespace Sys2Proof.Machine

/-! ### A state that differs in registers and in what has been put out -/

/-- Nothing but registers and the messages put out has changed. -/
def State.RegsOut (s t : State) : Prop := t = { s with regs := t.regs, out := t.out }

theorem State.RegsOut.refl (s : State) : s.RegsOut s := rfl

theorem State.RegsOut.trans {s t u : State} (hst : s.RegsOut t) (htu : t.RegsOut u) : s.RegsOut u :=
  Eq.trans htu (congrArg (fun x : State => { x with regs := u.regs, out := u.out }) hst)

theorem State.RegsOut.ite {s t u : State} {p : Prop} [Decidable p] (ht : s.RegsOut t) (hu : s.RegsOut u) :
    s.RegsOut (if p then t else u) := by
  split
  · exact ht
  · exact hu

theorem State.regsOut_wr (s : State) (a : Nat) (v : Word) : s.RegsOut (s.wr a v) := rfl
theorem State.regsOut_setFld (s : State) (a : Nat) (f : Fld) (v : Nat) : s.RegsOut (s.setFld a f v) := rfl
theorem State.regsOut_emit (s : State) (o : Out) : s.RegsOut (s.emit o) := rfl

theorem State.regsOut_msix (s : State) (v : Nat) : s.RegsOut (s.msix v) :=
  .ite (s.regsOut_emit _) (s.regsOut_wr ..)

/-! ### Doorbells (R465) -/

section
variable (s : State)

theorem State.regsOut_hostDb (bits : Word) : s.RegsOut (s.hostDb bits) :=
  (s.regsOut_wr ..).trans (.ite (State.regsOut_msix _ 64) (.refl _))

theorem State.regsOut_fwDb (bits : Word) : s.RegsOut (s.fwDb bits) :=
  (s.regsOut_wr ..).trans (.ite (State.regsOut_emit ..) (.refl _))

theorem State.rd_hostDb (bits : Word) {x : Nat} (hx : x < 2 ^ 53) :
    (s.hostDb bits).rd x = if x = MBX_HOST_DB then s.rd MBX_HOST_DB ||| bits else s.rd x := by
  rw [← State.rd_wr]
  unfold State.hostDb
  dsimp only
  split
  · exact State.rd_msix _ 64 hx
  · rfl

theorem State.rd_fwDb (bits : Word) (x : Nat) :
    (s.fwDb bits).rd x = if x = MBX_FW_DB then s.rd MBX_FW_DB ||| bits else s.rd x := by
  rw [← State.rd_wr]
  unfold State.fwDb
  dsimp only
  split <;> rfl

/-- The doorbells of the receiver of a direction. -/
def dbOf (h2f : Bool) : Nat := if h2f then MBX_FW_DB else MBX_HOST_DB

theorem State.regsOut_ringFor (h2f : Bool) (bits : Word) : s.RegsOut (s.ringFor h2f bits) :=
  .ite (s.regsOut_fwDb bits) (s.regsOut_hostDb bits)

theorem State.rd_ringFor (h2f : Bool) (bits : Word) {x : Nat} (hx : x < 2 ^ 53) :
    (s.ringFor h2f bits).rd x = if x = dbOf h2f then s.rd (dbOf h2f) ||| bits else s.rd x := by
  cases h2f
  · exact s.rd_hostDb bits hx
  · exact s.rd_fwDb bits x

theorem State.out_msix_length (v : Nat) : (s.msix v).out.length ≤ s.out.length + 1 := by
  unfold State.msix State.emit
  split
  · exact (List.length_append ..).le
  · exact Nat.le_succ _

/-- A ring signals the receiver at most once. -/
theorem State.out_ringFor_length (h2f : Bool) (bits : Word) : (s.ringFor h2f bits).out.length ≤ s.out.length + 1 := by
  cases h2f
  · simp only [State.ringFor, State.hostDb, Bool.false_eq_true, if_false]
    split
    · exact State.out_msix_length _ 64
    · exact Nat.le_succ _
  · simp only [State.ringFor, State.fwDb, if_true]
    split
    · exact (List.length_append ..).le
    · exact Nat.le_succ _
end

/-! ### The send registers -/

/-- The 32 send registers lie one after the other. -/
theorem mbxSend_eq (h2f : Bool) (n : Nat) : mbxSend h2f n = 0x120e00002000 + 8 * (n + if h2f then 0 else 16) := by
  cases h2f <;> simp only [mbxSend, MBX_H2F_SEND, MBX_F2H_SEND, Bool.false_eq_true, if_false, if_true] <;> omega

theorem mbxSend_lt (h2f : Bool) {n : Nat} (hn : n < 16) : mbxSend h2f n < MBX_STATUS := by
  rw [mbxSend_eq]
  unfold MBX_STATUS
  split <;> omega

theorem mbxSend_inj {h2f h2f' : Bool} {n k : Nat} (hn : n < 16) (hk : k < 16) (h : mbxSend h2f n = mbxSend h2f' k) : h2f = h2f' ∧ n = k := by
  rw [mbxSend_eq, mbxSend_eq] at h
  cases h2f <;> cases h2f' <;> simp at h ⊢ <;> omega

theorem mbxSend_ne_dbOf (h2f h2f' : Bool) {n : Nat} (hn : n < 16) : mbxSend h2f n ≠ dbOf h2f' :=
  ((mbxSend_lt h2f hn).trans (by cases h2f' <;> decide)).ne

/-! ### The doorbell of a send or a release (R460, R461) -/

section
variable (s : State) (h2f : Bool)

theorem State.regsOut_mbxRing (db : Nat) : s.RegsOut (s.mbxRing h2f db) :=
  .ite (s.regsOut_setFld ..) (s.regsOut_ringFor h2f _)

/-- Ringing touches the receiver's doorbells, and DBERR for doorbell 31. -/
theorem State.rd_mbxRing_other (db : Nat) {x : Nat} (hx : x < 2 ^ 53) (hdb : x ≠ dbOf h2f) (hst : x ≠ MBX_STATUS) :
    (s.mbxRing h2f db).rd x = s.rd x := by
  unfold State.mbxRing
  split
  · exact State.rd_setFld_other _ _ _ hst
  · rw [State.rd_ringFor _ _ _ hx, if_neg hdb]

theorem State.rd_mbxRing_send (db : Nat) (h' : Bool) {n : Nat} (hn : n < 16) :
    (s.mbxRing h2f db).rd (mbxSend h' n) = s.rd (mbxSend h' n) :=
  s.rd_mbxRing_other h2f db ((mbxSend_lt h' hn).trans (by decide)) (mbxSend_ne_dbOf h' h2f hn) (mbxSend_lt h' hn).ne

theorem State.rd_mbxRing_db {db : Nat} (hdb : db ≤ 31) :
    (s.mbxRing h2f db).rd (dbOf h2f) = s.rd (dbOf h2f) ||| (if db < 31 then 1 <<< db else 0) := by
  have ne : dbOf h2f ≠ MBX_STATUS := by cases h2f <;> decide
  have lt : dbOf h2f < 2 ^ 53 := by cases h2f <;> decide
  unfold State.mbxRing
  split
  case isTrue h => rw [State.rd_setFld_other _ _ _ ne, if_neg (by omega)]; exact (BitVec.or_zero).symm
  case isFalse h => rw [State.rd_ringFor _ _ _ lt, if_pos rfl, if_pos (by omega)]

theorem State.lenClamp_mbxRing (db : Nat) :
    (s.mbxRing h2f db).bit MBX_STATUS MBX_STATUS.LENCLAMP = s.bit MBX_STATUS MBX_STATUS.LENCLAMP := by
  have ne : MBX_STATUS ≠ dbOf h2f := by cases h2f <;> decide
  unfold State.mbxRing State.bit State.fld
  split
  · rw [State.rd_setFld_same, Fld.get_put_other _ _ _ _ (by decide) (by decide)]
  · rw [State.rd_ringFor _ _ _ (by decide), if_neg ne]

theorem State.out_mbxRing_length (db : Nat) : (s.mbxRing h2f db).out.length ≤ s.out.length + 1 := by
  unfold State.mbxRing
  split
  · exact Nat.le_succ _
  · exact s.out_ringFor_length h2f _
end

/-! ### Rejections (R463, R464) -/

/-- Every send register is as it was but for RESULT. -/
def State.SameBoxes (s t : State) : Prop := ∀ (h2f : Bool) (k : Nat), k < 16 →
  MBX_H2F_SEND.RESULT.put (t.rd (mbxSend h2f k)) 0 = MBX_H2F_SEND.RESULT.put (s.rd (mbxSend h2f k)) 0

section
variable (s : State)

theorem State.fld_mbxResult (h2f : Bool) (n r x : Nat) : (s.mbxResult h2f n r).fld x MBX_H2F_SEND.RESULT =
    if x = mbxSend h2f n then r % 8 else s.fld x MBX_H2F_SEND.RESULT := by
  unfold State.mbxResult State.fld
  split
  case isTrue h => rw [h, State.rd_setFld_same, Fld.get_put _ _ _ (by decide)]; rfl
  case isFalse h => rw [State.rd_setFld_other _ _ _ h]

theorem State.sameBoxes_mbxResult (h2f : Bool) (n r : Nat) : s.SameBoxes (s.mbxResult h2f n r) := by
  intro h k _
  unfold State.mbxResult
  by_cases hx : mbxSend h k = mbxSend h2f n
  · rw [hx, State.rd_setFld_same, Fld.put_put _ _ _ _ (by decide)]
  · rw [State.rd_setFld_other _ _ _ hx]

theorem State.SameBoxes.trans {s t u : State} (hst : s.SameBoxes t) (htu : t.SameBoxes u) : s.SameBoxes u :=
  fun h k hk => (htu h k hk).trans (hst h k hk)

theorem State.regsOut_mbxReject (host : Bool) (off : Nat) : s.RegsOut (s.mbxReject host off) :=
  .ite rfl rfl

theorem State.rd_mbxReject (host : Bool) (off x : Nat) : (s.mbxReject host off).rd x = (s.bump MBX_REJECTS).rd x := by
  unfold State.mbxReject
  split <;> rfl

theorem State.rd_mbxReject_send (host : Bool) (off : Nat) (h2f : Bool) {n : Nat} (hn : n < 16) :
    (s.mbxReject host off).rd (mbxSend h2f n) = s.rd (mbxSend h2f n) := by
  rw [State.rd_mbxReject]
  exact State.rd_bump_other _ _ ((mbxSend_lt h2f hn).trans (by decide)).ne

/-- What a rejection leaves: the send registers but for RESULT, one count more. -/
structure State.Rejects (s t : State) : Prop where
  counted : t.rd MBX_REJECTS = BitVec.ofNat 64 (((s.rd MBX_REJECTS).toNat + 1) % 2 ^ 48)
  boxes : s.SameBoxes t
  rest : s.RegsOut t

/-- What setting RESULT fields leaves. -/
structure State.Results (s t : State) : Prop where
  rejects : t.rd MBX_REJECTS = s.rd MBX_REJECTS
  boxes : s.SameBoxes t
  rest : s.RegsOut t

theorem State.results_mbxResult (h2f : Bool) {n : Nat} (hn : n < 16) (r : Nat) : s.Results (s.mbxResult h2f n r) where
  rejects := State.rd_setFld_other _ _ _ ((mbxSend_lt h2f hn).trans (by decide)).ne'
  boxes := s.sameBoxes_mbxResult h2f n r
  rest := rfl

theorem State.Results.trans {s t u : State} (hst : s.Results t) (htu : t.Results u) : s.Results u where
  rejects := htu.rejects.trans hst.rejects
  boxes := hst.boxes.trans htu.boxes
  rest := hst.rest.trans htu.rest

theorem State.Results.reject {s t : State} (h : s.Results t) (host : Bool) (off : Nat) : s.Rejects (t.mbxReject host off) where
  counted := by rw [State.rd_mbxReject, State.rd_bump_same, h.rejects]
  boxes := h.boxes.trans fun h2f k hk => by rw [State.rd_mbxReject_send _ _ _ _ hk]
  rest := h.rest.trans (State.regsOut_mbxReject ..)
end

/-! ### Sends (R460) -/

/-- A send register once a send has filled its mailbox. -/
def sentWord (w v : Word) : Word :=
  MBX_H2F_SEND.SEQ.put (MBX_H2F_SEND.RESULT.put (MBX_H2F_SEND.OWNER.put (MBX_H2F_SEND.DB.put
    (MBX_H2F_SEND.LEN.put w (max 1 (min 256 (MBX_H2F_SEND.LEN.get v)))) (MBX_H2F_SEND.DB.get v)) 1) 1) (MBX_H2F_SEND.SEQ.get w + 1)

theorem sentWord_fields (w v : Word) : MBX_H2F_SEND.OWNER.get (sentWord w v) = 1 ∧
    MBX_H2F_SEND.LEN.get (sentWord w v) = max 1 (min 256 (MBX_H2F_SEND.LEN.get v)) ∧
    MBX_H2F_SEND.DB.get (sentWord w v) = MBX_H2F_SEND.DB.get v ∧ MBX_H2F_SEND.RESULT.get (sentWord w v) = 1 ∧
    MBX_H2F_SEND.SEQ.get (sentWord w v) = (MBX_H2F_SEND.SEQ.get w + 1) % 256 := by
  have len : max 1 (min 256 (MBX_H2F_SEND.LEN.get v)) < 512 := by omega
  have db : MBX_H2F_SEND.DB.get v < 32 := Nat.mod_lt _ (by decide)
  simp (disch := decide) only [sentWord, Fld.get_put_other, Fld.get_put]
  exact ⟨rfl, Nat.mod_eq_of_lt len, Nat.mod_eq_of_lt db, rfl, rfl⟩

/-- The state of a send before its doorbell rings. -/
def State.sent (s : State) (h2f : Bool) (n : Nat) (v : Word) : State :=
  (if max 1 (min 256 (MBX_H2F_SEND.LEN.get v)) = MBX_H2F_SEND.LEN.get v then s else s.setFld MBX_STATUS MBX_STATUS.LENCLAMP 1).wr
    (mbxSend h2f n) (sentWord (s.rd (mbxSend h2f n)) v)

section
variable {s : State} {h2f : Bool} {n : Nat}

theorem State.wr_wr (s : State) (a : Nat) (v w : Word) : (s.wr a v).wr a w = s.wr a w := by
  unfold State.wr
  rw [Tab.set_set]

/-- The fields that a send sets, one after the other, as one write. -/
theorem State.setFlds_send (u : State) (a len db : Nat) :
    let t := (((u.setFld a MBX_H2F_SEND.LEN len).setFld a MBX_H2F_SEND.DB db).setFld a MBX_H2F_SEND.OWNER 1).setFld a MBX_H2F_SEND.RESULT 1
    t.setFld a MBX_H2F_SEND.SEQ (t.fld a MBX_H2F_SEND.SEQ + 1) = u.wr a (MBX_H2F_SEND.SEQ.put (MBX_H2F_SEND.RESULT.put
      (MBX_H2F_SEND.OWNER.put (MBX_H2F_SEND.DB.put (MBX_H2F_SEND.LEN.put (u.rd a) len) db) 1) 1) (MBX_H2F_SEND.SEQ.get (u.rd a) + 1)) := by
  simp (disch := decide) only [State.setFld, State.fld, State.wr_wr, State.rd_wr_same, Fld.get_put_other]

theorem State.mbxSendOp_sends (hn : n < 16) (hempty : s.mbxFull h2f n = false) (hup : s.mbxDown h2f = false) (v : Word) :
    s.mbxSendOp h2f n v = (s.sent h2f n v).mbxRing h2f (MBX_H2F_SEND.DB.get v) := by
  have clamp : (if max 1 (min 256 (MBX_H2F_SEND.LEN.get v)) = MBX_H2F_SEND.LEN.get v then s
      else s.setFld MBX_STATUS MBX_STATUS.LENCLAMP 1).rd (mbxSend h2f n) = s.rd (mbxSend h2f n) := by
    split
    · rfl
    · exact State.rd_setFld_other _ _ _ (mbxSend_lt h2f hn).ne
  unfold State.mbxSendOp
  rw [hempty, hup]
  refine congrArg (State.mbxRing · h2f _) ((State.setFlds_send ..).trans ?_)
  rw [clamp]
  rfl

theorem State.rd_sent_other {x : Nat} (hx : x ≠ mbxSend h2f n) (hst : x ≠ MBX_STATUS) (v : Word) : (s.sent h2f n v).rd x = s.rd x := by
  unfold State.sent
  rw [State.rd_wr_other _ _ hx]
  split
  · rfl
  · exact State.rd_setFld_other _ _ _ hst

theorem State.regsOut_sent (s : State) (h2f : Bool) (n : Nat) (v : Word) : s.RegsOut (s.sent h2f n v) :=
  (State.RegsOut.ite (.refl s) (s.regsOut_setFld ..)).trans (State.regsOut_wr ..)

theorem State.lenClamp_sent (hn : n < 16) {v : Word} (hlen : MBX_H2F_SEND.LEN.get v = 0 ∨ 256 < MBX_H2F_SEND.LEN.get v) :
    (s.sent h2f n v).bit MBX_STATUS MBX_STATUS.LENCLAMP = true := by
  unfold State.sent State.bit State.fld
  rw [State.rd_wr_other _ _ (mbxSend_lt h2f hn).ne', if_neg (by omega), State.rd_setFld_same, Fld.get_put _ _ _ (by decide)]
  rfl

theorem getLsbD_or_one_shiftLeft (w : Word) {i : Nat} (hi : i < 64) : (w ||| ((1 <<< i : Nat) : Word)).getLsbD i = true := by
  have bit : ((1 <<< i : Nat) : Word).getLsbD i = true := by
    rw [BitVec.natCast_eq_ofNat, BitVec.getLsbD_ofNat, Nat.one_shiftLeft, Nat.testBit_two_pow_self, decide_eq_true hi, Bool.true_and]
  rw [BitVec.getLsbD_or, bit, Bool.or_true]

/-- What a send that fills its mailbox leaves. -/
theorem State.mbxSendOp_fills (hn : n < 16) (hempty : s.mbxFull h2f n = false) (hup : s.mbxDown h2f = false) (v : Word) :
    let a := mbxSend h2f n
    let len := MBX_H2F_SEND.LEN.get v
    let db := MBX_H2F_SEND.DB.get v
    let t := s.mbxSendOp h2f n v
    t.mbxFull h2f n = true ∧ t.fld a MBX_H2F_SEND.LEN = max 1 (min 256 len) ∧ t.fld a MBX_H2F_SEND.DB = db ∧
      t.fld a MBX_H2F_SEND.RESULT = 1 ∧ t.fld a MBX_H2F_SEND.SEQ = (s.fld a MBX_H2F_SEND.SEQ + 1) % 256 ∧
      (len = 0 ∨ 256 < len → t.bit MBX_STATUS MBX_STATUS.LENCLAMP = true) ∧ (db = 31 → t.bit MBX_STATUS MBX_STATUS.DBERR = true) ∧
      (db < 31 → (t.rd (dbOf h2f)).getLsbD db = true) ∧ s.RegsOut t := by
  intro a len db t
  have sends : t = (s.sent h2f n v).mbxRing h2f db := State.mbxSendOp_sends hn hempty hup v
  have word : t.rd a = sentWord (s.rd a) v := by
    rw [sends, State.rd_mbxRing_send _ _ _ _ hn]
    exact State.rd_wr_same ..
  obtain ⟨howner, hlen, hdb, hresult, hseq⟩ := sentWord_fields (s.rd a) v
  refine ⟨?_, (congrArg _ word).trans hlen, (congrArg _ word).trans hdb, (congrArg _ word).trans hresult, (congrArg _ word).trans hseq,
    fun h => ?_, fun h => ?_, fun h => ?_, ?_⟩
  · exact beq_iff_eq.mpr ((congrArg _ word).trans howner)
  · rw [sends, State.lenClamp_mbxRing, State.lenClamp_sent hn h]
  · rw [sends, State.mbxRing, if_pos h, State.bit_setFld _ _ _ _ (by decide)]
    rfl
  · rw [sends, State.rd_mbxRing_db _ _ h.le, if_pos h, getLsbD_or_one_shiftLeft _ (h.trans (by decide))]
  · rw [sends]
    exact (State.regsOut_sent ..).trans (State.regsOut_mbxRing ..)

/-- What a send to a full mailbox, or to a receiver in reset, leaves. -/
theorem State.mbxSendOp_rejects (hn : n < 16) (hbad : s.mbxFull h2f n = true ∨ s.mbxDown h2f = true) (v : Word) :
    (s.mbxSendOp h2f n v).fld (mbxSend h2f n) MBX_H2F_SEND.RESULT = 2 ∧ s.Rejects (s.mbxSendOp h2f n v) := by
  have rejected : s.mbxSendOp h2f n v = (s.mbxResult h2f n 2).mbxReject h2f (mbxSend h2f n - MBX_H2F_SEND 0 + 0x2000) :=
    if_pos (by simpa using hbad)
  rw [rejected]
  refine ⟨?_, (s.results_mbxResult h2f hn 2).reject ..⟩
  unfold State.fld
  rw [State.rd_mbxReject_send _ _ _ _ hn]
  exact (s.fld_mbxResult h2f n 2 _).trans (if_pos rfl)
end

/-! ### Releases (R461) -/

/-- A send register once a release has passed over its mailbox, which the release's mask names or does not. -/
def releasedWord (named : Bool) (w : Word) : Word :=
  if named && MBX_H2F_SEND.OWNER.get w == 1 then MBX_H2F_SEND.RESULT.put (MBX_H2F_SEND.OWNER.put w 0) 4 else w

theorem releasedWord_of_full {w : Word} (hfull : (MBX_H2F_SEND.OWNER.get w == 1) = true) :
    MBX_H2F_SEND.OWNER.get (releasedWord true w) = 0 ∧ MBX_H2F_SEND.RESULT.get (releasedWord true w) = 4 := by
  rw [releasedWord, hfull, Bool.and_self, if_pos rfl]
  simp (disch := decide) [Fld.get_put_other, Fld.get_put, MBX_H2F_SEND.RESULT]

/-- A release of one mailbox. -/
def State.release1 (h2f : Bool) (v : Word) (s : State) (n : Nat) : State :=
  if v.getLsbD n && s.mbxFull h2f n then (s.setFld (mbxSend h2f n) MBX_H2F_SEND.OWNER 0).mbxResult h2f n 4 else s

section
variable {h2f : Bool} {v : Word}

theorem State.regsOut_release1 (s : State) (n : Nat) : s.RegsOut (s.release1 h2f v n) :=
  .ite ((State.regsOut_setFld ..).trans (State.regsOut_setFld ..)) (.refl s)

theorem State.rd_release1_other (s : State) {n x : Nat} (hx : x ≠ mbxSend h2f n) : (s.release1 h2f v n).rd x = s.rd x := by
  unfold State.release1 State.mbxResult
  split
  · rw [State.rd_setFld_other _ _ _ hx, State.rd_setFld_other _ _ _ hx]
  · rfl

theorem State.rd_release1_same (s : State) (n : Nat) :
    (s.release1 h2f v n).rd (mbxSend h2f n) = releasedWord (v.getLsbD n) (s.rd (mbxSend h2f n)) := by
  unfold State.release1 releasedWord
  rw [apply_ite (State.rd · _)]
  simp only [State.mbxResult, State.rd_setFld_same]
  rfl

theorem State.regsOut_foldl_release1 (l : List Nat) (s : State) : s.RegsOut (l.foldl (State.release1 h2f v) s) := by
  induction l generalizing s with
  | nil => exact .refl s
  | cons n l ih => exact (s.regsOut_release1 n).trans (ih _)

theorem State.rd_foldl_release1_other {x : Nat} (l : List Nat) (hx : ∀ n ∈ l, x ≠ mbxSend h2f n) (s : State) :
    (l.foldl (State.release1 h2f v) s).rd x = s.rd x := by
  induction l generalizing s with
  | nil => rfl
  | cons n l ih =>
    obtain ⟨hn, hl⟩ := List.forall_mem_cons.mp hx
    exact (ih hl _).trans (s.rd_release1_other hn)

theorem State.rd_foldl_release1_mem {l : List Nat} (hl : l.Nodup) (hlt : ∀ n ∈ l, n < 16) {k : Nat} (hk : k ∈ l) (s : State) :
    (l.foldl (State.release1 h2f v) s).rd (mbxSend h2f k) = releasedWord (v.getLsbD k) (s.rd (mbxSend h2f k)) := by
  induction l generalizing s with
  | nil => exact absurd hk (List.not_mem_nil)
  | cons n l ih =>
    obtain ⟨hn, hl⟩ := List.nodup_cons.mp hl
    obtain ⟨hnlt, hllt⟩ := List.forall_mem_cons.mp hlt
    have ne {m : Nat} (hm : m ∈ l) : mbxSend h2f m ≠ mbxSend h2f n := fun h =>
      hn ((mbxSend_inj (hllt m hm) hnlt h).2 ▸ hm)
    obtain rfl | hk := List.mem_cons.mp hk
    · exact (State.rd_foldl_release1_other l (fun m hm => (ne hm).symm) _).trans (s.rd_release1_same k)
    · rw [List.foldl_cons, ih hl hllt hk, s.rd_release1_other (ne hk)]

/-- The state of a release before its doorbell rings. -/
def State.released (s : State) (h2f : Bool) (v : Word) : State := (List.range 16).foldl (State.release1 h2f v) s

theorem State.rd_released (s : State) {k : Nat} (hk : k < 16) :
    (s.released h2f v).rd (mbxSend h2f k) = releasedWord (v.getLsbD k) (s.rd (mbxSend h2f k)) :=
  State.rd_foldl_release1_mem List.nodup_range (fun _ => List.mem_range.mp) (List.mem_range.mpr hk) s

theorem State.rd_released_other (s : State) {x : Nat} (hx : ∀ n, n < 16 → x ≠ mbxSend h2f n) : (s.released h2f v).rd x = s.rd x :=
  State.rd_foldl_release1_other _ (fun n hn => hx n (List.mem_range.mp hn)) s

theorem State.out_released (s : State) : (s.released h2f v).out = s.out :=
  List.foldlRecOn (motive := fun u : State => u.out = s.out) (List.range 16) _ rfl fun u hu n _ => by
    refine Eq.trans ?_ hu
    unfold State.release1
    split <;> rfl
end

section
variable (s : State) (h2f : Bool) (v : Word)

theorem State.mbxRelease_eq : s.mbxRelease h2f v = if MBX_H2F_RELEASE.DBEN.get v = 1 then
    (s.released h2f v).mbxRing (!h2f) (MBX_H2F_RELEASE.DB.get v) else s.released h2f v := rfl

theorem State.rd_mbxRelease_send (h' : Bool) {k : Nat} (hk : k < 16) :
    (s.mbxRelease h2f v).rd (mbxSend h' k) = (s.released h2f v).rd (mbxSend h' k) := by
  rw [State.mbxRelease_eq]
  split
  · exact State.rd_mbxRing_send _ _ _ _ hk
  · rfl

theorem State.rd_mbxRelease_db : (s.mbxRelease h2f v).rd (dbOf !h2f) = s.rd (dbOf !h2f) |||
    (if MBX_H2F_RELEASE.DBEN.get v = 1 ∧ MBX_H2F_RELEASE.DB.get v < 31 then 1 <<< MBX_H2F_RELEASE.DB.get v else 0) := by
  have db : MBX_H2F_RELEASE.DB.get v ≤ 31 := Nat.le_of_lt_succ (Nat.mod_lt _ (by decide))
  have kept : (s.released h2f v).rd (dbOf !h2f) = s.rd (dbOf !h2f) :=
    s.rd_released_other fun n hn => (mbxSend_ne_dbOf h2f _ hn).symm
  rw [State.mbxRelease_eq]
  split
  case isTrue h => rw [State.rd_mbxRing_db _ _ db, kept]; simp only [h, true_and]
  case isFalse h => rw [kept, if_neg fun h' => h h'.1]; exact (BitVec.or_zero).symm

theorem State.regsOut_mbxRelease : s.RegsOut (s.mbxRelease h2f v) := by
  rw [State.mbxRelease_eq]
  exact .ite ((State.regsOut_foldl_release1 _ s).trans (State.regsOut_mbxRing ..)) (State.regsOut_foldl_release1 _ s)

theorem State.out_mbxRelease_length : (s.mbxRelease h2f v).out.length ≤ s.out.length + 1 := by
  rw [State.mbxRelease_eq, ← s.out_released (h2f := h2f) (v := v)]
  split
  · exact State.out_mbxRing_length ..
  · exact Nat.le_succ _
end

/-! ### Data writes (R463) -/

section
variable (s : State)

/-- RESULT set to REJECTED in the mailbox of each of some 256-byte boxes. -/
def State.rejectBoxes (l : List Nat) : State := l.foldl (fun s b => s.mbxResult (decide (b < 16)) (b % 16) 2) s

theorem State.results_rejectBoxes (l : List Nat) : s.Results (s.rejectBoxes l) := by
  induction l generalizing s with
  | nil => exact ⟨rfl, fun _ _ _ => rfl, rfl⟩
  | cons b l ih => exact (s.results_mbxResult _ (Nat.mod_lt b (by decide)) 2).trans (ih _)

theorem State.fld_rejectBoxes_of_set {x : Nat} (h : s.fld x MBX_H2F_SEND.RESULT = 2) (l : List Nat) :
    (s.rejectBoxes l).fld x MBX_H2F_SEND.RESULT = 2 := by
  induction l generalizing s with
  | nil => exact h
  | cons b l ih =>
    refine ih _ ?_
    rw [State.fld_mbxResult, h]
    exact ite_self 2

theorem State.fld_rejectBoxes {b : Nat} {l : List Nat} (hb : b ∈ l) :
    (s.rejectBoxes l).fld (mbxSend (decide (b < 16)) (b % 16)) MBX_H2F_SEND.RESULT = 2 := by
  induction l generalizing s with
  | nil => exact absurd hb List.not_mem_nil
  | cons c l ih =>
    obtain rfl | hb := List.mem_cons.mp hb
    · exact State.fld_rejectBoxes_of_set _ ((s.fld_mbxResult ..).trans (if_pos rfl)) l
    · exact ih _ hb

/-- Whether a side's write into the data of a box is rejected. -/
def State.badBox (s : State) (host : Bool) (b : Nat) : Bool :=
  decide (b < 16) != host || s.mbxFull (decide (b < 16)) (b % 16) || s.mbxDown (decide (b < 16))

theorem State.badBox_iff (host : Bool) (b : Nat) : s.badBox host b = true ↔
    decide (b < 16) ≠ host ∨ s.mbxFull (decide (b < 16)) (b % 16) = true ∨ s.mbxDown (decide (b < 16)) = true := by
  simp only [State.badBox, Bool.or_eq_true, bne_iff_ne, or_assoc]

/-- The boxes of a data write that are rejected. -/
def State.badBoxes (s : State) (host : Bool) (off n : Nat) : List Nat :=
  ((List.range n).map fun i => (off + i) / 256).eraseDups.filter (s.badBox host)

theorem State.mem_badBoxes (host : Bool) (off n b : Nat) :
    b ∈ s.badBoxes host off n ↔ (∃ i, i < n ∧ (off + i) / 256 = b) ∧ s.badBox host b = true := by
  simp [State.badBoxes, List.mem_filter]

theorem State.mbxWrite_eq (host : Bool) {off : Nat} {bs : List Byte} (hlen : off + bs.length ≤ 0x2000) : s.mbxWrite host off bs =
    if (s.badBoxes host off bs.length).isEmpty then { s with sys := { s.sys with mbox := s.sys.mbox.setRun memZero off bs } }
    else (s.rejectBoxes (s.badBoxes host off bs.length)).mbxReject host off := by
  rw [State.mbxWrite, List.take_of_length_le (by omega)]
  rfl

variable {s} {host : Bool} {off : Nat} {bs : List Byte}

theorem State.mbxWrite_writes (hlen : off + bs.length ≤ 0x2000) (hgood : ∀ i, i < bs.length → s.badBox host ((off + i) / 256) = false) :
    s.mbxWrite host off bs = { s with sys := { s.sys with mbox := s.sys.mbox.setRun memZero off bs } } := by
  have none : s.badBoxes host off bs.length = [] := List.eq_nil_iff_forall_not_mem.mpr fun b hb => by
    obtain ⟨⟨i, hi, rfl⟩, hbad⟩ := (s.mem_badBoxes ..).mp hb
    exact ne_true_of_eq_false (hgood i hi) hbad
  rw [State.mbxWrite_eq _ _ hlen, none]
  rfl

theorem State.mbxWrite_rejects (hlen : off + bs.length ≤ 0x2000) {i : Nat} (hi : i < bs.length)
    (hbad : s.badBox host ((off + i) / 256) = true) :
    (s.mbxWrite host off bs).fld (mbxSend (decide ((off + i) / 256 < 16)) ((off + i) / 256 % 16)) MBX_H2F_SEND.RESULT = 2 ∧
      s.Rejects (s.mbxWrite host off bs) := by
  have mem : (off + i) / 256 ∈ s.badBoxes host off bs.length := (s.mem_badBoxes ..).mpr ⟨⟨i, hi, rfl⟩, hbad⟩
  have nonempty : ¬ (s.badBoxes host off bs.length).isEmpty = true := fun h => List.ne_nil_of_mem mem (List.isEmpty_iff.mp h)
  rw [State.mbxWrite_eq _ _ hlen, if_neg nonempty]
  refine ⟨?_, (s.results_rejectBoxes _).reject ..⟩
  unfold State.fld
  rw [State.rd_mbxReject_send _ _ _ _ (Nat.mod_lt _ (by decide))]
  exact s.fld_rejectBoxes mem
end

/-! ### Doorbell masks (R465) -/

section
variable (s : State) (v : Word)

theorem State.dbMask_fw : (s.dbMask true v).rd MBX_FW_DB_MASK = v &&& 0xFFFFFFFF ∧ (s.dbMask true v).rd MBX_FW_DB = s.rd MBX_FW_DB ∧
    (s.dbMask true v).out = s.out ++
      (if s.rd MBX_FW_DB &&& s.rd MBX_FW_DB_MASK &&& ~~~(v &&& 0xFFFFFFFF) = 0 then [] else [.dieInt 0 1]) := by
  have pend : (s.wr MBX_FW_DB_MASK (v &&& 0xFFFFFFFF)).rd MBX_FW_DB = s.rd MBX_FW_DB := State.rd_wr_other _ _ (by decide)
  simp only [State.dbMask, if_true, pend]
  split
  · exact ⟨State.rd_wr_same .., pend, (List.append_nil _).symm⟩
  · exact ⟨State.rd_wr_same .., pend, rfl⟩

theorem State.dbMask_host : (s.dbMask false v).rd MBX_HOST_DB_MASK = v &&& 0xFFFFFFFF ∧
    (s.dbMask false v).rd MBX_HOST_DB = s.rd MBX_HOST_DB ∧ s.RegsOut (s.dbMask false v) := by
  have pend : (s.wr MBX_HOST_DB_MASK (v &&& 0xFFFFFFFF)).rd MBX_HOST_DB = s.rd MBX_HOST_DB := State.rd_wr_other _ _ (by decide)
  simp only [State.dbMask, Bool.false_eq_true, if_false]
  split
  · exact ⟨State.rd_wr_same .., pend, rfl⟩
  · exact ⟨(State.rd_msix _ 64 (by decide)).trans (State.rd_wr_same ..), (State.rd_msix _ 64 (by decide)).trans pend,
      (State.regsOut_wr ..).trans (State.regsOut_msix ..)⟩

theorem State.rdView_hostDbSet : s.rdView MBX_HOST_DB_SET = s.rd MBX_HOST_DB &&& 0x7FFFFFFF := by
  simp [State.rdView, MBX_HOST_DB_SET]
end

/-- Settles O56: each command by what its operation leaves. -/
theorem mailboxes : Obligations.Mailboxes := by
  unfold Obligations.Mailboxes
  intro n v off data s len db rest counted kept
  have hn : n.toNat < 16 := n.isLt
  refine ⟨⟨rfl, rfl, rfl, rfl, rfl, rfl, rfl, rfl, rfl⟩, ?send, ?release, ?data, rfl, ?hostSet, ?fwSet, ?fwMask, ?hostMask⟩
  case send =>
    intro h2f c hc a
    have runs : exec c s = .next (s.mbxSendOp h2f n.toNat v) := by
      rw [hc]
      cases h2f <;> rfl
    refine ⟨fun hempty hup => ?_, fun hbad => ?_⟩
    · exact ⟨_, runs, State.mbxSendOp_fills hn hempty hup v⟩
    · obtain ⟨hresult, hrejects⟩ := State.mbxSendOp_rejects hn hbad v
      exact ⟨_, runs, hresult, hrejects.counted, hrejects.boxes, hrejects.rest⟩
  case release =>
    intro h2f c hc pend rdb
    have runs : exec c s = .next (s.mbxRelease h2f v) := by
      rw [hc]
      cases h2f <;> rfl
    have word (k : Nat) (hk : k < 16) : (s.mbxRelease h2f v).rd (mbxSend h2f k) = releasedWord (v.getLsbD k) (s.rd (mbxSend h2f k)) :=
      (s.rd_mbxRelease_send h2f v h2f hk).trans (s.rd_released hk)
    refine ⟨_, runs, s.regsOut_mbxRelease h2f v, fun k hk hnamed hfull => ?_, fun k hk hkept => ?_, fun k hk => ?_, ?_,
      s.out_mbxRelease_length h2f v⟩
    · obtain ⟨howner, hresult⟩ := releasedWord_of_full hfull
      rw [← hnamed] at howner hresult
      refine ⟨?_, (congrArg _ (word k hk)).trans hresult⟩
      exact beq_eq_false_iff_ne.mpr (((congrArg _ (word k hk)).trans howner).trans_ne zero_ne_one)
    · refine (word k hk).trans (if_neg fun h => ?_)
      obtain ⟨hnamed, hfull⟩ := Bool.and_eq_true_iff.mp h
      exact hkept.elim (ne_true_of_eq_false · hnamed) (ne_true_of_eq_false · hfull)
    · refine (s.rd_mbxRelease_send h2f v _ hk).trans (s.rd_released_other fun n hn h => ?_)
      exact Bool.not_ne_self h2f (mbxSend_inj hk hn h).1
    · have := s.rd_mbxRelease_db h2f v
      cases h2f <;> exact this
  case data =>
    intro host _ hlen box bad
    refine ⟨fun hgood => ?_, fun i hi hbad => ?_⟩
    · exact next_congr (State.mbxWrite_writes hlen fun i hi => Bool.eq_false_of_not_eq_true (mt (s.badBox_iff ..).mp (hgood i hi)))
    · obtain ⟨hresult, hrejects⟩ := State.mbxWrite_rejects hlen hi ((s.badBox_iff host _).mpr hbad)
      exact ⟨_, rfl, hresult, hrejects.counted, hrejects.boxes, hrejects.rest⟩
  case hostSet =>
    exact ⟨_, rfl, (s.rd_hostDb _ (by decide)).trans (if_pos rfl), State.rdView_hostDbSet _, s.regsOut_hostDb _⟩
  case fwSet => exact ⟨_, rfl, (s.rd_fwDb _ _).trans (if_pos rfl), s.regsOut_fwDb _⟩
  case fwMask => exact ⟨_, rfl, s.dbMask_fw v⟩
  case hostMask => exact ⟨_, rfl, s.dbMask_host v⟩

end Sys2Proof.Machine
end

section
/-!
PROOF. Ticks, input samples, thermal trips, moves and transitions (R397 to R405, R415).
-/
namespace Sys2Proof.Machine

theorem State.rd_ite {p : Prop} [Decidable p] {t u : State} {x : Nat} {w : Word} (ht : t.rd x = w) (hu : u.rd x = w) :
    (if p then t else u).rd x = w := by
  split
  · exact ht
  · exact hu

theorem State.rd_modRp (s : State) (r : RegionId) (f : RgnPwr → RgnPwr) (x : Nat) : (s.modRp r f).rd x = s.rd x := rfl

/-! ### An event writes no register below the module's own -/

section
variable (s : State) {x : Nat} (hx : x < 0x120d00000000)
include hx

theorem State.rd_logPut_low (rec : List Byte) : (s.logPut rec).rd x = s.rd x := by
  have small : x < 2 ^ 53 := hx.trans (by decide)
  have irq (t : State) (p : Prop) [Decidable p] : (if p then t.msix 65 else t).rd x = t.rd x := State.rd_ite (t.rd_msix 65 small) rfl
  have ring (t : State) (p : Prop) [Decidable p] : (if p then t.hostDb (1 <<< 30) else t).rd x = t.rd x :=
    State.rd_ite ((t.rd_hostDb _ small).trans (if_neg (hx.trans (by decide)).ne)) rfl
  unfold State.logPut
  exact (ring ..).trans ((irq ..).trans ((State.rd_setFld_other _ _ _ (hx.trans (by decide)).ne).trans (State.rd_wrMem ..)))

theorem State.rd_event_low (type cls src tier addr : Nat) (data : List Byte) : (s.event type cls src tier addr data).rd x = s.rd x := by
  have lost (t : State) : (t.bump MOD_LOG_LOST).rd x = t.rd x := State.rd_bump_other _ _ (hx.trans (by decide)).ne
  unfold State.event State.logWrite
  exact State.rd_ite (State.rd_ite ((State.rd_logPut_low _ hx _).trans rfl)
    ((State.rd_setFld_other _ _ _ (hx.trans (by decide)).ne).trans ((lost _).trans rfl))) (State.rd_ite rfl ((lost _).trans rfl))
end

/-! ### Telemetry (R397, R398) -/

section
variable (s : State)

theorem State.rd_foldl_setFld_other {β : Type} {x : Nat} (addr val : β → Nat) (f : Fld) (l : List β) (hx : ∀ b ∈ l, x ≠ addr b) :
    (l.foldl (fun s b => s.setFld (addr b) f (val b)) s).rd x = s.rd x := by
  induction l generalizing s with
  | nil => rfl
  | cons b l ih =>
    obtain ⟨hb, hl⟩ := List.forall_mem_cons.mp hx
    exact (ih _ hl).trans (State.rd_setFld_other _ _ _ hb)

/-- The sensors and the measured energies that follow are other registers. -/
theorem State.rd_readTelemetry_in (t : Telemetry) : (s.readTelemetry t).rd PWR_IN =
    PWR_IN.VOLTAGE.put (PWR_IN.CURRENT.put (PWR_IN.POWER.put 0 t.watts.toNat) t.amps.toNat) t.volts.toNat := by
  unfold State.readTelemetry
  refine (State.rd_foldl_setFld_other _ (fun b : RegionId × BitVec 16 => PWR_RGN_BUDGET b.1.toNat) (·.2.toNat) _ _ fun b _ => ?_).trans
    ((State.rd_foldl_setFld_other _ (fun b : Nat × BitVec 16 => PWR_TEMP (b.1 / 64) (b.1 % 64)) (·.2.toNat) _ _ fun b hb => ?_).trans
      (State.rd_wr_same ..))
  · unfold PWR_IN PWR_RGN_BUDGET
    omega
  · have small : b.1 < 256 := List.mem_range.mp (List.of_mem_zip hb).1
    unfold PWR_IN PWR_TEMP
    omega

theorem PWR_IN.get_put (p a v : BitVec 16) :
    let w := PWR_IN.VOLTAGE.put (PWR_IN.CURRENT.put (PWR_IN.POWER.put 0 p.toNat) a.toNat) v.toNat
    PWR_IN.POWER.get w = p.toNat ∧ PWR_IN.CURRENT.get w = a.toNat ∧ PWR_IN.VOLTAGE.get w = v.toNat := by
  simp (disch := decide) only [Fld.get_put_other, Fld.get_put]
  exact ⟨Nat.mod_eq_of_lt p.isLt, Nat.mod_eq_of_lt a.isLt, Nat.mod_eq_of_lt v.isLt⟩
end

/-! ### The input sample (R401) -/

section
variable (s : State)

theorem State.fastlim_engage : s.engage.bit PWR_STATUS PWR_STATUS.FASTLIM = true := by
  unfold State.engage
  split
  case isTrue h => exact h
  case isFalse h =>
    unfold State.bit State.fld
    rw [State.rd_bump_other _ _ (by decide), State.rd_setFld_same, State.rd_setFld_same, Fld.get_put_other _ _ _ _ (by decide) (by decide),
      Fld.get_put _ _ _ (by decide)]
    rfl

theorem State.excursion_engage : s.engage.fld PWR_STATUS PWR_STATUS.EXCURSION = s.fld PWR_STATUS PWR_STATUS.EXCURSION := by
  unfold State.engage
  split
  · rfl
  · unfold State.fld
    rw [State.rd_bump_other _ _ (by decide), State.rd_setFld_same, State.rd_setFld_same, Fld.get_put_other _ _ _ _ (by decide) (by decide),
      Fld.get_put_other _ _ _ _ (by decide) (by decide)]

theorem State.engage_rest : s.engage = { s with regs := s.engage.regs } := by
  unfold State.engage
  split <;> rfl

/-- EXCURSION and the count below the cap after an input sample, before the fast limiter. -/
def State.counted (s : State) (x below : Nat) : State :=
  { s.setFld PWR_STATUS PWR_STATUS.EXCURSION x with pwr := { s.pwr with below := below } }

theorem State.excursion_counted (x below : Nat) : (s.counted x below).fld PWR_STATUS PWR_STATUS.EXCURSION = x % 2 ^ 32 := by
  show PWR_STATUS.EXCURSION.get ((s.setFld PWR_STATUS PWR_STATUS.EXCURSION x).rd PWR_STATUS) = _
  rw [State.rd_setFld_same, Fld.get_put _ _ _ (by decide)]
  rfl

theorem State.fastlim_counted (x below : Nat) :
    (s.counted x below).bit PWR_STATUS PWR_STATUS.FASTLIM = s.bit PWR_STATUS PWR_STATUS.FASTLIM := by
  show (PWR_STATUS.FASTLIM.get ((s.setFld PWR_STATUS PWR_STATUS.EXCURSION x).rd PWR_STATUS) == 1) = _
  rw [State.rd_setFld_same, Fld.get_put_other _ _ _ _ (by decide) (by decide)]
  rfl

/-- The fast limiter once an input sample has been counted. -/
def State.limited (s : State) (w x below : Nat) : State :=
  if 3600 * 100000 < w ∨ 10000 ≤ x then s.engage
  else if 100 ≤ below ∧ x = 0 then s.setFld PWR_STATUS PWR_STATUS.FASTLIM 0
  else s

theorem State.excursion_limited (w x below : Nat) :
    (s.limited w x below).fld PWR_STATUS PWR_STATUS.EXCURSION = s.fld PWR_STATUS PWR_STATUS.EXCURSION := by
  unfold State.limited
  split_ifs
  · exact s.excursion_engage
  · unfold State.fld
    rw [State.rd_setFld_same, Fld.get_put_other _ _ _ _ (by decide) (by decide)]
  · rfl

theorem State.fastlim_limited (w x below : Nat) : (s.limited w x below).bit PWR_STATUS PWR_STATUS.FASTLIM =
    if 3600 * 100000 < w ∨ 10000 ≤ x then true else if 100 ≤ below ∧ x = 0 then false else s.bit PWR_STATUS PWR_STATUS.FASTLIM := by
  unfold State.limited
  split_ifs
  · exact s.fastlim_engage
  · exact State.bit_setFld _ _ _ _ (by decide)
  · rfl

theorem State.limited_rest (w x below : Nat) : s.limited w x below = { s with regs := (s.limited w x below).regs } := by
  unfold State.limited
  split_ifs
  · exact s.engage_rest
  · rfl
  · rfl
end

/-! ### Thermal trips (R403) -/

section
variable (s : State)

theorem PWR_RGN_STATE_inj {q r : RegionId} (h : PWR_RGN_STATE q.toNat = PWR_RGN_STATE r.toNat) : q = r :=
  BitVec.eq_of_toNat_eq (by unfold PWR_RGN_STATE at h; omega)

theorem State.rd_lowerTo_other (r : RegionId) (k : Nat) {x : Nat} (hst : x ≠ PWR_RGN_STATE r.toNat) (hcnt : x ≠ PWR_DVFS_CNT r.toNat) :
    (s.lowerTo r k).rd x = s.rd x := by
  unfold State.lowerTo State.showBusy State.rset
  split
  · rfl
  · exact (State.rd_setFld_other _ _ _ hst).trans ((State.rd_bump_other _ _ hcnt).trans (State.rd_setFld_other _ _ _ hst))

section
variable (d : DieId) (r : RegionId) (sensor temp : Nat)

theorem State.tripRegion_again (h : s.rbit r PWR_RGN_STATE.TRIPPED = true) : s.tripRegion d r sensor temp = s := if_pos h

/-- A trip writes its region's state and counters, the die's count, and what the log needs. -/
theorem State.rd_tripRegion_other {x : Nat} (hlow : x < 0x120d00000000) (hst : x ≠ PWR_RGN_STATE r.toNat) (hdvfs : x ≠ PWR_DVFS_CNT r.toNat)
    (htrip : x ≠ PWR_TRIP_CNT d.toNat) : (s.tripRegion d r sensor temp).rd x = s.rd x := by
  unfold State.tripRegion State.rset
  split
  · rfl
  · rw [State.rd_event_low _ hlow, State.rd_bump_other _ _ htrip, State.rd_modRp, State.rd_setFld_other _ _ _ hst,
      State.rd_setFld_other _ _ _ hst, State.rd_setFld_other _ _ _ hst, State.rd_setFld_other _ _ _ hst, s.rd_lowerTo_other r 7 hst hdvfs]

theorem State.tripped_tripRegion : (s.tripRegion d r sensor temp).rbit r PWR_RGN_STATE.TRIPPED = true := by
  unfold State.tripRegion
  split
  case isTrue h => exact h
  case isFalse h =>
    unfold State.rset State.rbit State.bit State.fld
    rw [State.rd_event_low _ (by unfold PWR_RGN_STATE; omega), State.rd_bump_other _ _ (by unfold PWR_RGN_STATE PWR_TRIP_CNT; omega),
      State.rd_modRp]
    simp (disch := decide) only [State.rd_setFld_same, Fld.get_put_other, Fld.get_put]
    rfl

theorem State.tripRegion_tripped {q : RegionId} (h : s.rbit q PWR_RGN_STATE.TRIPPED = true) :
    (s.tripRegion d r sensor temp).rbit q PWR_RGN_STATE.TRIPPED = true := by
  by_cases hq : q = r
  · rw [hq]
    exact s.tripped_tripRegion d r sensor temp
  · have ne : PWR_RGN_STATE q.toNat ≠ PWR_RGN_STATE r.toNat := mt PWR_RGN_STATE_inj hq
    refine Eq.trans ?_ h
    unfold State.rbit State.bit State.fld
    rw [State.rd_tripRegion_other _ _ _ _ _ (by unfold PWR_RGN_STATE; omega) ne (by unfold PWR_RGN_STATE PWR_DVFS_CNT; omega)
      (by unfold PWR_RGN_STATE PWR_TRIP_CNT; omega)]
end

section
variable (d : DieId) (sensor temp : Nat)

/-- Some regions of a die tripped, one after the other. -/
def State.tripAll (s : State) (d : DieId) (rs : List RegionId) (sensor temp : Nat) : State :=
  rs.foldl (fun s r => s.tripRegion d r sensor temp) s

theorem State.tripAll_again {rs : List RegionId} (h : ∀ q ∈ rs, s.rbit q PWR_RGN_STATE.TRIPPED = true) :
    s.tripAll d rs sensor temp = s := by
  induction rs with
  | nil => rfl
  | cons r rs ih =>
    obtain ⟨hr, hrs⟩ := List.forall_mem_cons.mp h
    rw [State.tripAll, List.foldl_cons, s.tripRegion_again d r sensor temp hr]
    exact ih hrs

theorem State.tripAll_tripped (rs : List RegionId) {q : RegionId} (h : q ∈ rs ∨ s.rbit q PWR_RGN_STATE.TRIPPED = true) :
    (s.tripAll d rs sensor temp).rbit q PWR_RGN_STATE.TRIPPED = true := by
  induction rs generalizing s with
  | nil => exact h.resolve_left List.not_mem_nil
  | cons r rs ih =>
    refine ih _ ?_
    rw [List.mem_cons, or_assoc] at h
    obtain rfl | hq | hq := h
    · exact .inr (s.tripped_tripRegion d q sensor temp)
    · exact .inl hq
    · exact .inr (s.tripRegion_tripped d r sensor temp hq)

theorem State.rd_tripAll_temp (rs : List RegionId) (i : BitVec 6) :
    (s.tripAll d rs sensor temp).rd (PWR_TEMP d.toNat i.toNat) = s.rd (PWR_TEMP d.toNat i.toNat) := by
  induction rs generalizing s with
  | nil => rfl
  | cons r rs ih =>
    refine (ih _).trans (s.rd_tripRegion_other d r sensor temp ?_ ?_ ?_ ?_)
    · unfold PWR_TEMP; omega
    · unfold PWR_TEMP PWR_RGN_STATE; omega
    · unfold PWR_TEMP PWR_DVFS_CNT; omega
    · unfold PWR_TEMP PWR_TRIP_CNT; omega

theorem State.out_tripAll (rs : List RegionId) : s.out <+: (s.tripAll d rs sensor temp).out := by
  induction rs generalizing s with
  | nil => exact List.prefix_refl _
  | cons r rs ih => exact (State.tripRegion_keeps s d r sensor temp).out.trans (ih _)
end

/-- The regions a sensor of a die trips. -/
def tripsOf (d : DieId) (i : Nat) : List RegionId :=
  if i < 48 then [BitVec.ofNat 4 (d.toNat * 4 + i / 12)] else (List.range 4).map fun k => BitVec.ofNat 4 (d.toNat * 4 + k)

/-- A sensor's reading shown. -/
def State.showTemp (s : State) (d : DieId) (i : BitVec 6) (v : BitVec 16) : State := s.setFld (PWR_TEMP d.toNat i.toNat) PWR_TEMP.TEMP v.toNat

variable (d : DieId) (i : BitVec 6) (v : BitVec 16)

theorem State.thermalTrip_hot (hot : 105 * 16 ≤ v.toInt) : s.thermalTrip d i.toNat v =
    (if (tripsOf d i.toNat).any fun r => !(s.showTemp d i v).rbit r PWR_RGN_STATE.TRIPPED then (s.showTemp d i v).emit (.dieInt d 5)
      else s.showTemp d i v).tripAll d (tripsOf d i.toNat) i.toNat v.toNat :=
  if_neg (not_lt.mpr hot)

theorem State.rbit_showTemp (q : RegionId) (f : Fld) : (s.showTemp d i v).rbit q f = s.rbit q f := by
  unfold State.showTemp State.rbit State.bit State.fld
  rw [State.rd_setFld_other _ _ _ (by unfold PWR_RGN_STATE PWR_TEMP; omega)]

theorem State.temp_showTemp : (s.showTemp d i v).fld (PWR_TEMP d.toNat i.toNat) PWR_TEMP.TEMP = v.toNat := by
  unfold State.showTemp State.fld
  rw [State.rd_setFld_same, Fld.get_put _ _ _ (by decide)]
  exact Nat.mod_eq_of_lt v.isLt
end

/-! ### Moves and transitions (R405, R415) -/

section
variable {s : State} {r : RegionId}

theorem State.relockDone_idle (h : (s.rp r).moves = []) : s.relockDone r = s := by
  simp [State.relockDone, h]

theorem State.slewDone_idle (h : (s.rp r).moves = []) : s.slewDone r = s := by
  simp [State.slewDone, h]

theorem State.relockDone_cons {m : Move} {rest : List Move} (h : (s.rp r).moves = m :: rest) :
    s.relockDone r = if m.relock then s.moveDone r else s := by
  simp [State.relockDone, h]

theorem State.slewDone_relock {m : Move} {rest : List Move} (h : (s.rp r).moves = m :: rest) (hm : m.relock = true) : s.slewDone r = s := by
  simp [State.slewDone, h, hm]

theorem State.slewDone_lowering {m : Move} {rest : List Move} (h : (s.rp r).moves = m :: rest) (hm : m.relock = false) (hup : m.up = false) :
    s.slewDone r = s.moveDone r := by
  simp [State.slewDone, h, hm, hup]

variable {f : Nat}

theorem State.funcDone_idle (ok : Bool) (h : (s.func f).queue = [] ∨ (s.func f).st < 2) : s.funcDone f ok = s := by
  unfold State.funcDone
  dsimp only
  split
  case h_1 hst hq => simp [hst, hq] at h
  case h_2 hst hq => simp [hst, hq] at h
  case h_3 => rfl

theorem State.funcDone_down (ok : Bool) {id : Nat} {on : Bool} {rest : List (Nat × Bool)} (hq : (s.func f).queue = (id, on) :: rest)
    (hst : (s.func f).st = 2) :
    let u := (s.setFunc f { st := 1, queue := rest }).setRail f 0
    s.funcDone f ok = ((if f < 16 then (regionCores (BitVec.ofNat 4 f)).foldl State.coreLost u else u).finish id stOk []).runFunc f rest.length := by
  simp [State.funcDone, hq, hst]

theorem State.funcDone_up (ok : Bool) {id : Nat} {on : Bool} {rest : List (Nat × Bool)} (hq : (s.func f).queue = (id, on) :: rest)
    (hst : (s.func f).st = 3) :
    let u := (s.setFunc f { st := 0, queue := rest }).setRail f 1
    s.funcDone f ok = ((if f < 16 then u.regainRegion (BitVec.ofNat 4 f) else if u.portLink (funcPort f) = 1 then
      u.portTrained (funcPort f) ok else u).finish id stOk []).runFunc f rest.length := by
  simp [State.funcDone, hq, hst]
end

/-- Settles O48: each event by what its operation leaves. -/
theorem powerEvents : Obligations.PowerEvents := by
  unfold Obligations.PowerEvents
  intro t volts amps v board d i f r ok s y w x₀ x below own
  refine ⟨fun h => next_congr (if_neg (ne_true_of_eq_false h)), fun h => ?tick, fun h => next_congr (if_neg (ne_true_of_eq_false h)),
    fun hin hoff => ?unpowered, fun hin hon => ?sample, fun h => ?cold, fun hon hot => ?trip,
    fun h => ⟨next_congr (congrArg _ (State.relockDone_idle h)), next_congr (congrArg _ (State.slewDone_idle h))⟩, fun m rest h hm => ?relock,
    fun m rest h hm hup => ?slew, fun h => next_congr (congrArg _ (State.funcDone_idle ok h)), ?transition⟩
  case tick =>
    refine ⟨next_congr (if_pos h), ?_⟩
    rw [State.rd_readTelemetry_in]
    exact PWR_IN.get_put t.watts t.amps t.volts
  case unpowered =>
    refine next_congr ((if_pos hin).trans (if_pos ?_))
    show (!s.sys.rails) = true
    rw [hoff]
    rfl
  case sample =>
    have runs : exec (.inputSample volts amps board) s = .next ((y.counted x below).limited w x below) := by
      refine next_congr ((if_pos hin).trans (if_neg ?_))
      show ¬ (!s.sys.rails) = true
      rw [hon]
      decide
    refine ⟨_, runs, ?_, ?_, ?_⟩
    · rw [State.excursion_limited, State.excursion_counted]
    · rw [State.fastlim_limited, State.fastlim_counted]
      rfl
    · exact State.limited_rest _ w x below
  case cold =>
    obtain hoff | hcold := h
    · exact next_congr (if_neg (ne_true_of_eq_false hoff))
    · exact next_congr ((congrArg (fun u => if s.sys.rails then u else s) (if_pos hcold)).trans (ite_self s))
  case trip =>
    refine ⟨_, next_congr ((if_pos hon).trans (s.thermalTrip_hot d i v hot)), ?_, fun q hq => ?_, fun ⟨q, hq, hnot⟩ => ?_, fun hall => ?_⟩
    · unfold State.fld
      rw [State.rd_tripAll_temp]
      refine Eq.trans ?_ (s.temp_showTemp d i v)
      split <;> rfl
    · exact State.tripAll_tripped _ d i.toNat v.toNat _ (.inl hq)
    · have fresh : ((tripsOf d i.toNat).any fun r => !(s.showTemp d i v).rbit r PWR_RGN_STATE.TRIPPED) = true := by
        refine List.any_eq_true.mpr ⟨q, hq, ?_⟩
        rw [State.rbit_showTemp, hnot]
        rfl
      rw [if_pos fresh]
      exact (State.out_tripAll ..).subset (List.mem_append_right _ (List.mem_singleton_self _))
    · have again : ∀ q ∈ tripsOf d i.toNat, (s.showTemp d i v).rbit q PWR_RGN_STATE.TRIPPED = true := fun q hq =>
        (s.rbit_showTemp d i v q _).trans (hall q hq)
      have none : ¬ ((tripsOf d i.toNat).any fun r => !(s.showTemp d i v).rbit r PWR_RGN_STATE.TRIPPED) = true := by
        simpa using again
      rw [if_neg none]
      exact State.tripAll_again _ d i.toNat v.toNat again
  case relock =>
    exact ⟨next_congr (congrArg _ ((State.relockDone_cons h).trans (if_pos hm))), next_congr (congrArg _ (State.slewDone_relock h hm))⟩
  case slew =>
    exact ⟨next_congr (congrArg _ (State.slewDone_lowering h hm hup)),
      next_congr (congrArg _ ((State.relockDone_cons h).trans (if_neg (ne_true_of_eq_false hm))))⟩
  case transition =>
    intro id on rest hq hlo hhi up u q u'
    have st : (s.func f.toNat).st = 2 ∨ (s.func f.toNat).st = 3 := by omega
    obtain hst | hst := st
    · have down : up = false := decide_eq_false (by omega)
      refine next_congr (congrArg _ ((State.funcDone_down ok hq hst).trans ?_))
      simp only [u', u, down, q, Bool.false_eq_true, false_and, if_false]
    · have raised : up = true := decide_eq_true hst
      refine next_congr (congrArg _ ((State.funcDone_up ok hq hst).trans ?_))
      simp only [u', u, raised, q, true_and, if_true]

end Sys2Proof.Machine
end

section
/-!
PROOF. Supply, resets, shut-downs, the sideband and the die-to-die links (R469, R497, R513 to R517, R524, R525).
-/
namespace Sys2Proof.Machine

/-! ### What replies and settings leave alone -/

/-- The cores, the launches and MOD_ERR_STATUS are the same in two states. -/
structure State.Steady (s t : State) : Prop where
  cores : t.cores = s.cores
  launches : t.host.launches = s.host.launches
  errStatus : t.rd MOD_ERR_STATUS = s.rd MOD_ERR_STATUS

namespace State.Steady
variable {s t u : State}

theorem refl (s : State) : s.Steady s := ⟨rfl, rfl, rfl⟩

theorem trans (h : s.Steady t) (k : t.Steady u) : s.Steady u :=
  ⟨k.cores.trans h.cores, k.launches.trans h.launches, k.errStatus.trans h.errStatus⟩

theorem wr (s : State) {a : Nat} (v : Word) (h : a ≠ MOD_ERR_STATUS) : s.Steady (s.wr a v) := ⟨rfl, rfl, State.rd_wr_other _ _ h.symm⟩

theorem setFld (s : State) {a : Nat} (f : Fld) (v : Nat) (h : a ≠ MOD_ERR_STATUS) : s.Steady (s.setFld a f v) := wr s _ h

theorem ite {p : Prop} [Decidable p] (h : s.Steady t) (k : s.Steady u) : s.Steady (if p then t else u) := by
  split
  · exact h
  · exact k

theorem foldl {α : Type} {op : State → α → State} (step : ∀ (s : State) x, s.Steady (op s x)) (l : List α) (s : State) :
    s.Steady (l.foldl op s) := by
  induction l generalizing s with
  | nil => exact refl s
  | cons x l ih => exact (step s x).trans (ih _)

theorem host (s : State) {x : HostSt} (h : x.launches = s.host.launches) : s.Steady { s with host := x } := ⟨rfl, h, rfl⟩

theorem runs (h : s.Steady t) (c : CoreId) : t.runs c = s.runs c := by
  unfold State.runs State.core
  rw [h.cores]

end State.Steady

section
variable (s : State)

theorem State.wrMem_steady (a : Nat) (bs : List Byte) : s.Steady (s.wrMem a bs) := by
  unfold State.wrMem State.backInv
  split <;> exact ⟨rfl, rfl, rfl⟩

theorem State.rplPut_steady (bs : List Byte) : s.Steady (s.rplPut bs) :=
  ((s.wrMem_steady _ bs).trans (.wr _ _ (by decide))).trans ⟨rfl, rfl, rfl⟩

theorem State.setFld_rplStatus_steady (f : Fld) (v : Nat) : s.Steady (s.setFld RPL_STATUS f v) := .setFld _ _ _ (by decide)

theorem State.rplWrite_steady (type : Nat) (body : List Byte) (cont : Bool) : s.Steady (s.rplWrite type body cont) := by
  have ended (n : Nat) : s.Steady (s.rplEnd n) := by
    have stopped := (s.rplPut_steady (s.rplBytes 0x0E (toLe 4 n ++ toLe 4 (s.fld RPL_STATUS RPL_STATUS.EPOCH)))).trans
      (State.setFld_rplStatus_steady _ RPL_STATUS.RECORD 0)
    exact .ite (stopped.trans (State.setFld_rplStatus_steady ..)) stopped
  unfold State.rplWrite
  exact .ite (.ite (ended 1) (State.rplPut_steady ..)) (.refl s)

theorem State.diverge_steady (what seq detail : Nat) : s.Steady (s.diverge what seq detail) := by
  have counted : s.Steady ((s.bump RPL_DIVERGE).setFld RPL_STATUS RPL_STATUS.DIV 1) :=
    (State.Steady.wr s _ (by decide)).trans (State.setFld_rplStatus_steady ..)
  have noted := counted.trans (State.rplWrite_steady _ 0x0C (toLe 4 what ++ toLe 4 seq ++ toLe 8 detail) false)
  exact .ite (noted.trans (State.setFld_rplStatus_steady ..)) noted

theorem State.coalesce_steady (q : Nat) (irq : Bool) : s.Steady (s.coalesce q irq) := by
  have signalled (u : State) : u.Steady (u.msix q) :=
    .ite ⟨rfl, rfl, rfl⟩ (.wr _ _ (by unfold msixPba MOD_ERR_STATUS; omega))
  unfold State.coalesce
  dsimp only
  exact .ite ((State.Steady.host s (by rfl)).trans (signalled _)) (.host s rfl)

theorem State.putReply_steady (q : Nat) (x : Reply) : s.Steady (s.putReply q x) := by
  unfold State.putReply
  dsimp only
  exact (((State.Steady.ite (s.wrMem_steady ..) (.refl s)).trans (State.wrMem_steady ..)).trans
    (.wr _ _ (by unfold CMD_CQ_TAIL MOD_ERR_STATUS; omega))).trans (State.coalesce_steady ..)

theorem State.post_steady (r : RingId) (p : Packet) (status : BitVec 8) (words : List Nat) : s.Steady (s.post r p status words) :=
  (State.Steady.host s (by rfl)).trans
    (.foldl (fun u x => .ite (.refl u) ((u.putReply_steady _ x).trans (.host _ (by rfl)))) _ _)

theorem State.finish_steady (id : Nat) (status : BitVec 8) (words : List Nat) : s.Steady (s.finish id status words) := by
  have listed (cs : List CmdRec) : s.Steady (s.setCmds cs) := (State.Steady.host s (by rfl)).trans (.setFld (a := CMD_STATUS) _ _ _ (by decide))
  unfold State.finish
  split
  · exact .refl s
  · extract_lets off recorded
    have kept : s.Steady recorded := (listed _).trans (.ite (State.rplWrite_steady ..) (.refl _))
    exact .ite (.ite (kept.trans (State.diverge_steady ..)) kept) (.ite kept (kept.trans (State.post_steady ..)))

/-! ### Generations -/

theorem State.genCore_steady (g : Gen) (c : CoreId) : s.Steady (s.genCore g c) := by
  have mtx (u : State) (f : Fld) (v : Nat) : u.Steady (u.setFld (COR_MTX_CTL c.toNat) f v) :=
    .setFld _ _ _ (by unfold COR_MTX_CTL MOD_ERR_STATUS; omega)
  have hst (u : State) (f : Fld) (v : Nat) : u.Steady (u.setFld (COR_HST_CTL c.toNat) f v) :=
    .setFld _ _ _ (by unfold COR_HST_CTL MOD_ERR_STATUS; omega)
  unfold State.genCore
  refine .ite (.refl s) ?_
  split
  · exact ((mtx ..).trans (mtx ..)).trans (mtx ..)
  · exact (hst ..).trans (hst ..)
  · exact .setFld _ _ _ (by unfold COR_MEM_CTL MOD_ERR_STATUS; omega)
  · exact .refl s

theorem State.genCluster_steady (g : Gen) (k : ClusterId) : s.Steady (s.genCluster g k) := by
  have sort (u : State) (f : Fld) (v : Nat) : u.Steady (u.setFld (CLU_SORT_CTL k.toNat) f v) :=
    .setFld _ _ _ (by unfold CLU_SORT_CTL MOD_ERR_STATUS; omega)
  unfold State.genCluster
  refine .ite (.refl s) ?_
  split
  · exact sort ..
  · exact ((sort ..).trans (sort ..)).trans (sort ..)
  · exact .refl s

theorem State.genRegion_steady (g : Gen) (r : RegionId) : s.Steady (s.genRegion g r) := by
  have lend (u : State) (f : Fld) (v : Nat) : u.Steady (u.setFld (SYN_LEND_CTL (r.toNat / 4) (r.toNat % 4)) f v) :=
    .setFld _ _ _ (by unfold SYN_LEND_CTL MOD_ERR_STATUS; omega)
  have written := (State.Steady.foldl (fun u i => u.genCluster_steady g (BitVec.ofNat 6 (r.toNat * 4 + i))) (List.range 4) s).trans
    (.foldl (fun u c => u.genCore_steady g c) (regionCores r) _)
  unfold State.genRegion
  exact .ite (written.trans ((lend ..).trans (lend ..))) written

theorem State.genDies_steady (g : Gen) : s.Steady (s.genDies g) := by
  unfold State.genDies
  extract_lets written
  have dies : s.Steady written := by
    refine .foldl (fun u d => ?_) _ s
    dsimp only
    split
    · exact .setFld _ _ _ (by unfold MEM_DMA_CTL MOD_ERR_STATUS; omega)
    · exact .setFld _ _ _ (by unfold MEM_DMA_CTL MOD_ERR_STATUS; omega)
    · exact (State.Steady.setFld _ _ _ (by unfold NOC_CTL MOD_ERR_STATUS; omega)).trans
        (.setFld _ _ _ (by unfold NOC_CTL MOD_ERR_STATUS; omega))
    · exact (State.Steady.setFld _ _ _ (by unfold SYN_DIE_CTL MOD_ERR_STATUS; omega)).trans
        (.setFld _ _ _ (by unfold SYN_DIE_CTL MOD_ERR_STATUS; omega))
    · exact (State.Steady.setFld _ _ _ (by unfold ARB_STARVE_THR MOD_ERR_STATUS; omega)).trans
        (.setFld _ _ _ (by unfold ARB_CTL MOD_ERR_STATUS; omega))
    · exact .refl u
  exact .ite (dies.trans ⟨rfl, rfl, rfl⟩) dies

theorem State.applyRegion_steady (r : RegionId) : s.Steady (s.applyRegion r) := by
  unfold State.applyRegion
  exact (State.Steady.foldl (fun u g => .ite (.refl u) (u.genRegion_steady g r)) _ s).trans (.host _ rfl)

theorem State.commitGens_steady (k : Nat) : s.Steady (s.commitGens k) := by
  induction k generalizing s with
  | zero => exact .refl s
  | succ k ih =>
    unfold State.commitGens
    dsimp only
    refine .ite (.refl s) (.trans (.trans (.trans ?_ (.host _ (by rfl)))
      (.foldl (fun t c => .ite (t.finish_steady ..) (.refl t)) _ _)) (ih _))
    split
    · exact s.genDies_steady _
    · exact .refl s

theorem State.rollGens_steady : s.Steady s.rollGens := by
  unfold State.rollGens
  exact (State.Steady.foldl (fun u r => .ite (.refl u) (u.applyRegion_steady _)) _ s).trans (State.commitGens_steady _ 16)
end

/-! ### Programs stopped by a FATAL event (R497) -/

section
variable (s : State) (c : CoreId)

theorem State.launches_finishStationary : (s.finishStationary c).host.launches = s.host.launches := by
  have counted (l : List Flight) : (l.foldl (fun s _ => s.bump (COR_INSTRET c.toNat)) s).host.launches = s.host.launches :=
    List.foldlRecOn (motive := fun t : State => t.host.launches = s.host.launches) _ _ rfl fun _ h _ _ => h
  unfold State.finishStationary
  dsimp only
  split <;> exact counted _

theorem State.launches_unwait : (s.unwait c).host.launches = s.host.launches := by
  unfold State.unwait State.unlend
  dsimp only
  split_ifs <;> rfl

theorem State.launches_stopProgram : (s.stopProgram c).host.launches = s.host.launches := by
  unfold State.stopProgram
  dsimp only
  rw [State.modCore_host, State.launches_unwait, State.launches_finishStationary]
  split <;> rfl

theorem State.errStatus_stopProgram : (s.stopProgram c).rd MOD_ERR_STATUS = s.rd MOD_ERR_STATUS := by
  refine (s.stopProgram_alters c).regs _ ?_
  simp only [Set.mem_union, Set.mem_insert_iff, Set.mem_singleton_iff, MOD_ERR_STATUS, COR_MTX_FORMSW, COR_INSTRET, PWR_RGN_STATE,
    SYN_WAIT_STATUS]
  omega

theorem CoreSt.programStopped_still (C : CoreSt) : (C.programStopped.run == .running || C.programStopped.run == .halting) = false := by
  unfold CoreSt.programStopped
  cases C.run <;> rfl

theorem State.runs_stopProgram (d : CoreId) (h : d = c ∨ s.runs d = false) : (s.stopProgram c).runs d = false := by
  unfold State.runs at h ⊢
  by_cases hd : d = c
  · rw [hd, (s.stopProgram_alters c).core]
    exact CoreSt.programStopped_still _
  · rw [(s.stopProgram_alters c).cores d hd]
    exact h.resolve_left hd

/-- What runs on a core stopped. -/
def State.haltCore (s : State) (c : CoreId) : State := if s.runs c then s.stopProgram c else s

theorem State.launches_haltCore : (s.haltCore c).host.launches = s.host.launches := by
  unfold State.haltCore
  split
  · exact s.launches_stopProgram c
  · rfl

theorem State.errStatus_haltCore : (s.haltCore c).rd MOD_ERR_STATUS = s.rd MOD_ERR_STATUS :=
  State.rd_ite (s.errStatus_stopProgram c) rfl

theorem State.runs_haltCore (d : CoreId) (h : d = c ∨ s.runs d = false) : (s.haltCore c).runs d = false := by
  unfold State.haltCore
  split
  case isTrue => exact s.runs_stopProgram c d h
  case isFalse hc => exact h.elim (fun hd => hd ▸ Bool.eq_false_of_not_eq_true hc) id

theorem State.launches_haltCores (cs : List CoreId) : (cs.foldl State.haltCore s).host.launches = s.host.launches :=
  List.foldlRecOn (motive := fun t : State => t.host.launches = s.host.launches) cs _ rfl fun t h c _ => (t.launches_haltCore c).trans h

theorem State.errStatus_haltCores (cs : List CoreId) : (cs.foldl State.haltCore s).rd MOD_ERR_STATUS = s.rd MOD_ERR_STATUS :=
  List.foldlRecOn (motive := fun t : State => t.rd MOD_ERR_STATUS = s.rd MOD_ERR_STATUS) cs _ rfl fun t h c _ => (t.errStatus_haltCore c).trans h

theorem State.runs_haltCores (cs : List CoreId) {d : CoreId} (h : d ∈ cs ∨ s.runs d = false) : (cs.foldl State.haltCore s).runs d = false := by
  induction cs generalizing s with
  | nil => exact h.resolve_left List.not_mem_nil
  | cons c cs ih =>
    refine ih _ ?_
    rw [List.mem_cons, or_comm (a := d = c), or_assoc] at h
    exact h.imp_right (s.runs_haltCore c d)

theorem mem_allCores : c ∈ allCores :=
  List.mem_map.mpr ⟨c.toNat, List.mem_range.mpr c.isLt, BitVec.ofNat_toNat ..⟩
end

/-! ### Launches gone -/

section
variable (s : State)

/-- A core whose launch has left the machine. -/
def CoreSt.unlaunched (C : CoreSt) : CoreSt :=
  { C with run := if C.run = .stopped then .stopped else .halted, launch := none, parked := true }

theorem CoreSt.unlaunched_still (C : CoreSt) : (C.unlaunched.run == .running || C.unlaunched.run == .halting) = false := by
  unfold CoreSt.unlaunched
  dsimp only
  split <;> rfl

/-- The cores of a launch that leaves the machine. -/
def State.parkCores (s : State) (L : Launch) : State :=
  L.cores.foldl (fun s c => if (s.core c).launch = some L.id ∧ !s.fenced c then s.modCore c CoreSt.unlaunched else s) s

theorem State.parkCores_rest (L : Launch) : s.parkCores L = { s with cores := (s.parkCores L).cores } :=
  List.foldlRecOn (motive := fun t : State => t = { s with cores := t.cores }) L.cores _ rfl fun t h c _ => by
    split
    · exact congrArg (State.modCore · c CoreSt.unlaunched) h
    · exact h

theorem State.parkCores_runs (L : Launch) (h : ∀ c, s.runs c = false) (c : CoreId) : (s.parkCores L).runs c = false :=
  List.foldlRecOn (motive := fun t : State => ∀ c, t.runs c = false) L.cores _ h (fun t h d _ => by
    split
    · intro c
      unfold State.runs
      rw [State.core_modCore]
      split
      · exact CoreSt.unlaunched_still _
      · exact h c
    · exact h) c

/-- The state of a launch that leaves the machine before its reply. -/
def State.unlaunch (s : State) (L : Launch) : State :=
  { s.parkCores L with host := { (s.parkCores L).host with
    launches := (s.parkCores L).host.launches.filter fun M => M.id != L.id
    stops := (s.parkCores L).host.stops.filter fun c => !L.cores.contains c } }

theorem State.launchGone_steady (L : Launch) : (s.unlaunch L).Steady (s.launchGone L) := by
  unfold State.launchGone
  refine .trans (.trans ?_ (.foldl (fun t c => .ite (t.finish_steady ..) (.refl t)) _ _)) (State.rollGens_steady _)
  split
  · exact State.finish_steady ..
  · exact .refl _

theorem State.launches_launchGone (L : Launch) : (s.launchGone L).host.launches = s.host.launches.filter fun M => M.id != L.id := by
  rw [(s.launchGone_steady L).launches, State.unlaunch, s.parkCores_rest L]

theorem State.errStatus_launchGone (L : Launch) : (s.launchGone L).rd MOD_ERR_STATUS = s.rd MOD_ERR_STATUS := by
  refine (s.launchGone_steady L).errStatus.trans ?_
  show (s.parkCores L).rd MOD_ERR_STATUS = _
  rw [s.parkCores_rest L]
  rfl

theorem State.runs_launchGone (L : Launch) (h : ∀ c, s.runs c = false) (c : CoreId) : (s.launchGone L).runs c = false :=
  ((s.launchGone_steady L).runs c).trans (s.parkCores_runs L h c)

theorem State.errStatus_launchesGone (l : List Launch) : (l.foldl State.launchGone s).rd MOD_ERR_STATUS = s.rd MOD_ERR_STATUS :=
  List.foldlRecOn (motive := fun t : State => t.rd MOD_ERR_STATUS = s.rd MOD_ERR_STATUS) l _ rfl fun t h L _ => (t.errStatus_launchGone L).trans h

theorem State.runs_launchesGone (l : List Launch) (h : ∀ c, s.runs c = false) : ∀ c, (l.foldl State.launchGone s).runs c = false :=
  List.foldlRecOn (motive := fun t : State => ∀ c, t.runs c = false) l _ h fun t h L _ => t.runs_launchGone L h

/-- Every launch that is gone is no longer listed. -/
theorem State.launches_launchesGone (l : List Launch) {M : Launch} (h : M ∈ (l.foldl State.launchGone s).host.launches) :
    M ∈ s.host.launches ∧ M ∉ l := by
  induction l generalizing s with
  | nil => exact ⟨h, List.not_mem_nil⟩
  | cons L l ih =>
    rw [List.foldl_cons] at h
    obtain ⟨hM, hl⟩ := ih _ h
    rw [State.launches_launchGone] at hM
    obtain ⟨hM, hid⟩ := List.mem_filter.mp hM
    have ne : M ≠ L := by
      rintro rfl
      simp at hid
    exact ⟨hM, List.not_mem_cons_of_ne_of_not_mem ne hl⟩
end

/-! ### A FATAL event (R497) -/

/-- Every program stopped, every command and every launch ended. -/
def State.endAll (s : State) : State :=
  let s := allCores.foldl State.haltCore s
  let s := (s.host.cmds.map (·.id)).foldl (fun s id => s.finish id stHwError []) s
  s.host.launches.foldl State.launchGone s

theorem State.fatal_eq (s : State) (type src : Nat) (data : List Byte) : s.fatal type src data =
    ((((s.event type 2 src 0 0 data).emit (.aer true)).emit (.ras 4)).setFld MOD_ERR_STATUS MOD_ERR_STATUS.FATAL 1).endAll := by
  have halts : (fun (s : State) c => if s.runs c then s.stopProgram c else s) = State.haltCore := rfl
  unfold State.fatal State.endAll
  rw [halts]

theorem State.endAll_ends (s : State) :
    s.endAll.rd MOD_ERR_STATUS = s.rd MOD_ERR_STATUS ∧ s.endAll.host.launches = [] ∧ ∀ c, s.endAll.runs c = false := by
  unfold State.endAll
  extract_lets halted replied
  have steady : halted.Steady replied := .foldl (fun t id => t.finish_steady id stHwError []) _ halted
  refine ⟨?_, List.eq_nil_iff_forall_not_mem.mpr fun M hM => ?_, State.runs_launchesGone _ _ fun c => ?_⟩
  · rw [State.errStatus_launchesGone, steady.errStatus, State.errStatus_haltCores]
  · obtain ⟨hin, hout⟩ := State.launches_launchesGone _ _ hM
    exact hout hin
  · rw [steady.runs]
    exact State.runs_haltCores _ _ (.inl (mem_allCores c))

/-- What a FATAL event leaves: FATAL, no launch, no program running. -/
theorem State.fatal_stops (s : State) (type src : Nat) (data : List Byte) : (s.fatal type src data).bit MOD_ERR_STATUS MOD_ERR_STATUS.FATAL = true ∧
    (s.fatal type src data).host.launches = [] ∧ ∀ c, (s.fatal type src data).runs c = false := by
  rw [State.fatal_eq]
  generalize ((s.event type 2 src 0 0 data).emit (.aer true)).emit (.ras 4) = u
  obtain ⟨herr, hlaunches, hruns⟩ := State.endAll_ends (u.setFld MOD_ERR_STATUS MOD_ERR_STATUS.FATAL 1)
  refine ⟨?_, hlaunches, hruns⟩
  unfold State.bit State.fld
  rw [herr, State.rd_setFld_same, Fld.get_put _ _ _ (by decide)]
  rfl

/-! ### The dies lose their state -/

section
variable (s : State)

/-- The always-on block's registers outlive the dies. -/
theorem State.rd_diesDown {x : Nat} (hx : alwaysOn x = true) : s.diesDown.rd x = s.rd x :=
  Tab.get_filter regReset s.regs alwaysOn x hx

theorem State.bit_cause (f : Fld) (hf : f.lo + f.len ≤ 64) (hone : f.len = 1) : (s.cause f).bit MOD_SB_CAUSE f = true := by
  rw [State.cause, State.bit_setFld _ _ _ _ hf, hone]
  rfl

variable {s}

theorem State.moduleReset_now (h : s.sys.hold = false) : s.moduleReset =
    ((s.diesDown).modSys fun y => { y with shutdown := false, halted := false, resetWait := false, trialNow := false }).beginStart 1 :=
  if_neg (ne_true_of_eq_false h)

theorem State.moduleReset_held (h : s.sys.hold = true) : s.moduleReset = s.modSys fun y => { y with resetWait := true } := if_pos h

theorem State.moduleReset_resets (h : s.sys.hold = false) : s.moduleReset.sys.rails = false ∧ s.moduleReset.sys.step = 1 ∧
    s.moduleReset.sys.shutdown = false ∧ s.moduleReset.sys.halted = false ∧ s.moduleReset.cores = [] ∧ s.moduleReset.host.cmds = [] := by
  rw [State.moduleReset_now h]
  exact ⟨rfl, rfl, rfl, rfl, rfl, rfl⟩

/-- The cause of a module reset stays latched. -/
theorem State.bit_moduleReset (h : s.sys.hold = false) (f : Fld) : s.moduleReset.bit MOD_SB_CAUSE f = s.bit MOD_SB_CAUSE f := by
  rw [State.moduleReset_now h]
  exact congrArg (fun w => f.get w == 1) (s.rd_diesDown (by decide))

/-- What is shut down does not start. -/
theorem State.starting_shutDown (hold : Bool) (f : Fld) : ((s.shutDown hold).cause f).starting = false := by
  simp [State.starting, State.cause, State.shutDown, State.modSys]

theorem State.shutDown_down (hold : Bool) {f : Fld} (hf : f.lo + f.len ≤ 64) (hone : f.len = 1) :
    ((s.shutDown hold).cause f).sys.rails = false ∧ ((s.shutDown hold).cause f).bit MOD_SB_CAUSE f = true ∧
      ((s.shutDown hold).cause f).starting = false ∧ ((s.shutDown hold).cause f).cores = [] :=
  ⟨rfl, State.bit_cause _ f hf hone, State.starting_shutDown hold f, rfl⟩
end

/-! ### The sideband (R524, R525) -/

section
variable {s : State} {v : Word}

theorem State.sys_plainWrite (s : State) (a : Nat) (v : Word) : (s.plainWrite a v).sys = s.sys := by
  unfold State.plainWrite
  split <;> rfl

/-- A reset that the sideband asks for, with or without JNL_CLEAR. -/
def State.sbReset (s : State) (clear : Bool) (v : Word) : State :=
  ((if clear then (s.plainWrite MOD_SB_CTL v).modBlk fun b => { b with failStarts := 0, bad := 0 } else s.plainWrite MOD_SB_CTL v).cause
    MOD_SB_CAUSE.SB_RESET).moduleReset

theorem State.sbCtl_resets (h : v.getLsbD 0 = true ∨ v.getLsbD 1 = true) : s.sbCtl v = s.sbReset (v.getLsbD 1) v := by
  unfold State.sbCtl State.sbReset
  cases h1 : v.getLsbD 1
  · rw [h1] at h
    simp [h.resolve_right Bool.false_ne_true]
  · rfl

theorem State.hold_sbReset (s : State) (clear : Bool) (v : Word) :
    ((if clear then (s.plainWrite MOD_SB_CTL v).modBlk fun b => { b with failStarts := 0, bad := 0 } else s.plainWrite MOD_SB_CTL v).cause
      MOD_SB_CAUSE.SB_RESET).sys.hold = s.sys.hold := by
  have written : (s.plainWrite MOD_SB_CTL v).sys.hold = s.sys.hold := congrArg SysSt.hold (s.sys_plainWrite MOD_SB_CTL v)
  cases clear <;> exact written

theorem State.sbReset_resets (h : s.sys.hold = false) (clear : Bool) (v : Word) :
    ((s.sbReset clear v).sys.rails = false ∧ (s.sbReset clear v).sys.step = 1 ∧ (s.sbReset clear v).sys.shutdown = false ∧
      (s.sbReset clear v).sys.halted = false ∧ (s.sbReset clear v).cores = [] ∧ (s.sbReset clear v).host.cmds = []) ∧
    (s.sbReset clear v).bit MOD_SB_CAUSE MOD_SB_CAUSE.SB_RESET = true := by
  have hold := (s.hold_sbReset clear v).trans h
  exact ⟨State.moduleReset_resets hold, (State.bit_moduleReset hold _).trans (State.bit_cause _ _ (by decide) rfl)⟩

theorem State.blk_sbReset (h : s.sys.hold = false) (v : Word) :
    (s.sbReset true v).sys.nvm.blk = { s.sys.nvm.blk with failStarts := 0, bad := 0 } := by
  unfold State.sbReset
  rw [State.moduleReset_now ((s.hold_sbReset true v).trans h)]
  exact congrArg (fun y : SysSt => { y.nvm.blk with failStarts := 0, bad := 0 }) (s.sys_plainWrite MOD_SB_CTL v)

theorem State.sbFlash_reads (hin : s.sys.vin = true) {a : Nat} (ha : a = MOD_SB_FLASH_ADDR.ADDR.get (s.rd MOD_SB_FLASH_ADDR) * 4)
    (hlow : a < 0x10000) :
    s.sbFlash = (s.setFld MOD_SB_FLASH_ADDR MOD_SB_FLASH_ADDR.ADDR (a / 4 + 1)).emit (.smb (s.flash a 4)) := by
  have read : s.flashRead a = (s.flash a 4, s) := by
    unfold State.flashRead
    dsimp only
    rw [if_neg (by omega), if_neg (by omega), if_neg (by omega)]
  unfold State.sbFlash
  rw [hin, ← ha]
  dsimp only
  rw [read]
  rfl
end

/-! ### The die-to-die links (R497) -/

section
variable (s : State)

theorem State.rd_corrected_count {cnt : Nat} (hcnt : cnt ≠ MOD_ERR_STATUS) (type src tier addr : Nat) (data : List Byte) :
    (s.corrected cnt type src tier addr data).rd cnt = BitVec.ofNat 64 (((s.rd cnt).toNat + 1) % 2 ^ 48) := by
  have logged (t : State) (x : LogSt) : ({ t with log := x } : State).rd cnt = t.rd cnt := rfl
  have counted : ((s.bump cnt).setFld MOD_ERR_STATUS MOD_ERR_STATUS.CE_SEEN 1).rd cnt = BitVec.ofNat 64 (((s.rd cnt).toNat + 1) % 2 ^ 48) :=
    (State.rd_setFld_other _ _ _ hcnt).trans (State.rd_bump_same ..)
  unfold State.corrected
  exact State.rd_ite ((logged ..).trans (State.rd_ite counted counted)) ((logged ..).trans (State.rd_ite counted counted))

theorem State.corrected_rest (cnt type src tier addr : Nat) (data : List Byte) : s.corrected cnt type src tier addr data =
    { s with regs := (s.corrected cnt type src tier addr data).regs, log := (s.corrected cnt type src tier addr data).log,
             out := (s.corrected cnt type src tier addr data).out } := by
  unfold State.corrected
  dsimp only
  split_ifs <;> rfl

theorem State.d2dResend_rest (d : DieId) (vert : Bool) : s.d2dResend d vert =
    { s with regs := (s.d2dResend d vert).regs, log := (s.d2dResend d vert).log, out := (s.d2dResend d vert).out } := by
  unfold State.d2dResend
  dsimp only
  rw [State.corrected_rest]

theorem State.d2dTrained_other {d : DieId} {vert : Bool} (h : (d2dLink d vert).1 ∉ s.log.d2dTrain) (ok : Bool) : s.d2dTrained d vert ok = s := by
  simp [State.d2dTrained, h]

theorem State.d2dTrained_ends {d : DieId} {vert : Bool} (h : (d2dLink d vert).1 ∈ s.log.d2dTrain) (ok : Bool) : s.d2dTrained d vert ok =
    let t : State := { s with log := { s.log with d2dTrain := s.log.d2dTrain.filter (· != (d2dLink d vert).1) } }
    if ok then t else t.fatal 0x0021 (srcOf 3 d.toNat) (toLe 1 (d2dLink d vert).2.toNat) := by
  simp [State.d2dTrained, h]
end

/-- Settles O52: each event by what its operation leaves. -/
theorem boardEvents : Obligations.BoardEvents := by
  unfold Obligations.BoardEvents
  intro v cause pins d vert ok s reset down
  have low : (v.zeroExtend 64).getLsbD 0 = v.getLsbD 0 := by simp
  have second : (v.zeroExtend 64).getLsbD 1 = v.getLsbD 1 := by simp
  have absent (h : s.sys.vin = false) : (!s.sys.vin) = true := by rw [h]; rfl
  have present (h : s.sys.vin = true) : ¬ (!s.sys.vin) = true := by rw [h]; decide
  refine ⟨fun hin => next_congr (if_pos hin), fun hout hfree => ?rise, fun hout => ?absent, fun hin => ?fall, fun hin hfree => ?assert,
    fun hin hheld => ?assertHeld, rfl, fun hin hfree h0 => ?resetReq, fun h0 => ?noReset, fun hin hfree h1 => ?clear, fun h1 => ?noClear,
    fun hin => ?shut, fun hovp hfree => ?release, fun hovp => next_congr (if_neg (ne_true_of_eq_false hovp)), fun hwait => ?expire,
    fun hwait => ?noWait, fun hwait => next_congr (if_pos hwait), fun hwait => next_congr (if_neg (ne_true_of_eq_false hwait)),
    fun a ha hin hlow => ?flash, fun hin => ?alert, fun hoff => next_congr (if_neg (ne_true_of_eq_false hoff)), fun hon => ?resend, ?train⟩
  case rise =>
    have starts : exec .vinRise s = .next (s.modSys fun y => { y with vin := true }).moduleReset :=
      next_congr (if_neg (ne_true_of_eq_false hout))
    have hold : (s.modSys fun y => { y with vin := true }).sys.hold = false := hfree
    refine ⟨_, starts, State.moduleReset_resets hold, ?_, ?_⟩
    · rw [State.moduleReset_now hold]
      rfl
    · rw [State.moduleReset_now hold]
      rfl
  case absent =>
    have none (p : Prop) [Decidable p] (t : State) : (if s.sys.vin = true ∧ p then t else s) = s := if_neg fun h => ne_true_of_eq_false hout h.1
    exact ⟨next_congr (if_pos (absent hout)), next_congr (if_pos (absent hout)), next_congr (none ..), next_congr (none ..),
      next_congr (if_pos (absent hout)), next_congr (if_pos (absent hout)), next_congr (if_pos (absent hout)), next_congr (if_pos (absent hout)),
      next_congr (none ..)⟩
  case fall =>
    refine ⟨_, next_congr (if_neg (present hin)), rfl, rfl, ?_, rfl, rfl, rfl, rfl⟩
    exact List.filter_eq_nil_iff.mpr fun e _ => Bool.false_ne_true
  case assert =>
    have hold : ((s.modSys fun y => { y with rstLow := true }).cause MOD_SB_CAUSE.PIN_RESET).sys.hold = false := hfree
    refine ⟨_, next_congr (if_neg (present hin)), State.moduleReset_resets hold, ?_,
      (State.bit_moduleReset hold _).trans (State.bit_cause _ _ (by decide) rfl)⟩
    rw [State.moduleReset_now hold]
    rfl
  case assertHeld =>
    have hold : ((s.modSys fun y => { y with rstLow := true }).cause MOD_SB_CAUSE.PIN_RESET).sys.hold = true := hheld
    exact ⟨_, next_congr ((if_neg (present hin)).trans (State.moduleReset_held hold)), rfl⟩
  case resetReq =>
    have asks : exec (.resetReq v) s = .next (s.sbReset ((v.zeroExtend 64).getLsbD 1) (v.zeroExtend 64)) :=
      next_congr ((if_pos ⟨hin, h0⟩).trans (State.sbCtl_resets (.inl (low.trans h0))))
    obtain ⟨hreset, hcause⟩ := State.sbReset_resets hfree ((v.zeroExtend 64).getLsbD 1) (v.zeroExtend 64)
    exact ⟨_, asks, hreset, hcause⟩
  case noReset => exact next_congr (if_neg fun h => ne_true_of_eq_false h0 h.2)
  case clear =>
    have asks : exec (.jnlClear v) s = .next (s.sbReset true (v.zeroExtend 64)) := by
      refine next_congr ((if_pos ⟨hin, h1⟩).trans ?_)
      rw [State.sbCtl_resets (.inr (second.trans h1)), second, h1]
    obtain ⟨hreset, hcause⟩ := State.sbReset_resets hfree true (v.zeroExtend 64)
    exact ⟨_, asks, hreset, State.blk_sbReset hfree _, hcause⟩
  case noClear => exact next_congr (if_neg fun h => ne_true_of_eq_false h1 h.2)
  case shut =>
    refine ⟨⟨_, next_congr (if_neg (present hin)), State.shutDown_down false (by decide) rfl⟩,
      ⟨_, next_congr (if_neg (present hin)), ⟨rfl, State.bit_cause _ _ (by decide) rfl, ?_, rfl⟩, rfl⟩,
      ⟨_, next_congr (if_neg (present hin)), State.shutDown_down true (by decide) rfl, rfl⟩,
      ⟨_, next_congr (if_neg (present hin)), State.shutDown_down true (by decide) rfl, rfl⟩,
      ⟨_, next_congr (if_neg (present hin)), State.shutDown_down true (by decide) rfl, rfl⟩, next_congr (if_neg (present hin))⟩
    simp [State.starting, State.cause, State.modSys]
  case release =>
    have hold : (s.modSys fun y => { y with ovp := false }).sys.hold = false := hfree
    refine ⟨_, next_congr (if_pos hovp), State.moduleReset_resets hold, ?_⟩
    rw [State.moduleReset_now hold]
    rfl
  case expire =>
    have hold : (s.modSys fun y => { y with hold := false, resetWait := false }).sys.hold = false := rfl
    refine ⟨_, next_congr (if_pos hwait), State.moduleReset_resets hold, ?_⟩
    rw [State.moduleReset_now hold]
    rfl
  case noWait => exact next_congr (if_neg (ne_true_of_eq_false hwait))
  case flash =>
    have small : a / 4 + 1 < 2 ^ 24 := by omega
    refine ⟨_, next_congr (State.sbFlash_reads hin ha hlow), rfl, ?_, rfl⟩
    show MOD_SB_FLASH_ADDR.ADDR.get ((s.setFld MOD_SB_FLASH_ADDR MOD_SB_FLASH_ADDR.ADDR (a / 4 + 1)).rd MOD_SB_FLASH_ADDR) = _
    rw [State.rd_setFld_same, Fld.get_put _ _ _ (by decide)]
    exact Nat.mod_eq_of_lt small
  case alert =>
    refine next_congr ?_
    unfold State.alertAnswer
    simp only [hin, true_and]
  case resend =>
    refine ⟨_, next_congr (if_pos hon), State.rd_corrected_count s (by decide) .., ?_⟩
    exact s.d2dResend_rest d vert
  case train =>
    rintro l rfl
    refine ⟨fun h => next_congr (s.d2dTrained_other h ok), fun h => ⟨next_congr (s.d2dTrained_ends h true), _,
      next_congr ((s.d2dTrained_ends h false).trans (if_neg Bool.false_ne_true)), State.fatal_stops ..⟩⟩

end Sys2Proof.Machine
end
